-- ==== Sys2Proof/Word.lean ====
section
/-! DEFINITION. The word types of the model and the bit and byte types every other file names. -/

namespace Sys2Proof

/-- One byte: the unit of every in-memory structure (R2). -/
abbrev Byte := BitVec 8
abbrev W16 := BitVec 16
abbrev W32 := BitVec 32
abbrev W64 := BitVec 64
/-- One bit for each tile of the package (R10). -/
abbrev TileMask := BitVec 48

end Sys2Proof
end

