-- ==== Sys2Proof/Syntax.lean ====
section
/-! DEFINITION. The commands of the ZUR1216: one constructor for each row of spec/opcode_table.json, with the operands
that the spec gives the step, and the operand types. Numbers of units (queues, tiles, dies, slices, ...) are `Nat`;
what the spec treats as words is a bit vector. A choice or a measurement that the spec leaves to the package or to
the outside world (which queue is fetched next, a sensor's reading, a training's outcome) is an operand. -/

namespace Sys2Proof

/-- Which part of a 64-bit register or doorbell a write covers (R5, R220). -/
inductive Half where
  | full | low | high
  deriving DecidableEq, Repr

/-- Through which register view an access arrives (R402, R403): PF0's BAR0, a VF's BAR0, the sideband or the DAP. -/
inductive View where
  | pf0 | vf (n : Nat) | sideband | dap
  deriving DecidableEq, Repr

/-- How a reset step is requested (R421, R422): by an admitted command, by a `HUB_RESET_CMD` write, or by the sideband. -/
inductive ResetReq where
  | cmd (id : Nat)
  | reg (value : W64)
  | sideband (value : W64)
  deriving DecidableEq, Repr

/-- The group an instruction issues for, and the address of the instruction after it in sequence: the spec gives the
general cores' instructions no encoding and so no length. -/
structure Issue where
  die : Nat
  core : Nat
  group : Nat
  npc : W64
  deriving DecidableEq, Repr

/-- A source operand of a general-core instruction. -/
inductive Src where
  | reg (r : Nat)
  | imm (v : W32)
  deriving DecidableEq, Repr

/-- The arithmetic and logic operations of Table 03-1. -/
inductive AluOp where
  | fadd | fmul | ffma | frcp | fsqrt | frsqrt | fexp2 | flog2 | fsin | fcos
  | iadd | isub | imul | iand | ior | ixor | inot | ishl | ishr | isar | imin | imax | iminu | imaxu | ieq | ilt | iltu
  | hfmaBF16 | hfmaFP16
  | dadd | dmul | dfma
  deriving DecidableEq, Repr

/-- How a load or store reaches memory (R88). -/
inductive MemMark where
  | cached | bypass | narrow
  deriving DecidableEq, Repr

/-- The atomic operations of R89. -/
inductive AtomOp where
  | add | min | max | and | or | xor | xchg | cas | fadd
  deriving DecidableEq, Repr

/-- What reading one sector of HBM met (R129). -/
inductive EccEvent where
  | clean | corrected | uncorrectable | odCorrected | odUncorrectable
  deriving DecidableEq, Repr

/-- Origin of an operation under a replay window (R182): issuing package, engine and tag. -/
structure RTag where
  pkg : Nat
  eng : Nat
  tag : W32
  deriving DecidableEq, Repr

/-- What a request carries besides its line (Tables 05-5 and 05-6). -/
structure ReqHdr where
  tag : Nat
  src : Nat
  key : Nat
  epoch : W32
  owner : W16
  ctx : Nat
  deriving DecidableEq, Repr

/-- A message on a link (R319): its class and operation, its destination and source packages, the hop it is on, the
16-byte slots it takes, and what the home needs to perform it. -/
inductive LinkBody where
  | read (addr : W64) (len : Nat) (key : Nat)
  | write (addr : W64) (data : List Byte) (poison : Bool) (key : Nat) (stream : Nat) (span : Nat)
  | final (addr : W64) (value : W64) (key : Nat) (stream : Nat) (span : Nat) (count : Nat)
  | atomic (addr : W64) (op : AtomOp) (size : Nat) (a b : W64) (key : Nat) (rt : RTag) (stream span : Nat)
  | addLine (addr : W64) (sectors spoil : BitVec 4) (rop : Nat) (exact : Bool) (anchor : Int) (payload : List Byte)
      (key : Nat) (rt : RTag) (stream span : Nat)
  | complete (status : W16) (old : W64)
  | data (bytes : List Byte) (poison : BitVec 4)
  | refused
  | train (pkg link vlo vhi compat : Nat)
  | time (depart echo echoArr : Nat) (root depth : Nat)
  | coll (ctx : Nat) (epoch : W64) (number : Nat) (digest : W32) (hash : W32) (rank : Nat)
  | abort (epoch : W64)
  | mgmt (bytes : List Byte)
  | cap (bytes : List Byte)
  deriving DecidableEq, Repr

/-- Message classes on a link (R319, Table 10-1). -/
inductive LinkClass where
  | req | ctl | rsp | dat
  deriving DecidableEq, Repr

structure LinkMsg where
  cls : LinkClass
  dst : Nat
  src : Nat
  ctx : Nat
  tag : Nat
  hop : Nat
  slots : Nat
  body : LinkBody
  deriving DecidableEq, Repr

/-- A received flit (Table 10-1). `good` says that its CRC is good and no uncorrectable codeword touched it. -/
structure Flit where
  good : Bool
  idle : Bool
  seq : BitVec 12
  ack : BitVec 12
  nak : Bool
  credits : List (LinkClass × Nat × Nat)
  msgs : List LinkMsg
  deriving DecidableEq, Repr

/-- A host access to BAR4 (R394). -/
inductive HostAcc where
  | read (len : Nat)
  | write (data : List Byte) (hint : Nat)
  deriving DecidableEq, Repr

/-- A guest's request (R348, Table 10-12). -/
inductive GuestReq where
  | rdOnce (va : W64) (len : Nat)
  | wrLine (va : W64) (data : List Byte) (hint : Nat)
  | wrPtl (va : W64) (data : List Byte) (hint : Nat)
  | atomic (va : W64) (op : AtomOp) (size : Nat) (a b : W64)
  | addLine (va : W64) (sectors : BitVec 4) (rop : Nat) (exact : Bool) (anchor : Int) (payload : List Byte)
  deriving DecidableEq, Repr

/-- What one attempt to bring up a stack, a link or a site came to (R122, Table 10-5, R345). -/
inductive TrainOutcome where
  | ok (arg : Nat)
  | fail (cause : Nat)
  deriving DecidableEq, Repr

/-- What cast-on and reset step 4 find in the parts that the model does not look inside (R468): the ROM's self-test,
each firmware copy's images, the regulator stage, each site's identity word, each stack's training. -/
structure BootInputs where
  romOk : Bool
  flashOk : Bool
  copyABad : Bool
  copyBBad : Bool
  stageOk : Bool
  dieWords : List (Option W64)
  hubWord : W64
  stackRate : List (Option Nat)
  hardRepairOk : Bool
  deriving DecidableEq, Repr, Inhabited

/-- A resource that applies a configuration epoch at its own quiescent point (Table 09-9). -/
inductive CfgResource where
  | panelW (p : Nat)
  | linkShare (p : Nat)
  | dscrSeg (die seg : Nat)
  | ctxClass (ctx : Nat)
  deriving DecidableEq, Repr

/-- One temperature reading (R381, R481): sensor group (0-11 CDn, 12-15 BDq, 16 hub, 17-24 OEe), index, °C. -/
structure Reading where
  unit : Nat
  index : Nat
  celsius : Int
  deriving DecidableEq, Repr

/-- An access through the debug access port (R460). -/
inductive DapAcc where
  | readReg (off : Nat)
  | writeReg (off : Nat) (value : W64)
  | readMem (addr : Nat) (len : Nat) (key : Nat)
  | writeMem (addr : Nat) (data : List Byte) (key : Nat)
  deriving DecidableEq, Repr

/-- The commands (spec/opcode_table.json, one row each, in its order). -/
inductive Instr where
  -- queues, doorbells and completions (07)
  | doorbellTail (func q : Nat) (half : Half) (index : W32)
  | doorbellHead (func q : Nat) (half : Half) (index : W32)
  | doorbellArm (func q : Nat) (index : W32)
  | interruptCoalTimeout (q : Nat)
  | commandFetch (q : Nat)
  | commandComplete (id : Nat)
  -- memory movement (07.8)
  | copy (id : Nat)
  | gather (id : Nat)
  | scatter (id : Nat)
  | fill (id : Nat)
  | reduce (id : Nat)
  -- arrays and launches (02.8, 03.8)
  | gemm (id : Nat) (tiles : TileMask)
  | actTableLoad (id : Nat)
  | launch (id : Nat) (cores : List Nat)
  | resumeGroup (id : Nat)
  | workDeclare (id : Nat)
  -- collectives (07.9)
  | allReduce (id : Nat) (others : List (Nat × List Byte))
  | reduceScatter (id : Nat) (others : List (Nat × List Byte))
  | allGather (id : Nat) (others : List (Nat × List Byte))
  | broadcast (id : Nat) (others : List (Nat × List Byte))
  | barrier (id : Nat)
  | collectiveTimeout (id : Nat)
  -- row sequencer (08)
  | rsqConfig (id : Nat)
  | rsqStart (id : Nat)
  | rsqStop (id : Nat)
  | seqCancel (id : Nat)
  | poolResize (id : Nat)
  | seqEntryFetch (q slot : Nat)
  | rowStageIssue (panel : Nat)
  | rowBoundary (panel : Nat)
  | rowCommandFault (panel id : Nat)
  -- queue control (07.10)
  | fence (id : Nat)
  | signal (id : Nat)
  | wait (id : Nat)
  | waitRecheck (id : Nat)
  | waitTimeout (id : Nat)
  | eventPost (id : Nat)
  | nop (id : Nat)
  -- power commands (11.10)
  | capSet (id : Nat)
  | slewSet (id : Nat)
  | shedLevelSet (id : Nat)
  | shed (id : Nat)
  | restore (id : Nat)
  | gaugeSet (id : Nat)
  | domainSwitch (id : Nat)
  | domainSwitchDone (d : Nat)
  | reserve (id : Nat)
  -- panels and staged configuration (09)
  | panelCreate (id : Nat)
  | panelDestroy (id : Nat)
  | panelRebind (id : Nat)
  | configStage (id : Nat)
  | configCommit (id : Nat)
  | configApply (r : CfgResource)
  | configRollback
  | stagedRegisterWrite (off : Nat) (half : Half) (value : W64)
  -- queues and contexts (07.4)
  | queueCreate (id : Nat)
  | queueDestroy (id : Nat)
  | ctxCreate (id : Nat)
  | ctxDestroy (id : Nat)
  -- resets (13)
  | ctxFrog (req : ResetReq)
  | engineReset (req : ResetReq)
  | panelReset (req : ResetReq)
  | packageReset (req : ResetReq) (b : BootInputs)
  | resetOverrun
  -- functions (12)
  | vfCreate (id : Nat)
  | vfDestroy (id : Nat)
  -- observation commands (14)
  | counterSet (id : Nat)
  | snapshot (id : Nat)
  | samplerSet (id : Nat)
  | stitchSet (id : Nat)
  | dump (id : Nat)
  | dumpCopy (n : Nat)
  -- maintenance (07.10, 06.8)
  | l1Inv (id : Nat)
  | xlatInv (id : Nat)
  -- migration, attestation, firmware (12, 15)
  | migFreeze (id : Nat)
  | migSave (id : Nat)
  | migRestore (id : Nat)
  | attest (id : Nat)
  | fwStage (id : Nat) (flashOk : Bool)
  | fwActivate (id : Nat)
  -- general-core instructions (03)
  | aluOp (i : Issue) (op : AluOp) (rd : Nat) (a b c : Src)
  | convert (i : Issue) (from_ dest : Nat) (sat stoch : Bool) (rd : Nat) (a index tensor : Src)
  | branch (i : Issue) (cond : Nat) (target marker : W64)
  | xchPick (i : Issue) (w rd v r : Nat)
  | xchRot (i : Issue) (w rd v d : Nat)
  | xchSwap (i : Issue) (w rd v m : Nat)
  | xchRev (i : Issue) (w rd v : Nat)
  | tallyAny (i : Issue) (w rd p : Nat)
  | tallyAll (i : Issue) (w rd p : Nat)
  | tallyMask (i : Issue) (w rd p : Nat)
  | tallyCount (i : Issue) (w rd p : Nat)
  | tallyBelow (i : Issue) (w rd p : Nat)
  | tallyLead (i : Issue) (w rd p : Nat)
  | meet (i : Issue) (w : Nat)
  | rdvWait (i : Issue) (r : Nat)
  | rdvSignal (i : Issue) (r : Nat)
  | threadExit (i : Issue)
  | load (i : Issue) (mark : MemMark) (size rd ra : Nat) (off : W64)
  | store (i : Issue) (mark : MemMark) (size rv ra : Nat) (off : W64) (stream : Nat)
  | atomicInstr (i : Issue) (op : AtomOp) (size rd ra rb rc : Nat)
  | ll (i : Issue) (size rd ra : Nat)
  | sc (i : Issue) (size rd ra rv : Nat)
  | addToLine (i : Issue) (ra rp : Nat) (sectors : BitVec 4) (rop : Nat) (exact : Bool) (anchor : Int)
  | fenceT (i : Issue)
  | fenceP (i : Issue)
  | fenceG (i : Issue)
  | l1wb (i : Issue) (ra rl : Nat)
  | l1inv (i : Issue) (ra rl : Nat)
  | l1wbAll (i : Issue)
  | l1invAll (i : Issue)
  | l1lock (i : Issue) (n : Nat)
  | l1pre (i : Issue) (rd ra rl : Nat)
  | l1unlock (i : Issue)
  | l1FillReturn (die core line : Nat)
  | evictionDrain (die core : Nat)
  | blockStart (id die core : Nat)
  | kernelEnd (id die core : Nat)
  | parkTimeout (id block group : Nat)
  | launchOverrun (id die core : Nat)
  | haltDeferTimeout (die core group : Nat)
  -- tiles: LC and BE units (09)
  | lcDispatch (id : Nat)
  | preemptStopDone (t : Nat)
  | stashDone (t : Nat) (accepted : Bool)
  | preemptAbandon (t : Nat)
  | beUnitStart (t id : Nat)
  | quantumEnd (t : Nat)
  | unitResume (t image : Nat) (crcOk : Bool)
  | compaction (t : Nat)
  | respread (t : Nat)
  -- the coherence protocol (05)
  | rdShr (h : ReqHdr) (slice line : Nat)
  | rdOwn (h : ReqHdr) (slice line : Nat) (readMiss : Bool)
  | upgrade (h : ReqHdr) (slice line : Nat)
  | rdOnce (h : ReqHdr) (line : Nat)
  | wrLine (h : ReqHdr) (line : Nat) (data : List Byte) (hint : Nat)
  | wrPtl (h : ReqHdr) (line : Nat) (mask : BitVec 128) (data : List Byte) (hint : Nat)
  | atomic (h : ReqHdr) (addr : Nat) (op : AtomOp) (size : Nat) (a b : W64) (rt : Option RTag)
  | addLine (h : ReqHdr) (line : Nat) (sectors : BitVec 4) (rop : Nat) (exact carry : Bool) (anchor : Int)
      (payload : List Byte) (rt : RTag)
  | snpShr (slice line : Nat)
  | snpInv (slice line : Nat)
  | snpFetch (slice line : Nat) (ecc : EccEvent)
  | invAck (slice line : Nat)
  | wbInFlight (slice line : Nat)
  | complete (tag : Nat)
  | wbAck (slice line : Nat)
  | evictClean (slice line : Nat)
  | dirFree (slice line : Nat)
  | credit (slice bank : Nat)
  | data (dst line : Nat)
  | wbData (slice line : Nat)
  | holdExpire (slice line : Nat)
  | replayWindowExpire (slice pkg eng : Nat)
  | requestTimeout (tag : Nat)
  -- HBM and keys (04)
  | hbmRefresh (h pc : Nat) (allBank rfm : Bool)
  | hbmRecentre (h pc : Nat)
  | hbmTempRead (h : Nat) (celsius : Int)
  | patrolScrub (h sector pc bank row : Nat) (ecc : EccEvent)
  | stackOutOfService (h : Nat)
  | keyGenerate (slot : Nat)
  | keyErase (slot : Nat)
  | keyImport (slot : Nat)
  | keyExport (slot : Nat)
  | softPpr (h pc bank row : Nat)
  | hardPprAdd (h pc bank row : Nat)
  | hardPprRemove (h pc bank row : Nat)
  | swatchStart (h : Nat)
  | swatchStop (h : Nat)
  | swatchDone (h : Nat)
  -- reads with a side effect
  | hbmEccCountRead (h : Nat) (half : Half)
  | hbmEccLogRead (h : Nat) (half : Half)
  | hbmRepairLogRead (h : Nat) (half : Half)
  | hbmRepairLogWrite (h : Nat)
  | uccSliceErrRead (q : Nat) (half : Half)
  | uccDirStatusRead (q : Nat) (half : Half)
  | uccSkeinStatusRead (q : Nat) (half : Half)
  | xltCountsRead (unit : Nat) (half : Half)
  | queFnStatusRead (v : View) (half : Half)
  | rsqCountsRead (v : View) (p : Nat) (half : Half)
  | pnlCountsRead (v : View) (p : Nat) (half : Half)
  | pnlDispatchRead (v : View) (p : Nat) (half : Half)
  | lnkErrRead (l : Nat) (half : Half)
  | lnkFecRead (l : Nat) (half : Half)
  | lnkGStatusRead (half : Half)
  | gstErrRead (site : Nat) (half : Half)
  | pwrDroopRead (half : Half)
  | hubFltStatusRead (half : Half)
  | hubLeaseStatusRead (half : Half)
  | obsSmpStatusRead (half : Half)
  | obsCsmpStatusRead (half : Half)
  | srvInputStatusRead (half : Half)
  | registerWrite (v : View) (off : Nat) (half : Half) (value : W64)
  -- functions and host access (12)
  | mbxM2tTail (f : Nat) (value : W32)
  | mbxM2tHead (f : Nat) (value : W32)
  | mbxT2mTail (f : Nat) (value : W32)
  | mbxT2mHead (f : Nat) (value : W32)
  | hostApertureAccess (f : Nat) (off : Nat) (acc : HostAcc)
  | guestRequest (site : Nat) (req : GuestReq)
  | flrVf (f : Nat)
  | flrPf0
  | hp0PerstAssert (durNs : Nat) (b : BootInputs)
  | hp1PerstAssert
  -- links (10)
  | flitReceive (l : Nat) (f : Flit)
  | nakResend (l : Nat)
  | replayTimeout (l : Nat)
  | linkRecovery (l : Nat) (lockLoss : Bool)
  | linkRecoveryFail (l : Nat)
  | linkTrain (l : Nat) (o : TrainOutcome)
  | linkRetrain (l : Nat)
  | laserInputLoss (e w : Nat) (durNs : Nat)
  | ctlTrain (l pkg peerLink vlo vhi compat : Nat)
  | ctlTime (l : Nat) (t1 t2 t3 t4 : Nat) (root depth : Nat)
  | timeExchange (l : Nat)
  | timeRelock
  | timeHoldover
  | ctlRefused (tag : Nat)
  | refusedResend (tag : Nat)
  | ctlColl (ctx : Nat) (epoch : W64) (number : Nat) (digest hash : W32) (rank : Nat)
  | ctlAbort (epoch : W64)
  | ctlMgmt (l : Nat) (bytes : List Byte)
  | ctlCap (site : Nat) (block : List Byte)
  | e2eTimeout (tag : Nat)
  | finalTimeout (pkg ctx stream : Nat)
  | ppsEdge (highNs : Nat)
  | guestRetrain (site : Nat) (o : TrainOutcome)
  | guestCapTimeout (site : Nat)
  | guestIsolate (site : Nat) (linkFailed : Bool)
  | guestPowerExceeded (site watts : Nat) (durNs : Nat)
  -- power, thermal, supplies (11, 15, 16)
  | controlPeriod (fastMw : Nat) (loadMw : List Nat)
  | measureWindow (nJ : Nat) (vin10mV iin100mA baseW : Nat)
  | powerBackstop
  | droopResponse (die lateBeats : Nat)
  | sensorRead (rs : List Reading)
  | thermalTrip (unit : Nat) (celsius : Int)
  | shedNAssert (stableNs : Nat)
  | shedNDeassert (stableNs : Nat)
  | clockHoldoverEnter
  | clockHoldoverExit
  | pllLockLoss (d : Nat)
  | vin48Undervoltage (durNs : Nat)
  | vin48Overvoltage (durNs : Nat)
  | v3p3Undervoltage (durNs : Nat)
  | regulatorFault (durNs : Nat)
  | trayRstAssert (stableNs : Nat)
  | castOn (b : BootInputs)
  | vin48InRange (b : BootInputs)
  | bindOff (v : View) (value : W64)
  | bindOffDrainExpire
  -- observation events (14)
  | counterFreeze (on : Bool) (skewNs : Nat)
  | samplerRecord (skewNs : Nat)
  | coreSample (die core group : Nat) (skid : Nat) (stalled : Bool)
  | bwWindow
  -- debug (14.8)
  | dbgHaltGroup (die core group : Nat)
  | dbgHaltCore (die core : Nat)
  | dbgResumeGroup (die core group : Nat)
  | dbgResumeCore (die core : Nat)
  | dbgStepGroup (die core group : Nat)
  | dbgRegAccess (wr : Bool) (value : W32)
  | dbgStepGo (t : Nat)
  | lcHaltEnable (on : Bool)
  | lcHaltActivate
  -- test access port (14.7)
  | tapExtest
  | tapIdcode
  | tapSamplePreload (v : W64)
  | tapClamp
  | tapHighz
  | tapBypass (code : Byte)
  | tapDap
  | tapReset
  | dapAuthorise (serial : W32) (signatureOk : Bool)
  | dapAccess (a : DapAcc)
  -- sideband (15, 16)
  | spdmRequest (bytes : List Byte) (known : Bool)
  | fleetKeySet (key : BitVec 256) (sessionOk : Bool)
  | pldmGetSensor (sid : Nat)
  | pldmFwUpdate (image : List Byte) (bundleOk : Bool) (b : BootInputs)
  | droopRecovery (die : Nat)
  | perstNDeassert (port : Nat)
  | atsInvalidation (f : Nat) (va : W64) (len : Nat)
  | pldmSetEffecter (eid : Nat) (value : W64)
  | controllerFault (c : Nat)
  deriving DecidableEq, Repr

end Sys2Proof
end

