-- ==== Sys2Proof/Config.lean ====
section
/-! DEFINITION. The FREE VALUES of the model, opaque constants without a
body for every value that the spec leaves undefined, unstated or random. Nothing in Lean can evaluate one, so a statement
holds for every value. Log entry 2 lists them. -/

namespace Sys2Proof.Config

/-! ### Free values: memory -/
/-- A byte of HBM that nothing has written since power-up, or whose frame changed mode (R508, R127), as read under a key:
how often the frame's contents were lost, local address, identity of the reader's key. -/
opaque freeByte : Nat → Nat → Nat → Byte
/-- A byte of a sector written under one key and read under another (R140): reader's key, writer's key, local address, and
the bytes of the sector as the writer wrote them. -/
opaque garble : Nat → Nat → Nat → List Byte → Byte
/-- A byte of host memory that the package has not written: host-window offset. The host's memory is outside the package. -/
opaque hostByte : Nat → Byte
/-- A byte that a guest's target window answers (R349): window address and a fresh number for each read. -/
opaque guestByte : Nat → Nat → Byte
/-- Contents that the spec calls undefined (R8, R234, R141): a fresh number and the index of the byte. -/
opaque undefByte : Nat → Nat → Byte
/-- The wrapped blob of a key under a wrapping key (R141, RFC 3394): identity of the key, of the wrapping key, byte index. -/
opaque wrapByte : Nat → Nat → Nat → Byte
/-- Whether 40 bytes pass the RFC 3394 integrity check under a wrapping key, for a blob that this package did not make. -/
opaque wrapOk : Nat → List Byte → Bool

/-! ### Free values: numbers and measurements -/
/-- An integer the spec leaves to the package or to a measurement: a fresh number. -/
opaque freeNat : Nat → Nat
/-- A 64-bit free value: a fresh number. -/
opaque freeWord : Nat → BitVec 64
/-- Beats that a command occupied its units within the bounds of R74, R228: the command's TAG and a fresh number. -/
opaque beats : Nat → Nat → Nat
/-- The estimate, in fJ, of a command's or unit's work by Table 11-5 (R385): a fresh number. -/
opaque workEnergy : Nat → Nat

/-- The estimate that an account receives in a window (R384): a fresh number and the account. -/
opaque estimate : Nat → Nat → Nat

/-! ### Free values: arithmetic whose result the spec does not state -/
/-- A transcendental of the general cores (Table 03-1): operation number and operand bits. -/
opaque transc : Nat → BitVec 32 → BitVec 32
/-- The NaN that an operation of the general cores gives, where the spec fixes no NaN bits: operation number and operands. -/
opaque nanBits : Nat → BitVec 32 → BitVec 32 → BitVec 32 → BitVec 32
/-- The same for the FP64 operations. -/
opaque nan64 : Nat → BitVec 64 → BitVec 64 → BitVec 64 → BitVec 64
/-- A shift of a general core by 32 or more: operation number, value and distance. -/
opaque shiftBeyond : Nat → BitVec 32 → BitVec 32 → BitVec 32
/-- A conversion of a general core to INT4 or INT32 of a value outside the format's range: format and FP32 bits. -/
opaque convBeyond : Nat → BitVec 32 → BitVec 32
/-- The activation functions of Table 02-4 given only by an accuracy (R58): slot and FP32 input bits. -/
opaque actFn : Nat → BitVec 32 → BitVec 32
/-- The exponential of the post-processor and of the acceptance rule (R56, R271): FP32 input bits. -/
opaque expFn : BitVec 32 → BitVec 32

/-- The digest of a collective's fields (R343): operation, LENGTH, ROP, EXACT, ANCHOR, ROOT and N as bytes. -/
opaque collDigest : List Byte → BitVec 32

/-- The vocabulary of the model that a row program runs (08.6), and a logit that its VERIFY stage produces: a fresh number, the position
in the row and the token. -/
opaque vocab : Nat
opaque logit : Nat → Nat → Nat → BitVec 32

/-! ### Free values: security and management -/
/-- The MGC's SPDM response to a request (R413): request bytes and a fresh number. -/
opaque spdmReply : List Byte → Nat → List Byte

end Sys2Proof.Config
end

