-- ==== Sys2Proof/Machine/Tab.lean ====
section
/-! DEFINITION. Tables: sparse maps from numbers to records in one canonical form (keys strictly rising), and the bit and
byte helpers that every other file uses. -/

namespace Sys2Proof.Machine

/-- A sparse map with a number as key, sorted by key, no key twice. -/
abbrev Tab (α : Type) := List (Nat × α)

def tget {α : Type} : Tab α → Nat → Option α
  | [], _ => none
  | (k, v) :: t, n => if n = k then some v else tget t n

def tput {α : Type} : Tab α → Nat → α → Tab α
  | [], n, x => [(n, x)]
  | (k, v) :: t, n, x =>
    if n < k then (n, x) :: (k, v) :: t else if n = k then (n, x) :: t else (k, v) :: tput t n x

def tdel {α : Type} : Tab α → Nat → Tab α
  | [], _ => []
  | (k, v) :: t, n => if n = k then t else (k, v) :: tdel t n

def thas {α : Type} (t : Tab α) (n : Nat) : Bool := (tget t n).isSome

def tgetD {α : Type} (t : Tab α) (n : Nat) (d : α) : α := (tget t n).getD d

/-- Change the entry of a key that has one. -/
def tmod {α : Type} (t : Tab α) (n : Nat) (f : α → α) : Tab α :=
  match tget t n with
  | some v => tput t n (f v)
  | none => t

/-- Change the entry of a key, starting from `d` where it has none. -/
def tupd {α : Type} (t : Tab α) (n : Nat) (d : α) (f : α → α) : Tab α := tput t n (f (tgetD t n d))

/-- Keys strictly rising, each above `lo`. -/
def tsortedFrom {α : Type} : Nat → Tab α → Bool
  | _, [] => true
  | lo, (k, _) :: t => decide (lo ≤ k) && tsortedFrom (k + 1) t

def tsorted {α : Type} (t : Tab α) : Bool := tsortedFrom 0 t

/-! ### Bits and bytes -/

/-- Bits [hi:lo] of a number. -/
def bits (n hi lo : Nat) : Nat := (n >>> lo) % 2 ^ (hi + 1 - lo)

def bit (n i : Nat) : Bool := n.testBit i

/-- `n` with bits [hi:lo] replaced by the low bits of `v`. -/
def setBits (n hi lo v : Nat) : Nat :=
  n - (bits n hi lo) * 2 ^ lo + (v % 2 ^ (hi + 1 - lo)) * 2 ^ lo

/-- A little-endian number from bytes (R2). -/
def leNat : List Byte → Nat
  | [] => 0
  | b :: t => b.toNat + 256 * leNat t

/-- The low `k` bytes of a number, little-endian (R2). -/
def leBytes : Nat → Nat → List Byte
  | 0, _ => []
  | k + 1, n => BitVec.ofNat 8 n :: leBytes k (n / 256)

/-- Bytes [off, off + len) of a list, as a little-endian number. -/
def leAt (l : List Byte) (off len : Nat) : Nat := leNat ((l.drop off).take len)

/-- `l` with the bytes at `off` replaced by `b`, its length kept. -/
def patch (l : List Byte) (off : Nat) (b : List Byte) : List Byte :=
  l.take off ++ b.take (l.length - off) ++ l.drop (off + b.length)

def zeros (n : Nat) : List Byte := List.replicate n 0

def w64 (n : Nat) : W64 := BitVec.ofNat 64 n
def w32 (n : Nat) : W32 := BitVec.ofNat 32 n
def w16 (n : Nat) : W16 := BitVec.ofNat 16 n

def ceilDiv (a b : Nat) : Nat := (a + b - 1) / b

def b2n (b : Bool) : Nat := if b then 1 else 0

/-- `a` saturated at the largest `k`-bit number. -/
def sat (k a : Nat) : Nat := min a (2 ^ k - 1)

/-- The set bits of a mask below `n`, in rising order. -/
def maskBits (m n : Nat) : List Nat := (List.range n).filter fun i => m.testBit i

def maskOf (l : List Nat) : Nat := l.foldl (fun m i => m ||| 2 ^ i) 0

/-- A two's complement number of `k` bits. -/
def signed (k n : Nat) : Int := if n.testBit (k - 1) then (n : Int) - (2 : Int) ^ k else n

/-- CRC-32C (Castagnoli), reflected, initial and final all ones, as one byte at a time. -/
def crc32cBit : Nat → Nat → Nat
  | 0, c => c
  | k + 1, c => crc32cBit k (if c.testBit 0 then (c >>> 1) ^^^ 0x82F63B78 else c >>> 1)

def crc32c (l : List Byte) : Nat :=
  (l.foldl (fun c b => crc32cBit 8 (c ^^^ b.toNat)) 0xFFFFFFFF) ^^^ 0xFFFFFFFF

/-- Exact times in ns as a fraction, for the deadline sums of R244. -/
structure Frac where
  num : Nat
  den : Nat
  deriving DecidableEq, Repr

def Frac.le (a b : Frac) : Bool := decide (a.num * b.den ≤ b.num * a.den)
def Frac.max (a b : Frac) : Frac := if a.le b then b else a
def Frac.add (a b : Frac) : Frac := ⟨a.num * b.den + b.num * a.den, a.den * b.den⟩
def Frac.ofNat (n : Nat) : Frac := ⟨n, 1⟩

end Sys2Proof.Machine
end

