-- ==== Sys2Proof/Machine/Flags.lean ====
section
/-! DEFINITION. Numbers and their notes: floating-point formats as exact dyadic values, rounding, and the comparisons, sums
and notes that the arrays, the cores and the cache's reductions share (02, 03, 05.9). -/

namespace Sys2Proof.Machine

/-- An IEEE-style format: exponent bits and fraction bits. -/
structure FFmt where
  eb : Nat
  mb : Nat
  deriving DecidableEq, Repr

def fp32 : FFmt := ⟨8, 23⟩
def bf16 : FFmt := ⟨8, 7⟩
def fp16 : FFmt := ⟨5, 10⟩
def fp64 : FFmt := ⟨11, 52⟩

def FFmt.bias (f : FFmt) : Int := 2 ^ (f.eb - 1) - 1
def FFmt.width (f : FFmt) : Nat := 1 + f.eb + f.mb
/-- Exponent of the least normal number. -/
def FFmt.emin (f : FFmt) : Int := 1 - f.bias
def FFmt.inf (f : FFmt) (neg : Bool) : Nat := b2n neg * 2 ^ (f.eb + f.mb) + (2 ^ f.eb - 1) * 2 ^ f.mb
/-- R61: the format's canonical NaN. -/
def FFmt.nan (f : FFmt) : Nat := (2 ^ f.eb - 1) * 2 ^ f.mb + 2 ^ (f.mb - 1)
def FFmt.maxFinite (f : FFmt) (neg : Bool) : Nat := f.inf neg - 1

/-- A value: NaN, an infinity, or exactly ± m × 2^e (m = 0: a signed zero). -/
inductive FVal where
  | nan
  | inf (neg : Bool)
  | fin (neg : Bool) (m : Nat) (e : Int)
  deriving DecidableEq, Repr

def fdecode (f : FFmt) (n : Nat) : FVal :=
  let neg := bit n (f.eb + f.mb)
  let ex := bits n (f.eb + f.mb - 1) f.mb
  let fr := n % 2 ^ f.mb
  if ex = 2 ^ f.eb - 1 then (if fr = 0 then .inf neg else .nan)
  else if ex = 0 then .fin neg fr (f.emin - f.mb)
  else .fin neg (2 ^ f.mb + fr) ((ex : Int) - f.bias - f.mb)

def bitLength (n : Nat) : Nat := if n = 0 then 0 else n.log2 + 1

/-- m × 2^-k rounded to an integer, to nearest even. -/
def rneShift (m k : Nat) : Nat :=
  let q := m >>> k
  let r := m % 2 ^ k
  let h := 2 ^ (k - 1)
  if k = 0 then m else if r < h then q else if h < r then q + 1 else if q % 2 = 0 then q else q + 1

/-- Round ± m × 2^e to a format with round-to-nearest-even; a result beyond the range is an infinity (IEEE 754). -/
def fround (f : FFmt) (neg : Bool) (m : Nat) (e : Int) : Nat :=
  let sgn := b2n neg * 2 ^ (f.eb + f.mb)
  if m = 0 then sgn
  else
    let top : Int := e + bitLength m - 1
    let q : Int := (if top < f.emin then f.emin else top) - f.mb
    let k : Nat := if q ≤ e then m <<< (e - q).toNat else rneShift m (q - e).toNat
    -- k counts units of 2^q; a carry into the next binade keeps the encoding contiguous
    let base : Int := if top < f.emin then 0 else (top - f.emin) * 2 ^ f.mb
    let v := (base + k).toNat
    if (2 ^ f.eb - 1) * 2 ^ f.mb ≤ v then sgn + (2 ^ f.eb - 1) * 2 ^ f.mb else sgn + v

def fencode (f : FFmt) : FVal → Nat
  | .nan => f.nan
  | .inf neg => f.inf neg
  | .fin neg m e => fround f neg m e

/-- An exact dyadic number m × 2^e. -/
structure Dyad where
  m : Int
  e : Int
  deriving DecidableEq, Repr

def Dyad.zero : Dyad := ⟨0, 0⟩

def Dyad.add (a b : Dyad) : Dyad :=
  let e := min a.e b.e
  ⟨a.m * 2 ^ (a.e - e).toNat + b.m * 2 ^ (b.e - e).toNat, e⟩

def Dyad.mul (a b : Dyad) : Dyad := ⟨a.m * b.m, a.e + b.e⟩
def Dyad.neg (a : Dyad) : Dyad := ⟨-a.m, a.e⟩

def Dyad.le (a b : Dyad) : Bool :=
  let e := min a.e b.e
  decide (a.m * 2 ^ (a.e - e).toNat ≤ b.m * 2 ^ (b.e - e).toNat)

/-- ⌊a × 2^-w⌋, and whether it is exact. -/
def Dyad.floorAt (a : Dyad) (w : Int) : Int × Bool :=
  if w ≤ a.e then (a.m * 2 ^ (a.e - w).toNat, true)
  else
    let d : Int := 2 ^ (w - a.e).toNat
    (a.m.fdiv d, decide (a.m.fmod d = 0))

def FVal.dyad : FVal → Dyad
  | .fin neg m e => ⟨if neg then -(m : Int) else m, e⟩
  | _ => Dyad.zero

def froundD (f : FFmt) (d : Dyad) : Nat := fround f (decide (d.m < 0)) d.m.natAbs d.e

/-- IEEE 754 sum rounded once to nearest even; an exact zero sum is +0 unless both operands are −0. `nan`: the result for a
NaN. -/
def faddR (f : FFmt) (nan a b : Nat) : Nat :=
  match fdecode f a, fdecode f b with
  | .nan, _ => nan
  | _, .nan => nan
  | .inf x, .inf y => if x = y then f.inf x else nan
  | .inf x, _ => f.inf x
  | _, .inf y => f.inf y
  | .fin sa ma ea, .fin sb mb eb =>
    let d := (FVal.fin sa ma ea).dyad.add (FVal.fin sb mb eb).dyad
    if d.m = 0 then (if sa && sb then 2 ^ (f.eb + f.mb) else 0) else froundD f d

/-- IEEE 754 product. -/
def fmulR (f : FFmt) (nan a b : Nat) : Nat :=
  match fdecode f a, fdecode f b with
  | .nan, _ => nan
  | _, .nan => nan
  | .inf x, .inf y => f.inf (x != y)
  | .inf x, .fin y m _ => if m = 0 then nan else f.inf (x != y)
  | .fin x m _, .inf y => if m = 0 then nan else f.inf (x != y)
  | .fin sa ma ea, .fin sb mb eb => fround f (sa != sb) (ma * mb) (ea + eb)

/-- IEEE 754 fused multiply-add a × b + c, rounded once. -/
def ffmaR (f : FFmt) (nan a b c : Nat) : Nat :=
  match fdecode f a, fdecode f b, fdecode f c with
  | .nan, _, _ => nan
  | _, .nan, _ => nan
  | _, _, .nan => nan
  | .fin sa ma ea, .fin sb mb eb, .fin sc mc ec =>
    let p : Dyad := ⟨(FVal.fin sa ma ea).dyad.m * (FVal.fin sb mb eb).dyad.m, ea + eb⟩
    let d := p.add (FVal.fin sc mc ec).dyad
    let ps := sa != sb
    if d.m = 0 then (if ma * mb = 0 ∧ mc = 0 then (if ps && sc then 2 ^ (f.eb + f.mb) else 0) else 0) else froundD f d
  | .fin _ _ _, .fin _ _ _, .inf z => f.inf z
  | x, y, z =>
    let zeroTimesInf : Bool := match x, y with
      | .inf _, .fin _ m _ => decide (m = 0)
      | .fin _ m _, .inf _ => decide (m = 0)
      | _, _ => false
    let sg (v : FVal) : Bool := match v with
      | .inf n => n
      | .fin n _ _ => n
      | .nan => false
    if zeroTimesInf then nan
    else match z with
      | .inf n => if n = (sg x != sg y) then f.inf n else nan
      | _ => f.inf (sg x != sg y)

/-- The order of finite values and infinities; false with a NaN. −0 is below +0, as R177 asks of max and min. -/
def fless (f : FFmt) (a b : Nat) : Bool :=
  let key (n : Nat) : Int := if bit n (f.eb + f.mb) then -(n % 2 ^ (f.eb + f.mb) : Nat) - 1 else (n : Int)
  decide (key a < key b)

def isNan (f : FFmt) (n : Nat) : Bool := decide (fdecode f n = .nan)

/-- R177: max and min of floating-point elements: a NaN in either operand gives canonical NaN. -/
def fmaxR (f : FFmt) (a b : Nat) : Nat := if isNan f a || isNan f b then f.nan else if fless f a b then b else a
def fminR (f : FFmt) (a b : Nat) : Nat := if isNan f a || isNan f b then f.nan else if fless f a b then a else b

/-! ### Notes of R248 -/
def noteInexact : Nat := 1
def noteOverflow : Nat := 2
def noteEarly : Nat := 4
def noteLate : Nat := 8

end Sys2Proof.Machine
end

