-- ==== Sys2Proof/Machine/Formats.lean ====
section
/-! DEFINITION. The number formats of the matrix arrays (02.2): element widths and values, block scales, and the conversion of FP32
values to an output format with its rounding modes and overflow rules (02.6). -/

namespace Sys2Proof.Machine

/-! ### Formats (Tables 02-1, 02-2) -/

def elemBits (c : Nat) : Nat :=
  match c with
  | 0 => 32 | 1 => 16 | 2 => 16 | 3 => 8 | 4 => 8 | 5 => 8 | 6 => 8 | 7 => 6 | 8 => 6 | 9 => 4 | 10 => 8 | 11 => 4 | 12 => 8 | 13 => 4
  | 14 => 32 | _ => 0

def isBlock (c : Nat) : Bool := decide (5 ≤ c) && decide (c ≤ 11)

/-- R43: bytes of a scale entry. -/
def scaleBytes (c : Nat) : Nat := if c = 11 then 2 else if isBlock c then 1 else 0

/-- An element without special values: sign, exponent and fraction fields. -/
def plainFloat (eb mb : Nat) (bias : Int) (n : Nat) : FVal :=
  let neg := bit n (eb + mb)
  let ex := bits n (eb + mb - 1) mb
  let fr := n % 2 ^ mb
  if ex = 0 then .fin neg fr (1 - bias - mb) else .fin neg (2 ^ mb + fr) ((ex : Int) - bias - mb)

def intVal (k : Nat) (n : Nat) (e : Int) : FVal :=
  let i := signed k n
  .fin (decide (i < 0)) i.natAbs e

/-- The value that an element encodes, without its block's scales. -/
def elemVal (c n : Nat) : FVal :=
  match c with
  | 0 => fdecode fp32 n
  | 1 => fdecode bf16 n
  | 2 => fdecode fp16 n
  | 3 | 5 => if n % 128 = 127 then .nan else plainFloat 4 3 7 n
  | 4 | 6 => fdecode ⟨5, 2⟩ n
  | 7 => plainFloat 2 3 1 n
  | 8 => plainFloat 3 2 3 n
  | 9 | 11 => plainFloat 2 1 1 n
  | 10 => intVal 8 n (-6)
  | 12 => intVal 8 n 0
  | 13 => intVal 4 n 0
  | _ => .fin false 0 0

/-- An operand element: its value with the DS4 sub-scale, its block's unbiased scale, whether the block is 32 NaNs, and its code. -/
structure El where
  v : FVal
  scale : Int
  bad : Bool
  raw : Nat
  deriving DecidableEq, Repr

def FVal.scaled (v : FVal) (k : Int) : FVal :=
  match v with
  | .fin n m e => .fin n m (e + k)
  | x => x

/-- R44: the sub-scale of element i of a DS4 block, from its scale entry. -/
def subScale (entry i : Nat) : Int := ((bits (entry / 256) (2 * (i % 32 / 8) + 1) (2 * (i % 32 / 8))) : Nat)

/-- Element `i` of a row, from the row's element bytes as a number and its scale entries. -/
def rowEl (c : Nat) (row : Nat) (scales : List Byte) (i : Nat) : El :=
  let n := bits row (elemBits c * (i + 1) - 1) (elemBits c * i)
  if isBlock c then
    let entry := leAt scales (scaleBytes c * (i / 32)) (scaleBytes c)
    let x := entry % 256
    let u := if c = 11 then subScale entry i else 0
    ⟨(elemVal c n).scaled u, (x : Int) - 127, decide (x = 255), n⟩
  else ⟨elemVal c n, 0, false, n⟩

def rowEls (c k : Nat) (b scales : List Byte) : List El :=
  let row := leNat b
  (List.range k).map (rowEl c row scales)

/-! ### Rounding (R61 to R63) -/

/-- R64: 24 random bits of an output element. -/
def roundBits (kctx tensor i : Nat) : Nat :=
  let m := 2 ^ 64
  let k := kctx * 2 ^ 32 + tensor
  let z := (i * 0x9E3779B97F4A7C15 + k * 0xD1B54A32D192ED03) % m
  let z := ((z ^^^ (z >>> 32)) * 0xBF58476D1CE4E5B9) % m
  let z := ((z ^^^ (z >>> 29)) * 0x94D049BB133111EB) % m
  bits (z ^^^ (z >>> 32)) 63 40

/-- R63: m × 2^-d rounded to an integer: to nearest even, or stochastically with 24 random bits. -/
def roundShift (r : Option Nat) (m d : Nat) : Nat :=
  match r with
  | none => rneShift m d
  | some r =>
    let d' := min d 24
    let t := (m % 2 ^ d) >>> (d - d')
    if 2 ^ d' ≤ t + r % 2 ^ d' then m >>> d + 1 else m >>> d

/-- A magnitude m × 2^e as units of 2^q. -/
def unitsAt (r : Option Nat) (m : Nat) (e q : Int) : Nat :=
  if q ≤ e then m <<< (e - q).toNat else roundShift r m (q - e).toNat

/-- The exponent and fraction fields, as one number, of m × 2^e rounded to a format without an upper limit on the exponent. -/
def magCode (mb : Nat) (bias : Int) (r : Option Nat) (m : Nat) (e : Int) : Nat :=
  if m = 0 then 0
  else
    let emin : Int := 1 - bias
    let top : Int := e + bitLength m - 1
    let q : Int := max top emin - mb
    let base : Int := if top < emin then 0 else (top - emin) * 2 ^ mb
    (base + unitsAt r m e q).toNat

/-- A floating-point element: fraction bits, bias, the code of the largest finite magnitude, the sign's place. -/
structure EFmt where
  mb : Nat
  bias : Int
  max : Nat
  sign : Nat
  deriving DecidableEq, Repr

def efmt (c : Nat) : EFmt :=
  match c with
  | 0 => ⟨23, 127, 0x7F7FFFFF, 31⟩
  | 1 => ⟨7, 127, 0x7F7F, 15⟩
  | 2 => ⟨10, 15, 0x7BFF, 15⟩
  | 3 | 5 => ⟨3, 7, 0x7E, 7⟩
  | 4 | 6 => ⟨2, 15, 0x7B, 7⟩
  | 7 => ⟨3, 1, 31, 5⟩
  | 8 => ⟨2, 3, 31, 5⟩
  | _ => ⟨1, 1, 7, 3⟩

/-- R61: the code of infinity, for the formats that have one. -/
def infCode (c : Nat) : Option Nat :=
  match c with
  | 0 => some 0x7F800000
  | 1 => some 0x7F80
  | 2 => some 0x7C00
  | 4 => some 0x7C
  | _ => none

/-- R61: canonical NaN of a format without a block scale. -/
def nanCode (c : Nat) : Nat :=
  match c with
  | 0 => 0x7FC00000
  | 1 => 0x7FC0
  | 2 => 0x7E00
  | 3 => 0x7F
  | 4 => 0x7E
  | _ => 0

/-- An overflowing value: the code and the overflow note. -/
def overflowCode (c : Nat) (sat neg : Bool) : Nat :=
  let s := b2n neg * 2 ^ (efmt c).sign
  if sat then s + (efmt c).max
  else match infCode c with
    | some i => s + i
    | none => nanCode c

/-- R61: INT8 output. -/
def toInt8 (r : Option Nat) : FVal → Nat × Bool
  | .nan => (0, false)
  | .inf neg => (if neg then 0x80 else 0x7F, true)
  | .fin neg m e =>
    let k := unitsAt r m e 0
    if neg then (if 128 < k then (0x80, true) else ((256 - k) % 256, false))
    else if 127 < k then (0x7F, true) else (k, false)

/-- R61, R63: an FP32 value converted to a format without a block scale: the element's code and whether it overflowed. -/
def toPlain (c : Nat) (sat : Bool) (r : Option Nat) (v : Nat) : Nat × Bool :=
  let x := fdecode fp32 v
  if c = 12 then toInt8 r x
  else match x with
    | .nan => (nanCode c, false)
    | .inf neg =>
      match sat, infCode c with
      | false, some i => (b2n neg * 2 ^ (efmt c).sign + i, false)
      | _, _ => (overflowCode c sat neg, true)
    | .fin neg m e =>
      let k := magCode (efmt c).mb (efmt c).bias (if c = 0 then none else r) m e
      if (efmt c).max < k then (overflowCode c sat neg, true) else (b2n neg * 2 ^ (efmt c).sign + k, false)

/-! ### Block-scaled output (R62) -/

def emaxElem (c : Nat) : Int :=
  match c with
  | 5 => 8 | 6 => 15 | 7 => 2 | 8 => 4 | 9 => 2 | 11 => 5 | _ => 0

/-- ⌊log2⌋ of a magnitude: none for zero; an infinity counts above every finite value. -/
def log2Mag : FVal → Option Int
  | .fin _ m e => if m = 0 then none else some (e + bitLength m - 1)
  | .inf _ => some 1000
  | .nan => none

def maxLog (l : List FVal) : Option Int :=
  l.foldl (fun o v => match o, log2Mag v with
    | none, x => x
    | x, none => x
    | some a, some b => some (max a b)) none

/-- One element at a step of 2^k; it saturates at the element's largest magnitude. -/
def toElem (c : Nat) (r : Option Nat) (k : Int) : FVal → Nat
  | .fin neg m e =>
    if c = 10 then
      let u := min 127 (unitsAt r m (e - k) (-6))
      if neg then (256 - u) % 256 else u
    else b2n neg * 2 ^ (efmt c).sign + min (efmt c).max (magCode (efmt c).mb (efmt c).bias r m (e - k))
  | .inf neg => if c = 10 then (if neg then 0x81 else 0x7F) else b2n neg * 2 ^ (efmt c).sign + (efmt c).max
  | .nan => 0

/-- R62: a block of 32 FP32 values: its elements' codes, its scale entry and whether it overflowed. The elements of a block of NaNs
and a DS4 block's sub-scales are then open; `free` gives them. -/
def toBlock (c : Nat) (sat : Bool) (rs : List (Option Nat)) (free : Nat → Nat) (vs : List Nat) : List Nat × Nat × Bool :=
  let xs := vs.map (fdecode fp32)
  let nans : List Nat := (List.range 32).map fun i => free i % 2 ^ elemBits c
  let subs (x : Int) : List Nat := (List.range 4).map fun g =>
    match maxLog ((xs.drop (8 * g)).take 8) with
    | none => 0
    | some l => (min 3 (max 0 (l - 2 - x))).toNat
  let entry (x : Int) : Nat :=
    (x + 127).toNat + if c = 11 then 256 * ((subs x).zipIdx.foldl (fun n p => n + p.1 * 4 ^ p.2) 0) else 0
  let codes (x : Int) : List Nat :=
    let u := subs x
    (xs.zip rs).zipIdx.map fun p => toElem c p.1.2 (x + if c = 11 then ((u.getD (p.2 / 8) 0 : Nat) : Int) else 0) p.1.1
  let bad : Nat := 255 + if c = 11 then 256 * (free 32 % 256) else 0
  if xs.any fun x => decide (x = .nan) then (nans, bad, xs.any fun x => match x with
    | .inf _ => true
    | _ => false)
  else match maxLog xs with
    | none => (codes (-127), entry (-127), false)
    | some l =>
      let x := l - emaxElem c
      if 127 < x then (if sat then (codes 127, entry 127, true) else (nans, bad, true))
      else
        let x := max (-127) x
        (codes x, entry x, false)

end Sys2Proof.Machine
end

