-- ==== Sys2Proof/Machine/CoreAlu.lean ====
section
/-! DEFINITION. Arithmetic of the general cores (Table 03-1, R84): IEEE 754 with round-to-nearest-even, integer and logic operations,
and conversions. What the spec does not state is a free value: the bits of a NaN, a shift by 32 or more, and a transcendental where
IEEE 754 does not fix it (log entry 42). -/

namespace Sys2Proof.Machine

/-! ### NaNs -/

/-- A quiet NaN of a format with the sign and payload bits of `x`. -/
def quietNan (f : FFmt) (x : Nat) : Nat := f.nan ||| (bits x (f.mb - 1) 0 + b2n (bit x (f.eb + f.mb)) * 2 ^ (f.eb + f.mb))

def coreNan (f : FFmt) (op a b c : Nat) : Nat := quietNan f (Config.nanBits op (w32 a) (w32 b) (w32 c)).toNat

def coreNan64 (op a b c : Nat) : Nat := quietNan fp64 (Config.nan64 op (w64 a) (w64 b) (w64 c)).toNat

/-! ### Reciprocals and roots, rounded once -/

/-- ⌊√n⌋, one bit at a time from 2^k down. -/
def isqrt : Nat → Nat → Nat → Nat
  | 0, _, r => r
  | k + 1, n, r => if (r + 2 ^ k) * (r + 2 ^ k) ≤ n then isqrt k n (r + 2 ^ k) else isqrt k n r

/-- A quotient of 1 by m × 2^e, with a last bit that says whether it is inexact. -/
def recipFin (f : FFmt) (neg : Bool) (m : Nat) (e : Int) : Nat :=
  let k := 96 + bitLength m
  fround f neg (2 * (2 ^ k / m) + b2n (decide (2 ^ k % m ≠ 0))) (-(k : Int) - 1 - e)

def frcpR (f : FFmt) (nan a : Nat) : Nat :=
  match fdecode f a with
  | .nan => nan
  | .inf neg => b2n neg * 2 ^ (f.eb + f.mb)
  | .fin neg m e => if m = 0 then f.inf neg else recipFin f neg m e

/-- m × 2^e with an even exponent and at least 2 × 64 bits. -/
def evenScaled (m : Nat) (e : Int) : Nat × Int :=
  let m' := if e % 2 = 0 then m else 2 * m
  let e' := if e % 2 = 0 then e else e - 1
  (m' * 2 ^ 128, e' - 128)

def fsqrtR (f : FFmt) (nan a : Nat) : Nat :=
  match fdecode f a with
  | .nan => nan
  | .inf neg => if neg then nan else f.inf false
  | .fin neg m e =>
    if m = 0 then a
    else if neg then nan
    else
      let (n, e) := evenScaled m e
      let r := isqrt 100 n 0
      fround f false (2 * r + b2n (decide (r * r ≠ n))) (e / 2 - 1)

def frsqrtR (f : FFmt) (nan a : Nat) : Nat :=
  match fdecode f a with
  | .nan => nan
  | .inf neg => if neg then nan else 0
  | .fin neg m e =>
    if m = 0 then f.inf neg
    else if neg then nan
    else
      let m' := if e % 2 = 0 then m else 2 * m
      let e' := if e % 2 = 0 then e else e - 1
      let n := 2 ^ 200 / m'
      let r := isqrt 101 n 0
      fround f false (2 * r + b2n (decide (r * r * m' ≠ 2 ^ 200))) (-100 - e' / 2 - 1)

/-! ### Transcendentals (log entry 42) -/

/-- An integer value. -/
def intOf : FVal → Option Int
  | .fin neg m e =>
    let mag : Option Nat := if 0 ≤ e then some (m * 2 ^ e.toNat) else if m % 2 ^ (-e).toNat = 0 then some (m / 2 ^ (-e).toNat) else none
    mag.map fun n => if neg then -(n : Int) else n
  | _ => none

def fexp2R (a : Nat) : Nat :=
  match fdecode fp32 a with
  | .nan => coreNan fp32 6 a 0 0
  | .inf neg => if neg then 0 else fp32.inf false
  | v => match intOf v with
    | some n => if n < -160 then 0 else if 200 < n then fp32.inf false else fround fp32 false 1 n
    | none => (Config.transc 6 (w32 a)).toNat

def flog2R (a : Nat) : Nat :=
  match fdecode fp32 a with
  | .nan => coreNan fp32 7 a 0 0
  | .inf neg => if neg then coreNan fp32 7 a 0 0 else fp32.inf false
  | .fin neg m e =>
    if m = 0 then fp32.inf true
    else if neg then coreNan fp32 7 a 0 0
    else if m = 2 ^ m.log2 then
      let n := (m.log2 : Int) + e
      fround fp32 (decide (n < 0)) n.natAbs 0
    else (Config.transc 7 (w32 a)).toNat

def fsinR (a : Nat) : Nat :=
  match fdecode fp32 a with
  | .fin _ m _ => if m = 0 then a else (Config.transc 8 (w32 a)).toNat
  | _ => coreNan fp32 8 a 0 0

def fcosR (a : Nat) : Nat :=
  match fdecode fp32 a with
  | .fin _ m _ => if m = 0 then 0x3F800000 else (Config.transc 9 (w32 a)).toNat
  | _ => coreNan fp32 9 a 0 0

/-! ### Integers -/

def wrap32 (i : Int) : Nat := (i % 2 ^ 32).toNat

def shiftR (op a d : Nat) (f : Nat) : Nat := if d < 32 then f else (Config.shiftBeyond op (w32 a) (w32 d)).toNat

/-- Two packed elements of a 16-bit format (Table 03-1). -/
def packedFma (f : FFmt) (op a b c : Nat) : Nat :=
  let one (x y z : Nat) : Nat := ffmaR f (coreNan f op x y z) x y z
  one (a % 65536) (b % 65536) (c % 65536) + 65536 * one (a / 65536) (b / 65536) (c / 65536)

/-- The 32-bit operations. -/
def alu32 (op : AluOp) (a b c : Nat) : Nat :=
  let n := coreNan fp32 op.ctorIdx a b c
  match op with
  | .fadd => faddR fp32 n a b
  | .fmul => fmulR fp32 n a b
  | .ffma => ffmaR fp32 n a b c
  | .frcp => frcpR fp32 n a
  | .fsqrt => fsqrtR fp32 n a
  | .frsqrt => frsqrtR fp32 n a
  | .fexp2 => fexp2R a
  | .flog2 => flog2R a
  | .fsin => fsinR a
  | .fcos => fcosR a
  | .iadd => (a + b) % 2 ^ 32
  | .isub => (a + 2 ^ 32 - b) % 2 ^ 32
  | .imul => a * b % 2 ^ 32
  | .iand => a &&& b
  | .ior => a ||| b
  | .ixor => a ^^^ b
  | .inot => 2 ^ 32 - 1 - a
  | .ishl => shiftR op.ctorIdx a b (a * 2 ^ b % 2 ^ 32)
  | .ishr => shiftR op.ctorIdx a b (a / 2 ^ b)
  | .isar => shiftR op.ctorIdx a b (wrap32 ((signed 32 a).fdiv (2 ^ b)))
  | .imin => wrap32 (min (signed 32 a) (signed 32 b))
  | .imax => wrap32 (max (signed 32 a) (signed 32 b))
  | .iminu => min a b
  | .imaxu => max a b
  | .ieq => b2n (decide (a = b))
  | .ilt => b2n (decide (signed 32 a < signed 32 b))
  | .iltu => b2n (decide (a < b))
  | .hfmaBF16 => packedFma bf16 op.ctorIdx a b c
  | .hfmaFP16 => packedFma fp16 op.ctorIdx a b c
  | .dadd | .dmul | .dfma => 0

def isF64 : AluOp → Bool
  | .dadd | .dmul | .dfma => true
  | _ => false

/-- The FP64 operations, on register pairs. -/
def alu64 (op : AluOp) (a b c : Nat) : Nat :=
  let n := coreNan64 op.ctorIdx a b c
  match op with
  | .dadd => faddR fp64 n a b
  | .dmul => fmulR fp64 n a b
  | _ => ffmaR fp64 n a b c

/-! ### Conversion (R84, log entry 43)

A register holds an element in its low bits; in a block format the low 16 bits hold the element and the upper 16 its block's scale
entry, and the block is the group's 32 lanes. -/

/-- The FP32 value of a register's contents in a format. -/
def convFrom (c lane v : Nat) : Nat :=
  if c = 0 then v
  else if c = 14 then let i := signed 32 v; fround fp32 (decide (i < 0)) i.natAbs 0
  else if isBlock c then
    let e := v / 65536
    if e % 256 = 255 then fp32.nan
    else
      let u := if c = 11 then subScale e lane else 0
      fencode fp32 (((elemVal c (v % 2 ^ elemBits c)).scaled u).scaled (((e % 256 : Nat) : Int) - 127))
  else fencode fp32 (elemVal c (v % 2 ^ elemBits c))

/-- An FP32 value rounded to an integer format of `k` bits; outside its range, or for a NaN, the spec states no value. -/
def toIntK (c k : Nat) (r : Option Nat) (v : Nat) : Nat :=
  let beyond := (Config.convBeyond c (w32 v)).toNat % 2 ^ k
  match fdecode fp32 v with
  | .fin neg m e =>
    let u := unitsAt r m e 0
    if neg then (if u ≤ 2 ^ (k - 1) then (2 ^ k - u) % 2 ^ k else beyond) else if u < 2 ^ (k - 1) then u else beyond
  | _ => beyond

/-- An FP32 value in a format without a block scale. -/
def convPlain (c : Nat) (sat : Bool) (r : Option Nat) (v : Nat) : Nat :=
  if c = 13 then toIntK 13 4 r v else if c = 14 then toIntK 14 32 r v else (toPlain c sat r v).1

/-- A value kept in its format. -/
def convSame (from_ dest : Nat) : Bool := decide (from_ = dest) && (decide (dest = 13) || decide (dest = 14))

/-- The 32 lanes' results in a block format; a lane that is not active counts as zero. -/
def convBlock (c : Nat) (sat : Bool) (rs : List (Option Nat)) (free : Nat) (vs : List Nat) : List Nat :=
  let x := toBlock c sat rs (fun j => Config.freeNat (free + j)) vs
  x.1.map fun e => e + 65536 * x.2.1

end Sys2Proof.Machine
end

