-- ==== Sys2Proof/Machine/Mem.lean ====
section
/-! DEFINITION. The package's byte memory over the local physical address map (Table 01-12): HBM with its per-sector key and
poison marker (R128 to R130, R137 to R140, R508), the tile scratchpads, the die scratch, and host memory as the package
sees it. Coherent memory has one home here (R155): whether a line is cached never changes these bytes. -/

namespace Sys2Proof.Machine

/-- What HBM keeps beside a sector: the identity of the key its bytes are encrypted under, and its poison marker. -/
structure Sector where
  key : Nat
  poison : Bool
  deriving DecidableEq, Repr

/-- Memory as plain data. `cells`: the bytes that differ from what an unlisted address reads as. `sect`: the HBM sectors
(address / 32) that something has written or poisoned since power-up. `lost`: how often a 64 GiB frame's contents became
undefined (R127). -/
structure Memory where
  cells : List Host.Cell
  sect : Tab Sector
  lost : Tab Nat
  deriving DecidableEq, Repr

/-- What a byte that is not listed reads as: zero in the scratchpads and the die scratch, which read as zero once their
domain is on (R27); no value in HBM and host memory, whose reads are then free values (R508; log entry 3). -/
def unlisted (a : Nat) : Option Byte :=
  if 0x800100000000 ≤ a ∧ a < 0x80020C000000 then some 0 else none

def cellGet : List Host.Cell → Nat → Option Byte
  | [], a => unlisted a
  | (k, v) :: t, a => if a = k then some v else cellGet t a

def cellDel : List Host.Cell → Nat → List Host.Cell
  | [], _ => []
  | (k, v) :: t, a => if a = k then t else (k, v) :: cellDel t a

def cellIns : List Host.Cell → Nat → Byte → List Host.Cell
  | [], a, b => [(a, b)]
  | (k, v) :: t, a, b =>
    if a < k then (a, b) :: (k, v) :: t else if a = k then (a, b) :: t else (k, v) :: cellIns t a b

/-- Write one byte and keep the canonical form: a byte equal to what an unlisted address reads as is not listed. -/
def cellPut (l : List Host.Cell) (a : Nat) (b : Byte) : List Host.Cell :=
  if unlisted a = some b then cellDel l a else cellIns l a b

/-- Addresses strictly rising from `lo` up, and no entry equal to what an unlisted address reads as. -/
def cellsWf : Nat → List Host.Cell → Bool
  | _, [] => true
  | lo, (k, v) :: t => decide (lo ≤ k) && decide (unlisted k ≠ some v) && cellsWf (k + 1) t

/-- The canonical form: equal memories are equal data. -/
def Memory.wf (m : Memory) : Bool := cellsWf 0 m.cells && tsorted m.sect && tsorted m.lost

def Memory.empty : Memory := ⟨[], [], []⟩

/-- Write consecutive bytes. -/
def cellsPut : List Host.Cell → Nat → List Byte → List Host.Cell
  | l, _, [] => l
  | l, a, b :: t => cellsPut (cellPut l a b) (a + 1) t

/-- Forget every byte of [lo, hi). -/
def cellsClear (l : List Host.Cell) (lo hi : Nat) : List Host.Cell :=
  l.filter fun c => decide (c.1 < lo) || decide (hi ≤ c.1)

/-- A byte of a sector as its writer, holder of key `k`, wrote it. -/
def Memory.own (m : Memory) (k a : Nat) : Byte :=
  match cellGet m.cells a with
  | some b => b
  | none => Config.freeByte (tgetD m.lost (a / 0x1000000000) 0) a k

/-- The 32 bytes of a sector as the holder of key `k` wrote them. -/
def Memory.ownSector (m : Memory) (k sec : Nat) : List Byte :=
  (List.range 32).map fun i => m.own k (32 * sec + i)

/-- One byte of HBM under the key of identity `k` (R137, R140, R508): the byte as written when the sector is encrypted
under that key, else ciphertext decrypted with the wrong key, a free value. -/
def Memory.byte (m : Memory) (k a : Nat) : Byte :=
  match tget m.sect (a / 32) with
  | none => Config.freeByte (tgetD m.lost (a / 0x1000000000) 0) a k
  | some s => if s.key = k then m.own k a else Config.garble k s.key a (m.ownSector s.key (a / 32))

def Memory.poisoned (m : Memory) (a : Nat) : Bool :=
  match tget m.sect (a / 32) with
  | none => false
  | some s => s.poison

def Memory.readHbm (m : Memory) (k a n : Nat) : List Byte := (List.range n).map fun i => m.byte k (a + i)

/-- Write `b`, which lies within one sector, under the key of identity `k`. A whole sector clears its poison. A part is a
read-modify-write, and one that finds the sector poisoned keeps none of the written bytes (R130). -/
def Memory.writeHbm (m : Memory) (k a : Nat) (b : List Byte) : Memory :=
  let sec := a / 32
  if a % 32 = 0 ∧ b.length = 32 then
    { m with cells := cellsPut m.cells a b, sect := tput m.sect sec ⟨k, false⟩ }
  else
    match tget m.sect sec with
    | none => { m with cells := cellsPut m.cells a b, sect := tput m.sect sec ⟨k, false⟩ }
    | some s =>
      if s.poison then m
      else if s.key = k then { m with cells := cellsPut m.cells a b }
      else { m with
        cells := cellsPut (cellsPut m.cells (32 * sec) (m.readHbm k (32 * sec) 32)) a b,
        sect := tput m.sect sec ⟨k, false⟩ }

/-- Set a sector's poison marker (R129); the marker does not depend on a key. -/
def Memory.poison (m : Memory) (k a : Nat) : Memory :=
  match tget m.sect (a / 32) with
  | none => { m with sect := tput m.sect (a / 32) ⟨k, true⟩ }
  | some s => { m with sect := tput m.sect (a / 32) { s with poison := true } }

/-- Memory that is not HBM: scratchpads, die scratch and host memory. -/
def Memory.plainByte (m : Memory) (a : Nat) : Byte :=
  match cellGet m.cells a with
  | some b => b
  | none => Config.hostByte a

def Memory.readPlain (m : Memory) (a n : Nat) : List Byte := (List.range n).map fun i => m.plainByte (a + i)

def Memory.writePlain (m : Memory) (a : Nat) (b : List Byte) : Memory := { m with cells := cellsPut m.cells a b }

/-- Zero a window (R27, R303, R397): its bytes read as an unlisted address does. -/
def Memory.clearWindow (m : Memory) (lo hi : Nat) : Memory := { m with cells := cellsClear m.cells lo hi }

/-- A frame's mode changed (R127): its contents are undefined. -/
def Memory.loseFrame (m : Memory) (f : Nat) : Memory :=
  { cells := cellsClear m.cells (f * 0x1000000000) ((f + 1) * 0x1000000000),
    sect := m.sect.filter fun e => !(decide (e.1 / 0x80000000 = f)),
    lost := tupd m.lost f 0 (· + 1) }

end Sys2Proof.Machine
end

