-- ==== Sys2Proof/Machine/Regs.lean ====
section
/-! DEFINITION. The register map: every register of the spec's register lists, under its own name, with its PF0 BAR0
offsets (Table 00-4 and each chapter's list), its width, and its fields' bits, access codes (R6) and reset values. A reset
value that comes from fuses ("F") or from the configuration image ("C") is 0 here and is stored by cast-on. -/

namespace Sys2Proof.Machine

/-- Access codes of Table 00-5. -/
inductive Access where
  | rw | ro | wo | w1c | w1s | rc
  deriving DecidableEq, Repr

/-- One field of a register: bits [hi:lo], its access code and its reset value. -/
structure FieldInfo where
  hi : Nat
  lo : Nat
  acc : Access
  reset : Nat
  deriving DecidableEq, Repr

/-- One run of a register's addresses: a base, (count, stride) of each index from the outermost, and the number of the
first instance. -/
structure RegMap where
  base : Nat
  dims : List (Nat × Nat)
  first : Nat
  deriving DecidableEq, Repr

structure RegInfo where
  width : Nat
  maps : List RegMap
  fields : List FieldInfo
  deriving DecidableEq, Repr

/-- The registers by name. A register with several instances is indexed by its unit number (die, tile, core = 32 × die +
GC, stack, slice, panel, link, site, ...); further indices of the instance count on, the last one fastest. The
translation registers of the hub are instance 12. -/
inductive Reg where
  | GLB_ID | GLB_STATUS | GLB_DIE_PRESENT | GLB_DIE_FAULT | GLB_FABRIC_VERSION | GLB_BOOT_STATUS | GLB_CLK_STATUS
  | GLB_DIE_ID | GLB_HUB_ID | ARR_STATUS | ARR_CONFIG | ARR_FAULT | ARR_LAST_DONE_TIME | ARR_ACT_SLOT | GC_STATUS
  | GC_L1_STATUS | GC_FAULT_INFO | GC_FAULT_VADDR | GC_FAULT_PC | GC_LAST_DONE_TIME | GC_ISSUED | CD_DSCR_OWNER0
  | CD_DSCR_OWNER1 | HBM_STK_STATUS | HBM_TRAIN_RESULT | HBM_ECC_COUNT | HBM_ECC_LOG | HBM_ECC_LOC | HBM_PICOT_CTL
  | HBM_REPAIR_CMD | HBM_REPAIR_STATUS | HBM_REPAIR_LOG | HBM_SW_CTL | HBM_SW_BASE | HBM_SW_LEN | HBM_SW_PATTERN
  | HBM_SW_RESULT | HBM_G_CTL | HBM_G_STATUS | HBM_G_FRAME_MODE | HBM_KEY_CTL | HBM_KEY_BUF | HBM_KEY_STATUS
  | UCC_CTL | UCC_SLICE_STATUS | UCC_SLICE_ERR | UCC_DIR_STATUS | UCC_SKEIN_STATUS | UCC_PANEL_SHARE | XLT_FAULT_INFO
  | XLT_FAULT_VADDR | XLT_FAULT_PTE | XLT_FAULT_TIME | XLT_COUNTS | QUE_POOL | QUE_SEL | QUE_CFG | QUE_RING | QUE_IRQ
  | QUE_PTRS | QUE_STATUS | QUE_PROGRESS | QUE_LAST_TIME | QUE_FN_SEL | QUE_OVF_BASE | QUE_OVF_PTRS | QUE_FN_STATUS
  | QUE_MGR_EVT | SRV_STATUS | SRV_HEARTBEAT | RSQ_STATUS | RSQ_ROW | RSQ_POOL | RSQ_SEQS | RSQ_ROW_WC
  | RSQ_LAST_ROW_TIME | RSQ_COUNTS | RSQ_FAULT | PNL_EPOCH | PNL_CFG_CTL | PNL_CFG_STATUS | PNL_FREE_TILES
  | PNL_W_TOTAL | PNL_COMPACT | PNL_TILE_HOME | PNL_CTX_SEL | PNL_CTX_CLASS | PNL_CFG | PNL_TILES | PNL_LC_TILES
  | PNL_W | PNL_STATUS | PNL_COUNTS | PNL_DISPATCH | PNL_LAST_PREEMPT | LNK_CTL | LNK_STATUS | LNK_ERR | LNK_FEC
  | LNK_OPTICS | LNK_TIME | LNK_G_ID | LNK_G_CTL | LNK_G_ROUTE_SEL | LNK_G_ROUTE | LNK_G_STATUS | PWR_LIMITS
  | PWR_STATUS | PWR_MEAS | PWR_ENERGY | PWR_SPLIT | PWR_POLICY | PWR_FILL | PWR_THERMAL_CTL | PWR_THERMAL
  | PWR_DROOP | PWR_DOMAIN_ON | PWR_ACCT_SEL | PWR_ACCT_ENERGY | PWR_DIE | PWR_PANEL | PWR_PANEL_RES | PWR_COEF
  | MGT_FN_SEL | MGT_FN_CFG | MGT_FN_PANELS | MGT_FN_STATUS | MGT_MBX_BASE | MGT_MBX_M2T | MGT_MBX_T2M | MGT_APERTURE
  | MGT_SEC_STATUS | HUB_FLT_CTL | HUB_FLT_PTRS | HUB_FLT_STATUS | HUB_RESET_CMD | HUB_RESET_STATUS | HUB_RESET_TIME
  | HUB_LEASE_STATUS | HUB_TRACKER | HUB_FLT_ENTRY | OBS_CTL | OBS_STATUS | OBS_RESERVE | OBS_SMP_CTL | OBS_SMP_RING
  | OBS_SMP_PTRS | OBS_SMP_STATUS | OBS_BW_CTL | OBS_CSMP_CTL | OBS_CSMP_RING | OBS_CSMP_TILES | OBS_CSMP_PTRS
  | OBS_CSMP_STATUS | OBS_FN_SEL | OBS_FN_CNT | OBS_BW | OBS_MARK | OBS_F | OBS_P | OBS_PCTL | TMB_TIME | TMB_CTL
  | TMB_EPOCH | TMB_STATUS | TMB_PPS_TIME | GST_CTL | GST_STATUS | GST_BIND | GST_CAP | GST_WIN | GST_ERR | DBG_ID
  | DBG_CTL | DBG_STATUS | DBG_HALT_CMD | DBG_GRP_SEL | DBG_GRP_STATE | DBG_GRP_LANES | DBG_REG_SEL | DBG_REG_DATA
  | DBG_STEP_EN | DBG_STEP_GO | DBG_STEP_STATUS | SRV_FW_STATUS | SRV_CFG_STATUS | SRV_INPUT_STATUS | SRV_SENSOR_FAIL
  | SRV_REQ_TIMEOUT | SRV_BIND_OFF | SRV_ALERT
  deriving DecidableEq, Repr

/-- Tables 01-13 to 16-13: offsets, widths and fields. -/
def regInfo : Reg → RegInfo
  | .GLB_ID => ⟨64, [⟨0, [], 0⟩],
      [⟨63, 56, .ro, 0⟩, ⟨55, 48, .ro, 0⟩, ⟨47, 40, .ro, 0⟩, ⟨31, 0, .ro, 0⟩]⟩
  | .GLB_STATUS => ⟨32, [⟨8, [], 0⟩],
      [⟨5, 5, .ro, 0⟩, ⟨4, 4, .ro, 0⟩, ⟨3, 3, .ro, 0⟩, ⟨2, 2, .ro, 0⟩, ⟨1, 1, .ro, 0⟩, ⟨0, 0, .ro, 0⟩]⟩
  | .GLB_DIE_PRESENT => ⟨32, [⟨0x10, [], 0⟩],
      [⟨15, 12, .ro, 0⟩, ⟨11, 0, .ro, 0⟩]⟩
  | .GLB_DIE_FAULT => ⟨64, [⟨0x18, [], 0⟩],
      [⟨63, 0, .ro, 0⟩]⟩
  | .GLB_FABRIC_VERSION => ⟨32, [⟨0x20, [], 0⟩],
      [⟨23, 16, .ro, 0⟩, ⟨15, 8, .ro, 0⟩, ⟨7, 0, .ro, 0⟩]⟩
  | .GLB_BOOT_STATUS => ⟨32, [⟨0x28, [], 0⟩],
      [⟨31, 28, .ro, 0⟩, ⟨27, 24, .ro, 0⟩, ⟨23, 16, .ro, 0⟩, ⟨12, 12, .ro, 0⟩, ⟨11, 11, .ro, 0⟩, ⟨10, 10, .ro, 0⟩,
       ⟨9, 9, .ro, 0⟩, ⟨8, 8, .ro, 0⟩, ⟨7, 7, .ro, 0⟩, ⟨6, 6, .ro, 0⟩, ⟨5, 5, .ro, 0⟩, ⟨4, 4, .ro, 0⟩,
       ⟨0, 0, .ro, 0⟩]⟩
  | .GLB_CLK_STATUS => ⟨64, [⟨0x30, [], 0⟩],
      [⟨59, 0, .ro, 0⟩]⟩
  | .GLB_DIE_ID => ⟨64, [⟨0x100, [(16, 8)], 0⟩],
      [⟨63, 0, .ro, 0⟩]⟩
  | .GLB_HUB_ID => ⟨64, [⟨0x180, [], 0⟩],
      [⟨63, 0, .ro, 0⟩]⟩
  | .ARR_STATUS => ⟨32, [⟨0x1040000, [(12, 0x100000), (4, 0x1000)], 0⟩],
      [⟨31, 20, .ro, 0⟩, ⟨13, 12, .ro, 0⟩, ⟨11, 11, .ro, 0⟩, ⟨10, 10, .ro, 0⟩, ⟨9, 9, .ro, 0⟩, ⟨3, 3, .w1c, 0⟩,
       ⟨2, 2, .w1c, 0⟩, ⟨1, 1, .w1c, 0⟩, ⟨0, 0, .w1c, 0⟩]⟩
  | .ARR_CONFIG => ⟨32, [⟨0x1040008, [(12, 0x100000), (4, 0x1000)], 0⟩],
      [⟨16, 16, .rw, 1⟩, ⟨5, 0, .rw, 0⟩]⟩
  | .ARR_FAULT => ⟨64, [⟨0x1040010, [(12, 0x100000), (4, 0x1000)], 0⟩],
      [⟨63, 48, .ro, 0⟩, ⟨43, 32, .ro, 0⟩, ⟨31, 0, .ro, 0⟩]⟩
  | .ARR_LAST_DONE_TIME => ⟨64, [⟨0x1040018, [(12, 0x100000), (4, 0x1000)], 0⟩],
      [⟨63, 0, .ro, 0⟩]⟩
  | .ARR_ACT_SLOT => ⟨64, [⟨0x1040040, [(12, 0x100000), (4, 0x1000), (4, 8)], 0⟩],
      [⟨63, 32, .ro, 0⟩, ⟨7, 1, .ro, 0⟩, ⟨0, 0, .ro, 0⟩]⟩
  | .GC_STATUS => ⟨64, [⟨0x1060000, [(12, 0x100000), (32, 0x100)], 0⟩],
      [⟨43, 32, .ro, 0⟩, ⟨17, 17, .w1c, 0⟩, ⟨16, 16, .w1c, 0⟩, ⟨14, 8, .ro, 0⟩, ⟨7, 7, .ro, 0⟩, ⟨6, 0, .ro, 0⟩]⟩
  | .GC_L1_STATUS => ⟨32, [⟨0x1060008, [(12, 0x100000), (32, 0x100)], 0⟩],
      [⟨31, 24, .ro, 0⟩, ⟨23, 16, .ro, 0⟩, ⟨11, 8, .ro, 0⟩, ⟨2, 0, .ro, 0⟩]⟩
  | .GC_FAULT_INFO => ⟨64, [⟨0x1060010, [(12, 0x100000), (32, 0x100)], 0⟩],
      [⟨63, 48, .ro, 0⟩, ⟨47, 40, .ro, 0⟩, ⟨39, 36, .ro, 0⟩, ⟨31, 0, .ro, 0⟩]⟩
  | .GC_FAULT_VADDR => ⟨64, [⟨0x1060018, [(12, 0x100000), (32, 0x100)], 0⟩],
      [⟨63, 0, .ro, 0⟩]⟩
  | .GC_FAULT_PC => ⟨64, [⟨0x1060020, [(12, 0x100000), (32, 0x100)], 0⟩],
      [⟨63, 0, .ro, 0⟩]⟩
  | .GC_LAST_DONE_TIME => ⟨64, [⟨0x1060028, [(12, 0x100000), (32, 0x100)], 0⟩],
      [⟨63, 0, .ro, 0⟩]⟩
  | .GC_ISSUED => ⟨64, [⟨0x1060030, [(12, 0x100000), (32, 0x100)], 0⟩],
      [⟨63, 0, .ro, 0⟩]⟩
  | .CD_DSCR_OWNER0 => ⟨64, [⟨0x1070000, [(12, 0x100000)], 0⟩],
      [⟨63, 0, .rw, 0⟩]⟩
  | .CD_DSCR_OWNER1 => ⟨64, [⟨0x1070008, [(12, 0x100000)], 0⟩],
      [⟨63, 0, .rw, 0⟩]⟩
  | .HBM_STK_STATUS => ⟨32, [⟨0x400000, [(16, 0x10000)], 0⟩],
      [⟨31, 24, .ro, 0⟩, ⟨3, 3, .ro, 0⟩, ⟨2, 2, .ro, 0⟩, ⟨1, 1, .ro, 0⟩, ⟨0, 0, .ro, 0⟩]⟩
  | .HBM_TRAIN_RESULT => ⟨64, [⟨0x400008, [(16, 0x10000)], 0⟩],
      [⟨63, 56, .ro, 0⟩, ⟨55, 48, .ro, 0⟩, ⟨47, 40, .ro, 0⟩, ⟨31, 24, .ro, 0⟩, ⟨23, 16, .ro, 0⟩, ⟨9, 4, .ro, 0⟩,
       ⟨0, 0, .ro, 0⟩]⟩
  | .HBM_ECC_COUNT => ⟨64, [⟨0x400010, [(16, 0x10000)], 0⟩],
      [⟨63, 40, .rc, 0⟩, ⟨39, 24, .rc, 0⟩, ⟨23, 8, .rc, 0⟩, ⟨7, 0, .rc, 0⟩]⟩
  | .HBM_ECC_LOG => ⟨64, [⟨0x400018, [(16, 0x10000)], 0⟩],
      [⟨63, 63, .rc, 0⟩, ⟨62, 62, .rc, 0⟩, ⟨61, 58, .rc, 0⟩, ⟨57, 0, .rc, 0⟩]⟩
  | .HBM_ECC_LOC => ⟨64, [⟨0x400020, [(16, 0x10000)], 0⟩],
      [⟨63, 48, .ro, 0⟩, ⟨47, 44, .ro, 0⟩, ⟨43, 38, .ro, 0⟩, ⟨35, 0, .ro, 0⟩]⟩
  | .HBM_PICOT_CTL => ⟨32, [⟨0x400028, [(16, 0x10000)], 0⟩],
      [⟨3, 0, .rw, 2⟩]⟩
  | .HBM_REPAIR_CMD => ⟨64, [⟨0x400030, [(16, 0x10000)], 0⟩],
      [⟨63, 62, .wo, 0⟩, ⟨47, 42, .wo, 0⟩, ⟨41, 38, .wo, 0⟩, ⟨37, 22, .wo, 0⟩]⟩
  | .HBM_REPAIR_STATUS => ⟨64, [⟨0x400038, [(16, 0x10000)], 0⟩],
      [⟨63, 48, .ro, 0⟩, ⟨47, 40, .ro, 0⟩, ⟨39, 32, .ro, 0⟩, ⟨31, 16, .ro, 0⟩, ⟨7, 4, .ro, 0⟩, ⟨0, 0, .ro, 0⟩]⟩
  | .HBM_REPAIR_LOG => ⟨64, [⟨0x400040, [(16, 0x10000)], 0⟩],
      [⟨63, 62, .rc, 0⟩, ⟨61, 60, .rc, 0⟩, ⟨59, 59, .rc, 0⟩, ⟨58, 53, .rc, 0⟩, ⟨52, 49, .rc, 0⟩, ⟨48, 33, .rc, 0⟩,
       ⟨31, 0, .rc, 0⟩]⟩
  | .HBM_SW_CTL => ⟨64, [⟨0x400048, [(16, 0x10000)], 0⟩],
      [⟨63, 32, .rw, 0⟩, ⟨19, 16, .rw, 0⟩, ⟨11, 8, .rw, 0⟩, ⟨1, 1, .wo, 0⟩, ⟨0, 0, .wo, 0⟩]⟩
  | .HBM_SW_BASE => ⟨64, [⟨0x400050, [(16, 0x10000)], 0⟩],
      [⟨35, 0, .rw, 0⟩]⟩
  | .HBM_SW_LEN => ⟨64, [⟨0x400058, [(16, 0x10000)], 0⟩],
      [⟨36, 0, .rw, 0⟩]⟩
  | .HBM_SW_PATTERN => ⟨64, [⟨0x400060, [(16, 0x10000)], 0⟩],
      [⟨63, 0, .rw, 0⟩]⟩
  | .HBM_SW_RESULT => ⟨64, [⟨0x400068, [(16, 0x10000)], 0⟩],
      [⟨63, 63, .ro, 0⟩, ⟨62, 62, .ro, 0⟩, ⟨61, 36, .ro, 0⟩, ⟨35, 0, .ro, 0⟩]⟩
  | .HBM_G_CTL => ⟨32, [⟨0x404000, [], 0⟩],
      [⟨31, 24, .rw, 16⟩, ⟨15, 8, .rw, 24⟩, ⟨7, 4, .rw, 0⟩, ⟨3, 3, .rw, 1⟩, ⟨0, 0, .rw, 0⟩]⟩
  | .HBM_G_STATUS => ⟨32, [⟨0x404008, [], 0⟩],
      [⟨31, 16, .ro, 0⟩, ⟨11, 8, .ro, 0⟩, ⟨2, 2, .ro, 0⟩, ⟨1, 1, .ro, 0⟩, ⟨0, 0, .ro, 0⟩]⟩
  | .HBM_G_FRAME_MODE => ⟨32, [⟨0x404010, [], 0⟩],
      [⟨15, 0, .rw, 0⟩]⟩
  | .HBM_KEY_CTL => ⟨64, [⟨0x404018, [], 0⟩],
      [⟨55, 48, .wo, 0⟩, ⟨47, 44, .wo, 0⟩, ⟨1, 1, .ro, 0⟩, ⟨0, 0, .ro, 0⟩]⟩
  | .HBM_KEY_BUF => ⟨64, [⟨0x404020, [], 0⟩],
      [⟨39, 0, .rw, 0⟩]⟩
  | .HBM_KEY_STATUS => ⟨64, [⟨0x404028, [], 0⟩],
      [⟨63, 63, .ro, 0⟩, ⟨47, 0, .ro, 0⟩]⟩
  | .UCC_CTL => ⟨32, [⟨0x500000, [], 0⟩],
      [⟨8, 8, .rw, 1⟩, ⟨7, 0, .rw, 200⟩]⟩
  | .UCC_SLICE_STATUS => ⟨64, [⟨0x500100, [(4, 0x40)], 0⟩],
      [⟨55, 48, .ro, 16⟩, ⟨47, 24, .ro, 0⟩, ⟨23, 0, .ro, 0⟩]⟩
  | .UCC_SLICE_ERR => ⟨64, [⟨0x500108, [(4, 0x40)], 0⟩],
      [⟨63, 48, .rc, 0⟩, ⟨47, 32, .rc, 0⟩, ⟨31, 16, .rc, 0⟩]⟩
  | .UCC_DIR_STATUS => ⟨64, [⟨0x500110, [(4, 0x40)], 0⟩],
      [⟨63, 40, .rc, 0⟩, ⟨21, 0, .ro, 0⟩]⟩
  | .UCC_SKEIN_STATUS => ⟨64, [⟨0x500118, [(4, 0x40)], 0⟩],
      [⟨63, 48, .rc, 0⟩, ⟨47, 32, .rc, 0⟩, ⟨13, 0, .ro, 0⟩]⟩
  | .UCC_PANEL_SHARE => ⟨64, [⟨0x500200, [(48, 8)], 0⟩],
      [⟨63, 32, .ro, 0⟩, ⟨31, 0, .ro, 0⟩]⟩
  | .XLT_FAULT_INFO => ⟨64, [⟨0x1080000, [(12, 0x100000)], 0⟩, ⟨0x180000, [], 12⟩],
      [⟨63, 60, .ro, 0⟩, ⟨59, 58, .ro, 0⟩, ⟨57, 55, .ro, 0⟩, ⟨54, 52, .ro, 0⟩, ⟨43, 32, .ro, 0⟩, ⟨31, 0, .ro, 0⟩]⟩
  | .XLT_FAULT_VADDR => ⟨64, [⟨0x1080008, [(12, 0x100000)], 0⟩, ⟨0x180008, [], 12⟩],
      [⟨63, 0, .ro, 0⟩]⟩
  | .XLT_FAULT_PTE => ⟨64, [⟨0x1080010, [(12, 0x100000)], 0⟩, ⟨0x180010, [], 12⟩],
      [⟨63, 0, .ro, 0⟩]⟩
  | .XLT_FAULT_TIME => ⟨64, [⟨0x1080018, [(12, 0x100000)], 0⟩, ⟨0x180018, [], 12⟩],
      [⟨63, 0, .ro, 0⟩]⟩
  | .XLT_COUNTS => ⟨64, [⟨0x1080020, [(12, 0x100000)], 0⟩, ⟨0x180020, [], 12⟩],
      [⟨63, 32, .rc, 0⟩, ⟨31, 0, .rc, 0⟩]⟩
  | .QUE_POOL => ⟨64, [⟨0x50000, [], 0⟩],
      [⟨50, 32, .ro, 0⟩, ⟨18, 0, .ro, 262144⟩]⟩
  | .QUE_SEL => ⟨32, [⟨0x50008, [], 0⟩],
      [⟨17, 0, .rw, 0⟩]⟩
  | .QUE_CFG => ⟨64, [⟨0x50010, [], 0⟩],
      [⟨63, 62, .ro, 0⟩, ⟨61, 57, .ro, 0⟩, ⟨56, 56, .ro, 0⟩, ⟨55, 55, .ro, 0⟩, ⟨54, 54, .ro, 0⟩, ⟨51, 48, .ro, 0⟩,
       ⟨47, 40, .ro, 0⟩, ⟨39, 34, .ro, 0⟩, ⟨31, 20, .ro, 0⟩, ⟨17, 0, .ro, 0⟩]⟩
  | .QUE_RING => ⟨64, [⟨0x50018, [], 0⟩],
      [⟨63, 0, .ro, 0⟩]⟩
  | .QUE_IRQ => ⟨64, [⟨0x50020, [], 0⟩],
      [⟨63, 48, .ro, 0⟩, ⟨47, 40, .ro, 0⟩, ⟨39, 24, .ro, 0⟩, ⟨0, 0, .ro, 0⟩]⟩
  | .QUE_PTRS => ⟨64, [⟨0x50028, [], 0⟩],
      [⟨63, 32, .ro, 0⟩, ⟨31, 0, .ro, 0⟩]⟩
  | .QUE_STATUS => ⟨32, [⟨0x50030, [], 0⟩],
      [⟨7, 7, .ro, 0⟩, ⟨6, 6, .ro, 0⟩, ⟨5, 5, .w1c, 0⟩, ⟨4, 4, .w1c, 0⟩, ⟨3, 3, .w1c, 0⟩, ⟨1, 1, .ro, 1⟩,
       ⟨0, 0, .ro, 0⟩]⟩
  | .QUE_PROGRESS => ⟨64, [⟨0x50038, [], 0⟩],
      [⟨63, 32, .ro, 0⟩, ⟨31, 0, .ro, 0⟩]⟩
  | .QUE_LAST_TIME => ⟨64, [⟨0x50040, [], 0⟩],
      [⟨63, 0, .ro, 0⟩]⟩
  | .QUE_FN_SEL => ⟨32, [⟨0x50100, [], 0⟩],
      [⟨7, 0, .rw, 0⟩]⟩
  | .QUE_OVF_BASE => ⟨64, [⟨0x50108, [], 0⟩],
      [⟨63, 59, .ro, 0⟩, ⟨47, 0, .ro, 0⟩]⟩
  | .QUE_OVF_PTRS => ⟨64, [⟨0x50110, [], 0⟩],
      [⟨63, 32, .rw, 0⟩, ⟨31, 0, .ro, 0⟩]⟩
  | .QUE_FN_STATUS => ⟨64, [⟨0x50118, [], 0⟩],
      [⟨63, 32, .rc, 0⟩, ⟨31, 0, .rc, 0⟩]⟩
  | .QUE_MGR_EVT => ⟨32, [⟨0x50120, [], 0⟩],
      [⟨17, 0, .rw, 0⟩]⟩
  | .SRV_STATUS => ⟨64, [⟨0x3000000, [(27, 0x20)], 0⟩],
      [⟨63, 48, .ro, 0⟩, ⟨47, 32, .ro, 0⟩, ⟨8, 8, .ro, 0⟩, ⟨3, 0, .ro, 0⟩]⟩
  | .SRV_HEARTBEAT => ⟨64, [⟨0x3000008, [(27, 0x20)], 0⟩],
      [⟨63, 0, .ro, 0⟩]⟩
  | .RSQ_STATUS => ⟨32, [⟨0x2000000, [(48, 0x1000)], 0⟩],
      [⟨6, 6, .w1c, 0⟩, ⟨5, 5, .w1c, 0⟩, ⟨4, 4, .ro, 0⟩, ⟨3, 0, .ro, 0⟩]⟩
  | .RSQ_ROW => ⟨64, [⟨0x2000008, [(48, 0x1000)], 0⟩],
      [⟨63, 0, .ro, 0⟩]⟩
  | .RSQ_POOL => ⟨64, [⟨0x2000010, [(48, 0x1000)], 0⟩],
      [⟨55, 32, .ro, 0⟩, ⟨23, 0, .ro, 0⟩]⟩
  | .RSQ_SEQS => ⟨64, [⟨0x2000018, [(48, 0x1000)], 0⟩],
      [⟨60, 48, .ro, 0⟩, ⟨44, 32, .ro, 0⟩, ⟨28, 16, .ro, 0⟩, ⟨12, 0, .ro, 0⟩]⟩
  | .RSQ_ROW_WC => ⟨32, [⟨0x2000020, [(48, 0x1000)], 0⟩],
      [⟨31, 0, .ro, 0⟩]⟩
  | .RSQ_LAST_ROW_TIME => ⟨64, [⟨0x2000028, [(48, 0x1000)], 0⟩],
      [⟨63, 0, .ro, 0⟩]⟩
  | .RSQ_COUNTS => ⟨64, [⟨0x2000030, [(48, 0x1000)], 0⟩],
      [⟨63, 32, .rc, 0⟩, ⟨31, 16, .rc, 0⟩, ⟨15, 0, .rc, 0⟩]⟩
  | .RSQ_FAULT => ⟨64, [⟨0x2000038, [(48, 0x1000)], 0⟩],
      [⟨63, 48, .ro, 0⟩, ⟨47, 46, .ro, 0⟩, ⟨40, 32, .ro, 0⟩, ⟨31, 0, .ro, 0⟩]⟩
  | .PNL_EPOCH => ⟨64, [⟨0x40000, [], 0⟩],
      [⟨63, 32, .ro, 1⟩, ⟨31, 0, .ro, 1⟩]⟩
  | .PNL_CFG_CTL => ⟨32, [⟨0x40008, [], 0⟩],
      [⟨15, 0, .rw, 10⟩]⟩
  | .PNL_CFG_STATUS => ⟨32, [⟨0x40010, [], 0⟩],
      [⟨31, 16, .ro, 0⟩, ⟨3, 3, .w1c, 0⟩, ⟨2, 2, .ro, 0⟩, ⟨1, 1, .w1c, 0⟩]⟩
  | .PNL_FREE_TILES => ⟨64, [⟨0x40018, [], 0⟩],
      [⟨47, 0, .ro, 0⟩]⟩
  | .PNL_W_TOTAL => ⟨64, [⟨0x40020, [], 0⟩],
      [⟨63, 32, .ro, 0⟩, ⟨31, 0, .ro, 0⟩]⟩
  | .PNL_COMPACT => ⟨64, [⟨0x40028, [], 0⟩],
      [⟨55, 48, .ro, 0⟩, ⟨47, 40, .ro, 0⟩, ⟨0, 0, .rw, 1⟩]⟩
  | .PNL_TILE_HOME => ⟨64, [⟨0x40040, [(6, 8)], 0⟩],
      [⟨63, 0, .ro, 0⟩]⟩
  | .PNL_CTX_SEL => ⟨32, [⟨0x40080, [], 0⟩],
      [⟨11, 0, .rw, 0⟩]⟩
  | .PNL_CTX_CLASS => ⟨64, [⟨0x40088, [], 0⟩],
      [⟨63, 63, .ro, 0⟩, ⟨62, 62, .ro, 0⟩, ⟨55, 48, .ro, 0⟩, ⟨47, 32, .ro, 0⟩, ⟨31, 0, .ro, 0⟩]⟩
  | .PNL_CFG => ⟨64, [⟨0x41000, [(48, 0x40)], 0⟩],
      [⟨63, 63, .ro, 0⟩, ⟨62, 62, .ro, 0⟩, ⟨61, 61, .ro, 0⟩, ⟨58, 48, .ro, 0⟩, ⟨47, 40, .ro, 0⟩, ⟨39, 34, .ro, 0⟩,
       ⟨27, 14, .ro, 0⟩]⟩
  | .PNL_TILES => ⟨64, [⟨0x41008, [(48, 0x40)], 0⟩],
      [⟨47, 0, .ro, 0⟩]⟩
  | .PNL_LC_TILES => ⟨64, [⟨0x41010, [(48, 0x40)], 0⟩],
      [⟨47, 0, .ro, 0⟩]⟩
  | .PNL_W => ⟨64, [⟨0x41018, [(48, 0x40)], 0⟩],
      [⟨31, 0, .ro, 0⟩]⟩
  | .PNL_STATUS => ⟨64, [⟨0x41020, [(48, 0x40)], 0⟩],
      [⟨63, 48, .ro, 0⟩, ⟨47, 32, .ro, 0⟩, ⟨31, 24, .ro, 0⟩, ⟨1, 1, .w1c, 0⟩]⟩
  | .PNL_COUNTS => ⟨64, [⟨0x41028, [(48, 0x40)], 0⟩],
      [⟨63, 32, .rc, 0⟩, ⟨31, 16, .rc, 0⟩, ⟨15, 0, .rc, 0⟩]⟩
  | .PNL_DISPATCH => ⟨64, [⟨0x41030, [(48, 0x40)], 0⟩],
      [⟨63, 32, .rc, 0⟩, ⟨31, 0, .ro, 0⟩]⟩
  | .PNL_LAST_PREEMPT => ⟨64, [⟨0x41038, [(48, 0x40)], 0⟩],
      [⟨63, 0, .ro, 0⟩]⟩
  | .LNK_CTL => ⟨32, [⟨0x200000, [(32, 0x10000)], 0⟩],
      [⟨1, 1, .wo, 0⟩, ⟨0, 0, .rw, 0⟩]⟩
  | .LNK_STATUS => ⟨64, [⟨0x200008, [(32, 0x10000)], 0⟩],
      [⟨62, 48, .ro, 0⟩, ⟨47, 32, .ro, 0⟩, ⟨31, 27, .ro, 0⟩, ⟨23, 20, .ro, 0⟩, ⟨19, 16, .ro, 0⟩, ⟨11, 8, .ro, 0⟩,
       ⟨3, 0, .ro, 0⟩]⟩
  | .LNK_ERR => ⟨64, [⟨0x200010, [(32, 0x10000)], 0⟩],
      [⟨63, 40, .rc, 0⟩, ⟨39, 24, .rc, 0⟩, ⟨23, 8, .rc, 0⟩, ⟨7, 0, .rc, 0⟩]⟩
  | .LNK_FEC => ⟨64, [⟨0x200018, [(32, 0x10000)], 0⟩],
      [⟨63, 32, .rc, 0⟩, ⟨31, 0, .rc, 0⟩]⟩
  | .LNK_OPTICS => ⟨64, [⟨0x200020, [(32, 0x10000)], 0⟩],
      [⟨63, 48, .ro, 0⟩, ⟨43, 40, .ro, 0⟩, ⟨39, 32, .ro, 0⟩, ⟨31, 28, .ro, 0⟩]⟩
  | .LNK_TIME => ⟨64, [⟨0x200028, [(32, 0x10000)], 0⟩],
      [⟨63, 32, .ro, 0⟩, ⟨31, 0, .ro, 0⟩]⟩
  | .LNK_G_ID => ⟨32, [⟨0x204000, [], 0⟩],
      [⟨14, 0, .rw, 0⟩]⟩
  | .LNK_G_CTL => ⟨32, [⟨0x204008, [], 0⟩],
      [⟨15, 0, .rw, 200⟩]⟩
  | .LNK_G_ROUTE_SEL => ⟨32, [⟨0x204010, [], 0⟩],
      [⟨8, 8, .rw, 0⟩, ⟨7, 0, .rw, 0⟩]⟩
  | .LNK_G_ROUTE => ⟨64, [⟨0x204018, [], 0⟩],
      [⟨31, 0, .rw, 0⟩]⟩
  | .LNK_G_STATUS => ⟨64, [⟨0x204020, [], 0⟩],
      [⟨63, 48, .rc, 0⟩, ⟨47, 32, .rc, 0⟩, ⟨31, 16, .rc, 0⟩, ⟨15, 0, .rc, 0⟩]⟩
  | .PWR_LIMITS => ⟨64, [⟨0x20000, [], 0⟩],
      [⟨63, 48, .ro, 0⟩, ⟨47, 32, .ro, 0⟩, ⟨31, 16, .ro, 0⟩, ⟨15, 0, .ro, 0⟩]⟩
  | .PWR_STATUS => ⟨64, [⟨0x20008, [], 0⟩],
      [⟨63, 48, .ro, 0⟩, ⟨47, 32, .ro, 0⟩, ⟨10, 10, .ro, 0⟩, ⟨9, 9, .ro, 0⟩, ⟨8, 8, .ro, 0⟩, ⟨7, 7, .ro, 0⟩,
       ⟨6, 6, .w1c, 0⟩, ⟨5, 5, .ro, 0⟩, ⟨4, 4, .w1c, 0⟩, ⟨3, 3, .ro, 0⟩, ⟨2, 2, .ro, 0⟩, ⟨1, 1, .ro, 0⟩,
       ⟨0, 0, .ro, 0⟩]⟩
  | .PWR_MEAS => ⟨64, [⟨0x20010, [], 0⟩],
      [⟨63, 48, .ro, 0⟩, ⟨47, 32, .ro, 0⟩, ⟨31, 16, .ro, 0⟩]⟩
  | .PWR_ENERGY => ⟨64, [⟨0x20018, [], 0⟩],
      [⟨63, 0, .ro, 0⟩]⟩
  | .PWR_SPLIT => ⟨64, [⟨0x20020, [], 0⟩],
      [⟨63, 48, .ro, 0⟩, ⟨47, 32, .ro, 0⟩, ⟨31, 16, .ro, 0⟩, ⟨15, 0, .ro, 0⟩]⟩
  | .PWR_POLICY => ⟨32, [⟨0x20028, [], 0⟩],
      [⟨16, 16, .rw, 1⟩, ⟨11, 8, .rw, 1⟩, ⟨2, 0, .rw, 0⟩]⟩
  | .PWR_FILL => ⟨32, [⟨0x20030, [], 0⟩],
      [⟨8, 8, .rw, 1⟩, ⟨6, 0, .rw, 70⟩]⟩
  | .PWR_THERMAL_CTL => ⟨32, [⟨0x20038, [], 0⟩],
      [⟨15, 8, .rw, 100⟩, ⟨7, 0, .rw, 95⟩]⟩
  | .PWR_THERMAL => ⟨64, [⟨0x20040, [], 0⟩],
      [⟨63, 56, .ro, 0⟩, ⟨55, 48, .ro, 0⟩, ⟨47, 40, .ro, 0⟩, ⟨39, 32, .ro, 0⟩]⟩
  | .PWR_DROOP => ⟨64, [⟨0x20048, [], 0⟩],
      [⟨63, 32, .rc, 0⟩, ⟨31, 0, .rc, 0⟩]⟩
  | .PWR_DOMAIN_ON => ⟨64, [⟨0x20050, [(2, 8)], 0⟩],
      [⟨63, 0, .ro, 0⟩]⟩
  | .PWR_ACCT_SEL => ⟨32, [⟨0x20060, [], 0⟩],
      [⟨12, 0, .rw, 0⟩]⟩
  | .PWR_ACCT_ENERGY => ⟨64, [⟨0x20068, [], 0⟩],
      [⟨63, 0, .ro, 0⟩]⟩
  | .PWR_DIE => ⟨64, [⟨0x20100, [(12, 8)], 0⟩],
      [⟨63, 48, .ro, 0⟩, ⟨47, 32, .ro, 0⟩, ⟨31, 24, .ro, 0⟩, ⟨0, 0, .ro, 0⟩]⟩
  | .PWR_PANEL => ⟨64, [⟨0x20200, [(48, 0x10)], 0⟩],
      [⟨63, 48, .ro, 0⟩, ⟨47, 32, .ro, 0⟩, ⟨31, 16, .ro, 0⟩, ⟨2, 2, .ro, 0⟩, ⟨1, 1, .rw, 1⟩, ⟨0, 0, .ro, 0⟩]⟩
  | .PWR_PANEL_RES => ⟨64, [⟨0x20208, [(48, 0x10)], 0⟩],
      [⟨63, 48, .ro, 0⟩, ⟨31, 0, .ro, 0⟩]⟩
  | .PWR_COEF => ⟨32, [⟨0x20600, [(11, 8)], 0⟩],
      [⟨31, 0, .rw, 0⟩]⟩
  | .MGT_FN_SEL => ⟨32, [⟨0x10000, [], 0⟩],
      [⟨7, 0, .rw, 0⟩]⟩
  | .MGT_FN_CFG => ⟨64, [⟨0x10008, [], 0⟩],
      [⟨63, 63, .ro, 0⟩, ⟨62, 62, .ro, 0⟩, ⟨53, 48, .ro, 0⟩, ⟨42, 32, .ro, 0⟩, ⟨28, 16, .ro, 0⟩, ⟨4, 0, .ro, 0⟩]⟩
  | .MGT_FN_PANELS => ⟨64, [⟨0x10010, [], 0⟩],
      [⟨47, 0, .ro, 0⟩]⟩
  | .MGT_FN_STATUS => ⟨64, [⟨0x10018, [], 0⟩],
      [⟨63, 48, .ro, 0⟩, ⟨34, 22, .ro, 0⟩, ⟨5, 5, .w1c, 0⟩, ⟨4, 4, .ro, 0⟩, ⟨3, 0, .ro, 0⟩]⟩
  | .MGT_MBX_BASE => ⟨64, [⟨0x10020, [], 0⟩],
      [⟨63, 60, .ro, 0⟩, ⟨47, 0, .ro, 0⟩]⟩
  | .MGT_MBX_M2T => ⟨64, [⟨0x10028, [], 0⟩],
      [⟨63, 32, .rw, 0⟩, ⟨31, 0, .rw, 0⟩]⟩
  | .MGT_MBX_T2M => ⟨64, [⟨0x10030, [], 0⟩],
      [⟨63, 32, .rw, 0⟩, ⟨31, 0, .rw, 0⟩]⟩
  | .MGT_APERTURE => ⟨64, [⟨0x10038, [], 0⟩],
      [⟨63, 63, .rw, 0⟩, ⟨59, 48, .rw, 0⟩, ⟨47, 16, .rw, 0⟩]⟩
  | .MGT_SEC_STATUS => ⟨64, [⟨0x10100, [], 0⟩],
      [⟨63, 48, .ro, 0⟩, ⟨47, 32, .ro, 0⟩, ⟨2, 2, .ro, 0⟩, ⟨1, 1, .ro, 0⟩, ⟨0, 0, .ro, 0⟩]⟩
  | .HUB_FLT_CTL => ⟨32, [⟨0x100000, [], 0⟩],
      [⟨15, 0, .rw, 65520⟩]⟩
  | .HUB_FLT_PTRS => ⟨64, [⟨0x100008, [], 0⟩],
      [⟨63, 32, .rw, 0⟩, ⟨31, 0, .ro, 0⟩]⟩
  | .HUB_FLT_STATUS => ⟨64, [⟨0x100010, [], 0⟩],
      [⟨63, 32, .rc, 0⟩]⟩
  | .HUB_RESET_CMD => ⟨64, [⟨0x100018, [], 0⟩],
      [⟨63, 48, .wo, 0⟩, ⟨23, 20, .wo, 0⟩, ⟨19, 16, .wo, 0⟩, ⟨11, 0, .wo, 0⟩]⟩
  | .HUB_RESET_STATUS => ⟨64, [⟨0x100020, [], 0⟩],
      [⟨63, 32, .ro, 0⟩, ⟨23, 20, .ro, 0⟩, ⟨19, 16, .ro, 0⟩, ⟨15, 4, .ro, 0⟩, ⟨3, 2, .ro, 0⟩, ⟨1, 1, .w1c, 0⟩,
       ⟨0, 0, .ro, 0⟩]⟩
  | .HUB_RESET_TIME => ⟨64, [⟨0x100028, [], 0⟩],
      [⟨63, 0, .ro, 0⟩]⟩
  | .HUB_LEASE_STATUS => ⟨64, [⟨0x100030, [], 0⟩],
      [⟨63, 32, .rc, 0⟩, ⟨31, 16, .rc, 0⟩, ⟨15, 0, .rc, 0⟩]⟩
  | .HUB_TRACKER => ⟨64, [⟨0x100038, [], 0⟩],
      [⟨16, 0, .ro, 0⟩]⟩
  | .HUB_FLT_ENTRY => ⟨64, [⟨0x110000, [(1024, 0x20), (4, 8)], 0⟩],
      [⟨63, 0, .ro, 0⟩]⟩
  | .OBS_CTL => ⟨32, [⟨0x700000, [], 0⟩],
      [⟨0, 0, .rw, 0⟩]⟩
  | .OBS_STATUS => ⟨64, [⟨0x700008, [], 0⟩],
      [⟨63, 32, .ro, 0⟩, ⟨15, 8, .ro, 0⟩, ⟨1, 1, .ro, 0⟩, ⟨0, 0, .ro, 0⟩]⟩
  | .OBS_RESERVE => ⟨64, [⟨0x700010, [], 0⟩],
      [⟨63, 32, .ro, 0⟩, ⟨31, 0, .ro, 0⟩]⟩
  | .OBS_SMP_CTL => ⟨64, [⟨0x700018, [], 0⟩],
      [⟨63, 63, .ro, 0⟩, ⟨57, 48, .ro, 0⟩, ⟨44, 40, .ro, 0⟩, ⟨12, 0, .ro, 0⟩]⟩
  | .OBS_SMP_RING => ⟨64, [⟨0x700020, [], 0⟩],
      [⟨63, 48, .ro, 0⟩, ⟨47, 0, .ro, 0⟩]⟩
  | .OBS_SMP_PTRS => ⟨64, [⟨0x700028, [], 0⟩],
      [⟨63, 32, .rw, 0⟩, ⟨31, 0, .ro, 0⟩]⟩
  | .OBS_SMP_STATUS => ⟨64, [⟨0x700030, [], 0⟩],
      [⟨63, 32, .rc, 0⟩, ⟨31, 0, .rc, 0⟩]⟩
  | .OBS_BW_CTL => ⟨32, [⟨0x700038, [], 0⟩],
      [⟨13, 0, .rw, 1000⟩]⟩
  | .OBS_CSMP_CTL => ⟨64, [⟨0x700040, [], 0⟩],
      [⟨63, 63, .ro, 0⟩, ⟨62, 62, .ro, 0⟩, ⟨55, 32, .ro, 0⟩, ⟨4, 0, .ro, 0⟩]⟩
  | .OBS_CSMP_RING => ⟨64, [⟨0x700048, [], 0⟩],
      [⟨63, 48, .ro, 0⟩, ⟨47, 0, .ro, 0⟩]⟩
  | .OBS_CSMP_TILES => ⟨64, [⟨0x700050, [], 0⟩],
      [⟨47, 0, .ro, 0⟩]⟩
  | .OBS_CSMP_PTRS => ⟨64, [⟨0x700058, [], 0⟩],
      [⟨63, 32, .rw, 0⟩, ⟨31, 0, .ro, 0⟩]⟩
  | .OBS_CSMP_STATUS => ⟨64, [⟨0x700060, [], 0⟩],
      [⟨63, 32, .rc, 0⟩, ⟨31, 0, .rc, 0⟩]⟩
  | .OBS_FN_SEL => ⟨32, [⟨0x700068, [], 0⟩],
      [⟨7, 0, .rw, 0⟩]⟩
  | .OBS_FN_CNT => ⟨64, [⟨0x700100, [(16, 8)], 0⟩],
      [⟨63, 63, .w1c, 0⟩, ⟨47, 0, .ro, 0⟩]⟩
  | .OBS_BW => ⟨64, [⟨0x700400, [(56, 8)], 0⟩],
      [⟨63, 32, .ro, 0⟩, ⟨31, 0, .ro, 0⟩]⟩
  | .OBS_MARK => ⟨64, [⟨0x700800, [(1024, 8)], 0⟩],
      [⟨63, 63, .ro, 0⟩, ⟨62, 62, .ro, 0⟩, ⟨61, 58, .ro, 0⟩, ⟨57, 46, .ro, 0⟩, ⟨45, 30, .ro, 0⟩, ⟨15, 8, .ro, 0⟩,
       ⟨7, 0, .ro, 0⟩]⟩
  | .OBS_F => ⟨64, [⟨0x710000, [(768, 0x100), (16, 8)], 0⟩],
      [⟨63, 63, .w1c, 0⟩, ⟨47, 0, .ro, 0⟩]⟩
  | .OBS_P => ⟨64, [⟨0x710080, [(768, 0x100), (8, 8)], 0⟩],
      [⟨63, 63, .w1c, 0⟩, ⟨47, 0, .rw, 0⟩]⟩
  | .OBS_PCTL => ⟨64, [⟨0x7100c0, [(768, 0x100), (8, 8)], 0⟩],
      [⟨63, 63, .rw, 0⟩, ⟨62, 62, .rw, 0⟩, ⟨61, 61, .rw, 0⟩, ⟨60, 60, .rw, 0⟩, ⟨59, 59, .rw, 0⟩, ⟨58, 51, .rw, 0⟩,
       ⟨50, 45, .rw, 0⟩, ⟨44, 33, .rw, 0⟩, ⟨31, 16, .rw, 0⟩, ⟨15, 0, .rw, 0⟩]⟩
  | .TMB_TIME => ⟨64, [⟨0x30000, [], 0⟩],
      [⟨63, 0, .ro, 0⟩]⟩
  | .TMB_CTL => ⟨32, [⟨0x30008, [], 0⟩],
      [⟨1, 1, .rw, 0⟩, ⟨0, 0, .rw, 0⟩]⟩
  | .TMB_EPOCH => ⟨64, [⟨0x30010, [], 0⟩],
      [⟨63, 0, .rw, 0⟩]⟩
  | .TMB_STATUS => ⟨64, [⟨0x30018, [], 0⟩],
      [⟨63, 32, .ro, 0⟩, ⟨23, 16, .ro, 255⟩, ⟨15, 12, .ro, 15⟩, ⟨4, 4, .w1c, 0⟩, ⟨3, 3, .w1c, 0⟩, ⟨2, 2, .ro, 0⟩,
       ⟨1, 1, .ro, 0⟩, ⟨0, 0, .ro, 0⟩]⟩
  | .TMB_PPS_TIME => ⟨64, [⟨0x30020, [], 0⟩],
      [⟨63, 0, .ro, 0⟩]⟩
  | .GST_CTL => ⟨32, [⟨0x600000, [(2, 0x1000)], 0⟩],
      [⟨2, 2, .rw, 1⟩, ⟨1, 1, .wo, 0⟩, ⟨0, 0, .rw, 0⟩]⟩
  | .GST_STATUS => ⟨64, [⟨0x600008, [(2, 0x1000)], 0⟩],
      [⟨47, 40, .ro, 0⟩, ⟨33, 32, .ro, 0⟩, ⟨31, 24, .ro, 0⟩, ⟨2, 0, .ro, 0⟩]⟩
  | .GST_BIND => ⟨32, [⟨0x600010, [(2, 0x1000)], 0⟩],
      [⟨12, 12, .rw, 0⟩, ⟨11, 0, .rw, 0⟩]⟩
  | .GST_CAP => ⟨64, [⟨0x600018, [(2, 0x1000)], 0⟩],
      [⟨63, 48, .ro, 0⟩, ⟨47, 32, .ro, 0⟩, ⟨31, 16, .ro, 0⟩, ⟨15, 11, .ro, 0⟩, ⟨10, 6, .ro, 0⟩, ⟨5, 3, .ro, 0⟩,
       ⟨0, 0, .ro, 0⟩]⟩
  | .GST_WIN => ⟨64, [⟨0x600020, [(2, 0x1000), (4, 8)], 0⟩],
      [⟨55, 28, .ro, 0⟩, ⟨27, 0, .ro, 0⟩]⟩
  | .GST_ERR => ⟨64, [⟨0x600040, [(2, 0x1000)], 0⟩],
      [⟨63, 48, .rc, 0⟩, ⟨47, 32, .rc, 0⟩, ⟨31, 16, .rc, 0⟩, ⟨15, 0, .rc, 0⟩]⟩
  | .DBG_ID => ⟨64, [⟨0x800000, [], 0⟩],
      [⟨31, 0, .ro, 0⟩]⟩
  | .DBG_CTL => ⟨32, [⟨0x800008, [], 0⟩],
      [⟨1, 1, .rw, 0⟩, ⟨0, 0, .rw, 0⟩]⟩
  | .DBG_STATUS => ⟨64, [⟨0x800010, [], 0⟩],
      [⟨24, 16, .ro, 0⟩, ⟨5, 5, .w1c, 0⟩, ⟨4, 4, .w1c, 0⟩, ⟨3, 3, .ro, 0⟩, ⟨2, 2, .ro, 0⟩, ⟨1, 1, .ro, 0⟩]⟩
  | .DBG_HALT_CMD => ⟨64, [⟨0x800018, [], 0⟩],
      [⟨31, 28, .wo, 0⟩, ⟨19, 16, .wo, 0⟩, ⟨12, 8, .wo, 0⟩, ⟨5, 0, .wo, 0⟩]⟩
  | .DBG_GRP_SEL => ⟨32, [⟨0x800020, [], 0⟩],
      [⟨19, 16, .rw, 0⟩, ⟨12, 8, .rw, 0⟩, ⟨5, 0, .rw, 0⟩]⟩
  | .DBG_GRP_STATE => ⟨64, [⟨0x800028, [], 0⟩],
      [⟨63, 63, .ro, 0⟩, ⟨62, 62, .ro, 0⟩, ⟨61, 61, .ro, 0⟩, ⟨60, 60, .ro, 0⟩, ⟨59, 48, .ro, 0⟩, ⟨47, 0, .ro, 0⟩]⟩
  | .DBG_GRP_LANES => ⟨64, [⟨0x800030, [], 0⟩],
      [⟨63, 32, .ro, 0⟩, ⟨31, 0, .ro, 0⟩]⟩
  | .DBG_REG_SEL => ⟨32, [⟨0x800038, [], 0⟩],
      [⟨12, 8, .rw, 0⟩, ⟨7, 0, .rw, 0⟩]⟩
  | .DBG_REG_DATA => ⟨32, [⟨0x800040, [], 0⟩],
      [⟨31, 0, .rw, 0⟩]⟩
  | .DBG_STEP_EN => ⟨64, [⟨0x800048, [], 0⟩],
      [⟨47, 0, .rw, 0⟩]⟩
  | .DBG_STEP_GO => ⟨32, [⟨0x800050, [], 0⟩],
      [⟨5, 0, .wo, 0⟩]⟩
  | .DBG_STEP_STATUS => ⟨64, [⟨0x800058, [], 0⟩],
      [⟨47, 0, .ro, 0⟩]⟩
  | .SRV_FW_STATUS => ⟨64, [⟨0x3001000, [], 0⟩],
      [⟨63, 48, .ro, 0⟩, ⟨47, 32, .ro, 0⟩, ⟨11, 11, .ro, 0⟩, ⟨10, 10, .ro, 0⟩, ⟨9, 9, .ro, 0⟩, ⟨8, 8, .ro, 0⟩,
       ⟨5, 0, .ro, 0⟩]⟩
  | .SRV_CFG_STATUS => ⟨64, [⟨0x3001008, [], 0⟩],
      [⟨63, 32, .ro, 0⟩, ⟨31, 16, .ro, 0⟩, ⟨15, 0, .ro, 0⟩]⟩
  | .SRV_INPUT_STATUS => ⟨64, [⟨0x3001010, [], 0⟩],
      [⟨63, 48, .rc, 0⟩, ⟨47, 32, .rc, 0⟩, ⟨31, 16, .rc, 0⟩, ⟨15, 0, .rc, 0⟩]⟩
  | .SRV_SENSOR_FAIL => ⟨64, [⟨0x3001018, [], 0⟩],
      [⟨42, 0, .ro, 0⟩]⟩
  | .SRV_REQ_TIMEOUT => ⟨32, [⟨0x3001020, [], 0⟩],
      [⟨31, 0, .rw, 1000⟩]⟩
  | .SRV_BIND_OFF => ⟨64, [⟨0x3001028, [], 0⟩],
      [⟨63, 48, .wo, 0⟩, ⟨47, 32, .wo, 0⟩, ⟨1, 1, .ro, 0⟩, ⟨0, 0, .ro, 0⟩]⟩
  | .SRV_ALERT => ⟨32, [⟨0x3001030, [], 0⟩],
      [⟨6, 6, .ro, 0⟩, ⟨5, 5, .ro, 0⟩, ⟨4, 4, .ro, 0⟩, ⟨3, 3, .ro, 0⟩, ⟨2, 2, .ro, 0⟩, ⟨0, 0, .ro, 0⟩]⟩

/-- A named field of a register. -/
structure Fld where
  reg : Reg
  hi : Nat
  lo : Nat
  deriving DecidableEq, Repr

/-! The fields of the registers, as BLOCK_NAME_FIELD. -/
def Fld.GLB_ID_STEPPING : Fld := ⟨.GLB_ID, 63, 56⟩
def Fld.GLB_ID_GRADE : Fld := ⟨.GLB_ID, 55, 48⟩
def Fld.GLB_ID_GUEST_POP : Fld := ⟨.GLB_ID, 47, 40⟩
def Fld.GLB_ID_PKG_SERIAL : Fld := ⟨.GLB_ID, 31, 0⟩
def Fld.GLB_STATUS_FABRIC_DOWNSTEP : Fld := ⟨.GLB_STATUS, 5, 5⟩
def Fld.GLB_STATUS_CLK_HOLDOVER : Fld := ⟨.GLB_STATUS, 4, 4⟩
def Fld.GLB_STATUS_DEGRADED : Fld := ⟨.GLB_STATUS, 3, 3⟩
def Fld.GLB_STATUS_PKG_MAP_FAULT : Fld := ⟨.GLB_STATUS, 2, 2⟩
def Fld.GLB_STATUS_DIE_MAP_FAULT : Fld := ⟨.GLB_STATUS, 1, 1⟩
def Fld.GLB_STATUS_READY : Fld := ⟨.GLB_STATUS, 0, 0⟩
def Fld.GLB_DIE_PRESENT_BD_PRESENT : Fld := ⟨.GLB_DIE_PRESENT, 15, 12⟩
def Fld.GLB_DIE_PRESENT_CD_PRESENT : Fld := ⟨.GLB_DIE_PRESENT, 11, 0⟩
def Fld.GLB_DIE_FAULT_CAUSE : Fld := ⟨.GLB_DIE_FAULT, 63, 0⟩
def Fld.GLB_FABRIC_VERSION_OPERATING : Fld := ⟨.GLB_FABRIC_VERSION, 23, 16⟩
def Fld.GLB_FABRIC_VERSION_DIE_MAX : Fld := ⟨.GLB_FABRIC_VERSION, 15, 8⟩
def Fld.GLB_FABRIC_VERSION_HUB : Fld := ⟨.GLB_FABRIC_VERSION, 7, 0⟩
def Fld.GLB_BOOT_STATUS_STEP : Fld := ⟨.GLB_BOOT_STATUS, 31, 28⟩
def Fld.GLB_BOOT_STATUS_FAIL_STEP : Fld := ⟨.GLB_BOOT_STATUS, 27, 24⟩
def Fld.GLB_BOOT_STATUS_CAUSE : Fld := ⟨.GLB_BOOT_STATUS, 23, 16⟩
def Fld.GLB_BOOT_STATUS_VIN_WAIT : Fld := ⟨.GLB_BOOT_STATUS, 12, 12⟩
def Fld.GLB_BOOT_STATUS_RECOVERY : Fld := ⟨.GLB_BOOT_STATUS, 11, 11⟩
def Fld.GLB_BOOT_STATUS_CFG_FIELD_DEFAULTED : Fld := ⟨.GLB_BOOT_STATUS, 10, 10⟩
def Fld.GLB_BOOT_STATUS_CAL_CLAMPED : Fld := ⟨.GLB_BOOT_STATUS, 9, 9⟩
def Fld.GLB_BOOT_STATUS_CFG_DEFAULTED : Fld := ⟨.GLB_BOOT_STATUS, 8, 8⟩
def Fld.GLB_BOOT_STATUS_FW_B_BAD : Fld := ⟨.GLB_BOOT_STATUS, 7, 7⟩
def Fld.GLB_BOOT_STATUS_FW_A_BAD : Fld := ⟨.GLB_BOOT_STATUS, 6, 6⟩
def Fld.GLB_BOOT_STATUS_FW_COPY : Fld := ⟨.GLB_BOOT_STATUS, 5, 5⟩
def Fld.GLB_BOOT_STATUS_SVN_RAISED : Fld := ⟨.GLB_BOOT_STATUS, 4, 4⟩
def Fld.GLB_BOOT_STATUS_FROM_POWER : Fld := ⟨.GLB_BOOT_STATUS, 0, 0⟩
def Fld.GLB_CLK_STATUS_LOCK : Fld := ⟨.GLB_CLK_STATUS, 59, 0⟩
def Fld.GLB_DIE_ID_WORD : Fld := ⟨.GLB_DIE_ID, 63, 0⟩
def Fld.GLB_HUB_ID_WORD : Fld := ⟨.GLB_HUB_ID, 63, 0⟩
def Fld.ARR_STATUS_CTX : Fld := ⟨.ARR_STATUS, 31, 20⟩
def Fld.ARR_STATUS_DATAFLOW : Fld := ⟨.ARR_STATUS, 13, 12⟩
def Fld.ARR_STATUS_STOP_PENDING : Fld := ⟨.ARR_STATUS, 11, 11⟩
def Fld.ARR_STATUS_RUNAHEAD : Fld := ⟨.ARR_STATUS, 10, 10⟩
def Fld.ARR_STATUS_BUSY : Fld := ⟨.ARR_STATUS, 9, 9⟩
def Fld.ARR_STATUS_NAN : Fld := ⟨.ARR_STATUS, 3, 3⟩
def Fld.ARR_STATUS_OVERFLOW : Fld := ⟨.ARR_STATUS, 2, 2⟩
def Fld.ARR_STATUS_INEXACT : Fld := ⟨.ARR_STATUS, 1, 1⟩
def Fld.ARR_STATUS_POISON : Fld := ⟨.ARR_STATUS, 0, 0⟩
def Fld.ARR_CONFIG_RUNAHEAD_EN : Fld := ⟨.ARR_CONFIG, 16, 16⟩
def Fld.ARR_CONFIG_USER_MIB : Fld := ⟨.ARR_CONFIG, 5, 0⟩
def Fld.ARR_FAULT_STATUS : Fld := ⟨.ARR_FAULT, 63, 48⟩
def Fld.ARR_FAULT_CTX : Fld := ⟨.ARR_FAULT, 43, 32⟩
def Fld.ARR_FAULT_TAG : Fld := ⟨.ARR_FAULT, 31, 0⟩
def Fld.ARR_LAST_DONE_TIME_TIME : Fld := ⟨.ARR_LAST_DONE_TIME, 63, 0⟩
def Fld.ARR_ACT_SLOT_CRC : Fld := ⟨.ARR_ACT_SLOT, 63, 32⟩
def Fld.ARR_ACT_SLOT_SEGMENTS : Fld := ⟨.ARR_ACT_SLOT, 7, 1⟩
def Fld.ARR_ACT_SLOT_LOADED : Fld := ⟨.ARR_ACT_SLOT, 0, 0⟩
def Fld.GC_STATUS_CTX : Fld := ⟨.GC_STATUS, 43, 32⟩
def Fld.GC_STATUS_MISMATCH : Fld := ⟨.GC_STATUS, 17, 17⟩
def Fld.GC_STATUS_FAULTED : Fld := ⟨.GC_STATUS, 16, 16⟩
def Fld.GC_STATUS_PARKED : Fld := ⟨.GC_STATUS, 14, 8⟩
def Fld.GC_STATUS_BUSY : Fld := ⟨.GC_STATUS, 7, 7⟩
def Fld.GC_STATUS_GROUPS : Fld := ⟨.GC_STATUS, 6, 0⟩
def Fld.GC_L1_STATUS_ECC_CORRECTED : Fld := ⟨.GC_L1_STATUS, 31, 24⟩
def Fld.GC_L1_STATUS_ECC_UNCORRECTED : Fld := ⟨.GC_L1_STATUS, 23, 16⟩
def Fld.GC_L1_STATUS_EVB_USED : Fld := ⟨.GC_L1_STATUS, 11, 8⟩
def Fld.GC_L1_STATUS_LOCKED_WAYS : Fld := ⟨.GC_L1_STATUS, 2, 0⟩
def Fld.GC_FAULT_INFO_STATUS : Fld := ⟨.GC_FAULT_INFO, 63, 48⟩
def Fld.GC_FAULT_INFO_LANE : Fld := ⟨.GC_FAULT_INFO, 47, 40⟩
def Fld.GC_FAULT_INFO_KIND : Fld := ⟨.GC_FAULT_INFO, 39, 36⟩
def Fld.GC_FAULT_INFO_REMAIN : Fld := ⟨.GC_FAULT_INFO, 31, 0⟩
def Fld.GC_FAULT_VADDR_VADDR : Fld := ⟨.GC_FAULT_VADDR, 63, 0⟩
def Fld.GC_FAULT_PC_PC : Fld := ⟨.GC_FAULT_PC, 63, 0⟩
def Fld.GC_LAST_DONE_TIME_TIME : Fld := ⟨.GC_LAST_DONE_TIME, 63, 0⟩
def Fld.GC_ISSUED_COUNT : Fld := ⟨.GC_ISSUED, 63, 0⟩
def Fld.CD_DSCR_OWNER0_OWNERS : Fld := ⟨.CD_DSCR_OWNER0, 63, 0⟩
def Fld.CD_DSCR_OWNER1_OWNERS : Fld := ⟨.CD_DSCR_OWNER1, 63, 0⟩
def Fld.HBM_STK_STATUS_TEMP : Fld := ⟨.HBM_STK_STATUS, 31, 24⟩
def Fld.HBM_STK_STATUS_SW_BUSY : Fld := ⟨.HBM_STK_STATUS, 3, 3⟩
def Fld.HBM_STK_STATUS_SCRUB_ACTIVE : Fld := ⟨.HBM_STK_STATUS, 2, 2⟩
def Fld.HBM_STK_STATUS_OUT_OF_SERVICE : Fld := ⟨.HBM_STK_STATUS, 1, 1⟩
def Fld.HBM_STK_STATUS_SELF_REFRESH : Fld := ⟨.HBM_STK_STATUS, 0, 0⟩
def Fld.HBM_TRAIN_RESULT_RATE : Fld := ⟨.HBM_TRAIN_RESULT, 63, 56⟩
def Fld.HBM_TRAIN_RESULT_ATTEMPTS : Fld := ⟨.HBM_TRAIN_RESULT, 55, 48⟩
def Fld.HBM_TRAIN_RESULT_LANES_REPAIRED : Fld := ⟨.HBM_TRAIN_RESULT, 47, 40⟩
def Fld.HBM_TRAIN_RESULT_READ_EYE : Fld := ⟨.HBM_TRAIN_RESULT, 31, 24⟩
def Fld.HBM_TRAIN_RESULT_WRITE_EYE : Fld := ⟨.HBM_TRAIN_RESULT, 23, 16⟩
def Fld.HBM_TRAIN_RESULT_WORST_PC : Fld := ⟨.HBM_TRAIN_RESULT, 9, 4⟩
def Fld.HBM_TRAIN_RESULT_PASS : Fld := ⟨.HBM_TRAIN_RESULT, 0, 0⟩
def Fld.HBM_ECC_COUNT_CORRECTED : Fld := ⟨.HBM_ECC_COUNT, 63, 40⟩
def Fld.HBM_ECC_COUNT_UNCORRECTED : Fld := ⟨.HBM_ECC_COUNT, 39, 24⟩
def Fld.HBM_ECC_COUNT_ODECC_CORR : Fld := ⟨.HBM_ECC_COUNT, 23, 8⟩
def Fld.HBM_ECC_COUNT_ODECC_UNCORR : Fld := ⟨.HBM_ECC_COUNT, 7, 0⟩
def Fld.HBM_ECC_LOG_VALID : Fld := ⟨.HBM_ECC_LOG, 63, 63⟩
def Fld.HBM_ECC_LOG_OVERRUN : Fld := ⟨.HBM_ECC_LOG, 62, 62⟩
def Fld.HBM_ECC_LOG_KIND : Fld := ⟨.HBM_ECC_LOG, 61, 58⟩
def Fld.HBM_ECC_LOG_TIME : Fld := ⟨.HBM_ECC_LOG, 57, 0⟩
def Fld.HBM_ECC_LOC_ROW : Fld := ⟨.HBM_ECC_LOC, 63, 48⟩
def Fld.HBM_ECC_LOC_BANK : Fld := ⟨.HBM_ECC_LOC, 47, 44⟩
def Fld.HBM_ECC_LOC_PC : Fld := ⟨.HBM_ECC_LOC, 43, 38⟩
def Fld.HBM_ECC_LOC_STACK_ADDR : Fld := ⟨.HBM_ECC_LOC, 35, 0⟩
def Fld.HBM_PICOT_CTL_WEIGHT : Fld := ⟨.HBM_PICOT_CTL, 3, 0⟩
def Fld.HBM_REPAIR_CMD_OP : Fld := ⟨.HBM_REPAIR_CMD, 63, 62⟩
def Fld.HBM_REPAIR_CMD_PC : Fld := ⟨.HBM_REPAIR_CMD, 47, 42⟩
def Fld.HBM_REPAIR_CMD_BANK : Fld := ⟨.HBM_REPAIR_CMD, 41, 38⟩
def Fld.HBM_REPAIR_CMD_ROW : Fld := ⟨.HBM_REPAIR_CMD, 37, 22⟩
def Fld.HBM_REPAIR_STATUS_SPARE_LEFT : Fld := ⟨.HBM_REPAIR_STATUS, 63, 48⟩
def Fld.HBM_REPAIR_STATUS_MIN_BANK_SPARE : Fld := ⟨.HBM_REPAIR_STATUS, 47, 40⟩
def Fld.HBM_REPAIR_STATUS_PENDING_HARD : Fld := ⟨.HBM_REPAIR_STATUS, 39, 32⟩
def Fld.HBM_REPAIR_STATUS_SOFT_DONE : Fld := ⟨.HBM_REPAIR_STATUS, 31, 16⟩
def Fld.HBM_REPAIR_STATUS_LAST_RESULT : Fld := ⟨.HBM_REPAIR_STATUS, 7, 4⟩
def Fld.HBM_REPAIR_STATUS_BUSY : Fld := ⟨.HBM_REPAIR_STATUS, 0, 0⟩
def Fld.HBM_REPAIR_LOG_KIND : Fld := ⟨.HBM_REPAIR_LOG, 63, 62⟩
def Fld.HBM_REPAIR_LOG_CAUSE : Fld := ⟨.HBM_REPAIR_LOG, 61, 60⟩
def Fld.HBM_REPAIR_LOG_VALID : Fld := ⟨.HBM_REPAIR_LOG, 59, 59⟩
def Fld.HBM_REPAIR_LOG_PC : Fld := ⟨.HBM_REPAIR_LOG, 58, 53⟩
def Fld.HBM_REPAIR_LOG_BANK : Fld := ⟨.HBM_REPAIR_LOG, 52, 49⟩
def Fld.HBM_REPAIR_LOG_ROW : Fld := ⟨.HBM_REPAIR_LOG, 48, 33⟩
def Fld.HBM_REPAIR_LOG_BOOT : Fld := ⟨.HBM_REPAIR_LOG, 31, 0⟩
def Fld.HBM_SW_CTL_SEED : Fld := ⟨.HBM_SW_CTL, 63, 32⟩
def Fld.HBM_SW_CTL_PATTERN : Fld := ⟨.HBM_SW_CTL, 19, 16⟩
def Fld.HBM_SW_CTL_OP : Fld := ⟨.HBM_SW_CTL, 11, 8⟩
def Fld.HBM_SW_CTL_STOP : Fld := ⟨.HBM_SW_CTL, 1, 1⟩
def Fld.HBM_SW_CTL_START : Fld := ⟨.HBM_SW_CTL, 0, 0⟩
def Fld.HBM_SW_BASE_ADDR : Fld := ⟨.HBM_SW_BASE, 35, 0⟩
def Fld.HBM_SW_LEN_LEN : Fld := ⟨.HBM_SW_LEN, 36, 0⟩
def Fld.HBM_SW_PATTERN_VALUE : Fld := ⟨.HBM_SW_PATTERN, 63, 0⟩
def Fld.HBM_SW_RESULT_DONE : Fld := ⟨.HBM_SW_RESULT, 63, 63⟩
def Fld.HBM_SW_RESULT_FAIL : Fld := ⟨.HBM_SW_RESULT, 62, 62⟩
def Fld.HBM_SW_RESULT_FAIL_COUNT : Fld := ⟨.HBM_SW_RESULT, 61, 36⟩
def Fld.HBM_SW_RESULT_FIRST_FAIL : Fld := ⟨.HBM_SW_RESULT, 35, 0⟩
def Fld.HBM_G_CTL_CE_THRESHOLD : Fld := ⟨.HBM_G_CTL, 31, 24⟩
def Fld.HBM_G_CTL_SCRUB_PERIOD : Fld := ⟨.HBM_G_CTL, 15, 8⟩
def Fld.HBM_G_CTL_TARGET_RATE : Fld := ⟨.HBM_G_CTL, 7, 4⟩
def Fld.HBM_G_CTL_AUTO_SPPR : Fld := ⟨.HBM_G_CTL, 3, 3⟩
def Fld.HBM_G_CTL_TEST_MODE : Fld := ⟨.HBM_G_CTL, 0, 0⟩
def Fld.HBM_G_STATUS_IN_SERVICE : Fld := ⟨.HBM_G_STATUS, 31, 16⟩
def Fld.HBM_G_STATUS_OPERATING_RATE : Fld := ⟨.HBM_G_STATUS, 11, 8⟩
def Fld.HBM_G_STATUS_QUAD_ONLY : Fld := ⟨.HBM_G_STATUS, 2, 2⟩
def Fld.HBM_G_STATUS_RATE_DOWNSTEP : Fld := ⟨.HBM_G_STATUS, 1, 1⟩
def Fld.HBM_G_STATUS_TRAINED : Fld := ⟨.HBM_G_STATUS, 0, 0⟩
def Fld.HBM_G_FRAME_MODE_QL : Fld := ⟨.HBM_G_FRAME_MODE, 15, 0⟩
def Fld.HBM_KEY_CTL_SLOT : Fld := ⟨.HBM_KEY_CTL, 55, 48⟩
def Fld.HBM_KEY_CTL_OP : Fld := ⟨.HBM_KEY_CTL, 47, 44⟩
def Fld.HBM_KEY_CTL_ERROR : Fld := ⟨.HBM_KEY_CTL, 1, 1⟩
def Fld.HBM_KEY_CTL_BUSY : Fld := ⟨.HBM_KEY_CTL, 0, 0⟩
def Fld.HBM_KEY_BUF_ADDR : Fld := ⟨.HBM_KEY_BUF, 39, 0⟩
def Fld.HBM_KEY_STATUS_MGR_LOADED : Fld := ⟨.HBM_KEY_STATUS, 63, 63⟩
def Fld.HBM_KEY_STATUS_LOADED : Fld := ⟨.HBM_KEY_STATUS, 47, 0⟩
def Fld.UCC_CTL_HINTS_EN : Fld := ⟨.UCC_CTL, 8, 8⟩
def Fld.UCC_CTL_LEASE_US : Fld := ⟨.UCC_CTL, 7, 0⟩
def Fld.UCC_SLICE_STATUS_WAYS_ON : Fld := ⟨.UCC_SLICE_STATUS, 55, 48⟩
def Fld.UCC_SLICE_STATUS_DIRTY_LINES : Fld := ⟨.UCC_SLICE_STATUS, 47, 24⟩
def Fld.UCC_SLICE_STATUS_VALID_LINES : Fld := ⟨.UCC_SLICE_STATUS, 23, 0⟩
def Fld.UCC_SLICE_ERR_CORRECTED : Fld := ⟨.UCC_SLICE_ERR, 63, 48⟩
def Fld.UCC_SLICE_ERR_POISONED : Fld := ⟨.UCC_SLICE_ERR, 47, 32⟩
def Fld.UCC_SLICE_ERR_DROPPED : Fld := ⟨.UCC_SLICE_ERR, 31, 16⟩
def Fld.UCC_DIR_STATUS_BACK_INV : Fld := ⟨.UCC_DIR_STATUS, 63, 40⟩
def Fld.UCC_DIR_STATUS_ENTRIES : Fld := ⟨.UCC_DIR_STATUS, 21, 0⟩
def Fld.UCC_SKEIN_STATUS_EARLY : Fld := ⟨.UCC_SKEIN_STATUS, 63, 48⟩
def Fld.UCC_SKEIN_STATUS_DUP_DROPPED : Fld := ⟨.UCC_SKEIN_STATUS, 47, 32⟩
def Fld.UCC_SKEIN_STATUS_ENTRIES : Fld := ⟨.UCC_SKEIN_STATUS, 13, 0⟩
def Fld.UCC_PANEL_SHARE_OCCUPIED : Fld := ⟨.UCC_PANEL_SHARE, 63, 32⟩
def Fld.UCC_PANEL_SHARE_TARGET : Fld := ⟨.UCC_PANEL_SHARE, 31, 0⟩
def Fld.XLT_FAULT_INFO_CAUSE : Fld := ⟨.XLT_FAULT_INFO, 63, 60⟩
def Fld.XLT_FAULT_INFO_LEVEL : Fld := ⟨.XLT_FAULT_INFO, 59, 58⟩
def Fld.XLT_FAULT_INFO_ACCESS : Fld := ⟨.XLT_FAULT_INFO, 57, 55⟩
def Fld.XLT_FAULT_INFO_SOURCE : Fld := ⟨.XLT_FAULT_INFO, 54, 52⟩
def Fld.XLT_FAULT_INFO_CTX : Fld := ⟨.XLT_FAULT_INFO, 43, 32⟩
def Fld.XLT_FAULT_INFO_TAG : Fld := ⟨.XLT_FAULT_INFO, 31, 0⟩
def Fld.XLT_FAULT_VADDR_VADDR : Fld := ⟨.XLT_FAULT_VADDR, 63, 0⟩
def Fld.XLT_FAULT_PTE_PTE : Fld := ⟨.XLT_FAULT_PTE, 63, 0⟩
def Fld.XLT_FAULT_TIME_TIME : Fld := ⟨.XLT_FAULT_TIME, 63, 0⟩
def Fld.XLT_COUNTS_WALKS : Fld := ⟨.XLT_COUNTS, 63, 32⟩
def Fld.XLT_COUNTS_FAULTS : Fld := ⟨.XLT_COUNTS, 31, 0⟩
def Fld.QUE_POOL_ALLOCATED : Fld := ⟨.QUE_POOL, 50, 32⟩
def Fld.QUE_POOL_FREE : Fld := ⟨.QUE_POOL, 18, 0⟩
def Fld.QUE_SEL_QUEUE : Fld := ⟨.QUE_SEL, 17, 0⟩
def Fld.QUE_CFG_TYPE : Fld := ⟨.QUE_CFG, 63, 62⟩
def Fld.QUE_CFG_LOG2_ENTRIES : Fld := ⟨.QUE_CFG, 61, 57⟩
def Fld.QUE_CFG_LC_QUEUE : Fld := ⟨.QUE_CFG, 56, 56⟩
def Fld.QUE_CFG_ANY_CTX : Fld := ⟨.QUE_CFG, 55, 55⟩
def Fld.QUE_CFG_VALID : Fld := ⟨.QUE_CFG, 54, 54⟩
def Fld.QUE_CFG_WEIGHT : Fld := ⟨.QUE_CFG, 51, 48⟩
def Fld.QUE_CFG_FUNC : Fld := ⟨.QUE_CFG, 47, 40⟩
def Fld.QUE_CFG_PANEL : Fld := ⟨.QUE_CFG, 39, 34⟩
def Fld.QUE_CFG_CTX : Fld := ⟨.QUE_CFG, 31, 20⟩
def Fld.QUE_CFG_CPL_QUEUE : Fld := ⟨.QUE_CFG, 17, 0⟩
def Fld.QUE_RING_ADDR : Fld := ⟨.QUE_RING, 63, 0⟩
def Fld.QUE_IRQ_VECTOR : Fld := ⟨.QUE_IRQ, 63, 48⟩
def Fld.QUE_IRQ_COAL_COUNT : Fld := ⟨.QUE_IRQ, 47, 40⟩
def Fld.QUE_IRQ_COAL_US : Fld := ⟨.QUE_IRQ, 39, 24⟩
def Fld.QUE_IRQ_ARMED : Fld := ⟨.QUE_IRQ, 0, 0⟩
def Fld.QUE_PTRS_HEAD : Fld := ⟨.QUE_PTRS, 63, 32⟩
def Fld.QUE_PTRS_TAIL : Fld := ⟨.QUE_PTRS, 31, 0⟩
def Fld.QUE_STATUS_HELD : Fld := ⟨.QUE_STATUS, 7, 7⟩
def Fld.QUE_STATUS_FAULTED : Fld := ⟨.QUE_STATUS, 6, 6⟩
def Fld.QUE_STATUS_DB_BAD : Fld := ⟨.QUE_STATUS, 5, 5⟩
def Fld.QUE_STATUS_LOST : Fld := ⟨.QUE_STATUS, 4, 4⟩
def Fld.QUE_STATUS_OVERFLOWED : Fld := ⟨.QUE_STATUS, 3, 3⟩
def Fld.QUE_STATUS_EMPTY : Fld := ⟨.QUE_STATUS, 1, 1⟩
def Fld.QUE_STATUS_ENABLED : Fld := ⟨.QUE_STATUS, 0, 0⟩
def Fld.QUE_PROGRESS_FETCHED : Fld := ⟨.QUE_PROGRESS, 63, 32⟩
def Fld.QUE_PROGRESS_COMPLETED : Fld := ⟨.QUE_PROGRESS, 31, 0⟩
def Fld.QUE_LAST_TIME_TIME : Fld := ⟨.QUE_LAST_TIME, 63, 0⟩
def Fld.QUE_FN_SEL_FUNC : Fld := ⟨.QUE_FN_SEL, 7, 0⟩
def Fld.QUE_OVF_BASE_LOG2_RECORDS : Fld := ⟨.QUE_OVF_BASE, 63, 59⟩
def Fld.QUE_OVF_BASE_ADDR : Fld := ⟨.QUE_OVF_BASE, 47, 0⟩
def Fld.QUE_OVF_PTRS_HEAD : Fld := ⟨.QUE_OVF_PTRS, 63, 32⟩
def Fld.QUE_OVF_PTRS_TAIL : Fld := ⟨.QUE_OVF_PTRS, 31, 0⟩
def Fld.QUE_FN_STATUS_DROPPED : Fld := ⟨.QUE_FN_STATUS, 63, 32⟩
def Fld.QUE_FN_STATUS_BAD_DOORBELLS : Fld := ⟨.QUE_FN_STATUS, 31, 0⟩
def Fld.QUE_MGR_EVT_QUEUE : Fld := ⟨.QUE_MGR_EVT, 17, 0⟩
def Fld.SRV_STATUS_COMPAT : Fld := ⟨.SRV_STATUS, 63, 48⟩
def Fld.SRV_STATUS_VERSION : Fld := ⟨.SRV_STATUS, 47, 32⟩
def Fld.SRV_STATUS_IMAGE : Fld := ⟨.SRV_STATUS, 8, 8⟩
def Fld.SRV_STATUS_STATE : Fld := ⟨.SRV_STATUS, 3, 0⟩
def Fld.SRV_HEARTBEAT_COUNT : Fld := ⟨.SRV_HEARTBEAT, 63, 0⟩
def Fld.RSQ_STATUS_EVICTED : Fld := ⟨.RSQ_STATUS, 6, 6⟩
def Fld.RSQ_STATUS_POOL_SHORT : Fld := ⟨.RSQ_STATUS, 5, 5⟩
def Fld.RSQ_STATUS_LC_EN : Fld := ⟨.RSQ_STATUS, 4, 4⟩
def Fld.RSQ_STATUS_STATE : Fld := ⟨.RSQ_STATUS, 3, 0⟩
def Fld.RSQ_ROW_ROW : Fld := ⟨.RSQ_ROW, 63, 0⟩
def Fld.RSQ_POOL_LC_OUTSTANDING : Fld := ⟨.RSQ_POOL, 55, 32⟩
def Fld.RSQ_POOL_FREE : Fld := ⟨.RSQ_POOL, 23, 0⟩
def Fld.RSQ_SEQS_WAITING : Fld := ⟨.RSQ_SEQS, 60, 48⟩
def Fld.RSQ_SEQS_PARKED : Fld := ⟨.RSQ_SEQS, 44, 32⟩
def Fld.RSQ_SEQS_RUNNING : Fld := ⟨.RSQ_SEQS, 28, 16⟩
def Fld.RSQ_SEQS_LC : Fld := ⟨.RSQ_SEQS, 12, 0⟩
def Fld.RSQ_ROW_WC_US : Fld := ⟨.RSQ_ROW_WC, 31, 0⟩
def Fld.RSQ_LAST_ROW_TIME_TIME : Fld := ⟨.RSQ_LAST_ROW_TIME, 63, 0⟩
def Fld.RSQ_COUNTS_TINKED : Fld := ⟨.RSQ_COUNTS, 63, 32⟩
def Fld.RSQ_COUNTS_PARKS : Fld := ⟨.RSQ_COUNTS, 31, 16⟩
def Fld.RSQ_COUNTS_EVICTIONS : Fld := ⟨.RSQ_COUNTS, 15, 0⟩
def Fld.RSQ_FAULT_STATUS : Fld := ⟨.RSQ_FAULT, 63, 48⟩
def Fld.RSQ_FAULT_STAGE : Fld := ⟨.RSQ_FAULT, 47, 46⟩
def Fld.RSQ_FAULT_ENTRY : Fld := ⟨.RSQ_FAULT, 40, 32⟩
def Fld.RSQ_FAULT_ROW : Fld := ⟨.RSQ_FAULT, 31, 0⟩
def Fld.PNL_EPOCH_APPLIED : Fld := ⟨.PNL_EPOCH, 63, 32⟩
def Fld.PNL_EPOCH_COMMITTED : Fld := ⟨.PNL_EPOCH, 31, 0⟩
def Fld.PNL_CFG_CTL_TIMEOUT_MS : Fld := ⟨.PNL_CFG_CTL, 15, 0⟩
def Fld.PNL_CFG_STATUS_STAGED : Fld := ⟨.PNL_CFG_STATUS, 31, 16⟩
def Fld.PNL_CFG_STATUS_ROLLED_BACK : Fld := ⟨.PNL_CFG_STATUS, 3, 3⟩
def Fld.PNL_CFG_STATUS_PENDING : Fld := ⟨.PNL_CFG_STATUS, 2, 2⟩
def Fld.PNL_CFG_STATUS_STAGE_FULL : Fld := ⟨.PNL_CFG_STATUS, 1, 1⟩
def Fld.PNL_FREE_TILES_TILES : Fld := ⟨.PNL_FREE_TILES, 47, 0⟩
def Fld.PNL_W_TOTAL_LIMIT : Fld := ⟨.PNL_W_TOTAL, 63, 32⟩
def Fld.PNL_W_TOTAL_RESERVED : Fld := ⟨.PNL_W_TOTAL, 31, 0⟩
def Fld.PNL_COMPACT_TARGET_OFF : Fld := ⟨.PNL_COMPACT, 55, 48⟩
def Fld.PNL_COMPACT_OFF : Fld := ⟨.PNL_COMPACT, 47, 40⟩
def Fld.PNL_COMPACT_EN : Fld := ⟨.PNL_COMPACT, 0, 0⟩
def Fld.PNL_CTX_SEL_CTX : Fld := ⟨.PNL_CTX_SEL, 11, 0⟩
def Fld.PNL_CTX_CLASS_BE_EN : Fld := ⟨.PNL_CTX_CLASS, 63, 63⟩
def Fld.PNL_CTX_CLASS_RELOCATE : Fld := ⟨.PNL_CTX_CLASS, 62, 62⟩
def Fld.PNL_CTX_CLASS_BE_WEIGHT : Fld := ⟨.PNL_CTX_CLASS, 55, 48⟩
def Fld.PNL_CTX_CLASS_STASHED : Fld := ⟨.PNL_CTX_CLASS, 47, 32⟩
def Fld.PNL_CTX_CLASS_SLOTS : Fld := ⟨.PNL_CTX_CLASS, 31, 0⟩
def Fld.PNL_CFG_VALID : Fld := ⟨.PNL_CFG, 63, 63⟩
def Fld.PNL_CFG_LEND : Fld := ⟨.PNL_CFG, 62, 62⟩
def Fld.PNL_CFG_LC_RES : Fld := ⟨.PNL_CFG, 61, 61⟩
def Fld.PNL_CFG_LINK_SHARE : Fld := ⟨.PNL_CFG, 58, 48⟩
def Fld.PNL_CFG_COMPACT_PRIO : Fld := ⟨.PNL_CFG, 47, 40⟩
def Fld.PNL_CFG_MIN_TILES : Fld := ⟨.PNL_CFG, 39, 34⟩
def Fld.PNL_CFG_QUANTUM_US : Fld := ⟨.PNL_CFG, 27, 14⟩
def Fld.PNL_TILES_TILES : Fld := ⟨.PNL_TILES, 47, 0⟩
def Fld.PNL_LC_TILES_LC_TILES : Fld := ⟨.PNL_LC_TILES, 47, 0⟩
def Fld.PNL_W_W : Fld := ⟨.PNL_W, 31, 0⟩
def Fld.PNL_STATUS_STASHED : Fld := ⟨.PNL_STATUS, 63, 48⟩
def Fld.PNL_STATUS_BE_RUNNING : Fld := ⟨.PNL_STATUS, 47, 32⟩
def Fld.PNL_STATUS_LC_OWNED : Fld := ⟨.PNL_STATUS, 31, 24⟩
def Fld.PNL_STATUS_ABANDON : Fld := ⟨.PNL_STATUS, 1, 1⟩
def Fld.PNL_COUNTS_PREEMPTS : Fld := ⟨.PNL_COUNTS, 63, 32⟩
def Fld.PNL_COUNTS_ABANDONS : Fld := ⟨.PNL_COUNTS, 31, 16⟩
def Fld.PNL_COUNTS_REBINDS : Fld := ⟨.PNL_COUNTS, 15, 0⟩
def Fld.PNL_DISPATCH_MAX_NS : Fld := ⟨.PNL_DISPATCH, 63, 32⟩
def Fld.PNL_DISPATCH_LAST_NS : Fld := ⟨.PNL_DISPATCH, 31, 0⟩
def Fld.PNL_LAST_PREEMPT_TIME : Fld := ⟨.PNL_LAST_PREEMPT, 63, 0⟩
def Fld.LNK_CTL_RETRAIN : Fld := ⟨.LNK_CTL, 1, 1⟩
def Fld.LNK_CTL_ADMIN_UP : Fld := ⟨.LNK_CTL, 0, 0⟩
def Fld.LNK_STATUS_PEER_PKG : Fld := ⟨.LNK_STATUS, 62, 48⟩
def Fld.LNK_STATUS_PEER_COMPAT : Fld := ⟨.LNK_STATUS, 47, 32⟩
def Fld.LNK_STATUS_PEER_LINK : Fld := ⟨.LNK_STATUS, 31, 27⟩
def Fld.LNK_STATUS_MGMT_CAUSE : Fld := ⟨.LNK_STATUS, 23, 20⟩
def Fld.LNK_STATUS_DOWN_CAUSE : Fld := ⟨.LNK_STATUS, 19, 16⟩
def Fld.LNK_STATUS_VERSION : Fld := ⟨.LNK_STATUS, 11, 8⟩
def Fld.LNK_STATUS_STATE : Fld := ⟨.LNK_STATUS, 3, 0⟩
def Fld.LNK_ERR_BAD_FLITS : Fld := ⟨.LNK_ERR, 63, 40⟩
def Fld.LNK_ERR_REPLAYS : Fld := ⟨.LNK_ERR, 39, 24⟩
def Fld.LNK_ERR_DUP_DROPPED : Fld := ⟨.LNK_ERR, 23, 8⟩
def Fld.LNK_ERR_RECOVERIES : Fld := ⟨.LNK_ERR, 7, 0⟩
def Fld.LNK_FEC_CORRECTED : Fld := ⟨.LNK_FEC, 63, 32⟩
def Fld.LNK_FEC_UNCORRECTABLE : Fld := ⟨.LNK_FEC, 31, 0⟩
def Fld.LNK_OPTICS_RX_LOS : Fld := ⟨.LNK_OPTICS, 63, 48⟩
def Fld.LNK_OPTICS_LASER_OK : Fld := ⟨.LNK_OPTICS, 43, 40⟩
def Fld.LNK_OPTICS_WORST_RX : Fld := ⟨.LNK_OPTICS, 39, 32⟩
def Fld.LNK_OPTICS_WORST_LANE : Fld := ⟨.LNK_OPTICS, 31, 28⟩
def Fld.LNK_TIME_OFFSET : Fld := ⟨.LNK_TIME, 63, 32⟩
def Fld.LNK_TIME_RTT : Fld := ⟨.LNK_TIME, 31, 0⟩
def Fld.LNK_G_ID_PKG : Fld := ⟨.LNK_G_ID, 14, 0⟩
def Fld.LNK_G_CTL_E2E_TIMEOUT_US : Fld := ⟨.LNK_G_CTL, 15, 0⟩
def Fld.LNK_G_ROUTE_SEL_TABLE : Fld := ⟨.LNK_G_ROUTE_SEL, 8, 8⟩
def Fld.LNK_G_ROUTE_SEL_INDEX : Fld := ⟨.LNK_G_ROUTE_SEL, 7, 0⟩
def Fld.LNK_G_ROUTE_PORTS : Fld := ⟨.LNK_G_ROUTE, 31, 0⟩
def Fld.LNK_G_STATUS_REMOTE_LOST : Fld := ⟨.LNK_G_STATUS, 63, 48⟩
def Fld.LNK_G_STATUS_ROUTE_DROPS : Fld := ⟨.LNK_G_STATUS, 47, 32⟩
def Fld.LNK_G_STATUS_E2E_RESENDS : Fld := ⟨.LNK_G_STATUS, 31, 16⟩
def Fld.LNK_G_STATUS_REFUSED : Fld := ⟨.LNK_G_STATUS, 15, 0⟩
def Fld.PWR_LIMITS_CAP_W : Fld := ⟨.PWR_LIMITS, 63, 48⟩
def Fld.PWR_LIMITS_SHED_LEVEL_W : Fld := ⟨.PWR_LIMITS, 47, 32⟩
def Fld.PWR_LIMITS_SLEW : Fld := ⟨.PWR_LIMITS, 31, 16⟩
def Fld.PWR_LIMITS_GRADE_MAX_W : Fld := ⟨.PWR_LIMITS, 15, 0⟩
def Fld.PWR_STATUS_CEILING_W : Fld := ⟨.PWR_STATUS, 63, 48⟩
def Fld.PWR_STATUS_LIMIT_W : Fld := ⟨.PWR_STATUS, 47, 32⟩
def Fld.PWR_STATUS_GAUGE_LOCK_LOST : Fld := ⟨.PWR_STATUS, 10, 10⟩
def Fld.PWR_STATUS_FILL_ACTIVE : Fld := ⟨.PWR_STATUS, 9, 9⟩
def Fld.PWR_STATUS_LC_CUT : Fld := ⟨.PWR_STATUS, 8, 8⟩
def Fld.PWR_STATUS_SHED_BELOW_LC : Fld := ⟨.PWR_STATUS, 7, 7⟩
def Fld.PWR_STATUS_GAUGE_NOT_HELD : Fld := ⟨.PWR_STATUS, 6, 6⟩
def Fld.PWR_STATUS_THERMAL_THROTTLE : Fld := ⟨.PWR_STATUS, 5, 5⟩
def Fld.PWR_STATUS_CAP_NOT_MET : Fld := ⟨.PWR_STATUS, 4, 4⟩
def Fld.PWR_STATUS_BACKSTOP : Fld := ⟨.PWR_STATUS, 3, 3⟩
def Fld.PWR_STATUS_SHED_PIN : Fld := ⟨.PWR_STATUS, 2, 2⟩
def Fld.PWR_STATUS_SHED_CMD : Fld := ⟨.PWR_STATUS, 1, 1⟩
def Fld.PWR_STATUS_SHED_ACTIVE : Fld := ⟨.PWR_STATUS, 0, 0⟩
def Fld.PWR_MEAS_POWER_W : Fld := ⟨.PWR_MEAS, 63, 48⟩
def Fld.PWR_MEAS_VIN : Fld := ⟨.PWR_MEAS, 47, 32⟩
def Fld.PWR_MEAS_IIN : Fld := ⟨.PWR_MEAS, 31, 16⟩
def Fld.PWR_ENERGY_UJ : Fld := ⟨.PWR_ENERGY, 63, 0⟩
def Fld.PWR_SPLIT_BASE_W : Fld := ⟨.PWR_SPLIT, 63, 48⟩
def Fld.PWR_SPLIT_LC_SUM_W : Fld := ⟨.PWR_SPLIT, 47, 32⟩
def Fld.PWR_SPLIT_BE_W : Fld := ⟨.PWR_SPLIT, 31, 16⟩
def Fld.PWR_SPLIT_FILL_W : Fld := ⟨.PWR_SPLIT, 15, 0⟩
def Fld.PWR_POLICY_AUTO_RESTORE : Fld := ⟨.PWR_POLICY, 16, 16⟩
def Fld.PWR_POLICY_MEM_MIN : Fld := ⟨.PWR_POLICY, 11, 8⟩
def Fld.PWR_POLICY_PRIO : Fld := ⟨.PWR_POLICY, 2, 0⟩
def Fld.PWR_FILL_FILL_EN : Fld := ⟨.PWR_FILL, 8, 8⟩
def Fld.PWR_FILL_FILL_PCT : Fld := ⟨.PWR_FILL, 6, 0⟩
def Fld.PWR_THERMAL_CTL_THROTTLE_C : Fld := ⟨.PWR_THERMAL_CTL, 15, 8⟩
def Fld.PWR_THERMAL_CTL_WARN_C : Fld := ⟨.PWR_THERMAL_CTL, 7, 0⟩
def Fld.PWR_THERMAL_HOT_C : Fld := ⟨.PWR_THERMAL, 63, 56⟩
def Fld.PWR_THERMAL_HOT_SRC : Fld := ⟨.PWR_THERMAL, 55, 48⟩
def Fld.PWR_THERMAL_STACK_C : Fld := ⟨.PWR_THERMAL, 47, 40⟩
def Fld.PWR_THERMAL_STACK : Fld := ⟨.PWR_THERMAL, 39, 32⟩
def Fld.PWR_DROOP_EVENTS : Fld := ⟨.PWR_DROOP, 63, 32⟩
def Fld.PWR_DROOP_DEFICIT : Fld := ⟨.PWR_DROOP, 31, 0⟩
def Fld.PWR_DOMAIN_ON_ON : Fld := ⟨.PWR_DOMAIN_ON, 63, 0⟩
def Fld.PWR_ACCT_SEL_ACCT : Fld := ⟨.PWR_ACCT_SEL, 12, 0⟩
def Fld.PWR_ACCT_ENERGY_UJ : Fld := ⟨.PWR_ACCT_ENERGY, 63, 0⟩
def Fld.PWR_DIE_GAUGE : Fld := ⟨.PWR_DIE, 63, 48⟩
def Fld.PWR_DIE_VOLT_MV : Fld := ⟨.PWR_DIE, 47, 32⟩
def Fld.PWR_DIE_TEMP_C : Fld := ⟨.PWR_DIE, 31, 24⟩
def Fld.PWR_DIE_THROTTLED : Fld := ⟨.PWR_DIE, 0, 0⟩
def Fld.PWR_PANEL_TARGET : Fld := ⟨.PWR_PANEL, 63, 48⟩
def Fld.PWR_PANEL_GRANTED : Fld := ⟨.PWR_PANEL, 47, 32⟩
def Fld.PWR_PANEL_RESERVED_G : Fld := ⟨.PWR_PANEL, 31, 16⟩
def Fld.PWR_PANEL_NOT_HELD : Fld := ⟨.PWR_PANEL, 2, 2⟩
def Fld.PWR_PANEL_FILL_EN : Fld := ⟨.PWR_PANEL, 1, 1⟩
def Fld.PWR_PANEL_LOCK : Fld := ⟨.PWR_PANEL, 0, 0⟩
def Fld.PWR_PANEL_RES_RES_W : Fld := ⟨.PWR_PANEL_RES, 63, 48⟩
def Fld.PWR_PANEL_RES_CUT_W : Fld := ⟨.PWR_PANEL_RES, 31, 0⟩
def Fld.PWR_COEF_FJ : Fld := ⟨.PWR_COEF, 31, 0⟩
def Fld.MGT_FN_SEL_FUNC : Fld := ⟨.MGT_FN_SEL, 7, 0⟩
def Fld.MGT_FN_CFG_VALID : Fld := ⟨.MGT_FN_CFG, 63, 63⟩
def Fld.MGT_FN_CFG_ATS_EN : Fld := ⟨.MGT_FN_CFG, 62, 62⟩
def Fld.MGT_FN_CFG_MBX_VECTOR : Fld := ⟨.MGT_FN_CFG, 53, 48⟩
def Fld.MGT_FN_CFG_PF_VECTOR : Fld := ⟨.MGT_FN_CFG, 42, 32⟩
def Fld.MGT_FN_CFG_MAX_INFLIGHT : Fld := ⟨.MGT_FN_CFG, 28, 16⟩
def Fld.MGT_FN_CFG_OVF_LOG2 : Fld := ⟨.MGT_FN_CFG, 4, 0⟩
def Fld.MGT_FN_PANELS_PANELS : Fld := ⟨.MGT_FN_PANELS, 47, 0⟩
def Fld.MGT_FN_STATUS_APERTURE_ERR : Fld := ⟨.MGT_FN_STATUS, 63, 48⟩
def Fld.MGT_FN_STATUS_INFLIGHT : Fld := ⟨.MGT_FN_STATUS, 34, 22⟩
def Fld.MGT_FN_STATUS_MBX_BAD : Fld := ⟨.MGT_FN_STATUS, 5, 5⟩
def Fld.MGT_FN_STATUS_FLR_BUSY : Fld := ⟨.MGT_FN_STATUS, 4, 4⟩
def Fld.MGT_FN_STATUS_STATE : Fld := ⟨.MGT_FN_STATUS, 3, 0⟩
def Fld.MGT_MBX_BASE_LOG2 : Fld := ⟨.MGT_MBX_BASE, 63, 60⟩
def Fld.MGT_MBX_BASE_ADDR : Fld := ⟨.MGT_MBX_BASE, 47, 0⟩
def Fld.MGT_MBX_M2T_HEAD : Fld := ⟨.MGT_MBX_M2T, 63, 32⟩
def Fld.MGT_MBX_M2T_TAIL : Fld := ⟨.MGT_MBX_M2T, 31, 0⟩
def Fld.MGT_MBX_T2M_HEAD : Fld := ⟨.MGT_MBX_T2M, 63, 32⟩
def Fld.MGT_MBX_T2M_TAIL : Fld := ⟨.MGT_MBX_T2M, 31, 0⟩
def Fld.MGT_APERTURE_EN : Fld := ⟨.MGT_APERTURE, 63, 63⟩
def Fld.MGT_APERTURE_CTX : Fld := ⟨.MGT_APERTURE, 59, 48⟩
def Fld.MGT_APERTURE_VA_BASE : Fld := ⟨.MGT_APERTURE, 47, 16⟩
def Fld.MGT_SEC_STATUS_MIN_SVN : Fld := ⟨.MGT_SEC_STATUS, 63, 48⟩
def Fld.MGT_SEC_STATUS_MGC_SVN : Fld := ⟨.MGT_SEC_STATUS, 47, 32⟩
def Fld.MGT_SEC_STATUS_MWK_FLEET : Fld := ⟨.MGT_SEC_STATUS, 2, 2⟩
def Fld.MGT_SEC_STATUS_MWK_LOADED : Fld := ⟨.MGT_SEC_STATUS, 1, 1⟩
def Fld.MGT_SEC_STATUS_SLOT63_LOADED : Fld := ⟨.MGT_SEC_STATUS, 0, 0⟩
def Fld.HUB_FLT_CTL_EVT_MASK : Fld := ⟨.HUB_FLT_CTL, 15, 0⟩
def Fld.HUB_FLT_PTRS_HEAD : Fld := ⟨.HUB_FLT_PTRS, 63, 32⟩
def Fld.HUB_FLT_PTRS_TAIL : Fld := ⟨.HUB_FLT_PTRS, 31, 0⟩
def Fld.HUB_FLT_STATUS_OVERRUN : Fld := ⟨.HUB_FLT_STATUS, 63, 32⟩
def Fld.HUB_RESET_CMD_CONFIRM : Fld := ⟨.HUB_RESET_CMD, 63, 48⟩
def Fld.HUB_RESET_CMD_STEP : Fld := ⟨.HUB_RESET_CMD, 23, 20⟩
def Fld.HUB_RESET_CMD_KIND : Fld := ⟨.HUB_RESET_CMD, 19, 16⟩
def Fld.HUB_RESET_CMD_TARGET : Fld := ⟨.HUB_RESET_CMD, 11, 0⟩
def Fld.HUB_RESET_STATUS_STEP4_COUNT : Fld := ⟨.HUB_RESET_STATUS, 63, 32⟩
def Fld.HUB_RESET_STATUS_LAST_STEP : Fld := ⟨.HUB_RESET_STATUS, 23, 20⟩
def Fld.HUB_RESET_STATUS_LAST_KIND : Fld := ⟨.HUB_RESET_STATUS, 19, 16⟩
def Fld.HUB_RESET_STATUS_LAST_TARGET : Fld := ⟨.HUB_RESET_STATUS, 15, 4⟩
def Fld.HUB_RESET_STATUS_LAST_RESULT : Fld := ⟨.HUB_RESET_STATUS, 3, 2⟩
def Fld.HUB_RESET_STATUS_BAD : Fld := ⟨.HUB_RESET_STATUS, 1, 1⟩
def Fld.HUB_RESET_STATUS_BUSY : Fld := ⟨.HUB_RESET_STATUS, 0, 0⟩
def Fld.HUB_RESET_TIME_TIME : Fld := ⟨.HUB_RESET_TIME, 63, 0⟩
def Fld.HUB_LEASE_STATUS_RECLAIMED : Fld := ⟨.HUB_LEASE_STATUS, 63, 32⟩
def Fld.HUB_LEASE_STATUS_TORN : Fld := ⟨.HUB_LEASE_STATUS, 31, 16⟩
def Fld.HUB_LEASE_STATUS_POISONED : Fld := ⟨.HUB_LEASE_STATUS, 15, 0⟩
def Fld.HUB_TRACKER_IN_USE : Fld := ⟨.HUB_TRACKER, 16, 0⟩
def Fld.OBS_CTL_FREEZE : Fld := ⟨.OBS_CTL, 0, 0⟩
def Fld.OBS_STATUS_SNAP_COUNT : Fld := ⟨.OBS_STATUS, 63, 32⟩
def Fld.OBS_STATUS_SKEW_NS : Fld := ⟨.OBS_STATUS, 15, 8⟩
def Fld.OBS_STATUS_FROZEN : Fld := ⟨.OBS_STATUS, 1, 1⟩
def Fld.OBS_STATUS_RESERVE_BUSY : Fld := ⟨.OBS_STATUS, 0, 0⟩
def Fld.OBS_RESERVE_RATE : Fld := ⟨.OBS_RESERVE, 63, 32⟩
def Fld.OBS_RESERVE_USED : Fld := ⟨.OBS_RESERVE, 31, 0⟩
def Fld.OBS_SMP_CTL_EN : Fld := ⟨.OBS_SMP_CTL, 63, 63⟩
def Fld.OBS_SMP_CTL_PERIOD_US : Fld := ⟨.OBS_SMP_CTL, 57, 48⟩
def Fld.OBS_SMP_CTL_LOG2_ENTRIES : Fld := ⟨.OBS_SMP_CTL, 44, 40⟩
def Fld.OBS_SMP_CTL_KINDS : Fld := ⟨.OBS_SMP_CTL, 12, 0⟩
def Fld.OBS_SMP_RING_RECORD_64B : Fld := ⟨.OBS_SMP_RING, 63, 48⟩
def Fld.OBS_SMP_RING_ADDR : Fld := ⟨.OBS_SMP_RING, 47, 0⟩
def Fld.OBS_SMP_PTRS_HEAD : Fld := ⟨.OBS_SMP_PTRS, 63, 32⟩
def Fld.OBS_SMP_PTRS_TAIL : Fld := ⟨.OBS_SMP_PTRS, 31, 0⟩
def Fld.OBS_SMP_STATUS_DROPPED : Fld := ⟨.OBS_SMP_STATUS, 63, 32⟩
def Fld.OBS_SMP_STATUS_SKIPPED : Fld := ⟨.OBS_SMP_STATUS, 31, 0⟩
def Fld.OBS_BW_CTL_WINDOW_US : Fld := ⟨.OBS_BW_CTL, 13, 0⟩
def Fld.OBS_CSMP_CTL_EN : Fld := ⟨.OBS_CSMP_CTL, 63, 63⟩
def Fld.OBS_CSMP_CTL_MODE : Fld := ⟨.OBS_CSMP_CTL, 62, 62⟩
def Fld.OBS_CSMP_CTL_PERIOD : Fld := ⟨.OBS_CSMP_CTL, 55, 32⟩
def Fld.OBS_CSMP_CTL_LOG2_ENTRIES : Fld := ⟨.OBS_CSMP_CTL, 4, 0⟩
def Fld.OBS_CSMP_RING_RECORD_64B : Fld := ⟨.OBS_CSMP_RING, 63, 48⟩
def Fld.OBS_CSMP_RING_ADDR : Fld := ⟨.OBS_CSMP_RING, 47, 0⟩
def Fld.OBS_CSMP_TILES_TILES : Fld := ⟨.OBS_CSMP_TILES, 47, 0⟩
def Fld.OBS_CSMP_PTRS_HEAD : Fld := ⟨.OBS_CSMP_PTRS, 63, 32⟩
def Fld.OBS_CSMP_PTRS_TAIL : Fld := ⟨.OBS_CSMP_PTRS, 31, 0⟩
def Fld.OBS_CSMP_STATUS_DROPPED : Fld := ⟨.OBS_CSMP_STATUS, 63, 32⟩
def Fld.OBS_CSMP_STATUS_IDLE : Fld := ⟨.OBS_CSMP_STATUS, 31, 0⟩
def Fld.OBS_FN_SEL_FUNC : Fld := ⟨.OBS_FN_SEL, 7, 0⟩
def Fld.OBS_FN_CNT_OVF : Fld := ⟨.OBS_FN_CNT, 63, 63⟩
def Fld.OBS_FN_CNT_COUNT : Fld := ⟨.OBS_FN_CNT, 47, 0⟩
def Fld.OBS_BW_IN : Fld := ⟨.OBS_BW, 63, 32⟩
def Fld.OBS_BW_OUT : Fld := ⟨.OBS_BW, 31, 0⟩
def Fld.OBS_MARK_ARMED : Fld := ⟨.OBS_MARK, 63, 63⟩
def Fld.OBS_MARK_HOLD : Fld := ⟨.OBS_MARK, 62, 62⟩
def Fld.OBS_MARK_SLOT : Fld := ⟨.OBS_MARK, 61, 58⟩
def Fld.OBS_MARK_CTX : Fld := ⟨.OBS_MARK, 57, 46⟩
def Fld.OBS_MARK_STATUS : Fld := ⟨.OBS_MARK, 45, 30⟩
def Fld.OBS_MARK_FIRED : Fld := ⟨.OBS_MARK, 15, 8⟩
def Fld.OBS_MARK_SKIPPED : Fld := ⟨.OBS_MARK, 7, 0⟩
def Fld.OBS_F_OVF : Fld := ⟨.OBS_F, 63, 63⟩
def Fld.OBS_F_COUNT : Fld := ⟨.OBS_F, 47, 0⟩
def Fld.OBS_P_OVF : Fld := ⟨.OBS_P, 63, 63⟩
def Fld.OBS_P_COUNT : Fld := ⟨.OBS_P, 47, 0⟩
def Fld.OBS_PCTL_EN : Fld := ⟨.OBS_PCTL, 63, 63⟩
def Fld.OBS_PCTL_CTX_EN : Fld := ⟨.OBS_PCTL, 62, 62⟩
def Fld.OBS_PCTL_PANEL_EN : Fld := ⟨.OBS_PCTL, 61, 61⟩
def Fld.OBS_PCTL_LAYER_EN : Fld := ⟨.OBS_PCTL, 60, 60⟩
def Fld.OBS_PCTL_OPER_EN : Fld := ⟨.OBS_PCTL, 59, 59⟩
def Fld.OBS_PCTL_EVENT : Fld := ⟨.OBS_PCTL, 58, 51⟩
def Fld.OBS_PCTL_PANEL : Fld := ⟨.OBS_PCTL, 50, 45⟩
def Fld.OBS_PCTL_CTX : Fld := ⟨.OBS_PCTL, 44, 33⟩
def Fld.OBS_PCTL_LAYER : Fld := ⟨.OBS_PCTL, 31, 16⟩
def Fld.OBS_PCTL_OPERATOR : Fld := ⟨.OBS_PCTL, 15, 0⟩
def Fld.TMB_TIME_TIME : Fld := ⟨.TMB_TIME, 63, 0⟩
def Fld.TMB_CTL_PPS_EN : Fld := ⟨.TMB_CTL, 1, 1⟩
def Fld.TMB_CTL_ROOT : Fld := ⟨.TMB_CTL, 0, 0⟩
def Fld.TMB_EPOCH_SECONDS : Fld := ⟨.TMB_EPOCH, 63, 0⟩
def Fld.TMB_STATUS_OFFSET : Fld := ⟨.TMB_STATUS, 63, 32⟩
def Fld.TMB_STATUS_PARENT_LINK : Fld := ⟨.TMB_STATUS, 23, 16⟩
def Fld.TMB_STATUS_DEPTH : Fld := ⟨.TMB_STATUS, 15, 12⟩
def Fld.TMB_STATUS_ROOT_CONFLICT : Fld := ⟨.TMB_STATUS, 4, 4⟩
def Fld.TMB_STATUS_STEPPED : Fld := ⟨.TMB_STATUS, 3, 3⟩
def Fld.TMB_STATUS_HOLDOVER : Fld := ⟨.TMB_STATUS, 2, 2⟩
def Fld.TMB_STATUS_ROOT_ACTIVE : Fld := ⟨.TMB_STATUS, 1, 1⟩
def Fld.TMB_STATUS_LOCKED : Fld := ⟨.TMB_STATUS, 0, 0⟩
def Fld.TMB_PPS_TIME_TIME : Fld := ⟨.TMB_PPS_TIME, 63, 0⟩
def Fld.GST_CTL_HINTS_EN : Fld := ⟨.GST_CTL, 2, 2⟩
def Fld.GST_CTL_RETRAIN : Fld := ⟨.GST_CTL, 1, 1⟩
def Fld.GST_CTL_ENABLE : Fld := ⟨.GST_CTL, 0, 0⟩
def Fld.GST_STATUS_RATE : Fld := ⟨.GST_STATUS, 47, 40⟩
def Fld.GST_STATUS_MODULES : Fld := ⟨.GST_STATUS, 33, 32⟩
def Fld.GST_STATUS_CAUSE : Fld := ⟨.GST_STATUS, 31, 24⟩
def Fld.GST_STATUS_STATE : Fld := ⟨.GST_STATUS, 2, 0⟩
def Fld.GST_BIND_VALID : Fld := ⟨.GST_BIND, 12, 12⟩
def Fld.GST_BIND_CTX : Fld := ⟨.GST_BIND, 11, 0⟩
def Fld.GST_CAP_VENDOR : Fld := ⟨.GST_CAP, 63, 48⟩
def Fld.GST_CAP_DEVICE : Fld := ⟨.GST_CAP, 47, 32⟩
def Fld.GST_CAP_POWER_W : Fld := ⟨.GST_CAP, 31, 16⟩
def Fld.GST_CAP_TXN_REQ : Fld := ⟨.GST_CAP, 15, 11⟩
def Fld.GST_CAP_TXN_TGT : Fld := ⟨.GST_CAP, 10, 6⟩
def Fld.GST_CAP_WINDOWS : Fld := ⟨.GST_CAP, 5, 3⟩
def Fld.GST_CAP_HINTS : Fld := ⟨.GST_CAP, 0, 0⟩
def Fld.GST_WIN_SIZE : Fld := ⟨.GST_WIN, 55, 28⟩
def Fld.GST_WIN_BASE : Fld := ⟨.GST_WIN, 27, 0⟩
def Fld.GST_ERR_BAD_FLITS : Fld := ⟨.GST_ERR, 63, 48⟩
def Fld.GST_ERR_REPLAYS : Fld := ⟨.GST_ERR, 47, 32⟩
def Fld.GST_ERR_REFUSED : Fld := ⟨.GST_ERR, 31, 16⟩
def Fld.GST_ERR_ERR_RSP : Fld := ⟨.GST_ERR, 15, 0⟩
def Fld.DBG_ID_IDCODE : Fld := ⟨.DBG_ID, 31, 0⟩
def Fld.DBG_CTL_DESTRUCTIVE : Fld := ⟨.DBG_CTL, 1, 1⟩
def Fld.DBG_CTL_LC_HALT_EN : Fld := ⟨.DBG_CTL, 0, 0⟩
def Fld.DBG_STATUS_HALTED_CORES : Fld := ⟨.DBG_STATUS, 24, 16⟩
def Fld.DBG_STATUS_REFUSED : Fld := ⟨.DBG_STATUS, 5, 5⟩
def Fld.DBG_STATUS_LOCK_BROKEN : Fld := ⟨.DBG_STATUS, 4, 4⟩
def Fld.DBG_STATUS_DEFERRED : Fld := ⟨.DBG_STATUS, 3, 3⟩
def Fld.DBG_STATUS_AUTH : Fld := ⟨.DBG_STATUS, 2, 2⟩
def Fld.DBG_STATUS_LC_HALT_ACTIVE : Fld := ⟨.DBG_STATUS, 1, 1⟩
def Fld.DBG_HALT_CMD_OP : Fld := ⟨.DBG_HALT_CMD, 31, 28⟩
def Fld.DBG_HALT_CMD_DIE : Fld := ⟨.DBG_HALT_CMD, 19, 16⟩
def Fld.DBG_HALT_CMD_CORE : Fld := ⟨.DBG_HALT_CMD, 12, 8⟩
def Fld.DBG_HALT_CMD_GROUP : Fld := ⟨.DBG_HALT_CMD, 5, 0⟩
def Fld.DBG_GRP_SEL_DIE : Fld := ⟨.DBG_GRP_SEL, 19, 16⟩
def Fld.DBG_GRP_SEL_CORE : Fld := ⟨.DBG_GRP_SEL, 12, 8⟩
def Fld.DBG_GRP_SEL_GROUP : Fld := ⟨.DBG_GRP_SEL, 5, 0⟩
def Fld.DBG_GRP_STATE_HALTED : Fld := ⟨.DBG_GRP_STATE, 63, 63⟩
def Fld.DBG_GRP_STATE_PARKED : Fld := ⟨.DBG_GRP_STATE, 62, 62⟩
def Fld.DBG_GRP_STATE_LOCK_BROKEN : Fld := ⟨.DBG_GRP_STATE, 61, 61⟩
def Fld.DBG_GRP_STATE_RESIDENT : Fld := ⟨.DBG_GRP_STATE, 60, 60⟩
def Fld.DBG_GRP_STATE_CTX : Fld := ⟨.DBG_GRP_STATE, 59, 48⟩
def Fld.DBG_GRP_STATE_PC : Fld := ⟨.DBG_GRP_STATE, 47, 0⟩
def Fld.DBG_GRP_LANES_ACTIVE : Fld := ⟨.DBG_GRP_LANES, 63, 32⟩
def Fld.DBG_GRP_LANES_LIVE : Fld := ⟨.DBG_GRP_LANES, 31, 0⟩
def Fld.DBG_REG_SEL_LANE : Fld := ⟨.DBG_REG_SEL, 12, 8⟩
def Fld.DBG_REG_SEL_REG : Fld := ⟨.DBG_REG_SEL, 7, 0⟩
def Fld.DBG_REG_DATA_VALUE : Fld := ⟨.DBG_REG_DATA, 31, 0⟩
def Fld.DBG_STEP_EN_TILES : Fld := ⟨.DBG_STEP_EN, 47, 0⟩
def Fld.DBG_STEP_GO_TILE : Fld := ⟨.DBG_STEP_GO, 5, 0⟩
def Fld.DBG_STEP_STATUS_HOLDING : Fld := ⟨.DBG_STEP_STATUS, 47, 0⟩
def Fld.SRV_FW_STATUS_STAGED_VERSION : Fld := ⟨.SRV_FW_STATUS, 63, 48⟩
def Fld.SRV_FW_STATUS_RUNNING_VERSION : Fld := ⟨.SRV_FW_STATUS, 47, 32⟩
def Fld.SRV_FW_STATUS_STAGE_BUSY : Fld := ⟨.SRV_FW_STATUS, 11, 11⟩
def Fld.SRV_FW_STATUS_INACTIVE_VALID : Fld := ⟨.SRV_FW_STATUS, 10, 10⟩
def Fld.SRV_FW_STATUS_PREFERRED : Fld := ⟨.SRV_FW_STATUS, 9, 9⟩
def Fld.SRV_FW_STATUS_SVN_COMMIT_PENDING : Fld := ⟨.SRV_FW_STATUS, 8, 8⟩
def Fld.SRV_FW_STATUS_RAISES_LEFT : Fld := ⟨.SRV_FW_STATUS, 5, 0⟩
def Fld.SRV_CFG_STATUS_SEQUENCE : Fld := ⟨.SRV_CFG_STATUS, 63, 32⟩
def Fld.SRV_CFG_STATUS_CAL_CLAMPED : Fld := ⟨.SRV_CFG_STATUS, 31, 16⟩
def Fld.SRV_CFG_STATUS_DEFAULTED : Fld := ⟨.SRV_CFG_STATUS, 15, 0⟩
def Fld.SRV_INPUT_STATUS_SHED_GLITCHES : Fld := ⟨.SRV_INPUT_STATUS, 63, 48⟩
def Fld.SRV_INPUT_STATUS_RST_GLITCHES : Fld := ⟨.SRV_INPUT_STATUS, 47, 32⟩
def Fld.SRV_INPUT_STATUS_PPS_DISCARDS : Fld := ⟨.SRV_INPUT_STATUS, 31, 16⟩
def Fld.SRV_INPUT_STATUS_SENSOR_DISCARDS : Fld := ⟨.SRV_INPUT_STATUS, 15, 0⟩
def Fld.SRV_SENSOR_FAIL_FAILED : Fld := ⟨.SRV_SENSOR_FAIL, 42, 0⟩
def Fld.SRV_REQ_TIMEOUT_US : Fld := ⟨.SRV_REQ_TIMEOUT, 31, 0⟩
def Fld.SRV_BIND_OFF_CONFIRM : Fld := ⟨.SRV_BIND_OFF, 63, 48⟩
def Fld.SRV_BIND_OFF_DRAIN_MS : Fld := ⟨.SRV_BIND_OFF, 47, 32⟩
def Fld.SRV_BIND_OFF_DONE : Fld := ⟨.SRV_BIND_OFF, 1, 1⟩
def Fld.SRV_BIND_OFF_BUSY : Fld := ⟨.SRV_BIND_OFF, 0, 0⟩
def Fld.SRV_ALERT_INPUT_FAULT : Fld := ⟨.SRV_ALERT, 6, 6⟩
def Fld.SRV_ALERT_SENSOR_FAIL : Fld := ⟨.SRV_ALERT, 5, 5⟩
def Fld.SRV_ALERT_THERMAL_WARN : Fld := ⟨.SRV_ALERT, 4, 4⟩
def Fld.SRV_ALERT_CAP_NOT_MET : Fld := ⟨.SRV_ALERT, 3, 3⟩
def Fld.SRV_ALERT_CLK_HOLDOVER : Fld := ⟨.SRV_ALERT, 2, 2⟩
def Fld.SRV_ALERT_ASSERTED : Fld := ⟨.SRV_ALERT, 0, 0⟩

/-- Every register, in the order of the maps. -/
def regsPart0 : List Reg :=
  [.GLB_ID, .GLB_STATUS, .GLB_DIE_PRESENT, .GLB_DIE_FAULT, .GLB_FABRIC_VERSION,
   .GLB_BOOT_STATUS, .GLB_CLK_STATUS, .GLB_DIE_ID, .GLB_HUB_ID, .ARR_STATUS,
   .ARR_CONFIG, .ARR_FAULT, .ARR_LAST_DONE_TIME, .ARR_ACT_SLOT, .GC_STATUS,
   .GC_L1_STATUS, .GC_FAULT_INFO, .GC_FAULT_VADDR, .GC_FAULT_PC, .GC_LAST_DONE_TIME,
   .GC_ISSUED, .CD_DSCR_OWNER0, .CD_DSCR_OWNER1, .HBM_STK_STATUS, .HBM_TRAIN_RESULT,
   .HBM_ECC_COUNT, .HBM_ECC_LOG, .HBM_ECC_LOC, .HBM_PICOT_CTL, .HBM_REPAIR_CMD,
   .HBM_REPAIR_STATUS, .HBM_REPAIR_LOG, .HBM_SW_CTL, .HBM_SW_BASE, .HBM_SW_LEN,
   .HBM_SW_PATTERN, .HBM_SW_RESULT, .HBM_G_CTL, .HBM_G_STATUS, .HBM_G_FRAME_MODE]
def regsPart1 : List Reg :=
  [.HBM_KEY_CTL, .HBM_KEY_BUF, .HBM_KEY_STATUS, .UCC_CTL, .UCC_SLICE_STATUS,
   .UCC_SLICE_ERR, .UCC_DIR_STATUS, .UCC_SKEIN_STATUS, .UCC_PANEL_SHARE, .XLT_FAULT_INFO,
   .XLT_FAULT_VADDR, .XLT_FAULT_PTE, .XLT_FAULT_TIME, .XLT_COUNTS, .QUE_POOL,
   .QUE_SEL, .QUE_CFG, .QUE_RING, .QUE_IRQ, .QUE_PTRS,
   .QUE_STATUS, .QUE_PROGRESS, .QUE_LAST_TIME, .QUE_FN_SEL, .QUE_OVF_BASE,
   .QUE_OVF_PTRS, .QUE_FN_STATUS, .QUE_MGR_EVT, .SRV_STATUS, .SRV_HEARTBEAT,
   .RSQ_STATUS, .RSQ_ROW, .RSQ_POOL, .RSQ_SEQS, .RSQ_ROW_WC,
   .RSQ_LAST_ROW_TIME, .RSQ_COUNTS, .RSQ_FAULT, .PNL_EPOCH, .PNL_CFG_CTL]
def regsPart2 : List Reg :=
  [.PNL_CFG_STATUS, .PNL_FREE_TILES, .PNL_W_TOTAL, .PNL_COMPACT, .PNL_TILE_HOME,
   .PNL_CTX_SEL, .PNL_CTX_CLASS, .PNL_CFG, .PNL_TILES, .PNL_LC_TILES,
   .PNL_W, .PNL_STATUS, .PNL_COUNTS, .PNL_DISPATCH, .PNL_LAST_PREEMPT,
   .LNK_CTL, .LNK_STATUS, .LNK_ERR, .LNK_FEC, .LNK_OPTICS,
   .LNK_TIME, .LNK_G_ID, .LNK_G_CTL, .LNK_G_ROUTE_SEL, .LNK_G_ROUTE,
   .LNK_G_STATUS, .PWR_LIMITS, .PWR_STATUS, .PWR_MEAS, .PWR_ENERGY,
   .PWR_SPLIT, .PWR_POLICY, .PWR_FILL, .PWR_THERMAL_CTL, .PWR_THERMAL,
   .PWR_DROOP, .PWR_DOMAIN_ON, .PWR_ACCT_SEL, .PWR_ACCT_ENERGY, .PWR_DIE]
def regsPart3 : List Reg :=
  [.PWR_PANEL, .PWR_PANEL_RES, .PWR_COEF, .MGT_FN_SEL, .MGT_FN_CFG,
   .MGT_FN_PANELS, .MGT_FN_STATUS, .MGT_MBX_BASE, .MGT_MBX_M2T, .MGT_MBX_T2M,
   .MGT_APERTURE, .MGT_SEC_STATUS, .HUB_FLT_CTL, .HUB_FLT_PTRS, .HUB_FLT_STATUS,
   .HUB_RESET_CMD, .HUB_RESET_STATUS, .HUB_RESET_TIME, .HUB_LEASE_STATUS, .HUB_TRACKER,
   .HUB_FLT_ENTRY, .OBS_CTL, .OBS_STATUS, .OBS_RESERVE, .OBS_SMP_CTL,
   .OBS_SMP_RING, .OBS_SMP_PTRS, .OBS_SMP_STATUS, .OBS_BW_CTL, .OBS_CSMP_CTL,
   .OBS_CSMP_RING, .OBS_CSMP_TILES, .OBS_CSMP_PTRS, .OBS_CSMP_STATUS, .OBS_FN_SEL,
   .OBS_FN_CNT, .OBS_BW, .OBS_MARK, .OBS_F, .OBS_P]
def regsPart4 : List Reg :=
  [.OBS_PCTL, .TMB_TIME, .TMB_CTL, .TMB_EPOCH, .TMB_STATUS,
   .TMB_PPS_TIME, .GST_CTL, .GST_STATUS, .GST_BIND, .GST_CAP,
   .GST_WIN, .GST_ERR, .DBG_ID, .DBG_CTL, .DBG_STATUS,
   .DBG_HALT_CMD, .DBG_GRP_SEL, .DBG_GRP_STATE, .DBG_GRP_LANES, .DBG_REG_SEL,
   .DBG_REG_DATA, .DBG_STEP_EN, .DBG_STEP_GO, .DBG_STEP_STATUS, .SRV_FW_STATUS,
   .SRV_CFG_STATUS, .SRV_INPUT_STATUS, .SRV_SENSOR_FAIL, .SRV_REQ_TIMEOUT, .SRV_BIND_OFF,
   .SRV_ALERT]
def allRegs : List Reg := regsPart0 ++ regsPart1 ++ regsPart2 ++ regsPart3 ++ regsPart4

end Sys2Proof.Machine
end

