-- ==== Sys2Proof/Machine/TypesBase.lean ====
section
/-! DEFINITION. The records that State is made of, first part: fuses and fault log (01, 13), HBM stacks and keys (04),
translation (06), queues, contexts, functions and commands in flight (07, 12), remote accesses (06, 10), and what the
package sends to the outside. -/

namespace Sys2Proof.Machine

/-- What the part's fuses and OTP hold (01.3, 14.7, 15, 16.9): written once at the factory. -/
structure Fuses where
  serial : W32
  grade : Byte
  guestPop : Nat
  maker : BitVec 11
  hubVersion : Nat
  minSvn : Nat
  raisesLeft : Nat
  spareRows : Nat
  bankSpare : Nat
  deriving DecidableEq, Repr

/-- A fault log entry (Table 13-1). -/
structure FaultEntry where
  index : W32
  cls : Nat
  detail : Nat
  status : Nat
  time : W64
  owner : Nat
  ctx : Option Nat
  tag : W32
  addr : W64
  deriving DecidableEq, Repr

/-- What leaves the block: MSI-X messages (R231), answers to reads, aborts and refusals, link messages and flits, replies of
the management sideband, pin changes. Newest last. -/
inductive Out where
  | msix (func vector : Nat)
  | regData (value : W64)
  | memData (bytes : List Byte) (poison : Bool)
  | abort
  | linkMsg (link : Nat) (msg : LinkMsg)
  | linkNak (link : Nat)
  | linkAck (link : Nat) (seq : BitVec 12)
  | linkCredit (link cls vc slots : Nat)
  | guestData (site : Nat) (bytes : List Byte) (poison : Bool)
  | guestAck (site : Nat) (status : Nat) (old : W64)
  | guestWrite (addr : Nat) (bytes : List Byte)
  | spdm (bytes : List Byte)
  | pldm (value : W64)
  | pldmError
  | atsDone (func : Nat)
  | tap (value : W64)
  | hostPort (port : Nat) (up : Bool)
  | alert (asserted : Bool)
  | thermTrip
  deriving DecidableEq, Repr

/-- A key slot (R138): the identity of the loaded key (0: not loaded), its generation, and the retired generations that
lines of the unified cache may still carry, oldest first (R142). -/
structure KeySlot where
  key : Nat
  gen : Byte
  retired : List (Byte × Nat)
  deriving DecidableEq, Repr

/-- An ECC event waiting in `HBM_ECC_LOG` (R152). -/
structure EccLog where
  kind : Nat
  pc : Nat
  bank : Nat
  row : Nat
  addr : Nat
  time : W64
  deriving DecidableEq, Repr

/-- An entry of the repair log in the flash (R148, R153). -/
structure Repair where
  kind : Nat
  cause : Nat
  pc : Nat
  bank : Nat
  row : Nat
  boot : Nat
  deriving DecidableEq, Repr

/-- What a stack keeps beside its registers: the ECC log FIFO, the repair log (newest first), its read position, the pending
hard repairs, the rows' corrected-sector counts of this scrub period, and the spare rows used per bank. -/
structure Stack where
  eccLog : List EccLog
  overrun : Bool
  repairs : List Repair
  repairPos : Nat
  pendingHard : List (Nat × Nat × Nat)
  ceRows : Tab Nat
  spareUsed : Tab Nat
  deriving DecidableEq, Repr

/-- A cached translation (R206): context, virtual base, size, physical base, and the leaf's rights. -/
structure TlbEntry where
  ctx : Nat
  va : Nat
  size : Nat
  pa : Nat
  key : Nat
  r : Bool
  w : Bool
  x : Bool
  device : Bool
  deriving DecidableEq, Repr

/-- A cached level-0 or level-1 table entry (06.8): context, virtual base, size covered, and the next table. -/
structure WalkEntry where
  ctx : Nat
  va : Nat
  size : Nat
  next : Nat
  deriving DecidableEq, Repr

inductive QType where
  | cmd | cpl | seq | evt
  deriving DecidableEq, Repr

/-- An entry of a queue's duplicate window (R247): a fetched TAG, its record once written, and how many copies wait for it. -/
structure Dup where
  tag : W32
  record : Option (List Byte)
  copies : Nat
  deriving DecidableEq, Repr

/-- An allocated queue (R215 to R232, R249, R250). `subs`: the doorbell writes that cover entries not yet fetched, as (new
TAIL, submission time) (R226). `sinceArm` and `firstAt`: entries written since arming and the time of the first (R231). -/
structure Queue where
  typ : QType
  k : Nat
  lc : Bool
  anyCtx : Bool
  func : Nat
  panel : Nat
  key : Nat
  ring : Nat
  ctx : Nat
  cpl : Nat
  vector : Nat
  coalCount : Nat
  coalUs : Nat
  weight : Nat
  head : W32
  tail : W32
  armed : Bool
  held : Bool
  faulted : Bool
  dbBad : Bool
  lost : Bool
  overflowed : Bool
  evtLost : Bool
  fetched : W32
  completed : W32
  lastTime : W64
  sinceArm : Nat
  firstAt : Option W64
  subs : List (W32 × W64)
  dups : List Dup
  deriving DecidableEq, Repr

/-- A context (R224, R240, R64, R176). `troot`: none for the bootstrap context (R474). `gfence`: the package time of its
last global fence. -/
structure Ctx where
  panel : Nat
  func : Nat
  troot : Option Nat
  kctx : W32
  evtQ : Nat
  maxInflight : Nat
  decls : Tab (Nat × Nat)
  gfence : W64
  deriving DecidableEq, Repr

/-- A function (R229, R395 to R400, R415): PF0 is function 0. `state` is `MGT_FN_STATUS.STATE`. -/
structure Func where
  atsEn : Bool
  panels : Nat
  ovfLog2 : Nat
  ovfAddr : Nat
  ovfHead : W32
  ovfTail : W32
  dropped : Nat
  badDb : Nat
  mbxLog2 : Nat
  mbxAddr : Nat
  mbxVector : Nat
  pfVector : Nat
  maxInflight : Nat
  m2tHead : W32
  m2tTail : W32
  t2mHead : W32
  t2mTail : W32
  mbxBad : Bool
  flrBusy : Bool
  state : Nat
  apErr : Nat
  apEn : Bool
  apCtx : Nat
  apBase : Nat
  deriving DecidableEq, Repr

/-- Where a command stands: admitted and waiting to start, running, stopped with its units stashed, recorded by a freeze
(R406), or its work ended. -/
inductive CPhase where
  | waiting | running | stashed | recorded | done
  deriving DecidableEq, Repr

/-- A command in flight (R242, R243): from its admission until its record is written. `row`: the panel whose sequencer
issued it; such a command has no queue and no record. `step`: what a multi-step command has reached. `landed`: sectors of
other packages' memory that have arrived for it (global address, bytes, poison). -/
structure Cmd where
  id : Nat
  q : Nat
  row : Option Nat
  raw : List Byte
  func : Nat
  panel : Nat
  ctx : Nat
  epoch : Nat
  tSub : W64
  tAdm : W64
  tStart : W64
  twc : Option Frac
  phase : CPhase
  status : Nat
  vaddr : W64
  beats : Nat
  energy : Nat
  tiles : Nat
  step : Nat
  spans : Nat
  fenceB : Nat
  fenceA : Nat
  landed : List (Nat × List Byte × Bool)
  deriving DecidableEq, Repr

/-- What a remote access is (R192, R333). -/
inductive RemoteKind where
  | read | write | final | atomic | addLine
  deriving DecidableEq, Repr

/-- Who waits for a remote access: a command, or lanes of a thread group (register written, lane, bytes,
number of the instruction). -/
inductive Waiter where
  | cmd (id : Nat)
  | cmdWrite (id : Nat) (va : Nat)
  | lane (die core group lane rd size instr : Nat)
  | none
  deriving DecidableEq, Repr

/-- A request that left for another package and is not yet answered (R333). `stale`: a read whose line a write of this package has left
for since, so that its data is not kept (R176). -/
structure Remote where
  tag : Nat
  kind : RemoteKind
  pkg : Nat
  ctx : Nat
  func : Nat
  stream : Nat
  addr : Nat
  msg : LinkBody
  sentAt : W64
  resends : Nat
  refused : Option W64
  wait : Waiter
  stale : Bool
  deriving DecidableEq, Repr

/-- The issuer's side of a stream (R192): destination package, context, STREAM; FINALs issued, accesses sent in the current
span, FINALs not yet acknowledged. -/
structure IssStream where
  pkg : Nat
  ctx : Nat
  stream : Nat
  finals : Nat
  count : Nat
  unacked : Nat
  deriving DecidableEq, Repr

/-- A load-linked reservation of a thread (R90): lane of a group of a core, the word and its bytes, its sector's local address / 32, and how
many of the thread's instructions have issued since. -/
structure Resv where
  core : Nat
  group : Nat
  lane : Nat
  addr : Nat
  size : Nat
  sector : Nat
  issued : Nat
  deriving DecidableEq, Repr

end Sys2Proof.Machine
end

