-- ==== Sys2Proof/Machine/TypesCore.lean ====
section
/-! DEFINITION. The records that State is made of, fourth part: the general cores (03): groups, paths, blocks, launches, L1s and
fills, and the stash images of BE units (Table 09-3). -/

namespace Sys2Proof.Machine

/-- What the lanes of a path wait for (R91, R92, R104). `rdv`: the rendezvous point and how many of its rendezvous must have
released. -/
inductive PathWait where
  | none
  | rdv (r count : Nat)
  | meet (w : Nat) (pc : W64)
  deriving DecidableEq, Repr

/-- A path of a group (R87): its lanes, its next instruction, the reconvergence markers it has yet to reach, innermost first,
how many instructions issued since it was last switched to, and after RESUME_GROUP the lanes for which its next instruction runs
again. -/
structure Path where
  lanes : Nat
  pc : W64
  markers : List W64
  issued : Nat
  wait : PathWait
  only : Option Nat
  deriving DecidableEq, Repr

/-- A register that an instruction in flight has yet to write. -/
structure PendReg where
  lane : Nat
  reg : Nat
  deriving DecidableEq, Repr

/-- A parked group (R112, R113): the lanes that did not take effect, since when, the status of its fault, and whether the fault came
when the data of a load that had issued before arrived. -/
structure Parked where
  remain : Nat
  since : W64
  status : Nat
  late : Bool
  deriving DecidableEq, Repr

/-- A resident group (R81, R85): its number within the core and within its block, its registers (key 256 × lane + register;
one that is not listed holds zero), its live lanes and paths in round-robin order (the first that does not wait is the current
one), the registers that accesses in flight have yet to write, and what parks or halts it (R112, 14.8). -/
structure Group where
  num : Nat
  block : Nat
  inBlock : Nat
  live : Nat
  paths : List Path
  regs : Tab W32
  pend : List PendReg
  parked : Option Parked
  halted : Bool
  deferred : Option W64
  step : Bool
  lockBroken : Bool
  deriving DecidableEq, Repr

/-- A resident block: per rendezvous point the number released, and per thread the number of its arrivals
(key 1,024 × r + thread). -/
structure Blk where
  idx : Nat
  released : List Nat
  arrivals : Tab Nat
  deriving DecidableEq, Repr

/-- An L1 line (R98, R99), by global physical address / 128: its bytes, the valid and dirty masks per byte, the key slot, and
whether it stands in a locked way. -/
structure L1Line where
  line : Nat
  bytes : List Byte
  valid : Nat
  dirty : Nat
  key : Nat
  locked : Bool
  deriving DecidableEq, Repr

/-- A fill in flight (R104, R107): its line and key slot, the line's bytes and poisoned sectors once they are known, and whether it is
not to be installed: an invalidate has covered it, or it is another package's line. -/
structure Fill where
  line : Nat
  key : Nat
  bytes : List Byte
  poison : Nat
  ready : Bool
  covered : Bool
  deriving DecidableEq, Repr

/-- A lane of a load in flight: its virtual address and key slot, and each byte's global physical address with its value once known.
`poison`: a sector that it reads is poisoned. -/
structure LaneLoad where
  lane : Nat
  va : Nat
  key : Nat
  bytes : List (Nat × Option Byte)
  poison : Bool
  deriving DecidableEq, Repr

/-- A load that has issued and not written its registers (R104): its group, the register and size, the instruction's address and active
lanes, whether it counts as the group's miss or as one of its bypass accesses, and what a fault record says of it. -/
structure CoreLoad where
  group : Nat
  rd : Nat
  size : Nat
  pc : W64
  active : Nat
  miss : Bool
  bypass : Bool
  kind : Nat
  lanes : List LaneLoad
  deriving DecidableEq, Repr

/-- A core: the launch whose blocks it holds, its groups and blocks, its L1 (most recently used first), the locked ways with
their context (R103), the eviction buffer (R105), fills and loads in flight, when its kernel started, and whether the
debugger holds it. -/
structure Core where
  launch : Option Nat
  groups : List Group
  blocks : List Blk
  l1 : List L1Line
  lockN : Nat
  lockCtx : Nat
  evb : List L1Line
  fills : List Fill
  loads : List CoreLoad
  started : W64
  halted : Bool
  deriving DecidableEq, Repr

def Core.idle : Core := ⟨none, [], [], [], 0, 0, [], [], [], 0, false⟩

/-- A launch that runs (R110 to R112): its next block, the blocks finished, the cores it may use (384-bit numbers 32 × die +
core) and those its kernel has started on and not ended on, its argument block, the status of its first fault and how many faults
followed the one that stopped it, and the instructions that it issued. -/
structure Launch where
  id : Nat
  next : Nat
  done : Nat
  cores : List Nat
  open_ : List Nat
  args : List Byte
  status : Nat
  first : Nat
  faults : Nat
  stopped : Bool
  issued : Nat
  deriving DecidableEq, Repr

/-- A stash image (R295): the context and command, the tile it was stopped on, the quadrant and slot that hold it, the epoch,
the scratchpad's listed bytes by offset, and the state of the tile's eight cores. -/
structure Image where
  ctx : Nat
  cmd : Nat
  tile : Nat
  quad : Nat
  slot : Nat
  epoch : Nat
  scratch : List Host.Cell
  cores : List Core
  deriving DecidableEq, Repr

end Sys2Proof.Machine
end

