-- ==== Sys2Proof/Machine/TypesLink.lean ====
section
/-! DEFINITION. The records that State is made of, fifth part: the Ahnyx links, package time, guest sites and jobs (10). -/

namespace Sys2Proof.Machine

/-- A data flit that is sent and not acknowledged (R321). -/
structure SentFlit where
  seq : BitVec 12
  msg : LinkMsg
  deriving DecidableEq, Repr

/-- A link (10.2): the sender's next SEQ, replay buffer, time of the last ACK progress and replays from one SEQ; the receiver's
expected SEQ and outstanding NAK with its time; the last good flit; credits by 4 × class + VC; messages that wait for credits,
each with its rank in R331; when it may train again; the versions and class of its last TRAIN. -/
structure LinkSt where
  next : BitVec 12
  unacked : List SentFlit
  progress : W64
  sameReplays : Nat
  expected : BitVec 12
  nak : Option W64
  lastGood : W64
  credits : Tab Nat
  waiting : List (Nat × LinkMsg)
  tryAt : W64
  recovery : Option W64
  deriving DecidableEq, Repr

/-- What a link knows of its peer's time (R338): the last offsets, newest first, the root and depth it reported, and its last
stamp with the time it arrived. -/
structure TimePeer where
  offsets : List Int
  root : Option Nat
  depth : Nat
  stamp : Nat
  arrived : Nat
  deriving DecidableEq, Repr

/-- The state of time steering (R337 to R340): the steered rate in ppm, since when the offset stays within ±100 ns, since when
there is no parent and whether that was reported, and whether a TMB_EPOCH write waits for a PPS edge. -/
structure Timebase where
  ppm : Int
  good : Option W64
  lost : Option W64
  told : Bool
  epochSet : Bool
  deriving DecidableEq, Repr

/-- A COLL message that arrived for a context (R342, R343). -/
structure CollMsg where
  ctx : Nat
  epoch : W64
  number : Nat
  digest : W32
  hash : W32
  rank : Nat
  deriving DecidableEq, Repr

/-- The collective that a job runs: its command, number, digest and hash, this member's rank, and the members' packages by rank. -/
structure JobCur where
  cmd : Nat
  number : Nat
  digest : W32
  hash : W32
  rank : Nat
  members : List Nat
  deriving DecidableEq, Repr

/-- A context's job (R342, R343): its epoch, whether its configuration matched, the collectives issued, whether it is fenced, and the
collective that runs. -/
structure Job where
  ctx : Nat
  epoch : W64
  open_ : Bool
  issued : Nat
  fenced : Bool
  cur : Option JobCur
  deriving DecidableEq, Repr

/-- The buffers of Table 10-3: slots per virtual channel of a class. -/
def classSlots : LinkClass → Nat
  | .req => 1024 | .ctl => 128 | .rsp => 256 | .dat => 2048

def classNum : LinkClass → Nat
  | .req => 0 | .ctl => 1 | .rsp => 2 | .dat => 3

def fullCredits : Tab Nat :=
  [LinkClass.req, .ctl, .rsp, .dat].flatMap fun c => (List.range 4).map fun v => (4 * classNum c + v, classSlots c)

def LinkSt.new : LinkSt :=
  { next := 0, unacked := [], progress := 0, sameReplays := 0, expected := 0, nak := none, lastGood := 0, credits := fullCredits,
    waiting := [], tryAt := 0, recovery := none }

def TimePeer.new : TimePeer := ⟨[], none, 15, 0, 0⟩

def Timebase.new : Timebase := ⟨0, none, none, false, false⟩

end Sys2Proof.Machine
end

