-- ==== Sys2Proof/Machine/TypesPanel.lean ====
section
/-! DEFINITION. The records that State is made of, second part: panels, the staged settings and their epochs, and the
occupancy of tiles (09). -/

namespace Sys2Proof.Machine

/-- The stageable settings of a panel (Table 09-2, Table 09-9). -/
structure PanelCfg where
  lcTiles : Nat
  lend : Bool
  quantum : Nat
  w : Nat
  linkShare : Nat
  minTiles : Nat
  compactPrio : Nat
  deriving DecidableEq, Repr

/-- A context's class and stash areas (Table 09-10, KIND 2). -/
structure CtxClass where
  beEn : Bool
  relocate : Bool
  weight : Nat
  stash : List Nat
  slots : List Nat
  deriving DecidableEq, Repr

/-- The settings of one configuration epoch (Table 09-9): panels, context classes, `ARR_CONFIG` by tile, die-scratch owner
bytes by 16 × die + segment, and `HBM_G_FRAME_MODE`. A tile or segment that is not listed has its reset value. -/
structure Settings where
  panels : Tab PanelCfg
  classes : Tab CtxClass
  arr : Tab Nat
  dscr : Tab Nat
  frameMode : Nat
  deriving DecidableEq, Repr

/-- What stands in the stage (R306, R307). -/
inductive StageItem where
  | panel (p : Nat) (update : Nat) (c : PanelCfg)
  | ctxClass (c : Nat) (k : CtxClass)
  | arr (tile value : Nat)
  | dscr (die word value : Nat)
  | frameMode (value : Nat)
  deriving DecidableEq, Repr

/-- A panel (R284): the tiles it holds and the latest LC reservation figures that are not epoch settings. The settings of the
latest committed epoch stand in `Settings.panels`. `actSlots`: the panel's own copy of each loaded activation slot (R304). -/
structure Panel where
  tiles : Nat
  actSlots : Tab (List Byte)
  deriving DecidableEq, Repr

/-- What owns a tile for LC work (R289). -/
inductive LcOwner where
  | cmd (id : Nat)
  | seq (panel : Nat)
  deriving DecidableEq, Repr

/-- The phases of a pre-emption (Table 09-4). -/
inductive PrePhase where
  | requested | stopped
  deriving DecidableEq, Repr

/-- Why a unit is pre-empted (R297, R301): one stop serves all causes. -/
structure PreEmption where
  phase : PrePhase
  since : W64
  forLc : Bool
  forQuantum : Bool
  forRebind : Bool
  forFreeze : Bool
  deriving DecidableEq, Repr

/-- The BE unit that runs on a tile (09.2): its command, context, epoch and stash slot, and when its quantum began (R291). -/
structure TileUnit where
  cmd : Nat
  ctx : Nat
  epoch : Nat
  slot : Nat
  quantumStart : W64
  deriving DecidableEq, Repr

/-- A tile (R10): the panel that holds it (none: the pool), the LC job that owns it, the BE unit on it, a pre-emption in
progress, the panel it goes back to after compaction (R310), and the latest t_wc recorded against it (R244). -/
structure Tile where
  owner : Option Nat
  lc : Option LcOwner
  unit : Option TileUnit
  pre : Option PreEmption
  home : Option Nat
  twc : Frac
  deriving DecidableEq, Repr

def Tile.free : Tile := ⟨none, none, none, none, none, Frac.ofNat 0⟩

def Settings.initial : Settings := ⟨[], [], [], [], 0⟩

end Sys2Proof.Machine
end

