-- ==== Sys2Proof/Machine/TypesRsq.lean ====
section
/-! DEFINITION. The records that State is made of, sixth part: the row sequencers (08). -/

namespace Sys2Proof.Machine

/-- Table 08-1; a slot that no sequence holds is FREE and is not listed. -/
inductive SeqState where
  | waiting | prefill | decode | parked | leaving
  deriving DecidableEq, Repr

/-- The sequencer descriptor and the policy fields (Tables 08-2, 08-4). -/
structure RsqCfg where
  poolBase : Nat
  ctrl : Nat
  table : Nat
  lists : Nat
  rowBuf : Nat
  poolPages : Nat
  rowBufBytes : Nat
  tokMax : Nat
  slot64 : Nat
  slots : Nat
  seqMax : Nat
  maxPages : Nat
  chunk : Nat
  draftMax : Nat
  lcEn : Bool
  tiles : Nat
  parkLimit : Nat
  joinMax : Nat
  prefillPct : Nat
  joinParked : Bool
  deriving DecidableEq, Repr

/-- A sequence (Table 08-7) with its SEQ entry, and what the current row holds of it: its tokens (0: not in the row) and where they
stand in the row's arrays; when it joined, whether a token came late, and whether SEQ_CANCEL marked it. -/
structure SeqRec where
  tag : W32
  q : Nat
  state : SeqState
  lc : Bool
  l : Nat
  promptDone : Nat
  outCount : Nat
  pages : List Nat
  pagesMax : Nat
  parkRows : Nat
  depth : Nat
  last : W32
  admitNo : Nat
  submit : W64
  lastTime : W64
  entry : List Byte
  ntok : Nat
  tokOff : Nat
  joined : Option W64
  late : Bool
  cancelled : Bool
  deriving DecidableEq, Repr

/-- The row that runs (R259): its sequences in row order, its tokens and draft steps, the stage and draft step being issued, the next
entry of the program, the commands in flight with their entries, those that failed and are not yet noted (command, entry, status),
and whether the row has ended. -/
structure RowRun where
  slots : List Nat
  tokens : Nat
  steps : Nat
  stage : Nat
  step : Nat
  next : Nat
  issued : List (Nat × Nat)
  failed : List (Nat × Nat × Nat)
  ended : Bool
  deriving DecidableEq, Repr

/-- A panel's row sequencer: its configuration, context and row program, the working copies of 08.3 (the free stack, top first;
pages reserved; the number of the row that runs or comes next; next admission number), the sequences by slot, the row that runs, the
RSQ_STOPs (mode, command; 0 for a freeze, R405) and the POOL_RESIZE (size, command) that wait for a boundary, the row's fault (status,
stage, entry), and whether a thaw is to resume it. -/
structure Rsq where
  cfg : RsqCfg
  ctx : Nat
  prog : List (List Byte)
  pool : Nat
  stack : List Nat
  lcOut : Nat
  row : Nat
  nextAdmit : Nat
  seqs : Tab SeqRec
  run : Option RowRun
  stop : List (Nat × Nat)
  resize : Option (Nat × Nat)
  fault : Option (Nat × Nat × Nat)
  byFreeze : Bool
  deriving DecidableEq, Repr

/-- A row command has ended: one that did not succeed waits to be noted. -/
def Rsq.ended (r : Rsq) (id status : Nat) : Rsq :=
  { r with run := r.run.map fun x => { x with
      issued := x.issued.filter fun e => !(decide (e.1 = id)),
      failed := if status < 0x0100 then x.failed
        else x.failed ++ (x.issued.filter fun e => decide (e.1 = id)).map fun e => (e.1, e.2, status) } }

end Sys2Proof.Machine
end

