-- ==== Sys2Proof/Machine/TypesMig.lean ====
section
/-! DEFINITION. What a migration image says (Table 12-6). -/

namespace Sys2Proof.Machine

/-- PANEL: the tiles, the settings, the target and reserved gauge, LOCK, and the loaded activation slots. -/
structure MigPanel where
  panel : Nat
  tiles : Nat
  cfg : PanelCfg
  target : Nat
  reserved : Nat
  lock : Nat
  slots : Tab (List Byte)
  deriving DecidableEq, Repr

/-- The header's figures, and every section but KEYS, which MIG_RESTORE does not use. `cmds`: each recorded command with the time it
has spent in ns; `seqs`: each sequencer with its panel and state. -/
structure MigImage where
  stepping : Nat
  compat : Nat
  vf : Nat
  func : Func
  msix : Tab W64
  pend : List Nat
  panels : List MigPanel
  arr : Tab Nat
  dscr : Tab Nat
  queues : Tab Queue
  ctxs : Tab Ctx
  classes : Tab CtxClass
  accounts : Tab Nat
  cmds : List (Cmd × W64)
  launches : Tab Launch
  images : List Image
  seqs : List (Nat × Nat × Rsq)
  deriving DecidableEq, Repr

/-- A migration image that this package wrote: the number of its free bytes, the bytes of its KEYS entries, and what it says. -/
structure SavedMig where
  num : Nat
  keys : List Byte
  image : MigImage
  deriving DecidableEq, Repr

end Sys2Proof.Machine
end

