-- ==== Sys2Proof/Machine/TypesSys.lean ====
section
/-! DEFINITION. The records that State is made of, seventh part: stitch markers, dumps and debug (14), power and thermal control
(11, 15.6), reset steps in progress (13), flash, boot and pins (15, 16). -/

namespace Sys2Proof.Machine

/-! ### Observation (14) -/

/-- A stitch marker (R452): it stays, disarmed, until its number is used again. `held`: the translations of its dump pages. -/
structure Marker where
  armed : Bool
  ctx : Nat
  slot : Nat
  hold : Bool
  byWork : Bool
  stepKind : Nat
  step : Nat
  left : Nat
  name : W32
  src : Nat
  dst : Nat
  len : Nat
  fired : Nat
  skipped : Nat
  status : Nat
  held : List TlbEntry
  deriving DecidableEq, Repr

/-- A dump that waits to be copied (R453): its marker, context, source, destination and length, and what its header tells.
`holdQ`, `holdRow`: the queue or the panel's row boundary that waits for it (R454). -/
structure Dump where
  mark : Option Nat
  ctx : Nat
  src : Nat
  dst : Nat
  len : Nat
  name : W32
  tag : W32
  row : W64
  fireAt : W64
  cmdStatus : Nat
  firing : Nat
  layer : Nat
  oper : Nat
  holdQ : Option Nat
  holdRow : Option Nat
  held : List TlbEntry
  deriving DecidableEq, Repr

/-! ### Power and temperature (11, 15.6) -/

/-- What the power controller keeps beside its registers: the ceiling and the fill floor in mW, the 100 µs averages of the last
1 ms in mW, latest first (R378), the windows in a row above and within the ceiling (R359), when the shed in force began and
whether the ceiling has moved since (R366, R367), whether SHED_N is asserted and a pin shed has outlasted it (R365), the
throttles of memory and of link injection in sixteenths (Tables 11-1, 11-4), the dies that a droop response holds and the beats each
die issued late in this period (R377), the thermal caps by unit (log entry 22), the tiles that run filler, the ceilings of this
window, whether every class is at its minimum (R359), and the energy of each account in nJ (R385). -/
structure Pwr where
  ceiling : Nat
  floor : Nat
  fast : List Nat
  above : Nat
  under : Nat
  shedAt : Option W64
  moved : Bool
  shedN : Bool
  outlast : Bool
  memShare : Nat
  linkShare : Nat
  cutNum : Nat
  drooped : List Nat
  late : Tab Nat
  heat : Tab Nat
  fillers : List Nat
  ceilings : List Nat
  atMin : Bool
  energy : Nat
  accounts : Tab Nat
  deriving DecidableEq, Repr

/-- A temperature sensor (R381, R481): the last reading taken, in quarter degrees, and discards or readings taken in a row. -/
structure Sensor where
  last : Option Int
  discards : Nat
  taken : Nat
  failed : Bool
  deriving DecidableEq, Repr

/-! ### Resets (13) -/

/-- A reset step in progress (R423): step, kind, target, when it was accepted, the commands that complete with it, and whether it
overran its bound. -/
structure ResetJob where
  step : Nat
  kind : Nat
  target : Nat
  since : W64
  cmds : List Nat
  overran : Bool
  deriving DecidableEq, Repr

/-! ### Flash, boot, pins and test (14.7, 15, 16) -/

/-- A firmware copy in the flash (R472): whether it verifies, its bundle version, the lowest SVN of its images, its class. -/
structure FwCopy where
  good : Bool
  version : W16
  svn : Nat
  compat : W16
  deriving DecidableEq, Repr

/-- The flash (Table 15-2): copies A and B, the boot record, the bytes of the configuration image, and those that
cast-on accepted (R473). The repair logs and pending
lists stand in `Stack`. -/
structure Flash where
  a : FwCopy
  b : FwCopy
  preferB : Bool
  commit : Bool
  recordOk : Bool
  image : List Byte
  inUse : List Byte
  deriving DecidableEq, Repr

/-- Where the package stands between power-up and bind-off (R468, R470, R483, R495, R383): not cast on; waiting for 48 V at step 5;
ready; management-only; recovery; halted; bind-off in progress; bound off; after a supply fault; after a thermal trip. -/
inductive Boot where
  | off | vinWait | ready | mgmtOnly | recovery | halted | bindOff | bound | inputFault | tripped
  deriving DecidableEq, Repr

/-- The TAP (R459): its instruction, and the boundary register's preloaded value. -/
structure Tap where
  instr : Byte
  preload : W64
  shift : W64
  deriving DecidableEq, Repr

/-- The pins and the sideband: TRAY_RST_N, the two PERST_N, SHED_N's last taken level, PKG_ALERT_N and THERMTRIP_N as driven, the
time of the last PPS_IN edge taken, since when REFCLK_IN is good, whether the 48 V stage is on, and whether each host port may
train. -/
structure Pins where
  trayRst : Bool
  hpReset : List Bool
  alert : Bool
  thermTrip : Bool
  lastPps : Option W64
  refBad : Bool
  stage48 : Bool
  deriving DecidableEq, Repr

def Pwr.new : Pwr :=
  { ceiling := 0, floor := 0, fast := [], above := 0, under := 0, shedAt := none, moved := false, shedN := false,
    outlast := false, memShare := 16, linkShare := 16, cutNum := 0, drooped := [], late := [], heat := [], fillers := [],
    ceilings := [], atMin := false, energy := 0, accounts := [] }

def Sensor.new : Sensor := ⟨none, 0, 0, false⟩

def Pins.new : Pins := ⟨true, [true, true], false, false, none, false, false⟩

def Tap.new : Tap := ⟨1, 0, 0⟩

end Sys2Proof.Machine
end

