-- ==== Sys2Proof/Machine/Skein.lean ====
section
/-! DEFINITION. In-cache reductions as values (05.9): the element operations of Table 05-13, and the skein buffer's exact
accumulators: opening, adding, carry form, and the one rounding of a close (R177 to R181). -/

namespace Sys2Proof.Machine

/-- An element's accumulator: its value when the entry opened, the sum in units of 2^ANCHOR, and the sticky special flags
(R179, R49). -/
structure Acc where
  v0 : Nat
  sum : Int
  nan : Bool
  pinf : Bool
  ninf : Bool
  deriving DecidableEq, Repr

/-- An open entry of a base die's skein buffer. `line`: local address / 128. `key`: identity of the key the line is written
under. `panel`: the owner whose quota it takes, none for the manager quota. `sects`: the sectors that its operations addressed; the others
are left as they are (R177). `spoil`: sectors to poison at the close (R234). -/
structure SkeinEntry where
  bd : Nat
  line : Nat
  bf : Bool
  anchor : Int
  key : Nat
  accs : List Acc
  ops : Nat
  ctxs : List Nat
  panel : Option Nat
  splitK : Bool
  sects : Nat
  spoil : Nat
  deriving DecidableEq, Repr

/-- Bytes of an element of a reduction (Table 05-13). -/
def ropBytes (rop : Nat) : Nat := if rop = 1 ∨ rop = 5 ∨ rop = 6 then 2 else 4

def ropFmt (rop : Nat) : FFmt := if ropBytes rop = 2 then bf16 else fp32

/-- R177, R178: one application of a non-exact operation to an element. -/
def ropApply (rop old x : Nat) : Nat :=
  let f := ropFmt rop
  let i (n : Nat) : Int := signed 32 n
  match rop with
  | 0 => faddR fp32 fp32.nan old x
  | 1 => faddR bf16 bf16.nan old x
  | 2 => (old + x) % 2 ^ 32
  | 3 => fmaxR f old x
  | 4 => fminR f old x
  | 5 => fmaxR f old x
  | 6 => fminR f old x
  | 7 => if i old < i x then x else old
  | 8 => if i x < i old then x else old
  | _ => old

/-- The elements of `w` bytes of a list of bytes. -/
def elems (w : Nat) : Nat → List Byte → List Nat
  | 0, _ => []
  | n + 1, b => leNat (b.take w) :: elems w n (b.drop w)

def unelems (w : Nat) (l : List Nat) : List Byte := l.flatMap fun n => leBytes w n

/-- R179: the entry's first values: a NaN or infinite v0 sets the flags as an operand would. -/
def accOpen (f : FFmt) (v : Nat) : Acc :=
  match fdecode f v with
  | .nan => ⟨v, 0, true, false, false⟩
  | .inf n => ⟨v, 0, false, !n, n⟩
  | .fin _ _ _ => ⟨v, 0, false, false, false⟩

/-- R179: add one operand; the notes it raises. -/
def accAdd (f : FFmt) (anchor : Int) (a : Acc) (x : Nat) : Acc × Nat :=
  match fdecode f x with
  | .nan => ({ a with nan := true }, 0)
  | .inf n => ({ a with pinf := a.pinf || !n, ninf := a.ninf || n }, 0)
  | .fin neg m e =>
    let d : Dyad := (FVal.fin neg m e).dyad
    let (q, exact) := d.floorAt anchor
    let big := Dyad.le ⟨1, anchor + 100⟩ ⟨(m : Int), e⟩
    if big then ({ a with sum := a.sum + (if neg then -(2 : Int) ^ 100 else 2 ^ 100) }, noteOverflow)
    else ({ a with sum := a.sum + q }, if exact then 0 else noteInexact)

/-- R180: the value a close gives an element, and whether it overflowed. -/
def accClose (f : FFmt) (anchor : Int) (a : Acc) : Nat × Bool :=
  if a.nan || (a.pinf && a.ninf) then (f.nan, false)
  else if a.pinf then (f.inf false, false)
  else if a.ninf then (f.inf true, false)
  else
    let d := (fdecode f a.v0).dyad.add ⟨a.sum, anchor⟩
    if d.m = 0 then ((if a.sum = 0 then a.v0 else 0), false)
    else
      let r := froundD f d
      (r, decide (r % 2 ^ (f.eb + f.mb) = f.inf false))

def SkeinEntry.fmt (e : SkeinEntry) : FFmt := if e.bf then bf16 else fp32
def SkeinEntry.width (e : SkeinEntry) : Nat := if e.bf then 2 else 4

/-- The line's 128 bytes as a close would leave them. -/
def SkeinEntry.closed (e : SkeinEntry) : List Byte := unelems e.width (e.accs.map fun a => (accClose e.fmt e.anchor a).1)

def SkeinEntry.overflows (e : SkeinEntry) : Bool := e.accs.any fun a => (accClose e.fmt e.anchor a).2

/-- R180: write the closing value, sector by sector; a poisoned sector keeps its poison (R177), and the sectors of a poisoned
source become poisoned (R234). -/
def SkeinEntry.writeBack (e : SkeinEntry) (m : Memory) : Memory :=
  let b := e.closed
  (List.range 4).foldl (fun m i =>
    let a := 128 * e.line + 32 * i
    if m.poisoned a then m
    else
      let m := if bit e.sects i then m.writeHbm e.key a ((b.drop (32 * i)).take 32) else m
      if bit e.spoil i then m.poison e.key a else m) m

/-- A BF16 line takes two of the buffer's 8,192 places (R179). -/
def SkeinEntry.places (e : SkeinEntry) : Nat := if e.bf then 2 else 1

/-- Apply a vector to the accumulators of the addressed sectors; `per` elements a sector. -/
def skeinVec (f : FFmt) (anchor : Int) (per sectors : Nat) : Nat → List Acc → List Nat → List Acc × Nat
  | i, a :: t, x :: u =>
    let r := skeinVec f anchor per sectors (i + 1) t u
    if bit sectors (i / per) then
      let (a', n) := accAdd f anchor a x
      (a' :: r.1, n ||| r.2)
    else (a :: r.1, r.2)
  | _, l, _ => (l, 0)

/-- R179 carry form: one sector's elements as 128-bit windows in units of 2^a, added as they stand. -/
def skeinCarry (sector : Nat) (accs : List Acc) (payload : List Byte) : List Acc :=
  accs.zipIdx.map fun (a, i) =>
    if i / 8 = sector then { a with sum := a.sum + signed 128 (leAt payload (16 * (i % 8)) 16) } else a

end Sys2Proof.Machine
end

