-- ==== Sys2Proof/Machine/TypesUcc.lean ====
section
/-! DEFINITION. The records that State is made of, third part: the unified cache's slices, the directory and its
transactions, messages in transit, replay windows, stream trackers and lease copies (05, 06.4). Lines are numbered by global
physical address / 128. Data has its home in memory (R155): a line record holds states and masks, no bytes. -/

namespace Sys2Proof.Machine

/-- Table 05-1. -/
inductive LState where
  | s | e | m
  deriving DecidableEq, Repr

/-- A line that a slice holds; a line not listed is in I. `panel`: whom it is charged to, 63 for the manager pool (R157). The
list of a slice's lines is in order of use, latest first. -/
structure Line where
  line : Nat
  state : LState
  dirty : Nat
  poison : Nat
  key : Nat
  gen : Byte
  panel : Nat
  deriving DecidableEq, Repr

inductive MKind where
  | snpShr | snpInv | snpFetch | invAck | wbInFlight | complete | wbAck | evictClean | dirFree | credit | data | wbData
  deriving DecidableEq, Repr

/-- A line that a slice holds for its requester (R172): from the granting DAT for 64 ns at least. -/
structure Hold where
  line : Nat
  until_ : Nat
  ctx : Nat
  owner : W16
  deriving DecidableEq, Repr

/-- A slice (R156, R160, R169, R172): its lines, its base die's presence mirror, the write-back buffer, the credits in use by
bank, the lines held with the time their hold ends, and the snoops that wait in the hold table. -/
structure Slice where
  lines : List Line
  mirror : List Nat
  wbuf : List Line
  creditUsed : Tab Nat
  holds : List Hold
  held : List (Nat × MKind × Nat)
  deriving DecidableEq, Repr

inductive DirState where
  | di | ds | dx
  deriving DecidableEq, Repr

/-- The requests of Table 05-8. -/
inductive ReqOp where
  | rdShr
  | rdOwn (readMiss : Bool)
  | upgrade
  | rdOnce
  | wrLine (data : List Byte) (hint : Nat)
  | wrPtl (mask : BitVec 128) (data : List Byte) (hint : Nat)
  | atomic (addr : Nat) (op : AtomOp) (size : Nat) (a b : W64) (rt : Option RTag)
  | addLine (sectors : BitVec 4) (rop : Nat) (exact carry : Bool) (anchor : Int) (payload : List Byte) (rt : RTag)
  deriving DecidableEq, Repr

/-- A REQ: its header and the agent that sent it (Table 05-9). -/
structure Req where
  h : ReqHdr
  line : Nat
  op : ReqOp
  deriving DecidableEq, Repr

/-- A snooped slice of a busy transaction: the snoop it still owes an answer to, and which half of a crossing write-back has
arrived (R173). -/
structure Snooped where
  slice : Nat
  kind : MKind
  wbFlight : Bool
  wbData : Bool
  deriving DecidableEq, Repr

/-- What a busy entry waits for: answers to snoops, PORTS = 0 or the hand-over of a grant; `req` is none for a
back-invalidation (R161). `dirty`: the dirty sectors that answers brought. `homeKept`: the home slice kept the line. -/
structure Txn where
  req : Option Req
  waits : List Snooped
  dirty : Nat
  homeKept : Bool
  granted : Bool
  deriving DecidableEq, Repr

/-- A directory entry (Table 05-2). A bank's entries are in order of use, latest first. -/
structure DirEntry where
  line : Nat
  state : DirState
  slices : Nat
  ports : Nat
  busy : Option Txn
  waiting : List Req
  deriving DecidableEq, Repr

/-- A message in transit (Tables 05-5 and 05-8): kind, sender, receiver, line, tag, dirty mask, granted state; `status` and
`old` for COMPLETE, or the bytes and poison that a cacheless reader receives. -/
structure Msg where
  kind : MKind
  src : Nat
  dst : Nat
  line : Nat
  tag : Nat
  dirty : Nat
  grant : Option LState
  status : Nat
  old : W64
  hdr : ReqHdr
  bytes : List Byte
  poison : Nat
  deriving DecidableEq, Repr

/-- A hub tracker entry (R170, R432): the request's tag, the port whose reserve it may take, its owner, context, line, and
when it was issued; `cmd`: the command that waits for it. -/
structure Tracked where
  tag : Nat
  port : Nat
  owner : W16
  ctx : Nat
  line : Nat
  since : W64
  sectors : Nat
  deriving DecidableEq, Repr

/-- A replay window (R182): source, the floor, the tags applied above it, and what each answered; time of the last operation. -/
structure Replay where
  slice : Nat
  pkg : Nat
  eng : Nat
  floor : W32
  marked : List W32
  answers : List (W32 × Nat × W64)
  last : W64
  deriving DecidableEq, Repr

/-- A FINAL held in a stream tracker (R193). -/
structure HeldFinal where
  span : Nat
  count : Nat
  addr : Nat
  value : W64
  key : Nat
  tag : Nat
  pkg : Nat
  since : W64
  deriving DecidableEq, Repr

/-- A stream tracker (R193, R194): issuing package, context, STREAM, the four counters and the held FINALs. -/
structure Tracker where
  pkg : Nat
  ctx : Nat
  stream : Nat
  counts : List Nat
  held : List HeldFinal
  deriving DecidableEq, Repr

/-- A lease copy (R176): in which slice, of which global line, for which context, filled when; its bytes may be stale. -/
structure Lease where
  slice : Nat
  line : Nat
  ctx : Nat
  key : Nat
  filled : W64
  bytes : List Byte
  poison : Nat
  deriving DecidableEq, Repr

def Slice.new : Slice := ⟨[], [], [], [], [], []⟩

end Sys2Proof.Machine
end

