-- ==== Sys2Proof/Machine/State.lean ====
section
/-! DEFINITION. The state of the package: everything the spec names, as plain data, the queue of commands that wait, and the
two reasons a step can stop. Log entries 1 to 6 say what the model adds to the spec's state. -/

namespace Sys2Proof.Machine

/-- Why the block stops with a fault. Every condition that the spec describes is a status, a record or an event in State, so
no meaning raises a fault. -/
inductive Fault where
  /-- Raised by nothing. Safe: a stop proves no claim about a next state. -/
  | none
  deriving DecidableEq, Repr

/-- Why the block has no meaning for a command. -/
inductive Refusal where
  /-- Raised by the dispatch for a command whose meaning is not written. Safe: nothing is claimed about it. -/
  | notModelled (mnemonic : String)
  deriving DecidableEq, Repr

structure State where
  /-- The commands that wait, first in, first out (the block's own). -/
  pending : List Instr
  /-- How many free values have been drawn (the model's own; log entry 2). -/
  free : Nat
  /-- What the package has sent to the outside, newest last. -/
  out : List Out
  /-- Package time in ns (R7). -/
  time : W64
  fuses : Fuses
  /-- Every register that holds a value of its own, by `regKey`; one that is not listed has its reset value. -/
  regs : Tab W64
  mem : Memory
  /-- Key slots 0 to 47 and 63 (R138). -/
  keys : Tab KeySlot
  /-- The identity that the next fresh key receives (R141). -/
  keyNext : Nat
  /-- The manager wrapping key's identity, 0 if none (R411). -/
  mwk : Nat
  /-- Wrapped blobs that this package made: bytes, key, wrapping key (R141). -/
  blobs : List (List Byte × Nat × Nat)
  hbms : Tab Stack
  /-- The cast-on count that repair log entries record (R148). -/
  boots : Nat
  /-- TLBs (06.8): general core 32n + c, die 384 + n, hub 396. -/
  tlbs : Tab (List TlbEntry)
  /-- Walk caches: die 384 + n, hub 396. -/
  walks : Tab (List WalkEntry)
  queues : Tab Queue
  ctxs : Tab Ctx
  funcs : Tab Func
  /-- MSI-X table words that were written, by 2 × (2,048 × function + vector) + word, and the pending vectors (R392). -/
  msix : Tab W64
  msixPend : List Nat
  cmds : Tab Cmd
  nextCmd : Nat
  remotes : List Remote
  nextTag : Nat
  streams : List IssStream
  /-- The fault log by slot, and the index of the next entry (R417). -/
  faultLog : Tab FaultEntry
  fltTail : W32
  /-- The slices 0 to 3, the directory banks 0 to 3, and the messages in transit between agents (05). -/
  slices : Tab Slice
  dirs : Tab (List DirEntry)
  /-- Requests of a bank that wait for a directory entry (R161). -/
  dirWait : Tab (List Req)
  net : List Msg
  tracker : List Tracked
  /-- Open skein entries, latest used first (R179). -/
  skein : List SkeinEntry
  replays : List Replay
  trackers : List Tracker
  leases : List Lease
  /-- Load-linked reservations that stand (R90). -/
  resvs : List Resv
  /-- The next tag of the reductions that an engine of this package issues, by engine (R182). -/
  rtags : Tab W32
  panels : Tab Panel
  tiles : Tab Tile
  /-- Settings of each epoch still in use, by epoch (R306). -/
  epochs : Tab Settings
  committed : Nat
  applied : Nat
  stage : List StageItem
  toApply : List CfgResource
  commitAt : W64
  /-- General cores (32 × die + core), launches by command, stash images by their own number (03, 09). -/
  cores : Tab Core
  launches : Tab Launch
  images : Tab Image
  nextImage : Nat
  /-- Links, what each knows of time, the time steering, route tables (512 entries: 256 × table + index), guests' time of
  link-up, COLL messages and jobs (10). -/
  links : Tab LinkSt
  peers : Tab TimePeer
  timebase : Timebase
  routes : Tab Nat
  guestUp : Tab W64
  colls : List CollMsg
  /-- MCTP messages that the MGC has received over links (Table 10-2), newest last. -/
  mctp : List (Nat × List Byte)
  jobs : List Job
  /-- Row sequencers that are configured, by panel (08). -/
  rsqs : Tab Rsq
  /-- Markers by number, pending dumps by their own number, whether sampler records were dropped since the last written, the issue
  count of each core at its last sampling trigger, the last times of a sampler record and of a bandwidth window's end, and by stepped
  tile the command it holds: 2 × command, + 1 once it is released (14). -/
  marks : Tab Marker
  dumps : Tab Dump
  nextDump : Nat
  smpLost : Bool
  csmpAt : Tab Nat
  smpAt : Option W64
  bwAt : Option W64
  stepped : Tab Nat
  /-- Translations that the SCC holds of stash areas, by 4 × context + quadrant (R294). -/
  stash : Tab (List TlbEntry)
  /-- Domain switches that were requested and not reported, in arrival order: domain, on, command (R26). -/
  switches : List (Nat × Bool × Nat)
  pwr : Pwr
  sensors : Tab Sensor
  resetJob : Option ResetJob
  flash : Flash
  boot : Boot
  /-- Keys of the registers with reset value C that were written since power-up (R475). -/
  written : List Nat
  tap : Tap
  pins : Pins
  /-- When bind-off began, and its phase 2 limit in ms (R483). -/
  bindAt : W64
  drainMs : Nat
  /-- Migration images that this package wrote (the model's own: what the bytes of each say). -/
  saved : List SavedMig
  deriving DecidableEq, Repr

/-! ### Reset (R468, R472; log entries 13 to 16 for what the spec leaves open) -/

/-- Fuses of a part: the spec gives the 32 raises of R478 and the hub version 2 of stepping B1; the rest, grade 48 among it, is a
DESIGN CHOICE (log entry 13). -/
def Fuses.reset : Fuses :=
  { serial := 0, grade := 0x30, guestPop := 0, maker := 0, hubVersion := 2, minSvn := 0, raisesLeft := 32, spareRows := 1024,
    bankSpare := 1 }

/-- The manager's function before cast-on step 9 (R474). -/
def Func.reset : Func :=
  { atsEn := false, panels := 0, ovfLog2 := 12, ovfAddr := 0, ovfHead := 0, ovfTail := 0, dropped := 0, badDb := 0,
    mbxLog2 := 4, mbxAddr := 0, mbxVector := 0, pfVector := 0, maxInflight := 4096, m2tHead := 0, m2tTail := 0, t2mHead := 0,
    t2mTail := 0, mbxBad := false, flrBusy := false, state := 1, apErr := 0, apEn := false, apCtx := 0, apBase := 0 }

/-- A firmware copy that verifies, of version 0. -/
def FwCopy.reset : FwCopy := ⟨true, 0, 0, 0⟩

/-- The flash as shipped: both copies verify and the configuration image is blank (DESIGN CHOICE, log entry 14). -/
def Flash.reset : Flash :=
  { a := FwCopy.reset, b := FwCopy.reset, preferB := false, commit := false, recordOk := true, image := [], inUse := [] }

/-- The package before cast-on: every register at its reset value, no supply yet taken. -/
def State.reset : State :=
  { pending := [], free := 0, out := [], time := 0, fuses := Fuses.reset, regs := [], mem := Memory.empty, keys := [],
    keyNext := 1, mwk := 0, blobs := [], hbms := [], boots := 0, tlbs := [], walks := [], queues := [], ctxs := [],
    funcs := [(0, Func.reset)], msix := [], msixPend := [], cmds := [], nextCmd := 1, remotes := [], nextTag := 0, streams := [], faultLog := [],
    fltTail := 0, slices := [], dirs := [], dirWait := [], net := [], tracker := [], skein := [], replays := [],
    trackers := [], leases := [], resvs := [], rtags := [], panels := [], tiles := [], epochs := [(1, Settings.initial)],
    committed := 1, applied := 1, stage := [], toApply := [], commitAt := 0, cores := [], launches := [], images := [],
    nextImage := 0, links := [], peers := [], timebase := Timebase.new, routes := [], guestUp := [], colls := [], mctp := [],
    jobs := [], rsqs := [], marks := [], dumps := [], nextDump := 0, smpLost := false, csmpAt := [], smpAt := none, bwAt := none, stepped := [],
    stash := [], switches := [], pwr := Pwr.new, sensors := [], resetJob := none, flash := Flash.reset, boot := .off,
    written := [], tap := Tap.new, pins := Pins.new, bindAt := 0, drainMs := 0, saved := [] }

end Sys2Proof.Machine
end

