-- ==== Sys2Proof/Machine/Ops.lean ====
section
/-! DEFINITION. Named operations over registers, the physical address map, the fault log, the rings, events and interrupts. -/

namespace Sys2Proof.Machine

/-! ### Registers -/

/-- The key of register instance (r, i) in `State.regs`. -/
def regKey (r : Reg) (i : Nat) : Nat := r.ctorIdx * 65536 + i

/-- A register's value after reset (R6, the reset column). -/
def regReset (r : Reg) : Nat := (regInfo r).fields.foldl (fun v f => v + f.reset * 2 ^ f.lo) 0

def State.reg (s : State) (r : Reg) (i : Nat) : Nat :=
  match tget s.regs (regKey r i) with
  | some v => v.toNat
  | none => regReset r

def State.setReg (s : State) (r : Reg) (i v : Nat) : State :=
  { s with regs := tput s.regs (regKey r i) (w64 v) }

def State.fld (s : State) (f : Fld) (i : Nat) : Nat := bits (s.reg f.reg i) f.hi f.lo

def State.setFld (s : State) (f : Fld) (i v : Nat) : State := s.setReg f.reg i (setBits (s.reg f.reg i) f.hi f.lo v)

/-- Add to a field, saturating. -/
def State.incFld (s : State) (f : Fld) (i n : Nat) : State :=
  s.setFld f i (sat (f.hi + 1 - f.lo) (s.fld f i + n))

/-- Return every instance of the registers of a list to its reset value. -/
def State.resetRegs (s : State) (l : List Reg) : State :=
  { s with regs := s.regs.filter fun e => !(l.any fun r => decide (e.1 / 65536 = r.ctorIdx)) }

/-- Return one instance of a register to its reset value. -/
def State.resetReg (s : State) (r : Reg) (i : Nat) : State := { s with regs := tdel s.regs (regKey r i) }

/-- Draw a free value: its number, and the state with the counter advanced. -/
def State.fresh (s : State) : Nat × State := (s.free, { s with free := s.free + 1 })

def State.emit (s : State) (o : Out) : State := { s with out := s.out ++ [o] }

def State.now (s : State) : Nat := s.time.toNat

/-! ### Dies, domains and tiles (01) -/

/-- Compute die n passed its check and runs (R14, R17). -/
def State.diePresent (s : State) (n : Nat) : Bool := decide (n < 12) && bit (s.fld .GLB_DIE_PRESENT_CD_PRESENT 0) n

/-- The power domain d is on (Table 01-10, `PWR_DOMAIN_ON`). -/
def State.domainOn (s : State) (d : Nat) : Bool :=
  if d = 127 then true
  else if d < 64 then bit (s.reg .PWR_DOMAIN_ON 0) d else decide (d < 103) && bit (s.reg .PWR_DOMAIN_ON 1) (d - 64)

def State.setDomain (s : State) (d : Nat) (on : Bool) : State :=
  let i := d / 64
  s.setReg .PWR_DOMAIN_ON i (setBits (s.reg .PWR_DOMAIN_ON i) (d % 64) (d % 64) (b2n on))

/-- Domain number of tile t (Table 01-10): 5n + a with t = 4n + a. -/
def tileDomain (t : Nat) : Nat := 5 * (t / 4) + t % 4
def uncoreDomain (n : Nat) : Nat := 5 * n + 4

def State.tile (s : State) (t : Nat) : Tile := tgetD s.tiles t Tile.free
def State.setTile (s : State) (t : Nat) (x : Tile) : State := { s with tiles := tput s.tiles t x }
def State.modTile (s : State) (t : Nat) (f : Tile → Tile) : State := s.setTile t (f (s.tile t))

/-- A tile of a present die (R14). -/
def State.tilePresent (s : State) (t : Nat) : Bool := decide (t < 48) && s.diePresent (t / 4)

def State.tileOn (s : State) (t : Nat) : Bool := s.tilePresent t && s.domainOn (tileDomain t)

/-! ### Settings and epochs (R306) -/

/-- The settings of an epoch; of the latest committed one where the epoch is no longer kept. -/
def State.settings (s : State) (e : Nat) : Settings :=
  (tget s.epochs e).getD (tgetD s.epochs s.committed Settings.initial)

def State.cfg (s : State) : Settings := s.settings s.committed

def PanelCfg.none : PanelCfg := ⟨0, false, 250, 0, 0, 0, 0⟩

def Settings.panel (c : Settings) (p : Nat) : PanelCfg := tgetD c.panels p PanelCfg.none

def CtxClass.none : CtxClass := ⟨false, false, 1, [0, 0, 0, 0], [0, 0, 0, 0]⟩

def Settings.cls (c : Settings) (x : Nat) : CtxClass := tgetD c.classes x CtxClass.none

/-- `ARR_CONFIG` of a tile under some settings; reset value RUNAHEAD_EN = 1, USER_MIB = 0. -/
def Settings.arrConfig (c : Settings) (t : Nat) : Nat := tgetD c.arr t 0x10000

/-- USER_MIB of a tile (R67): values above 24 act as 24. -/
def Settings.userMib (c : Settings) (t : Nat) : Nat := min 24 (bits (c.arrConfig t) 5 0)

/-- The panel that owns a die-scratch segment (R108), from its owner byte. -/
def Settings.dscrOwner (c : Settings) (die seg : Nat) : Option Nat :=
  let b := tgetD c.dscr (16 * die + seg) 0
  if bit b 7 then some (bits b 5 0) else none

/-! ### The local physical address map (Table 01-12) -/

inductive Region where
  | hbm | regs (off : Nat) | scratch (tile off : Nat) | dscr (die off : Nat) | host (off : Nat) | guest (site off : Nat)
  | none
  deriving DecidableEq, Repr

def region (a : Nat) : Region :=
  if a < 0x10000000000 then .hbm
  else if a < 0x800000000000 then .none
  else if a < 0x800004000000 then .regs (a - 0x800000000000)
  else if a < 0x800100000000 then .none
  else if a < 0x800160000000 then .scratch ((a - 0x800100000000) / 0x2000000) ((a - 0x800100000000) % 0x2000000)
  else if a < 0x800200000000 then .none
  else if a < 0x80020C000000 then .dscr ((a - 0x800200000000) / 0x1000000) ((a - 0x800200000000) % 0x1000000)
  else if a < 0x900000000000 then .none
  else if a < 0xA00000000000 then .host (a - 0x900000000000)
  else if a < 0xA20000000000 then .guest ((a - 0xA00000000000) / 0x10000000000) ((a - 0xA00000000000) % 0x10000000000)
  else .none

def scratchBase (t : Nat) : Nat := 0x800100000000 + t * 0x2000000
def dscrBase (n : Nat) : Nat := 0x800200000000 + n * 0x1000000

def xorFields (g w k : Nat) : Nat := (List.range k).foldl (fun x i => x ^^^ bits g (w * i + w - 1) (w * i)) 0

/-- R126: the stack and the stack-local address of a local HBM address, interleaved or quadrant-local. -/
def hbmMap (quadLocal : Bool) (pa : Nat) : Nat × Nat :=
  let o := pa % 0x1000000000
  let f := bits pa 39 36
  if quadLocal then
    let g := bits o 33 12
    (4 * bits o 35 34 + xorFields g 2 11, f * 0x100000000 + bits g 21 2 * 4096 + o % 4096)
  else
    let g := o / 4096
    (bits g 3 0 ^^^ xorFields (g / 16) 4 5, f * 0x100000000 + bits g 23 4 * 4096 + o % 4096)

/-- A frame operates in quadrant-local mode (R123, R126). -/
def State.quadLocal (s : State) (f : Nat) : Bool :=
  decide (s.fld .HBM_G_STATUS_QUAD_ONLY 0 = 1) || bit s.cfg.frameMode f

def State.hbmLoc (s : State) (pa : Nat) : Nat × Nat := hbmMap (s.quadLocal (bits pa 39 36)) pa

/-- The address lies in present local HBM (R123): with a stack that failed training, its quadrant's quarters are absent. -/
def State.hbmPresent (s : State) (pa : Nat) : Bool :=
  decide (pa < 0x10000000000) && decide (s.fld .HBM_G_STATUS_TRAINED 0 = 1) &&
    (decide (s.fld .HBM_G_STATUS_QUAD_ONLY 0 = 0) ||
      (List.range 4).all fun i => decide (s.fld .HBM_TRAIN_RESULT_PASS (4 * bits pa 35 34 + i) = 1))

/-- The stack that holds the address has left service (R124). -/
def State.hbmOos (s : State) (pa : Nat) : Bool := decide (s.fld .HBM_STK_STATUS_OUT_OF_SERVICE (s.hbmLoc pa).1 = 1)

/-- For whom an access is made: the context, its panel, whether it is the manager's (R509), and the epoch it runs under. -/
structure Who where
  ctx : Nat
  panel : Nat
  mgr : Bool
  epoch : Nat
  deriving DecidableEq, Repr

/-- An access by the hub itself, with the manager's rights. -/
def State.hubWho (s : State) : Who := ⟨0, 63, true, s.committed⟩

/-- The half of the host window on a port has something behind it (R393): the port is not held in reset (R498), and HP1 is switched on. -/
def State.hostUp (s : State) (off : Nat) : Bool :=
  if bit off 43 then s.domainOn 102 && !(s.pins.hpReset.getD 1 false) else !(s.pins.hpReset.getD 0 false)

/-- A window of a guest site that negotiation gave holds the offset (10). -/
def State.guestWindow (s : State) (site off : Nat) : Bool :=
  decide (s.fld .GST_STATUS_STATE site = 4) &&
    (List.range 4).any fun i =>
      let b := s.fld .GST_WIN_BASE (4 * site + i) * 4096
      decide (b ≤ off) && decide (off < b + s.fld .GST_WIN_SIZE (4 * site + i) * 4096)

/-- A local physical address that may be accessed by `w` (R14, R28, R30, R32, R67, R108, R123, R149); otherwise the access is
not performed and faults with 0x0301, cause 5. -/
def State.paOk (s : State) (w : Who) (a : Nat) : Bool :=
  match region a with
  | .hbm => s.hbmPresent a && decide (s.fld .HBM_G_CTL_TEST_MODE 0 = 0)
  | .regs _ => true
  | .scratch t off =>
    s.tileOn t && (w.mgr || decide ((s.tile t).owner = some w.panel)) &&
      decide (off < (s.settings w.epoch).userMib t * 0x100000)
  | .dscr n off =>
    s.diePresent n && s.domainOn (uncoreDomain n) &&
      (w.mgr || decide ((s.settings w.epoch).dscrOwner n (off / 0x100000) = some w.panel))
  | .host off => s.hostUp off
  | .guest site off => decide (site < 2) && s.guestWindow site off
  | .none => false

/-- The identity of the key in a slot (R138), none while it is not loaded. -/
def State.keyOf (s : State) (slot : Nat) : Option Nat :=
  match tget s.keys slot with
  | some k => if k.key = 0 then none else some k.key
  | none => none

/-- R139: the hub accepts key index `slot` from `w`. -/
def keyAccepted (w : Who) (slot : Nat) : Bool :=
  (w.mgr && (decide (slot < 48) || decide (slot = 63))) || decide (slot = 63) ||
    (decide (slot < 48) && decide (slot = w.panel))

/-- R28: an access that finds its stack's interface off switches it on. -/
def State.wakeHbm (s : State) (pa : Nat) : State :=
  let h := (s.hbmLoc pa).1
  if s.domainOn (76 + h) then s else (s.setDomain (76 + h) true).setFld .HBM_STK_STATUS_SELF_REFRESH h 0

/-! ### Open skein entries seen by other accesses (R180) -/

/-- Close one entry: its sums are rounded once into the line. -/
def State.skeinClose (s : State) (e : SkeinEntry) : State :=
  { s with mem := e.writeBack s.mem, skein := s.skein.filter fun x => !(decide (x.line = e.line)) }

/-- A write, atomic or non-exact reduction to a line closes its entry first (kind 2). -/
def State.skeinCloseLine (s : State) (line : Nat) : State :=
  match s.skein.find? (fun e => decide (e.line = line)) with
  | some e => s.skeinClose e
  | none => s

/-- Memory as a read of an address sees it: with an open entry of its line closed, though the entry stays open. -/
def State.seenMem (s : State) (a : Nat) : Memory :=
  match s.skein.find? (fun e => decide (e.line = a / 128)) with
  | some e => e.writeBack s.mem
  | none => s.mem

/-- What an access of one sector or less came to. -/
inductive Got where
  | ok (bytes : List Byte) (poison : Bool)
  | fault (status : Nat)
  deriving DecidableEq, Repr

/-- Read within one sector of a local address that passed `paOk`, under the key of identity `k`; register space is not read
here. A stack out of service answers poison (R124); a guest answers what it likes (R349). -/
def State.pread (s : State) (k a n : Nat) : State × Got :=
  match region a with
  | .hbm =>
    let s := s.wakeHbm a
    if s.hbmOos a then
      let (c, s) := s.fresh
      (s, .ok ((List.range n).map fun i => Config.undefByte c i) true)
    else (s, .ok ((s.seenMem a).readHbm k a n) ((s.seenMem a).poisoned a))
  | .guest _ _ =>
    let (c, s) := s.fresh
    (s, .ok ((List.range n).map fun i => Config.guestByte (a + i) c) (decide (Config.freeNat c % 2 = 1)))
  | .regs _ => (s, .fault 0x0301)
  | .none => (s, .fault 0x0301)
  | _ => (s, .ok (s.mem.readPlain a n) false)

/-- R90: a write to a sector ends every reservation on it. -/
def State.breakResv (s : State) (a : Nat) : State :=
  { s with resvs := s.resvs.filter fun r => !(decide (r.sector = a / 32)) }

/-- Write within one sector of a local address that passed `paOk`. The status is 0 when the write is performed. -/
def State.pwrite (s : State) (k a : Nat) (b : List Byte) : State × Nat :=
  match region a with
  | .hbm =>
    let s := s.wakeHbm a
    if s.hbmOos a then (s, 0x0302)
    else
      let s := s.skeinCloseLine (a / 128)
      ({ s.breakResv a with mem := s.mem.writeHbm k a b }, 0)
  | .guest _ _ =>
    let (c, s) := s.fresh
    if Config.freeNat c % 2 = 1 then (s.emit (.guestWrite a b), 0x0302) else (s.emit (.guestWrite a b), 0)
  | .regs _ => (s, 0x0301)
  | .none => (s, 0x0301)
  | _ => ({ s.breakResv a with mem := s.mem.writePlain a b }, 0)

/-- Split [a, a + n) at sector boundaries. -/
def sectorsOf : Nat → Nat → Nat → List (Nat × Nat)
  | 0, _, _ => []
  | fuel + 1, a, n =>
    if n = 0 then []
    else
      let m := min n (32 - a % 32)
      (a, m) :: sectorsOf fuel (a + m) (n - m)

def chunks (a n : Nat) : List (Nat × Nat) := sectorsOf (n / 32 + 2) a n

/-- Read consecutive local bytes under a key slot: none where any part is not performed or is poisoned. -/
def State.readPhys (s : State) (w : Who) (slot a n : Nat) : State × Option (List Byte) :=
  (chunks a n).foldl (fun (x : State × Option (List Byte)) c =>
    match x.2 with
    | none => x
    | some acc =>
      if x.1.paOk w c.1 then
        match region c.1, x.1.keyOf slot with
        | .hbm, none => (x.1, none)
        | _, k =>
          match x.1.pread (k.getD 0) c.1 c.2 with
          | (s', .ok b false) => (s', some (acc ++ b))
          | (s', _) => (s', none)
      else (x.1, none)) (s, some [])

/-- Write consecutive local bytes under a key slot: false where any part is not performed. -/
def State.writePhys (s : State) (w : Who) (slot a : Nat) (b : List Byte) : State × Bool :=
  (chunks a b.length).foldl (fun (x : State × Bool) c =>
    if x.2 && x.1.paOk w c.1 then
      match region c.1, x.1.keyOf slot with
      | .hbm, none => (x.1, false)
      | _, k =>
        match x.1.pwrite (k.getD 0) c.1 ((b.drop (c.1 - a)).take c.2) with
        | (s', st) => (s', decide (st = 0))
    else (x.1, false)) (s, true)

/-! ### Fault log (13.1) -/

/-- R417, R418: write one entry. The event of R417 is posted by `logFault`, below. -/
def State.addFault (s : State) (cls detail status owner : Nat) (ctx : Option Nat) (tag addr : Nat) : State :=
  let i := s.fltTail
  let lost := decide (1024 ≤ (i - w32 (s.fld .HUB_FLT_PTRS_HEAD 0)).toNat)
  let s := { s with
    faultLog := tput s.faultLog (i.toNat % 1024)
      ⟨i, cls, detail % 256, status, s.time, owner, ctx, w32 tag, w64 addr⟩,
    fltTail := i + 1 }
  if lost then s.incFld .HUB_FLT_STATUS_OVERRUN 0 1 else s

/-! ### MSI-X (R392; the layout of an entry and its reset value are PCIe's, log entry 47) -/

/-- Word `w` of a vector's entry: address; data and vector control, whose mask bit is set at reset. -/
def State.msixWord (s : State) (f v w : Nat) : Nat :=
  match tget s.msix (2 * (2048 * f + v) + w) with
  | some x => x.toNat
  | none => if w = 0 then 0 else 2 ^ 32

def State.msixMasked (s : State) (f v : Nat) : Bool := bit (s.msixWord f v 1) 32

/-- Send a message of a function, or note it as pending while its vector is masked. -/
def State.sendMsix (s : State) (f v : Nat) : State :=
  if s.msixMasked f v then
    if s.msixPend.contains (2048 * f + v) then s else { s with msixPend := (2048 * f + v) :: s.msixPend }
  else s.emit (.msix f v)

/-! ### Rings, events and interrupts (07.2, 07.6) -/

def State.queue (s : State) (q : Nat) : Option Queue := tget s.queues q
def State.setQueue (s : State) (q : Nat) (x : Queue) : State := { s with queues := tput s.queues q x }
def State.modQueue (s : State) (q : Nat) (f : Queue → Queue) : State := { s with queues := tmod s.queues q f }
def State.modFunc (s : State) (f : Nat) (g : Func → Func) : State := { s with funcs := tmod s.funcs f g }

/-- R219: the PHASE bit of entry i of a ring of 2^k entries. -/
def phaseBit (i k : Nat) : Nat := 1 - (i / 2 ^ k) % 2

def QType.entryBytes : QType → Nat
  | .cmd => 64 | .cpl => 32 | .seq => 64 | .evt => 16

def Queue.slotAddr (q : Queue) (i : W32) : Nat := q.ring + q.typ.entryBytes * (i.toNat % 2 ^ q.k)

def Queue.count (q : Queue) : Nat := (q.tail - q.head).toNat
def Queue.full (q : Queue) : Bool := decide (2 ^ q.k ≤ q.count)

/-- R231: send the queue's MSI-X message and disarm. -/
def State.interrupt (s : State) (q : Nat) : State :=
  match s.queue q with
  | none => s
  | some x => (s.setQueue q { x with armed := false, sinceArm := 0, firstAt := none }).sendMsix x.func x.vector

/-- R231: an entry was written to an armed CPL or EVT queue. -/
def State.noteEntry (s : State) (q : Nat) : State :=
  match s.queue q with
  | none => s
  | some x =>
    if x.armed then
      let n := x.sinceArm + 1
      let s := s.setQueue q { x with sinceArm := n, firstAt := some (x.firstAt.getD s.time) }
      if max x.coalCount 1 ≤ n then s.interrupt q else s
    else s

/-- Write the entry at TAIL of a CPL or EVT ring and advance TAIL; false where the write fails (R232). -/
def State.ringPut (s : State) (q : Nat) (entry : List Byte) : State × Bool :=
  match s.queue q with
  | none => (s, false)
  | some x =>
    match s.writePhys s.hubWho x.key (x.slotAddr x.tail) entry with
    | (s, true) => (s.modQueue q fun y => { y with tail := y.tail + 1 }, true)
    | (s, false) => (s, false)

/-- An event entry (Table 07-8). -/
def eventEntry (code info : Nat) (phase lost : Nat) (time : W64) : List Byte :=
  leBytes 2 code ++ leBytes 1 (phase + 2 * lost) ++ [0] ++ leBytes 4 info ++ leBytes 8 time.toNat

/-- R230: write one event to an EVT queue, or drop it with LOST set. A failed write faults the queue (R232); the
QUEUE_ERROR of a faulted EVT queue goes to the other queues by `postEvent`. -/
def State.putEvent (s : State) (q code info : Nat) : State × Bool :=
  match s.queue q with
  | none => (s, true)
  | some x =>
    if x.typ ≠ .evt ∨ x.faulted then (s, true)
    else if x.full then (s.setQueue q { x with lost := true, evtLost := true }, true)
    else
      match s.ringPut q (eventEntry code info (phaseBit x.tail.toNat x.k) (b2n x.evtLost) s.time) with
      | (s, true) => ((s.modQueue q fun y => { y with evtLost := false }).noteEntry q, true)
      | (s, false) => (s.modQueue q fun y => { y with faulted := true }, false)

/-- The manager's EVT queue (`QUE_MGR_EVT`). -/
def State.mgrEvt (s : State) : Nat := s.fld .QUE_MGR_EVT_QUEUE 0

/-- Post an event to a queue; when that queue faults, QUEUE_ERROR goes to the manager's queue unless it is that queue. -/
def State.postEvent (s : State) (q code info : Nat) : State :=
  match s.putEvent q code info with
  | (s, true) => s
  | (s, false) => if q = s.mgrEvt then s else (s.putEvent s.mgrEvt 0x0001 q).1

def State.postMgr (s : State) (code info : Nat) : State := s.postEvent s.mgrEvt code info

def State.postCtx (s : State) (ctx code info : Nat) : State :=
  match tget s.ctxs ctx with
  | none => s
  | some c => s.postEvent c.evtQ code info

/-- To the manager's EVT queue and to the context's, once if they are the same queue. -/
def State.postBoth (s : State) (ctx : Nat) (code info : Nat) : State :=
  match tget s.ctxs ctx with
  | none => s.postMgr code info
  | some c => if c.evtQ = s.mgrEvt then s.postMgr code info else (s.postMgr code info).postCtx ctx code info

/-- R417: write a fault log entry and post FAULT_LOGGED for an unmasked class. -/
def State.logFault (s : State) (cls detail status owner : Nat) (ctx : Option Nat) (tag addr : Nat) : State :=
  let i := s.fltTail
  let s := s.addFault cls detail status owner ctx tag addr
  if 0 < cls ∧ bit (s.fld .HUB_FLT_CTL_EVT_MASK 0) cls then s.postMgr 0x000E i.toNat else s

/-- R232: a failed ring access faults the queue. -/
def State.faultQueue (s : State) (q : Nat) : State :=
  match s.queue q with
  | none => s
  | some x =>
    let s := s.setQueue q { x with faulted := true }
    match x.typ with
    | .cmd | .seq => s.postBoth x.ctx 0x0001 q
    | _ => s.postMgr 0x0001 q

end Sys2Proof.Machine
end

