-- ==== Sys2Proof/Machine/Queues.lean ====
section
/-! DEFINITION. Queues as rings of records (07.2, 07.3, 07.6, 07.13): the command header's fields, doorbells, completion
records, the overflow area, interrupts and the duplicate window. -/

namespace Sys2Proof.Machine

/-! ### The command header (Table 07-6) -/

def hCls (r : List Byte) : Nat := leAt r 0 1
def hOp (r : List Byte) : Nat := leAt r 1 1
def hExpert (r : List Byte) : Bool := bit (leAt r 2 1) 0
def hLc (r : List Byte) : Bool := bit (leAt r 2 1) 1
def hFenceBefore (r : List Byte) : Nat := bits (leAt r 2 1) 3 2
def hFenceAfter (r : List Byte) : Nat := bits (leAt r 2 1) 5 4
def hDeadline (r : List Byte) : Nat := leAt r 3 3
def hCtx (r : List Byte) : Nat := leAt r 6 2 % 4096
def hLayer (r : List Byte) : Nat := leAt r 8 2
def hOperator (r : List Byte) : Nat := leAt r 10 2
def hTag (r : List Byte) : Nat := leAt r 12 4

/-- Opcode as one number: 256 × CLASS + OP. -/
def hOpcode (r : List Byte) : Nat := 256 * hCls r + hOp r

/-- The header's reserved bits (R4). -/
def hReservedBad (r : List Byte) : Bool := decide (bits (leAt r 2 1) 7 6 ≠ 0) || decide (bits (leAt r 6 2) 15 12 ≠ 0)

/-- Bytes [lo, hi) of the command are not all zero. -/
def nonzero (r : List Byte) (lo hi : Nat) : Bool := decide (leAt r lo (hi - lo) ≠ 0)

/-- Bits [h:l] of the byte at `off` are not all zero. -/
def nzBits (r : List Byte) (off h l : Nat) : Bool := decide (bits (leAt r off 1) h l ≠ 0)

/-- The status of a list of checks (R242): parameter errors come before the others, each in its order; 0 when all pass. -/
def checkStatus (l : List (Bool × Nat)) : Nat :=
  if l.any (fun c => c.1 && decide (c.2 = 0x0102)) then 0x0102
  else match l.find? (fun c => c.1) with
    | some c => c.2
    | none => 0

/-! ### Interrupts and doorbells -/

def State.cmd (s : State) (id : Nat) : Option Cmd := tget s.cmds id
def State.setCmd (s : State) (c : Cmd) : State := { s with cmds := tput s.cmds c.id c }
def State.modCmd (s : State) (id : Nat) (f : Cmd → Cmd) : State := { s with cmds := tmod s.cmds id f }

/-- R231: arm a CPL or EVT queue; it interrupts at once if unread entries remain. -/
def State.armQueue (s : State) (q : Nat) : State :=
  match s.queue q with
  | none => s
  | some x =>
    let s := s.setQueue q { x with armed := true, sinceArm := 0, firstAt := none }
    if x.head ≠ x.tail then s.interrupt q else s

/-- R221: a doorbell write that is ignored sets DB_BAD and raises QUEUE_ERROR. -/
def State.badDoorbell (s : State) (q : Nat) (x : Queue) : State :=
  let s := s.setQueue q { x with dbBad := true }
  match x.typ with
  | .cmd | .seq => s.postBoth x.ctx 0x0001 q
  | _ => s.postMgr 0x0001 q

/-- R220, R221: a write of INDEX (and ARM) to the doorbell of queue q by function f. -/
def State.doorbell (s : State) (f q : Nat) (index : W32) (arm : Bool) : State :=
  match s.queue q with
  | none => s.modFunc f fun g => { g with badDb := sat 32 (g.badDb + 1) }
  | some x =>
    if x.func ≠ f then s.modFunc f fun g => { g with badDb := sat 32 (g.badDb + 1) }
    else
      match x.typ with
      | .cmd | .seq =>
        let d := (index - x.tail).toNat
        if d = 0 ∨ 2 ^ 31 ≤ d then s
        else if (index - x.head).toNat ≤ 2 ^ x.k then
          s.setQueue q { x with tail := index, subs := x.subs ++ [(index, s.time)] }
        else s.badDoorbell q x
      | _ =>
        let d := (index - x.head).toNat
        if d = 0 ∨ 2 ^ 31 ≤ d then if arm then s.armQueue q else s
        else if d ≤ x.count then
          let s := s.setQueue q { x with head := index }
          if arm then s.armQueue q else s
        else s.badDoorbell q x

/-- R220: the value a read of the doorbell returns. -/
def State.doorbellRead (s : State) (f q : Nat) : Nat :=
  match s.queue q with
  | none => 0
  | some x => if x.func ≠ f then 0 else match x.typ with
    | .cmd | .seq => x.head.toNat
    | _ => x.tail.toNat

/-! ### Completion records (Table 07-7) -/

def record (tag status sq beats energy : Nat) (start end_ : W64) : List Byte :=
  leBytes 4 tag ++ leBytes 2 status ++ leBytes 3 (sq % 2 ^ 18) ++ leBytes 4 (sat 32 beats) ++ leBytes 3 (sat 24 energy) ++
    leBytes 8 start.toNat ++ leBytes 8 end_.toNat

/-- Set the PHASE bit (byte 8, bit 7) of a record. -/
def withPhase (r : List Byte) (p : Nat) : List Byte := patch r 8 (leBytes 1 (bits (leAt r 8 1) 6 0 + 128 * p))

/-- R229: a record that cannot be written is dropped and counted, with LOST and RECORDS_DROPPED. -/
def State.dropRecord (s : State) (cplq func : Nat) : State :=
  let s := s.modFunc func fun g => { g with dropped := sat 32 (g.dropped + 1) }
  let s := s.modQueue cplq fun x => { x with lost := true }
  s.postMgr 0x0003 func

/-- R229: write a record to the function's overflow area. -/
def State.overflowRecord (s : State) (cplq func : Nat) (r : List Byte) : State :=
  match tget s.funcs func with
  | none => s.dropRecord cplq func
  | some g =>
    if 2 ^ g.ovfLog2 ≤ (g.ovfTail - g.ovfHead).toNat then s.dropRecord cplq func
    else
      let i := g.ovfTail.toNat
      match s.writePhys s.hubWho 63 (g.ovfAddr + 32 * (i % 2 ^ g.ovfLog2)) (withPhase r (phaseBit i g.ovfLog2)) with
      | (s, true) => s.modFunc func fun g => { g with ovfTail := g.ovfTail + 1 }
      | (s, false) => s.dropRecord cplq func

/-- R228, R229, R232: write one record for a context's command to a CPL queue. -/
def State.writeRecord (s : State) (cplq ctx : Nat) (r : List Byte) : State :=
  match s.queue cplq with
  | none => s
  | some x =>
    if x.faulted then s.dropRecord cplq x.func
    else if x.overflowed then s.overflowRecord cplq x.func r
    else if x.full then
      let s := s.setQueue cplq { x with overflowed := true }
      (s.postBoth ctx 0x0002 cplq).overflowRecord cplq x.func r
    else
      match s.ringPut cplq (withPhase r (phaseBit x.tail.toNat x.k)) with
      | (s, true) => s.noteEntry cplq
      | (s, false) => (s.faultQueue cplq).dropRecord cplq x.func

/-- Write a record `n` more times: the copies of R247. -/
def State.writeCopies (s : State) (cplq ctx : Nat) (r : List Byte) : Nat → State
  | 0 => s
  | n + 1 => (s.writeRecord cplq ctx r).writeCopies cplq ctx r n

/-- R247: remember a fetched TAG; the window keeps the last 256. -/
def dupAdd (l : List Dup) (tag : Nat) (r : Option (List Byte)) : List Dup := ((⟨w32 tag, r, 0⟩ : Dup) :: l).take 256

/-- R228, R247: the one record of a command of queue q, then the copies that wait for it. -/
def State.finishRecord (s : State) (q ctx tag : Nat) (r : List Byte) : State :=
  match s.queue q with
  | none => s
  | some x =>
    let n := match x.dups.find? (fun d => decide (d.tag = w32 tag)) with
      | some d => d.copies
      | none => 0
    let s := s.setQueue q { x with
      dups := x.dups.map fun d => if d.tag = w32 tag then { d with record := some r, copies := 0 } else d,
      completed := x.completed + 1 + BitVec.ofNat 32 n, lastTime := s.time }
    (s.writeRecord x.cpl ctx r).writeCopies x.cpl ctx r n

end Sys2Proof.Machine
end

