-- ==== Sys2Proof/Machine/Counters.lean ====
section
/-! DEFINITION. Counting (14.1, 14.2): the fixed and programmable counters of a unit, filters, freezes and the function
counters. -/

namespace Sys2Proof.Machine

/-- What an event carries (R444); `none` for events that carry nothing. -/
structure Attr where
  ctx : Nat
  panel : Nat
  layer : Nat
  oper : Nat
  deriving DecidableEq, Repr

def State.frozenCounters (s : State) : Bool := decide (s.fld .OBS_STATUS_FROZEN 0 = 1)

/-- R442: add to a counter register in the value format of Table 14-6: 48 bits, wrapping, with a sticky OVF. -/
def State.countReg (s : State) (r : Reg) (i n : Nat) : State :=
  let v := s.reg r i
  let c := v % 2 ^ 48 + n
  s.setReg r i (c % 2 ^ 48 + (if 2 ^ 48 ≤ c ∨ bit v 63 then 2 ^ 63 else 0))

/-- R443: the programmable counter's filters let the event through. -/
def filterOk (ctl : Nat) (a : Option Attr) : Bool :=
  match a with
  | none => decide (bits ctl 62 59 = 0)
  | some a =>
    (!(bit ctl 62) || decide (bits ctl 44 33 = a.ctx)) && (!(bit ctl 61) || decide (bits ctl 50 45 = a.panel)) &&
      (!(bit ctl 60) || decide (bits ctl 31 16 = a.layer)) && (!(bit ctl 59) || decide (bits ctl 15 0 = a.oper))

/-- R441 to R444: an event of size n of fixed counter i of unit u. -/
def State.bump (s : State) (u i n : Nat) (a : Option Attr) : State :=
  if s.frozenCounters ∨ n = 0 then s
  else
    (List.range 8).foldl (fun s j =>
      let ctl := s.reg .OBS_PCTL (8 * u + j)
      if bit ctl 63 && decide (bits ctl 58 51 = i) && filterOk ctl a then s.countReg .OBS_P (8 * u + j) n else s)
      (s.countReg .OBS_F (16 * u + i) n)

def unitTile (t : Nat) : Nat := t
def unitCore (die c : Nat) : Nat := 0x40 + 32 * die + c
def unitUncore (n : Nat) : Nat := 0x1C0 + n
def unitSlice (q : Nat) : Nat := 0x1D0 + q
def unitDir (q : Nat) : Nat := 0x1D4 + q
def unitStack (h : Nat) : Nat := 0x1E0 + h
def unitLink (l : Nat) : Nat := 0x200 + l
def unitGuest (s : Nat) : Nat := 0x220 + s
def unitHost (p : Nat) : Nat := 0x224 + p
def unitSched : Nat := 0x228
def unitFaults : Nat := 0x229
def unitPower : Nat := 0x22A
def unitRsq (p : Nat) : Nat := 0x240 + p

/-- R445: add to counter i of a function's 16; the counters of function f are instances 16 f + i. -/
def State.bumpFn (s : State) (f i n : Nat) : State :=
  if s.frozenCounters ∨ n = 0 then s else s.countReg .OBS_FN_CNT (16 * f + i) n

/-- The events of Table 14-2 that happen in this model one by one, and are counted here exactly; the other counters measure traffic and
beats that the commands' effects do not determine, and read as free values (log entry 39). -/
def countedExactly (kind i : Nat) : Bool :=
  ([[11, 12, 14, 15], [0, 1, 15], [11, 12, 13], [11, 12, 13], [], [6, 8, 9, 11, 12], [0, 1, 2, 3, 4, 5, 6, 7, 8, 10, 11, 12], [2, 4], [4, 6],
    List.range 13, [0, 1, 2, 3, 4, 7], [0, 1, 2, 4, 5], List.range 16].getD kind []).contains i

/-- Events that are counted exactly, but whose cause (R444) the model does not carry to the counter: behind a filter they are a
measurement (log entry 39). -/
def causeUnknown (kind i : Nat) : Bool :=
  ([[], [], [], [11, 12, 13], [], [8, 9], [0, 1, 2, 3, 4, 5, 6, 7], [2, 4], [4, 6], [], [4, 6, 7], [], []].getD kind []).contains i

/-- The same for the function counters of R445. -/
def fnCountedExactly (i : Nat) : Bool := [0, 1, 2, 3, 4, 5, 10, 11, 12, 13, 15].contains i

/-- A counter's value that is a measurement: fresh number and place. -/
def freeCounter (n i : Nat) : Nat :=
  leNat ((List.range 6).map fun j => Config.undefByte n (8 * i + j)) + (Config.undefByte n (8 * i + 6)).toNat % 2 * 2 ^ 63

/-! ### Units (Table 14-1) -/

def unitsFrom (base n : Nat) : List Nat := (List.range n).map fun i => base + i

/-- The units of a kind. -/
def kindUnits : Nat → List Nat
  | 0 => unitsFrom 0 48 | 1 => unitsFrom 0x40 384 | 2 => unitsFrom 0x1C0 12 | 3 => unitsFrom 0x1D0 4 | 4 => unitsFrom 0x1D4 4
  | 5 => unitsFrom 0x1E0 16 | 6 => unitsFrom 0x200 32 | 7 => unitsFrom 0x220 2 | 8 => unitsFrom 0x224 2 | 9 => [0x228]
  | 10 => [0x229] | 11 => [0x22A] | 12 => unitsFrom 0x240 48 | _ => []

/-- How many fixed counters a kind has (Table 14-2). -/
def kindCounters (k : Nat) : Nat := [16, 16, 15, 16, 5, 13, 13, 7, 7, 16, 8, 6, 16].getD k 0

/-- The kind of a unit; none for a number not in Table 14-1. -/
def unitKind (u : Nat) : Option Nat := (List.range 13).find? fun k => (kindUnits k).contains u

/-- The compute die that a unit lies on. -/
def unitDie (u : Nat) : Option Nat :=
  if u < 48 then some (u / 4) else if 0x40 ≤ u ∧ u < 0x1C0 then some ((u - 0x40) / 32)
  else if 0x1C0 ≤ u ∧ u < 0x1CC then some (u - 0x1C0) else none

/-- The kind of a unit that has counters; none for a number not in Table 14-1 and for a unit of a die held in reset (R440). -/
def State.liveKind (s : State) (u : Nat) : Option Nat := if ((unitDie u).map s.diePresent).getD true then unitKind u else none

/-- A fixed counter of a unit as it reads; those not listed for its kind read zero (R441). -/
def State.counterF (s : State) (u i n : Nat) : Nat :=
  match s.liveKind u with
  | none => 0
  | some k => if kindCounters k ≤ i then 0 else if countedExactly k i then s.reg .OBS_F (16 * u + i) else freeCounter n (32 * u + i)

/-- A programmable counter. -/
def State.counterP (s : State) (u j n : Nat) : Nat :=
  match s.liveKind u with
  | none => 0
  | some k =>
    let ctl := s.reg .OBS_PCTL (8 * u + j)
    let i := bits ctl 58 51
    if bit ctl 63 ∧ kindCounters k > i ∧ (countedExactly k i = false ∨ (bits ctl 62 59 ≠ 0 ∧ causeUnknown k i = true)) then freeCounter n (32 * u + 16 + j)
    else s.reg .OBS_P (8 * u + j)

/-- Before a programmable counter's event changes, what it measured so far is kept: for a measurement a free value. -/
def State.settleP (s : State) (u j : Nat) : State :=
  let (n, s) := s.fresh
  s.setReg .OBS_P (8 * u + j) (s.counterP u j n)

/-- Table 09-8 step 4, R442: zero the counters of a unit. -/
def State.clearUnit (s : State) (u : Nat) : State :=
  let s := (List.range 16).foldl (fun s i => s.resetReg .OBS_F (16 * u + i)) s
  (List.range 8).foldl (fun s j => s.resetReg .OBS_P (8 * u + j)) s

end Sys2Proof.Machine
end

