-- ==== Sys2Proof/Machine/Hbm.lean ====
section
/-! DEFINITION. HBM, its errors and repairs, the swatch engine and the memory keys (04). Commands here are events of a
controller or writes of `HBM_KEY_CTL`, `HBM_REPAIR_CMD` and `HBM_SW_CTL`. -/

namespace Sys2Proof.Machine

def Stack.new : Stack := ⟨[], false, [], 0, [], [], []⟩

def State.stack (s : State) (h : Nat) : Stack := tgetD s.hbms h Stack.new
def State.setStack (s : State) (h : Nat) (x : Stack) : State := { s with hbms := tput s.hbms h x }

/-- The stack's controller works: trained into service and not since lost (R122, R124). -/
def State.stackLive (s : State) (h : Nat) : Bool :=
  decide (h < 16) && decide (s.fld .HBM_TRAIN_RESULT_PASS h = 1) && decide (s.fld .HBM_STK_STATUS_OUT_OF_SERVICE h = 0)

/-! ### Refresh, re-centring, temperature (R120, R125) -/

/-- R120, R121: a refresh is all-bank only immediately before self-refresh entry; no data changes. -/
def hbmRefresh (h _pc : Nat) (_allBank _rfm : Bool) (s : State) : State :=
  if s.stackLive h && s.domainOn (76 + h) then s.bump (unitStack h) 6 1 none else s

/-- R125: the pseudo-channel pauses; no data changes. -/
def hbmRecentre (h _pc : Nat) (s : State) : State :=
  if s.stackLive h then s.bump (unitStack h) 12 1 none else s

/-! ### ECC (R129, R131, R147) -/

/-- The local address that a stack-local address belongs to: the inverse of R126 in the frame's mode. -/
def stackToPa (quadLocal : Bool) (h la : Nat) : Nat :=
  let f := la / 0x100000000
  let r := la % 0x100000000
  let up := r / 4096
  if quadLocal then
    let c := h / 4
    let hi := up * 4
    let x := xorFields hi 2 11
    f * 0x1000000000 + c * 0x400000000 + (hi + ((h % 4) ^^^ x)) * 4096 + r % 4096
  else
    let hi := up * 16
    let x := xorFields (hi / 16) 4 5
    f * 0x1000000000 + (hi + (h ^^^ x)) * 4096 + r % 4096

def State.paOfStack (s : State) (h la : Nat) : Nat := stackToPa (s.quadLocal (la / 0x100000000)) h la

/-- R152: append to the 16-entry log; a full log loses the oldest and reports the overrun. -/
def Stack.logEcc (x : Stack) (e : EccLog) : Stack :=
  if x.eccLog.length < 16 then { x with eccLog := x.eccLog ++ [e] }
  else { x with eccLog := x.eccLog.drop 1 ++ [e], overrun := true }

def rowKey (pc bank row : Nat) : Nat := (pc * 16 + bank) * 65536 + row
def bankKey (pc bank : Nat) : Nat := pc * 16 + bank

def State.bankSpareLeft (s : State) (h pc bank : Nat) : Nat :=
  s.fuses.bankSpare - tgetD (s.stack h).spareUsed (bankKey pc bank) 0

/-- The fewest spare rows left in any bank (Table 04-7). -/
def State.minBankSpare (s : State) (h : Nat) : Nat :=
  ((s.stack h).spareUsed.map fun e => s.fuses.bankSpare - e.2).foldl min s.fuses.bankSpare

/-- R148: enter a repair in the log of the 512 most recent. -/
def Stack.logRepair (x : Stack) (r : Repair) : Stack := { x with repairs := (r :: x.repairs).take 512 }

def State.castOnCount (s : State) : Nat := s.boots

def State.useSpare (s : State) (h pc bank : Nat) : State :=
  let x := s.stack h
  let s := s.setStack h { x with spareUsed := tupd x.spareUsed (bankKey pc bank) 0 (· + 1) }
  let s := s.setFld .HBM_REPAIR_STATUS_SPARE_LEFT h (s.fld .HBM_REPAIR_STATUS_SPARE_LEFT h - 1)
  s.setFld .HBM_REPAIR_STATUS_MIN_BANK_SPARE h (s.minBankSpare h)

def State.repairResult (s : State) (h r : Nat) : State := s.setFld .HBM_REPAIR_STATUS_LAST_RESULT h r

/-- R145: a soft PPR of one row, for a cause of the repair log. Contents are kept; sectors that were uncorrectable stay
poisoned. Refused with no spare row in the bank. -/
def State.softPpr (s : State) (h pc bank row cause : Nat) : State :=
  if s.bankSpareLeft h pc bank = 0 then s.repairResult h 1
  else
    let s := s.useSpare h pc bank
    let s := s.setStack h ((s.stack h).logRepair ⟨1, cause, pc, bank, row, s.castOnCount⟩)
    (s.incFld .HBM_REPAIR_STATUS_SOFT_DONE h 1).repairResult h 0

/-- R146: add a row to the pending hard-repair list. -/
def State.hardAdd (s : State) (h pc bank row cause : Nat) : State :=
  let x := s.stack h
  if s.bankSpareLeft h pc bank = 0 then s.repairResult h 1
  else if x.pendingHard.contains (pc, bank, row) then s.repairResult h 0
  else if 32 ≤ x.pendingHard.length then s.repairResult h 4
  else
    let x := { x with pendingHard := x.pendingHard ++ [(pc, bank, row)] }
    let s := s.setStack h (x.logRepair ⟨3, cause, pc, bank, row, s.castOnCount⟩)
    (s.setFld .HBM_REPAIR_STATUS_PENDING_HARD h x.pendingHard.length).repairResult h 0

def State.hardRemove (s : State) (h pc bank row : Nat) : State :=
  let x := s.stack h
  let l := x.pendingHard.filter fun e => !(decide (e = (pc, bank, row)))
  ((s.setStack h { x with pendingHard := l }).setFld .HBM_REPAIR_STATUS_PENDING_HARD h l.length).repairResult h 0

/-- R147: automatic repair of a row. -/
def State.autoRepair (s : State) (h pc bank row cause : Nat) : State :=
  if s.fld .HBM_G_CTL_AUTO_SPPR 0 = 1 then
    (s.softPpr h pc bank row cause).hardAdd h pc bank row cause
  else s

/-- R129, R147: what a read of a sector met, at stack-local address `la` in a row. A poisoned sector keeps its marker;
`patrol` tells the log's kind. -/
def State.sectorEvent (s : State) (h la pc bank row : Nat) (patrol : Bool) (e : EccEvent) : State :=
  let pa := s.paOfStack h la
  let log (s : State) (kind : Nat) : State :=
    s.setStack h ((s.stack h).logEcc ⟨kind, pc, bank, row, la / 32 * 32, s.time⟩)
  let spoil (s : State) : State := { s with mem := s.mem.poison 0 pa }
  match e with
  | .clean =>
    if s.mem.poisoned pa then (log s 2).incFld .HBM_ECC_COUNT_UNCORRECTED h 1 else s
  | .corrected =>
    let s := ((log s (if patrol then 4 else 1)).incFld .HBM_ECC_COUNT_CORRECTED h 1).bump (unitStack h) 8 1 none
    let x := s.stack h
    let n := tgetD x.ceRows (rowKey pc bank row) 0 + 1
    let s := s.setStack h { x with ceRows := tput x.ceRows (rowKey pc bank row) n }
    if n = max 1 (s.fld .HBM_G_CTL_CE_THRESHOLD 0) then s.autoRepair h pc bank row 2 else s
  | .uncorrectable =>
    let s := (((spoil (log s 2)).incFld .HBM_ECC_COUNT_UNCORRECTED h 1).bump (unitStack h) 9 1 none)
    s.autoRepair h pc bank row 1
  | .odCorrected => s.incFld .HBM_ECC_COUNT_ODECC_CORR h 1
  | .odUncorrectable =>
    let s := ((spoil (log s 3)).incFld .HBM_ECC_COUNT_ODECC_UNCORR h 1).incFld .HBM_ECC_COUNT_UNCORRECTED h 1
    (s.bump (unitStack h) 9 1 none).autoRepair h pc bank row 1

/-- R131: one patrol read. A period of 0 turns patrol off; the counts of R147 start again with each period, at sector 0. -/
def patrolScrub (h sector pc bank row : Nat) (e : EccEvent) (s : State) : State :=
  if s.stackLive h && decide (0 < s.fld .HBM_G_CTL_SCRUB_PERIOD 0) && decide (sector < 2 ^ 31) then
    let s := if sector = 0 then s.setStack h { s.stack h with ceRows := [] } else s
    let s := (s.setFld .HBM_STK_STATUS_SCRUB_ACTIVE h (b2n (decide (sector + 1 < 2 ^ 31)))).bump (unitStack h) 11 1 none
    s.sectorEvent h (32 * sector) pc bank row true e
  else s

/-! ### A stack leaves service (R124) -/

/-- R124: the stack is out of service until the next reset step 4; the event is posted and logged. -/
def State.stackOut (s : State) (h : Nat) : State :=
  if s.stackLive h then
    let s := s.setFld .HBM_STK_STATUS_OUT_OF_SERVICE h 1
    let s := s.setFld .HBM_G_STATUS_IN_SERVICE 0 (setBits (s.fld .HBM_G_STATUS_IN_SERVICE 0) h h 0)
    (s.logFault 0x0B h 0 0xFFFF none 0 (s.reg .HBM_G_STATUS 0)).postMgr 0x000A h
  else s

/-! ### Keys (04.6) -/

/-- The slots that exist (R138). -/
def slotExists (p : Nat) : Bool := decide (p < 48) || decide (p = 63)

def State.slot (s : State) (p : Nat) : KeySlot := tgetD s.keys p ⟨0, 0, []⟩

def State.keyError (s : State) (e : Bool) : State := s.setFld .HBM_KEY_CTL_ERROR 0 (b2n e)

/-- The sweep of a retired generation: its lines leave every slice; their bytes already stand in memory under its key. -/
def State.sweepGen (s : State) (slot : Nat) (gen : Byte) : State :=
  { s with slices := s.slices.map fun e =>
      (e.1, { e.2 with lines := e.2.lines.filter fun l => !(decide (l.key = slot) && decide (l.gen = gen)) }) }

/-- R141, R142: put a key (0: none) in a slot: the generation rises, the current one is retired, and of the retired ones
the three latest stay. -/
def State.loadSlot (s : State) (p key : Nat) : State :=
  let k := s.slot p
  let old := if k.key = 0 then k.retired else k.retired ++ [(k.gen, k.key)]
  let s := (old.take (old.length - 3)).foldl (fun s e => s.sweepGen p e.1) s
  { s with keys := tput s.keys p ⟨key, k.gen + 1, old.drop (old.length - 3)⟩ }

/-- A key never used before (R141): identities are never reused. -/
def State.freshKey (s : State) : Nat × State := (s.keyNext, { s with keyNext := s.keyNext + 1 })

def State.generate (s : State) (p : Nat) : State :=
  let (k, s) := s.freshKey
  s.loadSlot p k

/-- R141: a blob lies at a 64-byte aligned address wholly in present local HBM. -/
def State.blobOk (s : State) (a : Nat) : Bool :=
  decide (a % 64 = 0) && s.hbmPresent a && s.hbmPresent (a + 39)

/-- Unwrap a blob under the manager wrapping key: the key's identity, or none where the integrity check fails. A blob of
another package that passes the check holds a key this package has not met. -/
def State.unwrap (s : State) (b : List Byte) : Option Nat × State :=
  if s.mwk = 0 then (none, s)
  else
    match s.blobs.find? (fun e => decide (e.1 = b) && decide (e.2.2 = s.mwk)) with
    | some e => (some e.2.1, s)
    | none =>
      if Config.wrapOk s.mwk b then
        let (k, s) := s.freshKey
        (some k, { s with blobs := s.blobs ++ [(b, k, s.mwk)] })
      else (none, s)

/-- R141 IMPORT from a local address: false where it is refused. -/
def State.importKey (s : State) (p a : Nat) : State × Bool :=
  if s.blobOk a then
    match s.readPhys s.hubWho 63 a 40 with
    | (s, none) => (s, false)
    | (s, some b) =>
      match s.unwrap b with
      | (none, s) => (s, false)
      | (some k, s) => (s.loadSlot p k, true)
  else (s, false)

def wrapped (key wk : Nat) : List Byte := (List.range 40).map fun i => Config.wrapByte key wk i

/-- R141 EXPORT to a local address: false where it is refused. The generation does not change. -/
def State.exportKey (s : State) (p a : Nat) : State × Bool :=
  match s.keyOf p with
  | none => (s, false)
  | some k =>
    if s.blobOk a && decide (s.mwk ≠ 0) then
      let b := wrapped k s.mwk
      match s.writePhys s.hubWho 63 a b with
      | (s, true) =>
        (if s.blobs.contains (b, k, s.mwk) then s else { s with blobs := s.blobs ++ [(b, k, s.mwk)] }, true)
      | (s, false) => (s, false)
    else (s, false)

/-- Table 04-3, by `HBM_KEY_CTL`: slot 63, a slot that does not exist and an unknown OP are refused. The operation ends within
the command: BUSY is not seen set (log entry 8). -/
def State.keyOp (s : State) (op slot : Nat) : State :=
  if op = 0 then s
  else if 48 ≤ slot then s.keyError true
  else
    let a := s.fld .HBM_KEY_BUF_ADDR 0
    match op with
    | 1 => (s.generate slot).keyError false
    | 2 => (s.loadSlot slot 0).keyError false
    | 3 => match s.importKey slot a with
      | (s, ok) => s.keyError !ok
    | 4 => match s.exportKey slot a with
      | (s, ok) => s.keyError !ok
    | _ => s.keyError true

/-! ### Repair commands (R153) -/

def State.repairCmd (s : State) (h op pc bank row : Nat) : State :=
  if s.fld .HBM_G_CTL_TEST_MODE 0 = 1 ∧ op ≠ 0 then s.repairResult h 3
  else
    match op with
    | 1 => s.softPpr h pc bank row 0
    | 2 => s.hardAdd h pc bank row 0
    | 3 => s.hardRemove h pc bank row
    | _ => s

/-! ### The swatch engine (R149, R153) -/

def swStart (s : State) (h : Nat) : State :=
  let op := s.fld .HBM_SW_CTL_OP h
  if s.fld .HBM_STK_STATUS_SW_BUSY h = 1 ∨ ¬ (s.stackLive h) then s
  else if op = 4 ∨ ((op = 1 ∨ op = 2 ∨ op = 3) ∧ s.fld .HBM_G_CTL_TEST_MODE 0 = 1) then
    (s.setReg .HBM_SW_RESULT h 0).setFld .HBM_STK_STATUS_SW_BUSY h 1
  else s

/-- Whether OP destroys what the range held (R149). -/
def swWrites (op : Nat) : Bool := decide (op = 1) || decide (op = 2) || decide (op = 3)

/-- The frames of R126 that a stack-local range touches lose their contents: the pattern is written past the encryption, so
no key reads it back. -/
def State.swLose (s : State) (h lo hi : Nat) : State :=
  let inRange (pa : Nat) : Bool :=
    let l := s.hbmLoc pa
    decide (l.1 = h) && decide (lo ≤ l.2) && decide (l.2 < hi)
  let m := s.mem
  { s with mem := {
      cells := m.cells.filter fun c => !(decide (c.1 < 0x10000000000) && inRange c.1),
      sect := m.sect.filter fun e => !(inRange (32 * e.1)),
      lost := (List.range 16).foldl (fun t f => if lo < (f + 1) * 0x100000000 ∧ f * 0x100000000 < hi then tupd t f 0 (· + 1) else t) m.lost } }

/-- The run ends, at its end or at a stop (R149, R153): DONE, and the failures found, which the memory decides. -/
def swDone (s : State) (h : Nat) : State :=
  if s.fld .HBM_STK_STATUS_SW_BUSY h = 1 then
    let op := s.fld .HBM_SW_CTL_OP h
    let lo := s.fld .HBM_SW_BASE_ADDR h / 4096 * 4096
    let hi := min (lo + s.fld .HBM_SW_LEN_LEN h / 4096 * 4096) 0x1000000000
    let bad := s.mem.sect.filter fun e =>
      e.2.poison && decide ((s.hbmLoc (32 * e.1)).1 = h) && decide (lo ≤ (s.hbmLoc (32 * e.1)).2) &&
        decide ((s.hbmLoc (32 * e.1)).2 < hi)
    let (c, s) := s.fresh
    let n := if op = 4 then bad.length else Config.freeNat c
    let first := if op = 4 then ((bad.map fun e => (s.hbmLoc (32 * e.1)).2).foldl min (2 ^ 36 - 1)) else Config.freeNat (c + 1)
    let s := { s with free := s.free + 1 }
    let s := if op = 1 ∨ op = 3 then s.swLose h lo hi else s
    let s := s.setFld .HBM_STK_STATUS_SW_BUSY h 0
    let s := s.setFld .HBM_SW_RESULT_DONE h 1
    if op = 1 ∨ n = 0 then s
    else
      let s := s.setFld .HBM_SW_RESULT_FAIL h 1
      let s := s.setFld .HBM_SW_RESULT_FAIL_COUNT h (sat 26 n)
      s.setFld .HBM_SW_RESULT_FIRST_FAIL h first
  else s

/-! ### Reads with a side effect (R152, R153) -/

/-- `HBM_ECC_LOG` as a read returns it; a valid entry shows its kind and time. -/
def State.eccLogValue (s : State) (h : Nat) : Nat :=
  let x := s.stack h
  match x.eccLog with
  | [] => b2n x.overrun * 2 ^ 62
  | e :: _ => 2 ^ 63 + b2n x.overrun * 2 ^ 62 + e.kind * 2 ^ 58 + e.time.toNat % 2 ^ 58

/-- The read pops the oldest entry, latches its location and clears OVERRUN. -/
def State.eccLogPop (s : State) (h : Nat) : State :=
  let x := s.stack h
  match x.eccLog with
  | [] => s.setStack h { x with overrun := false }
  | e :: t =>
    (s.setStack h { x with eccLog := t, overrun := false }).setReg .HBM_ECC_LOC h
      (e.row * 2 ^ 48 + e.bank * 2 ^ 44 + e.pc * 2 ^ 38 + e.addr)

/-- `HBM_REPAIR_LOG`: the entry at the read position. -/
def State.repairLogValue (s : State) (h : Nat) : Nat :=
  let x := s.stack h
  match x.repairs[x.repairPos]? with
  | none => 0
  | some r => r.kind * 2 ^ 62 + r.cause * 2 ^ 60 + 2 ^ 59 + r.pc * 2 ^ 53 + r.bank * 2 ^ 49 + r.row * 2 ^ 33 + r.boot % 2 ^ 32

def State.repairLogNext (s : State) (h : Nat) : State :=
  let x := s.stack h
  if x.repairPos < x.repairs.length then s.setStack h { x with repairPos := x.repairPos + 1 } else s

def State.repairLogHome (s : State) (h : Nat) : State := s.setStack h { s.stack h with repairPos := 0 }

/-- A write of `HBM_G_CTL.TEST_MODE` = 1 is ignored while a panel exists (R149). -/
def State.testModeOk (s : State) : Bool := s.panels.isEmpty

end Sys2Proof.Machine
end

