-- ==== Sys2Proof/Machine/Xlate.lean ====
section
/-! DEFINITION. Address translation (06.6 to 06.8): rights, the three-level walk, its faults, the TLBs and walk caches, and
their invalidation. -/

namespace Sys2Proof.Machine

/-- What an access needs (Table 06-5). -/
inductive Need where
  | read | write | exec | atomic
  deriving DecidableEq, Repr

/-- Who translates: the unit whose TLB is used (general core 32n + c, die 384 + n, hub 396), for whom, and what the fault
registers show (Table 06-11). -/
structure Issuer where
  unit : Nat
  who : Who
  tag : Nat
  source : Nat
  deriving DecidableEq, Repr

/-- A translation fault: cause and level (Table 06-6), the entry read last, the virtual address. -/
structure XFault where
  cause : Nat
  level : Nat
  pte : Nat
  va : Nat
  deriving DecidableEq, Repr

/-- A translation: the global physical address, the key slot, and whether the access is a device access (R31, R202). -/
structure Xl where
  pa : Nat
  key : Nat
  device : Bool
  deriving DecidableEq, Repr

/-- R205: the status of a fault for a command that is not a general core's or an array's. -/
def causeStatus : Nat → Nat
  | 6 => 0x0305
  | 7 => 0x0306
  | 8 => 0x0403
  | 10 => 0x0302
  | _ => 0x0301

def Need.code : Need → Nat
  | .read => 0 | .write => 1 | .exec => 2 | .atomic => 3

/-- The translation register set of a unit: its die's, or the hub's (R211). -/
def xltSet (unit : Nat) : Nat := if unit < 384 then unit / 32 else if unit < 396 then unit - 384 else 12

def State.ownPkg (s : State) : Nat := s.fld .LNK_G_ID_PKG 0

/-- The package that a global physical address names is this one (R29). -/
def State.isLocal (s : State) (ga : Nat) : Bool := decide (bits ga 62 48 = s.ownPkg)

/-- R29, R31: a device region of the named package. -/
def isDeviceRegion (ga : Nat) : Bool := decide (0x800000000000 ≤ ga % 2 ^ 48)

/-- R201, R202: the rights of an entry allow the access. -/
def rightsOk (e : TlbEntry) (n : Need) : Bool :=
  match n with
  | .read => e.r
  | .write => e.w
  | .atomic => e.r && e.w
  | .exec => e.x && e.r && !e.device && !(isDeviceRegion e.pa)

/-- Rights (R201), key (R139) and address (R29, R30, R32, R332) of an access at `va` through an entry; level 2 is reported
for a hit in a TLB. -/
def State.checkLeaf (s : State) (w : Who) (e : TlbEntry) (n : Need) (va level pte : Nat) : Except XFault Xl :=
  let ga := e.pa + (va - e.va)
  let a := ga % 2 ^ 48
  if !(rightsOk e n) then .error ⟨2, level, pte, va⟩
  else if bit ga 63 then .error ⟨5, level, pte, va⟩
  else if s.isLocal ga then
    if region a = .hbm then
      if !(keyAccepted w e.key) ∨ (s.keyOf e.key).isNone then .error ⟨3, level, pte, va⟩
      else if s.paOk w a then .ok ⟨ga, e.key, e.device⟩
      else .error ⟨5, level, pte, va⟩
    else if s.paOk w a then .ok ⟨ga, e.key, true⟩
    else .error ⟨5, level, pte, va⟩
  else if region a = .hbm then
    if keyAccepted w e.key then .ok ⟨ga, e.key, e.device⟩ else .error ⟨3, level, pte, va⟩
  else .error ⟨5, level, pte, va⟩

/-- Table 06-3: the entry of a leaf found at a level. -/
def leafEntry (ctx va level pte : Nat) : TlbEntry :=
  let size := if level = 0 then 2 ^ 37 else if level = 1 then 2 ^ 26 else 2 ^ 16
  ⟨ctx, va / size * size, size, bits pte 62 16 * 65536, bits pte 11 6, bit pte 2, bit pte 3, bit pte 4, bit pte 5⟩

/-- R200: a reserved bit of the entry is set, or a block is misaligned. -/
def malformed (level pte : Nat) : Bool :=
  if bit pte 1 then
    bit pte 63 || decide (bits pte 15 12 ≠ 0) || (decide (level = 0) && decide (bits pte 36 16 ≠ 0)) ||
      (decide (level = 1) && decide (bits pte 25 16 ≠ 0))
  else decide (bits pte 63 48 ≠ 0) || decide (bits pte 12 2 ≠ 0) || (decide (level = 0) && bit pte 13)

def levelIndex (va : Nat) : Nat → Nat
  | 0 => bits va 47 37
  | 1 => bits va 36 26
  | _ => bits va 25 16

/-- The result of a walk: the leaf and its level, with the table entries met on the way. -/
structure Walked where
  leaf : Except XFault (TlbEntry × Nat × Nat)
  tables : List WalkEntry

/-- R203: walk from a table of a level. `fuel` is the number of levels left. -/
def State.walkFrom (s : State) (ctx va : Nat) : Nat → Nat → Nat → Nat → List WalkEntry → State × Walked
  | 0, level, _, last, ts => (s, ⟨.error ⟨4, level, last, va⟩, ts⟩)
  | fuel + 1, level, t, last, ts =>
    let a := t + 8 * levelIndex va level
    if 0x800000000000 ≤ a then (s, ⟨.error ⟨6, level, last, va⟩, ts⟩)
    else if !(s.paOk s.hubWho a) then (s, ⟨.error ⟨5, level, last, va⟩, ts⟩)
    else
      match s.keyOf 63 with
      | none => (s, ⟨.error ⟨3, level, last, va⟩, ts⟩)
      | some k =>
        match s.pread k a 8 with
        | (s, .fault _) => (s, ⟨.error ⟨5, level, last, va⟩, ts⟩)
        | (s, .ok _ true) => (s, ⟨.error ⟨7, level, last, va⟩, ts⟩)
        | (s, .ok b false) =>
          let pte := leNat b
          if !(bit pte 0) then (s, ⟨.error ⟨1, level, pte, va⟩, ts⟩)
          else if malformed level pte then (s, ⟨.error ⟨4, level, pte, va⟩, ts⟩)
          else if bit pte 1 then (s, ⟨.ok (leafEntry ctx va level pte, level, pte), ts⟩)
          else if level = 2 then (s, ⟨.error ⟨4, level, pte, va⟩, ts⟩)
          else
            let size := if level = 0 then 2 ^ 37 else 2 ^ 26
            let next := bits pte 47 13 * 8192
            s.walkFrom ctx va fuel (level + 1) next pte (⟨ctx, va / size * size, size, next⟩ :: ts)

def covers (va base size : Nat) : Bool := decide (base ≤ va) && decide (va < base + size)

/-- Where a walk may start: the deepest cached table entry of the context that covers the address, else its root. -/
def walkStart (ws : List WalkEntry) (ctx va root : Nat) : Nat × Nat :=
  match ws.find? (fun w => decide (w.ctx = ctx) && covers va w.va w.size && decide (w.size = 2 ^ 26)) with
  | some w => (2, w.next)
  | none =>
    match ws.find? (fun w => decide (w.ctx = ctx) && covers va w.va w.size) with
    | some w => (1, w.next)
    | none => (0, root)

def tlbFind (l : List TlbEntry) (ctx va : Nat) : Option TlbEntry :=
  l.find? fun e => decide (e.ctx = ctx) && covers va e.va e.size

/-- A die's unit for a core, the unit itself otherwise. -/
def sharedUnit (unit : Nat) : Nat := if unit < 384 then 384 + unit / 32 else unit

/-- A TLB hit in the core's TLB or in the shared one (06.8). -/
def State.tlbHit (s : State) (unit ctx va : Nat) : Option TlbEntry :=
  match tlbFind (tgetD s.tlbs unit []) ctx va with
  | some e => some e
  | none => tlbFind (tgetD s.tlbs (sharedUnit unit) []) ctx va

/-- Put an entry at the front of a unit's TLB; the oldest entry beyond its capacity leaves (log entry 9). -/
def State.tlbFill (s : State) (unit : Nat) (e : TlbEntry) : State :=
  let keep (u cap : Nat) (t : Tab (List TlbEntry)) : Tab (List TlbEntry) :=
    tput t u ((e :: (tgetD t u []).filter (fun x => !(decide (x = e)))).take cap)
  if unit < 384 then { s with tlbs := keep (sharedUnit unit) 4096 (keep unit 64 s.tlbs) }
  else { s with tlbs := keep unit 4096 s.tlbs }

def State.walkFill (s : State) (unit : Nat) (ts : List WalkEntry) : State :=
  { s with walks := tput s.walks unit ((ts ++ (tgetD s.walks unit []).filter (fun x => !(ts.contains x))).take 512) }

/-- R204, R212: record a fault in the unit's translation registers. -/
def State.noteXFault (s : State) (iss : Issuer) (n : Need) (f : XFault) : State :=
  let u := xltSet iss.unit
  let s := s.setReg .XLT_FAULT_INFO u
    (f.cause * 2 ^ 60 + f.level * 2 ^ 58 + n.code * 2 ^ 55 + iss.source * 2 ^ 52 + iss.who.ctx * 2 ^ 32 + iss.tag)
  let s := s.setReg .XLT_FAULT_VADDR u f.va
  let s := s.setReg .XLT_FAULT_PTE u f.pte
  let s := s.setReg .XLT_FAULT_TIME u s.now
  s.incFld .XLT_COUNTS_FAULTS u 1

/-- Translate one address for an access (R199 to R206): a hit serves; a miss walks and, when it succeeds, fills the TLBs. A
failed translation is never cached. -/
def State.xlate (s : State) (iss : Issuer) (n : Need) (va : Nat) : State × Except XFault Xl :=
  let fail (s : State) (f : XFault) : State × Except XFault Xl := (s.noteXFault iss n f, .error f)
  if va / 2 ^ 48 ≠ 0 then fail s ⟨9, 0, 0, va⟩
  else
    match s.tlbHit iss.unit iss.who.ctx va with
    | some e =>
      match s.checkLeaf iss.who e n va 2 0 with
      | .ok x => (s, .ok x)
      | .error f => fail s f
    | none =>
      match tget s.ctxs iss.who.ctx with
      | none => fail s ⟨1, 0, 0, va⟩
      | some c =>
        match c.troot with
        | none => fail s ⟨1, 0, 0, va⟩
        | some root =>
          let u := sharedUnit iss.unit
          let (level, t) := walkStart (tgetD s.walks u []) iss.who.ctx va root
          let s := s.incFld .XLT_COUNTS_WALKS (xltSet iss.unit) 1
          match s.walkFrom iss.who.ctx va (3 - level) level t 0 [] with
          | (s, ⟨.error f, _⟩) => fail s f
          | (s, ⟨.ok (e, lv, pte), ts⟩) =>
            match s.checkLeaf iss.who e n va lv pte with
            | .ok x => ((s.tlbFill iss.unit e).walkFill u ts, .ok x)
            | .error f => fail s f

/-- R208: remove the entries of some contexts that overlap [lo, hi) from every TLB and walk cache. -/
def State.xlatDrop (s : State) (inCtx : Nat → Bool) (lo hi : Nat) : State :=
  let hit (ctx va size : Nat) : Bool := inCtx ctx && decide (va < hi) && decide (lo < va + size)
  { s with
    tlbs := s.tlbs.map fun u => (u.1, u.2.filter fun e => !(hit e.ctx e.va e.size)),
    walks := s.walks.map fun u => (u.1, u.2.filter fun e => !(hit e.ctx e.va e.size)) }

/-- R206: a re-bound tile's cores lose every entry of their own TLBs. -/
def State.flushTileTlbs (s : State) (t : Nat) : State :=
  let base := 32 * (t / 4) + 8 * (t % 4)
  { s with tlbs := s.tlbs.filter fun u => !(decide (base ≤ u.1) && decide (u.1 < base + 8)) }

end Sys2Proof.Machine
end

