-- ==== Sys2Proof/Machine/Ucc.lean ====
section
/-! DEFINITION. What the unified cache performs at a line's home (05.9): reductions and atomics, replay windows, skein
entries and their closes, FINAL writes and stream trackers (06.4). -/

namespace Sys2Proof.Machine

/-- The quadrant of the stack that holds a local HBM address: its home (R155). -/
def State.homeQ (s : State) (pa : Nat) : Nat := (s.hbmLoc pa).1 / 4

def State.tileCount (s : State) (p : Nat) : Nat :=
  match tget s.panels p with
  | some x => (maskBits x.tiles 48).length
  | none => 0

/-! ### Skein entries (R179, R180) -/

def skeinPlaces (l : List SkeinEntry) : Nat := l.foldl (fun n e => n + e.places) 0

/-- R180 (5): how many places a panel's operations, or the manager quota, may hold on one base die. -/
def State.skeinQuota (s : State) (owner : Option Nat) : Nat :=
  match owner with
  | some p => max 64 (8192 * s.tileCount p / 48)
  | none => 256

def State.earlyClose (s : State) (e : SkeinEntry) : State :=
  ((s.skeinClose e).incFld .UCC_SKEIN_STATUS_EARLY e.bd 1).bump (unitSlice e.bd) 13 1 none

/-- The least recently used entry that satisfies a condition. -/
def lruEntry (l : List SkeinEntry) (p : SkeinEntry → Bool) : Option SkeinEntry := (l.filter p).getLast?

/-- Close the least recently used of the entries that satisfy a condition while those that satisfy another take more than `limit`
places with a new one of `places`; a new one takes two at most, so twice is enough. -/
def State.skeinTrim : Nat → State → Nat → Nat → (SkeinEntry → Bool) → (SkeinEntry → Bool) → State × Nat
  | 0, s, _, _, _, _ => (s, 0)
  | k + 1, s, limit, places, counts, goes =>
    if limit < skeinPlaces (s.skein.filter counts) + places then
      match lruEntry s.skein goes with
      | some e => (((s.earlyClose e).skeinTrim k limit places counts goes).1, noteEarly)
      | none => (s, 0)
    else (s, 0)

/-- R180 (5): make room for a new entry of an owner; the note EXACT_EARLY where a close was needed. -/
def State.skeinRoom (s : State) (bd : Nat) (owner : Option Nat) (places : Nat) : State × Nat :=
  let mine (e : SkeinEntry) : Bool := decide (e.bd = bd) && decide (e.panel = owner)
  let here (e : SkeinEntry) : Bool := decide (e.bd = bd)
  let (s, n) := State.skeinTrim 2 s (s.skeinQuota owner) places mine mine
  let (s, k) := State.skeinTrim 2 s 8192 places here fun e => here e && !e.splitK
  (s, n ||| k)

/-- What an exact or non-exact reduction needs beyond its vector: under which key, for which context and panel. -/
structure RedWho where
  key : Nat
  ctx : Nat
  panel : Option Nat
  splitK : Bool
  deriving DecidableEq, Repr

/-- R179: an exact operation on a line; the notes of the issuing command. -/
def State.skeinAdd (s : State) (w : RedWho) (line : Nat) (sectors rop : Nat) (carry : Bool) (anchor : Int)
    (payload : List Byte) (spoil : Nat) : State × Nat :=
  let bf := decide (rop = 1)
  let f := if bf then bf16 else fp32
  let n := if bf then 64 else 32
  -- an entry of another anchor or element type closes early (kind 3)
  let (s, n1) := match s.skein.find? (fun e => decide (e.line = line)) with
    | some e => if e.anchor = anchor ∧ e.bf = bf then (s, 0) else (s.earlyClose e, noteEarly)
    | none => (s, 0)
  let (s, n2, e) := match s.skein.find? (fun e => decide (e.line = line)) with
    | some e => (s, 0, e)
    | none =>
      let bd := s.homeQ (128 * line)
      let (s, k) := s.skeinRoom bd w.panel (if bf then 2 else 1)
      let v := elems (if bf then 2 else 4) n (s.mem.readHbm w.key (128 * line) 128)
      (s, k, ⟨bd, line, bf, anchor, w.key, v.map (accOpen f), 0, [], w.panel, w.splitK, 0, 0⟩)
  let (accs, n3) :=
    if carry then (skeinCarry (bits sectors 3 0).log2 e.accs payload, 0)
    else skeinVec f anchor (n / 4) sectors 0 e.accs (elems (if bf then 2 else 4) n payload)
  let e := { e with
    accs := accs, ops := e.ops + 1, ctxs := if e.ctxs.contains w.ctx then e.ctxs else e.ctxs ++ [w.ctx],
    splitK := e.splitK || w.splitK, sects := e.sects ||| sectors, spoil := e.spoil ||| spoil }
  let s := { s with skein := e :: s.skein.filter fun x => !(decide (x.line = line)) }
  let s := (maskBits sectors 4).foldl (fun s i => s.breakResv (128 * line + 32 * i)) s
  let s := s.bump (unitSlice e.bd) 12 1 none
  if 2 ^ 24 ≤ e.ops then (s.earlyClose e, n1 ||| n2 ||| n3 ||| noteEarly) else (s, n1 ||| n2 ||| n3)

/-- R177, R178: a non-exact reduction, sector by sector; a poisoned sector is left as it is. -/
def State.reduceLine (s : State) (w : RedWho) (line : Nat) (sectors rop : Nat) (payload : List Byte) : State :=
  let eb := ropBytes rop
  (List.range 4).foldl (fun s i =>
    let a := 128 * line + 32 * i
    if bit sectors i && !(s.mem.poisoned a) then
      let old := elems eb (32 / eb) (s.mem.readHbm w.key a 32)
      let x := elems eb (32 / eb) ((payload.drop (32 * i)).take 32)
      let new := unelems eb ((old.zip x).map fun p => ropApply rop p.1 p.2)
      { s.breakResv a with mem := s.mem.writeHbm w.key a new }
    else s) (s.skeinCloseLine line)

/-- Set the poison of sectors of a line. -/
def State.spoilLine (s : State) (key line spoil : Nat) : State :=
  { s with mem := (maskBits spoil 4).foldl (fun m i => m.poison key (128 * line + 32 * i)) s.mem }

/-- R177: ADD_LINE at the home slice; the notes, or 0x0302 for a stack that has left service (R124). `spoil`: sectors that a poisoned
source sector spoils (R234). -/
def State.addLineAt (s : State) (w : RedWho) (line sectors rop : Nat) (exact carry : Bool) (anchor : Int)
    (payload : List Byte) (spoil : Nat) : State × Nat :=
  let s := (s.wakeHbm (128 * line)).bump (unitSlice (s.homeQ (128 * line))) 11 1 none
  if s.hbmOos (128 * line) then (s, 0x0302)
  else if exact ∧ rop < 2 then s.skeinAdd w line sectors rop carry anchor payload spoil
  else ((s.reduceLine w line sectors rop payload).spoilLine w.key line spoil, 0)

/-- R180 (1): a package-scope or global-scope fence of a context closes the entries that hold its operations; whether a
result overflowed. -/
def State.skeinFence (s : State) (ctx : Nat) : State × Bool :=
  (s.skein.filter fun e => e.ctxs.contains ctx).foldl
    (fun x e => ((x.1.skeinClose e).bump (unitSlice e.bd) 13 1 none, x.2 || e.overflows)) (s, false)

/-- R180 (6): every open entry closes, as at a fence. -/
def State.skeinCloseAll (s : State) : State := s.skein.foldl (fun s e => s.skeinClose e) s

/-! ### Atomics (R89) -/

/-- The new value of an atomic on words of `size` bytes; min and max compare as unsigned numbers. -/
def atomNew (op : AtomOp) (size : Nat) (old a b : Nat) : Nat :=
  let m := 2 ^ (8 * size)
  match op with
  | .add => (old + a) % m
  | .min => min old a
  | .max => max old a
  | .and => old &&& a
  | .or => old ||| a
  | .xor => old ^^^ a
  | .xchg => a
  | .cas => if old = a then b else old
  | .fadd => faddR fp32 fp32.nan old a

/-- An atomic at its home, in normal memory or die scratch: the old value, or the status of a fault. A poisoned word faults
with 0x0302 and is left. -/
def State.atomicAt (s : State) (key a : Nat) (op : AtomOp) (size : Nat) (x y : Nat) : State × Except Nat Nat :=
  let s := s.skeinCloseLine (a / 128)
  match s.pread key a size with
  | (s, .fault st) => (s, .error st)
  | (s, .ok _ true) => (s, .error 0x0302)
  | (s, .ok b false) =>
    let old := leNat b
    match s.pwrite key a (leBytes size (atomNew op size old x y % 2 ^ (8 * size))) with
    | (s, 0) => (s, .ok old)
    | (s, st) => (s, .error st)

/-! ### Duplicate delivery (R182) -/

def State.replay (s : State) (slice pkg eng : Nat) : Option Replay :=
  s.replays.find? fun r => decide (r.slice = slice) && decide (r.pkg = pkg) && decide (r.eng = eng)

def State.putReplay (s : State) (r : Replay) : State :=
  { s with replays := r :: s.replays.filter fun x =>
      !(decide (x.slice = r.slice) && decide (x.pkg = r.pkg) && decide (x.eng = r.eng)) }

/-- The window marks the tag: it is below the floor or in the map. -/
def Replay.dup (r : Replay) (tag : W32) : Bool := decide (2 ^ 31 ≤ (tag - r.floor).toNat) || r.marked.contains tag

/-- What the window kept for a tag: status and old value. -/
def Replay.answer (r : Replay) (tag : W32) : Nat × W64 :=
  match r.answers.find? (fun a => decide (a.1 = tag)) with
  | some a => a.2
  | none => (0, 0)

/-- Raise the floor past every tag applied without a gap. -/
def raiseFloor : Nat → W32 → List W32 → W32 × List W32
  | 0, f, l => (f, l)
  | k + 1, f, l => if l.contains f then raiseFloor k (f + 1) (l.filter fun t => !(decide (t = f))) else (f, l)

/-- A source has at most 256 operations unacknowledged, so a tag tells that all tags 256 below it have been applied. -/
def Replay.mark (r : Replay) (tag : W32) (status : Nat) (old : W64) (now : W64) : Replay :=
  let low := if 256 ≤ (tag - r.floor).toNat then tag - 255 else r.floor
  let (f, m) := raiseFloor 257 low (tag :: r.marked.filter fun t => decide ((t - low).toNat < 256))
  { r with floor := f, marked := m, answers := ((tag, status, old) :: r.answers).take 512, last := now }

/-- A window for a source: the one it has, or a new one; none while all of a slice's 16,384 are younger than 1 ms. Tags that a slice meets
first may follow others that are still on their way. -/
def State.replayFor (s : State) (slice pkg eng : Nat) (tag : W32) : Option (State × Replay) :=
  match s.replay slice pkg eng with
  | some r => some (s, r)
  | none =>
    let mine := s.replays.filter fun r => decide (r.slice = slice)
    let new : Replay := ⟨slice, pkg, eng, tag - 255, [], [], s.time⟩
    if mine.length < 16384 then some (s, new)
    else
      match (mine.filter fun r => decide (1000000 ≤ (s.time - r.last).toNat)).getLast? with
      | some old => some ({ s with replays := s.replays.filter fun r => !(decide (r = old)) }, new)
      | none => none

/-- The next tag of an engine of this package (R182). -/
def State.nextRTag (s : State) (eng : Nat) : RTag × State :=
  let t := tgetD s.rtags eng 0
  (⟨s.ownPkg, eng, t⟩, { s with rtags := tput s.rtags eng (t + 1) })

/-- R182: `replayWindowExpire`: a window older than 1 ms may be dropped. -/
def replayExpire (slice pkg eng : Nat) (s : State) : State :=
  match s.replay slice pkg eng with
  | some r =>
    if 1000000 ≤ (s.time - r.last).toNat then { s with replays := s.replays.filter fun x => !(decide (x = r)) } else s
  | none => s

/-! ### Stream trackers and FINAL writes at the home (R193 to R196) -/

def State.findTracker (s : State) (pkg ctx stream : Nat) : Option Tracker :=
  s.trackers.find? fun t => decide (t.pkg = pkg) && decide (t.ctx = ctx) && decide (t.stream = stream)

def sameStream (t : Tracker) (pkg ctx stream : Nat) : Bool :=
  decide (t.pkg = pkg) && decide (t.ctx = ctx) && decide (t.stream = stream)

/-- R194: a tracker is freed when its counters are all zero and no FINAL is held. -/
def State.putTracker (s : State) (t : Tracker) : State :=
  let rest := s.trackers.filter fun x => !(sameStream x t.pkg t.ctx t.stream)
  if t.held.isEmpty && t.counts.all (fun c => decide (c = 0)) then { s with trackers := rest }
  else { s with trackers := t :: rest }

/-- R194: the tracker of a stream, allocated on its first access; none while all 8,192 are in use. STREAM 0 has none. -/
def State.trackerFor (s : State) (pkg ctx stream : Nat) : Option Tracker :=
  match s.findTracker pkg ctx stream with
  | some t => some t
  | none => if s.trackers.length < 8192 then some ⟨pkg, ctx, stream, [0, 0, 0, 0], []⟩ else none

def bumpAt (l : List Nat) (i : Nat) : List Nat := l.zipIdx.map fun (c, j) => if j = i then c + 1 else c
def zeroAt (l : List Nat) (i : Nat) : List Nat := l.zipIdx.map fun (c, j) => if j = i then 0 else c

/-- A FINAL that may be performed: its SPAN's counter equals its COUNT. -/
def Tracker.ready (t : Tracker) : Option HeldFinal := t.held.find? fun h => decide (t.counts.getD h.span 0 = h.count)

end Sys2Proof.Machine
end

