-- ==== Sys2Proof/Machine/UccSlice.lean ====
section
/-! DEFINITION. The slices' side of the coherence protocol (05.1, 05.3 to 05.6): messages in transit, fills and evictions, holds,
and the answers to snoops. Only these rows change which lines a slice holds; they never change a byte of memory (R155; log
entry 10). -/

namespace Sys2Proof.Machine

/-! ### Messages in transit -/

/-- The local part of a global line number (address / 128). -/
def localLine (line : Nat) : Nat := line % 2 ^ 41

/-- The quadrant whose slice and directory bank are the home of a line. -/
def State.homeOf (s : State) (line : Nat) : Nat := s.homeQ (128 * localLine line)

/-- Agent numbers (Table 05-9): slice q is q, directory bank q is 0x10 + q. -/
def bankAgent (q : Nat) : Nat := 0x10 + q

def ReqHdr.hub : ReqHdr := ⟨0, 0x38, 63, 0, 0xFFFF, 0⟩

/-- A message with a header and nothing else. -/
def Msg.plain (k : MKind) (src dst line : Nat) (h : ReqHdr) : Msg :=
  ⟨k, src, dst, line, h.tag, 0, none, 0, 0, h, [], 0⟩

def State.send (s : State) (m : Msg) : State := { s with net := s.net ++ [m] }

/-- The first message that satisfies a condition, and the others in order. -/
def takeMsg (p : Msg → Bool) : List Msg → Option (Msg × List Msg)
  | [] => none
  | m :: t =>
    if p m then some (m, t)
    else match takeMsg p t with
      | some (x, u) => some (x, m :: u)
      | none => none

/-- Receive a message of a kind, at an agent, for a line. -/
def State.recv (s : State) (k : MKind) (src : Option Nat) (dst : Option Nat) (line : Nat) : Option (Msg × State) :=
  match takeMsg (fun m => decide (m.kind = k) && decide (m.line = line) && (match src with
      | some a => decide (m.src = a)
      | none => true) && (match dst with
      | some a => decide (m.dst = a)
      | none => true)) s.net with
  | some (m, rest) => some (m, { s with net := rest })
  | none => none

/-! ### The hub tracker (R170) -/

/-- The ingress port of an agent: quadrant ports 0 to 3, HP0, HP1, GS0, GS1 (4 to 7) and the link home logic (8). -/
def portOf (src : Nat) : Nat :=
  if src < 4 then src
  else if 0x40 ≤ src then (src - 0x40) / 3
  else if 0x20 ≤ src ∧ src < 0x24 then 4 + (src - 0x20)
  else 8

/-- A REQ from a port finds a tracker entry: in its reserve of 1,024, or among the 53,760 shared ones. -/
def State.trackerRoom (s : State) (port : Nat) : Bool :=
  let used (p : Nat) : Nat := (s.tracker.filter fun t => decide (t.port = p)).length
  decide (used port < 1024) || decide (((List.range 9).map fun p => used p - 1024).foldl (· + ·) 0 < 53760)

def State.track (s : State) (h : ReqHdr) (line sectors : Nat) : State :=
  { s with tracker := s.tracker ++ [⟨h.tag, portOf h.src, h.owner, h.ctx, line, s.time, sectors⟩] }

def State.untrack (s : State) (tag : Nat) : State :=
  { s with tracker := s.tracker.filter fun t => !(decide (t.tag = tag)) }

/-! ### Slices: sets, panel shares and victims (R156, R157) -/

def State.slice (s : State) (q : Nat) : Slice := tgetD s.slices q Slice.new
def State.setSlice (s : State) (q : Nat) (x : Slice) : State := { s with slices := tput s.slices q x }
def State.modSlice (s : State) (q : Nat) (f : Slice → Slice) : State := s.setSlice q (f (s.slice q))

/-- R156: PA[24:7] xor PA[42:25] xor PA[47:43]. -/
def lineSet (line : Nat) : Nat :=
  let a := 128 * localLine line
  bits a 24 7 ^^^ bits a 42 25 ^^^ bits a 47 43

def Slice.find (x : Slice) (line : Nat) : Option Line := x.lines.find? fun l => decide (l.line = line)
def Slice.drop (x : Slice) (line : Nat) : Slice := { x with lines := x.lines.filter fun l => !(decide (l.line = line)) }

/-- Put a line at the front, the most recently used place. -/
def Slice.put (x : Slice) (l : Line) : Slice := { x with lines := l :: (x.drop l.line).lines }

def State.waysOn (s : State) (q : Nat) : Nat := s.fld .UCC_SLICE_STATUS_WAYS_ON q

/-- Tiles bound to any panel. -/
def State.boundTiles (s : State) : Nat := s.panels.foldl (fun n p => n + (maskBits p.2.tiles 48).length) 0

/-- R157: the target of a panel, or of the manager pool (63), in a slice. -/
def State.shareTarget (s : State) (q panel : Nat) : Nat :=
  if panel = 63 then s.waysOn q * 262144 / 32
  else if s.boundTiles = 0 then 0
  else s.waysOn q * 262144 * s.tileCount panel / s.boundTiles

def Slice.charged (x : Slice) (panel : Nat) : Nat := (x.lines.filter fun l => decide (l.panel = panel)).length

/-- R157: the victim of a fill by `panel` in a full set; the last line of the list is the least recently used. -/
def State.victim (s : State) (q line panel : Nat) : Option Line :=
  let x := s.slice q
  let set := x.lines.filter fun l => decide (lineSet l.line = lineSet line)
  let own := set.filter fun l => decide (l.panel = panel)
  let above := set.filter fun l => decide (s.shareTarget q l.panel < x.charged l.panel)
  if s.shareTarget q panel ≤ x.charged panel ∧ own ≠ [] then own.getLast?
  else match above.getLast? with
    | some l => some l
    | none => set.getLast?

/-- Credits in use by a slice at a bank. -/
def Slice.credit (x : Slice) (bank : Nat) : Nat := tgetD x.creditUsed bank 0

/-- R169: a line leaves a slice; none where it must wait for a credit or a buffer entry. -/
def State.evict (s : State) (q : Nat) (l : Line) : Option State :=
  let x := s.slice q
  let home := s.homeOf l.line
  if home = q then
    let s := s.setSlice q (x.drop l.line)
    if x.mirror.contains l.line then some (s.send (Msg.plain .evictClean q (bankAgent q) l.line ReqHdr.hub)) else some s
  else if 256 ≤ x.credit home then none
  else
    let y := { x.drop l.line with creditUsed := tput x.creditUsed home (x.credit home + 1) }
    if l.state = .m then
      if 256 ≤ x.wbuf.length then none
      else
        some ((s.setSlice q { y with wbuf := y.wbuf ++ [l] }).send
          { Msg.plain .wbData q (bankAgent home) l.line ReqHdr.hub with dirty := l.dirty })
    else some ((s.setSlice q y).send (Msg.plain .evictClean q (bankAgent home) l.line ReqHdr.hub))

/-- A fill of a line into a slice, with room made for it; none where the eviction must wait. A slice with no way powered
keeps the line no longer than the fill. -/
def State.fill (s : State) (q : Nat) (l : Line) : Option State :=
  let x := s.slice q
  let n := (x.lines.filter fun y => decide (lineSet y.line = lineSet l.line) && !(decide (y.line = l.line))).length
  if (x.find l.line).isSome then some (s.setSlice q (x.put l))
  else if s.waysOn q = 0 then (s.setSlice q (x.put l)).evict q l
  else if n < s.waysOn q then some (s.setSlice q (x.put l))
  else match s.victim q l.line l.panel with
    | none => some (s.setSlice q (x.put l))
    | some v => match s.evict q v with
      | none => none
      | some s => some (s.modSlice q fun x => x.put l)

/-- The pool a context's lines are charged to: the manager pool under key slot 63, else the context's panel. -/
def State.chargeTo (s : State) (h : ReqHdr) : Nat :=
  if h.key = 63 then 63
  else match tget s.ctxs h.ctx with
    | some c => c.panel
    | none => 63

def State.newLine (s : State) (h : ReqHdr) (line : Nat) (st : LState) (dirty : Nat) : Line :=
  ⟨line, st, dirty, 0, h.key, (s.slot h.key).gen, s.chargeTo h⟩

/-! ### Answers to snoops (Table 05-4) -/

/-- The slice's answer, by its state; a snoop of a line in the write-back buffer is answered WB_IN_FLIGHT (R173). The home
slice sets its mirror bit. -/
def State.answerSnoop (s : State) (q : Nat) (k : MKind) (line : Nat) (tag : Nat) : State :=
  let bank := bankAgent (s.homeOf line)
  let h : ReqHdr := { ReqHdr.hub with tag := tag }
  let x := s.slice q
  let s := if s.homeOf line = q ∧ !(x.mirror.contains line) then s.modSlice q fun x => { x with mirror := line :: x.mirror } else s
  if x.wbuf.any (fun l => decide (l.line = line)) then s.send (Msg.plain .wbInFlight q bank line h)
  else
    match x.find line with
    | none => s.send (Msg.plain .invAck q bank line h)
    | some l =>
      let dirty := if l.state = .m then l.dirty else 0
      if k = .snpInv then
        let s := s.modSlice q fun x => x.drop line
        if l.state = .s then s.send (Msg.plain .invAck q bank line h)
        else s.send { Msg.plain .data q bank line h with dirty := dirty }
      else
        (s.modSlice q fun x => x.put { l with state := .s, dirty := 0 }).send
          { Msg.plain .data q bank line h with dirty := dirty, grant := some .s }

/-- The slice holds the line under R172. -/
def Slice.holding (x : Slice) (line : Nat) : Bool := x.holds.any fun h => decide (h.line = line)

/-- R172: a full hold table makes the next snoop of a held line wait at the head of the slice's SNP queue, and the later
snoops behind it. -/
def State.snpBlocked (s : State) (q line : Nat) : Bool :=
  let x := s.slice q
  let q0 := s.net.filter fun m =>
    (decide (m.kind = .snpInv) || decide (m.kind = .snpShr)) && decide (m.dst = q)
  decide (64 ≤ x.held.length) &&
    match (q0.takeWhile fun m => !(decide (m.line = line))).find? (fun m => x.holding m.line) with
    | some _ => true
    | none => x.holding line

/-- A slice takes SNP_SHR or SNP_INV: a held line's snoop waits in the hold table. -/
def State.takeSnoop (s : State) (q : Nat) (k : MKind) (line : Nat) : State :=
  if s.snpBlocked q line then s
  else match s.recv k none (some q) line with
    | none => s
    | some (m, s) =>
      if (s.slice q).holding line then s.modSlice q fun x => { x with held := x.held ++ [(line, k, m.tag)] }
      else s.answerSnoop q k line m.tag

def snpShr (q line : Nat) (s : State) : State := s.takeSnoop q .snpShr line
def snpInv (q line : Nat) (s : State) : State := s.takeSnoop q .snpInv line

/-- A hold ends no earlier than 64 ns after its grant, and when the holder's operation is complete; the snoops that waited for
the line are answered. -/
def State.endHold (s : State) (q line : Nat) : State :=
  let w := (s.slice q).held.filter fun e => decide (e.1 = line)
  let s := s.modSlice q fun x => { x with
    holds := x.holds.filter (fun h => !(decide (h.line = line))),
    held := x.held.filter fun e => !(decide (e.1 = line)) }
  w.foldl (fun s e => s.answerSnoop q e.2.1 line e.2.2) s

def holdExpire (q line : Nat) (s : State) : State :=
  match (s.slice q).holds.find? (fun h => decide (h.line = line)) with
  | some h => if h.until_ ≤ s.now then s.endHold q line else s
  | none => s

/-- Where a controller finds a sector is free: the spec gives no map from a stack-local address to a row (R126). -/
def State.someRow (s : State) : (Nat × Nat × Nat) × State :=
  let c := s.free
  ((Config.freeNat c % 32, Config.freeNat (c + 1) % 16, Config.freeNat (c + 2) % 65536), { s with free := s.free + 3 })

/-- SNP_FETCH: the home slice returns the line from itself or from HBM (R129), and keeps a line it held in E or M as S. -/
def snpFetch (q line : Nat) (ecc : EccEvent) (s : State) : State :=
  match s.recv .snpFetch none (some q) line with
  | none => s
  | some (m, s) =>
    let h : ReqHdr := { ReqHdr.hub with tag := m.tag }
    let bank := bankAgent (s.homeOf line)
    let x := s.slice q
    let s := if x.mirror.contains line then s else s.modSlice q fun x => { x with mirror := line :: x.mirror }
    match x.find line with
    | some l =>
      (s.modSlice q fun x => x.put { l with state := .s, dirty := 0 }).send
        { Msg.plain .data q bank line h with dirty := if l.state = .m then l.dirty else 0, grant := some .s }
    | none =>
      let loc := s.hbmLoc (128 * localLine line)
      let (row, s) := s.someRow
      let s := if s.stackLive loc.1 then (s.wakeHbm (128 * localLine line)).sectorEvent loc.1 loc.2 row.1 row.2.1 row.2.2 false ecc else s
      s.send (Msg.plain .data q bank line h)

/-! ### Responses that end at a slice (R160, R169) -/

/-- WB_ACK frees the write-back buffer entry and its credit. -/
def wbAck (q line : Nat) (s : State) : State :=
  match s.recv .wbAck none (some q) line with
  | none => s
  | some (_, s) =>
    let home := s.homeOf line
    s.modSlice q fun x => { x with
      wbuf := x.wbuf.filter (fun l => !(decide (l.line = line))), creditUsed := tput x.creditUsed home (x.credit home - 1) }

/-- CREDIT returns a write-back credit of a bank. -/
def credit (q bank : Nat) (s : State) : State :=
  match takeMsg (fun m => decide (m.kind = .credit) && decide (m.dst = q) && decide (m.src = bankAgent bank)) s.net with
  | none => s
  | some (_, rest) =>
    { s with net := rest }.modSlice q fun x => { x with creditUsed := tput x.creditUsed bank (x.credit bank - 1) }

/-- DIR_FREE clears the mirror bit. A line that the home kept in S is then the only copy, and stands in E (R162). -/
def dirFree (q line : Nat) (s : State) : State :=
  match s.recv .dirFree none (some q) line with
  | none => s
  | some (_, s) =>
    s.modSlice q fun x => { x with
      mirror := x.mirror.filter (fun l => !(decide (l = line))),
      lines := x.lines.map fun l => if l.line = line ∧ l.state = .s then { l with state := .e } else l }

end Sys2Proof.Machine
end

