-- ==== Sys2Proof/Machine/UccDir.lean ====
section
/-! DEFINITION. The directory's side of the coherence protocol (05.2 to 05.6), placement hints (05.7), and the rows of the
requests, responses and data messages. A transaction ends when its snoops are answered and its grant is delivered. -/

namespace Sys2Proof.Machine

/-! ### Entries -/

def State.bank (s : State) (q : Nat) : List DirEntry := tgetD s.dirs q []

def findDir (l : List DirEntry) (line : Nat) : Option DirEntry := l.find? fun e => decide (e.line = line)

/-- Put an entry at the front, the most recently used place. -/
def State.putDir (s : State) (q : Nat) (e : DirEntry) : State :=
  { s with dirs := tput s.dirs q (e :: (s.bank q).filter fun x => !(decide (x.line = e.line))) }

/-- Change an entry where it stands. -/
def State.modDir (s : State) (q line : Nat) (f : DirEntry → DirEntry) : State :=
  { s with dirs := tput s.dirs q ((s.bank q).map fun e => if e.line = line then f e else e) }

/-- Free an entry; DIR_FREE goes to the home mirror (R160, R169). -/
def State.freeDir (s : State) (q line : Nat) : State :=
  { s with dirs := tput s.dirs q ((s.bank q).filter fun e => !(decide (e.line = line))) }.send
    (Msg.plain .dirFree (bankAgent q) q line ReqHdr.hub)

/-- 131,072 sets of 16 entries (R159). -/
def dirSet (line : Nat) : Nat := localLine line % 131072

def DirEntry.holders (e : DirEntry) : List Nat := maskBits e.slices 4

def Req.key (r : Req) : Nat := r.h.key

/-- The slice that asks, for requests that come from a slice. -/
def Req.slice (r : Req) : Option Nat :=
  match r.op with
  | .rdShr | .rdOwn _ | .upgrade => if r.h.src < 4 then some r.h.src else none
  | _ => none

/-- R174, R175: the slice that a hint names, where the hint is taken. -/
def State.hintSlice (s : State) (q hint : Nat) : Option Nat :=
  let t : Option Nat :=
    if 1 ≤ hint ∧ hint ≤ 4 then some (hint - 1)
    else if 0x40 ≤ hint ∧ hint ≤ 0x6F then some ((hint - 0x40) / 12)
    else none
  match t with
  | some r =>
    if s.fld .UCC_CTL_HINTS_EN 0 = 0 ∨ s.waysOn r = 0 ∨ r = q then none else some r
  | none => none

/-- The hint that a write carries. -/
def ReqOp.hint : ReqOp → Nat
  | .wrLine _ h => h
  | .wrPtl _ _ h => h
  | _ => 0

def State.reqHint (s : State) (q : Nat) (r : Req) : Option Nat := s.hintSlice q r.op.hint

/-! ### Beginning a transaction (Table 05-3) -/

/-- What a request's service needs of the other holders. -/
def ReqOp.owns : ReqOp → Bool
  | .rdShr => false
  | .rdOnce => false
  | .wrLine _ _ => false
  | _ => true

/-- The snoops that serve a request on an entry; `fresh`: the entry was made for it. -/
def State.snoopsFor (s : State) (q : Nat) (e : DirEntry) (fresh : Bool) (r : Req) : List (Nat × MKind) :=
  let owner := e.holders.head?.getD q
  let fetch := (q, MKind.snpFetch)
  match r.op with
  | .rdShr =>
    if e.state = .dx then [(owner, .snpShr)]
    else match e.holders.find? (fun h => !(decide (some h = r.slice))) with
      | some h => [(h, .snpShr)]
      | none => [fetch]
  | .rdOnce => if e.state = .dx then [(owner, .snpShr)] else [fetch]
  | .upgrade =>
    if e.state = .ds ∧ (e.holders.any fun h => decide (some h = r.slice)) then
      (e.holders.filter fun h => !(decide (some h = r.slice))).map fun h => (h, .snpInv)
    else if e.state = .dx then [(owner, .snpInv)]
    else fetch :: (e.holders.filter fun h => !(decide (some h = r.slice))).map fun h => (h, .snpInv)
  | .wrLine _ _ =>
    let l := e.holders.map fun h => (h, MKind.snpInv)
    if fresh && (s.reqHint q r).isSome then (q, .snpInv) :: l else l
  | .rdOwn _ =>
    if e.state = .dx then [(owner, .snpInv)]
    else fetch :: (e.holders.filter fun h => !(decide (some h = r.slice))).map fun h => (h, .snpInv)
  | _ =>
    if e.state = .dx then [(owner, .snpInv)]
    else fetch :: (e.holders.filter fun h => !(decide (h = q))).map fun h => (h, .snpInv)

def State.sendSnoop (s : State) (q : Nat) (line tag : Nat) (x : Nat × MKind) : State :=
  s.send { Msg.plain x.2 (bankAgent q) x.1 line ReqHdr.hub with tag := tag }

/-- Begin a request on an entry that is not busy. -/
def State.begin_ (s : State) (q : Nat) (e : DirEntry) (fresh : Bool) (r : Req) : State :=
  let sn := s.snoopsFor q e fresh r
  let t : Txn := ⟨some r, sn.map fun x => ⟨x.1, x.2, false, false⟩, 0, false, false⟩
  sn.foldl (fun s x => s.sendSnoop q e.line r.h.tag x) (s.putDir q { e with busy := some t })

def State.stalled (s : State) (q : Nat) : List Req := tgetD s.dirWait q []

def State.stall (s : State) (q : Nat) (r : Req) : State := { s with dirWait := tput s.dirWait q (s.stalled q ++ [r]) }

def State.setEntries (s : State) (q line : Nat) : List DirEntry := (s.bank q).filter fun e => decide (dirSet e.line = dirSet line)

/-- R161: evict the least recently used entry of a full set that is not busy, by back-invalidation. -/
def State.backInvalidate (s : State) (q line : Nat) : State :=
  match ((s.setEntries q line).filter fun e => e.busy.isNone && decide (e.ports = 0)).getLast? with
  | none => s
  | some v =>
    let sn := (v.holders.filter fun h => !(decide (h = q))).map fun h => (h, MKind.snpInv)
    let t : Txn := ⟨none, sn.map fun x => ⟨x.1, x.2, false, false⟩, 0, false, false⟩
    let s := (s.modDir q v.line fun e => { e with busy := some t }).incFld .UCC_DIR_STATUS_BACK_INV q 1
    sn.foldl (fun s x => s.sendSnoop q v.line 0 x) s

/-- A REQ reaches the bank (R171): it waits for a busy line, waits for an entry, or begins. -/
def State.arrive (s : State) (q : Nat) (r : Req) : State :=
  match findDir (s.bank q) r.line with
  | some e =>
    if e.busy.isSome then s.modDir q r.line fun e => { e with waiting := e.waiting ++ [r] }
    else s.begin_ q e false r
  | none =>
    if (s.stalled q).any fun x => decide (x.line = r.line) then s.stall q r
    else if (s.setEntries q r.line).length < 16 then s.begin_ q ⟨r.line, .di, 0, 0, none, []⟩ true r
    else (s.backInvalidate q r.line).stall q r

/-! ### Performing a request (05.7, 05.9) -/

/-- Write the four sectors of a line, each whole. -/
def State.writeLine (s : State) (key line : Nat) (data : List Byte) : State × Nat :=
  (List.range 4).foldl (fun (x : State × Nat) i =>
    match x.1.pwrite key (128 * line + 32 * i) ((data.drop (32 * i)).take 32) with
    | (s, st) => (s, if x.2 = 0 then st else x.2)) (s, 0)

/-- The runs of set bits of a byte mask within [i, 128), as (offset, length), cut at sector boundaries. -/
def maskRuns (m : Nat) : Nat → Nat → List (Nat × Nat)
  | 0, _ => []
  | fuel + 1, i =>
    if 128 ≤ i then []
    else if m.testBit i then
      let rec len : Nat → Nat → Nat
        | 0, _ => 0
        | f + 1, j => if j < 128 ∧ m.testBit j ∧ (j = i ∨ j % 32 ≠ 0) then 1 + len f (j + 1) else 0
      let n := len 32 i
      (i, n) :: maskRuns m fuel (i + n)
    else maskRuns m fuel (i + 1)

/-- A partial write of a line under a byte mask; sectors whose 32 bytes are all written are whole-sector writes. -/
def State.writeMasked (s : State) (key line mask : Nat) (data : List Byte) : State × Nat :=
  (maskRuns mask 129 0).foldl (fun (x : State × Nat) r =>
    match x.1.pwrite key (128 * line + r.1) ((data.drop r.1).take r.2) with
    | (s, st) => (s, if x.2 = 0 then st else x.2)) (s, 0)

/-- R182: perform an operation once for each (source, tag): its status and old value, and whether it was a duplicate. -/
def State.once (s : State) (slice : Nat) (rt : RTag) (act : State → State × Nat × W64) : State × Nat × W64 :=
  match s.replayFor slice rt.pkg rt.eng rt.tag with
  | none => act s
  | some (s, r) =>
    if r.dup rt.tag then
      ((s.incFld .UCC_SKEIN_STATUS_DUP_DROPPED slice 1).putReplay { r with last := s.time }, r.answer rt.tag)
    else
      match act s with
      | (s, st, old) => (s.putReplay (r.mark rt.tag st old s.time), st, old)

def State.panelOf (s : State) (ctx : Nat) : Option Nat :=
  match tget s.ctxs ctx with
  | some c => if c.panel < 48 then some c.panel else none
  | none => none

/-- Perform a write, atomic or reduction at the home: the status and old value of its COMPLETE. -/
def State.perform (s : State) (q : Nat) (r : Req) : State × Nat × W64 :=
  let line := localLine r.line
  let key := (s.keyOf r.h.key).getD 0
  match r.op with
  | .wrLine d _ => match s.writeLine key line d with
    | (s, st) => (s, st, 0)
  | .wrPtl m d _ => match s.writeMasked key line m.toNat d with
    | (s, st) => (s, st, 0)
  | .atomic a op size x y rt =>
    let act (s : State) : State × Nat × W64 :=
      match s.atomicAt key a op size x.toNat y.toNat with
      | (s, .ok v) => (s, 0, w64 v)
      | (s, .error st) => (s, st, 0)
    match rt with
    | some t => s.once q t act
    | none => act s
  | .addLine sec rop exact carry anchor p rt =>
    s.once q rt fun s =>
      match s.addLineAt ⟨key, r.h.ctx, s.panelOf r.h.ctx, false⟩ line sec.toNat rop exact carry anchor p 0 with
      | (s, notes) => (s, notes, 0)
  | _ => (s, 0, 0)

/-- The port bit of an agent (Table 05-2). -/
def portBit (a : Nat) : Nat := if a = 0x20 ∨ a = 0x21 then 1 else if a = 0x22 then 2 else if a = 0x23 then 4 else 0

/-- What stands at the line for a cacheless reader, and the poisoned sectors. -/
def State.lineBytes (s : State) (key line : Nat) : State × List Byte × Nat :=
  (List.range 4).foldl (fun (x : State × List Byte × Nat) i =>
    match x.1.pread key (128 * line + 32 * i) 32 with
    | (s, .ok b p) => (s, x.2.1 ++ b, x.2.2 + (if p then 2 ^ i else 0))
    | (s, .fault _) => (s, x.2.1 ++ zeros 32, x.2.2 + 2 ^ i)) (s, [], 0)

/-- A grant to a slice; the entry stays busy until it is delivered (R173). -/
def State.grant (s : State) (q : Nat) (e : DirEntry) (t : Txn) (r : Req) (dest : Nat) (g : LState) (e' : DirEntry) : State :=
  (s.putDir q { e' with busy := some { t with granted := true } }).send
    { Msg.plain .data (bankAgent q) dest e.line r.h with dirty := t.dirty, grant := some g }

/-- The end of a transaction whose snoops are answered. A write, atomic or reduction installs the line at the home in M, or
in the hinted slice. -/
def State.finish (s : State) (q : Nat) (e : DirEntry) (t : Txn) : State :=
  match t.req with
  | none => s.modDir q e.line fun e => { e with busy := none, slices := e.slices &&& (2 ^ q) }
  | some r =>
    let kept := if t.homeKept then 2 ^ q else 0
    match r.op with
    | .rdShr =>
      let me := 2 ^ (r.h.src % 4)
      let others := (e.slices ||| kept) &&& (15 - me)
      if others = 0 then s.grant q e t r r.h.src .e { e with state := .dx, slices := me }
      else s.grant q e t r r.h.src .s { e with state := .ds, slices := others ||| me }
    | .rdOwn miss =>
      let me := 2 ^ (r.h.src % 4)
      s.grant q e t r r.h.src (if t.dirty = 0 ∧ miss then .e else .m) { e with state := .dx, slices := me }
    | .upgrade => s.grant q e t r r.h.src .m { e with state := .dx, slices := 2 ^ (r.h.src % 4) }
    | .rdOnce =>
      let (s, b, p) := s.lineBytes ((s.keyOf r.h.key).getD 0) (localLine e.line)
      (s.putDir q { e with
        busy := none, state := if e.slices ||| kept = 0 then .di else .ds, slices := e.slices ||| kept,
        ports := e.ports ||| portBit r.h.src }).send
        { Msg.plain .data (bankAgent q) r.h.src e.line r.h with bytes := b, poison := p }
    | _ =>
      match s.perform q r with
      | (s, st, old) =>
        let s := match r.op with
          | .atomic _ _ _ _ _ _ | .addLine _ _ _ _ _ _ _ =>
            s.send { Msg.plain .complete (bankAgent q) r.h.src e.line r.h with status := st, old := old }
          | _ => s.untrack r.h.tag
        match s.reqHint q r with
        | some d =>
          (s.putDir q { e with state := .dx, slices := 2 ^ d, busy := some { t with granted := true, dirty := 15 } }).send
            { Msg.plain .data (bankAgent q) d e.line r.h with dirty := 15, grant := some .m }
        | none =>
          let s := s.putDir q { e with state := .di, slices := 0, busy := none }
          if t.homeKept then s.modSlice q fun x => x.put (s.newLine r.h e.line .m 15) else s

/-- The transaction may end: every snoop is answered, and a whole-line write also waits for PORTS = 0. -/
def DirEntry.ready (e : DirEntry) (t : Txn) : Bool :=
  t.waits.isEmpty && !t.granted && (match t.req with
    | some ⟨_, _, .wrLine _ _⟩ => decide (e.ports = 0)
    | _ => true)

/-- Nothing keeps the entry (R159). -/
def DirEntry.idle (q : Nat) (e : DirEntry) : Bool :=
  e.busy.isNone && decide (e.ports = 0) && e.waiting.isEmpty && decide (e.slices &&& (15 - 2 ^ q) = 0)

/-- Carry a bank forward: end what can end, start the next waiting request of each freed line, free idle entries, and let
requests that waited for an entry begin. `work`: the lines still to look at. -/
def State.settle (q : Nat) : Nat → State → List Nat → State
  | 0, s, _ => s
  | fuel + 1, s, work =>
    match work with
    | [] =>
      match (s.stalled q).find? (fun r =>
          (findDir (s.bank q) r.line).isSome || decide ((s.setEntries q r.line).length < 16)) with
      | none => s
      | some r =>
        let s := { s with dirWait := tput s.dirWait q ((s.stalled q).erase r) }
        State.settle q fuel (s.arrive q r) [r.line]
    | line :: rest =>
      match findDir (s.bank q) line with
      | none => State.settle q fuel s rest
      | some e =>
        match e.busy with
        | some t =>
          if e.ready t then State.settle q fuel (s.finish q e t) (line :: rest) else State.settle q fuel s rest
        | none =>
          match e.waiting with
          | r :: ws => State.settle q fuel ((s.modDir q line fun e => { e with waiting := ws }).begin_ q { e with waiting := ws } false r) (line :: rest)
          | [] => if e.idle q then State.settle q fuel (s.freeDir q line) rest else State.settle q fuel s rest

/-- Enough for every request that waits at a bank. -/
def State.settleAll (s : State) (q line : Nat) : State :=
  State.settle q (8 * ((s.stalled q).length + (s.bank q).foldl (fun n e => n + 1 + e.waiting.length) 1)) s [line]

/-! ### The requests -/

/-- A REQ takes a tracker entry and reaches its bank; without one it waits at its port, and nothing changes (R170). -/
def State.request (s : State) (r : Req) (sectors : Nat) : State :=
  if s.isLocal (128 * r.line) && decide (region (128 * localLine r.line) = .hbm) && s.trackerRoom (portOf r.h.src) &&
      !(s.tracker.any fun t => decide (t.tag = r.h.tag)) then
    let q := s.homeOf r.line
    ((s.track r.h r.line sectors).arrive q r).settleAll q r.line
  else s

def rdShr (h : ReqHdr) (slice line : Nat) (s : State) : State := s.request ⟨{ h with src := slice % 4 }, line, .rdShr⟩ 15
def rdOwn (h : ReqHdr) (slice line : Nat) (miss : Bool) (s : State) : State :=
  s.request ⟨{ h with src := slice % 4 }, line, .rdOwn miss⟩ 15
def upgrade (h : ReqHdr) (slice line : Nat) (s : State) : State := s.request ⟨{ h with src := slice % 4 }, line, .upgrade⟩ 15
def rdOnce (h : ReqHdr) (line : Nat) (s : State) : State := s.request ⟨h, line, .rdOnce⟩ 15
def wrLine (h : ReqHdr) (line : Nat) (data : List Byte) (hint : Nat) (s : State) : State :=
  if data.length = 128 then s.request ⟨h, line, .wrLine data hint⟩ 15 else s
def wrPtl (h : ReqHdr) (line : Nat) (mask : BitVec 128) (data : List Byte) (hint : Nat) (s : State) : State :=
  if data.length = 128 then s.request ⟨h, line, .wrPtl mask data hint⟩ 15 else s

/-- A request that is not performed is answered at once with a status. -/
def State.refuseReq (s : State) (h : ReqHdr) (line st : Nat) : State :=
  s.send { Msg.plain .complete 0x38 h.src line h with status := st }

/-- R177: an atomic or reduction addressed to a device region; R89 performs atomics in die scratch. -/
def atomicReq (h : ReqHdr) (addr : Nat) (op : AtomOp) (size : Nat) (a b : W64) (rt : Option RTag) (s : State) : State :=
  if (size = 4 ∨ size = 8) ∧ addr % size = 0 then
    match region (addr % 2 ^ 48) with
    | .hbm => s.request ⟨h, addr / 128, .atomic (addr % 2 ^ 48) op size a b rt⟩ (2 ^ (addr / 32 % 4))
    | .dscr _ _ =>
      let act (s : State) : State × Nat × W64 :=
        match s.atomicAt 0 (addr % 2 ^ 48) op size a.toNat b.toNat with
        | (s, .ok v) => (s, 0, w64 v)
        | (s, .error st) => (s, st, 0)
      let r := match rt with
        | some t => s.once 0 t act
        | none => act s
      r.1.send { Msg.plain .complete 0x38 h.src (addr / 128) h with status := r.2.1, old := r.2.2 }
    | _ => s.refuseReq h (addr / 128) 0x0301
  else s

def addLineReq (h : ReqHdr) (line : Nat) (sectors : BitVec 4) (rop : Nat) (exact carry : Bool) (anchor : Int)
    (payload : List Byte) (rt : RTag) (s : State) : State :=
  if payload.length = 128 ∧ rop < 9 then
    if region (128 * localLine line) = .hbm then
      s.request ⟨h, line, .addLine sectors rop exact carry anchor payload rt⟩ sectors.toNat
    else s.refuseReq h line 0x0301
  else s

/-! ### Answers at the directory -/

/-- Change the transaction of a busy entry. -/
def State.modTxn (s : State) (q line : Nat) (f : DirEntry → Txn → DirEntry) : State :=
  s.modDir q line fun e => match e.busy with
    | some t => f e t
    | none => e

def dropWait (l : List Snooped) (slice : Nat) (inv : Bool) : List Snooped :=
  l.eraseP fun w => decide (w.slice = slice) && (if inv then !(decide (w.kind = .snpFetch)) else decide (w.kind = .snpFetch))

/-- The transaction still needs the line's data: it snooped an owner that had none. -/
def needsData (e : DirEntry) (t : Txn) : Bool :=
  match t.req with
  | none => false
  | some r => match r.op with
    | .wrLine _ _ => false
    | .upgrade => decide (e.state = .dx)
    | _ => decide (e.state = .dx)

/-- INV_ACK: the slice no longer holds the line. A read's data then comes from the home (Table 05-4). -/
def invAck (slice line : Nat) (s : State) : State :=
  let q := s.homeOf line
  match s.recv .invAck (some slice) none line with
  | none => s
  | some (_, s) =>
    match findDir (s.bank q) line with
    | none => s
    | some e =>
      match e.busy with
      | none => s
      | some t =>
        let shr := t.waits.any fun w => decide (w.slice = slice) && decide (w.kind = .snpShr)
        let fetch := (shr || needsData e t) && !(t.waits.any fun w => decide (w.kind = .snpFetch))
        let ws := dropWait t.waits slice true
        let s := s.modTxn q line fun e t => { e with
          slices := setBits e.slices slice slice 0,
          state := if e.state = .dx then .di else e.state,
          busy := some { t with waits := if fetch then ws ++ [⟨q, .snpFetch, false, false⟩] else ws } }
        let s := if fetch then s.sendSnoop q line 0 (q, .snpFetch) else s
        s.settleAll q line

/-- Snoop data at the directory. An ownership request whose fetch leaves the home a copy invalidates it too (log entry 11). -/
def State.snoopData (s : State) (q : Nat) (m : Msg) : State :=
  match findDir (s.bank q) m.line with
  | none => s
  | some e =>
    match e.busy with
    | none => s
    | some t =>
      let fetched := decide (m.src = q) && t.waits.any fun w => decide (w.slice = q) && decide (w.kind = .snpFetch)
      let inv := t.waits.any fun w => decide (w.slice = m.src) && decide (w.kind = .snpInv)
      let kept := m.grant.isSome
      let owned := match t.req with
        | some r => r.op.owns && !(decide (r.slice = some q)) && r.slice.isSome
        | none => false
      let again := fetched && kept && owned && !inv
      let ws := dropWait t.waits m.src (!fetched)
      let s := s.modTxn q m.line fun e t => { e with
        slices := if fetched then e.slices else if inv then setBits e.slices m.src m.src 0 else e.slices,
        state := if fetched then e.state else if inv then .di else .ds,
        busy := some { t with
          waits := if again then ws ++ [⟨q, .snpInv, false, false⟩] else ws,
          dirty := t.dirty ||| m.dirty, homeKept := t.homeKept || (fetched && kept && !again) } }
      let s := if again then s.sendSnoop q m.line 0 (q, .snpInv) else s
      s.settleAll q m.line

/-- Both halves of a crossing write-back are here: the data is the snoop's answer and WB_ACK goes to the slice (R173). -/
def State.crossed (s : State) (q slice line : Nat) : State :=
  let s := s.modTxn q line fun e t => { e with
    slices := setBits e.slices slice slice 0, state := .di,
    busy := some { t with waits := t.waits.filter fun w => !(decide (w.slice = slice) && !(decide (w.kind = .snpFetch))) } }
  (s.send (Msg.plain .wbAck (bankAgent q) slice line ReqHdr.hub)).settleAll q line

def snooped (e : DirEntry) (slice : Nat) : Option Snooped :=
  match e.busy with
  | none => none
  | some t => t.waits.find? fun w => decide (w.slice = slice) && !(decide (w.kind = .snpFetch))

def markWait (slice : Nat) (f : Snooped → Snooped) (t : Txn) : Txn :=
  { t with waits := t.waits.map fun w => if w.slice = slice ∧ w.kind ≠ .snpFetch then f w else w }

/-- WB_IN_FLIGHT: the WB_DATA is the snoop's data, whichever arrives first. -/
def wbInFlight (slice line : Nat) (s : State) : State :=
  let q := s.homeOf line
  match s.recv .wbInFlight (some slice) none line with
  | none => s
  | some (_, s) =>
    match (findDir (s.bank q) line).bind fun e => snooped e slice with
    | none => s
    | some w =>
      if w.wbData then s.crossed q slice line
      else s.modTxn q line fun e t => { e with busy := some (markWait slice (fun w => { w with wbFlight := true }) t) }

/-- WB_DATA: held for a snoop outstanding, else written home (R173). -/
def wbData (slice line : Nat) (s : State) : State :=
  let q := s.homeOf line
  match s.recv .wbData (some slice) none line with
  | none => s
  | some (m, s) =>
    match (findDir (s.bank q) line).bind fun e => snooped e slice with
    | some w =>
      let s := s.modTxn q line fun e t => { e with
        busy := some { markWait slice (fun w => { w with wbData := true }) t with dirty := t.dirty ||| m.dirty } }
      if w.wbFlight then s.crossed q slice line else s
    | none =>
      let s := s.modDir q line fun e => { e with slices := setBits e.slices slice slice 0 }
      (s.send (Msg.plain .wbAck (bankAgent q) slice line ReqHdr.hub)).settleAll q line

/-- EVICT_CLEAN: a CREDIT goes back to a slice other than the home, the slice leaves SLICES, and an entry that no slice
needs is freed. From a slice not in SLICES it changes nothing else (R173). -/
def evictClean (slice line : Nat) (s : State) : State :=
  let q := s.homeOf line
  match s.recv .evictClean (some slice) none line with
  | none => s
  | some (_, s) =>
    let s := if slice = q then s else s.send (Msg.plain .credit (bankAgent q) slice 0 ReqHdr.hub)
    let s := s.modDir q line fun e => { e with slices := setBits e.slices slice slice 0 }
    s.settleAll q line

/-! ### DATA and COMPLETE at their receivers -/

/-- A grant was delivered: the directory's transaction is over. -/
def State.granted (s : State) (q line : Nat) : State :=
  (s.modTxn q line fun e t => if t.granted then { e with busy := none } else e).settleAll q line

/-- DATA: snoop data at the directory; a grant at a slice, which installs the line and begins its hold; or a cacheless
reader's bytes, whose port bit clears at hand-off. A grant that needs an eviction waits for its credit (R169). -/
def data (dst line : Nat) (s : State) : State :=
  match s.recv .data none (some dst) line with
  | none => s
  | some (m, t) =>
    if 0x10 ≤ dst ∧ dst < 0x14 then t.snoopData (dst - 0x10) m
    else if dst < 4 then
      let g := m.grant.getD .s
      match t.fill dst (t.newLine m.hdr line g (if g = .m then m.dirty else 0)) with
      | none => s
      | some t =>
        let t := if g = .m then t.modSlice dst fun x => { x with
            holds := x.holds ++ [⟨line, t.now + 64, m.hdr.ctx, m.hdr.owner⟩] } else t
        (t.untrack m.tag).granted (t.homeOf line) line
    else
      let q := t.homeOf line
      let late := !(t.tracker.any fun x => decide (x.tag = m.tag))
      let t := (t.untrack m.tag).modDir q line fun e => { e with ports := e.ports &&& (7 - portBit dst) }
      let t := if late then t else t.emit (.memData m.bytes (decide (m.poison ≠ 0)))
      t.settleAll q line

/-- COMPLETE ends an atomic or reduction at its issuer; one whose tracker entry is gone is discarded (R482). -/
def complete (tag : Nat) (s : State) : State :=
  match takeMsg (fun m => decide (m.kind = .complete) && decide (m.tag = tag)) s.net with
  | none => s
  | some (m, rest) =>
    let live := s.tracker.any fun x => decide (x.tag = tag)
    let s := { s with net := rest }.untrack tag
    if (m.dst = 0x22 ∨ m.dst = 0x23) ∧ live then s.emit (.guestAck (m.dst - 0x22) m.status m.old) else s

/-- R482: a tracked request that is not complete within `SRV_REQ_TIMEOUT.US` leaves the tracker; a cacheless read is answered
with data flagged poisoned, an atomic or reduction with 0x0405. -/
def requestTimeout (tag : Nat) (s : State) : State :=
  match s.tracker.find? (fun t => decide (t.tag = tag)) with
  | none => s
  | some t =>
    if 1000 * max 10 (min 100000 (s.fld .SRV_REQ_TIMEOUT_US 0)) ≤ (s.time - t.since).toNat then
      let s := s.untrack tag
      let (c, s) := s.fresh
      match t.port with
      | 6 => s.emit (.guestAck 0 0x0405 0)
      | 7 => s.emit (.guestAck 1 0x0405 0)
      | 4 => s.emit (.memData ((List.range 128).map fun i => Config.undefByte c i) true)
      | 5 => s.emit (.memData ((List.range 128).map fun i => Config.undefByte c i) true)
      | _ => s
    else s

/-- The slice registers that count what the slices hold (Table 05-15). -/
def State.validLines (s : State) (q : Nat) : Nat := (s.slice q).lines.length
def State.dirtyLines (s : State) (q : Nat) : Nat := ((s.slice q).lines.filter fun l => decide (l.state = .m) && decide (l.dirty ≠ 0)).length
def State.skeinEntries (s : State) (q : Nat) : Nat := skeinPlaces (s.skein.filter fun e => decide (e.bd = q))
def State.occupied (s : State) (p : Nat) : Nat := (List.range 4).foldl (fun n q => n + (s.slice q).charged p) 0
def State.panelTarget (s : State) (p : Nat) : Nat := (List.range 4).foldl (fun n q => n + s.shareTarget q p) 0

/-- R433: leases of a reset owner: tracker entries are freed, holds end at once, and messages owed are discarded when they
arrive. Whether anything was reclaimed for the context. -/
def State.reclaimUcc (s : State) (p : Tracked → Bool) (h : Hold → Bool) : State :=
  let s := { s with tracker := s.tracker.filter fun t => !(p t) }
  (List.range 4).foldl (fun s q =>
    ((s.slice q).holds.filter h).foldl (fun s x => s.endHold q x.line) s) s

end Sys2Proof.Machine
end

