-- ==== Sys2Proof/Machine/Links.lean ====
section
/-! DEFINITION. The Ahnyx links (10.2 to 10.5): routing, credits, flits and retry, remote requests at their issuer and at their
home, stream trackers and FINAL writes (06.4), and lease copies (R176). -/

namespace Sys2Proof.Machine

def State.link (s : State) (l : Nat) : LinkSt := tgetD s.links l LinkSt.new
def State.setLink (s : State) (l : Nat) (x : LinkSt) : State := { s with links := tput s.links l x }
def State.modLink (s : State) (l : Nat) (f : LinkSt → LinkSt) : State := s.setLink l (f (s.link l))

def State.linkState (s : State) (l : Nat) : Nat := s.fld .LNK_STATUS_STATE l
def State.linkUp (s : State) (l : Nat) : Bool := decide (l < 32) && decide (s.linkState l = 3)

/-! ### Sending (R320, R321, R331) -/

/-- A message may leave: credits for all its slots on its class and virtual channel, and room in the replay buffer. -/
def LinkSt.canSend (x : LinkSt) (m : LinkMsg) : Bool :=
  decide (m.slots ≤ tgetD x.credits (4 * classNum m.cls + m.hop) 0) && decide (x.unacked.length < 4095)

/-- A request of this package leaves: its time runs from now (R333). -/
def State.noteLeft (s : State) (m : LinkMsg) : State :=
  if m.cls = .req ∧ m.src = s.ownPkg then
    { s with remotes := s.remotes.map fun r => if r.tag = m.tag then { r with sentAt := s.time } else r }
  else s

def State.transmit (s : State) (l : Nat) (m : LinkMsg) : State :=
  let s := (s.bump (unitLink l) (classNum m.cls) (16 * m.slots) none).noteLeft m
  let x := s.link l
  let k := 4 * classNum m.cls + m.hop
  (s.setLink l { x with
    credits := tput x.credits k (tgetD x.credits k 0 - m.slots), unacked := x.unacked ++ [⟨x.next, m⟩], next := x.next + 1,
    progress := if x.unacked.isEmpty then s.time else x.progress }).emit (.linkMsg l m)

/-- The first waiting message, by rank and then by age, that may leave. -/
def LinkSt.pick (x : LinkSt) : Option (Nat × LinkMsg) :=
  match x.waiting.find? (fun e => decide (e.1 = 0) && x.canSend e.2) with
  | some e => some e
  | none => match x.waiting.find? (fun e => decide (e.1 = 1) && x.canSend e.2) with
    | some e => some e
    | none => x.waiting.find? fun e => x.canSend e.2

def State.drainLink : Nat → State → Nat → State
  | 0, s, _ => s
  | n + 1, s, l =>
    match (s.link l).pick with
    | none => s
    | some e => State.drainLink n ((s.modLink l fun x => { x with waiting := x.waiting.erase e }).transmit l e.2) l

def State.drain (s : State) (l : Nat) : State :=
  if s.linkState l = 2 ∨ s.linkState l = 3 then State.drainLink (s.link l).waiting.length s l else s

/-- Put a message on a link: rank 0 for CTL, 1 for forwarded messages, 2 for this package's own. -/
def State.enqueue (s : State) (l rank : Nat) (m : LinkMsg) : State :=
  (s.modLink l fun x => { x with waiting := x.waiting ++ [(rank, m)] }).drain l

/-- R329: the port mask of a destination. -/
def State.portMask (s : State) (dst : Nat) : Nat :=
  let g := bits dst 14 7
  if g ≠ bits s.ownPkg 14 7 then tgetD s.routes (256 + g) 0 else tgetD s.routes (bits dst 6 0) 0

/-- R329: the UP link of the mask with the most free credits in the class on the channel, the lowest on a tie. -/
def State.route (s : State) (dst : Nat) (cls : LinkClass) (vc : Nat) : Option Nat :=
  ((maskBits (s.portMask dst) 32).filter fun l => s.linkUp l).foldl (fun b l =>
    match b with
    | none => some l
    | some k =>
      let c (i : Nat) : Nat := tgetD (s.link i).credits (4 * classNum cls + vc) 0
      if c k < c l then some l else b) none

def State.routeDrop (s : State) : State := s.incFld .LNK_G_STATUS_ROUTE_DROPS 0 1

def msgRank (m : LinkMsg) (own : Bool) : Nat := if m.cls = .ctl then 0 else if own then 2 else 1

/-- Send a message of this package towards another; none where no link of its mask is UP. -/
def State.inject (s : State) (m : LinkMsg) : Option State :=
  match s.route m.dst m.cls 0 with
  | none => none
  | some l => some (s.enqueue l (msgRank m true) { m with hop := 0 })

/-- Send an answer; it is dropped and counted where it cannot be routed. -/
def State.answer (s : State) (m : LinkMsg) : State := (s.inject m).getD s.routeDrop

/-- The 16-byte slots of a message body: header, extensions and payload (R166, R319). -/
def bodySlots : LinkBody → Nat
  | .read _ _ _ => 2
  | .write _ d _ _ _ _ => 2 + ceilDiv d.length 16
  | .final _ _ _ _ _ _ => 3
  | .atomic _ _ _ _ _ _ _ _ _ => 3
  | .addLine _ _ _ _ _ _ p _ _ _ _ => 3 + ceilDiv p.length 16
  | .complete _ _ => 2
  | .data b _ => 2 + ceilDiv b.length 16
  | .mgmt b => 1 + ceilDiv b.length 16
  | .cap b => 1 + ceilDiv b.length 16
  | .train _ _ _ _ _ => 2
  | .time _ _ _ _ _ => 3
  | .coll _ _ _ _ _ _ => 3
  | _ => 2

def bodyClass : LinkBody → LinkClass
  | .complete _ _ => .rsp
  | .data _ _ => .dat
  | .read _ _ _ | .write _ _ _ _ _ _ | .final _ _ _ _ _ _ | .atomic _ _ _ _ _ _ _ _ _ | .addLine _ _ _ _ _ _ _ _ _ _ _ => .req
  | _ => .ctl

def State.message (s : State) (dst ctx tag : Nat) (b : LinkBody) : LinkMsg :=
  { cls := bodyClass b, dst := dst, src := s.ownPkg, ctx := ctx, tag := tag, hop := 0, slots := bodySlots b, body := b }

/-! ### Lease copies (R176) -/

def State.leaseNs (s : State) : Nat := 1000 * min 200 (max 10 (s.fld .UCC_CTL_LEASE_US 0))

/-- The lease copy that may serve a read of a context, in the slice of its quadrant. -/
def State.leaseHit (s : State) (q ctx line : Nat) : Option Lease :=
  let fence := match tget s.ctxs ctx with
    | some c => c.gfence
    | none => 0
  s.leases.find? fun x =>
    decide (x.slice = q) && decide (x.line = line) && decide (x.ctx = ctx) && decide (fence < x.filled) &&
      decide ((s.time - x.filled).toNat < s.leaseNs)

/-- A fill of a remote line takes the place of any copy of it in the slice. -/
def State.leaseFill (s : State) (q ctx line key : Nat) (b : List Byte) (poison : Nat) : State :=
  { s with leases := ⟨q, line, ctx, key, s.time, b, poison⟩ ::
      s.leases.filter fun x => !(decide (x.slice = q) && decide (x.line = line)) }

/-- A write to another package's memory invalidates every copy of the line; a fill in flight of it is not kept. -/
def State.leaseDrop (s : State) (line : Nat) : State :=
  { s with
    leases := s.leases.filter fun x => !(decide (x.line = line)),
    remotes := s.remotes.map fun r => if r.kind = .read ∧ r.addr / 128 = line then { r with stale := true } else r }

/-! ### Remote requests at their issuer (R192, R332 to R334) -/

/-- The quadrant whose slice serves a waiter. -/
def State.waiterQuad (s : State) : Waiter → Nat
  | .lane die _ _ _ _ _ _ => die / 3
  | .cmd id | .cmdWrite id _ =>
    match tget s.cmds id with
    | some c => match tget s.panels c.panel with
      | some p => (maskBits p.tiles 48).head?.getD 0 / 12
      | none => 0
    | none => 0
  | .none => 0

def remoteDetail : RemoteKind → Nat
  | .read => 0 | .write => 1 | .final => 1 | .atomic => 2 | .addLine => 2

/-- Give a command the status of an access of its own: a loss stands above a FINAL's timeout and the 0x04xx statuses, a
fault above the notes, and notes combine (R334, R248). -/
def worse (old new : Nat) : Nat :=
  if new = 0 then old
  else if old < 0x100 ∧ new < 0x100 then old ||| new
  else if old < 0x100 then new
  else if new < 0x100 then old
  else if new = 0x0308 ∧ 0x0400 ≤ old then new
  else old

def State.cmdStatus (s : State) (id st va : Nat) : State :=
  s.modCmd id fun c => { c with status := worse c.status st, vaddr := if c.status < 0x100 ∧ 0x100 ≤ st then w64 va else c.vaddr }

/-- The launch that runs on a core. -/
def State.coreOf (s : State) (k : Nat) : Core := tgetD s.cores k Core.idle
def State.setCore (s : State) (k : Nat) (x : Core) : State := { s with cores := tput s.cores k x }
def State.modCore (s : State) (k : Nat) (f : Core → Core) : State := s.setCore k (f (s.coreOf k))

def State.modGroup (s : State) (k g : Nat) (f : Group → Group) : State :=
  s.modCore k fun c => { c with groups := c.groups.map fun x => if x.num = g then f x else x }

/-- An access of a launch came to a status without faulting its thread. -/
def State.launchStatus (s : State) (k st : Nat) : State :=
  match (s.coreOf k).launch with
  | none => s
  | some id => { s with launches := tmod s.launches id fun l => { l with status := worse l.status st } }

/-- The 32-bit registers that a value of `size` bytes takes. -/
def sizeRegs (size : Nat) : Nat := max 1 (ceilDiv size 4)

/-- A lane's register, and those after it for a larger value, are written by an access that returned. -/
def Group.land (x : Group) (lane rd size v : Nat) : Group :=
  let n := sizeRegs size
  { x with
    regs := (List.range n).foldl (fun t i => tput t (256 * lane + rd + i) (w32 (v / 2 ^ (32 * i)))) x.regs,
    pend := x.pend.filter fun p => !(decide (p.lane = lane) && decide (rd ≤ p.reg) && decide (p.reg < rd + n)) }

/-- The line of a fill in flight from another package has arrived at core k. -/
def State.fillArrived (s : State) (k line : Nat) (b : List Byte) (poison : Nat) : State :=
  s.modCore k fun c => { c with
    fills := c.fills.map fun f => if f.line = line ∧ ¬ f.ready then { f with bytes := b, poison := poison, ready := true } else f }

/-- R333, R334: a remote access is lost. -/
def State.loseRemote (s : State) (r : Remote) : State :=
  let s := { s with remotes := s.remotes.filter fun x => !(decide (x.tag = r.tag)) }
  let s := s.incFld .LNK_G_STATUS_REMOTE_LOST 0 1
  let s := s.logFault 0x04 (remoteDetail r.kind) 0x0308 0x1340 (some r.ctx) 0 r.addr
  let s := { s with streams := s.streams.map fun x =>
    if x.pkg = r.pkg ∧ x.ctx = r.ctx ∧ x.stream = r.stream ∧ r.kind = .final then { x with unacked := x.unacked - 1 } else x }
  match r.wait with
  | .cmd id => s.cmdStatus id 0x0308 r.addr
  | .cmdWrite id va => s.cmdStatus id 0x0308 va
  | .lane die core g lane rd size _ =>
    let k := 32 * die + core
    let s := s.launchStatus k 0x0308
    let (c, s) := s.fresh
    if r.kind = .read then s.fillArrived k (r.addr / 128) ((List.range 128).map fun i => Config.undefByte c i) 0
    else if r.kind = .atomic then s.modGroup k g fun x => x.land lane rd size (Config.freeNat c) else s
  | .none => s

/-- The issuer's stream record, made on its first access. -/
def State.issStream (s : State) (pkg ctx stream : Nat) : IssStream :=
  (s.streams.find? fun x => decide (x.pkg = pkg) && decide (x.ctx = ctx) && decide (x.stream = stream)).getD
    ⟨pkg, ctx, stream, 0, 0, 0⟩

def State.putStream (s : State) (x : IssStream) : State :=
  { s with streams := x :: s.streams.filter fun y =>
      !(decide (y.pkg = x.pkg) && decide (y.ctx = x.ctx) && decide (y.stream = x.stream)) }

/-- Send one request to another package and time it; with no UP link it is lost at once (R333). -/
def State.sendRemote (s : State) (kind : RemoteKind) (pkg ctx func stream addr : Nat) (b : LinkBody) (w : Waiter) : State :=
  let tag := s.nextTag
  let s := { s with nextTag := s.nextTag + 1 }
  let r : Remote := ⟨tag, kind, pkg, ctx, func, stream, addr, b, s.time, 0, none, w, false⟩
  match s.inject (s.message pkg ctx tag b) with
  | some s => { s with remotes := s.remotes ++ [r] }
  | none => ({ s with remotes := s.remotes ++ [r] }.routeDrop).loseRemote r

def gaPkg (ga : Nat) : Nat := bits ga 62 48

/-- A read of a line of another package, unless one of the same context is on its way. What is read through a DEVICE leaf is never kept
under a lease (R202). -/
def State.remoteRead (s : State) (ctx func ga key : Nat) (device : Bool) (w : Waiter) : State :=
  let a := ga / 128 * 128
  let mine (r : Remote) : Bool := decide (r.kind = .read) && decide (r.addr = a) && decide (r.ctx = ctx) && decide (r.wait = w)
  if s.remotes.any mine then s
  else
    let s := s.sendRemote .read (gaPkg ga) ctx func 0 a (.read (w64 a) 128 key) w
    if device then { s with remotes := s.remotes.map fun r => if mine r then { r with stale := true } else r } else s

/-- The stream number's span for the next access, and the state with the access counted (R192). -/
def State.countAccess (s : State) (pkg ctx stream : Nat) : Nat × State :=
  if stream = 0 then (0, s)
  else
    let x := s.issStream pkg ctx stream
    (x.finals % 4, s.putStream { x with count := x.count + 1 })

/-- A write to another package (R192): lease copies of the line go at once. -/
def State.remoteWrite (s : State) (ctx func ga key stream : Nat) (b : List Byte) (poison : Bool) (w : Waiter) : State :=
  let (span, s) := s.countAccess (gaPkg ga) ctx stream
  (s.leaseDrop (ga / 128)).sendRemote .write (gaPkg ga) ctx func stream ga (.write (w64 ga) b poison key stream span) w

def State.remoteAtomic (s : State) (ctx func ga key stream : Nat) (op : AtomOp) (size : Nat) (x y : W64) (eng : Nat)
    (w : Waiter) : State :=
  let (span, s) := s.countAccess (gaPkg ga) ctx stream
  let (rt, s) := s.nextRTag eng
  (s.leaseDrop (ga / 128)).sendRemote .atomic (gaPkg ga) ctx func stream ga
    (.atomic (w64 ga) op size x y key rt stream span) w

def State.remoteAddLine (s : State) (ctx func ga key stream : Nat) (sectors spoil : BitVec 4) (rop : Nat) (exact : Bool)
    (anchor : Int) (payload : List Byte) (eng : Nat) (w : Waiter) : State :=
  let (span, s) := s.countAccess (gaPkg ga) ctx stream
  let (rt, s) := s.nextRTag eng
  (s.leaseDrop (ga / 128)).sendRemote .addLine (gaPkg ga) ctx func stream ga
    (.addLine (w64 ga) sectors spoil rop exact anchor payload key rt stream span) w

/-- A FINAL write of 8 bytes (R192): none while two earlier ones of the stream are unacknowledged. COUNT is 24 bits. -/
def State.remoteFinal (s : State) (ctx func ga key stream : Nat) (v : W64) (w : Waiter) : Option State :=
  let x := s.issStream (gaPkg ga) ctx stream
  if 2 ≤ x.unacked then none
  else
    let s := s.putStream { x with finals := x.finals + 1, count := 0, unacked := x.unacked + 1 }
    some ((s.leaseDrop (ga / 128)).sendRemote .final (gaPkg ga) ctx func stream ga
      (.final (w64 ga) v key stream (x.finals % 4) (x.count % 2 ^ 24)) w)

/-! ### Requests at their home (R193, R194, R332) -/

/-- The home may perform an access: the key slot it names is loaded and the address is present local HBM. -/
def State.homeOk (s : State) (a key : Nat) : Bool :=
  decide (region a = .hbm) && s.paOk s.hubWho a && slotExists key && (s.keyOf key).isSome

def State.reply (s : State) (m : LinkMsg) (b : LinkBody) : State := s.answer (s.message m.src m.ctx m.tag b)

/-- Write bytes that may cross sectors, each sector whole or in part: the first status that is not 0. -/
def State.homeWrite (s : State) (key a : Nat) (b : List Byte) : State × Nat :=
  (chunks a b.length).foldl (fun (x : State × Nat) c =>
    match x.1.pwrite key c.1 ((b.drop (c.1 - a)).take c.2) with
    | (s, st) => (s, if x.2 = 0 then st else x.2)) (s, 0)

/-- Perform a held FINAL and acknowledge it. -/
def State.performFinal (s : State) (t : Tracker) (h : HeldFinal) : State :=
  let s := s.putTracker { t with
    counts := zeroAt t.counts h.span, held := t.held.filter fun x => !(decide (x = h)) }
  match s.homeWrite h.key h.addr (leBytes 8 h.value.toNat) with
  | (s, st) => s.answer (s.message h.pkg t.ctx h.tag (.complete (w16 st) 0))

/-- R193: perform every FINAL whose SPAN's counter has reached its COUNT. -/
def State.releaseFinals : Nat → State → State
  | 0, s => s
  | n + 1, s =>
    match s.trackers.findSome? (fun t => (t.ready).map fun h => (t, h)) with
    | none => s
    | some (t, h) => State.releaseFinals n (s.performFinal t h)

def State.releaseAll (s : State) : State := State.releaseFinals (s.trackers.foldl (fun n t => n + t.held.length) 0) s

/-- An access of a stream lands: its SPAN's counter rises, and FINALs that it completes are performed. -/
def State.countLanded (s : State) (pkg ctx stream span : Nat) : State :=
  if stream = 0 then s
  else match s.trackerFor pkg ctx stream with
    | none => s
    | some t => (s.putTracker { t with counts := bumpAt t.counts span }).releaseAll

/-- R194: the stream has a tracker or can have one. -/
def State.trackable (s : State) (pkg ctx stream : Nat) : Bool := decide (stream = 0) || (s.trackerFor pkg ctx stream).isSome

/-- Serve one request of another package. -/
def State.serveRemote (s : State) (m : LinkMsg) : State :=
  let bad (s : State) : State := s.reply m (.complete 0x0301 0)
  let refused (s : State) : State := s.reply m .refused
  match m.body with
  | .read addr len key =>
    let a := addr.toNat % 2 ^ 48
    if s.homeOk a key then
      let k := (s.keyOf key).getD 0
      let x := (chunks a len).foldl (fun (x : State × List Byte × Nat × Nat) c =>
        match x.1.pread k c.1 c.2 with
        | (s, .ok b p) => (s, x.2.1 ++ b, if p then x.2.2.1 ||| 2 ^ x.2.2.2 else x.2.2.1, x.2.2.2 + 1)
        | (s, .fault _) => (s, x.2.1 ++ zeros c.2, x.2.2.1 ||| 2 ^ x.2.2.2, x.2.2.2 + 1)) (s, [], 0, 0)
      x.1.reply m (.data x.2.1 (BitVec.ofNat 4 x.2.2.1))
    else bad s
  | .write addr d poison key stream span =>
    let a := addr.toNat % 2 ^ 48
    if ¬ (s.trackable m.src m.ctx stream) then refused s
    else if s.homeOk a key then
      match s.homeWrite ((s.keyOf key).getD 0) a d with
      | (s, st) =>
        let s := if poison then { s with mem := s.mem.poison ((s.keyOf key).getD 0) a } else s
        let s := s.reply m (.complete (w16 st) 0)
        if st < 0x100 then s.countLanded m.src m.ctx stream span else s
    else bad s
  | .final addr v key stream span count =>
    let a := addr.toNat % 2 ^ 48
    match s.trackerFor m.src m.ctx stream with
    | none => refused s
    | some t =>
      if s.homeOk a key then
        (s.putTracker { t with
          held := t.held ++ [⟨span, count, a, v, (s.keyOf key).getD 0, m.tag, m.src, s.time⟩] }).releaseAll
      else bad s
  | .atomic addr op size x y key rt stream span =>
    let a := addr.toNat % 2 ^ 48
    if ¬ (s.trackable m.src m.ctx stream) then refused s
    else if s.homeOk a key then
      let k := (s.keyOf key).getD 0
      let q := s.homeQ a
      let dup := match s.replay q rt.pkg rt.eng with
        | some r => r.dup rt.tag
        | none => false
      let r := s.once q rt fun s =>
        match s.atomicAt k a op size x.toNat y.toNat with
        | (s, .ok v) => (s, 0, w64 v)
        | (s, .error st) => (s, st, 0)
      let s := r.1.reply m (.complete (w16 r.2.1) r.2.2)
      if dup || decide (0x100 ≤ r.2.1) then s else s.countLanded m.src m.ctx stream span
    else bad s
  | .addLine addr sec spoil rop exact anchor p key rt stream span =>
    let a := addr.toNat % 2 ^ 48
    if ¬ (s.trackable m.src m.ctx stream) then refused s
    else if s.homeOk a key then
      let k := (s.keyOf key).getD 0
      let q := s.homeQ a
      let dup := match s.replay q rt.pkg rt.eng with
        | some r => r.dup rt.tag
        | none => false
      let r := s.once q rt fun s =>
        match s.addLineAt ⟨k, m.ctx, none, false⟩ (a / 128) sec.toNat rop exact false anchor p spoil.toNat with
        | (s, notes) => (s, notes, 0)
      let s := r.1.reply m (.complete (w16 r.2.1) 0)
      if dup || decide (0x100 ≤ r.2.1) then s else s.countLanded m.src m.ctx stream span
    else bad s
  | _ => s

/-! ### Answers at the issuer -/

def State.dropRemote (s : State) (tag : Nat) : State := { s with remotes := s.remotes.filter fun r => !(decide (r.tag = tag)) }

/-- COMPLETE from a home: notes and faults go to the command, an old value to the lane that asked. -/
def State.remoteDone (s : State) (r : Remote) (st : Nat) (old : W64) : State :=
  let s := s.dropRemote r.tag
  let s := if r.kind = .final then
      { s with streams := s.streams.map fun x =>
        if x.pkg = r.pkg ∧ x.ctx = r.ctx ∧ x.stream = r.stream then { x with unacked := x.unacked - 1 } else x }
    else s
  match r.wait with
  | .cmd id => s.cmdStatus id st r.addr
  | .cmdWrite id va => s.cmdStatus id st va
  | .lane die core g lane rd size _ =>
    let k := 32 * die + core
    let s := if st = 0 then s else s.launchStatus k st
    if r.kind = .atomic then s.modGroup k g fun x => x.land lane rd size old.toNat else s
  | .none => s

/-- DAT from a home: a lease copy is filled, and the data goes to the command or core that asked. -/
def State.remoteData (s : State) (r : Remote) (b : List Byte) (poison : Nat) : State :=
  let s := s.dropRemote r.tag
  let s := if r.stale then s else s.leaseFill (s.waiterQuad r.wait) r.ctx (r.addr / 128)
    (match r.msg with
      | .read _ _ k => k
      | _ => 0) b poison
  match r.wait with
  | .lane die core _ _ _ _ _ => s.fillArrived (32 * die + core) (r.addr / 128) b poison
  | .cmd id => s.modCmd id fun c => { c with
      landed := (List.range 4).foldl (fun l i => (r.addr + 32 * i, (b.drop (32 * i)).take 32, poison.testBit i) :: l)
        (c.landed.filter fun e => !(decide (e.1 / 128 = r.addr / 128))) }
  | _ => s

def State.modRemote (s : State) (tag : Nat) (f : Remote → Remote) : State :=
  { s with remotes := s.remotes.map fun r => if r.tag = tag then f r else r }

/-- CTL REFUSED: the issuing link logic sends the request again after at least 1 µs (R194). -/
def ctlRefused (tag : Nat) (s : State) : State :=
  match s.remotes.find? (fun r => decide (r.tag = tag)) with
  | none => s
  | some _ => s.modRemote tag fun r => { r with refused := some s.time }

/-- The refused request leaves again. -/
def refusedResend (tag : Nat) (s : State) : State :=
  match s.remotes.find? (fun r => decide (r.tag = tag)) with
  | none => s
  | some r =>
    match r.refused with
    | none => s
    | some t =>
      if 1000 ≤ (s.time - t).toNat then
        let s := s.modRemote tag fun x => { x with refused := none, sentAt := s.time }
        let s := s.incFld .LNK_G_STATUS_REFUSED 0 1
        match s.inject (s.message r.pkg r.ctx tag r.msg) with
        | some s => s
        | none => s.routeDrop.loseRemote r
      else s

/-- A request still waits for a link. -/
def State.unsent (s : State) (tag : Nat) : Bool :=
  s.links.any fun e => e.2.waiting.any fun w => decide (w.2.cls = .req) && decide (w.2.src = s.ownPkg) && decide (w.2.tag = tag)

def State.e2eNs (s : State) : Nat := 1000 * min 1000 (max 20 (s.fld .LNK_G_CTL_E2E_TIMEOUT_US 0))

/-- Table 10-7: a request without an answer is resent, up to 3 times, or lost; a write is never resent. -/
def e2eTimeout (tag : Nat) (s : State) : State :=
  match s.remotes.find? (fun r => decide (r.tag = tag)) with
  | none => s
  | some r =>
    if r.refused.isNone ∧ s.unsent tag = false ∧ s.e2eNs ≤ (s.time - r.sentAt).toNat then
      if r.kind = .write ∨ r.kind = .final ∨ 3 ≤ r.resends then s.loseRemote r
      else
        match s.inject (s.message r.pkg r.ctx tag r.msg) with
        | some s =>
          (s.modRemote tag fun x => { x with resends := x.resends + 1, sentAt := s.time }).incFld .LNK_G_STATUS_E2E_RESENDS 0 1
        | none => s.routeDrop.loseRemote r
    else s

/-- R195: FINALs of a stream held for 1 ms are discarded, its tracker is freed, and the issuer's command ends with 0x0402. -/
def finalTimeout (pkg ctx stream : Nat) (s : State) : State :=
  match s.findTracker pkg ctx stream with
  | none => s
  | some t =>
    if t.held.any fun h => decide (1000000 ≤ (s.time - h.since).toNat) then
      let s := { s with trackers := s.trackers.filter fun x => !(sameStream x pkg ctx stream) }
      t.held.foldl (fun s h => s.answer (s.message pkg ctx h.tag (.complete 0x0402 0))) s
    else s

end Sys2Proof.Machine
end

