-- ==== Sys2Proof/Machine/Outputs.lean ====
section
/-! DEFINITION. Whose accesses a command makes, and what its outputs are: after a cancel, a fault or a timeout their contents are
undefined (R8). -/

namespace Sys2Proof.Machine

/-- A command's accesses are made for its context, with the manager's rights where PF0 owns it (R509). -/
def Cmd.who (c : Cmd) : Who := ⟨c.ctx, c.panel, decide (c.func = 0), c.epoch⟩

/-- The die whose DMA engines serve a command: of ENGINES the first present one (Table 07-11), else the die of its panel's first tile
(log entry 38). -/
def State.dmaDie (s : State) (c : Cmd) : Nat :=
  let named := if hExpert c.raw ∧ hCls c.raw = 1 then bits (leAt c.raw 88 2) 11 0 else 0
  let t := ((tget s.panels c.panel).bind fun p => (maskBits p.tiles 48).find? s.tilePresent).map fun t => t / 4
  ((maskBits named 12).find? s.diePresent).getD (t.getD (((List.range 12).find? s.diePresent).getD 0))

/-- The DMA engines translate through their die's TLB (06.8). -/
def State.dmaIssuer (s : State) (c : Cmd) : Issuer := ⟨384 + s.dmaDie c, c.who, hTag c.raw, 2⟩

/-- The collective engines and the hub's own accesses translate through the hub's structures. -/
def Cmd.hubIssuer (c : Cmd) (source : Nat) : Issuer := ⟨396, c.who, hTag c.raw, source⟩

/-- Bytes at a virtual address of local memory as they stand, without any effect of the read; none where they cannot be read. -/
def State.glance (s : State) (iss : Issuer) (va n : Nat) : Option (List Byte) :=
  (chunks va n).foldl (fun (o : Option (List Byte)) (c : Nat × Nat) =>
    match o, (s.xlate iss .read c.1).2 with
    | some b, .ok x =>
      if s.isLocal x.pa then
        match (s.pread ((s.keyOf x.key).getD 0) (x.pa % 2 ^ 48) c.2).2 with
        | .ok d false => some (b ++ d)
        | _ => none
      else none
    | _, _ => none) (some [])

/-- The local sectors of [va, va + n) that the issuer may write receive undefined contents. -/
def State.spoilVa (s : State) (iss : Issuer) (va n : Nat) : State :=
  let (u, s) := s.fresh
  (chunks va n).foldl (fun s (c : Nat × Nat) =>
    match (s.xlate iss .write c.1).2 with
    | .error _ => s
    | .ok x =>
      if s.isLocal x.pa then
        (s.pwrite ((s.keyOf x.key).getD 0) (x.pa % 2 ^ 48) ((List.range c.2).map fun i => Config.undefByte u (c.1 - va + i))).1
      else s) s

/-! ### Memory movement (Tables 07-10, 07-11) -/

/-- Rows of a COPY: source, destination, length. -/
def copyRows (r : List Byte) : List (Nat × Nat × Nat) :=
  let rows := if hExpert r then max 1 (leAt r 64 4) else 1
  (List.range rows).map fun i =>
    ((leAt r 16 8 + i * leAt r 72 8) % 2 ^ 64, (leAt r 24 8 + i * leAt r 80 8) % 2 ^ 64, leAt r 32 8)

/-- The element size of a GATHER or SCATTER. -/
def elemBytes (r : List Byte) : Nat := leAt r 36 2

/-- The list entry of element j. -/
def listEntry (r : List Byte) (j : Nat) : Nat × Nat :=
  if bit (leAt r 43 1) 1 then ((leAt r 16 8 + 4 * j) % 2 ^ 64, 4) else ((leAt r 16 8 + 8 * j) % 2 ^ 64, 8)

/-- The scattered address that a list entry gives. -/
def scatteredAddr (r : List Byte) (entry : Nat) : Nat :=
  if bit (leAt r 43 1) 1 then (leAt r 56 8 + entry * elemBytes r) % 2 ^ 64 else entry

/-- Bytes of the GEMM's output rows, and from one row to the next (R68, R71). -/
def gemmRow (r : List Byte) : Nat := leAt r 52 4 * elemBits (bits (leAt r 60 2) 11 8) / 8

def gemmPitch (r : List Byte) : Nat := (if hExpert r then leAt r 72 4 else leAt r 52 4) * elemBits (bits (leAt r 60 2) 11 8) / 8

/-- The virtual ranges that a GEMM writes: the rows of C, its scale plane and its statistics. -/
def State.gemmOutputs (s : State) (c : Cmd) : List (Nat × Nat) :=
  let r := c.raw
  let m := leAt r 48 4
  let n := leAt r 52 4
  let rows := (List.range m).map fun i => ((leAt r 32 8 + i * gemmPitch r) % 2 ^ 64, gemmRow r)
  if leAt r 40 8 = 0 then rows
  else match s.glance (s.dmaIssuer c) (leAt r 40 8) 128 with
    | none => rows
    | some a => rows ++ [(leAt a 16 8, m * (n / 32) * scaleBytes (bits (leAt r 60 2) 11 8)),
        (leAt a 56 8, if bit (leAt r 63 1) 5 then m * ceilDiv n 256 * 16 else 0)]

/-- The virtual ranges that a command writes its outputs to, by its fields. What a kernel stored is known to nobody. -/
def State.outputs (s : State) (c : Cmd) : List (Nat × Nat) :=
  let r := c.raw
  match hOpcode r with
  | 0x0101 => (copyRows r).map fun x => (x.2.1, x.2.2)
  | 0x0102 => [(leAt r 24 8, leAt r 32 4 * elemBytes r)]
  | 0x0103 => (List.range (leAt r 32 4)).filterMap fun j =>
    (s.glance (s.dmaIssuer c) (listEntry r j).1 (listEntry r j).2).map fun b => (scatteredAddr r (leNat b), elemBytes r)
  | 0x0104 => [(leAt r 16 8, leAt r 24 8)]
  | 0x0105 => [(leAt r 24 8, leAt r 32 8)]
  | 0x0401 | 0x0404 => [(leAt r 24 8, leAt r 32 8)]
  | 0x0402 =>
    match s.glance (c.hubIssuer 5) (leAt r 40 8) 16 with
    | some b => [(leAt r 24 8, leAt r 32 8 / max 1 (leAt b 8 2))]
    | none => []
  | 0x0403 =>
    match s.glance (c.hubIssuer 5) (leAt r 40 8) 16 with
    | some b => [(leAt r 24 8, leAt r 32 8 * leAt b 8 2)]
    | none => []
  | 0x0201 => s.gemmOutputs c
  | _ => []

/-- R8: the contents of a command's outputs are undefined. -/
def State.spoilOutputs (s : State) (c : Cmd) : State :=
  let iss := if hCls c.raw = 4 then c.hubIssuer 5 else s.dmaIssuer c
  (s.outputs c).foldl (fun s x => s.spoilVa iss x.1 x.2) s

end Sys2Proof.Machine
end

