-- ==== Sys2Proof/Machine/LinkPort.lean ====
section
/-! DEFINITION. Link reception and retry (R321 to R323), forwarding (R329), training (10.3), laser inputs (R316), and the bringing
up and isolation of guest sites (10.9). -/

namespace Sys2Proof.Machine

/-! ### Going down and up -/

def State.bumpLink (s : State) (l i n : Nat) : State := s.bump (unitLink l) i n none

def State.setDownCause (s : State) (l c : Nat) : State :=
  if s.fld .LNK_STATUS_DOWN_CAUSE l = c then s
  else
    let s := s.setFld .LNK_STATUS_DOWN_CAUSE l c
    s.logFault 0x09 l 0 0xFFFF none 0 (s.reg .LNK_STATUS l)

/-- Pass on a message that arrived for another package (R329). -/
def State.forward (s : State) (m : LinkMsg) : State :=
  if 3 ≤ m.hop then s.routeDrop
  else match s.route m.dst m.cls (m.hop + 1) with
    | none => s.routeDrop
    | some k => (s.bumpLink k 8 (16 * m.slots)).enqueue k (msgRank m false) { m with hop := m.hop + 1 }

/-- A message of this package that had not left takes another link; a request that finds none is lost (R333). -/
def State.injectAgain (s : State) (m : LinkMsg) : State :=
  match s.inject m with
  | some s => s
  | none =>
    match s.remotes.find? (fun r => decide (m.cls = .req) && decide (r.tag = m.tag)) with
    | some r => s.routeDrop.loseRemote r
    | none => s.routeDrop

/-- R323: a link goes down: what its replay buffer held is lost, and what had not left takes another link. -/
def State.linkDown (s : State) (l cause : Nat) : State :=
  let w := (s.link l).waiting
  let s := s.setLink l { LinkSt.new with tryAt := s.time + 1000000000#64 }
  let s := (s.setFld .LNK_STATUS_STATE l 0).setFld .LNK_STATUS_VERSION l 0
  let s := s.setDownCause l cause
  w.foldl (fun s e => if e.2.src = s.ownPkg then s.injectAgain e.2
    else match s.route e.2.dst e.2.cls e.2.hop with
      | none => s.routeDrop
      | some k => s.enqueue k e.1 e.2) s


/-! ### Replays (R321, R322) -/

def State.replayAll (s : State) (l : Nat) : State :=
  let x := s.link l
  if x.unacked.isEmpty then s
  else
    let s := (s.setLink l { x with sameReplays := x.sameReplays + 1, progress := s.time }).incFld .LNK_ERR_REPLAYS l 1
    x.unacked.foldl (fun s f => s.emit (.linkMsg l f.msg)) (s.bumpLink l 11 1)

/-- REPLAY_TIMEOUT: 8 µs without ACK progress while flits are unacknowledged. -/
def replayTimeout (l : Nat) (s : State) : State :=
  if l < 32 ∧ (s.link l).unacked ≠ [] ∧ 8000 ≤ (s.time - (s.link l).progress).toNat ∧ 2 ≤ s.linkState l then s.replayAll l else s

/-- NAK_RESEND: 8 µs after the last NAK, while the expected flit has not arrived. -/
def nakResend (l : Nat) (s : State) : State :=
  match (s.link l).nak with
  | none => s
  | some t => if 8000 ≤ (s.time - t).toNat then (s.modLink l fun x => { x with nak := some s.time }).emit (.linkNak l) else s

/-- An ACK frees every flit up to and including its SEQ; one that frees nothing is no progress. -/
def State.takeAck (s : State) (l : Nat) (ack : BitVec 12) : State :=
  let x := s.link l
  if x.unacked.any fun f => decide (f.seq = ack) then
    s.setLink l { x with
      unacked := (x.unacked.dropWhile fun f => !(decide (f.seq = ack))).drop 1, progress := s.time, sameReplays := 0 }
  else s

def State.takeCredits (s : State) (l : Nat) (cs : List (LinkClass × Nat × Nat)) : State :=
  s.modLink l fun x => { x with
    credits := cs.foldl (fun t c => tupd t (4 * classNum c.1 + c.2.1) 0 fun n => min (classSlots c.1) (n + c.2.2)) x.credits }

/-! ### Training (R325 to R327) -/

/-- The package's compatibility class (R214): that of its SCC image. -/
def State.compat (s : State) : Nat := s.fld .SRV_STATUS_COMPAT 1

/-- CTL_TRAIN: the versions, classes and numbers are compared. -/
def ctlTrain (l pkg peerLink vlo vhi compat : Nat) (s : State) : State :=
  if l < 32 ∧ s.linkState l = 1 then
    let v := min 2 vhi
    let s := s.setFld .LNK_STATUS_PEER_PKG l pkg
    let s := s.setFld .LNK_STATUS_PEER_COMPAT l compat
    let s := s.setFld .LNK_STATUS_PEER_LINK l peerLink
    if v < max 1 vlo then s.linkDown l 6
    else
      let cause := if compat ≠ s.compat then 1 else if pkg = s.ownPkg then 2 else 0
      let s := s.setFld .LNK_STATUS_VERSION l v
      let s := s.setFld .LNK_STATUS_MGMT_CAUSE l cause
      let s := (s.setFld .LNK_STATUS_STATE l (if cause = 0 then 3 else 2)).setFld .LNK_STATUS_DOWN_CAUSE l 0
      let s := s.modLink l fun x => { x with lastGood := s.time }
      s.logFault 0x09 l 0 0xFFFF none 0 (s.reg .LNK_STATUS l)
  else s

def State.oeOn (s : State) (l : Nat) : Bool := s.domainOn (92 + l / 4)

/-- LINK_TRAIN: steps 1 to 3 of Table 10-5 came to an outcome. On success this package sends its TRAIN; in recovery the link
keeps its sequence numbers, replay buffer and credits, and both sides replay. -/
def linkTrain (l : Nat) (o : TrainOutcome) (s : State) : State :=
  if l < 32 ∧ s.fld .LNK_CTL_ADMIN_UP l = 1 ∧ s.oeOn l then
    if s.linkState l = 4 then
      match o with
      | .ok _ =>
        let s := s.setFld .LNK_STATUS_STATE l (if s.fld .LNK_STATUS_MGMT_CAUSE l = 0 then 3 else 2)
        (s.modLink l fun x => { x with recovery := none, lastGood := s.time }).replayAll l
      | .fail _ => s
    else if s.linkState l = 0 ∧ (s.link l).tryAt.toNat ≤ s.now then
      match o with
      | .ok _ =>
        let s := (s.setLink l LinkSt.new).setFld .LNK_STATUS_STATE l 1
        s.transmit l { s.message 0 0 0 (.train s.ownPkg l 1 2 s.compat) with hop := 0 }
      | .fail c =>
        let s := s.modLink l fun x => { x with tryAt := s.time + 1000000000#64 }
        s.setDownCause l c
    else s
  else s

/-- LNK_CTL.RETRAIN: the link goes down and may train at once. -/
def linkRetrain (l : Nat) (s : State) : State :=
  if l < 32 then (s.linkDown l 0).modLink l fun x => { x with tryAt := s.time } else s

/-- R323: the conditions of recovery. -/
def linkRecovery (l : Nat) (lockLoss : Bool) (s : State) : State :=
  let x := s.link l
  if l < 32 ∧ (s.linkState l = 2 ∨ s.linkState l = 3) ∧
      (lockLoss ∨ 16 ≤ x.sameReplays ∨ 100000 ≤ (s.time - x.lastGood).toNat) then
    ((s.setFld .LNK_STATUS_STATE l 4).incFld .LNK_ERR_RECOVERIES l 1).setLink l { x with recovery := some s.time, sameReplays := 0 }
  else s

def linkRecoveryFail (l : Nat) (s : State) : State :=
  match (s.link l).recovery with
  | none => s
  | some t => if s.linkState l = 4 ∧ 10000000 ≤ (s.time - t).toNat then s.linkDown l 5 else s

/-- R316: a laser input out of range for 10 µs takes the engine's four links down. -/
def laserInputLoss (e w durNs : Nat) (s : State) : State :=
  if e < 8 ∧ w < 4 ∧ 10000 ≤ durNs then
    (List.range 4).foldl (fun s i =>
      let l := 4 * e + i
      let s := s.setFld .LNK_OPTICS_LASER_OK l (setBits (s.fld .LNK_OPTICS_LASER_OK l) w w 0)
      if s.linkState l = 0 then s.setDownCause l 2 else s.linkDown l 2) s
  else s

/-- CTL_MGMT: an MCTP message for the MGC. -/
def ctlMgmt (l : Nat) (b : List Byte) (s : State) : State :=
  if l < 32 ∧ (s.linkState l = 2 ∨ s.linkState l = 3) then { s with mctp := s.mctp ++ [(l, b)] } else s

/-! ### Guest sites (10.9) -/

def State.sitePopulated (s : State) (site : Nat) : Bool := decide (site < 2) && decide (site < s.fuses.guestPop)

/-- R350, R345, R347: the site is isolated with a cause and powered off, and the event is logged. -/
def State.isolateGuest (s : State) (site cause : Nat) : State :=
  let s := (s.setFld .GST_STATUS_STATE site 5).setFld .GST_STATUS_CAUSE site cause
  let s := (s.setFld .GST_STATUS_RATE site 0).setFld .GST_STATUS_MODULES site 0
  let s := s.setDomain (100 + site) false
  let s := s.reclaimUcc (fun t => decide (t.owner = w16 (0x1332 + site))) (fun h => decide (h.owner = w16 (0x1332 + site)))
  s.logFault 0x0A site 0 (0x1332 + site) none 0 (s.reg .GST_STATUS site)

/-- GUEST_RETRAIN (R345): the site is powered and UCIe trains; the outcome's argument is 256 × modules + rate. -/
def guestRetrain (site : Nat) (o : TrainOutcome) (s : State) : State :=
  if s.sitePopulated site ∧ s.fld .GST_CTL_ENABLE site = 1 ∧ s.fld .GST_STATUS_STATE site ≠ 4 then
    let s := (s.setDomain (100 + site) true).setFld .GST_STATUS_CAUSE site 0
    match o with
    | .ok arg =>
      let s := (s.setFld .GST_STATUS_RATE site (arg % 256)).setFld .GST_STATUS_MODULES site (arg / 256)
      { s.setFld .GST_STATUS_STATE site 3 with guestUp := tput s.guestUp site s.time }
    | .fail c => s.isolateGuest site c
  else s

/-- The window fields of a capability block: base and size in 4 KiB units. -/
def capWin (b : List Byte) (i : Nat) : Nat × Nat :=
  let w := leAt b (16 + 8 * i) 8
  (bits w 27 0, bits w 55 28)

def winsOk (b : List Byte) (n : Nat) : Bool :=
  (List.range n).all fun i =>
    let (base, size) := capWin b i
    decide (size ≠ 0) && decide (base + size ≤ 0x10000000) && (List.range n).all fun j =>
      let (b2, s2) := capWin b j
      decide (i = j) || decide (base + size ≤ b2) || decide (b2 + s2 ≤ base)

/-- R347: why a capability block is not accepted; 0 where it is. -/
def capCause (b : List Byte) : Nat :=
  let n := bits (leAt b 14 1) 2 0
  let tgt := bits (leAt b 6 1) 4 0
  if b.length ≠ 64 ∨ leAt b 0 4 ≠ 0x4E474342 ∨ nzBits b 5 7 5 ∨ nzBits b 6 7 5 ∨ nzBits b 7 7 1 ∨ nzBits b 14 7 3 ∨ nonzero b 15 16 ∨
      ((List.range 4).any fun i => nonzero b (23 + 8 * i) (24 + 8 * i)) ∨ nonzero b 48 60 ∨ 4 < n ∨
      leAt b 60 4 ≠ crc32c (b.take 60) then 4
  else if leAt b 4 1 ≠ 1 then 5
  else if n ≠ 0 ∧ ¬ (bit tgt 0 ∧ bit tgt 1) then 6
  else if ¬ (winsOk b n) then 7
  else if 150 < leAt b 12 2 then 8
  else 0

/-- CTL_CAP: the block is checked, answered with RESULT 0, and the site comes up; or it is isolated. -/
def ctlCap (site : Nat) (b : List Byte) (s : State) : State :=
  if site < 2 ∧ s.fld .GST_STATUS_STATE site = 3 then
    match capCause b with
    | 0 =>
      let n := bits (leAt b 14 1) 2 0
      let s := s.setReg .GST_CAP site (leAt b 8 2 * 2 ^ 48 + leAt b 10 2 * 2 ^ 32 + leAt b 12 2 * 2 ^ 16 + bits (leAt b 5 1) 4 0 * 2 ^ 11 +
        bits (leAt b 6 1) 4 0 * 2 ^ 6 + n * 2 ^ 3 + bits (leAt b 7 1) 0 0)
      let s := (List.range 4).foldl (fun s i =>
        let (base, size) := if i < n then capWin b i else (0, 0)
        s.setReg .GST_WIN (4 * site + i) (size * 2 ^ 28 + base)) s
      (s.setFld .GST_STATUS_STATE site 4).emit (.guestData site b false)
    | c => s.isolateGuest site c
  else s

def guestCapTimeout (site : Nat) (s : State) : State :=
  if site < 2 ∧ s.fld .GST_STATUS_STATE site = 3 ∧ 10000000 ≤ (s.time - tgetD s.guestUp site 0).toNat then s.isolateGuest site 3 else s

/-- GUEST_ISOLATE: the link failed in service, or ENABLE is 0. -/
def guestIsolate (site : Nat) (linkFailed : Bool) (s : State) : State :=
  if site < 2 ∧ 2 ≤ s.fld .GST_STATUS_STATE site ∧ s.fld .GST_STATUS_STATE site ≤ 4 then
    if linkFailed then s.isolateGuest site 9
    else if s.fld .GST_CTL_ENABLE site = 0 then s.isolateGuest site 11 else s
  else s

def guestPowerExceeded (site watts durNs : Nat) (s : State) : State :=
  if site < 2 ∧ s.fld .GST_STATUS_STATE site = 4 ∧ 11 * s.fld .GST_CAP_POWER_W site < 10 * watts ∧ 1000000 ≤ durNs then
    s.isolateGuest site 10
  else s

end Sys2Proof.Machine
end

