-- ==== Sys2Proof/Machine/Functions.lean ====
section
/-! DEFINITION. Functions (12): creating and destroying virtual functions, mailboxes, and the function's part of registers. A
command's checks are a list of (fails, status) in the order of R242; its body answers the new state and the status. -/

namespace Sys2Proof.Machine

def Func.new : Func := Func.reset

/-- The panels that a function holds: every panel for the manager. -/
def State.fnPanels (s : State) (f : Nat) : Nat :=
  match tget s.funcs f with
  | none => 0
  | some g => g.panels

/-- Functions that hold a panel (R395, R397). -/
def State.holders (s : State) (p : Nat) : Nat := (s.funcs.filter fun e => bit e.2.panels p).length

/-- R397: a panel held by more than one function. -/
def State.sharedPanel (s : State) (p : Nat) : Bool := decide (1 < s.holders p)

/-- A range of `n` bytes from `a` lies in local HBM. -/
def inHbm (a n : Nat) : Bool := decide (a + n ≤ 0x10000000000)

/-! ### VF_CREATE, VF_DESTROY (R395, R398) -/

/-- Table 12-2: the reserved bits are zero (R4). -/
def vfCreateReserved (r : List Byte) : Bool :=
  nzBits r 17 7 1 || nzBits r 24 7 5 || nzBits r 25 7 4 || nzBits r 26 7 6 || nonzero r 27 28 ||
    decide (bits (leAt r 28 2) 15 11 ≠ 0) || decide (bits (leAt r 30 2) 15 13 ≠ 0) || nonzero r 48 64

def vfCreateChecks (s : State) (r : List Byte) : List (Bool × Nat) :=
  let vf := leAt r 16 1
  let panels := leAt r 18 6
  let m := bits (leAt r 24 1) 4 0
  let n := bits (leAt r 25 1) 3 0
  let mi := bits (leAt r 30 2) 12 0
  let ovf := leAt r 32 8
  let mbx := leAt r 40 8
  [(vfCreateReserved r, 0x0102), (decide (vf = 0) || decide (252 < vf), 0x0102), (decide (panels = 0), 0x0102),
   (decide (m < 12) || decide (20 < m), 0x0102), (decide (n < 4) || decide (12 < n), 0x0102), (decide (4096 < mi), 0x0102),
   (decide (ovf % (32 * 2 ^ m) ≠ 0) || !(inHbm ovf (32 * 2 ^ m)), 0x0102),
   (decide (mbx % 4096 ≠ 0) || !(inHbm mbx (128 * 2 ^ n)), 0x0102),
   (thas s.funcs vf, 0x0104), ((maskBits panels 48).any fun p => !(thas s.panels p), 0x0104),
   ((maskBits panels 48).any fun p => decide (8 ≤ s.holders p), 0x0104)]

/-- VF_CREATE zeroes the overflow area and the mailbox, under key slot 63, and the function's counters (R445). -/
def vfCreateDo (s : State) (r : List Byte) : State × Nat :=
  let vf := leAt r 16 1
  let m := bits (leAt r 24 1) 4 0
  let n := bits (leAt r 25 1) 3 0
  let mi := bits (leAt r 30 2) 12 0
  let ovf := leAt r 32 8
  let mbx := leAt r 40 8
  let g : Func := { Func.new with
    atsEn := bit (leAt r 17 1) 0, panels := leAt r 18 6, ovfLog2 := m, ovfAddr := ovf, mbxLog2 := n, mbxAddr := mbx,
    mbxVector := bits (leAt r 26 1) 5 0, pfVector := bits (leAt r 28 2) 10 0, maxInflight := if mi = 0 then 4096 else mi }
  let s := (s.writePhys s.hubWho 63 ovf (zeros (32 * 2 ^ m))).1
  let s := (s.writePhys s.hubWho 63 mbx (zeros (128 * 2 ^ n))).1
  let s := { s with
    funcs := tput s.funcs vf g, msix := s.msix.filter fun e => !(decide (e.1 / 4096 = vf)),
    msixPend := s.msixPend.filter fun k => !(decide (k / 2048 = vf)) }
  ((List.range 16).foldl (fun s i => s.resetReg .OBS_FN_CNT (16 * vf + i)) s, 0)

def vfDestroyChecks (s : State) (r : List Byte) : List (Bool × Nat) :=
  let vf := leAt r 16 1
  [(nonzero r 17 64, 0x0102), (decide (vf = 0) || decide (252 < vf), 0x0102),
   (s.queues.any (fun e => decide (e.2.func = vf)) || s.ctxs.any (fun e => decide (e.2.func = vf)), 0x0102),
   (!(thas s.funcs vf), 0x0104)]

def vfDestroyDo (s : State) (r : List Byte) : State × Nat := ({ s with funcs := tdel s.funcs (leAt r 16 1) }, 0)

/-! ### Mailboxes (R400) -/

/-- R400: a new producer or consumer index of a mailbox ring. `none`: the write has no effect or is refused. -/
inductive MbxVerdict where
  | same | bad | ok
  deriving DecidableEq, Repr

def mbxTail (n : Nat) (head tail v : W32) : MbxVerdict :=
  if v = tail then .same
  else if (v - head).toNat ≤ 2 ^ n ∧ (tail - head).toNat < (v - head).toNat then .ok else .bad

def mbxHead (head tail v : W32) : MbxVerdict :=
  if v = head then .same
  else if (v - head).toNat ≤ (tail - head).toNat then .ok else .bad

def State.mbxWrite (s : State) (f : Nat) (v : Func → MbxVerdict) (upd : Func → Func) (msg : Func → Option (Nat × Nat)) : State :=
  match tget s.funcs f with
  | none => s
  | some g =>
    match v g with
    | .same => s
    | .bad => s.modFunc f fun g => { g with mbxBad := true }
    | .ok =>
      let s := s.modFunc f upd
      match msg g with
      | some (a, b) => s.sendMsix a b
      | none => s

def State.m2tTail (s : State) (f : Nat) (v : W32) : State :=
  s.mbxWrite f (fun g => mbxTail g.mbxLog2 g.m2tHead g.m2tTail v) (fun g => { g with m2tTail := v })
    (fun g => some (f, g.mbxVector))

def State.m2tHead (s : State) (f : Nat) (v : W32) : State :=
  s.mbxWrite f (fun g => mbxHead g.m2tHead g.m2tTail v) (fun g => { g with m2tHead := v }) (fun _ => none)

def State.t2mTail (s : State) (f : Nat) (v : W32) : State :=
  s.mbxWrite f (fun g => mbxTail g.mbxLog2 g.t2mHead g.t2mTail v) (fun g => { g with t2mTail := v })
    (fun g => some (0, g.pfVector))

def State.t2mHead (s : State) (f : Nat) (v : W32) : State :=
  s.mbxWrite f (fun g => mbxHead g.t2mHead g.t2mTail v) (fun g => { g with t2mHead := v }) (fun _ => none)

/-- Commands in flight of a function (`MGT_FN_STATUS.INFLIGHT`). -/
def State.fnInflight (s : State) (f : Nat) : Nat := (s.cmds.filter fun e => decide (e.2.func = f) && e.2.row.isNone).length

/-! ### QUEUE_CREATE, QUEUE_DESTROY, CTX_CREATE (R222 to R224) -/

def queueTypeOf : Nat → QType
  | 0 => .cmd | 1 => .cpl | 2 => .seq | _ => .evt

/-- R216, Table 01-12: the ring lies in HBM or in the host window, aligned to the larger of 4 KiB and its size. -/
def ringOk (typ k a : Nat) : Bool :=
  let n := (queueTypeOf typ).entryBytes * 2 ^ k
  decide (a % max 4096 n = 0) &&
    (decide (a + n ≤ 0x10000000000) || (decide (0x900000000000 ≤ a) && decide (a + n ≤ 0xA00000000000)))

def queueCreateReserved (r : List Byte) : Bool :=
  decide (bits (leAt r 16 4) 31 18 ≠ 0) || nzBits r 22 7 7 || nzBits r 23 7 6 || decide (bits (leAt r 32 2) 15 12 ≠ 0) ||
    decide (bits (leAt r 34 4) 31 18 ≠ 0) || nzBits r 41 7 4 || nonzero r 44 64

def vectorLimit (func : Nat) : Nat := if func = 0 then 2048 else 64

def State.isQueue (s : State) (q : Nat) (t : QType) (func : Nat) : Bool :=
  match s.queue q with
  | none => false
  | some x => decide (x.typ = t) && decide (x.func = func)

def queueCreateChecks (s : State) (r : List Byte) : List (Bool × Nat) :=
  let q := bits (leAt r 16 4) 17 0
  let b20 := leAt r 20 1
  let typ := bits b20 1 0
  let k := bits b20 6 2
  let lc := bit b20 7
  let func := leAt r 21 1
  let panel := bits (leAt r 22 1) 5 0
  let any := bit (leAt r 22 1) 6
  let key := bits (leAt r 23 1) 5 0
  let ctx := bits (leAt r 32 2) 11 0
  let cpl := bits (leAt r 34 4) 17 0
  let vec := leAt r 38 2
  let sub := decide (typ = 0) || decide (typ = 2)
  let c := tget s.ctxs ctx
  let frozen := match tget s.funcs func with
    | some g => decide (2 ≤ g.state)
    | none => false
  [(queueCreateReserved r, 0x0102), (decide (k < 4) || decide (16 < k), 0x0102), (!(ringOk typ k (leAt r 24 8)), 0x0102),
   (decide (252 < func), 0x0102), (decide (47 < panel), 0x0102), (!(slotExists key), 0x0102),
   (lc && decide (typ ≠ 0), 0x0102), (any && (decide (typ ≠ 0) || decide (func ≠ 0)), 0x0102),
   (sub && !(s.isQueue cpl .cpl func), 0x0102), (!sub && decide (vectorLimit func ≤ vec), 0x0102),
   (sub && !any && (match c with
     | some x => decide (x.panel ≠ panel) || decide (x.func ≠ func)
     | none => false), 0x0102),
   (lc && decide (64 ≤ (s.queues.filter fun e => e.2.lc && decide (e.2.panel = panel)).length), 0x0102),
   ((s.queue q).isSome, 0x0104), (!(thas s.funcs func), 0x0104), (!(thas s.panels panel), 0x0104),
   (sub && !any && c.isNone, 0x0104), (frozen, 0x0104)]

def queueCreateDo (s : State) (r : List Byte) : State × Nat :=
  let b20 := leAt r 20 1
  let x : Queue := {
    typ := queueTypeOf (bits b20 1 0), k := bits b20 6 2, lc := bit b20 7, anyCtx := bit (leAt r 22 1) 6,
    func := leAt r 21 1, panel := bits (leAt r 22 1) 5 0, key := bits (leAt r 23 1) 5 0, ring := leAt r 24 8,
    ctx := bits (leAt r 32 2) 11 0, cpl := bits (leAt r 34 4) 17 0, vector := leAt r 38 2, coalCount := leAt r 40 1,
    coalUs := leAt r 42 2, weight := bits (leAt r 41 1) 3 0, head := 0, tail := 0, armed := false, held := false,
    faulted := false, dbBad := false, lost := false, overflowed := false, evtLost := false, fetched := 0, completed := 0,
    lastTime := 0, sinceArm := 0, firstAt := none, subs := [], dups := [] }
  (s.setQueue (bits (leAt r 16 4) 17 0) x, 0)

/-- R223: who still names a CPL or EVT queue. -/
def State.queueNamed (s : State) (q : Nat) : Bool :=
  s.queues.any (fun e => (decide (e.2.typ = .cmd) || decide (e.2.typ = .seq)) && decide (e.2.cpl = q)) ||
    s.ctxs.any (fun e => decide (e.2.evtQ = q))

def queueDestroyChecks (s : State) (r : List Byte) : List (Bool × Nat) :=
  let q := bits (leAt r 16 4) 17 0
  [(decide (bits (leAt r 16 4) 31 18 ≠ 0) || nonzero r 20 64, 0x0102),
   (match s.queue q with
    | some x => (decide (x.typ = .cpl) || decide (x.typ = .evt)) && s.queueNamed q
    | none => false, 0x0102),
   ((s.queue q).isNone, 0x0104)]

def ctxCreateReserved (r : List Byte) : Bool :=
  decide (bits (leAt r 16 2) 15 12 ≠ 0) || nzBits r 18 7 6 || decide (bits (leAt r 32 4) 31 18 ≠ 0) || nzBits r 36 7 1 ||
    nonzero r 38 64

def ctxCreateChecks (s : State) (r : List Byte) : List (Bool × Nat) :=
  let ctx := bits (leAt r 16 2) 11 0
  let panel := bits (leAt r 18 1) 5 0
  let func := leAt r 19 1
  let root := leAt r 20 8
  let frozen := match tget s.funcs func with
    | some g => decide (2 ≤ g.state)
    | none => false
  [(ctxCreateReserved r, 0x0102), (decide (47 < panel), 0x0102), (decide (252 < func), 0x0102),
   (decide (root % 16384 ≠ 0) || decide (2 ^ 48 ≤ root), 0x0102),
   (!(s.isQueue (bits (leAt r 32 4) 17 0) .evt func), 0x0102),
   (thas s.ctxs ctx, 0x0104), (!(thas s.panels panel), 0x0104), (!(thas s.funcs func), 0x0104), (frozen, 0x0104)]

def ctxCreateDo (s : State) (r : List Byte) : State × Nat :=
  let ctx := bits (leAt r 16 2) 11 0
  let mi := leAt r 37 1
  let c : Ctx := {
    panel := bits (leAt r 18 1) 5 0, func := leAt r 19 1, troot := some (leAt r 20 8),
    kctx := if bit (leAt r 36 1) 0 then w32 (leAt r 28 4) else w32 ctx, evtQ := bits (leAt r 32 4) 17 0,
    maxInflight := if mi = 0 then 256 else mi, decls := [], gfence := 0 }
  ({ s with ctxs := tput s.ctxs ctx c }, 0)

/-- R224: a context that a CMD or SEQ queue still names cannot be destroyed. -/
def ctxDestroyChecks (s : State) (r : List Byte) : List (Bool × Nat) :=
  let ctx := bits (leAt r 16 2) 11 0
  [(decide (bits (leAt r 16 2) 15 12 ≠ 0) || nonzero r 18 64, 0x0102),
   (s.queues.any (fun e => (decide (e.2.typ = .cmd) || decide (e.2.typ = .seq)) && !e.2.anyCtx && decide (e.2.ctx = ctx)),
    0x0102),
   (!(thas s.ctxs ctx), 0x0104)]

/-- R240: WORK_DECLARE. -/
def workDeclareChecks (s : State) (r : List Byte) : List (Bool × Nat) :=
  let rm := bit (leAt r 18 1) 0
  [(nzBits r 18 7 1 || nonzero r 19 20 || nonzero r 32 64, 0x0102),
   (match tget s.ctxs (hCtx r) with
    | some c => !rm && decide (256 ≤ c.decls.length) && !(thas c.decls (leAt r 16 2))
    | none => false, 0x0104)]

def workDeclareDo (s : State) (r : List Byte) : State × Nat :=
  let d := if bit (leAt r 18 1) 0 then (fun (c : Ctx) => { c with decls := tdel c.decls (leAt r 16 2) })
    else (fun (c : Ctx) => { c with decls := tput c.decls (leAt r 16 2) (leAt r 20 4, leAt r 24 8) })
  ({ s with ctxs := tmod s.ctxs (hCtx r) d }, 0)

end Sys2Proof.Machine
end

