-- ==== Sys2Proof/Machine/PowerCalc.lean ====
section
/-! DEFINITION. The arithmetic of gauges, voltages and reservations (11.3, 11.5, Table 02-11). -/

namespace Sys2Proof.Machine

/-- Table 02-11, interpolated: the array voltage for a gauge, in 1/60 mV. -/
def volt60 (g : Nat) : Nat :=
  if g ≤ 1300 then 33000 + 12 * (g - 800) else if g ≤ 1900 then 39000 + 10 * (g - 1300) else 45000 + 15 * (g - 1900)

/-- The slowest-corner voltage of R374, in 1/60 mV. -/
def voltSc60 (g : Nat) : Nat := volt60 g + 1800

/-- R363: RES_W of n tiles at a reserved gauge with W GB/s; 0 without a reservation (log entry 20). -/
def resW (n g w : Nat) : Nat :=
  if g = 0 then 0
  else
    let d := 45000 * 45000
    ceilDiv (100 * (n * 262144 * g * 113 * (voltSc60 g * voltSc60 g) * 1000 + 12 * w * d * 1000000000)) (89 * d * 1000000000000)

/-- The gauges that can be granted, highest first. -/
def gauges : List Nat := (List.range 131).map fun i => 2100 - 10 * i

def State.lcTileCount (s : State) (p : Nat) : Nat := (maskBits (s.cfg.panel p).lcTiles 48).length

/-- The compute dies that hold tiles of a panel. -/
def State.panelDies (s : State) (p : Nat) : List Nat :=
  match tget s.panels p with
  | none => []
  | some x => (List.range 12).filter fun n => decide (bits x.tiles (4 * n + 3) (4 * n) ≠ 0)

/-! ### Caps on a die's gauge (R377, Table 11-4; log entry 22): keys 0-11 a compute die's own, 40-51 the same dies for their base die,
60-71 droops; then memory and link shares: 100 + q, 120 + h and 140. -/

def State.heatCap (s : State) (k d : Nat) : Nat := tgetD s.pwr.heat k d

def State.dieCap (s : State) (n : Nat) : Nat := min (s.heatCap n 2100) (min (s.heatCap (40 + n) 2100) (s.heatCap (60 + n) 2100))

/-- The highest gauge that the caps of its dies leave a panel, a multiple of 10 and never below 800. -/
def State.panelCap (s : State) (p : Nat) : Nat := max 800 (((s.panelDies p).map fun n => s.dieCap n).foldl min 2100 / 10 * 10)

/-- R364: the panel's HBM bandwidth while CUT_W of its RES_W is withheld: lowered by the same fraction (log entry 21). -/
def State.cutBand (s : State) (p : Nat) : Nat :=
  let r := s.fld .PWR_PANEL_RES_RES_W p
  (s.cfg.panel p).w * (r - s.fld .PWR_PANEL_RES_CUT_W p) / max 1 r

/-- The gauge of a panel's LC tiles: the reserved one, or while a part of its reservation is withheld the highest from 800 up whose
reservation fits what remains (R364). -/
def State.lcGauge (s : State) (p : Nat) : Nat :=
  let g := s.fld .PWR_PANEL_RESERVED_G p
  let cut := s.fld .PWR_PANEL_RES_CUT_W p
  if cut = 0 then g
  else
    let left := s.fld .PWR_PANEL_RES_RES_W p - cut
    ((gauges.find? fun x => decide (x ≤ min g (s.panelCap p)) && decide (resW (s.lcTileCount p) x (s.cutBand p) ≤ left)).getD 800)

/-- The HBM bandwidth of a panel's LC traffic: at gauge 800 any further cut is taken from it alone (R364). -/
def State.lcBand (s : State) (p : Nat) : Nat :=
  if s.fld .PWR_PANEL_RES_CUT_W p = 0 then (s.cfg.panel p).w
  else
    let left := s.fld .PWR_PANEL_RES_RES_W p - s.fld .PWR_PANEL_RES_CUT_W p
    min (s.cutBand p) ((left - resW (s.lcTileCount p) 800 0) * 89 * 1000 / 1200)

/-- The part of a reserved gauge that the caps of its dies take away, as watts of RES_W: a thermal action or a droop that lowers a
reserved gauge follows R364 (11.8, R377). -/
def State.capCut (s : State) (p : Nat) : Nat :=
  s.fld .PWR_PANEL_RES_RES_W p - resW (s.lcTileCount p) (min (s.fld .PWR_PANEL_RESERVED_G p) (s.panelCap p)) (s.cfg.panel p).w

/-! ### Dies and panels -/

def State.diePanels (s : State) (n : Nat) : List Nat :=
  (s.panels.filter fun e => decide (bits e.2.tiles (4 * n + 3) (4 * n) ≠ 0)).map fun e => e.1

/-- The highest reserved gauge among a die's panels (R374), 0 for none. -/
def State.dieReserved (s : State) (n : Nat) : Nat := ((s.diePanels n).map fun p => s.lcGauge p).foldl max 0

/-- The gauge that a die's panels may not be paced below (Table 11-1). -/
def State.panelFloor (s : State) (p : Nat) : Nat := ((s.panelDies p).map fun n => s.dieReserved n).foldl max 800

/-- Σ RES_W (R363). -/
def State.lcSum (s : State) : Nat := (s.panels.map fun e => s.fld .PWR_PANEL_RES_RES_W e.1).foldl (· + ·) 0

/-- R363: compute the panels' reservations afresh. -/
def State.updateReservations (s : State) : State :=
  let s := s.panels.foldl (fun s e =>
    s.setFld .PWR_PANEL_RES_RES_W e.1 (resW (s.lcTileCount e.1) (s.fld .PWR_PANEL_RESERVED_G e.1) (s.cfg.panel e.1).w)) s
  s.setFld .PWR_SPLIT_LC_SUM_W 0 (sat 16 s.lcSum)

/-- PWR_BASE + LC_SUM_W (R368). -/
def State.lcFloor (s : State) : Nat := s.fld .PWR_SPLIT_BASE_W 0 + s.lcSum

/-- The user calibration byte of an accepted configuration image, as a signed offset (Table 15-4). -/
def State.calByte (s : State) (i : Nat) : Int := signed 8 (leAt s.flash.inUse i 1)

/-- R374: a die's set voltage in mV, with VOLT_MARGIN (Table 15-4). -/
def State.dieVolt (s : State) (n g : Nat) : Nat :=
  let v := max (volt60 g) (if s.dieReserved n = 0 then 0 else voltSc60 (s.dieReserved n))
  v / 60 + min 20 (s.calByte (240 + n)).toNat

end Sys2Proof.Machine
end

