-- ==== Sys2Proof/Machine/Fetch.lean ====
section
/-! DEFINITION. Fetch and admission (07.11 to 07.13): the operation table, limits in flight, the deadline promise, and one
fetch by the SCC. The checks of each operation's own fields come in as arguments, from Checks.lean. -/

namespace Sys2Proof.Machine

/-! ### The operations (Table 07-9) -/

/-- An operation's forms: whether it has an expert form, whether LC may be set (0 never, 1 always, 2 in the expert form), and
whether it is privileged. -/
structure OpInfo where
  expert : Bool
  lc : Nat
  priv : Bool
  deriving DecidableEq, Repr

/-- Table 07-9, by 256 × CLASS + OP; none for an operation that does not exist. -/
def opInfo (n : Nat) : Option OpInfo :=
  let op := n % 256
  match n / 256 with
  | 1 => if 1 ≤ op ∧ op ≤ 5 then some ⟨true, 1, false⟩ else none
  | 2 => if op = 1 then some ⟨true, 1, false⟩ else if op = 2 then some ⟨false, 0, false⟩ else none
  | 3 => if op = 1 then some ⟨true, 2, false⟩ else if op = 2 ∨ op = 3 then some ⟨false, 0, false⟩ else none
  | 4 => if 1 ≤ op ∧ op ≤ 4 then some ⟨true, 0, false⟩ else if op = 5 then some ⟨false, 0, false⟩ else none
  | 5 => if op = 1 then some ⟨true, 0, false⟩ else if 2 ≤ op ∧ op ≤ 5 then some ⟨false, 0, false⟩ else none
  | 6 => if op = 3 then some ⟨false, 0, false⟩ else if 1 ≤ op ∧ op ≤ 5 then some ⟨false, 1, false⟩ else none
  | 7 => if 1 ≤ op ∧ op ≤ 8 then some ⟨false, 0, true⟩ else none
  | 8 => if 1 ≤ op ∧ op ≤ 14 then some ⟨false, 0, true⟩ else none
  | 9 => if 1 ≤ op ∧ op ≤ 3 then some ⟨false, 0, true⟩ else if op = 4 ∨ op = 5 then some ⟨false, 0, false⟩ else none
  | 10 => if op = 1 then some ⟨false, 1, false⟩ else if op = 2 then some ⟨false, 0, false⟩ else none
  | 15 => if 1 ≤ op ∧ op ≤ 6 then some ⟨false, 0, true⟩ else none
  | _ => none

/-- R225, R233, the rule on LC and global fences, and R217: the header's own range checks. -/
def headerRangeBad (i : OpInfo) (r : List Byte) (index : Nat) : Bool :=
  hReservedBad r || (hExpert r && (!i.expert || decide (index % 2 = 1))) ||
    (hLc r && (decide (i.lc = 0) || (decide (i.lc = 2) && !(hExpert r)) || decide (hFenceBefore r = 3) ||
      decide (hFenceAfter r = 3) || decide (hDeadline r = 0))) ||
    (!(hLc r) && decide (hDeadline r ≠ 0))

/-- R227: the context is one of the queue's panel and function, and the queue's own unless ANY_CTX is set. -/
def State.contextOk (s : State) (x : Queue) (ctx : Nat) : Bool :=
  match tget s.ctxs ctx with
  | none => false
  | some c => if x.anyCtx then decide (c.func = x.func) else decide (ctx = x.ctx) && decide (c.panel = x.panel) && decide (c.func = x.func)

/-! ### Limits in flight (R243) -/

def State.inFlight (s : State) : List (Nat × Cmd) := s.cmds.filter fun e => e.2.row.isNone

/-- A place is free for one more command. -/
def State.placeFree (s : State) (x : Queue) (ctx : Nat) (lc : Bool) : Bool :=
  let f := s.inFlight
  let be := (f.filter fun e => !(hLc e.2.raw)).length
  decide (f.length < 4096) && (lc || decide (be < 3072)) &&
    (match tget s.ctxs ctx with
      | some c => decide ((f.filter fun e => decide (e.2.ctx = ctx)).length < c.maxInflight)
      | none => true) &&
    (match tget s.funcs x.func with
      | some g => decide ((f.filter fun e => decide (e.2.func = x.func)).length < g.maxInflight)
      | none => true)

/-! ### The deadline promise (R244) -/

/-- The panel holds an LC reservation (R285). -/
def State.lcReserved (s : State) (p : Nat) : Bool :=
  let c := s.cfg.panel p
  thas s.panels p && decide (c.lcTiles ≠ 0) && decide (c.w ≠ 0) && decide (s.fld .PWR_PANEL_RESERVED_G p ≠ 0)

/-- D of R244 in ns: the LC dispatch bound of R299. -/
def State.dispatchBound (s : State) (p : Nat) (tiles : List Nat) : Nat :=
  if (s.cfg.panel p).lend ∧ tiles ≠ [] then 80000 else if s.sharedPanel p then 5000 else 2000

/-- t_wc in ns, from the tiles the command may use, its declared beats and its declared bytes (R244, R245), at the panel's
reserved gauge and bandwidth, or the cut ones (R364). t_busy is what admissions recorded against the tiles (log entry 12). -/
def State.worstCase (s : State) (q p : Nat) (r : List Byte) (tiles : List Nat) (beats bytes : Nat) : Frac :=
  let earlier := if hFenceBefore r = 0 then [] else
    s.cmds.filterMap fun e => if e.2.q = q ∧ e.2.row.isNone then e.2.twc else none
  let onTiles := tiles.map fun t => (s.tile t).twc
  let busy := (onTiles ++ earlier).foldl Frac.max (Frac.ofNat 0)
  let start := Frac.max (Frac.ofNat (s.now + s.dispatchBound p tiles)) busy
  ((start.add ⟨1000 * beats, max 1 (s.lcGauge p)⟩).add ⟨bytes, max 1 (s.lcBand p)⟩).add
    (Frac.ofNat 10000)

/-- The worst-case time of an LC command, none where the promise cannot be given. -/
def State.lcFit (s : State) (q p : Nat) (r : List Byte) (tSub : W64) (work : List Nat × Nat × Nat) : Option Frac :=
  let behindBe := decide (hFenceBefore r ≠ 0) && s.cmds.any fun e => decide (e.2.q = q) && e.2.row.isNone && !(hLc e.2.raw)
  let t := s.worstCase q p r work.1 work.2.1 work.2.2
  if behindBe ∨ s.fld .DBG_CTL_LC_HALT_EN 0 = 1 ∨ ¬ (s.lcReserved p) ∨ ¬ (t.le (Frac.ofNat (tSub.toNat + 1000 * hDeadline r))) then none else some t

/-! ### Fetch (R241, R242, R247) -/

def Cmd.opcode (c : Cmd) : Nat := hOpcode c.raw

/-- A FW_STAGE is in progress (R477). -/
def State.stageBusy (s : State) : Bool :=
  s.cmds.any fun e => decide (e.2.opcode = 0x0F05) && decide (e.2.phase = .running) && decide (e.2.step ≠ 0)

/-- A WAIT or FENCE in flight holds the queue (R238), and so does a HOLD dump that is not written (R454). -/
def State.queueBarred (s : State) (q : Nat) : Bool :=
  s.dumps.any (fun e => decide (e.2.holdQ = some q)) || s.cmds.any fun e => decide (e.2.q = q) && e.2.row.isNone && (decide (e.2.opcode = 0x0601) || decide (e.2.opcode = 0x0603))

/-- The package takes commands: cast-on set READY, no bind-off runs, and the SCC works. -/
def State.fetching (s : State) : Bool :=
  decide (s.fld .GLB_STATUS_READY 0 = 1) && decide (s.fld .SRV_BIND_OFF_BUSY 0 = 0) && decide (s.fld .SRV_BIND_OFF_DONE 0 = 0)

/-- The function is not frozen (R405). -/
def State.funcLive (s : State) (f : Nat) : Bool :=
  match tget s.funcs f with
  | some g => decide (g.state < 2) && !g.flrBusy
  | none => false

/-- The queue has an entry that may be fetched (R229, R232, R238). -/
def State.eligible (s : State) (q : Nat) (x : Queue) : Bool :=
  (decide (x.typ = .cmd) || decide (x.typ = .seq)) && !x.faulted && decide (x.head ≠ x.tail) && s.funcLive x.func &&
    !(s.queueBarred q) && (match s.queue x.cpl with
      | some c => !c.overflowed
      | none => true)

/-- An LC_QUEUE of the panel waits to be served before any other queue (R241). -/
def State.lcWaits (s : State) (p : Nat) : Bool :=
  s.queues.any fun e => e.2.lc && decide (e.2.panel = p) && !e.2.held && s.eligible e.1 e.2

/-- When the doorbell write that covers an entry reached the hub (R226). -/
def Queue.subTime (x : Queue) (index : W32) (now : W64) : W64 :=
  match x.subs.find? (fun e => decide (0 < (e.1 - index).toNat) && decide ((e.1 - index).toNat < 2 ^ 31)) with
  | some e => e.2
  | none => now

/-- Pass `n` entries: HEAD advances, and doorbell times behind it are forgotten. -/
def Queue.pass (x : Queue) (n : Nat) : Queue :=
  let h := x.head + BitVec.ofNat 32 n
  { x with
    head := h, held := false,
    subs := x.subs.filter fun e => decide (0 < (e.1 - h).toNat) && decide ((e.1 - h).toNat < 2 ^ 31) }

/-- The bytes of the command at HEAD: one entry, or two for an expert command; none where a read fails; the number of entries,
or 0 while the second is not yet covered by a doorbell. -/
def State.headEntry (s : State) (x : Queue) : State × Option (List Byte) × Nat :=
  match s.readPhys s.hubWho x.key (x.slotAddr x.head) 64 with
  | (s, none) => (s, none, 1)
  | (s, some b) =>
    if hExpert b ∧ x.typ = .cmd then
      if x.count < 2 then (s, some b, 0)
      else match s.readPhys s.hubWho x.key (x.slotAddr (x.head + 1)) 64 with
        | (s, none) => (s, none, 2)
        | (s, some c) => (s, some (b ++ c), 2)
    else (s, some b, 1)

/-- R247: a duplicate of a remembered TAG receives a copy of its record, now or after the original's. -/
def State.duplicate (s : State) (q : Nat) (x : Queue) (ctx : Nat) (d : Dup) : State :=
  match d.record with
  | some r =>
    (s.setQueue q { x with completed := x.completed + 1, lastTime := s.time }).writeRecord x.cpl ctx r
  | none => s.setQueue q { x with dups := x.dups.map fun e => if e.tag = d.tag then { e with copies := e.copies + 1 } else e }

/-- A rejected command receives its record and has no effect. -/
def State.reject (s : State) (q func : Nat) (r : List Byte) (status : Nat) : State :=
  let p := ((tget s.ctxs (hCtx r)).map fun c => c.panel).getD (((s.queue q).map fun x => x.panel).getD 63)
  ((s.bump unitSched 11 1 (some ⟨hCtx r, p, hLayer r, hOperator r⟩)).bumpFn func 1 1).finishRecord q (hCtx r) (hTag r) (record (hTag r) status q 0 0 s.time s.time)

/-- The panel of a command: its context's. -/
def State.cmdPanel (s : State) (x : Queue) (ctx : Nat) : Nat := ((tget s.ctxs ctx).map fun c => c.panel).getD x.panel

/-- R244: t_wc is recorded against every tile that the command may use. -/
def State.noteBusy (s : State) (tiles : List Nat) : Option Frac → State
  | none => s
  | some f => tiles.foldl (fun s t => s.modTile t fun y => { y with twc := y.twc.max f }) s

/-- R242: admission. -/
def State.takeIn (s : State) (q : Nat) (x : Queue) (r : List Byte) (tSub : W64) (tiles : List Nat) (twc : Option Frac) : State :=
  let ctx := hCtx r
  let c : Cmd := {
    id := s.nextCmd, q := q, row := none, raw := r, func := x.func,
    panel := s.cmdPanel x ctx,
    ctx := ctx, epoch := s.committed, tSub := tSub, tAdm := s.time, tStart := s.time, twc := twc, phase := .waiting, status := 0,
    vaddr := 0, beats := 0, energy := 0, tiles := maskOf tiles, step := 0, spans := 0, fenceB := hFenceBefore r,
    fenceA := hFenceAfter r, landed := [] }
  let a : Option Attr := some ⟨ctx, c.panel, hLayer r, hOperator r⟩
  let s := s.bump unitSched (if hCls r = 15 then 10 else hCls r - 1) 1 a
  let s := if hLc r then s.bump unitSched 12 1 a else s
  { s with cmds := tput s.cmds c.id c, nextCmd := s.nextCmd + 1 }.noteBusy tiles twc

/-- One fetch from a CMD queue. `status`: the operation's own checks, steps 4 to 6 of R242. `work`: tiles, beats and bytes of
an LC command. -/
def State.fetchOne (s : State) (status : State → Queue → List Byte → Nat) (work : State → List Byte → List Nat × Nat × Nat)
    (q : Nat) : State :=
  match s.queue q with
  | none => s
  | some x =>
    if x.typ ≠ .cmd ∨ ¬ s.fetching ∨ ¬ (s.eligible q x) ∨ (¬ x.lc ∧ s.lcWaits x.panel) then s
    else
      match s.headEntry x with
      | (s, none, _) => s.faultQueue q
      | (s, some _, 0) => s
      | (s, some r, n) =>
        let tag := hTag r
        let tSub := x.subTime x.head s.time
        let passed : Queue := { x.pass n with fetched := x.fetched + 1 }
        match x.dups.find? (fun d => decide (d.tag = w32 tag)) with
        | some d => s.duplicate q passed (hCtx r) d
        | none =>
          let fresh : Queue := { passed with dups := dupAdd passed.dups tag none }
          let turnAway (st : Nat) : State := (s.setQueue q fresh).reject q x.func r st
          match opInfo (hOpcode r) with
          | none => turnAway 0x0101
          | some i =>
            if i.priv ∧ x.func ≠ 0 then turnAway 0x0105
            else if ¬ (s.contextOk x (hCtx r)) then turnAway 0x0106
            else if headerRangeBad i r x.head.toNat then turnAway 0x0102
            else
              let st := status s x r
              let w := if hLc r then work s r else ([], 0, 0)
              let fit := if hLc r then s.lcFit q (s.cmdPanel x (hCtx r)) r tSub w else none
              if st ≠ 0 then turnAway st
              else if hLc r ∧ fit.isNone then turnAway 0x0103
              else if ¬ (s.placeFree x (hCtx r) (hLc r)) then s.setQueue q { x with held := true }
              else (s.setQueue q fresh).takeIn q x r tSub w.1 fit

end Sys2Proof.Machine
end

