-- ==== Sys2Proof/Machine/Tiles.lean ====
section
/-! DEFINITION. Tiles and power domains: write-back of a core's L1 (03.6), clearing and re-binding a tile (Tables 09-8, 12),
switching domains and what becomes of their contents (01.7), and activation slots on tiles (R304). -/

namespace Sys2Proof.Machine

/-- The cores of tile t: GC(8a + c) of its die, as 32 × die + core. -/
def tileCores (t : Nat) : List Nat := (List.range 8).map fun i => 32 * (t / 4) + 8 * (t % 4) + i

def coreTile (k : Nat) : Nat := 4 * (k / 32) + k % 32 / 8

/-! ### L1 write-back (R99, R101, R105) -/

/-- Write a line's dirty bytes to memory under its key slot. Bytes that memory does not take are lost and logged. -/
def State.writeBackLine (s : State) (l : L1Line) : State :=
  if l.dirty = 0 then s
  else
    let key := (s.keyOf l.key).getD 0
    match s.writeMasked key (localLine l.line) l.dirty l.bytes with
    | (s, 0) => s
    | (s, st) => s.logFault 0x05 ((List.range 4).foldl (fun m i => if bits l.dirty (32 * i + 31) (32 * i) = 0 then m else m + 2 ^ i) 0)
        st 0xFFFF none 0 (128 * l.line)

/-- Drain the eviction buffer and write back every dirty byte; the lines stay, clean. -/
def State.cleanCore (s : State) (k : Nat) : State :=
  let c := s.coreOf k
  let s := (c.evb ++ c.l1).foldl (fun s l => s.writeBackLine l) s
  s.modCore k fun c => { c with evb := [], l1 := c.l1.map fun l => { l with dirty := 0 } }

/-- L1INV.ALL: write back and invalidate every line that is not locked; fills in flight are not installed (R106, R107). -/
def State.invCore (s : State) (k : Nat) : State :=
  (s.cleanCore k).modCore k fun c => { c with
    l1 := c.l1.filter (fun l => l.locked), fills := c.fills.map fun f => { f with covered := true } }

def Core.unlock (c : Core) : Core :=
  { c with l1 := c.l1.filter (fun l => !l.locked), lockN := 0 }

/-! ### Tiles -/

def State.clearScratch (s : State) (t : Nat) : State :=
  { s with mem := s.mem.clearWindow (scratchBase t) (scratchBase t + 0x2000000) }

/-- The tile's register files and resident work are gone. -/
def State.dropCores (s : State) (ks : List Nat) : State := ks.foldl (fun s k => s.setCore k Core.idle) s

/-- R397: a tile of a shared panel is left with its scratchpad and register files zero. -/
def State.leaveTile (s : State) (t : Nat) : State :=
  match (s.tile t).owner with
  | some p => if s.sharedPanel p then s.clearScratch t else s
  | none => s

/-- Table 09-8 step 4: sticky bits, counts, faults and the tile's observation counters. -/
def State.resetTileRegs (s : State) (t : Nat) : State :=
  let s := ((s.resetReg .ARR_STATUS t).resetReg .ARR_FAULT t).clearUnit (unitTile t)
  (tileCores t).foldl (fun s k => ((s.resetReg .GC_STATUS k).resetReg .GC_L1_STATUS k).clearUnit (unitCore (k / 32) (k % 32))) s

def State.unloadSlots (s : State) (t : Nat) : State := (List.range 4).foldl (fun s i => s.resetReg .ARR_ACT_SLOT (4 * t + i)) s

/-- Table 09-8 step 2: zero the scratchpad and registers, clean and unlock the L1s, unload activation slots 8 to 11. -/
def State.scrubTile (s : State) (t : Nat) : State :=
  let s := (tileCores t).foldl (fun s k => s.cleanCore k) s
  (((s.clearScratch t).dropCores (tileCores t)).unloadSlots t)

/-- The CRC-32C of a slot's entries and how many segments of 32 bytes they hold, as `ARR_ACT_SLOT(s)` shows them. -/
def slotReg (b : List Byte) : Nat := crc32c b * 2 ^ 32 + (b.length / 32) * 2 + 1

/-- R304: a tile handed to a panel takes every slot that the panel holds loaded. -/
def State.giveSlots (s : State) (t p : Nat) : State :=
  match tget s.panels p with
  | none => s
  | some x => x.actSlots.foldl (fun s e => s.setReg .ARR_ACT_SLOT (4 * t + e.1) (slotReg e.2)) s

/-! ### Power domains (R25, R27) -/

/-- A tile that is switched off loses its scratchpad, L1s, eviction buffers and registers (Table 01-11). -/
def State.tileOff (s : State) (t : Nat) : State :=
  (((((s.setDomain (tileDomain t) false).clearScratch t).dropCores (tileCores t)).unloadSlots t).resetTileRegs t).flushTileTlbs t

def State.tileOnDo (s : State) (t : Nat) : State :=
  (s.setDomain (uncoreDomain (t / 4)) true).setDomain (tileDomain t) true

/-- A quarter-slice goes off: its share of the slice's lines is written home and dropped (R27). -/
def State.quarterOff (s : State) (q i : Nat) : State :=
  let s := s.setDomain (60 + 4 * q + i) false
  let on := (List.range 4).foldl (fun n j => if s.domainOn (60 + 4 * q + j) then n + 4 else n) 0
  let s := s.setFld .UCC_SLICE_STATUS_WAYS_ON q on
  let x := s.slice q
  let keep (l : Line) : Bool :=
    decide (((x.lines.takeWhile fun y => !(decide (y = l))).filter fun y => decide (lineSet y.line = lineSet l.line)).length < on)
  (x.lines.filter fun l => !(keep l)).foldl (fun s l => (s.evict q l).getD (s.modSlice q fun x => x.drop l.line)) s

def State.quarterOn (s : State) (q i : Nat) : State :=
  let s := s.setDomain (60 + 4 * q + i) true
  s.setFld .UCC_SLICE_STATUS_WAYS_ON q
    ((List.range 4).foldl (fun n j => if s.domainOn (60 + 4 * q + j) then n + 4 else n) 0)

/-- A request to switch a domain would break a dependency of R25. -/
def State.switchBreaks (s : State) (d : Nat) (on : Bool) : Bool :=
  if d = 100 ∨ d = 101 ∨ 102 < d then true
  else if d < 60 then
    if d % 5 = 4 then !on && (List.range 4).any fun a => s.domainOn (5 * (d / 5) + a)
    else if on then !(s.domainOn (5 * (d / 5) + 4)) else (s.tile (4 * (d / 5) + d % 5)).owner.isSome
  else if d < 76 then !on && decide ((d - 60) % 4 = 0) && (List.range 4).any fun i => s.domainOn (76 + 4 * ((d - 60) / 4) + i)
  else if d < 92 then false
  else if d < 100 then !on && (List.range 4).any fun i => decide (s.fld .LNK_CTL_ADMIN_UP (4 * (d - 92) + i) = 1)
  else false

/-- Table 01-11: a domain reports its new state, and its contents are treated as the table says. -/
def State.switchDo (s : State) (d : Nat) (on : Bool) : State :=
  if s.domainOn d = on then s
  else if d < 60 then
    if d % 5 = 4 then
      let s := s.setDomain d on
      if on then s else { s with mem := s.mem.clearWindow (dscrBase (d / 5)) (dscrBase (d / 5) + 0x1000000) }
    else if on then s.setDomain d true else s.tileOff (4 * (d / 5) + d % 5)
  else if d < 76 then if on then s.quarterOn ((d - 60) / 4) ((d - 60) % 4) else s.quarterOff ((d - 60) / 4) ((d - 60) % 4)
  else if d < 92 then (s.setDomain d on).setFld .HBM_STK_STATUS_SELF_REFRESH (d - 76) (b2n !on)
  else if d < 100 then
    let s := s.setDomain d on
    if on then s else (List.range 4).foldl (fun s i =>
      if s.linkState (4 * (d - 92) + i) = 0 then s.setDownCause (4 * (d - 92) + i) 7 else s.linkDown (4 * (d - 92) + i) 7) s
  else s.setDomain d on

/-! ### Die scratch owners (R108, R119) -/

/-- A segment is overwritten with zeros when its owner changes. -/
def State.scrubSeg (s : State) (die seg : Nat) : State :=
  { s with mem := s.mem.clearWindow (dscrBase die + seg * 0x100000) (dscrBase die + (seg + 1) * 0x100000) }

end Sys2Proof.Machine
end

