-- ==== Sys2Proof/Machine/Marks.lean ====
section
/-! DEFINITION. Stitch markers: firing at a completion, and the headers of their dumps (14.5). -/

namespace Sys2Proof.Machine

/-! ### Held translations (R294, R452) -/

/-- Where a held translation puts a virtual address: local address and key slot. -/
def heldAt (held : List TlbEntry) (va : Nat) : Option (Nat × Nat) :=
  (held.find? fun e => covers va e.va e.size).map fun e => ((e.pa + (va - e.va)) % 2 ^ 48, e.key)

/-- Write bytes through held translations; sectors that cannot be written are left. -/
def State.heldWrite (s : State) (held : List TlbEntry) (va : Nat) (b : List Byte) : State :=
  (chunks va b.length).foldl (fun s c =>
    match heldAt held c.1 with
    | none => s
    | some (a, key) => (s.writePhys s.hubWho key a ((b.drop (c.1 - va)).take c.2)).1) s

/-- Mark the sector of a held address poisoned. -/
def State.heldPoison (s : State) (held : List TlbEntry) (va : Nat) : State :=
  match heldAt held va with
  | some (a, key) => if region a = .hbm then { s with mem := s.mem.poison ((s.keyOf key).getD 0) a } else s
  | none => s

/-! ### Dumps -/

/-- Table 14-6: the header of a dump that ends now. -/
def State.dumpHeader (s : State) (d : Dump) (status : Nat) : List Byte :=
  leBytes 4 d.name.toNat ++ leBytes 4 d.tag.toNat ++ leBytes 8 d.row.toNat ++ leBytes 8 d.fireAt.toNat ++ leBytes 8 s.now ++
    leBytes 4 (if status = 0 ∨ status = 0x0302 then d.len else 0) ++ leBytes 2 status ++ leBytes 2 d.cmdStatus ++
    leBytes 1 (b2n (d.holdQ.isSome || d.holdRow.isSome) + 2) ++ leBytes 1 d.firing ++ leBytes 2 d.layer ++ leBytes 2 d.oper ++
    zeros 18

/-- A dump ends: its header is written, its marker shows the status. -/
def State.endDump (s : State) (d : Dump) (status : Nat) : State :=
  let s := s.heldWrite d.held d.dst (s.dumpHeader d status)
  match d.mark with
  | none => s
  | some m => { s with marks := tmod s.marks m fun x => { x with status := status } }

/-- R456: a frog stops the dumps of a context. -/
def State.stopDumps (s : State) (ctx : Nat) : State :=
  let mine := s.dumps.filter fun e => decide (e.2.ctx = ctx)
  let s := { s with dumps := s.dumps.filter fun e => !(decide (e.2.ctx = ctx)) }
  mine.foldl (fun s e => s.endDump e.2 0x0201) s

/-! ### Firing (R453, R454) -/

/-- The number of the row that a command belongs to. -/
def State.rowOf (s : State) (c : Cmd) : Option Nat :=
  match c.row with
  | none => none
  | some p => (tget s.rsqs p).map fun r => r.row

def State.matches (s : State) (m : Marker) (c : Cmd) : Bool :=
  m.armed && decide (m.ctx = c.ctx) &&
    (if m.byWork then decide (hLayer c.raw = bits m.name.toNat 15 0) && decide (hOperator c.raw = bits m.name.toNat 31 16)
      else decide (hOpcode c.raw = 0x0201) && decide (leAt c.raw 64 4 = m.name.toNat)) &&
    (match m.stepKind with
      | 0 => true
      | 1 => match s.rowOf c with
        | some r => decide (m.step ≤ r)
        | none => false
      | _ => c.row.isNone && decide (hTag c.raw = m.step % 2 ^ 32))

/-- R452: the primary output of a command. -/
def primaryOut (r : List Byte) : Option Nat :=
  match hOpcode r with
  | 0x0201 => some (leAt r 32 8)
  | 0x0101 => some (leAt r 24 8)
  | 0x0102 => some (leAt r 24 8)
  | 0x0104 => some (leAt r 16 8)
  | 0x0105 => some (leAt r 24 8)
  | _ => none

/-- An LC row sequencer whose context owns the marker is started (R454). -/
def State.lcSeqStarted (s : State) (ctx : Nat) : Bool :=
  s.rsqs.any fun e => decide (e.2.ctx = ctx) && e.2.cfg.lcEn &&
    (decide (s.fld .RSQ_STATUS_STATE e.1 = 2) || decide (s.fld .RSQ_STATUS_STATE e.1 = 3))

def Marker.size (m : Marker) : Nat := 64 + ceilDiv m.len 64 * 64

/-- Marker number `n` fires for a command that completes. -/
def State.fireMark (s : State) (n : Nat) (m : Marker) (c : Cmd) (status : Nat) : State :=
  let skip (s : State) : State := { s with marks := tmod s.marks n fun x => { x with skipped := sat 8 (x.skipped + 1) } }
  if m.hold ∧ s.lcSeqStarted c.ctx then skip s
  else
    let src := if m.src ≠ 0 then some m.src else primaryOut c.raw
    let d : Dump := {
      mark := some n, ctx := c.ctx, src := src.getD 0, dst := m.dst + m.fired * m.size, len := m.len, name := m.name,
      tag := if c.row.isSome then 0 else w32 (hTag c.raw), row := w64 ((s.rowOf c).getD 0), fireAt := s.time, cmdStatus := status,
      firing := m.fired, layer := hLayer c.raw, oper := hOperator c.raw,
      holdQ := if m.hold ∧ c.row.isNone then some c.q else none, holdRow := if m.hold then c.row else none, held := m.held }
    let s := { s with marks := tput s.marks n { m with fired := m.fired + 1, left := m.left - 1, armed := decide (1 < m.left) } }
    if src.isNone then s.endDump d 0x0102
    else if 64 ≤ s.dumps.length ∧ ¬ m.hold then skip (s.endDump d 0x0104)
    else { s with dumps := tput s.dumps s.nextDump d, nextDump := s.nextDump + 1 }

/-- R453: every armed marker that matches a completing command fires, in slot order. -/
def State.fireMarkers (s : State) (c : Cmd) (status : Nat) : State :=
  (List.range 16).foldl (fun s i =>
    match s.marks.find? (fun e => decide (e.2.slot = i) && s.matches e.2 c) with
    | some (n, m) => s.fireMark n m c status
    | none => s) s

end Sys2Proof.Machine
end

