-- ==== Sys2Proof/Machine/Complete.lean ====
section
/-! DEFINITION. Commands in flight: starting behind a fence, running a body, releasing what a command holds, and the one
completion record (R186 to R190, R228, R246). -/

namespace Sys2Proof.Machine

/-! ### Starting (R189, R238) -/

def State.isMgr (s : State) (ctx : Nat) : Bool :=
  match tget s.ctxs ctx with
  | some c => decide (c.func = 0)
  | none => false

/-- An earlier command of the queue, or of the row, is still in flight. -/
def State.earlierInQueue (s : State) (c : Cmd) : Bool :=
  s.cmds.any fun e => decide (e.2.row = c.row) && (c.row.isSome || decide (e.2.q = c.q)) && decide (e.1 < c.id)

/-- A fence of a scope by a context: package and global scope close its skein entries, and global scope ends its use of lease
copies (R187, R188). The notes it gives. -/
def State.fenceScope (s : State) (ctx scope : Nat) : State × Nat :=
  if scope < 2 then (s, 0)
  else
    let (s, above) := s.skeinFence ctx
    let s := if scope = 3 then { s with ctxs := tmod s.ctxs ctx fun c => { c with gfence := s.time } } else s
    (s, if above then noteOverflow else 0)

/-- A remote access of a command's context or of the command itself is not yet answered. -/
def State.remoteOpen (s : State) (id : Nat) : Bool :=
  s.remotes.any fun r => match r.wait with
    | .cmd i => decide (i = id)
    | .cmdWrite i _ => decide (i = id)
    | _ => false

/-- The tiles a command uses now. -/
def State.tilesOf (s : State) (id : Nat) : List Nat :=
  (List.range 48).filter fun t =>
    decide ((s.tile t).lc = some (.cmd id)) || (match (s.tile t).unit with
      | some u => decide (u.cmd = id)
      | none => false)

/-- A command may begin: its fence-before is met, and FENCE and SIGNAL wait for every earlier command of their queue. -/
def State.startable (s : State) (c : Cmd) : Bool :=
  (decide (c.phase = .waiting) || decide (c.phase = .running)) && !(s.remoteOpen c.id) &&
    ((decide (c.fenceB = 0) && !(decide (c.opcode = 0x0601)) && !(decide (c.opcode = 0x0602))) ||
      !(s.earlierInQueue c))

/-- Begin a command: START is recorded once, and the fence-before is performed. -/
def State.beginCmd (s : State) (c : Cmd) : State :=
  if c.phase = .waiting then
    let (s, n) := s.fenceScope c.ctx c.fenceB
    s.modCmd c.id fun c => { c with phase := .running, tStart := s.time, status := worse c.status n }
  else s

/-- Run one command's body when it may begin. The body answers a status, or none while the command must be run again. -/
def State.runCmd (s : State) (id opcode : Nat) (body : State → Cmd → State × Option Nat) : State :=
  match s.cmd id with
  | none => s
  | some c =>
    if c.opcode = opcode ∧ s.startable c then
      let s := s.beginCmd c
      match s.cmd id with
      | none => s
      | some c =>
        match body s c with
        | (s, none) => s
        | (s, some st) => s.modCmd id fun c => { c with phase := .done, status := worse c.status st }
    else s

/-! ### What a command holds -/

/-- A unit or an LC job leaves its tiles; on a shared panel they are left cleared (R397). -/
def State.releaseTiles (s : State) (id : Nat) : State :=
  (s.tilesOf id).foldl (fun s t =>
    let s := (s.leaveTile t).setFld .ARR_STATUS_CTX t (((s.cmd id).map fun c => c.ctx).getD 0)
    let y := s.tile t
    if y.lc = some (.cmd id) then s.setTile t { y with lc := none }
    else (s.setTile t { y with unit := none, pre := none }).setFld .ARR_STATUS_STOP_PENDING t 0) s

/-- The cores, launch, images and remote accesses of a command are gone. -/
def State.dropWork (s : State) (id : Nat) : State :=
  let ks := (s.cores.filter fun e => decide (e.2.launch = some id)).map fun e => e.1
  let ctx := ((s.cmd id).map fun c => c.ctx).getD 0
  let s := ks.foldl (fun s k =>
    (s.modCore k fun c => { c with launch := none, groups := [], blocks := [], fills := [] }).setFld .GC_STATUS_CTX k ctx) s
  { s with launches := tdel s.launches id, images := s.images.filter fun e => !(decide (e.2.cmd = id)) }

def State.dropRemotesOf (s : State) (p : Remote → Bool) : State := { s with remotes := s.remotes.filter fun r => !(p r) }

/-! ### The record -/

/-- R418: the fault log entries of a completing command. A launch whose fault record was logged has no second entry. -/
def State.logStatus (s : State) (c : Cmd) (st : Nat) : State :=
  let cls := hCls c.raw
  if 0x0300 ≤ st ∧ st < 0x0400 then
    if cls = 3 ∧ hOp c.raw = 1 ∧ st < 0x0305 then s
    else s.logFault 0x02 cls st 0xFFFF (some c.ctx) (hTag c.raw) c.vaddr.toNat
  else if 0x0400 ≤ st ∧ st < 0x0500 then s.logFault 0x03 cls st 0xFFFF (some c.ctx) (hTag c.raw) c.q
  else s

/-- R445: the function counters of a completion. -/
def State.countDone (s : State) (c : Cmd) (st : Nat) : State :=
  let s := s.bumpFn c.func 0 1
  let s := if 0x0300 ≤ st ∧ st < 0x0500 then s.bumpFn c.func 2 1 else s
  let s := if st < 0x0100 ∧ bit st 3 then s.bumpFn c.func 3 1 else s
  (s.bumpFn c.func 4 c.beats).bumpFn c.func 5 c.energy

/-- R386: the energy attributed to a command that ran is a measurement. -/
def State.meterCmd (s : State) (c : Cmd) : State × Cmd :=
  if c.phase = .waiting ∨ c.phase = .recorded then (s, c)
  else
    let (n, s) := s.fresh
    (s, { c with energy := sat 24 (Config.workEnergy n) })

/-- A BE or LC command ends: what it holds is released, its record is written, and its place is freed. A command of a row
sequencer has no record: its sequencer learns its status. -/
def State.finishCmd (s : State) (id status : Nat) : State :=
  match s.cmd id with
  | none => s
  | some c =>
    let (s, c) := s.meterCmd c
    let late := hLc c.raw && decide (status < 0x100) && decide (c.tSub.toNat + 1000 * hDeadline c.raw < s.now) && c.row.isNone
    let st := if late then status ||| 8 else status
    let s := (s.tilesOf id).foldl (fun s t =>
      s.setReg .ARR_LAST_DONE_TIME t s.now) s
    let s := (s.releaseTiles id).dropWork id
    let s := s.logStatus c st
    let s := s.fireMarkers c st
    match c.row with
    | some p => { s with cmds := tdel s.cmds id, rsqs := tmod s.rsqs p fun r => r.ended id st }
    | none =>
      let s := { s.countDone c st with cmds := tdel s.cmds id }
      s.finishRecord c.q c.ctx (hTag c.raw) (record (hTag c.raw) st c.q c.beats c.energy c.tStart s.time)

/-- A command is cancelled with a status: its work stops, its outputs are undefined (R8), and its unanswered remote accesses are
cancelled. -/
def State.cancelCmd (s : State) (id status : Nat) : State :=
  let s := match s.cmd id with
    | some c => s.spoilOutputs c
    | none => s
  ((s.dropRemotesOf fun r => match r.wait with
    | .cmd i => decide (i = id)
    | .cmdWrite i _ => decide (i = id)
    | _ => false).modCmd id fun c => { c with status := status }).finishCmd id status

/-- COMMAND_COMPLETE: the work has ended and its remote accesses are answered; the fence-after is performed and the record
written. -/
def commandComplete (id : Nat) (s : State) : State :=
  match s.cmd id with
  | none => s
  | some c =>
    if c.phase = .done ∧ ¬ (s.remoteOpen id) then
      let (s, n) := s.fenceScope c.ctx c.fenceA
      s.finishCmd id (worse c.status n)
    else s

end Sys2Proof.Machine
end

