-- ==== Sys2Proof/Machine/Frog.lean ====
section
/-! DEFINITION. Frogging (13.4): the cut-off of a context's queues, and the removal of its work from every engine, with the reclaim
of its leases (13.7). `status` is 0x0201, or 0x0202 where an abandoned pre-emption frogs the context (R298). -/

namespace Sys2Proof.Machine

/-! ### The cut-off (R424) -/

/-- Complete the entry at HEAD without executing it. -/
def State.cutEntry (s : State) (q status : Nat) (x : Queue) (r : List Byte) (n : Nat) : State :=
  let tag := if x.typ = .cmd then hTag r else leAt r 0 4
  let x := { x.pass n with fetched := x.fetched + 1, dups := dupAdd x.dups tag none }
  (s.setQueue q x).finishRecord q x.ctx tag (record tag status q 0 0 s.time s.time)

def State.cutQueue (q status : Nat) : Nat → State → State
  | 0, s => s
  | fuel + 1, s =>
    match s.queue q with
    | none => s
    | some x =>
      if x.head = x.tail then s
      else
        match s.headEntry x with
        | (s, none, _) => s.faultQueue q
        | (s, some r, n) => State.cutQueue q status fuel (s.cutEntry q status x r (if n = 0 then 1 else n))

/-- Every entry of the context's CMD and SEQ queues up to TAIL completes; a queue that accepts any context is not its own. -/
def State.cutOff (s : State) (ctx status : Nat) : State :=
  (s.queues.filter fun e => (decide (e.2.typ = .cmd) || decide (e.2.typ = .seq)) && decide (e.2.ctx = ctx) && !e.2.anyCtx).foldl
    (fun s e => s.cutQueue e.1 status e.2.count) s

/-! ### The row sequencer -/

/-- R276: the record of a sequence that leaves. -/
def State.seqRecord (s : State) (ctx : Nat) (x : SeqRec) (status : Nat) : State :=
  let (n, s) := s.fresh
  let st := if x.late ∧ status < 0x0100 then status ||| 8 else status
  let s := match s.queue x.q with
    | some q => s.bumpFn q.func 11 1
    | none => s
  s.finishRecord x.q ctx x.tag.toNat (record x.tag.toNat st x.q 0 (sat 24 (Config.workEnergy n)) (x.joined.getD s.time) s.time)

/-- The tiles that a started LC sequencer owns are released. -/
def State.releaseSeqTiles (s : State) (p : Nat) : State :=
  (List.range 48).foldl (fun s t => if (s.tile t).lc = some (.seq p) then (s.leaveTile t).modTile t fun x => { x with lc := none } else s) s

/-- A command ends with a status when COMMAND_COMPLETE comes. -/
def State.endCmd (s : State) (id status : Nat) : State :=
  s.modCmd id fun c => { c with phase := .done, status := worse c.status status }

/-- R281: a frog stops the sequencer of its context; every admitted sequence completes, and its pages return to the pool. -/
def State.frogRsq (s : State) (p status : Nat) (r : Rsq) : State :=
  if s.fld .RSQ_STATUS_STATE p < 2 then s
  else
    let s := (s.setFld .RSQ_STATUS_STATE p 5).setFld .RSQ_FAULT_STATUS p status
    let s := s.setFld .RSQ_FAULT_ROW p r.row
    let s := r.seqs.foldl (fun s e => s.seqRecord r.ctx e.2 status) s
    let back := r.seqs.foldl (fun l e => e.2.pages.reverse.foldl (fun l i => i :: l) l) r.stack
    let s := s.releaseSeqTiles p
    let s := r.stop.foldl (fun s x => s.endCmd x.2 0) s
    let s := match r.resize with
      | some (_, id) => s.endCmd id 0x0104
      | none => s
    { s with rsqs := tput s.rsqs p { r with seqs := [], stack := back, lcOut := 0, run := none, stop := [], resize := none, fault := none } }

/-! ### Leases (R432, R433) -/

/-- The owner and context of each lease that a condition on them voids. -/
def State.leaseOwners (s : State) (p : Nat → Nat → Bool) : List (Nat × Nat) :=
  ((s.tracker.filter fun t => p t.owner.toNat t.ctx).map fun t => (t.owner.toNat, t.ctx)) ++
    ((s.slices.flatMap fun e => e.2.holds).filter fun h => p h.owner.toNat h.ctx).map (fun h => (h.owner.toNat, h.ctx)) ++
    (s.resvs.filterMap fun r =>
      match (s.coreOf r.core).launch.bind s.cmd with
      | some c => if p (0x1100 + r.core) c.ctx then some (0x1100 + r.core, c.ctx) else none
      | none => none) ++
    (s.cores.flatMap fun e => if p (0x1100 + e.1) e.2.lockCtx then List.replicate e.2.lockN (0x1100 + e.1, e.2.lockCtx) else [])

/-- One LEASE_RECLAIM entry for each owner and context reclaimed. -/
def State.reclaim (s : State) (p : Nat → Nat → Bool) : State :=
  let l := s.leaseOwners p
  let s := s.reclaimUcc (fun t => p t.owner.toNat t.ctx) (fun h => p h.owner.toNat h.ctx)
  let s := { s with resvs := s.resvs.filter fun r =>
    match (s.coreOf r.core).launch.bind s.cmd with
    | some c => !(p (0x1100 + r.core) c.ctx)
    | none => true }
  let s := (s.cores.filter fun e => decide (e.2.lockN ≠ 0) && p (0x1100 + e.1) e.2.lockCtx).foldl (fun s e => s.modCore e.1 Core.unlock) s
  if l = [] then s
  else
    let s := (s.incFld .HUB_LEASE_STATUS_RECLAIMED 0 l.length).bump unitFaults 4 l.length none
    l.eraseDups.foldl (fun s o => s.logFault 0x07 (sat 8 (l.filter fun x => decide (x = o)).length) 0 o.1 (some o.2) 0 0) s

/-! ### The frog -/

/-- R406: the recorded commands of a function may run again. -/
def State.thawCmds (s : State) (f : Nat) : State :=
  { s with cmds := s.cmds.map fun (e : Nat × Cmd) =>
      if e.2.func = f ∧ e.2.phase = .recorded then
        (e.1, { e.2 with phase := if s.images.any (fun i => decide (i.2.cmd = e.1)) then .stashed
          else if e.2.opcode = 0x0603 ∧ e.2.step ≠ 0 then .running else .waiting })
      else e }

/-- The commands of one operation that name a function in byte 16 end with 0x0201. -/
def State.abandonOps (s : State) (f op : Nat) : State :=
  (s.cmds.filter fun e => decide (e.2.opcode = op) && decide (leAt e.2.raw 16 1 = f)).foldl (fun s e => s.cancelCmd e.1 0x0201) s

/-- R425, R399: a freeze or a save in progress of the function is abandoned: MIG_FREEZE or MIG_SAVE ends, and after a freeze the recorded
commands may run again. -/
def State.abandonFreeze (s : State) (f : Nat) : State :=
  let s := s.abandonOps f 0x0F02
  match tget s.funcs f with
  | none => s
  | some g =>
    if g.state ≠ 2 then s
    else
      let s := s.modFunc f fun g => { g with state := 1 }
      let s := { s.thawCmds f with rsqs := s.rsqs.map fun (e : Nat × Rsq) => (e.1, { e.2 with stop := e.2.stop.filter fun x => !(decide (x.2 = 0)) }) }
      s.abandonOps f 0x0F01

/-- A command is in flight for the context, by its queue or issued by a row. -/
def State.cmdsOf (s : State) (p : Cmd → Bool) : List Nat := (s.cmds.filter fun e => p e.2).map fun e => e.1

/-- Cancel a command. -/
def State.frogCmd (s : State) (status : Nat) (id : Nat) : State := s.cancelCmd id status

/-- R424, in its order. A core whose resident launch is the context's loses its whole L1. -/
def State.frog (s : State) (ctx status : Nat) : State :=
  let s := (s.bump unitFaults 7 1 none)
  let s := match tget s.ctxs ctx with
    | some c => (s.bumpFn c.func 13 1).abandonFreeze c.func
    | none => s
  let s := s.cutOff ctx status
  let ks := (s.cores.filter fun e => match e.2.launch.bind s.cmd with
    | some c => decide (c.ctx = ctx)
    | none => false).map fun e => e.1
  let s := s.reclaim fun _ c => decide (c = ctx)
  let s := s.dropCores ks
  let s := s.xlatDrop (fun c => decide (c = ctx)) 0 (2 ^ 48)
  let s := (s.rsqs.filter fun e => decide (e.2.ctx = ctx)).foldl (fun s e => s.frogRsq e.1 status e.2) s
  let s := (s.cmdsOf fun c => decide (c.ctx = ctx)).foldl (fun s id => s.frogCmd status id) s
  let s := { s.stopDumps ctx with
    images := s.images.filter fun e => !(decide (e.2.ctx = ctx)),
    streams := s.streams.filter fun x => !(decide (x.ctx = ctx)) }
  s.dropRemotesOf fun r => decide (r.ctx = ctx)

/-- Frog several contexts in rising order. -/
def State.frogAll (s : State) (l : List Nat) (status : Nat) : State := l.foldl (fun s c => s.frog c status) s

end Sys2Proof.Machine
end

