-- ==== Sys2Proof/Machine/Jobs.lean ====
section
/-! DEFINITION. Jobs that span packages (10.8): COLL and ABORT messages, the comparison of a collective's control fields, and
fenced epochs. A COLL concerns a context that it names, or one whose job has its epoch (log entry 18). -/

namespace Sys2Proof.Machine

def State.job (s : State) (ctx : Nat) (epoch : W64) : Option Job :=
  s.jobs.find? fun j => decide (j.ctx = ctx) && decide (j.epoch = epoch)

/-- Keep a job at the front; of a context's fenced epochs the 16 most recent are held (R343). -/
def State.putJob (s : State) (j : Job) : State :=
  let rest := s.jobs.filter fun x => !(decide (x.ctx = j.ctx) && decide (x.epoch = j.epoch))
  let old := (rest.filter fun x => decide (x.ctx = j.ctx) && x.fenced).drop (if j.fenced then 15 else 16)
  { s with jobs := j :: rest.filter fun x => !(old.contains x) }

/-- A collective ends early: its DST is undefined. -/
def State.failColl (s : State) (id status : Nat) : State :=
  match s.cmd id with
  | none => s
  | some c => ((s.spoilOutputs c).dropRemotesOf fun r => decide (r.wait = .cmd id)).endCmd id status

/-- R343: an epoch is fenced on this member: the collective that runs under it ends with 0x0307. -/
def State.fenceJob (s : State) (j : Job) : State :=
  let s := match j.cur with
    | some c => s.failColl c.cmd 0x0307
    | none => s
  s.putJob { j with fenced := true, cur := none }

/-- Send a control message to every other member; a member in this package receives it here. -/
def State.tellMembers (s : State) (ctx : Nat) (c : JobCur) (b : LinkBody) (here : State → State) : State :=
  let others := (c.members.zipIdx.filter fun m => decide (m.2 ≠ c.rank)).map fun m => m.1
  let s := (others.filter fun p => decide (p ≠ s.ownPkg)).foldl (fun s p => s.answer (s.message p ctx 0 b)) s
  if others.contains s.ownPkg then here s else s

/-- CTL_ABORT: every command of the job's epoch completes with 0x0307 and the job is fenced. -/
def ctlAbort (epoch : W64) (s : State) : State :=
  (s.jobs.filter fun j => decide (j.epoch = epoch) && !j.fenced).foldl (fun s j => s.fenceJob j) s

/-- This member's engine aborts its job: every member is told. -/
def State.abortJob (s : State) (j : Job) : State :=
  let s := match j.cur with
    | some c => s.tellMembers j.ctx c (.abort j.epoch) id
    | none => s
  ctlAbort j.epoch (s.fenceJob j)

/-- The COLL of a rank for a collective of a job. -/
def State.collOf (s : State) (j : Job) (c : JobCur) (rank : Nat) : Option CollMsg :=
  s.colls.find? fun m => decide (m.epoch = j.epoch) && decide (m.number = c.number) && decide (m.rank = rank)

/-- A COLL differs from the collective that a job runs: in its epoch, in its number where the rank has sent none with this job's
number, or in its digest. -/
def State.collDiffers (s : State) (j : Job) (c : JobCur) (m : CollMsg) : Bool :=
  decide (m.rank ≠ c.rank) &&
    (if m.epoch = j.epoch then
      (decide (m.number = c.number) && decide (m.digest ≠ c.digest)) ||
        (decide (c.number < m.number) && (s.collOf j c m.rank).isNone)
    else decide (m.ctx = j.ctx) && !(s.jobs.any fun x => decide (x.ctx = j.ctx) && decide (x.epoch = m.epoch)))

/-- Compare what has arrived with the collective that a job runs. -/
def State.checkJob (s : State) (ctx : Nat) (epoch : W64) : State :=
  match s.job ctx epoch with
  | none => s
  | some j => match j.cur with
    | none => s
    | some c => if s.colls.any fun m => s.collDiffers j c m then s.abortJob j else s

/-- CTL_COLL: the message is kept and compared with the engines' own commands. -/
def ctlColl (ctx : Nat) (epoch : W64) (number : Nat) (digest hash : W32) (rank : Nat) (s : State) : State :=
  let m : CollMsg := ⟨ctx, epoch, number, digest, hash, rank⟩
  (s.jobs.filter fun j => j.cur.isSome).foldl (fun (s : State) (j : Job) => s.checkJob j.ctx j.epoch) { s with colls := s.colls ++ [m] }

/-- Table 10-10: a job configuration record's hash. -/
def State.jobHash (s : State) (panel : Nat) (exact : Bool) (anchor : Nat) : W32 :=
  let t := match tget s.panels panel with
    | some p => (maskBits p.tiles 48).head?.getD 0
    | none => 0
  let slot (i : Nat) : List Byte :=
    let v := s.reg .ARR_ACT_SLOT (4 * t + i)
    leBytes 4 (if bit v 0 then v / 2 ^ 32 else 0)
  w32 (crc32c (leBytes 1 (s.fld .GLB_ID_STEPPING 0) ++ [0] ++ leBytes 2 s.compat ++ leBytes 2 (s.fld .PWR_PANEL_GRANTED panel) ++
    leBytes 1 (b2n exact) ++ [0] ++ leBytes 2 anchor ++ zeros 2 ++ slot 0 ++ slot 1 ++ slot 2 ++ slot 3 ++ zeros 4))

end Sys2Proof.Machine
end

