-- ==== Sys2Proof/Machine/Time.lean ====
section
/-! DEFINITION. Package time (10.7): offsets of peers, the choice of a parent, steering and lock, holdover and PPS_IN; and the
reception of flits (R322) with the delivery of their messages (R329). A tick of the clock is one nanosecond of package time, so a
steered rate shows only as a rate. -/

namespace Sys2Proof.Machine

def State.peer (s : State) (l : Nat) : TimePeer := tgetD s.peers l TimePeer.new
def State.modPeer (s : State) (l : Nat) (f : TimePeer → TimePeer) : State := { s with peers := tput s.peers l (f (s.peer l)) }

/-- The low `k` bits of a signed number, saturated. -/
def satSigned (k : Nat) (i : Int) : Nat :=
  let m : Int := 2 ^ (k - 1)
  ((max (-m) (min (m - 1) i)) % (2 * m)).toNat

/-- R338: the mean of the last 64 offsets of a peer (log entry 19). -/
def TimePeer.offset (p : TimePeer) : Int := if p.offsets = [] then 0 else (p.offsets.foldl (· + ·) 0) / (p.offsets.length : Int)

/-- Peers that report a root and may be a parent: root, depth, link. -/
def State.parents (s : State) : List (Nat × Nat × Nat) :=
  (List.range 32).filterMap fun l =>
    let p := s.peer l
    match p.root with
    | some r => if s.linkUp l ∧ p.depth < 15 then some (r, p.depth, l) else none
    | none => none

def parentBefore (a b : Nat × Nat × Nat) : Bool :=
  decide (a.1 < b.1) || (decide (a.1 = b.1) && (decide (a.2.1 < b.2.1) || (decide (a.2.1 = b.2.1) && decide (a.2.2 < b.2.2))))

def bestParent (l : List (Nat × Nat × Nat)) : Option (Nat × Nat × Nat) :=
  l.foldl (fun b x => match b with
    | none => some x
    | some y => if parentBefore x y then some x else some y) none

/-- R337: this package offers itself as root and has met none with a lower number. -/
def State.isRoot (s : State) : Bool :=
  decide (s.fld .TMB_CTL_ROOT 0 = 1) && !(s.parents.any fun p => decide (p.1 < s.ownPkg))

/-- R340: time is unlocked. -/
def State.timeUnlock (s : State) (info : Nat) : State :=
  ((s.setFld .TMB_STATUS_LOCKED 0 0).setFld .PWR_STATUS_GAUGE_LOCK_LOST 0 1).postMgr 0x000D info

/-- Own time moved by −d: every offset of a peer moves with it. -/
def shiftPeers (d : Int) (l : Tab TimePeer) : Tab TimePeer :=
  l.map fun (e : Nat × TimePeer) => (e.1, { e.2 with offsets := e.2.offsets.map fun o => o + d })

/-- Follow the parent: its offset, the steered rate, a forward step, lock and unlock (R338, R340). -/
def State.follow (s : State) (l : Nat) : State :=
  let d := -(s.peer l).offset
  let s := s.setFld .TMB_STATUS_OFFSET 0 (satSigned 32 d)
  if d < -1000 then
    let n := (-d).toNat
    let was := s.fld .TMB_STATUS_LOCKED 0
    let s := { s with
      time := s.time + BitVec.ofNat 64 n, timebase := { s.timebase with ppm := 0, good := none }, peers := shiftPeers d s.peers }
    let s := s.setFld .TMB_STATUS_STEPPED 0 1
    if was = 1 then s.timeUnlock (satSigned 32 d) else s
  else if 1000 < d then
    let was := s.fld .TMB_STATUS_LOCKED 0
    let s := { s with timebase := { s.timebase with ppm := -200, good := none } }
    if was = 1 then s.timeUnlock (satSigned 32 d) else s
  else
    let (c, s) := s.fresh
    let r : Int := (Config.freeNat c % 201 : Nat)
    let p : Int := if d < 0 then r else if 0 < d then -r else 0
    { s with timebase := { s.timebase with
      ppm := p, good := if -100 ≤ d ∧ d ≤ 100 then some (s.timebase.good.getD s.time) else none } }

/-- Choose a parent, or none, and show it in `TMB_STATUS`. -/
def State.chooseParent (s : State) : State :=
  let root := s.isRoot
  let s := if s.fld .TMB_CTL_ROOT 0 = 1 ∧ ¬ root then s.setFld .TMB_STATUS_ROOT_CONFLICT 0 1 else s
  let s := s.setFld .TMB_STATUS_ROOT_ACTIVE 0 (b2n root)
  if root then
    let s := (s.setFld .TMB_STATUS_PARENT_LINK 0 0xFF).setFld .TMB_STATUS_DEPTH 0 0
    { s.setFld .TMB_STATUS_HOLDOVER 0 0 with timebase := { s.timebase with lost := none, told := false } }
  else
    match bestParent s.parents with
    | none =>
      let s := ((s.setFld .TMB_STATUS_PARENT_LINK 0 0xFF).setFld .TMB_STATUS_DEPTH 0 15).setFld .TMB_STATUS_HOLDOVER 0 1
      { s with timebase := { s.timebase with lost := some (s.timebase.lost.getD s.time), good := none } }
    | some (_, d, l) =>
      let s := ((s.setFld .TMB_STATUS_PARENT_LINK 0 l).setFld .TMB_STATUS_DEPTH 0 (d + 1)).setFld .TMB_STATUS_HOLDOVER 0 0
      { s with timebase := { s.timebase with lost := none, told := false } }

/-- CTL_TIME: one exchange with a peer. A peer of depth 15 reports no root. -/
def ctlTime (l t1 t2 t3 t4 root depth : Nat) (s : State) : State :=
  if s.linkUp l then
    let off : Int := (((t2 : Int) - t1) - ((t4 : Int) - t3)) / 2
    let rtt : Int := ((t4 : Int) - t1) - ((t3 : Int) - t2)
    let s := s.modPeer l fun p => { p with
      offsets := (off :: p.offsets).take 64, root := if depth < 15 then some root else none, depth := depth }
    let s := s.setFld .LNK_TIME_OFFSET l (satSigned 32 (s.peer l).offset)
    let s := (s.setFld .LNK_TIME_RTT l (sat 32 rtt.toNat)).chooseParent
    if s.fld .TMB_STATUS_PARENT_LINK 0 = l then s.follow l else s
  else s

/-- A TIME message: the peer's stamp is kept for the next reply, and one that echoes a stamp completes an exchange. -/
def State.timeMessage (s : State) (l depart echo echoArr root depth : Nat) : State :=
  let s := s.modPeer l fun p => { p with stamp := depart, arrived := s.now }
  if echo = 0 ∧ echoArr = 0 then
    (s.modPeer l fun p => { p with root := if depth < 15 then some root else none, depth := depth }).chooseParent
  else ctlTime l echo echoArr depart s.now root depth s

/-- What this package reports as its root. -/
def State.ownRoot (s : State) : Nat :=
  if s.isRoot then s.ownPkg else ((s.peer (s.fld .TMB_STATUS_PARENT_LINK 0)).root).getD 0

/-- TIME_EXCHANGE: an UP link sends its TIME message. -/
def timeExchange (l : Nat) (s : State) : State :=
  if s.linkUp l then
    let s := s.chooseParent
    let p := s.peer l
    s.enqueue l 0 (s.message 0 0 0 (.time s.now p.stamp p.arrived s.ownRoot (s.fld .TMB_STATUS_DEPTH 0)))
  else s

/-- TIME_RELOCK: LOCKED again after 10 ms within ±100 ns. -/
def timeRelock (s : State) : State :=
  match s.timebase.good with
  | some t =>
    if 10000000 ≤ (s.time - t).toNat ∧ s.fld .TMB_STATUS_LOCKED 0 = 0 then
      (s.setFld .TMB_STATUS_LOCKED 0 1).setFld .PWR_STATUS_GAUGE_LOCK_LOST 0 0
    else s
  | none => s

/-- TIME_HOLDOVER: after 10 ms in holdover. -/
def timeHoldover (s : State) : State :=
  match s.timebase.lost with
  | some t =>
    if 10000000 ≤ (s.time - t).toNat ∧ ¬ s.timebase.told ∧ s.fld .TMB_STATUS_HOLDOVER 0 = 1 then
      { s.timeUnlock 0xFFFFFFFF with timebase := { s.timebase with told := true } }
    else s
  | none => s

/-- PPS_EDGE: an edge that the filter of R480 takes; at the first one after a write of `TMB_EPOCH` the root's time steps to it, and
later edges steer the rate (R337). A discarded edge is counted. -/
def ppsEdge (highNs : Nat) (s : State) : State :=
  let soon := match s.pins.lastPps with
    | some t => decide ((s.time - t).toNat < 999000000)
    | none => false
  if highNs < 100 ∨ soon = true then s.incFld .SRV_INPUT_STATUS_PPS_DISCARDS 0 1
  else
    let s := if s.isRoot ∧ s.fld .TMB_CTL_PPS_EN 0 = 1 ∧ s.timebase.epochSet then
        let v := s.reg .TMB_EPOCH 0 * 1000000000
        let s := { s with timebase := { s.timebase with epochSet := false } }
        if s.now < v ∧ v < 2 ^ 64 then { s with time := w64 v } else s
      else s
    { s.setReg .TMB_PPS_TIME 0 s.now with pins := { s.pins with lastPps := some s.time } }

/-! ### Reception of flits (R322, R329) -/

/-- A message that its link delivers to this package. -/
def State.deliver (s : State) (l : Nat) (m : LinkMsg) : State :=
  let only := s.linkState l = 2
  match m.body with
  | .train pkg pl vlo vhi c => ctlTrain l pkg pl vlo vhi c s
  | .mgmt b => ctlMgmt l b s
  | .time d e ea r dp => if only then s else s.timeMessage l d e ea r dp
  | .cap _ => s
  | .coll ctx ep n dg h r => if only then s else if m.dst = s.ownPkg then ctlColl ctx ep n dg h r s else s.forward m
  | .abort ep => if only then s else if m.dst = s.ownPkg then ctlAbort ep s else s.forward m
  | .refused => if only then s else if m.dst = s.ownPkg then ctlRefused m.tag s else s.forward m
  | .complete st old =>
    if only then s
    else if m.dst = s.ownPkg then
      match s.remotes.find? (fun r => decide (r.tag = m.tag)) with
      | some r => s.remoteDone r st.toNat old
      | none => s
    else s.forward m
  | .data b p =>
    if only then s
    else if m.dst = s.ownPkg then
      match s.remotes.find? (fun r => decide (r.tag = m.tag)) with
      | some r => s.remoteData r b p.toNat
      | none => s
    else s.forward m
  | .read _ _ _ | .write _ _ _ _ _ _ | .final _ _ _ _ _ _ | .atomic _ _ _ _ _ _ _ _ _ | .addLine _ _ _ _ _ _ _ _ _ _ _ =>
    if only then s else if m.dst = s.ownPkg then s.serveRemote m else s.forward m

/-- The freed slots of a message return to the sender as credits. -/
def State.creditBack (s : State) (l : Nat) (m : LinkMsg) : State :=
  s.emit (.linkCredit l (classNum m.cls) m.hop m.slots)

/-- FLIT_RECEIVE. A good flit's ACK, NAK and credits are taken first. -/
def flitReceive (l : Nat) (f : Flit) (s : State) : State :=
  let st := s.linkState l
  if ¬ (l < 32) ∨ st = 0 ∨ st = 4 then s
  else if ¬ f.good then
    let s := (s.incFld .LNK_ERR_BAD_FLITS l 1).bumpLink l 10 1
    if (s.link l).nak.isSome then s
    else (s.modLink l fun x => { x with nak := some s.time }).emit (.linkNak l)
  else
    let s := s.modLink l fun x => { x with lastGood := s.time }
    let s := (s.takeAck l f.ack).takeCredits l f.credits
    let s := if f.nak then s.replayAll l else s
    let s := s.drain l
    if f.idle then s
    else
      let x := s.link l
      if f.seq = x.expected then
        let s := (s.setLink l { x with expected := x.expected + 1, nak := none }).emit (.linkAck l f.seq)
        f.msgs.foldl (fun s m => ((s.creditBack l m).bumpLink l (4 + classNum m.cls) (16 * m.slots)).deliver l m) s
      else if x.nak.isSome then s
      else ((s.incFld .LNK_ERR_DUP_DROPPED l 1).bumpLink l 12 1).emit (.linkAck l (x.expected - 1))

end Sys2Proof.Machine
end

