-- ==== Sys2Proof/Machine/Power.lean ====
section
/-! DEFINITION. The power controller (11): limits and sheds, the control loop, cuts by class, tension fill, droops, thermal actions,
sensors and energy accounts, the class 0x07 commands, and the management alert (16.5). Power is in mW where the spec computes with
fractions of a watt. Log entries 20 to 24 say what the spec leaves to the PWC. -/

namespace Sys2Proof.Machine

def State.modPwr (s : State) (f : Pwr → Pwr) : State := { s with pwr := f s.pwr }

/-- The PWC's main loop runs (R251). -/
def State.pwcRuns (s : State) : Bool := decide (s.fld .SRV_STATUS_STATE 2 = 2)

/-! ### The alert (R496) -/

/-- Set or clear a condition of `SRV_ALERT`; PKG_ALERT_N follows. -/
def State.setAlert (s : State) (f : Fld) (on : Bool) : State :=
  let s := s.setFld f 0 (b2n on)
  let a := decide (s.reg .SRV_ALERT 0 / 2 ≠ 0)
  if s.fld .SRV_ALERT_ASSERTED 0 = b2n a then s
  else { (s.setFld .SRV_ALERT_ASSERTED 0 (b2n a)).emit (.alert a) with pins := { s.pins with alert := a } }

/-! ### Limits and sheds (R357, R365) -/

def State.limitW (s : State) : Nat :=
  let cap := s.fld .PWR_LIMITS_CAP_W 0
  if s.fld .PWR_STATUS_SHED_ACTIVE 0 = 1 then min cap (s.fld .PWR_LIMITS_SHED_LEVEL_W 0) else cap

/-- SHED_ACTIVE and LIMIT_W follow the two sheds; a shed that begins is timed. -/
def State.updateShed (s : State) : State :=
  let on := s.fld .PWR_STATUS_SHED_PIN 0 ||| s.fld .PWR_STATUS_SHED_CMD 0
  let was := s.fld .PWR_STATUS_SHED_ACTIVE 0
  let s := s.setFld .PWR_STATUS_SHED_ACTIVE 0 on
  let s := s.setFld .PWR_STATUS_LIMIT_W 0 s.limitW
  if on = 1 ∧ was = 0 then (s.modPwr fun p => { p with shedAt := some s.time, moved := false }).bump unitPower 2 1 none
  else if on = 0 then s.modPwr fun p => { p with shedAt := none } else s

/-- R368: SHED_BELOW_LC. -/
def State.updateBelow (s : State) : State :=
  s.setFld .PWR_STATUS_SHED_BELOW_LC 0 (b2n (decide (s.fld .PWR_LIMITS_SHED_LEVEL_W 0 < s.lcFloor)))

/-- SHED_N_ASSERT: a level that was stable for 2 µs begins the pin shed (R365, R480). -/
def shedNAssert (stableNs : Nat) (s : State) : State :=
  if stableNs < 2000 then s.incFld .SRV_INPUT_STATUS_SHED_GLITCHES 0 1
  else ((s.modPwr fun p => { p with shedN := true, outlast := false }).setFld .PWR_STATUS_SHED_PIN 0 1).updateShed

def shedNDeassert (stableNs : Nat) (s : State) : State :=
  if stableNs < 2000 then s.incFld .SRV_INPUT_STATUS_SHED_GLITCHES 0 1
  else if s.pwr.shedN then
    let s := s.modPwr fun p => { p with shedN := false }
    if s.fld .PWR_POLICY_AUTO_RESTORE 0 = 1 then (s.setFld .PWR_STATUS_SHED_PIN 0 0).updateShed
    else s.modPwr fun p => { p with outlast := true }
  else s

/-! ### Events to a panel -/

/-- Post an event to the manager's EVT queue and to that of every context of a panel, once to each queue. -/
def State.postPanel (s : State) (p code info : Nat) : State :=
  let l := s.mgrEvt :: (s.ctxs.filter fun e => decide (e.2.panel = p)).map fun e => e.2.evtQ
  l.eraseDups.foldl (fun s q => s.postEvent q code info) s

/-! ### Gauges (R370, R374, R375, Table 11-1) -/

def State.target (s : State) (p : Nat) : Nat := s.fld .PWR_PANEL_TARGET p
def State.locked (s : State) (p : Nat) : Bool := decide (s.fld .PWR_PANEL_LOCK p = 1)

/-- The gauge that a level of the BE class gives a panel. -/
def State.levelGauge (s : State) (level p : Nat) : Nat := min (s.target p) (max (s.panelFloor p) level)

/-- Compute draw scales with g × V(g)² (11.11). -/
def scaleDraw (load fromG toG : Nat) : Nat := load * (toG * (volt60 toG * volt60 toG)) / max 1 (fromG * (volt60 fromG * volt60 fromG))

/-- The BE compute draw of the panels that satisfy `q` at a level. -/
def State.beDraw (s : State) (load : List Nat) (q : Nat → Bool) (level : Nat) : Nat :=
  ((s.panels.filter fun e => q e.1).map fun e =>
    scaleDraw (load.getD (3 + e.1) 0) (s.target e.1) (s.levelGauge level e.1)).foldl (· + ·) 0

/-- The highest level that fits a budget, or 800. -/
def fitLevel (draw : Nat → Nat) (budget : Nat) : Nat := (gauges.find? fun g => decide (draw g ≤ budget)).getD 800

/-- Tiles of unlocked panels now, those that compaction has taken, and those that it may still take (R310). -/
def State.compactable (s : State) : Nat × Nat × Nat :=
  let l := s.panels.filter fun e => !(s.locked e.1)
  let now := (l.map fun e => (maskBits e.2.tiles 48).length).foldl (· + ·) 0
  let gone := ((List.range 48).filter fun t => (s.tile t).home.isSome).length
  let may := (l.map fun e =>
    let n := (maskBits e.2.tiles 48).length
    n - max (s.cfg.panel e.1).minTiles (s.lcTileCount e.1)).foldl (· + ·) 0
  (now, gone, may)

/-- R362: how many tiles must be off so that the unlocked panels at 800 fit a budget; at most those that may be vacated. -/
def State.tilesOff (s : State) (unl budget : Nat) : Nat :=
  let (now, gone, may) := s.compactable
  let full := unl * (now + gone) / max 1 now
  ((List.range (gone + may + 1)).find? fun k => decide (full * (now + gone - k) ≤ budget * (now + gone))).getD (gone + may)

/-- What a control period decides: the class budgets in mW, the part of the LC reservations to be cut, and whether every class is at its
minimum. -/
structure Cuts where
  be : Nat
  mem : Nat
  link : Nat
  lc : Nat
  atMin : Bool
  deriving DecidableEq, Repr

/-- Table 11-2: the classes in order, 0 BE compute, 1 memory, 2 links. -/
def classOrder : Nat → List Nat
  | 1 => [2, 0, 1] | 2 => [1, 2, 0] | 3 => [1, 0, 2] | 4 => [0, 2, 1] | 5 => [0, 1, 2] | _ => [2, 1, 0]

/-- R361: take an excess from the third class, the second, the LC reservations and the first, each down to its minimum. `d`, `m`: the
classes' demands and minima. -/
def cutOrder (prio excess : Nat) (d m : List Nat) (lcMay : Nat) : Cuts :=
  let o := classOrder prio
  let c1 := o.getD 0 0
  let c2 := o.getD 1 0
  let c3 := o.getD 2 0
  let room (c : Nat) : Nat := d.getD c 0 - m.getD c 0
  let x3 := min excess (room c3)
  let x2 := min (excess - x3) (room c2)
  let xl := min (excess - x3 - x2) lcMay
  let x1 := min (excess - x3 - x2 - xl) (room c1)
  let left (c : Nat) : Nat := d.getD c 0 - (if c = c3 then x3 else if c = c2 then x2 else x1)
  ⟨left 0, left 1, left 2, xl, decide (x3 + x2 + xl + x1 < excess)⟩

/-- The highest sixteenth of a demand that fits a budget, at least `lo`. -/
def fitShare (demand budget lo : Nat) : Nat :=
  if demand ≤ budget then 16 else max lo (16 * budget / max 1 demand)

def State.memMin (s : State) : Nat := max 1 (s.fld .PWR_POLICY_MEM_MIN 0)

/-- R364: CUT_W of each panel, the same fraction of each RES_W, or what its dies' caps take where that is more; LC_RESERVATION_CUT is posted before anything is lowered. A cut passes
away at the slew limit. -/
def State.applyCut (s : State) (mw : Nat) : State :=
  let sum := s.lcSum
  let prev := s.pwr.cutNum
  let x := max mw (prev - 100 * s.fld .PWR_LIMITS_SLEW 0)
  let cutOf (p : Nat) : Nat := max (s.capCut p) (ceilDiv (s.fld .PWR_PANEL_RES_RES_W p * x) (1000 * max 1 sum))
  let lc := s.panels.filter fun e => decide (s.fld .PWR_PANEL_RES_RES_W e.1 ≠ 0)
  let s := lc.foldl (fun s e =>
    if s.fld .PWR_PANEL_RES_CUT_W e.1 < cutOf e.1 ∧ s.fld .PWR_PANEL_RES_CUT_W e.1 = 0 then s.postPanel e.1 0x000B e.1 else s) s
  let s := lc.foldl (fun s e => s.setFld .PWR_PANEL_RES_CUT_W e.1 (min (cutOf e.1) (s.fld .PWR_PANEL_RES_RES_W e.1))) s
  (s.setFld .PWR_STATUS_LC_CUT 0 (b2n (lc.any fun e => decide (s.fld .PWR_PANEL_RES_CUT_W e.1 ≠ 0)))).modPwr fun p => { p with cutNum := x }

/-- A failed input sensor paces every die at the larger of 800 and its reserved gauge (Table 15-7). -/
def State.inputSensorFailed (s : State) : Bool := decide (bits (s.fld .SRV_SENSOR_FAIL_FAILED 0) 42 41 ≠ 0)

/-- R370, R375: the grant of a panel for the levels of this period. -/
def State.grantFor (s : State) (level lockLevel p : Nat) : Nat :=
  let g := s.levelGauge (if s.locked p then lockLevel else level) p
  let g := if s.fld .PWR_PANEL_RES_CUT_W p = 0 then g else min g (s.lcGauge p)
  let g := min g (s.panelCap p)
  max 800 (if s.inputSensorFailed then min g (s.panelFloor p) else g)

/-- Grant a gauge; a locked panel that is granted less than its target is reported first, when that begins and whenever it falls further. `slew`: the ceiling
that lowers it is the slew limit of a rise, which counts as held (R375). -/
def State.grantGauge (s : State) (slew : Bool) (p g : Nat) : State :=
  let low := s.locked p && decide (g < s.target p) && !slew
  let s := if low && (decide (g < s.fld .PWR_PANEL_GRANTED p) || decide (s.fld .PWR_PANEL_NOT_HELD p = 0)) then
      (s.postPanel p 0x000C g).setFld .PWR_STATUS_GAUGE_NOT_HELD 0 1
    else s
  let s := if low then s.bump unitPower 5 1 none else s
  (s.setFld .PWR_PANEL_NOT_HELD p (b2n low)).setFld .PWR_PANEL_GRANTED p g

/-- R370: a die runs at the highest grant among its panels, and at 800 without any; its voltage follows (R374). -/
def State.paceDie (s : State) (n : Nat) : State :=
  let g := ((s.diePanels n).map fun p => s.fld .PWR_PANEL_GRANTED p).foldl max 800
  let s := if g = s.fld .PWR_DIE_GAUGE n then s else s.bump (unitUncore n) 13 1 none
  let s := (s.setFld .PWR_DIE_GAUGE n g).setFld .PWR_DIE_VOLT_MV n (s.dieVolt n g)
  s.setFld .PWR_DIE_THROTTLED n (b2n (thas s.pwr.heat n || thas s.pwr.heat (40 + n)))

def State.paceDies (s : State) : State := (List.range 12).foldl (fun s n => s.paceDie n) s

/-! ### Droops (R377) -/

/-- DROOP_RESPONSE: the die's pacing is lowered until it recovers. -/
def droopResponse (die lateBeats : Nat) (s : State) : State :=
  if s.diePresent die then
    let s := (s.incFld .PWR_DROOP_EVENTS 0 1).incFld .PWR_DROOP_DEFICIT 0 lateBeats
    let s := (s.bump (unitUncore die) 11 1 none).bump (unitUncore die) 12 lateBeats none
    s.modPwr fun p => { p with drooped := (die :: p.drooped).eraseDups, late := tupd p.late die 0 (· + lateBeats) }
  else s

def droopRecovery (die : Nat) (s : State) : State := s.modPwr fun p => { p with drooped := p.drooped.filter fun n => !(decide (n = die)) }

/-- What the die's pacer issues now, in beats/µs. -/
def State.pacing (s : State) (n : Nat) : Nat :=
  let g := s.fld .PWR_DIE_GAUGE n
  if s.pwr.drooped.contains n then max (8 * g / 10) (s.dieReserved n) else g

/-- At a control period: a die whose droops cost more than 1% of a locked panel's beats, or any beat while it has a reserved gauge, is
capped 10 beats/µs lower; a cap without cause rises by 10 (log entry 22). -/
def State.droopCaps (s : State) : State :=
  let s := (List.range 12).foldl (fun s n =>
    let late := tgetD s.pwr.late n 0
    let bad := (decide (0 < s.dieReserved n) && decide (0 < late)) ||
      (s.diePanels n).any fun p => s.locked p && decide (s.target p < late)
    let cap := s.heatCap (60 + n) 2100
    if bad then s.modPwr fun p => { p with heat := tput p.heat (60 + n) (max 800 (min cap (s.fld .PWR_DIE_GAUGE n) - 10)) }
    else if cap < 2100 then s.modPwr fun p => { p with heat := if cap + 10 < 2100 then tput p.heat (60 + n) (cap + 10) else tdel p.heat (60 + n) }
    else s) s
  s.modPwr fun p => { p with late := [] }

/-! ### Tension fill (R378 to R380) -/

/-- Idle tiles that may run filler, one quadrant at a time in turn and rising within a quadrant. -/
def State.idleTiles (s : State) : List Nat :=
  let ok (t : Nat) : Bool :=
    let x := s.tile t
    s.tileOn t && x.unit.isNone && x.lc.isNone && x.pre.isNone && (match x.owner with
      | some p => decide (s.fld .PWR_PANEL_FILL_EN p = 1)
      | none => false)
  let quad (q : Nat) : List Nat := ((List.range 12).map fun i => 12 * q + i).filter ok
  (List.range 12).flatMap fun i => (List.range 4).filterMap fun q => (quad q)[i]?

/-- Filler on one tile in mW, by coefficient 4 of Table 11-5 at the die's gauge. -/
def State.fillerMw (s : State) (t : Nat) : Nat :=
  let g := s.fld .PWR_DIE_GAUGE (t / 4)
  s.reg .PWR_COEF 4 * g * (volt60 g * volt60 g) / (1000000 * (45000 * 45000))

/-- The shortest run of idle tiles whose filler reaches a need. -/
def State.pickFillers (s : State) (need : Nat) : List Nat :=
  (s.idleTiles.foldl (fun (x : Nat × List Nat) t => if need ≤ x.1 then x else (x.1 + s.fillerMw t, x.2 ++ [t])) (0, [])).2

def State.fillStep (s : State) (fastMw avgMw : Nat) : State :=
  let hist := (avgMw :: s.pwr.fast).take 10
  let pct := min 95 (s.fld .PWR_FILL_FILL_PCT 0)
  let hold := hist.foldl max 0
  let f0 := s.pwr.floor
  let f := if f0 < pct * hold / 100 then pct * hold / 100 else f0 - 100 * s.fld .PWR_LIMITS_SLEW 0
  let f := min f s.pwr.ceiling
  let now := (s.pwr.fillers.map fun t => s.fillerMw t).foldl (· + ·) 0
  let l := if s.fld .PWR_FILL_FILL_EN 0 = 1 then s.pickFillers (f - (fastMw - now)) else []
  let (c, s) := s.fresh
  let s := if l = [] then s else s.bump unitPower 0 (Config.freeNat c) none
  (s.modPwr fun p => { p with fast := hist, floor := f, fillers := l }).setFld .PWR_STATUS_FILL_ACTIVE 0 (b2n !l.isEmpty)

/-- R380: filler stops on a tile that is dispatched to, stopped, re-bound or switched off. -/
def State.stopFiller (s : State) (t : Nat) : State := s.modPwr fun p => { p with fillers := p.fillers.filter fun x => !(decide (x = t)) }

/-! ### The control period (R358) -/

/-- The class 0x07 commands that wait for a control period end (Table 11-6). -/
def State.endPowerCmds (s : State) : State :=
  (s.cmds.filter fun e => [0x0701, 0x0702, 0x0703, 0x0706].contains e.2.opcode && decide (e.2.phase = .running) && decide (e.2.step = 1)).foldl
    (fun s e => s.endCmd e.1 0) s

/-- R358: the ceiling's next value, and whether the slew limit of a rise set it. -/
def nextCeiling (limit c slew fast : Nat) : Nat × Bool :=
  let d := 100 * slew
  let c1 := if limit < c then max limit (c - d) else limit
  if fast + d < c1 then (fast + d, true) else (c1, false)

/-- CONTROL_PERIOD. `fastMw`: the highest fast draw of the period past; `load`: its 100 µs average, the unthrottled demands of memory and
links, and each panel's BE compute draw at its target gauge, in mW (log entry 23). -/
def controlPeriod (fastMw : Nat) (load : List Nat) (s : State) : State :=
  if ¬ s.pwcRuns then s
  else
    let old := s.pwr.ceiling
    let (c, slew) := nextCeiling (1000 * s.limitW) old (s.fld .PWR_LIMITS_SLEW 0) fastMw
    let s := s.modPwr fun p => { p with ceiling := c, moved := p.moved || decide (c < old), ceilings := (c :: p.ceilings).take 10 }
    let s := (s.setFld .PWR_STATUS_CEILING_W 0 (sat 16 (c / 1000))).setFld .PWR_STATUS_BACKSTOP 0 0
    let s := if c < 1000 * s.limitW then s.bump unitPower 1 1 none else s
    let s := s.updateBelow.droopCaps
    let base := 1000 * s.fld .PWR_SPLIT_BASE_W 0
    let lc := 1000 * s.lcSum
    let mem := load.getD 1 0
    let link := load.getD 2 0
    let unl (g : Nat) : Nat := s.beDraw load (fun p => !(s.locked p)) g
    let lok (g : Nat) : Nat := s.beDraw load (fun p => s.locked p) g
    let be := unl 2100 + lok 2100
    let en := decide (s.fld .PNL_COMPACT_EN 0 = 1)
    let (now, _, may) := s.compactable
    let beMin := lok 800 + (if en then unl 800 * (now - may) / max 1 now else unl 800)
    let lcMin := (s.panels.map fun e => if s.fld .PWR_PANEL_RES_RES_W e.1 = 0 then 0 else 1000 * resW (s.lcTileCount e.1) 800 0).foldl (· + ·) 0
    let cuts := cutOrder (s.fld .PWR_POLICY_PRIO 0) (base + lc + mem + link + be - c) [be, mem, link]
      [beMin, mem * s.memMin / 16, link / 16] (lc - lcMin)
    let s := s.applyCut cuts.lc
    let s := if s.pwr.cutNum = 0 then s else s.bump unitPower 4 1 none
    let off := if en ∧ cuts.be < unl 800 + lok 2100 then s.tilesOff (unl 800) (cuts.be - lok 2100) else 0
    let rest := if en ∧ 0 < off then unl 800 * (now - may) / max 1 now else unl 800
    let s := s.setFld .PNL_COMPACT_TARGET_OFF 0 off
    let level := fitLevel (fun g => unl g + lok 2100) cuts.be
    let lock := if rest + lok 2100 ≤ cuts.be then 2100 else fitLevel (fun g => rest + lok g) cuts.be
    let grants := s.panels.map fun e => (e.1, s.grantFor level lock e.1)
    let s := grants.foldl (fun s e => s.grantGauge slew e.1 e.2) s
    let s := s.paceDies
    let s := s.modPwr fun p => { p with
      memShare := fitShare mem cuts.mem s.memMin, linkShare := fitShare link cuts.link 1, atMin := cuts.atMin }
    (s.fillStep fastMw (load.getD 0 0)).endPowerCmds

/-- POWER_BACKSTOP (R367): the hub's power sequencer acts when the ceiling has not begun to fall 1.5 ms after a shed began. -/
def powerBackstop (s : State) : State :=
  match s.pwr.shedAt with
  | none => s
  | some t =>
    if s.pwr.moved ∨ (s.time - t).toNat < 1500000 ∨ s.fld .PWR_STATUS_BACKSTOP 0 = 1 then s
    else
      let s := (s.setFld .PWR_STATUS_BACKSTOP 0 1).logFault 0x0D 2 0 0xFFFF none 0 (s.reg .PWR_STATUS 0)
      let s := (s.panels.filter fun e => s.locked e.1).foldl (fun s e => s.postPanel e.1 0x000C 800) s
      let s := (s.panels.filter fun e => decide (s.fld .PWR_PANEL_RES_RES_W e.1 ≠ 0)).foldl (fun s e => s.postPanel e.1 0x000B e.1) s
      let s := (List.range 12).foldl (fun s n => (s.setFld .PWR_DIE_GAUGE n 800).setFld .PWR_DIE_VOLT_MV n (s.dieVolt n 800)) s
      (s.modPwr fun p => { p with fillers := [] }).setFld .PWR_STATUS_FILL_ACTIVE 0 0

/-! ### Measurement and energy (R355, R359, R384, R385) -/

/-- The bit of `SRV_SENSOR_FAIL` that a sensor key belongs to (Table 15-11): temperatures have key 100 + 8 × unit + index. -/
def sensorBit (k : Nat) : Nat := if k < 100 then k else (k - 100) / 8

/-- `SRV_SENSOR_FAIL` and its alert follow the sensors that have failed. -/
def State.showFailed (s : State) : State :=
  let m := s.sensors.foldl (fun m (e : Nat × Sensor) => if e.2.failed then m ||| 2 ^ sensorBit e.1 else m) 0
  (s.setFld .SRV_SENSOR_FAIL_FAILED 0 m).setAlert .SRV_ALERT_SENSOR_FAIL (decide (m ≠ 0))

/-- R481: one reading of a sensor; false where it is discarded. -/
def State.takeReading (s : State) (k : Nat) (v lo hi : Int) (rate : Option Int) : State × Bool :=
  let x := tgetD s.sensors k Sensor.new
  let jump := match x.last, rate with
    | some o, some r => decide (r < v - o ∨ v - o < -r)
    | _, _ => false
  if decide (v < lo) || decide (hi < v) || jump then
    let y : Sensor := { x with discards := x.discards + 1, taken := 0, failed := x.failed || decide (10 ≤ x.discards + 1) }
    (({ s with sensors := tput s.sensors k y }.incFld .SRV_INPUT_STATUS_SENSOR_DISCARDS 0 1).showFailed, false)
  else
    let y : Sensor := { last := some v, discards := 0, taken := x.taken + 1, failed := x.failed && decide (x.taken + 1 < 10) }
    ({ s with sensors := tput s.sensors k y }.showFailed, true)

/-- R385: each account's part of a window's energy in nJ, and the remainder to account 4,144. The estimates are free values. -/
def State.attribute_ (s : State) (nJ : Nat) : State :=
  let ids := (s.ctxs.map fun e => e.1) ++ (s.panels.map fun e => 4096 + e.1)
  let (c, s) := s.fresh
  let sum := (ids.map fun i => Config.estimate c i).foldl (· + ·) (Config.estimate c 4144)
  let part (i : Nat) : Nat := if sum = 0 then 0 else Config.estimate c i * nJ / sum
  let given := (ids.map part).foldl (· + ·) 0
  s.modPwr fun p => { p with
    accounts := tupd (ids.foldl (fun t i => tupd t i 0 (· + part i)) p.accounts) 4144 0 (· + (nJ - given)) }

/-- R359: windows above the ceiling's average plus 1% of the grade maximum. -/
def State.capWindow (s : State) (mW : Nat) : State :=
  let l := s.pwr.ceilings
  let avg := l.foldl (· + ·) 0 / max 1 l.length
  let above := decide (avg + 10 * s.fld .PWR_LIMITS_GRADE_MAX_W 0 < mW)
  let s := s.modPwr fun p => { p with above := if above then p.above + 1 else 0, under := if above then 0 else p.under + 1 }
  if above ∧ 10 ≤ s.pwr.above ∧ s.pwr.atMin ∧ s.fld .SRV_ALERT_CAP_NOT_MET 0 = 0 then
    let s := s.setFld .PWR_STATUS_CAP_NOT_MET 0 1
    (s.setAlert .SRV_ALERT_CAP_NOT_MET true).logFault 0x0D 1 0 0xFFFF none 0 (s.reg .PWR_STATUS 0)
  else if ¬ above ∧ 10 ≤ s.pwr.under ∧ s.fld .SRV_ALERT_CAP_NOT_MET 0 = 1 then
    (s.setFld .PWR_STATUS_CAP_NOT_MET 0 0).setAlert .SRV_ALERT_CAP_NOT_MET false
  else if s.fld .SRV_ALERT_CAP_NOT_MET 0 = 1 then s.setFld .PWR_STATUS_CAP_NOT_MET 0 1
  else s

/-- A two-byte user calibration offset, clamped to its bound (Table 15-4). -/
def State.calWord (s : State) (i : Nat) (bound : Int) : Int := max (-bound) (min bound (signed 16 (leAt s.flash.inUse i 2)))

/-- VIN_GAIN, IIN_GAIN and IIN_OFS on the figures of the factory calibration (R355, R476; log entry 134). -/
def State.calVin (s : State) (vin10mV : Nat) : Nat := ((vin10mV : Int) * (1000000 + s.calWord 234 5000) / 1000000).toNat
def State.calIin (s : State) (iin100mA : Nat) : Nat :=
  ((iin100mA : Int) * (1000000 + s.calWord 236 10000) / 1000000 + s.calWord 238 50 / 10).toNat
def State.calEnergy (s : State) (nJ vin10mV : Nat) : Nat :=
  ((nJ : Int) * ((1000000 + s.calWord 234 5000) * (1000000 + s.calWord 236 10000)) / 1000000000000 +
    100 * s.calWord 238 50 * (s.calVin vin10mV : Int)).toNat

/-- MEASURE_WINDOW: 1 ms of input power (R355). -/
def measureWindow (nJ vin10mV iin100mA baseW : Nat) (s : State) : State :=
  if ¬ s.pwcRuns then s
  else
    let nJ := s.calEnergy nJ vin10mV
    let vin10mV := s.calVin vin10mV
    let iin100mA := s.calIin iin100mA
    let (s, vOk) := s.takeReading 41 (vin10mV : Int) 0 7000 none
    let (s, iOk) := s.takeReading 42 (iin100mA : Int) 0 1500 none
    let s := s.setFld .PWR_MEAS_POWER_W 0 (sat 16 (nJ / 1000000))
    let s := if vOk then s.setFld .PWR_MEAS_VIN 0 vin10mV else s
    let s := if iOk then s.setFld .PWR_MEAS_IIN 0 iin100mA else s
    let e := s.pwr.energy + nJ
    let s := (s.modPwr fun p => { p with energy := e }).setReg .PWR_ENERGY 0 (e / 1000 % 2 ^ 64)
    let s := s.setFld .PWR_SPLIT_BASE_W 0 (min 650 baseW)
    let (c, s) := s.fresh
    let s := s.setFld .PWR_SPLIT_BE_W 0 (Config.freeNat c)
    let s := s.setFld .PWR_SPLIT_FILL_W 0 (if s.pwr.fillers.isEmpty then 0 else Config.freeNat (c + 1))
    let s := { s with free := s.free + 1 }
    ((s.attribute_ nJ).capWindow (nJ / 1000)).updateBelow

/-! ### Sensors and thermal actions (R381, R382, R481) -/

/-- Sensors of a unit: eight on a die, four on the hub, one on an engine; unit 0-11 CDn, 12-15 BDq, 16 hub, 17-24 OEe. -/
def unitSensors (u : Nat) : Nat := if u < 16 then 8 else if u = 16 then 4 else 1

def tempKey (u i : Nat) : Nat := 100 + 8 * u + i

def State.throttleC (s : State) : Nat := max 80 (min 105 (s.fld .PWR_THERMAL_CTL_THROTTLE_C 0))
def State.warnC (s : State) : Nat := max 70 (min s.throttleC (s.fld .PWR_THERMAL_CTL_WARN_C 0))

/-- The control temperature of a unit in quarter degrees: the highest of its sensors that have not failed; with none left,
THROTTLE_C (Table 15-7). None before any reading. -/
def State.unitTemp (s : State) (u : Nat) : Option Int :=
  let l := (List.range (unitSensors u)).map fun i => tgetD s.sensors (tempKey u i) Sensor.new
  if l.all fun x => x.failed then some (4 * (s.throttleC : Int))
  else (l.filterMap fun x => if x.failed then none else x.last).foldl (fun b v => match b with
    | none => some v
    | some m => some (max m v)) none

/-- Table 11-4: lower a cap, which begins at what is in force (`hi`), by `step` down to `lo`, or remove it once the unit is 2 °C below THROTTLE_C. -/
def State.capStep (s : State) (k hi lo step : Nat) (temp : Int) : State :=
  let thr : Int := 4 * (s.throttleC : Int)
  if 4 * 105 ≤ temp then s.modPwr fun p => { p with heat := tput p.heat k lo }
  else if thr ≤ temp then s.modPwr fun p => { p with heat := tput p.heat k (max lo (tgetD p.heat k hi - step)) }
  else if temp ≤ thr - 8 then s.modPwr fun p => { p with heat := tdel p.heat k }
  else if thas s.pwr.heat k then s.modPwr fun p => { p with heat := tput p.heat k (max lo (tgetD p.heat k hi - step)) } else s

/-- Thermal action of a unit at its control temperature; gauges fall by 50 beats/µs per ms, five in each 100 µs reading, shares by
1/16 per ms: every tenth reading. -/
def State.thermalUnit (s : State) (u : Nat) (temp : Int) (tenth : Bool) : State :=
  let die (s : State) (k n : Nat) : State := s.capStep k (max 800 (s.fld .PWR_DIE_GAUGE n)) 800 5 temp
  if u < 12 then (die s u u).setFld .PWR_DIE_TEMP_C u ((temp / 4).toNat % 256)
  else if u < 16 then
    ((List.range 3).foldl (fun s i => die s (40 + 3 * (u - 12) + i) (3 * (u - 12) + i)) s).capStep (100 + (u - 12)) s.pwr.memShare s.memMin
      (b2n tenth) temp
  else s.capStep 140 s.pwr.linkShare 1 (b2n tenth) temp

/-- The highest control temperatures of dies, hub and engines, shown with their source; PKG_ALERT_N and THERMAL_THROTTLE follow the
thresholds (Table 11-4). -/
def State.thermalStatus (s : State) : State :=
  let temps := (List.range 25).filterMap fun u => (s.unitTemp u).map fun t => (u, t)
  let hot := temps.foldl (fun (b : Option (Nat × Int)) x => match b with
    | none => some x
    | some y => if y.2 < x.2 then some x else some y) none
  let s := match hot with
    | none => s
    | some (u, t) =>
      (s.setFld .PWR_THERMAL_HOT_C 0 (max 0 (t / 4)).toNat).setFld .PWR_THERMAL_HOT_SRC 0 (if u < 17 then u else 48 + (u - 17))
  let warm := decide (s.warnC ≤ s.fld .PWR_THERMAL_HOT_C 0)
  let hbms := decide (90 ≤ s.fld .PWR_THERMAL_STACK_C 0)
  let was := s.fld .PWR_STATUS_THERMAL_THROTTLE 0
  let s := (s.setFld .PWR_STATUS_THERMAL_THROTTLE 0 (b2n (warm || hbms))).setAlert .SRV_ALERT_THERMAL_WARN (warm || hbms)
  if was = 0 ∧ (warm || hbms) = true then s.logFault 0x0D 3 0 0xFFFF none 0 (s.reg .PWR_STATUS 0) else s

/-- TEMP_OFS of a unit (Table 15-4), in quarter degrees, clamped to ±12. -/
def State.tempOfs (s : State) (u : Nat) : Int := max (-12) (min 12 (s.calByte (192 + u)))

/-- SENSOR_READ: the temperature sensors of dies, hub and engines, each 100 µs. -/
def sensorRead (rs : List Reading) (s : State) : State :=
  let s := rs.foldl (fun s r =>
    if r.unit < 25 ∧ r.index < unitSensors r.unit then
      (s.takeReading (tempKey r.unit r.index) (4 * r.celsius + s.tempOfs r.unit) (-160) 600 (some 40)).1
    else s) s
  let tenth := decide (s.now / 100000 % 10 = 0)
  let s := (List.range 25).foldl (fun s u => match s.unitTemp u with
    | some t => s.thermalUnit u t tenth
    | none => s) s
  s.thermalStatus

/-- HBM_TEMP_READ: a stack's readout each 1 ms (R120, R382). Sensor keys 25 to 40. -/
def hbmTempRead (h : Nat) (celsius : Int) (s : State) : State :=
  if h < 16 then
    let ofs := max (-12) (min 12 (s.calByte (217 + h)))
    let (s, _) := s.takeReading (25 + h) (4 * celsius + ofs) (-160) 600 (some 40)
    let x := tgetD s.sensors (25 + h) Sensor.new
    let t : Int := if x.failed then 4 * 95 else x.last.getD 0
    let s := s.setFld .HBM_STK_STATUS_TEMP h ((t / 4).toNat % 256)
    let share := if 400 ≤ t then some 0 else if 380 ≤ t then some 8 else none
    let s := s.modPwr fun p => { p with heat := match share with
      | some v => tput p.heat (120 + h) v
      | none => tdel p.heat (120 + h) }
    let hot := (List.range 16).foldl (fun (b : Nat × Nat) i => if b.1 < s.fld .HBM_STK_STATUS_TEMP i then (s.fld .HBM_STK_STATUS_TEMP i, i) else b)
      (s.fld .HBM_STK_STATUS_TEMP 0, 0)
    ((s.setFld .PWR_THERMAL_STACK_C 0 hot.1).setFld .PWR_THERMAL_STACK 0 hot.2).thermalStatus
  else s

/-! ### The class 0x07 commands (R387, R388) -/

def State.gradeMax (s : State) : Nat := s.fld .PWR_LIMITS_GRADE_MAX_W 0

def capSetChecks (s : State) (r : List Byte) : List (Bool × Nat) :=
  let w := leAt r 16 2
  [(nonzero r 18 64, 0x0102), (decide (w < 650) || decide (s.gradeMax < w), 0x0102), (decide (w < s.lcFloor), 0x0104)]

def capSetDo (s : State) (r : List Byte) : State := (s.setFld .PWR_LIMITS_CAP_W 0 (leAt r 16 2)).updateShed

def slewSetChecks (_ : State) (r : List Byte) : List (Bool × Nat) :=
  [(nonzero r 18 64, 0x0102), (decide (leAt r 16 2 < 10) || decide (1000 < leAt r 16 2), 0x0102)]

def slewSetDo (s : State) (r : List Byte) : State := s.setFld .PWR_LIMITS_SLEW 0 (leAt r 16 2)

def shedLevelSetChecks (s : State) (r : List Byte) : List (Bool × Nat) :=
  let w := leAt r 16 2
  [(nzBits r 18 7 1 || nonzero r 19 64, 0x0102), (decide (w < 650) || decide (s.gradeMax < w), 0x0102),
   (decide (w < s.lcFloor) && !(bit (leAt r 18 1) 0), 0x0102)]

def shedLevelSetDo (s : State) (r : List Byte) : State := (s.setFld .PWR_LIMITS_SHED_LEVEL_W 0 (leAt r 16 2)).updateBelow.updateShed

def noFieldChecks (_ : State) (r : List Byte) : List (Bool × Nat) := [(nonzero r 16 64, 0x0102)]

def shedDo (s : State) : State := (s.setFld .PWR_STATUS_SHED_CMD 0 1).updateShed

/-- R365: RESTORE ends the command shed, and a pin shed whose SHED_N is deasserted. -/
def restoreDo (s : State) : State :=
  let s := s.setFld .PWR_STATUS_SHED_CMD 0 0
  let s := if s.pwr.shedN then s else (s.setFld .PWR_STATUS_SHED_PIN 0 0).modPwr fun p => { p with outlast := false }
  s.updateShed

def badGauge (g : Nat) : Bool := decide (g < 800) || decide (2100 < g) || decide (g % 10 ≠ 0)

def gaugeSetChecks (s : State) (r : List Byte) : List (Bool × Nat) :=
  let p := leAt r 16 1
  let g := leAt r 18 2
  [(nzBits r 16 7 6 || nzBits r 17 7 1 || nonzero r 20 64, 0x0102), (decide (47 < p % 64), 0x0102), (badGauge g, 0x0102),
   (decide (g < s.fld .PWR_PANEL_RESERVED_G (p % 64)), 0x0102), (!(thas s.panels (p % 64)), 0x0104)]

def gaugeSetDo (s : State) (r : List Byte) : State :=
  let p := leAt r 16 1 % 64
  (s.setFld .PWR_PANEL_TARGET p (leAt r 18 2)).setFld .PWR_PANEL_LOCK p (leAt r 17 1 % 2)

def reserveChecks (s : State) (r : List Byte) : List (Bool × Nat) :=
  let p := leAt r 16 1 % 64
  let g := leAt r 18 2
  let new := s.lcFloor - s.fld .PWR_PANEL_RES_RES_W p + resW (s.lcTileCount p) g (s.cfg.panel p).w
  [(nzBits r 16 7 6 || nzBits r 17 7 1 || nonzero r 20 64, 0x0102), (decide (47 < p), 0x0102),
   (decide (g ≠ 0) && badGauge g, 0x0102),
   (decide (s.fld .PWR_LIMITS_SHED_LEVEL_W 0 < new) && decide (new ≤ s.fld .PWR_LIMITS_CAP_W 0) && !(bit (leAt r 17 1) 0), 0x0102),
   (!(thas s.panels p), 0x0104), (decide (s.fld .PWR_LIMITS_CAP_W 0 < new), 0x0104)]

def reserveDo (s : State) (r : List Byte) : State × Nat :=
  let p := leAt r 16 1 % 64
  let g := leAt r 18 2
  let s := s.setFld .PWR_PANEL_RESERVED_G p g
  let s := if s.target p < g then s.setFld .PWR_PANEL_TARGET p g else s
  (s.updateReservations.updateBelow, 0)

/-- R14, R25: a domain of a die that is held in reset, or a switch that breaks a dependency, is rejected. -/
def domainSwitchChecks (s : State) (r : List Byte) : List (Bool × Nat) :=
  let d := leAt r 16 1 % 128
  [(nzBits r 16 7 7 || nzBits r 17 7 1 || nonzero r 18 64, 0x0102), (decide (102 < d), 0x0102),
   (decide (d < 60) && !(s.diePresent (d / 5)), 0x0104), (s.switchBreaks d (bit (leAt r 17 1) 0), 0x0104)]

/-- A body that takes its effect when the command begins and ends at a later event. -/
def onceThen (act : State → List Byte → State) (s : State) (c : Cmd) : State × Option Nat :=
  if c.step = 0 then ((act s c.raw).modCmd c.id fun x => { x with step := 1 }, none) else (s, none)

def domainSwitchDo (s : State) (c : Cmd) : State × Option Nat :=
  if c.step = 0 then
    let s := { s with switches := s.switches ++ [(leAt c.raw 16 1 % 128, bit (leAt c.raw 17 1) 0, c.id)] }
    let d := leAt c.raw 16 1 % 128
    let s := if d < 60 ∧ d % 5 < 4 then s.stopFiller (4 * (d / 5) + d % 5) else s
    (s.modCmd c.id fun x => { x with step := 1 }, none)
  else (s, none)

/-- DOMAIN_SWITCH_DONE: the oldest request for the domain is performed and its command ends (R26, R27); its dependencies must still
be met. -/
def domainSwitchDone (d : Nat) (s : State) : State :=
  match s.switches.find? (fun e => decide (e.1 = d)) with
  | none => s
  | some e =>
    let s := { s with switches := s.switches.erase e }
    if s.switchBreaks d e.2.1 then s.endCmd e.2.2 0x0104 else (s.switchDo d e.2.1).endCmd e.2.2 0

end Sys2Proof.Machine
end

