-- ==== Sys2Proof/Machine/Units.lean ====
section
/-! DEFINITION. Tiles and units (09.2 to 09.4): placing BE units, LC dispatch, pre-emption, stash and resume. A tile runs one command
at a time (log entry 31). -/

namespace Sys2Proof.Machine

/-! ### Which tiles a command may use -/

/-- GEMM and LAUNCH run on tiles. -/
def usesTiles (op : Nat) : Bool := decide (op = 0x0201) || decide (op = 0x0301)

/-- TILE_MASK, or the tiles of CORE_MASK; every tile for a basic form. -/
def tileMask (r : List Byte) : Nat :=
  if ¬ hExpert r then 2 ^ 48 - 1
  else if hOpcode r = 0x0201 then leAt r 80 6
  else maskOf ((List.range 48).filter fun t => decide (leAt r (64 + t) 1 ≠ 0))

/-- R296: a context whose units relocate may send no TILE_MASK and no CORE_MASK. -/
def State.maskBarred (s : State) (r : List Byte) : Bool :=
  ((usesTiles (hOpcode r) && hExpert r) || decide (hOpcode r = 0x0A01)) && (s.cfg.cls (hCtx r)).relocate

/-- R289: an LC command names a tile outside LC_TILES. -/
def State.lcMaskBad (s : State) (p : Nat) (r : List Byte) : Bool :=
  hLc r && hExpert r && usesTiles (hOpcode r) && decide (tileMask r ||| (s.cfg.panel p).lcTiles ≠ (s.cfg.panel p).lcTiles)

/-- The sequencer of a panel is started. -/
def State.rsqStarted (s : State) (p : Nat) : Bool := decide (s.fld .RSQ_STATUS_STATE p = 2) || decide (s.fld .RSQ_STATUS_STATE p = 3)

/-- A command belongs to LC work (09.2). -/
def State.isLc (s : State) (c : Cmd) : Bool :=
  match c.row with
  | none => hLc c.raw
  | some p => match tget s.rsqs p with
    | some r => r.cfg.lcEn
    | none => false

/-- A PANEL_REBIND that runs names the tile. -/
def State.rebinding (s : State) (t : Nat) : Bool :=
  s.cmds.any fun e => decide (e.2.opcode = 0x0803) && decide (e.2.phase = .running) && bit (leAt e.2.raw 18 6) t

/-- An LC command that has been admitted waits for the tile. -/
def State.lcWants (s : State) (t : Nat) : Bool :=
  s.cmds.any fun e => hLc e.2.raw && e.2.row.isNone && decide (e.2.phase = .waiting) && bit e.2.tiles t && usesTiles e.2.opcode &&
    s.startable e.2

def quadOf (t : Nat) : Nat := t / 12

def State.beUnits (s : State) (q : Nat) : Nat := ((List.range 12).filter fun i => (s.tile (12 * q + i)).unit.isSome).length

/-! ### Slots (R294) -/

def State.slotsUsed (s : State) (ctx q : Nat) : List Nat :=
  ((List.range 12).filterMap fun i => match (s.tile (12 * q + i)).unit with
    | some u => if u.ctx = ctx then some u.slot else none
    | none => none) ++
  (s.images.filterMap fun e => if e.2.ctx = ctx ∧ e.2.quad = q then some e.2.slot else none)

def State.freeSlot (s : State) (ctx q epoch : Nat) : Option Nat :=
  (List.range (((s.settings epoch).cls ctx).slots.getD q 0)).find? fun i => !((s.slotsUsed ctx q).contains i)

/-- R290 and what bars a tile: the panel's, on, not owned or wanted by LC work, free of units and of a re-bind; on an LC tile only with
LEND; within the quadrant's limit. -/
def State.tileOpen (s : State) (t p epoch : Nat) : Bool :=
  let x := s.tile t
  let c := (s.settings epoch).panel p
  decide (x.owner = some p) && s.tileOn t && x.lc.isNone && x.unit.isNone && x.pre.isNone && !(s.rebinding t) && !(s.lcWants t) &&
    (!(bit c.lcTiles t) || c.lend) && decide (s.beUnits (quadOf t) < 3 * s.fld .UCC_SLICE_STATUS_WAYS_ON (quadOf t) / 4)

/-- A context may run BE units under an epoch (R294); its class of the latest epoch must have been applied (R306). -/
def State.beAllowed (s : State) (ctx epoch : Nat) : Bool :=
  ((s.settings epoch).cls ctx).beEn && !(decide (epoch = s.committed) && s.toApply.contains (.ctxClass ctx))

/-! ### Stops (R297, R301) -/

/-- Table 09-4, Request. A further cause joins a stop that is pending. -/
def State.requestStop (s : State) (t : Nat) (lc quantum rebind freeze : Bool) : State :=
  let x := s.tile t
  match x.unit, x.pre with
  | none, _ => s
  | some _, some y =>
    s.setTile t { x with pre := some { y with
      forLc := y.forLc || lc, forQuantum := y.forQuantum || quantum, forRebind := y.forRebind || rebind, forFreeze := y.forFreeze || freeze } }
  | some _, none =>
    (s.setTile t { x with pre := some ⟨.requested, s.time, lc, quantum, rebind, freeze⟩ }).setFld .ARR_STATUS_STOP_PENDING t 1

/-- An atomic of a core of the tile to another package is not yet answered. -/
def State.tileAtomics (s : State) (t : Nat) : Bool :=
  s.remotes.any fun r => match r.wait with
    | .lane die core _ _ _ _ _ => decide (r.kind = .atomic) && (tileCores t).contains (32 * die + core)
    | _ => false

/-- PREEMPT_STOP_DONE: atomics already issued have been performed; loads in flight are issued again at resume. -/
def preemptStopDone (t : Nat) (s : State) : State :=
  let x := s.tile t
  match x.pre with
  | some y =>
    if y.phase = .requested ∧ ¬ (s.tileAtomics t) then s.setTile t { x with pre := some { y with phase := .stopped, since := s.time } } else s
  | none => s

/-! ### Stash (R295, R297) -/

def slotBytes : Nat := 0x2210000

/-- Where a slot begins in its context's address space. -/
def State.slotVa (s : State) (ctx q slot epoch : Nat) : Nat := ((s.settings epoch).cls ctx).stash.getD q 0 + slot * slotBytes

/-- Every page of a slot is translated, and no stack of the quadrant is out of service. -/
def State.slotReady (s : State) (ctx q va : Nat) : Bool :=
  let held := tgetD s.stash (4 * ctx + q) []
  ((List.range 545).all fun i => (heldAt held (va + 65536 * i)).isSome) &&
    (List.range 4).all fun i => decide (s.fld .HBM_STK_STATUS_OUT_OF_SERVICE (4 * q + i) = 0)

/-- The image's bytes: the scratchpad as it stands; the rest is the package's own format, free values. -/
def State.imageBytes (s : State) (t c : Nat) : List Byte :=
  s.mem.readPlain (scratchBase t) 0x2000000 ++ (List.range 0x210000).map fun i => Config.undefByte c i

def inWindow (lo n : Nat) (c : Host.Cell) : Bool := decide (lo ≤ c.1) && decide (c.1 < lo + n)

/-- The listed bytes of a tile's scratchpad, by offset. -/
def State.scratchCells (s : State) (t : Nat) : List Host.Cell :=
  (s.mem.cells.filter (inWindow (scratchBase t) 0x2000000)).map fun c => (c.1 - scratchBase t, c.2)

/-- What the state record keeps of a core: its groups and blocks, and which lines it had locked. -/
def Core.saved (c : Core) : Core := { c with l1 := c.l1.filter fun l => l.locked, evb := [] }

/-- A unit's command has no unit left on a tile. -/
def State.noteStashed (s : State) (id : Nat) : State :=
  if s.tilesOf id = [] then s.modCmd id fun (c : Cmd) => if c.phase = .running then { c with phase := .stashed } else c else s

def State.cmdAttr (_ : State) (c : Cmd) : Option Attr := some ⟨c.ctx, c.panel, hLayer c.raw, hOperator c.raw⟩

/-- The image of the unit on a tile is written, and the tile is released for the cause. -/
def State.stashUnit (s : State) (t : Nat) (u : TileUnit) : State :=
  let q := quadOf t
  let p := (s.tile t).owner.getD 0
  let s := (tileCores t).foldl (fun s k => s.cleanCore k) s
  let (c, s) := s.fresh
  let img : Image := {
    ctx := u.ctx, cmd := u.cmd, tile := t, quad := q, slot := u.slot, epoch := u.epoch, scratch := s.scratchCells t,
    cores := (tileCores t).map fun k => (s.coreOf k).saved }
  let va := s.slotVa u.ctx q u.slot u.epoch
  let s := s.heldWrite (tgetD s.stash (4 * u.ctx + q) []) va (s.imageBytes t c)
  let s := s.dropCores (tileCores t)
  let s := { s with
    images := tput s.images s.nextImage img, nextImage := s.nextImage + 1,
    resvs := s.resvs.filter fun r => !((tileCores t).contains r.core) }
  let s := s.leaveTile t
  let s := ((s.modTile t fun x => { x with unit := none, pre := none }).setFld .ARR_STATUS_STOP_PENDING t 0).setFld .ARR_STATUS_CTX t u.ctx
  let s := (s.incFld .PNL_COUNTS_PREEMPTS p 1).setReg .PNL_LAST_PREEMPT p s.now
  let a := (s.cmd u.cmd).bind s.cmdAttr
  let s := ((s.bump (unitTile t) 11 slotBytes a).bump (unitTile t) 15 1 a).bumpFn (((tget s.ctxs u.ctx).map fun c => c.func).getD 0) 12 1
  s.noteStashed u.cmd

/-- R298: the context is frogged, and the tile is released. -/
def State.abandonPre (s : State) (t : Nat) (u : TileUnit) : State :=
  let p := (s.tile t).owner.getD 0
  let s := (s.setFld .PNL_STATUS_ABANDON p 1).incFld .PNL_COUNTS_ABANDONS p 1
  s.frog u.ctx 0x0202

/-- STASH_DONE: the slice accepted the image, or a write of it faulted. -/
def stashDone (t : Nat) (accepted : Bool) (s : State) : State :=
  let x := s.tile t
  match x.unit, x.pre with
  | some u, some y =>
    if y.phase = .stopped then
      if accepted && s.slotReady u.ctx (quadOf t) (s.slotVa u.ctx (quadOf t) u.slot u.epoch) then s.stashUnit t u else s.abandonPre t u
    else s
  | _, _ => s

/-- PREEMPT_ABANDON: a phase passed its limit (Table 09-4). -/
def preemptAbandon (t : Nat) (s : State) : State :=
  let x := s.tile t
  match x.unit, x.pre with
  | some u, some y =>
    if (if y.phase = .requested then 16000 else 56000) ≤ (s.time - y.since).toNat then s.abandonPre t u else s
  | _, _ => s

/-! ### BE units (R290, R291, R300) -/

/-- A row command runs on the tiles of its sequencer (R255). -/
def State.rowTile (s : State) (c : Cmd) (t : Nat) : Bool :=
  match c.row with
  | none => true
  | some p => (tget s.rsqs p).any fun r => bit r.cfg.tiles t

/-- R405: no unit of a function that is being frozen starts or resumes, but for those of a row that has yet to end. -/
def State.unitsBarred (s : State) (c : Cmd) : Bool :=
  c.row.isNone && (match tget s.funcs c.func with
    | some g => decide (2 ≤ g.state)
    | none => false)

/-- A BE command that uses tiles and may begin could run on tile t. -/
def State.beFits (s : State) (c : Cmd) (t : Nat) : Bool :=
  usesTiles c.opcode && !(s.isLc c) && !(s.unitsBarred c) && bit (tileMask c.raw) t && s.rowTile c t && s.startable c && s.beAllowed c.ctx c.epoch &&
    (s.freeSlot c.ctx (quadOf t) c.epoch).isSome

/-- R463: a stepped tile holds a command assigned to it, and a command that such tiles hold begins when all have released it. -/
def State.stepBars (s : State) (t id : Nat) : Bool :=
  (bit (s.reg .DBG_STEP_EN 0) t && decide (tget s.stepped t ≠ some (2 * id + 1))) ||
    s.stepped.any fun e => decide (e.2 = 2 * id) && bit (s.reg .DBG_STEP_EN 0) e.1

/-- BE_UNIT_START. -/
def beUnitStart (t id : Nat) (s : State) : State :=
  match s.cmd id with
  | none => s
  | some c =>
    if s.beFits c t ∧ s.tileOpen t c.panel c.epoch ∧ c.phase ≠ .done ∧ s.stepBars t id = true then
      if bit (s.reg .DBG_STEP_EN 0) t ∧ tget s.stepped t ≠ some (2 * id + 1) then { s with stepped := tput s.stepped t (2 * id) } else s
    else if s.beFits c t ∧ s.tileOpen t c.panel c.epoch ∧ c.phase ≠ .done then
      let s := (s.beginCmd c).stopFiller t
      let u : TileUnit := ⟨id, c.ctx, c.epoch, (s.freeSlot c.ctx (quadOf t) c.epoch).getD 0, s.time⟩
      (s.modTile t fun x => { x with unit := some u }).bump (unitTile t) 14 1 (s.cmdAttr c)
    else s

/-- The image may resume on tile t (R296): on its own tile, or with RELOCATE on any tile of the panel where a slot is free. -/
def State.imageFits (s : State) (i : Image) (t : Nat) : Bool :=
  decide (i.tile = t) || (((s.settings i.epoch).cls i.ctx).relocate &&
    (decide (i.quad = quadOf t) || (s.freeSlot i.ctx (quadOf t) i.epoch).isSome))

def State.imagePanel (s : State) (i : Image) : Nat := ((s.cmd i.cmd).map fun c => c.panel).getD 63

/-- Another context's BE unit waits for tile t of panel p. -/
def State.otherWaits (s : State) (t p ctx : Nat) : Bool :=
  (s.cmds.any fun e => decide (e.2.panel = p) && decide (e.2.ctx ≠ ctx) && s.beFits e.2 t && (s.tilesOf e.1).isEmpty &&
      decide (e.2.phase ≠ .stashed)) ||
    s.images.any fun e => decide (s.imagePanel e.2 = p) && decide (e.2.ctx ≠ ctx) && s.imageFits e.2 t &&
      !(s.cmds.any fun c => decide (c.1 = e.2.cmd) && (decide (c.2.phase = .recorded) || s.unitsBarred c.2))

/-- QUANTUM_END (R291). -/
def quantumEnd (t : Nat) (s : State) : State :=
  let x := s.tile t
  match x.unit, x.owner with
  | some u, some p =>
    let q := ((s.settings u.epoch).panel p).quantum
    if x.pre.isNone ∧ 1000 * q ≤ (s.time - u.quantumStart).toNat ∧ s.otherWaits t p u.ctx then s.requestStop t false true false false else s
  | _, _ => s

/-- A sector of a slot is poisoned. -/
def State.slotPoisoned (s : State) (ctx q va : Nat) : Bool :=
  let held := tgetD s.stash (4 * ctx + q) []
  (List.range 545).any fun i => match heldAt held (va + 65536 * i) with
    | some (a, _) => s.mem.sect.any fun e => e.2.poison && decide (a ≤ 32 * e.1) && decide (32 * e.1 < a + 65536)
    | none => false

/-- A core's new place is named in its launch. -/
def Launch.move (l : Launch) (old new : Nat) : Launch :=
  { l with
    open_ := l.open_.map fun k => if k = old then new else k,
    cores := if l.cores.contains new then l.cores else new :: l.cores }

/-- A line of this package's memory as it is now, under a key slot. -/
def State.lineNow (s : State) (line key : Nat) : List Byte :=
  (s.seenMem (128 * localLine line)).readHbm ((s.keyOf key).getD 0) (128 * localLine line) 128

/-- R300: locked ways are preloaded again, and loads that were in flight are issued again: those of this package read memory as it is
now, and those of others have yet to arrive. -/
def State.reread (s : State) (c : Core) : Core :=
  { c with
    l1 := c.l1.map fun l => if s.isLocal (128 * l.line) then { l with bytes := s.lineNow l.line l.key } else l,
    fills := c.fills.map fun f =>
      if s.isLocal (128 * f.line) then { f with bytes := s.lineNow f.line f.key } else { f with ready := false } }

/-- Put a saved core on core k. -/
def State.loadCore (s : State) (k old : Nat) (c : Core) : State :=
  let s := s.setCore k (s.reread c)
  match c.launch with
  | none => s
  | some id =>
    let s := { s with launches := tmod s.launches id fun l => l.move old k }
    match s.cmd id with
    | none => s
    | some x => (c.fills.filter fun f => !(s.isLocal (128 * f.line))).foldl (fun s f =>
        s.remoteRead x.ctx x.func (128 * f.line) f.key true (.lane (k / 32) (k % 32) 0 0 0 0 0)) s

/-- UNIT_RESUME (R295, R296, R300): an image is read back onto a tile. -/
def unitResume (t image : Nat) (crcOk : Bool) (s : State) : State :=
  match tget s.images image with
  | none => s
  | some i =>
    match s.cmd i.cmd with
    | none => s
    | some c =>
      if s.tileOpen t c.panel i.epoch ∧ s.imageFits i t ∧ s.beAllowed i.ctx i.epoch ∧ c.phase ≠ .recorded ∧ ¬ (s.unitsBarred c) then
        let va := s.slotVa i.ctx i.quad i.slot i.epoch
        if s.slotPoisoned i.ctx i.quad va then ({ s with images := tdel s.images image }).endCmd i.cmd 0x0302
        else if ¬ crcOk then s.frog i.ctx 0x0202
        else
          let slot := if i.quad = quadOf t then i.slot else (s.freeSlot i.ctx (quadOf t) i.epoch).getD 0
          let s := { s with images := tdel s.images image }
          let s := s.clearScratch t
          let s := { s with mem := { s.mem with cells := i.scratch.foldl (fun l (b : Host.Cell) => cellPut l (scratchBase t + b.1) b.2) s.mem.cells } }
          let s := ((tileCores t).zip ((tileCores i.tile).zip i.cores)).foldl (fun s e => s.loadCore e.1 e.2.1 e.2.2) s
          let s := (s.stopFiller t).modTile t fun x => { x with unit := some ⟨i.cmd, i.ctx, i.epoch, slot, s.time⟩ }
          let s := s.modCmd i.cmd fun (c : Cmd) => if c.phase = .stashed then { c with phase := .running } else c
          (s.bump (unitTile t) 12 slotBytes (s.cmdAttr c)).bump (unitTile t) 14 1 (s.cmdAttr c)
      else s

/-! ### LC dispatch (R289, R299) -/

/-- Stop every BE unit on some tiles for LC work. -/
def State.stopForLc (s : State) (l : List Nat) : State := l.foldl (fun s t => s.requestStop t true false false false) s

/-- LC work takes its tiles. -/
def State.ownTiles (s : State) (l : List Nat) (o : LcOwner) : State :=
  l.foldl (fun s t => (s.stopFiller t).modTile t fun x => { x with lc := some o }) s

/-- LC_DISPATCH: the command begins once its tiles are free; until then their BE units are stopped, and tiles that another LC job owns are
waited for. -/
def lcDispatch (id : Nat) (s : State) : State :=
  match s.cmd id with
  | none => s
  | some c =>
    let l := maskBits c.tiles 48
    if hLc c.raw ∧ c.row.isNone ∧ usesTiles c.opcode ∧ c.phase = .waiting ∧ s.startable c then
      if l.any fun t => (s.tile t).lc.isSome then s
      else if l.any fun t => (s.tile t).unit.isSome then s.stopForLc l
      else
        let ns := (s.time - c.tAdm).toNat
        let s := (s.beginCmd c).ownTiles l (.cmd id)
        let s := s.setFld .PNL_DISPATCH_LAST_NS c.panel (sat 32 ns)
        let s := s.setFld .PNL_DISPATCH_MAX_NS c.panel (sat 32 (max ns (s.fld .PNL_DISPATCH_MAX_NS c.panel)))
        l.foldl (fun s t => s.bump (unitTile t) 14 1 (s.cmdAttr c)) s
    else s

end Sys2Proof.Machine
end

