-- ==== Sys2Proof/Machine/Debug.lean ====
section
/-! DEFINITION. Halts and stepping (14.8). -/

namespace Sys2Proof.Machine

/-- A lane of the group holds a reservation (R462). -/
def State.groupLocked (s : State) (k g : Nat) : Bool := s.resvs.any fun r => decide (r.core = k) && decide (r.group = g)

def State.findGroup (s : State) (k g : Nat) : Option Group := (s.coreOf k).groups.find? fun x => decide (x.num = g)

/-- The group is halted: a deferred halt takes effect at the next boundary without a reservation. -/
def State.groupHalted (s : State) (k : Nat) (g : Group) : Bool :=
  g.halted || (g.deferred.isSome && !(s.groupLocked k g.num))

def State.refuseDebug (s : State) : State := s.setFld .DBG_STATUS_REFUSED 0 1

/-- A halt or step of LC work is refused unless LC_HALT_ACTIVE is 1. -/
def State.lcCore (s : State) (k : Nat) : Bool :=
  decide (s.fld .DBG_STATUS_LC_HALT_ACTIVE 0 ≠ 1) &&
    match (s.coreOf k).launch.bind s.cmd with
    | some c => s.isLc c
    | none => false

/-- Halt a group now, or defer its halt (R462). -/
def State.haltOne (s : State) (k : Nat) (g : Group) : State :=
  if s.groupHalted k g ∨ g.deferred.isSome then s
  else if s.groupLocked k g.num then s.modGroup k g.num fun x => { x with deferred := some s.time }
  else s.modGroup k g.num fun x => { x with halted := true }

def dbgHaltGroup (die core group : Nat) (s : State) : State :=
  let k := 32 * die + core
  match s.findGroup k group with
  | none => s.refuseDebug
  | some g => if s.lcCore k then s.refuseDebug else s.haltOne k g

def dbgHaltCore (die core : Nat) (s : State) : State :=
  let k := 32 * die + core
  if ¬ (die < 12 ∧ core < 32) ∨ s.lcCore k = true then s.refuseDebug
  else
    let s := (s.coreOf k).groups.foldl (fun s g => s.haltOne k g) s
    s.modCore k fun c => { c with halted := true }

def Group.unhalt (g : Group) : Group := { g with halted := false, deferred := none, step := false }

def dbgResumeGroup (die core group : Nat) (s : State) : State :=
  let k := 32 * die + core
  match s.findGroup k group with
  | none => s.refuseDebug
  | some _ => s.modGroup k group Group.unhalt

def dbgResumeCore (die core : Nat) (s : State) : State :=
  if die < 12 ∧ core < 32 then
    s.modCore (32 * die + core) fun c => { c with halted := false, groups := c.groups.map Group.unhalt }
  else s.refuseDebug

/-- The group may issue one instruction, and is halted after it. -/
def dbgStepGroup (die core group : Nat) (s : State) : State :=
  let k := 32 * die + core
  match s.findGroup k group with
  | none => s.refuseDebug
  | some _ =>
    if s.lcCore k then s.refuseDebug
    else s.modGroup k group fun x => { x with halted := true, deferred := none, step := true }

/-- HALT_DEFER_TIMEOUT: after 10 µs the group halts, its reservations broken. -/
def haltDeferTimeout (die core group : Nat) (s : State) : State :=
  let k := 32 * die + core
  match s.findGroup k group with
  | none => s
  | some g =>
    match g.deferred with
    | none => s
    | some t =>
      if s.groupLocked k group ∧ 10000 ≤ (s.time - t).toNat then
        let s := { s with resvs := s.resvs.filter fun r => !(decide (r.core = k) && decide (r.group = group)) }
        (s.setFld .DBG_STATUS_LOCK_BROKEN 0 1).modGroup k group fun x => { x with halted := true, deferred := none, lockBroken := true }
      else s

/-- Registers per thread of the launch on a core. -/
def State.coreRegs (s : State) (k : Nat) : Nat :=
  match (s.coreOf k).launch.bind s.cmd with
  | some c => if leAt c.raw 38 1 = 0 then 256 else leAt c.raw 38 1
  | none => 0

/-- The group that `DBG_GRP_SEL` selects. -/
def State.dbgCore (s : State) : Nat := 32 * s.fld .DBG_GRP_SEL_DIE 0 + s.fld .DBG_GRP_SEL_CORE 0

def State.dbgGroup (s : State) : Option Group := s.findGroup s.dbgCore (s.fld .DBG_GRP_SEL_GROUP 0)

/-- The register that `DBG_REG_SEL` selects, in a halted group; none where there is none. -/
def State.dbgReg (s : State) : Option (Group × Nat) :=
  match s.dbgGroup with
  | none => none
  | some g =>
    if s.groupHalted s.dbgCore g && decide (s.fld .DBG_REG_SEL_REG 0 < s.coreRegs s.dbgCore) then
      some (g, 256 * s.fld .DBG_REG_SEL_LANE 0 + s.fld .DBG_REG_SEL_REG 0)
    else none

/-- What a read of `DBG_REG_DATA` returns; without a halted group the spec states no value. -/
def State.dbgRegRead (s : State) : Nat × State :=
  match s.dbgReg with
  | some (g, i) => ((tgetD g.regs i 0).toNat, s)
  | none =>
    let (c, s) := s.fresh
    ((Config.freeWord c).toNat % 2 ^ 32, s)

def State.dbgRegWrite (s : State) (v : W32) : State :=
  match s.dbgReg with
  | some (g, i) => s.modGroup s.dbgCore g.num fun x => { x with regs := tput x.regs i v }
  | none => s.refuseDebug

/-- DBG_REG_ACCESS. -/
def dbgRegAccess (wr : Bool) (v : W32) (s : State) : State :=
  if wr then s.dbgRegWrite v
  else
    let (x, s) := s.dbgRegRead
    s.emit (.regData (w64 x))

/-- DBG_STEP_GO (R463). -/
def dbgStepGo (t : Nat) (s : State) : State :=
  match tget s.stepped t with
  | some n => if n % 2 = 0 ∧ (s.cmd (n / 2)).isSome then { s with stepped := tput s.stepped t (n + 1) } else s
  | none => s

/-- Tiles that hold a command (`DBG_STEP_STATUS`). -/
def State.stepHolding (s : State) : Nat :=
  maskOf ((s.stepped.filter fun e => decide (e.2 % 2 = 0) && (s.cmd (e.2 / 2)).isSome && bit (s.reg .DBG_STEP_EN 0) e.1).map fun e => e.1)

/-- LC_HALT_ENABLE (R461). -/
def lcHaltEnable (on : Bool) (s : State) : State :=
  let s := s.setFld .DBG_CTL_LC_HALT_EN 0 (b2n on)
  if on then s else s.setFld .DBG_STATUS_LC_HALT_ACTIVE 0 0

/-- LC_HALT_ACTIVATE. -/
def lcHaltActivate (s : State) : State :=
  if s.fld .DBG_CTL_LC_HALT_EN 0 = 1 ∧ ¬ (s.cmds.any fun e => hLc e.2.raw && e.2.row.isNone) ∧
      ¬ (s.rsqs.any fun e => e.2.cfg.lcEn && s.rsqStarted e.1) then
    s.setFld .DBG_STATUS_LC_HALT_ACTIVE 0 1
  else s

/-- The halt-command register acts by its OP. -/
def State.haltCmd (s : State) (v : Nat) : State :=
  let die := bits v 19 16
  let core := bits v 12 8
  let g := bits v 5 0
  match bits v 31 28 with
  | 1 => dbgHaltGroup die core g s
  | 2 => dbgHaltCore die core s
  | 3 => dbgResumeGroup die core g s
  | 4 => dbgResumeCore die core s
  | 5 => dbgStepGroup die core g s
  | _ => s

end Sys2Proof.Machine
end

