-- ==== Sys2Proof/Machine/Checked.lean ====
section
/-! DEFINITION. Commands whose checks are made again as they run: a command admitted earlier may have changed what they read
(log entry 33). -/

namespace Sys2Proof.Machine

/-- Check, then act. -/
def checkedBody (checks : State → List Byte → List (Bool × Nat)) (act : State → List Byte → State × Nat) (s : State) (c : Cmd) :
    State × Option Nat :=
  let st := checkStatus (checks s c.raw)
  if st ≠ 0 then (s, some st)
  else
    let (s, st) := act s c.raw
    (s, some st)

end Sys2Proof.Machine
end

