-- ==== Sys2Proof/Machine/Panels.lean ====
section
/-! DEFINITION. Panels (09.1), re-binding (09.5), staged configuration and epochs (09.6), compaction and re-spreading (09.7). -/

namespace Sys2Proof.Machine

/-! ### Sums and limits (R286) -/

/-- `PNL_W_TOTAL.LIMIT` in GB/s, at the operating pin rate in tenths of Gb/s. -/
def State.wLimit (s : State) : Nat := 24000 * (64 + 16 * s.fld .HBM_G_STATUS_OPERATING_RATE 0) / 128

def sumPanels (c : Settings) (f : PanelCfg → Nat) : Nat := c.panels.foldl (fun n e => n + f e.2) 0

def State.wTotal (s : State) : Nat := sumPanels s.cfg fun c => c.w

/-- Change the latest committed settings. -/
def State.modCfg (s : State) (f : Settings → Settings) : State := { s with epochs := tput s.epochs s.committed (f s.cfg) }

/-- Change the settings of every epoch that is kept. -/
def State.modEpochs (s : State) (f : Settings → Settings) : State := { s with epochs := s.epochs.map fun (e : Nat × Settings) => (e.1, f e.2) }

/-! ### PANEL_CREATE (R287) -/

def badQuantum (q : Nat) : Bool := decide (q ≠ 0) && (decide (q < 100) || decide (10000 < q))

def panelCreateReserved (r : List Byte) : Bool :=
  nzBits r 16 7 6 || nzBits r 17 7 2 || decide (bits (leAt r 30 2) 15 11 ≠ 0) || nzBits r 48 7 6 || nonzero r 50 64

def panelCreateChecks (s : State) (r : List Byte) : List (Bool × Nat) :=
  let p := leAt r 16 1 % 64
  let imp := bit (leAt r 17 1) 0
  let tiles := leAt r 18 6
  let lc := leAt r 24 6
  let share := bits (leAt r 30 2) 10 0
  let w := leAt r 36 4
  let blob := leAt r 40 8
  [(panelCreateReserved r, 0x0102), (decide (47 < p), 0x0102), (decide (tiles = 0), 0x0102), (decide (lc &&& tiles ≠ lc), 0x0102),
   (decide (1024 < share), 0x0102), (badQuantum (leAt r 32 4), 0x0102), (decide (s.wLimit < w), 0x0102),
   (decide (48 < leAt r 48 1 % 64), 0x0102), (!imp && decide (blob ≠ 0), 0x0102),
   (imp && (decide (blob % 64 ≠ 0) || !(s.importKey p blob).2), 0x0102),
   (thas s.panels p, 0x0104), ((maskBits tiles 48).any fun t => (s.tile t).owner.isSome || !(s.tilePresent t), 0x0104),
   (decide (s.wLimit < s.wTotal + w), 0x0104), (decide (1024 < sumPanels s.cfg (fun c => c.linkShare) + share), 0x0104)]

def panelCfgOf (r : List Byte) : PanelCfg :=
  { lcTiles := leAt r 24 6, lend := bit (leAt r 17 1) 1, quantum := if leAt r 32 4 = 0 then 250 else leAt r 32 4, w := leAt r 36 4,
    linkShare := bits (leAt r 30 2) 10 0, minTiles := leAt r 48 1 % 64, compactPrio := leAt r 49 1 }

/-- A tile is handed to a panel from the pool, holding zeros. -/
def State.takeTile (s : State) (p t : Nat) : State :=
  let s := if s.tileOn t then s else s.tileOnDo t
  let s := ((s.stopFiller t).dropCores (tileCores t)).clearScratch t
  let s := ((s.unloadSlots t).flushTileTlbs t).resetTileRegs t
  s.modTile t fun x => { x with owner := some p, home := none }

/-- The registers of a panel that begins or ends (Tables 08-15, 09-13, 11-7). -/
def State.freshPanelRegs (s : State) (p : Nat) : State :=
  [Reg.PWR_PANEL, .PWR_PANEL_RES, .PNL_STATUS, .PNL_COUNTS, .PNL_DISPATCH, .PNL_LAST_PREEMPT, .RSQ_STATUS, .RSQ_ROW, .RSQ_POOL, .RSQ_SEQS,
    .RSQ_ROW_WC, .RSQ_LAST_ROW_TIME, .RSQ_COUNTS, .RSQ_FAULT].foldl (fun s r => s.resetReg r p) s

def panelCreateDo (s : State) (r : List Byte) : State × Nat :=
  let p := leAt r 16 1 % 64
  let (s, ok) := if bit (leAt r 17 1) 0 then s.importKey p (leAt r 40 8) else (s.generate p, true)
  if ¬ ok then (s, 0x0102)
  else
    let tiles := leAt r 18 6
    let s := { s with panels := tput s.panels p ⟨tiles, []⟩ }
    let s := s.modEpochs fun c => { c with panels := tput c.panels p (panelCfgOf r) }
    let s := (maskBits tiles 48).foldl (fun s t => s.takeTile p t) ((s.freshPanelRegs p).setFld .PWR_PANEL_TARGET p 1900)
    let s := { s with pwr := { s.pwr with accounts := tdel s.pwr.accounts (4096 + p) } }
    ((s.clearUnit (unitRsq p)).updateReservations.paceDies, 0)

/-! ### Re-binding a tile (R303, R304) -/

def setTileBit (m t : Nat) (on : Bool) : Nat := setBits m t t (b2n on)

/-- Steps 2 to 5 of Table 09-8 for a tile without a unit: from the panel that holds it to a panel or the pool. -/
def State.rebindTile (s : State) (t : Nat) (dst : Option Nat) (off : Bool) : State :=
  let src := (s.tile t).owner
  let s := s.stopFiller t
  let s := s.modTile t fun x => { x with owner := none, pre := none }
  let s :=
    if off then s.tileOff t
    else if ¬ (s.tileOn t) then (if dst.isSome then s.tileOnDo t else s)
    else ((s.scrubTile t).flushTileTlbs t).resetTileRegs t
  let s := match src with
    | some p => ({ s with panels := tmod s.panels p fun x => { x with tiles := setTileBit x.tiles t false } }).incFld .PNL_COUNTS_REBINDS p 1
    | none => s
  match dst with
  | some p =>
    let s := { s with panels := tmod s.panels p fun x => { x with tiles := setTileBit x.tiles t true } }
    ((s.modTile t fun x => { x with owner := some p }).giveSlots t p).incFld .PNL_COUNTS_REBINDS p 1
  | none => s

/-! ### PANEL_DESTROY (R288) -/

/-- A die-scratch segment is the panel's, now or once a staged owner is applied. -/
def State.ownsSegment (s : State) (p : Nat) : Bool :=
  (List.range 192).any fun (i : Nat) => s.cfg.dscrOwner (i / 16) (i % 16) == some p

def panelDestroyChecks (s : State) (r : List Byte) : List (Bool × Nat) :=
  let p := leAt r 16 1 % 64
  [(nzBits r 16 7 6 || nonzero r 17 64, 0x0102),
   (s.ctxs.any (fun e => decide (e.2.panel = p)) || s.queues.any (fun e => decide (e.2.panel = p) && decide (p < 48)) || s.ownsSegment p, 0x0102),
   (!(thas s.panels p), 0x0104)]

def panelDestroyDo (s : State) (r : List Byte) : State × Nat :=
  let p := leAt r 16 1 % 64
  match tget s.panels p with
  | none => (s, 0x0104)
  | some x =>
    let s := (maskBits x.tiles 48).foldl (fun s t => s.rebindTile t none false) s
    let s := s.keyOp 2 p
    let s := (List.range 48).foldl (fun s t => if (s.tile t).home = some p then s.modTile t fun x => { x with home := none } else s) s
    let s := { s with panels := tdel s.panels p, rsqs := tdel s.rsqs p }
    let s := (s.modEpochs fun c => { c with panels := tdel c.panels p }).freshPanelRegs p
    let s := { s with toApply := s.toApply.filter fun a => !(decide (a = CfgResource.panelW p) || decide (a = CfgResource.linkShare p)) }
    (s.updateReservations.updateBelow.paceDies, 0)

/-! ### PANEL_REBIND (R302) -/

def panelOrPool (s : State) (n : Nat) : Bool := decide (n = 63) || thas s.panels n

def panelRebindChecks (s : State) (r : List Byte) : List (Bool × Nat) :=
  let src := leAt r 16 1 % 64
  let dst := leAt r 17 1 % 64
  let l := maskBits (leAt r 18 6) 48
  let toLc := bit (leAt r 24 1) 0
  let off := bit (leAt r 24 1) 1
  let owner := if src = 63 then none else some src
  [(nzBits r 16 7 6 || nzBits r 17 7 6 || nzBits r 24 7 2 || nonzero r 25 64, 0x0102), (decide (l = []), 0x0102),
   (decide (src = dst) || (toLc && decide (dst = 63)) || (off && decide (dst ≠ 63)), 0x0102),
   ((decide (47 < src) && decide (src ≠ 63)) || (decide (47 < dst) && decide (dst ≠ 63)), 0x0102),
   (!(panelOrPool s src) || !(panelOrPool s dst), 0x0104),
   (l.any fun t => !(s.tilePresent t) || decide ((s.tile t).owner ≠ owner), 0x0104),
   (decide (src ≠ 63) && l.any fun t => bit (s.cfg.panel src).lcTiles t, 0x0104),
   (decide (src ≠ 63) && s.rsqStarted src && (match tget s.rsqs src with
     | some q => l.any fun t => bit q.cfg.tiles t
     | none => false), 0x0104)]

/-- An LC job owns one of the tiles, or an LC command that was admitted for one is in flight (R289). -/
def State.lcHolds (s : State) (l : List Nat) : Bool :=
  l.any fun t => (s.tile t).lc.isSome || s.cmds.any fun e => hLc e.2.raw && e.2.row.isNone && usesTiles e.2.opcode && bit e.2.tiles t

/-- Hand the tiles over once none holds a unit; until then their units are stopped and stashed, and LC work is waited for
(log entry 132). -/
def panelRebindBody (s : State) (c : Cmd) : State × Option Nat :=
  let r := c.raw
  let st := if c.step = 0 then checkStatus (panelRebindChecks s r) else 0
  if st ≠ 0 then (s, some st)
  else
    let l := maskBits (leAt r 18 6) 48
    let s := s.modCmd c.id fun x => { x with step := 1 }
    if l.any fun t => (s.tile t).unit.isSome then (l.foldl (fun s t => s.requestStop t false false true false) s, none)
    else if s.lcHolds l then (s, none)
    else
      let dst := if leAt r 17 1 % 64 = 63 then none else some (leAt r 17 1 % 64)
      let s := l.foldl (fun s t => (s.rebindTile t dst (bit (leAt r 24 1) 1)).modTile t fun x => { x with home := none }) s
      let s := if bit (leAt r 24 1) 0 then
          s.modCfg fun c => { c with panels := tmod c.panels (leAt r 17 1 % 64) fun x => { x with lcTiles := x.lcTiles ||| leAt r 18 6 } }
        else s
      (s.updateReservations.updateBelow.paceDies, some 0)

/-! ### CONFIG_STAGE (R294, R307) -/

/-- A CTX_CLASS item (Table 09-10). -/
def classOf (r : List Byte) : CtxClass :=
  { beEn := bit (leAt r 20 1) 0, relocate := bit (leAt r 20 1) 1, weight := max 1 (leAt r 21 1),
    stash := [leAt r 24 8, leAt r 32 8, leAt r 40 8, leAt r 48 8], slots := [leAt r 56 1, leAt r 57 1, leAt r 58 1, leAt r 59 1] }

/-- The hub's own issuer for a context (the SCC and the stash engines). -/
def State.ctxIssuer (s : State) (ctx : Nat) : Issuer :=
  match tget s.ctxs ctx with
  | some c => ⟨396, ⟨ctx, c.panel, decide (c.func = 0), s.committed⟩, 0, 3⟩
  | none => ⟨396, ⟨ctx, 63, false, s.committed⟩, 0, 3⟩

/-- A stash page: normal memory with R and W rights and the panel's key, in a quadrant-local frame, homed in Qq. -/
def State.stashPage (s : State) (ctx q va : Nat) : State × Option TlbEntry :=
  let iss := s.ctxIssuer ctx
  match s.xlate iss .read va with
  | (s, .error _) => (s, none)
  | (s, .ok x) =>
    match s.xlate iss .write va with
    | (s, .error _) => (s, none)
    | (s, .ok _) =>
      let a := x.pa % 2 ^ 48
      let panel := iss.who.panel
      if s.isLocal x.pa ∧ region a = .hbm ∧ ¬ x.device ∧ x.key = panel ∧ s.quadLocal (bits a 39 36) = true ∧ bits a 35 34 = q ∧ va % 65536 = 0 then
        (s, some ⟨ctx, va, 65536, x.pa, x.key, true, true, false, false⟩)
      else (s, none)

/-- The translations of a quadrant's stash area; none where a page fails. -/
def State.stashArea (s : State) (ctx q va slots : Nat) : State × Option (List TlbEntry) :=
  (List.range (545 * slots)).foldl (fun (x : State × Option (List TlbEntry)) i =>
    match x.2 with
    | none => x
    | some l => match x.1.stashPage ctx q (va + 65536 * i) with
      | (s, some e) => (s, some (l ++ [e]))
      | (s, none) => (s, none)) (s, some [])

/-- Every stash area of a class; none where one fails. -/
def State.stashAreas (s : State) (ctx : Nat) (k : CtxClass) : State × Option (List (List TlbEntry)) :=
  (List.range 4).foldl (fun (x : State × Option (List (List TlbEntry))) q =>
    match x.2 with
    | none => x
    | some l => match x.1.stashArea ctx q (k.stash.getD q 0) (k.slots.getD q 0) with
      | (s, some a) => (s, some (l ++ [a]))
      | (s, none) => (s, none)) (s, some [])

def stageReserved (r : List Byte) : Bool :=
  match leAt r 16 1 with
  | 1 => nonzero r 17 18 || decide (bits (leAt r 18 2) 15 6 ≠ 0) || nzBits r 20 7 7 || nzBits r 21 7 1 || nonzero r 22 24 ||
      decide (bits (leAt r 30 2) 15 11 ≠ 0 ∧ bit (leAt r 20 1) 4 = true) || nonzero r 42 64
  | 2 => nonzero r 17 18 || decide (bits (leAt r 18 2) 15 12 ≠ 0) || nzBits r 20 7 2 || nonzero r 22 24 || nonzero r 60 64
  | _ => nonzero r 17 64

/-- A PANEL_SET item: which fields it sets, and their values. -/
def panelSetBad (s : State) (r : List Byte) : Bool :=
  let u := leAt r 20 1
  (bit u 2 && badQuantum (leAt r 32 4)) || (bit u 3 && decide (s.wLimit < leAt r 36 4)) ||
    (bit u 4 && decide (1024 < bits (leAt r 30 2) 10 0)) || (bit u 5 && decide (48 < leAt r 40 1))

def panelSetOf (r : List Byte) : PanelCfg :=
  { lcTiles := leAt r 24 6, lend := bit (leAt r 21 1) 0, quantum := if leAt r 32 4 = 0 then 250 else leAt r 32 4, w := leAt r 36 4,
    linkShare := bits (leAt r 30 2) 10 0, minTiles := leAt r 40 1, compactPrio := leAt r 41 1 }

def configStageChecks (s : State) (r : List Byte) : List (Bool × Nat) :=
  let k := leAt r 16 1
  let t := leAt r 18 2
  [(decide (k = 0) || decide (3 < k), 0x0102), (stageReserved r, 0x0102),
   (decide (k = 1) && (decide (47 < t % 64) || panelSetBad s r), 0x0102),
   (decide (k = 2) && (List.range 4).any fun q => decide (12 < leAt r (56 + q) 1), 0x0102),
   (decide (k = 2) && thas s.ctxs (t % 4096) && (s.stashAreas (t % 4096) (classOf r)).2.isNone, 0x0102),
   (decide (k = 1) && !(thas s.panels (t % 64)), 0x0104), (decide (k = 2) && !(thas s.ctxs (t % 4096)), 0x0104)]

/-- An item is added, or the stage is emptied. Where room lacks the command ends with 0x0104, and STAGE_FULL is set. -/
def configStageDo (s : State) (r : List Byte) : State × Nat :=
  match leAt r 16 1 with
  | 1 => if 256 ≤ s.stage.length then (s.setFld .PNL_CFG_STATUS_STAGE_FULL 0 1, 0x0104)
    else ({ s with stage := s.stage ++ [.panel (leAt r 18 2 % 64) (leAt r 20 1) (panelSetOf r)] }, 0)
  | 2 => if 256 ≤ s.stage.length then (s.setFld .PNL_CFG_STATUS_STAGE_FULL 0 1, 0x0104)
    else
      match s.stashAreas (leAt r 18 2 % 4096) (classOf r) with
      | (s, some _) => ({ s with stage := s.stage ++ [.ctxClass (leAt r 18 2 % 4096) (classOf r)] }, 0)
      | (s, none) => (s, 0x0102)
  | _ => ({ s with stage := [] }, 0)

/-! ### CONFIG_COMMIT (R308) -/

/-- The fields of a PANEL_SET take the place of the panel's. -/
def applySet (u : Nat) (old new : PanelCfg) : PanelCfg :=
  { lcTiles := if bit u 0 then new.lcTiles else old.lcTiles, lend := if bit u 1 then new.lend else old.lend,
    quantum := if bit u 2 then new.quantum else old.quantum, w := if bit u 3 then new.w else old.w,
    linkShare := if bit u 4 then new.linkShare else old.linkShare, minTiles := if bit u 5 then new.minTiles else old.minTiles,
    compactPrio := if bit u 6 then new.compactPrio else old.compactPrio }

/-- Eight owner bytes of a die are set; values 48 to 63 of PANEL are ignored (Table 03-13). -/
def setOwners (t : Tab Nat) (base word value : Nat) : Tab Nat :=
  (List.range 8).foldl (fun t i =>
    let b := bits value (8 * i + 7) (8 * i)
    if bits b 5 0 < 48 then tput t (base + 8 * word + i) (b % 64 + 128 * b2n (bit b 7)) else t) t

def applyItem (c : Settings) : StageItem → Settings
  | .panel p u x => { c with panels := tmod c.panels p fun y => applySet u y x }
  | .ctxClass x k => { c with classes := tput c.classes x k }
  | .arr t v => { c with arr := tput c.arr t v }
  | .dscr die w v => { c with dscr := setOwners c.dscr (16 * die) w v }
  | .frameMode v => { c with frameMode := v }

/-- The settings that the stage makes of others. -/
def applyStage (c : Settings) (l : List StageItem) : Settings := l.foldl applyItem c

/-- The stage checked again against the present state. -/
def State.stageStands (s : State) : Bool :=
  let n := applyStage s.cfg s.stage
  (s.stage.all fun i => match i with
    | .panel p _ _ => thas s.panels p
    | .ctxClass x k => thas s.ctxs x && (s.stashAreas x k).2.isSome
    | _ => true) &&
  (n.panels.all fun e => match tget s.panels e.1 with
    | some x => decide (e.2.lcTiles &&& x.tiles = e.2.lcTiles)
    | none => true) &&
  decide ((n.panels.map fun e => max e.2.w (s.cfg.panel e.1).w).foldl (· + ·) 0 ≤ s.wLimit)

/-- Resources whose settings differ and that apply a new epoch at a quiescent point of their own (Table 09-9). A W that rises applies at
commit. -/
def changedResources (a b : Settings) : List CfgResource :=
  ((b.panels.filter fun e => decide (e.2.w < (a.panel e.1).w)).map fun e => CfgResource.panelW e.1) ++
    ((b.panels.filter fun e => decide (e.2.linkShare ≠ (a.panel e.1).linkShare)).map fun e => CfgResource.linkShare e.1) ++
    ((List.range 192).filterMap fun (i : Nat) =>
      if a.dscrOwner (i / 16) (i % 16) == b.dscrOwner (i / 16) (i % 16) then none else some (CfgResource.dscrSeg (i / 16) (i % 16))) ++
    ((b.classes.filter fun e => decide (e.2 ≠ a.cls e.1)).map fun e => CfgResource.ctxClass e.1)

/-- R127: a frame changed its mode: its contents are lost, and lines of it in the unified cache are dropped. -/
def State.changeFrames (s : State) (old : List Bool) : State :=
  (List.range 16).foldl (fun s f =>
    if s.quadLocal f = old.getD f false then s
    else
      let inFrame (l : Line) : Bool := s.isLocal (128 * l.line) && decide (bits (128 * localLine l.line) 39 36 = f)
      { s with
        mem := s.mem.loseFrame f,
        skein := s.skein.filter fun e => !(decide (128 * e.line / 0x1000000000 = f)),
        slices := s.slices.map fun e => (e.1, { e.2 with
          lines := e.2.lines.filter fun l => !(inFrame l), wbuf := e.2.wbuf.filter fun l => !(inFrame l) }) }) s

/-- Commit new settings as the next epoch: what applies at commit, and which resources are still to apply it. -/
def State.commitAs (s : State) (c : Settings) (todo : List CfgResource) : State :=
  let old := (List.range 16).map fun f => s.quadLocal f
  let e := s.committed + 1
  let s := { s with epochs := tput s.epochs e c, committed := e, toApply := todo, commitAt := s.time }
  (s.changeFrames old).updateReservations.updateBelow

/-- Epochs that nothing runs under any more, but for the last two, need not be kept. -/
def State.pruneEpochs (s : State) : State :=
  let used (e : Nat) : Bool := decide (s.committed ≤ e + 2) || s.cmds.any (fun c => decide (c.2.epoch = e)) ||
    s.images.any (fun i => decide (i.2.epoch = e))
  { s with epochs := s.epochs.filter fun e => used e.1 }

/-- When every resource has applied the epoch, CONFIG_APPLIED goes to the manager. -/
def State.checkApplied (s : State) : State :=
  if s.toApply = [] ∧ s.applied ≠ s.committed then
    ({ s with applied := s.committed }.postMgr 0x0006 (s.committed % 2 ^ 32)).pruneEpochs
  else s

/-- CONFIG_COMMIT: 0x0104 while an earlier epoch is pending, 0x0102 where the stage no longer stands. -/
def configCommitDo (s : State) : State × Nat :=
  if s.stage = [] then (s, 0)
  else if s.applied ≠ s.committed then (s, 0x0104)
  else if ¬ s.stageStands then (s, 0x0102)
  else
    let n := applyStage s.cfg s.stage
    let todo := changedResources s.cfg n
    (({ s with stage := [] }.commitAs n todo).checkApplied, 0)

def configCommitChecks (s : State) (r : List Byte) : List (Bool × Nat) :=
  [(nonzero r 16 64, 0x0102), (decide (s.applied = s.committed) && decide (s.stage ≠ []) && !s.stageStands, 0x0102),
   (decide (s.applied ≠ s.committed) && decide (s.stage ≠ []), 0x0104)]

/-! ### Applying (R306) and rolling back (R309) -/

def State.olderCmd (s : State) (p : Cmd → Bool) : Bool := s.cmds.any fun e => decide (e.2.epoch ≠ s.committed) && decide (e.2.phase ≠ .done) && p e.2

/-- A resource is at its quiescent point. -/
def State.quiescent (s : State) : CfgResource → Bool
  | .panelW p => !(s.olderCmd fun c => decide (c.panel = p) && s.isLc c)
  | .linkShare _ => true
  | .dscrSeg die seg => !(s.olderCmd fun c => decide (c.opcode = 0x0301) && (s.launches.any fun e => decide (e.1 = c.id) &&
      e.2.open_.any fun k => decide (k / 32 = die)) && (s.settings c.epoch).dscrOwner die seg == some c.panel)
  | .ctxClass x => !(s.olderCmd fun c => decide (c.ctx = x) && (!(s.tilesOf c.id).isEmpty || s.images.any fun i => decide (i.2.cmd = c.id)))

/-- What a resource does as it applies the latest epoch. -/
def State.applyResource (s : State) : CfgResource → State
  | .dscrSeg die seg => s.scrubSeg die seg
  | .ctxClass x =>
    match s.stashAreas x (s.cfg.cls x) with
    | (s, some l) => { s with stash := (l.zipIdx).foldl (fun t e => tput t (4 * x + e.2) e.1) s.stash }
    | (s, none) => { s with stash := (List.range 4).foldl (fun t q => tdel t (4 * x + q)) s.stash }
  | _ => s

/-- CONFIG_APPLY. -/
def configApply (r : CfgResource) (s : State) : State :=
  if s.toApply.contains r ∧ s.quiescent r then
    (({ s with toApply := s.toApply.erase r }).applyResource r).checkApplied
  else s

/-- CONFIG_ROLLBACK: epoch e was not applied in time; e + 1 takes the settings of e − 1. A resource that never applied e is done with at
once. No timeout applies to an epoch that a rollback committed (its predecessor was never applied). -/
def configRollback (s : State) : State :=
  let ms := max 1 (min 1000 (s.fld .PNL_CFG_CTL_TIMEOUT_MS 0))
  if s.toApply ≠ [] ∧ s.committed = s.applied + 1 ∧ 1000000 * ms ≤ (s.time - s.commitAt).toNat then
    let e := s.committed
    let back := s.settings (e - 1)
    let never := s.toApply
    let todo := (changedResources s.cfg back).filter fun r => !(never.contains r)
    let s := (s.commitAs back todo).setFld .PNL_CFG_STATUS_ROLLED_BACK 0 1
    (s.postMgr 0x0007 (e % 2 ^ 32)).checkApplied
  else s

/-! ### Compaction and re-spreading (R310, R311) -/

/-- Tiles that are off, of present dies. -/
def State.tilesOffNow (s : State) : Nat := ((List.range 48).filter fun t => s.tilePresent t && !(s.tileOn t)).length

/-- R310: how a panel's tile ranks for vacating: no unit, a unit that relocates, another. -/
def State.vacateRank (s : State) (t : Nat) : Nat :=
  match (s.tile t).unit with
  | none => 0
  | some u => if ((s.settings u.epoch).cls u.ctx).relocate then 1 else 2

/-- A tile that compaction may vacate: not of LC_TILES, not of a started LC sequencer, and not one that MIN_TILES keeps. -/
def State.mayVacate (s : State) (p t : Nat) : Bool :=
  decide ((s.tile t).owner = some p) && !(bit (s.cfg.panel p).lcTiles t) && (s.tile t).lc.isNone && !(s.rebinding t) &&
    decide ((s.cfg.panel p).minTiles < s.tileCount p)

/-- The panels in increasing COMPACT_PRIO and number. -/
def State.compactOrder (s : State) : List Nat :=
  (List.range 256).flatMap fun k => (s.panels.filter fun e => decide ((s.cfg.panel e.1).compactPrio = k)).map fun e => e.1

/-- The tile to vacate next: a pool tile that is on, or by the order of R310; ties go to the highest number. -/
def State.nextVacate (s : State) : Option Nat :=
  let down := (List.range 48).reverse
  match down.find? (fun t => s.tileOn t && (s.tile t).owner.isNone) with
  | some t => some t
  | none =>
    s.compactOrder.findSome? fun p =>
      (List.range 3).findSome? fun k => down.find? fun t => s.mayVacate p t && decide (s.vacateRank t = k)

/-- COMPACTION: one tile moves towards TARGET_OFF; a unit on it is first stopped and stashed. -/
def compaction (t : Nat) (s : State) : State :=
  if s.fld .PNL_COMPACT_EN 0 = 1 ∧ s.tilesOffNow < s.fld .PNL_COMPACT_TARGET_OFF 0 ∧ s.nextVacate = some t then
    if (s.tile t).unit.isSome then s.requestStop t false false true false
    else
      let src := (s.tile t).owner
      let s := match src with
        | none => s.tileOff t
        | some p => (s.rebindTile t none true).modTile t fun x => { x with home := some p }
      s.updateReservations.paceDies
  else s

/-- The tile that comes back next: the reverse of R310's order. -/
def State.nextHome (s : State) : Option Nat :=
  s.compactOrder.reverse.findSome? fun p => (List.range 48).find? fun t => decide ((s.tile t).home = some p)

/-- RESPREAD. -/
def respread (t : Nat) (s : State) : State :=
  if s.fld .PNL_COMPACT_TARGET_OFF 0 < s.tilesOffNow ∧ s.nextHome = some t then
    let p := (s.tile t).home
    let s := (s.rebindTile t p false).modTile t fun x => { x with home := none }
    s.updateReservations.paceDies
  else s

end Sys2Proof.Machine
end

