-- ==== Sys2Proof/Machine/Observe.lean ====
section
/-! DEFINITION. Observation (14.1 to 14.5): freezes, snapshots, the two samplers, bandwidth windows, stitch markers and dumps. -/

namespace Sys2Proof.Machine

/-- The units of the selected kinds, in increasing number. -/
def selectedUnits (kinds : Nat) : List Nat := (List.range 13).flatMap fun k => if bit kinds k then kindUnits k else []

/-! ### Freeze and snapshots (R446, R447) -/

def freezeAs (s : State) (on : Bool) : State := (s.setFld .OBS_CTL_FREEZE 0 (b2n on)).setFld .OBS_STATUS_FROZEN 0 (b2n on)

/-- COUNTER_FREEZE: a broadcast reaches the units within 50 ns of each other. -/
def counterFreeze (on : Bool) (skewNs : Nat) (s : State) : State := (freezeAs s on).setFld .OBS_STATUS_SKEW_NS 0 (min 50 skewNs)

/-- A unit's 192 bytes. -/
def State.unitBytes (s : State) (n u : Nat) : List Byte :=
  ((List.range 16).flatMap fun i => leBytes 8 (s.counterF u i n)) ++ (List.range 8).flatMap fun j => leBytes 8 (s.counterP u j n)

/-- The record of a snapshot taken now, and the state with it counted. -/
def State.snapRecord (s : State) (kinds skew : Nat) (lost frozen : Bool) : List Byte × State :=
  let us := selectedUnits kinds
  let n := (s.fld .OBS_STATUS_SNAP_COUNT 0 + 1) % 2 ^ 32
  let (free, s) := s.fresh
  let s := (s.setFld .OBS_STATUS_SNAP_COUNT 0 n).setFld .OBS_STATUS_SKEW_NS 0 skew
  (leBytes 8 s.now ++ leBytes 4 n ++ leBytes 2 kinds ++ leBytes 2 us.length ++ leBytes 1 skew ++ leBytes 1 (b2n frozen + 2 * b2n lost) ++
    zeros 46 ++ us.flatMap (s.unitBytes free), s)

/-- The status of a write of local memory under a key slot by the hub. -/
def State.writePhysSt (s : State) (slot a : Nat) (b : List Byte) : State × Nat :=
  if (chunks a b.length).any (fun c => !(s.paOk s.hubWho c.1)) || (s.keyOf slot).isNone then (s, 0x0301)
  else match s.writePhys s.hubWho slot a b with
    | (s, true) => (s, 0)
    | (s, false) => (s, 0x0302)

def snapshotChecks (_ : State) (r : List Byte) : List (Bool × Nat) :=
  [(decide (leAt r 16 8 % 64 ≠ 0) || !(inHbm (leAt r 16 8) (64 + 192 * (selectedUnits (leAt r 24 2)).length)), 0x0102),
   (decide (bits (leAt r 24 2) 15 13 ≠ 0) || nzBits r 26 7 2 || decide (leAt r 26 1 % 4 = 3) || nonzero r 27 64, 0x0102)]

/-- SNAPSHOT: a freeze stands from the instant, a thaw begins after it. The spread of the broadcast is a measurement. -/
def snapshotDo (s : State) (r : List Byte) : State × Nat :=
  let (c, s) := s.fresh
  let skew := Config.freeNat c % 51
  let s := if leAt r 26 1 % 4 = 1 then freezeAs s true else s
  let (b, s) := s.snapRecord (leAt r 24 2) skew s.smpLost s.frozenCounters
  let (s, st) := s.writePhysSt 63 (leAt r 16 8) b
  (if leAt r 26 1 % 4 = 2 then freezeAs s false else s, st)

/-! ### COUNTER_SET (R443, R447) -/

def counterSetChecks (s : State) (r : List Byte) : List (Bool × Nat) :=
  let u := leAt r 16 2 % 1024
  let ev := bits (leAt r 24 8) 58 51
  [(decide (bits (leAt r 16 2) 15 10 ≠ 0) || nzBits r 18 5 3 || nzBits r 18 7 7 || nonzero r 19 24 || bit (leAt r 24 8) 32 ||
      decide (bits (leAt r 32 8) 63 48 ≠ 0) || nonzero r 40 64, 0x0102),
   (match unitKind u with
    | some k => decide (kindCounters k ≤ ev)
    | none => true, 0x0102),
   (match unitDie u with
    | some n => !(s.diePresent n)
    | none => false, 0x0104)]

/-- A VALUE that is written leaves OVF, which only W1C clears (R442). -/
def counterSetDo (s : State) (r : List Byte) : State × Nat :=
  let i := 8 * (leAt r 16 2 % 1024) + leAt r 18 1 % 8
  let s := (s.settleP (i / 8) (i % 8)).setReg .OBS_PCTL i (leAt r 24 8)
  (if bit (leAt r 18 1) 6 then s.setReg .OBS_P i (leAt r 32 8 % 2 ^ 48 + (s.reg .OBS_P i) / 2 ^ 63 * 2 ^ 63) else s, 0)

/-! ### Samplers (R448, R450) -/

/-- The size of a sampler record in 64-byte units. -/
def record64 (kinds : Nat) : Nat := 1 + 3 * (selectedUnits kinds).length

def samplerSetChecks (_ : State) (r : List Byte) : List (Bool × Nat) :=
  let core := bit (leAt r 16 1) 0
  let k := leAt r 17 1 % 32
  let per := leAt r 20 4
  let a := leAt r 24 8
  let n := if core then 32 * 2 ^ k else 64 * record64 (leAt r 32 2 % 8192) * 2 ^ k
  [(nzBits r 16 7 2 || nzBits r 17 7 5 || nonzero r 18 20 || decide (bits (leAt r 32 2) 15 13 ≠ 0) || nzBits r 34 7 1 ||
      nonzero r 35 40 || nonzero r 46 64, 0x0102),
   (if core then decide (k < 8) || decide (20 < k) else decide (k < 4) || decide (16 < k), 0x0102),
   (if core then decide (per < 64) || decide (2 ^ 24 ≤ per) else decide (per = 0) || decide (1000 < per), 0x0102),
   (decide (a % 4096 ≠ 0) || !(inHbm a n), 0x0102)]

/-- SAMPLER_SET replaces the settings and empties the ring. -/
def samplerSetDo (s : State) (r : List Byte) : State × Nat :=
  let en := b2n (bit (leAt r 16 1) 1)
  let k := leAt r 17 1 % 32
  let per := leAt r 20 4
  if bit (leAt r 16 1) 0 then
    let s := s.setReg .OBS_CSMP_CTL 0 (en * 2 ^ 63 + (leAt r 34 1 % 2) * 2 ^ 62 + (per % 2 ^ 24) * 2 ^ 32 + k)
    let s := (s.setReg .OBS_CSMP_RING 0 (leAt r 24 8 % 2 ^ 48)).setReg .OBS_CSMP_TILES 0 (leAt r 40 6)
    ({ s.setReg .OBS_CSMP_PTRS 0 0 with csmpAt := [] }, 0)
  else
    let kinds := leAt r 32 2 % 8192
    let s := s.setReg .OBS_SMP_CTL 0 (en * 2 ^ 63 + (per % 1024) * 2 ^ 48 + k * 2 ^ 40 + kinds)
    let s := s.setReg .OBS_SMP_RING 0 (record64 kinds * 2 ^ 48 + leAt r 24 8 % 2 ^ 48)
    ({ s.setReg .OBS_SMP_PTRS 0 0 with smpLost := false }, 0)

/-- SAMPLER_RECORD: at whole multiples of PERIOD, once each. A record that cannot be written is dropped like one that finds the ring full
(DEDUCED, log entry 34). -/
def samplerRecord (skewNs : Nat) (s : State) : State :=
  let per := 1000 * s.fld .OBS_SMP_CTL_PERIOD_US 0
  if s.fld .OBS_SMP_CTL_EN 0 = 1 ∧ s.now % per = 0 ∧ s.smpAt ≠ some s.time then
    let s := { s with smpAt := some s.time }
    let k := s.fld .OBS_SMP_CTL_LOG2_ENTRIES 0
    let tail := s.fld .OBS_SMP_PTRS_TAIL 0
    let drop (s : State) : State := { s.incFld .OBS_SMP_STATUS_DROPPED 0 1 with smpLost := true }
    if 2 ^ k ≤ (w32 tail - w32 (s.fld .OBS_SMP_PTRS_HEAD 0)).toNat then drop s
    else
      let (b, s) := s.snapRecord (s.fld .OBS_SMP_CTL_KINDS 0) (min 50 skewNs) s.smpLost s.frozenCounters
      let a := s.fld .OBS_SMP_RING_ADDR 0 + 64 * s.fld .OBS_SMP_RING_RECORD_64B 0 * (tail % 2 ^ k)
      match s.writePhysSt 63 a b with
      | (s, 0) => { s.setFld .OBS_SMP_PTRS_TAIL 0 ((tail + 1) % 2 ^ 32) with smpLost := false }
      | (s, _) => drop s
  else s

/-- Table 14-5. -/
def State.coreRecord (s : State) (die core : Nat) (g : Group) (skid : Nat) (stalled : Bool) : List Byte :=
  let c := (s.coreOf (32 * die + core)).launch.bind s.cmd
  let raw := (c.map fun c => c.raw).getD (zeros 64)
  let p := g.paths.head?
  leBytes 8 s.now ++ leBytes 8 ((p.map fun p => p.pc.toNat).getD 0) ++ leBytes 2 (hCtx raw + 4096 * die) ++ leBytes 1 core ++
    leBytes 1 g.num ++ leBytes 1 (min 64 skid + 128 * b2n stalled) ++ zeros 3 ++ leBytes 2 (hLayer raw) ++ leBytes 2 (hOperator raw) ++
    leBytes 4 ((p.map fun p => p.lanes).getD 0)

/-- CORE_SAMPLE: a core of TILES has counted PERIOD since its last trigger; the group's next instruction is recorded. -/
def coreSample (die core group skid : Nat) (stalled : Bool) (s : State) : State :=
  let k := 32 * die + core
  let n := s.reg .GC_ISSUED k
  let due := s.fld .OBS_CSMP_CTL_MODE 0 = 1 ∨ s.fld .OBS_CSMP_CTL_PERIOD 0 ≤ n - tgetD s.csmpAt k 0
  if die < 12 ∧ core < 32 ∧ s.fld .OBS_CSMP_CTL_EN 0 = 1 ∧ bit (s.fld .OBS_CSMP_TILES_TILES 0) (coreTile k) = true ∧ due then
    let trigger (s : State) (a : Option Attr) : State := { s with csmpAt := tput s.csmpAt k n }.bump (unitCore die core) 15 1 a
    match (s.coreOf k).groups.find? (fun g => decide (g.num = group)) with
    | none => if (s.coreOf k).groups = [] then (trigger s none).incFld .OBS_CSMP_STATUS_IDLE 0 1 else s
    | some g =>
      let s := trigger s (((s.coreOf k).launch.bind s.cmd).bind s.cmdAttr)
      let e := s.fld .OBS_CSMP_CTL_LOG2_ENTRIES 0
      let tail := s.fld .OBS_CSMP_PTRS_TAIL 0
      if 2 ^ e ≤ (w32 tail - w32 (s.fld .OBS_CSMP_PTRS_HEAD 0)).toNat then s.incFld .OBS_CSMP_STATUS_DROPPED 0 1
      else match s.writePhysSt 63 (s.fld .OBS_CSMP_RING_ADDR 0 + 32 * (tail % 2 ^ e)) (s.coreRecord die core g skid stalled) with
        | (s, 0) => s.setFld .OBS_CSMP_PTRS_TAIL 0 ((tail + 1) % 2 ^ 32)
        | (s, _) => s.incFld .OBS_CSMP_STATUS_DROPPED 0 1
  else s

/-! ### Bandwidth windows (R449) -/

/-- BW_WINDOW: at whole multiples of the window's length. The bytes that moved at the ports depend on cache hits, replays and idle
flits: free values (log entry 35). -/
def bwWindow (s : State) : State :=
  let w := 1000 * min 10000 (max 1 (s.fld .OBS_BW_CTL_WINDOW_US 0))
  if s.now % w = 0 ∧ s.bwAt ≠ some s.time then
    (List.range 56).foldl (fun s i =>
      let (c, s) := s.fresh
      s.setReg .OBS_BW i (Config.freeWord c).toNat) { s with bwAt := some s.time }
  else s

/-! ### STITCH_SET (R451, R452) -/

/-- The translation of one 64 KiB page for writing by the reserve; the status of R205 where it fails. A page of another package is
treated as one that does not translate (log entry 36). -/
def State.heldPage (s : State) (ctx va : Nat) : State × Except Nat TlbEntry :=
  match s.xlate (s.ctxIssuer ctx) .write va with
  | (s, .error f) => (s, .error (causeStatus f.cause))
  | (s, .ok x) => if s.isLocal x.pa then (s, .ok ⟨ctx, va, 65536, x.pa, x.key, true, true, false, x.device⟩) else (s, .error 0x0301)

/-- The translations of every page of [va, va + n). -/
def State.heldPages (s : State) (ctx va n : Nat) : State × Except Nat (List TlbEntry) :=
  let first := va / 65536
  let count := (va + n - 1) / 65536 + 1 - first
  (List.range count).foldl (fun (x : State × Except Nat (List TlbEntry)) i =>
    match x.2 with
    | .error _ => x
    | .ok l => match x.1.heldPage ctx (65536 * (first + i)) with
      | (s, .ok e) => (s, .ok (l ++ [e]))
      | (s, .error st) => (s, .error st)) (s, .ok [])

/-- A context's marker in a slot, armed or not. -/
def State.slotMark (s : State) (ctx slot : Nat) : Option Nat :=
  (s.marks.find? fun e => decide (e.2.ctx = ctx) && decide (e.2.slot = slot)).map fun e => e.1

/-- The number for a new marker: the slot's own, else the lowest whose marker is not armed. -/
def State.markNumber (s : State) (ctx slot : Nat) : Option Nat :=
  match s.slotMark ctx slot with
  | some n => some n
  | none => (List.range 1024).find? fun i => match tget s.marks i with
    | some m => !m.armed
    | none => true

def stitchSetChecks (s : State) (r : List Byte) : List (Bool × Nat) :=
  let act := leAt r 16 1 % 4
  let len := leAt r 48 4
  [(nzBits r 16 7 6 || nzBits r 17 7 4 || nonzero r 19 20 || nonzero r 52 64, 0x0102),
   (decide (act = 0) || decide (act = 3), 0x0102),
   (decide (act = 1) && (decide (bits (leAt r 16 1) 5 4 = 3) || decide (leAt r 40 8 % 64 ≠ 0) || decide (len = 0) || decide (2 ^ 31 < len)),
    0x0102),
   (decide (act = 1) && (s.markNumber (hCtx r) (leAt r 17 1 % 16)).isNone, 0x0104)]

def stitchSetDo (s : State) (r : List Byte) : State × Nat :=
  let ctx := hCtx r
  let slot := leAt r 17 1 % 16
  let disarm (s : State) : State := match s.slotMark ctx slot with
    | some n => { s with marks := tmod s.marks n fun m => { m with armed := false } }
    | none => s
  if leAt r 16 1 % 4 = 2 then (disarm s, 0)
  else
    let m : Marker := {
      armed := true, ctx := ctx, slot := slot, hold := bit (leAt r 16 1) 2, byWork := bit (leAt r 16 1) 3,
      stepKind := bits (leAt r 16 1) 5 4, step := leAt r 24 8, left := max 1 (leAt r 18 1), name := w32 (leAt r 20 4),
      src := leAt r 32 8, dst := leAt r 40 8, len := leAt r 48 4, fired := 0, skipped := 0, status := 0, held := [] }
    match s.heldPages ctx m.dst (m.left * m.size) with
    | (s, .error st) => (disarm s, st)
    | (s, .ok held) => match s.markNumber ctx slot with
      | some n => ({ s with marks := tput s.marks n { m with held := held } }, 0)
      | none => (s, 0x0104)

/-! ### Dumps (R453, R455) -/

/-- Every sector of a dump's source translates to memory of this package. -/
def State.dumpSourceOk (s : State) (ctx src len : Nat) : State × Bool :=
  (chunks src len).foldl (fun (x : State × Bool) c =>
    if x.2 then
      match x.1.xlate (x.1.ctxIssuer ctx) .read c.1 with
      | (s, .error _) => (s, false)
      | (s, .ok y) => (s, s.isLocal y.pa && (match region (y.pa % 2 ^ 48) with
        | .regs _ => false
        | _ => true))
    else x) (s, true)

/-- Copy the data of a dump: poisoned sectors are copied poisoned. The status of the dump. -/
def State.dumpData (s : State) (d : Dump) : State × Nat :=
  let (s, ok) := s.dumpSourceOk d.ctx d.src d.len
  if ¬ ok then (s, 0x0301)
  else
    (chunks d.src d.len).foldl (fun (x : State × Nat) c =>
      match x.1.xlate (x.1.ctxIssuer d.ctx) .read c.1 with
      | (s, .error _) => (s, x.2)
      | (s, .ok y) =>
        match s.pread ((s.keyOf y.key).getD 0) (y.pa % 2 ^ 48) c.2 with
        | (s, .fault _) => (s, x.2)
        | (s, .ok b p) =>
          let dst := d.dst + 64 + (c.1 - d.src)
          let s := s.heldWrite d.held dst b
          if p then ((s.heldPoison d.held dst).heldPoison d.held (dst + c.2 - 1), 0x0302) else (s, x.2)) (s, 0)

/-- DUMP_COPY: a pending dump is copied and its header written. -/
def dumpCopy (n : Nat) (s : State) : State :=
  match tget s.dumps n with
  | none => s
  | some d =>
    let (s, st) := s.dumpData d
    { s with dumps := tdel s.dumps n }.endDump d st

def dumpChecks (_ : State) (r : List Byte) : List (Bool × Nat) :=
  [(nonzero r 40 64 || decide (leAt r 24 8 % 64 ≠ 0) || decide (leAt r 32 4 = 0) || decide (2 ^ 31 < leAt r 32 4), 0x0102)]

/-- DUMP: a firing at once, whose status is the dump's. -/
def dumpDo (s : State) (r : List Byte) : State × Nat :=
  match s.heldPages (hCtx r) (leAt r 24 8) (64 + ceilDiv (leAt r 32 4) 64 * 64) with
  | (s, .error st) => (s, st)
  | (s, .ok held) =>
    let d : Dump := {
      mark := none, ctx := hCtx r, src := leAt r 16 8, dst := leAt r 24 8, len := leAt r 32 4, name := w32 (leAt r 36 4), tag := 0,
      row := 0, fireAt := s.time, cmdStatus := 0, firing := 0, layer := hLayer r, oper := hOperator r, holdQ := none, holdRow := none,
      held := held }
    let (s, st) := s.dumpData d
    (s.endDump d st, st)

end Sys2Proof.Machine
end

