-- ==== Sys2Proof/Machine/RegRead.lean ====
section
/-! DEFINITION. What each register reads as. A register whose fields show what State holds elsewhere is composed here; every other one
reads as it is stored (R5, R6). -/

namespace Sys2Proof.Machine

/-- The function of a register view: the manager's for PF0, the sideband and the debug access port (R403). -/
def viewFn : View → Nat
  | .vf n => n
  | _ => 0

/-- Fields as (lowest bit, value). -/
def packFields (l : List (Nat × Nat)) : Nat := l.foldl (fun n e => n + e.2 * 2 ^ e.1) 0

/-! ### Queues and functions -/

/-- The queue that `QUE_SEL` selects; each VF has a selection of its own, of its own queues (R249). -/
def State.selQueue (s : State) (f : Nat) : Option (Nat × Queue) :=
  let q := s.fld .QUE_SEL_QUEUE f
  match s.queue q with
  | some x => if f = 0 ∨ x.func = f then some (q, x) else none
  | none => none

def QType.num : QType → Nat
  | .cmd => 0 | .cpl => 1 | .seq => 2 | .evt => 3

def Queue.cfgValue (x : Queue) : Nat :=
  packFields [(62, x.typ.num), (57, x.k), (56, b2n x.lc), (55, b2n x.anyCtx), (54, 1), (48, x.weight % 16), (40, x.func % 256),
    (34, x.panel % 64), (20, x.ctx % 4096), (0, x.cpl % 2 ^ 18)]

def State.queueStatus (s : State) (q : Nat) (x : Queue) : Nat :=
  packFields [(7, b2n (x.held || s.queueBarred q)), (6, b2n x.faulted), (5, b2n x.dbBad), (4, b2n x.lost), (3, b2n x.overflowed),
    (1, b2n (decide (x.head = x.tail))), (0, b2n !x.faulted)]

/-- The registers at 0x10 to 0x40 of the QUE block for the selected queue; zero where there is none. -/
def State.queueReg (s : State) (f : Nat) (r : Reg) : Nat :=
  match s.selQueue f with
  | none => 0
  | some (q, x) =>
    match r with
    | .QUE_CFG => x.cfgValue
    | .QUE_RING => x.ring
    | .QUE_IRQ => packFields [(48, x.vector), (40, x.coalCount), (24, x.coalUs), (0, b2n x.armed)]
    | .QUE_PTRS => x.head.toNat * 2 ^ 32 + x.tail.toNat
    | .QUE_STATUS => s.queueStatus q x
    | .QUE_PROGRESS => x.fetched.toNat * 2 ^ 32 + x.completed.toNat
    | .QUE_LAST_TIME => x.lastTime.toNat
    | _ => 0

/-- The function that a selector of the privileged view names; in a VF view the VF itself. -/
def State.selFn (s : State) (f : Nat) (sel : Fld) : Nat := if f = 0 then s.fld sel 0 else f

def Func.ovfBase (g : Func) : Nat := g.ovfLog2 * 2 ^ 59 + g.ovfAddr

/-- The function registers of the MGT and QUE blocks; zero for a function that does not exist. -/
def State.funcReg (s : State) (f : Nat) (r : Reg) : Nat :=
  match tget s.funcs f with
  | none => 0
  | some g =>
    match r with
    | .QUE_OVF_BASE => g.ovfBase
    | .QUE_OVF_PTRS => g.ovfHead.toNat * 2 ^ 32 + g.ovfTail.toNat
    | .QUE_FN_STATUS => sat 32 g.dropped * 2 ^ 32 + sat 32 g.badDb
    | .MGT_FN_CFG => packFields [(63, 1), (62, b2n g.atsEn), (48, g.mbxVector), (32, g.pfVector), (16, g.maxInflight), (0, g.ovfLog2)]
    | .MGT_FN_PANELS => s.fnPanels f
    | .MGT_FN_STATUS =>
      packFields [(48, sat 16 g.apErr), (22, s.fnInflight f), (5, b2n g.mbxBad), (4, b2n g.flrBusy), (0, g.state)]
    | .MGT_MBX_BASE => g.mbxLog2 * 2 ^ 60 + g.mbxAddr
    | .MGT_MBX_M2T => g.m2tHead.toNat * 2 ^ 32 + g.m2tTail.toNat
    | .MGT_MBX_T2M => g.t2mHead.toNat * 2 ^ 32 + g.t2mTail.toNat
    | .MGT_APERTURE => packFields [(63, b2n g.apEn), (48, g.apCtx), (16, bits g.apBase 47 16)]
    | _ => 0

/-! ### Tiles, cores and panels -/

/-- The command that a tile is assigned to. -/
def State.tileCmd (s : State) (t : Nat) : Option Nat :=
  let x := s.tile t
  match x.unit with
  | some u => some u.cmd
  | none =>
    match x.lc with
    | some (.cmd id) => some id
    | _ => none

/-- `ARR_STATUS` (Table 02-13). The dataflow of a running command is the package's own choice, unless an expert command names it. -/
def State.arrStatus (s : State) (t n : Nat) : Nat :=
  let v := s.reg .ARR_STATUS t
  match (s.tileCmd t).bind s.cmd with
  | none => v
  | some c =>
    let flow := if c.opcode = 0x0201 then
        if hExpert c.raw then bits (leAt c.raw 76 1) 1 0 else 1 + Config.freeNat n % 2
      else 0
    setBits (setBits (setBits v 31 20 c.ctx) 13 12 flow) 9 9 1

def State.gcStatus (s : State) (k : Nat) : Nat :=
  let x := s.coreOf k
  let v := s.reg .GC_STATUS k
  let v := match x.launch.bind s.cmd with
    | some c => setBits v 43 32 c.ctx
    | none => v
  setBits (setBits (setBits v 14 8 (x.groups.filter fun g => g.parked.isSome).length) 7 7 (b2n x.launch.isSome)) 6 0 x.groups.length

def State.gcL1 (s : State) (k : Nat) : Nat :=
  let x := s.coreOf k
  setBits (setBits (s.reg .GC_L1_STATUS k) 11 8 x.evb.length) 2 0 x.lockN

def State.panelFilter (s : State) (p : Nat) (f : Tile → Bool) : Nat :=
  ((List.range 48).filter fun t => decide ((s.tile t).owner = some p) && f (s.tile t)).length

def State.pnlCfgValue (s : State) (p : Nat) : Nat :=
  let c := s.cfg.panel p
  packFields [(63, 1), (62, b2n c.lend), (61, b2n (s.lcReserved p)), (48, c.linkShare), (40, c.compactPrio), (34, c.minTiles), (14, c.quantum)]

def State.pnlReg (s : State) (p : Nat) (r : Reg) : Nat :=
  match tget s.panels p with
  | none => 0
  | some x =>
    match r with
    | .PNL_CFG => s.pnlCfgValue p
    | .PNL_TILES => x.tiles
    | .PNL_LC_TILES => (s.cfg.panel p).lcTiles
    | .PNL_W => (s.cfg.panel p).w
    | .PNL_STATUS =>
      packFields [(48, (s.images.filter fun e => decide (s.imagePanel e.2 = p)).length), (32, s.panelFilter p fun t => t.unit.isSome),
        (24, s.panelFilter p fun t => t.lc.isSome), (1, s.fld .PNL_STATUS_ABANDON p)]
    | _ => s.reg r p

def State.homeByte (s : State) (t : Nat) : Nat :=
  match (s.tile t).home with
  | some p => 128 + p
  | none => 0

def State.ctxClassValue (s : State) (c : Nat) : Nat :=
  let k := s.cfg.cls c
  packFields ([(63, b2n k.beEn), (62, b2n k.relocate), (48, k.weight), (32, (s.images.filter fun e => decide (e.2.ctx = c)).length)] ++
    (List.range 4).map fun q => (8 * q, k.slots.getD q 0))

/-! ### Row sequencers -/

def State.rsqReg (s : State) (p : Nat) (r : Reg) : Nat :=
  match tget s.rsqs p with
  | none => s.reg r p
  | some x =>
    let n (st : SeqState) : Nat := (x.seqs.filter fun e => decide (e.2.state = st)).length
    match r with
    | .RSQ_STATUS => setBits (s.reg r p) 4 4 (b2n x.cfg.lcEn)
    | .RSQ_ROW => x.row
    | .RSQ_POOL => x.lcOut * 2 ^ 32 + x.stack.length
    | .RSQ_SEQS =>
      packFields [(48, n .waiting), (32, n .parked), (16, (x.run.map fun y => y.slots.length).getD 0),
        (0, (x.seqs.filter fun e => e.2.lc).length)]
    | _ => s.reg r p

/-! ### Faults, observation and debug -/

def State.fltWord (s : State) (i w : Nat) : Nat :=
  match tget s.faultLog i with
  | none => 0
  | some e =>
    match w with
    | 0 => packFields [(48, e.status), (40, e.detail), (32, e.cls), (0, e.index.toNat)]
    | 1 => e.time.toNat
    | 2 => packFields [(32, e.tag.toNat), (31, b2n e.ctx.isSome), (16, e.ctx.getD 0), (0, e.owner)]
    | _ => e.addr.toNat

def State.markValue (s : State) (m : Nat) : Nat :=
  match tget s.marks m with
  | none => 0
  | some x => packFields [(63, b2n x.armed), (62, b2n x.hold), (58, x.slot), (46, x.ctx), (30, x.status), (8, sat 8 x.fired), (0, sat 8 x.skipped)]

/-- The observation reserve of R439 in bytes per µs: half a percent of the operating rate. -/
def State.reserveRate (s : State) : Nat := 2048 * (64 + 16 * s.fld .HBM_G_STATUS_OPERATING_RATE 0)

/-- IDCODE (R459). -/
def State.idcode (s : State) : Nat := 0x11216000 + s.fuses.maker.toNat * 2 + 1

def State.dbgStatus (s : State) : Nat :=
  let halted := s.cores.filter fun e => e.2.halted || e.2.groups.any fun g => s.groupHalted e.1 g
  let d := s.cores.any fun e => e.2.groups.any fun g => g.deferred.isSome
  setBits (setBits (s.reg .DBG_STATUS 0) 24 16 halted.length) 3 3 (b2n d)

def State.groupState (s : State) : Nat :=
  match s.dbgGroup with
  | none => 0
  | some g =>
    let ctx := ((s.coreOf s.dbgCore).launch.bind s.cmd).map fun c => c.ctx
    packFields [(63, b2n (s.groupHalted s.dbgCore g)), (62, b2n g.parked.isSome), (61, b2n g.lockBroken), (60, 1), (48, ctx.getD 0),
      (0, (g.paths.head?.map fun p => p.pc.toNat % 2 ^ 48).getD 0)]

def State.groupLanes (s : State) : Nat :=
  match s.dbgGroup with
  | none => 0
  | some g => ((g.paths.head?.map fun p => p.lanes).getD 0) * 2 ^ 32 + g.live

def State.acctUj (s : State) : Nat := tgetD s.pwr.accounts (s.fld .PWR_ACCT_SEL_ACCT 0) 0 / 1000 % 2 ^ 64

/-! ### All registers -/

/-- Bits of write-only fields, which read as zero (Table 00-5). -/
def woMask (r : Reg) : Nat :=
  (regInfo r).fields.foldl (fun m f => if f.acc = .wo then m + (2 ^ (f.hi + 1 - f.lo) - 1) * 2 ^ f.lo else m) 0

/-- Instance `i` of a register as function `f` sees it. `n` numbers the free value of a measurement that the read returns. -/
def State.regValue (s : State) (f : Nat) (r : Reg) (i n : Nat) : Nat :=
  match r with
  | .ARR_STATUS => s.arrStatus i n
  | .ARR_CONFIG => s.cfg.arrConfig i
  | .GC_STATUS => s.gcStatus i
  | .GC_L1_STATUS => s.gcL1 i
  | .CD_DSCR_OWNER0 => packFields ((List.range 8).map fun k => (8 * k, tgetD s.cfg.dscr (16 * i + k) 0))
  | .CD_DSCR_OWNER1 => packFields ((List.range 8).map fun k => (8 * k, tgetD s.cfg.dscr (16 * i + 8 + k) 0))
  | .HBM_G_FRAME_MODE => s.cfg.frameMode
  | .HBM_ECC_LOG => s.eccLogValue i
  | .HBM_REPAIR_LOG => s.repairLogValue i
  | .HBM_KEY_STATUS =>
    maskOf ((List.range 48).filter fun p => decide ((s.slot p).key ≠ 0)) + b2n (decide ((s.slot 63).key ≠ 0)) * 2 ^ 63
  | .UCC_SLICE_STATUS => setBits (setBits (s.reg r i) 47 24 (s.dirtyLines i)) 23 0 (s.validLines i)
  | .UCC_DIR_STATUS => setBits (s.reg r i) 21 0 (s.bank i).length
  | .UCC_SKEIN_STATUS => setBits (s.reg r i) 13 0 (s.skeinEntries i)
  | .UCC_PANEL_SHARE => sat 32 (s.occupied i) * 2 ^ 32 + sat 32 (s.panelTarget i)
  | .QUE_POOL => s.queues.length * 2 ^ 32 + (262144 - s.queues.length)
  | .QUE_SEL => s.reg .QUE_SEL f
  | .QUE_CFG | .QUE_RING | .QUE_IRQ | .QUE_PTRS | .QUE_STATUS | .QUE_PROGRESS | .QUE_LAST_TIME => s.queueReg f r
  | .QUE_OVF_BASE | .QUE_OVF_PTRS | .QUE_FN_STATUS => s.funcReg (s.selFn f .QUE_FN_SEL_FUNC) r
  | .RSQ_STATUS | .RSQ_ROW | .RSQ_POOL | .RSQ_SEQS => s.rsqReg i r
  | .PNL_EPOCH => s.applied % 2 ^ 32 * 2 ^ 32 + s.committed % 2 ^ 32
  | .PNL_CFG_STATUS => setBits (setBits (s.reg r 0) 31 16 s.stage.length) 2 2 (b2n (decide (s.applied ≠ s.committed)))
  | .PNL_FREE_TILES => maskOf ((List.range 48).filter fun t => (s.tile t).owner.isNone)
  | .PNL_W_TOTAL => s.wLimit * 2 ^ 32 + s.wTotal
  | .PNL_COMPACT => setBits (s.reg r 0) 47 40 s.tilesOffNow
  | .PNL_TILE_HOME => packFields ((List.range 8).map fun b => (8 * b, s.homeByte (8 * i + b)))
  | .PNL_CTX_CLASS => s.ctxClassValue (s.fld .PNL_CTX_SEL_CTX 0)
  | .PNL_CFG | .PNL_TILES | .PNL_LC_TILES | .PNL_W | .PNL_STATUS | .PNL_COUNTS | .PNL_DISPATCH | .PNL_LAST_PREEMPT => s.pnlReg i r
  | .LNK_G_ROUTE =>
    if s.fld .LNK_G_ROUTE_SEL_TABLE 0 = 0 ∧ 127 < s.fld .LNK_G_ROUTE_SEL_INDEX 0 then 0
    else tgetD s.routes (256 * s.fld .LNK_G_ROUTE_SEL_TABLE 0 + s.fld .LNK_G_ROUTE_SEL_INDEX 0) 0
  | .PWR_ACCT_ENERGY => s.acctUj
  | .MGT_FN_SEL => if f = 0 then s.reg r 0 else f
  | .MGT_FN_CFG | .MGT_FN_PANELS | .MGT_FN_STATUS | .MGT_MBX_BASE | .MGT_MBX_M2T | .MGT_MBX_T2M | .MGT_APERTURE =>
    s.funcReg (s.selFn f .MGT_FN_SEL_FUNC) r
  | .MGT_SEC_STATUS => if f = 0 then s.reg r 0 else 0
  | .HUB_FLT_PTRS => s.fld .HUB_FLT_PTRS_HEAD 0 * 2 ^ 32 + s.fltTail.toNat
  | .HUB_FLT_ENTRY => s.fltWord (i / 4) (i % 4)
  | .HUB_TRACKER => s.tracker.length
  | .OBS_STATUS => setBits (s.reg r 0) 0 0 (b2n !s.dumps.isEmpty)
  | .OBS_RESERVE => s.reserveRate * 2 ^ 32 + Config.freeNat n % 2 ^ 32
  | .OBS_FN_CNT => if fnCountedExactly i then s.reg r (16 * s.selFn f .OBS_FN_SEL_FUNC + i) else freeCounter n i
  | .OBS_F => s.counterF (i / 16) (i % 16) n
  | .OBS_P => s.counterP (i / 8) (i % 8) n
  | .OBS_MARK => s.markValue i
  | .TMB_TIME => s.now
  | .DBG_ID => s.idcode
  | .DBG_STATUS => s.dbgStatus
  | .DBG_GRP_STATE => s.groupState
  | .DBG_GRP_LANES => s.groupLanes
  | .DBG_REG_DATA =>
    match s.dbgReg with
    | some (g, k) => (tgetD g.regs k 0).toNat
    | none => Config.freeNat n % 2 ^ 32
  | .DBG_STEP_STATUS => s.stepHolding
  | .SRV_FW_STATUS => setBits (s.reg r 0) 11 11 (b2n s.stageBusy)
  | _ => s.reg r i &&& (2 ^ 64 - 1 - woMask r)

/-- Registers whose reads return a free measurement. -/
def readsFree (r : Reg) : Bool := [Reg.ARR_STATUS, .OBS_RESERVE, .DBG_REG_DATA, .OBS_F, .OBS_P, .OBS_FN_CNT].contains r

/-- A read without a side effect on the register: its value. -/
def State.peek (s : State) (f : Nat) (r : Reg) (i : Nat) : State × Nat :=
  if readsFree r then
    let (n, s) := s.fresh
    (s, s.regValue f r i n)
  else (s, s.regValue f r i 0)

end Sys2Proof.Machine
end

