-- ==== Sys2Proof/Machine/Boot.lean ====
section
/-! DEFINITION. Cast-on (15.1 to 15.3): firmware copies, the configuration image, identity words, training, the bootstrap queues, and
the states short of READY. What the model does not look inside (self-test, signatures, die words, training) is an operand. -/

/-- What a reset step 4 finds that is requested through a command or register (log entry 25): a fresh number. -/
opaque Sys2Proof.Config.bootInputs : Nat → Sys2Proof.BootInputs

namespace Sys2Proof.Machine

/-! ### The configuration image (R473, R474, Table 15-3) -/

def imgReservedBad (r : List Byte) : Bool :=
  nonzero r 6 8 || nzBits r 13 7 7 || nzBits r 14 7 2 || nzBits r 15 7 4 || nzBits r 28 7 2 || nonzero r 29 32 ||
    decide (bits (leAt r 32 4) 31 18 ≠ 0) || decide (bits (leAt r 36 4) 31 18 ≠ 0) || decide (bits (leAt r 40 4) 31 18 ≠ 0) ||
    nzBits r 44 7 5 || nzBits r 45 7 5 || nzBits r 46 7 5 || nzBits r 47 7 5 || nzBits r 49 7 4 || nonzero r 50 56 ||
    nonzero r 136 192 || nonzero r 256 1020

def imgOk (r : List Byte) : Bool :=
  decide (r.length = 1024) && decide (leAt r 0 4 = 0x4E434647) && decide (leAt r 4 2 = 1) && !(imgReservedBad r) &&
    decide (leAt r 1020 4 = crc32c (r.take 1020))

/-- A group has a field out of its range. -/
def groupBad (gradeMax : Nat) (r : List Byte) : Nat → Bool
  | 2 => decide (4 < leAt r 15 1)
  | 4 => decide (leAt r 18 2 < 650) || decide (gradeMax < leAt r 18 2)
  | 5 => decide (leAt r 20 2 < 650) || decide (gradeMax < leAt r 20 2)
  | 6 => decide (leAt r 22 2 < 10) || decide (1000 < leAt r 22 2)
  | 9 =>
    let q (i : Nat) : Nat := leAt r (32 + 4 * i) 4
    let k (i : Nat) : Nat := leAt r (44 + i) 1
    let m := leAt r 47 1
    let hbm (a n : Nat) : Bool := decide (a + n ≤ 0x10000000000)
    decide (q 0 = q 1) || decide (q 0 = q 2) || decide (q 1 = q 2) ||
      (List.range 3).any (fun i => decide (k i < 4) || decide (16 < k i)) || decide (m < 12) || decide (20 < m) ||
      !(ringOk 0 (k 0) (leAt r 56 8) && ringOk 1 (k 1) (leAt r 64 8) && ringOk 3 (k 2) (leAt r 72 8)) ||
      !(hbm (leAt r 56 8) (64 * 2 ^ k 0) && hbm (leAt r 64 8) (32 * 2 ^ k 1) && hbm (leAt r 72 8) (16 * 2 ^ k 2)) ||
      decide (leAt r 80 8 % (32 * 2 ^ m) ≠ 0) || !(hbm (leAt r 80 8) (32 * 2 ^ m))
  | _ => false

def fuseGradeMax (f : Fuses) : Nat := if f.grade = 0x2A then 4200 else 4800

/-- A field of the image in use, or its default: the image was rejected (empty) or the field's group is bad. -/
def cfgField (gm : Nat) (r : List Byte) (g off len dflt : Nat) : Nat := if r = [] ∨ groupBad gm r g then dflt else leAt r off len

/-- Table 15-4: offset, length and bound of each calibration field, by its bit. -/
def calFields : List (Nat × Nat × Int × Int × Nat) :=
  ((List.range 25).map fun i => (192 + i, 1, -12, 12, 0)) ++ ((List.range 16).map fun i => (217 + i, 1, -12, 12, 1)) ++
    [(234, 2, -5000, 5000, 2), (236, 2, -10000, 10000, 3), (238, 2, -50, 50, 4)] ++
    ((List.range 12).map fun i => (240 + i, 1, 0, 20, 5))

def calClamped (r : List Byte) : Nat :=
  calFields.foldl (fun m e =>
    let v := signed (8 * e.2.1) (leAt r e.1 e.2.1)
    if v < e.2.2.1 ∨ e.2.2.2.1 < v then m ||| 2 ^ e.2.2.2.2 else m) 0

/-- R475: a register with reset value C takes its value, unless a reset step 4 finds that it was written since power-up. -/
def State.loadC (s : State) (power : Bool) (r : Reg) (i : Nat) (f : State → State) : State :=
  if power || !(s.written.contains (regKey r i)) then f s else s

/-- Epoch 1, with the frame modes of the image or those written; a frame whose mode a reset step 4 changes loses its contents (R127). -/
def State.takeModes (s : State) (power : Bool) (fm : Nat) : State :=
  let old := (List.range 16).map fun f => s.quadLocal f
  let s := { s with epochs := [(1, { Settings.initial with frameMode := fm })], committed := 1, applied := 1, stage := [], toApply := [], commitAt := 0 }
  if power then s
  else (List.range 16).foldl (fun s f => if s.quadLocal f = old.getD f false then s else { s with mem := s.mem.loseFrame f }) s

/-- Cast-on step 4, and phase 4 of reset step 4. -/
def State.loadConfig (s : State) (power : Bool) : State :=
  let gm := fuseGradeMax s.fuses
  let ok := imgOk s.flash.image
  let r := if ok then s.flash.image else []
  let v := cfgField gm r
  let bad := if ok then maskOf ((List.range 11).filter fun g => groupBad gm r g) else 0
  let s := { s with flash := { s.flash with inUse := r } }
  let s := (s.setFld .GLB_BOOT_STATUS_CFG_DEFAULTED 0 (b2n !ok)).setFld .GLB_BOOT_STATUS_CFG_FIELD_DEFAULTED 0 (b2n (decide (bad ≠ 0)))
  let s := (s.setFld .GLB_BOOT_STATUS_CAL_CLAMPED 0 (b2n (decide (calClamped r ≠ 0)))).setFld .SRV_CFG_STATUS_CAL_CLAMPED 0 (calClamped r)
  let s := (s.setFld .SRV_CFG_STATUS_DEFAULTED 0 bad).setFld .SRV_CFG_STATUS_SEQUENCE 0 (leAt r 8 4)
  let s := s.loadC power .LNK_G_ID 0 fun s => s.setFld .LNK_G_ID_PKG 0 (v 0 12 2 0 % 2 ^ 15)
  let s := s.loadC power .TMB_CTL 0 fun s => s.setReg .TMB_CTL 0 (v 1 14 1 0 % 4)
  let s := s.loadC power .HBM_G_CTL 0 fun s => s.setFld .HBM_G_CTL_TARGET_RATE 0 (v 2 15 1 4)
  let s := s.setFld .PWR_LIMITS_GRADE_MAX_W 0 gm
  let s := s.setFld .PWR_LIMITS_CAP_W 0 (v 4 18 2 gm)
  let s := s.setFld .PWR_LIMITS_SHED_LEVEL_W 0 (v 5 20 2 (gm / 2))
  let s := s.setFld .PWR_LIMITS_SLEW 0 (v 6 22 2 200)
  let s := (List.range 32).foldl (fun s l => s.loadC power .LNK_CTL l fun s => s.setFld .LNK_CTL_ADMIN_UP l (bits (v 7 24 4 0) l l)) s
  let s := (List.range 2).foldl (fun s g => s.loadC power .GST_CTL g fun s =>
    s.setFld .GST_CTL_ENABLE g (bits (v 8 28 1 (2 ^ s.fuses.guestPop - 1)) g g)) s
  let fm := if power || !(s.written.contains (regKey .HBM_G_FRAME_MODE 0)) then v 3 16 2 0 else s.cfg.frameMode
  s.takeModes power fm

/-! ### Firmware copies (R472) -/

/-- Cast-on step 3: which copy runs (false: A), none where both are bad. -/
def pickCopy (f : Flash) (b : BootInputs) : Option Bool :=
  let okA := f.a.good && !b.copyABad
  let okB := f.b.good && !b.copyBBad
  let first := f.recordOk && f.preferB
  if first then (if okB then some true else if okA then some false else none)
  else if okA then some false else if okB then some true else none

def Flash.copy (f : Flash) (b : Bool) : FwCopy := if b then f.b else f.a

/-- Every controller runs an image of the copy; DICs of dies that are held in reset are shown so by `showDics`. -/
def State.runCopy (s : State) (b : Bool) : State :=
  let x := s.flash.copy b
  let o := s.flash.copy !b
  let s := (List.range 27).foldl (fun s c => s.setReg .SRV_STATUS c (x.compat.toNat * 2 ^ 48 + x.version.toNat * 2 ^ 32 + b2n b * 256 + 2)) s
  let keep := s.flash.recordOk && decide (s.flash.preferB = b)
  let s := { s with flash := { s.flash with preferB := b, recordOk := true, commit := s.flash.commit && keep } }
  let s := (s.setFld .GLB_BOOT_STATUS_FW_COPY 0 (b2n b)).setFld .MGT_SEC_STATUS_MGC_SVN 0 x.svn
  let s := s.setReg .SRV_FW_STATUS 0 ((if o.good then o.version.toNat else 0) * 2 ^ 48 + x.version.toNat * 2 ^ 32 + b2n o.good * 1024 +
    b2n b * 512 + b2n s.flash.commit * 256 + s.fuses.raisesLeft)
  s

/-! ### Identity words (R12 to R17) -/

/-- R12: the CRC8 of a word's bits 55 to 0. -/
def crc8 (w : W64) : Nat :=
  (List.range 56).foldl (fun crc i =>
    let fb := (bit crc 7) != (w.toNat.testBit i)
    let c := crc * 2 % 256
    if fb then c ^^^ 7 else c) 0

/-- R13: the cause of a site; 0 to 11 for CDn, 12 to 15 for BDq. -/
def dieCause (f : Fuses) (site : Nat) : Option W64 → Nat
  | none => 8
  | some w =>
    let n := w.toNat
    let place := if site < 12 then (site / 3, site % 3) else (site - 12, 3)
    if n = 0 then 1
    else if crc8 w ≠ n / 2 ^ 56 then 2
    else if bits n 7 5 ≠ (if site < 12 then 0 else 1) then 3
    else if (bits n 2 1, bits n 4 3) ≠ place then 4
    else if bits n 47 16 ≠ f.serial.toNat then 5
    else if bits n 15 8 ≠ f.grade.toNat then 6
    else 0

def bootWord (b : BootInputs) (site : Nat) : Option W64 := (b.dieWords[site]?).getD none

/-- R17: the die can run the hub's version. -/
def dieKirudor (hub : Nat) (w : Option W64) : Bool :=
  match w with
  | none => false
  | some w => decide (2 ≤ hub) && decide (hub ≤ bits w.toNat 55 48)

/-- Cast-on step 5's check: the causes, the present dies; false where cast-on stops (R15). -/
def State.checkDies (s : State) (b : BootInputs) : State × Bool :=
  let cause (i : Nat) : Nat :=
    if i < 12 then (if dieCause s.fuses (12 + i / 3) (bootWord b (12 + i / 3)) = 0 then dieCause s.fuses i (bootWord b i) else 0)
    else dieCause s.fuses i (bootWord b i)
  let s := (List.range 16).foldl (fun s i => s.setReg .GLB_DIE_ID i (match bootWord b i with
    | some w => w.toNat
    | none => 0)) s
  let s := s.setReg .GLB_HUB_ID 0 b.hubWord.toNat
  let causes := (List.range 16).map cause
  let s := s.setReg .GLB_DIE_FAULT 0 (causes.zipIdx.foldl (fun v e => v + e.1 * 16 ^ e.2) 0)
  let bds := (List.range 4).filter fun q => decide (causes.getD (12 + q) 0 = 0)
  let cds := (List.range 12).filter fun n => decide (causes.getD n 0 = 0) && bds.contains (n / 3)
  let s := (s.setFld .GLB_DIE_PRESENT_BD_PRESENT 0 (maskOf bds)).setFld .GLB_DIE_PRESENT_CD_PRESENT 0 (maskOf cds)
  let mapBad := decide (bds.length ≠ 4) || decide (crc8 b.hubWord ≠ b.hubWord.toNat / 2 ^ 56)
  let held := decide (((List.range 12).filter fun n => decide (causes.getD n 0 ≠ 0)) ≠ [])
  let s := (s.setFld .GLB_STATUS_PKG_MAP_FAULT 0 (b2n mapBad)).setFld .GLB_STATUS_DIE_MAP_FAULT 0 (b2n held)
  (s.setFld .GLB_STATUS_DEGRADED 0 (b2n held), !mapBad)

/-- Cast-on step 6. -/
def State.negotiate (s : State) (b : BootInputs) : State :=
  let hub := s.fuses.hubVersion
  let now := maskBits (s.fld .GLB_DIE_PRESENT_CD_PRESENT 0) 12
  let bad := now.filter fun n => !(dieKirudor hub (bootWord b n))
  let ok := now.filter fun n => dieKirudor hub (bootWord b n)
  let top := (ok.map fun n => match bootWord b n with
    | some w => bits w.toNat 55 48
    | none => 0).foldl max 0
  let s := bad.foldl (fun s n => s.setReg .GLB_DIE_FAULT 0 (setBits (s.reg .GLB_DIE_FAULT 0) (4 * n + 3) (4 * n) 7)) s
  let s := s.setFld .GLB_DIE_PRESENT_CD_PRESENT 0 (maskOf ok)
  let s := if bad = [] then s else s.setFld .GLB_STATUS_DEGRADED 0 1
  let s := ((s.setFld .GLB_FABRIC_VERSION_OPERATING 0 hub).setFld .GLB_FABRIC_VERSION_DIE_MAX 0 top).setFld .GLB_FABRIC_VERSION_HUB 0 hub
  s.setFld .GLB_STATUS_FABRIC_DOWNSTEP 0 (b2n (decide (hub < top)))

/-- A DIC of a die that is held in reset (R14, R17). -/
def State.showDics (s : State) : State :=
  (List.range 12).foldl (fun s n => if s.diePresent n then s else s.setFld .SRV_STATUS_STATE (3 + n) 5) s

/-! ### Training (R122, R123, R146, R508) -/

/-- R146: the pending hard repairs of every stack, before training at a cast-on from power-up. -/
def State.hardRepairs (s : State) (ok : Bool) : State :=
  (List.range 16).foldl (fun s h =>
    let s := if ok then (s.stack h).pendingHard.foldl (fun s e =>
      (s.useSpare h e.1 e.2.1).setStack h ((s.useSpare h e.1 e.2.1).stack h |>.logRepair ⟨1, 0, e.1, e.2.1, e.2.2, s.boots⟩)) s else s
    s.setStack h { s.stack h with pendingHard := [] }) s

/-- Training ends: each stack's result, the operating rate, and the frames whose mapping changed; false with no stack in service. -/
def State.trainHbm (s : State) (power : Bool) (b : BootInputs) (was : List Bool) : State × Bool :=
  let target := min 4 (s.fld .HBM_G_CTL_TARGET_RATE 0)
  let rate (h : Nat) : Option Nat := ((b.stackRate[h]?).getD none).map fun r => min r target
  let up := (List.range 16).filter fun h => (rate h).isSome
  let low := (up.filterMap rate).foldl min target
  let oldMode := (List.range 16).map fun f => s.quadLocal f
  let (c, s) := s.fresh
  let s := (List.range 16).foldl (fun s h =>
    let s := s.setFld .HBM_STK_STATUS_OUT_OF_SERVICE h (b2n (rate h).isNone)
    match rate h with
    | none => (s.setReg .HBM_TRAIN_RESULT h 0).setFld .HBM_TRAIN_RESULT_ATTEMPTS h (target + 1)
    | some r =>
      let s := (s.setReg .HBM_TRAIN_RESULT h 0).setFld .HBM_TRAIN_RESULT_RATE h (64 + 16 * r)
      let s := (s.setFld .HBM_TRAIN_RESULT_ATTEMPTS h (target - r + 1)).setFld .HBM_TRAIN_RESULT_PASS h 1
      let s := (s.setFld .HBM_TRAIN_RESULT_READ_EYE h (Config.freeNat (c + 4 * h))).setFld .HBM_TRAIN_RESULT_WRITE_EYE h (Config.freeNat (c + 4 * h + 1))
      (s.setFld .HBM_TRAIN_RESULT_LANES_REPAIRED h (Config.freeNat (c + 4 * h + 2))).setFld .HBM_TRAIN_RESULT_WORST_PC h (Config.freeNat (c + 4 * h + 3))) s
  let s := { s with free := s.free + 64 }
  let s := (s.setFld .HBM_G_STATUS_IN_SERVICE 0 (maskOf up)).setFld .HBM_G_STATUS_OPERATING_RATE 0 low
  let s := (s.setFld .HBM_G_STATUS_RATE_DOWNSTEP 0 (b2n (decide (low < target)))).setFld .HBM_G_STATUS_TRAINED 0 (b2n (decide (up ≠ [])))
  let s := s.setFld .HBM_G_STATUS_QUAD_ONLY 0 (b2n (decide (up.length ≠ 16)))
  let s := if low < target then s.logFault 0x0B 0 0 0xFFFF none 0 (s.reg .HBM_G_STATUS 0) else s
  let s := if power then s else
    let s := (List.range 16).foldl (fun s f => if s.quadLocal f = oldMode.getD f false then s else { s with mem := s.mem.loseFrame f }) s
    (up.filter fun h => !(was.getD h false)).foldl (fun s h => s.swLose h 0 (2 ^ 36)) s
  (s, decide (up ≠ []))

/-! ### The bootstrap items (R474) -/

def Queue.boot (t : QType) (k ring ctx cpl : Nat) : Queue :=
  { typ := t, k := k, lc := false, anyCtx := true, func := 0, panel := 63, key := 63, ring := ring, ctx := ctx, cpl := cpl,
    vector := 0, coalCount := 0, coalUs := 0, weight := 1, head := 0, tail := 0, armed := false, held := false, faulted := false,
    dbBad := false, lost := false, overflowed := false, evtLost := false, fetched := 0, completed := 0, lastTime := 0,
    sinceArm := 0, firstAt := none, subs := [], dups := [] }

/-- Cast-on step 9; false where the bootstrap area lies in absent memory. -/
def State.bootstrap (s : State) (power : Bool) : State × Bool :=
  let gm := fuseGradeMax s.fuses
  let r := s.flash.inUse
  let v := cfgField gm r 9
  let q0 := v 32 4 0
  let q1 := v 36 4 1
  let q2 := v 40 4 2
  let (k0, k1, k2) := (v 44 1 10, v 45 1 10, v 46 1 10)
  let m := v 47 1 12
  let ctx := v 48 2 4095
  let (r0, r1, r2) := (v 56 8 0xFFFF000000, v 64 8 0xFFFF100000, v 72 8 0xFFFF200000)
  let ovf := v 80 8 0xFFFF300000
  let s := { s with
    funcs := [(0, { Func.reset with ovfLog2 := m, ovfAddr := ovf })],
    ctxs := [(ctx, ⟨63, 0, none, w32 ctx, q2, 256, [], 0⟩)],
    queues := tput (tput [(q0, Queue.boot .cmd k0 r0 ctx q1)] q1 (Queue.boot .cpl k1 r1 ctx q1)) q2 (Queue.boot .evt k2 r2 ctx q1) }
  let s := s.loadC power .QUE_MGR_EVT 0 fun s => s.setFld .QUE_MGR_EVT_QUEUE 0 q2
  match s.writePhys s.hubWho 63 r1 (zeros (32 * 2 ^ k1)) with
  | (s, ok1) => match s.writePhys s.hubWho 63 r2 (zeros (16 * 2 ^ k2)) with
    | (s, ok2) => (s, ok1 && ok2 && s.hbmPresent r0 && s.hbmPresent ovf)

/-- R478: with COMMIT_SVN, a boot that reaches READY raises the fused minimum. -/
def State.commitSvn (s : State) : State :=
  let svn := (s.flash.copy s.flash.preferB).svn
  if s.flash.commit then
    let s := { s with flash := { s.flash with commit := false } }
    if s.fuses.minSvn < svn ∧ 0 < s.fuses.raisesLeft then
      let s := { s with fuses := { s.fuses with minSvn := svn, raisesLeft := s.fuses.raisesLeft - 1 } }
      let s := (s.setFld .GLB_BOOT_STATUS_SVN_RAISED 0 1).setFld .SRV_FW_STATUS_RAISES_LEFT 0 s.fuses.raisesLeft
      (s.setFld .MGT_SEC_STATUS_MIN_SVN 0 svn).setFld .SRV_FW_STATUS_SVN_COMMIT_PENDING 0 0
    else s.setFld .SRV_FW_STATUS_SVN_COMMIT_PENDING 0 0
  else s

/-! ### The sequence (Table 15-1) -/

def State.bootStep (s : State) (n : Nat) : State := s.setFld .GLB_BOOT_STATUS_STEP 0 n

def State.bootFail (s : State) (step cause : Nat) (b : Boot) : State :=
  { (s.setFld .GLB_BOOT_STATUS_FAIL_STEP 0 step).setFld .GLB_BOOT_STATUS_CAUSE 0 cause with boot := b }

/-- The domains that are on once the dies are checked: all but those of dies held in reset and the guest sites (log entry 26). -/
def State.bootDomains (s : State) : State :=
  (List.range 103).foldl (fun s d =>
    s.setDomain d (if d < 60 then s.diePresent (d / 5) else decide (d ≠ 100) && decide (d ≠ 101))) s

/-- Steps 5 to 9, once the 48 V supply is in range. `was`: the stacks in service before a reset step 4. -/
def State.bootRest (s : State) (power : Bool) (b : BootInputs) (was : List Bool) : State :=
  let s := s.setFld .GLB_BOOT_STATUS_VIN_WAIT 0 0
  if ¬ b.stageOk then s.bootFail 5 0x51 .mgmtOnly
  else
    let s := { s with pins := { s.pins with stage48 := true } }
    let s := if power ∧ ¬ (s.pins.hpReset.getD 0 false) then s.emit (.hostPort 0 true) else s
    let s := s.setReg .GLB_CLK_STATUS 0 (2 ^ 60 - 1)
    match s.checkDies b with
    | (s, false) => s.bootFail 5 0x52 .mgmtOnly
    | (s, true) =>
      let s := ((s.bootStep 5).negotiate b).showDics.bootDomains.bootStep 6
      let s := if power then s.hardRepairs b.hardRepairOk else s
      match s.trainHbm power b was with
      | (s, false) => s.bootFail 7 0x71 .mgmtOnly
      | (s, true) =>
        let s := (s.bootStep 7).emit (.hostPort 1 true)
        let s := s.bootStep 8
        match s.bootstrap power with
        | (s, false) => s.bootFail 9 0x91 .mgmtOnly
        | (s, true) =>
          let s := { (s.bootStep 9).setFld .GLB_STATUS_READY 0 1 with boot := .ready }
          let s := s.commitSvn.updateShed.updateBelow.paceDies
          let s := if s.fld .HBM_G_STATUS_RATE_DOWNSTEP 0 = 1 then s.postMgr 0x0009 (s.fld .HBM_G_STATUS_OPERATING_RATE 0) else s
          (List.range 16).foldl (fun s h => if s.fld .HBM_STK_STATUS_OUT_OF_SERVICE h = 1 then s.postMgr 0x000A h else s) s

/-- Step 3 and step 4; false where the package enters the recovery state. -/
def State.bootLoad (s : State) (power : Bool) (b : BootInputs) : State × Bool :=
  if ¬ b.flashOk then ((s.bootFail 3 0x32 .recovery).setFld .GLB_BOOT_STATUS_RECOVERY 0 1, false)
  else
    let first := s.flash.recordOk && s.flash.preferB
    let okA := s.flash.a.good && !b.copyABad
    let okB := s.flash.b.good && !b.copyBBad
    let s := s.setFld .GLB_BOOT_STATUS_FW_A_BAD 0 (b2n (!okA && (!first || !okB)))
    let s := s.setFld .GLB_BOOT_STATUS_FW_B_BAD 0 (b2n (!okB && (first || !okA)))
    match pickCopy s.flash b with
    | none => ((s.bootFail 3 0x31 .recovery).setFld .GLB_BOOT_STATUS_RECOVERY 0 1, false)
    | some x => ((((s.runCopy x).bootStep 3).loadConfig power).bootStep 4, true)

/-- Registers that come from fuses (F): identity, spares left, the default coefficients of Table 11-5. -/
def State.loadFuses (s : State) : State :=
  let f := s.fuses
  let s := s.setReg .GLB_ID 0 (0xB1 * 2 ^ 56 + f.grade.toNat * 2 ^ 48 + f.guestPop * 2 ^ 40 + f.serial.toNat)
  let s := (s.setFld .GLB_FABRIC_VERSION_HUB 0 f.hubVersion).setFld .MGT_SEC_STATUS_MIN_SVN 0 f.minSvn
  [28835840, 29622272, 25690112, 28180480, 29622272, 2000000000, 500, 1500, 8000, 1200000, 4000].zipIdx.foldl
    (fun s e => s.setReg .PWR_COEF e.2 e.1) s

/-- A level of SHED_N that outlasts a reset is a pin shed still (R365, R479). -/
def State.keepShed (s : State) (shedN : Bool) : State :=
  if shedN then (s.modPwr fun p => { p with shedN := true }).setFld .PWR_STATUS_SHED_PIN 0 1 else s

/-- Power-up: what the flash, the fuses and the outside hold is kept, and everything else is as at reset (Table 13-8, step 5). -/
def State.powerUp (s : State) : State :=
  State.keepShed { State.reset with
    pending := s.pending, free := s.free, out := s.out, fuses := s.fuses, flash := { s.flash with inUse := [] }, boots := s.boots + 1,
    keyNext := s.keyNext, mem := { Memory.empty with lost := (List.range 16).map fun f => (f, tgetD s.mem.lost f 0 + 1) },
    hbms := s.hbms.map fun (e : Nat × Stack) => (e.1, { Stack.new with
      repairs := e.2.repairs, pendingHard := e.2.pendingHard, spareUsed := e.2.spareUsed }),
    pins := { Pins.new with trayRst := false, hpReset := s.pins.hpReset } } s.pwr.shedN

/-- R411: keys that the MGC loads at cast-on from power-up. -/
def State.loadKeys (s : State) : State :=
  let (k, s) := s.freshKey
  let s := s.loadSlot 63 k
  let (w, s) := s.freshKey
  ({ s with mwk := w }.setFld .MGT_SEC_STATUS_MWK_LOADED 0 1).setFld .MGT_SEC_STATUS_SLOT63_LOADED 0 1

/-- CAST_ON: steps 1 to 4, then the wait for 48 V (R468). It follows a TRAY_RST_N deassertion. -/
def castOn (b : BootInputs) (s : State) : State :=
  if s.boot ≠ .off ∨ ¬ s.pins.trayRst then s
  else
    let s := (s.powerUp.setFld .GLB_BOOT_STATUS_FROM_POWER 0 1).bootStep 1
    if ¬ b.romOk then s.bootFail 2 0x21 .halted
    else
      match (s.loadFuses.loadKeys.bootStep 2).bootLoad true b with
      | (s, false) => s
      | (s, true) => { s.setFld .GLB_BOOT_STATUS_VIN_WAIT 0 1 with boot := .vinWait }

/-- VIN48_IN_RANGE: step 5 goes on (R468). -/
def vin48InRange (b : BootInputs) (s : State) : State :=
  if s.boot = .vinWait then s.bootRest true b [] else s

end Sys2Proof.Machine
end

