-- ==== Sys2Proof/Machine/Resets.lean ====
section
/-! DEFINITION. The reset ladder (13.3 to 13.8), function resets (R399, R429), bind-off (15.7), supply faults, trips, clocks and the reset
pins (01.6, 11.8, 16.5, 16.6), and the tick of the clock. A step takes its effects when it is accepted and completes at a tick of the
clock (log entry 28). -/

namespace Sys2Proof.Machine

/-! ### Steps 1 to 3 (R424, R426, R427) -/

def State.ctxsWhere (s : State) (p : Ctx → Bool) : List Nat := (s.ctxs.filter fun e => p e.2).map fun e => e.1

/-- The contexts that have work on a tile. -/
def State.tileCtxs (s : State) (t : Nat) : List Nat :=
  let x := s.tile t
  (match x.unit with
    | some u => [u.ctx]
    | none => []) ++
  (match x.lc with
    | some (.cmd id) => (s.cmd id).toList.map fun c => c.ctx
    | some (.seq p) => (tget s.rsqs p).toList.map fun r => r.ctx
    | none => [])

/-- The contexts with a launch resident on some cores. -/
def State.coreCtxs (s : State) (ks : List Nat) : List Nat :=
  ks.filterMap fun k => ((s.coreOf k).launch.bind s.cmd).map fun c => c.ctx

/-- The dies whose DMA engines may serve a class 0x01 command: those it names (Table 07-11), else its panel's. -/
def State.dmaDies (s : State) (c : Cmd) : List Nat :=
  let m := if hExpert c.raw then leAt c.raw 88 2 % 4096 else 0
  if m = 0 then s.panelDies c.panel else maskBits m 12

def State.dieCtxs (s : State) (n : Nat) : List Nat :=
  ((List.range 4).flatMap fun a => s.tileCtxs (4 * n + a)) ++ s.coreCtxs ((List.range 32).map fun c => 32 * n + c) ++
    (s.cmds.filterMap fun e => if hCls e.2.raw = 1 ∧ e.2.phase ≠ .done ∧ (s.dmaDies e.2).contains n then some e.2.ctx else none)

def sortNat (l : List Nat) (n : Nat) : List Nat := (List.range n).filter fun i => l.contains i

/-- Table 09-8, steps 2 to 4, of a tile that stays bound as it is: what its L1s still hold of other contexts is written back. -/
def State.clearTile (s : State) (t : Nat) : State :=
  let s := ((s.stopFiller t).scrubTile t).flushTileTlbs t
  s.resetTileRegs t

def State.resetTile (s : State) (t : Nat) : State :=
  let s := s.frogAll (sortNat (s.tileCtxs t ++ s.coreCtxs (tileCores t)) 4096) 0x0201
  let s := s.reclaim fun o _ => decide (o = 0x1000 + t) || (tileCores t).any fun k => decide (o = 0x1100 + k)
  s.clearTile t

def State.resetCores (s : State) (n : Nat) : State :=
  let ks := (List.range 32).map fun c => 32 * n + c
  let s := s.frogAll (sortNat (s.coreCtxs ks) 4096) 0x0201
  let s := s.reclaim fun o _ => ks.any fun k => decide (o = 0x1100 + k)
  let s := (List.range 4).foldl (fun s a => s.flushTileTlbs (4 * n + a)) ((ks.foldl (fun s k => s.cleanCore k) s).dropCores ks)
  ks.foldl (fun s k => ((s.resetReg .GC_STATUS k).resetReg .GC_L1_STATUS k).clearUnit (unitCore (k / 32) (k % 32))) s

def State.resetDma (s : State) (n : Nat) : State :=
  let s := s.frogAll (sortNat (s.dieCtxs n) 4096) 0x0201
  let s := s.reclaim fun o _ => decide (o = 0x1300 + n)
  (s.setFld .SRV_STATUS_STATE (3 + n) 2).setReg .SRV_HEARTBEAT (3 + n) 0

/-- R426: kind 1 leaves the tile with the activation slots that its panel holds loaded (R304). -/
def State.engineReset (s : State) (kind target : Nat) : State :=
  match kind with
  | 1 =>
    let s := s.resetTile target
    match (s.tile target).owner with
    | some p => s.giveSlots target p
    | none => s
  | 2 => s.resetCores target
  | _ => s.resetDma target

/-- R427, in its order. -/
def State.panelReset (s : State) (p : Nat) : State :=
  let s := s.frogAll (s.ctxsWhere fun c => decide (c.panel = p)) 0x0201
  let tiles := match tget s.panels p with
    | some x => maskBits x.tiles 48
    | none => []
  let s := tiles.foldl (fun s t => s.resetTile t) s
  let s := { s with panels := tmod s.panels p fun x => { x with actSlots := [] } }
  let segs : List Nat := (List.range 192).filter fun (i : Nat) => s.cfg.dscrOwner (i / 16) (i % 16) == some p
  let s : State := segs.foldl (fun (s : State) (i : Nat) => s.scrubSeg (i / 16) (i % 16)) s
  if 2 ≤ s.fld .RSQ_STATUS_STATE p then
    (((s.resetReg .RSQ_STATUS p).resetReg .RSQ_COUNTS p).setFld .RSQ_STATUS_STATE p 1)
  else s

/-! ### Requests that meet (R421 to R423) -/

/-- A step's number, kind and target. -/
structure RStep where
  step : Nat
  kind : Nat
  target : Nat
  deriving DecidableEq, Repr

def State.targetExists (s : State) (r : RStep) : Bool :=
  match r.step with
  | 1 => thas s.ctxs r.target
  | 2 => if r.kind = 1 then s.tilePresent r.target else s.diePresent r.target
  | 3 => thas s.panels r.target
  | _ => true

/-- The scope of `a` contains that of `b`. -/
def State.scopeHolds (s : State) (a b : RStep) : Bool :=
  decide (a = b) || decide (a.step = 4) ||
    (decide (a.step = 3) && (match b.step with
      | 1 => (match tget s.ctxs b.target with
        | some c => decide (c.panel = a.target)
        | none => false)
      | 2 => decide (b.kind = 1) && decide ((s.tile b.target).owner = some a.target)
      | _ => false))

def State.doStep (s : State) (r : RStep) : State :=
  match r.step with
  | 1 => s.frog r.target 0x0201
  | 2 => s.engineReset r.kind r.target
  | _ => s.panelReset r.target

/-- `HUB_RESET_STATUS` after a step that ended with a result. -/
def State.lastReset (s : State) (r : RStep) (result : Nat) : State :=
  let s := ((s.setFld .HUB_RESET_STATUS_LAST_STEP 0 r.step).setFld .HUB_RESET_STATUS_LAST_KIND 0 r.kind).setFld .HUB_RESET_STATUS_LAST_TARGET 0 r.target
  s.setFld .HUB_RESET_STATUS_LAST_RESULT 0 result

def ResetJob.rstep (j : ResetJob) : RStep := ⟨j.step, j.kind, j.target⟩

/-- A step completes: its log entry, its commands and the reset registers. -/
def State.finishReset (s : State) : State :=
  match s.resetJob with
  | none => s
  | some j =>
    let s := { s with resetJob := none }
    let s := (s.lastReset j.rstep (if j.overran then 2 else 0)).setFld .HUB_RESET_STATUS_BUSY 0 0
    let s := (s.setReg .HUB_RESET_TIME 0 s.now).bump unitFaults (j.step - 1) 1 none
    let s := s.logFault 0x08 j.step 0 0xFFFF (if j.step = 1 then some j.target else none) 0 j.target
    j.cmds.foldl (fun s id => s.endCmd id 0) s

/-- A step in progress is subsumed by a higher one. -/
def State.subsume (s : State) (j : ResetJob) : State :=
  ({ s with resetJob := none }.lastReset j.rstep 3).logFault 0x08 j.step 0x0201 0xFFFF
    (if j.step = 1 then some j.target else none) 0 j.target

def State.startReset (s : State) (r : RStep) (cmds : List Nat) : State :=
  let s := s.doStep r
  { s.setFld .HUB_RESET_STATUS_BUSY 0 1 with
    resetJob := some ⟨r.step, r.kind, r.target, s.time, cmds, false⟩ }

/-- R423: accept a request for step 1, 2 or 3. -/
def State.acceptReset (s : State) (r : RStep) (cmd : Option Nat) : State :=
  match s.resetJob with
  | none => s.startReset r cmd.toList
  | some j =>
    if s.scopeHolds j.rstep r then { s with resetJob := some { j with cmds := j.cmds ++ cmd.toList } }
    else if s.scopeHolds r j.rstep then (s.subsume j).startReset r (j.cmds ++ cmd.toList)
    else (s.finishReset).startReset r cmd.toList

/-! ### Commands and register requests -/

/-- Table 13-5. -/
def ctxFrogChecks (s : State) (r : List Byte) : List (Bool × Nat) :=
  let x := leAt r 16 2
  [(decide (bits x 15 12 ≠ 0) || nonzero r 18 64, 0x0102), (decide (x % 4096 = hCtx r), 0x0102),
   (!(thas s.ctxs (x % 4096)), 0x0104)]

def engineResetChecks (s : State) (r : List Byte) : List (Bool × Nat) :=
  let k := leAt r 16 1
  let i := leAt r 17 1
  [(decide (bits k 7 2 ≠ 0) || decide (bits i 7 6 ≠ 0) || nonzero r 18 64, 0x0102), (decide (k % 4 = 0), 0x0102),
   (!(s.targetExists ⟨2, k % 4, i % 64⟩), 0x0104)]

def panelResetChecks (s : State) (r : List Byte) : List (Bool × Nat) :=
  let p := leAt r 16 1
  [(decide (bits p 7 6 ≠ 0) || nonzero r 17 64, 0x0102),
   ((match tget s.ctxs (hCtx r) with
     | some c => decide (c.panel = p % 64)
     | none => false), 0x0102),
   (!(thas s.panels (p % 64)), 0x0104)]

/-- The step that a class 0x08 reset command asks for. -/
def resetOf (r : List Byte) : RStep :=
  match hOpcode r with
  | 0x080A => ⟨1, 0, leAt r 16 2 % 4096⟩
  | 0x080B => ⟨2, leAt r 16 1 % 4, leAt r 17 1 % 64⟩
  | _ => ⟨3, 0, leAt r 16 1 % 64⟩

/-- A reset command asks for its step once, and ends when the step completes; during bind-off it is refused (R483), and one whose target
has gone ends with 0x0104 (R510). -/
def resetBody (s : State) (c : Cmd) : State × Option Nat :=
  if c.step ≠ 0 then (s, none)
  else if s.boot = .bindOff ∨ ¬ (s.targetExists (resetOf c.raw)) then (s, some 0x0104)
  else ((s.modCmd c.id fun x => { x with step := 1 }).acceptReset (resetOf c.raw) (some c.id), none)

/-- The step that a `HUB_RESET_CMD` value asks for. -/
def stepOfReg (v : W64) : RStep :=
  ⟨bits v.toNat 23 20, if bits v.toNat 23 20 = 2 then bits v.toNat 19 16 else 0, if bits v.toNat 23 20 = 4 then 0 else bits v.toNat 11 0⟩

/-- R422: a request by register or sideband is refused for its CONFIRM, its fields, BUSY, before READY (Table 15-5) and during bind-off. A
management-only package takes step 4 from the sideband (R470). -/
def State.resetRegOk (s : State) (sideband : Bool) (v : W64) : Bool :=
  let n := v.toNat
  let r := stepOfReg v
  decide (bits n 63 48 = 0x4652) && decide (bits n 47 24 = 0) && decide (bits n 15 12 = 0) && decide (1 ≤ r.step) && decide (r.step ≤ 4) &&
    (decide (r.step = 2) || decide (bits n 19 16 = 0)) && (decide (r.step ≠ 2) || (decide (1 ≤ r.kind) && decide (r.kind ≤ 3))) &&
    decide (s.fld .HUB_RESET_STATUS_BUSY 0 = 0) &&
    (decide (s.boot = .ready) || (sideband && decide (r.step = 4) && decide (s.boot = .mgmtOnly))) && s.targetExists r

/-- A refused request sets BAD, and LAST_RESULT reads 1 (log entry 28). -/
def State.refuseReset (s : State) : State := (s.setFld .HUB_RESET_STATUS_BAD 0 1).setFld .HUB_RESET_STATUS_LAST_RESULT 0 1

/-- A request for one of the steps 1 to 3 by register or sideband. -/
def State.resetByReg (s : State) (sideband : Bool) (v : W64) : State :=
  if s.resetRegOk sideband v then s.acceptReset (stepOfReg v) none else s.refuseReset

/-- The rows CTX_FROG, ENGINE_RESET and PANEL_RESET: a request for the step of the row. -/
def resetRow (step opcode : Nat) (req : ResetReq) (s : State) : State :=
  match req with
  | .cmd id => s.runCmd id opcode resetBody
  | .reg v => if (stepOfReg v).step = step then s.resetByReg false v else s
  | .sideband v => if (stepOfReg v).step = step then s.resetByReg true v else s

/-- RESET_OVERRUN (R423). -/
def resetOverrun (s : State) : State :=
  match s.resetJob with
  | none => s
  | some j =>
    if j.overran then s
    else ({ s with resetJob := some { j with overran := true } }.lastReset j.rstep 2).logFault 0x08 j.step 0x0405 0xFFFF
      (if j.step = 1 then some j.target else none) 0 j.target

/-! ### Step 4 (R428) -/

/-- The kinds of register that keep their values across reset step 4 (R437; log entry 27). -/
def keptKinds : List Nat :=
  ([.HUB_FLT_CTL, .HUB_FLT_PTRS, .HUB_FLT_STATUS, .HUB_RESET_STATUS, .HUB_RESET_TIME, .HUB_LEASE_STATUS, .TMB_TIME, .TMB_CTL, .TMB_EPOCH,
    .TMB_STATUS, .TMB_PPS_TIME, .HBM_STK_STATUS, .HBM_TRAIN_RESULT, .HBM_ECC_COUNT, .HBM_ECC_LOG, .HBM_ECC_LOC, .HBM_PICOT_CTL,
    .HBM_REPAIR_STATUS, .HBM_G_CTL, .HBM_G_STATUS, .HBM_KEY_CTL, .HBM_KEY_BUF, .GLB_ID, .GLB_FABRIC_VERSION, .MGT_SEC_STATUS, .PWR_COEF,
    .PWR_ENERGY, .SRV_ALERT, .SRV_SENSOR_FAIL, .SRV_INPUT_STATUS] : List Reg).map fun r => r.ctorIdx

/-- Phase 2: dirty lines go home; a line whose stack is out of service is lost and logged, and one whose home does not take it is
poisoned there. Memory already holds every line's bytes (log entry 5). -/
def State.cleanSlices (s : State) : State :=
  let s := s.skeinCloseAll
  let l := (s.slices.flatMap fun e => e.2.lines ++ e.2.wbuf).filter fun x => decide (x.state = .m) && decide (x.dirty ≠ 0)
  let s := l.foldl (fun s x =>
    let a := 128 * localLine x.line
    let lose (s : State) : State := (s.logFault 0x05 x.dirty 0 0xFFFF none 0 (128 * x.line)).incFld .HUB_LEASE_STATUS_POISONED 0 1
    if s.hbmOos a then lose s
    else if s.paOk s.hubWho a then s
    else lose ({ s with mem := (maskBits x.dirty 4).foldl (fun m i => m.poison x.key (a + 32 * i)) s.mem })) s
  { s with slices := [], dirs := [], dirWait := [], net := [], tracker := [] }

/-- What reset step 4 leaves before the firmware is loaded again: phases 1 to 3. -/
def State.packageDown (s : State) : State :=
  let s := (s.reclaim fun _ _ => true).cleanSlices
  let mem := (s.mem.clearWindow 0x800100000000 0x800160000000).clearWindow 0x800200000000 0x80020C000000
  let shedN := s.pwr.shedN
  let s := { State.reset with
    pending := s.pending, free := s.free, out := s.out, time := s.time, fuses := s.fuses,
    regs := s.regs.filter fun e => keptKinds.contains (e.1 / 65536) || s.written.contains e.1,
    mem := mem, keys := s.keys, keyNext := s.keyNext, mwk := s.mwk, blobs := s.blobs, saved := s.saved, hbms := s.hbms, boots := s.boots,
    faultLog := s.faultLog, fltTail := s.fltTail, timebase := s.timebase, sensors := s.sensors, flash := s.flash, written := s.written,
    nextCmd := s.nextCmd, nextTag := s.nextTag, tap := s.tap, pins := s.pins,
    epochs := [(1, { Settings.initial with frameMode := s.cfg.frameMode })] }
  s.keepShed shedN

/-- Reset step 4. -/
def State.packageReset (s : State) (b : BootInputs) : State :=
  let was := (List.range 16).map fun h => bit (s.fld .HBM_G_STATUS_IN_SERVICE 0) h
  let s := match s.resetJob with
    | some j => s.subsume j
    | none => s
  let s := s.packageDown
  let s := match s.bootLoad false b with
    | (s, false) => s
    | (s, true) => s.bootRest false b was
  let s := s.setFld .HUB_RESET_STATUS_STEP4_COUNT 0 ((s.fld .HUB_RESET_STATUS_STEP4_COUNT 0 + 1) % 2 ^ 32)
  let s := (s.lastReset ⟨4, 0, 0⟩ 0).setFld .HUB_RESET_STATUS_BUSY 0 0
  let s := (s.setReg .HUB_RESET_TIME 0 s.now).bump unitFaults 3 1 none
  s.logFault 0x08 4 0 0xFFFF none 0 0

/-- FW_ACTIVATE: the boot record prefers the copy that does not run (R478). -/
def State.preferOther (s : State) (r : List Byte) : State :=
  let b := decide (s.fld .GLB_BOOT_STATUS_FW_COPY 0 = 0)
  let s := { s with flash := { s.flash with preferB := b, recordOk := true, commit := bit (leAt r 16 1) 1 } }
  (s.setFld .SRV_FW_STATUS_PREFERRED 0 (b2n b)).setFld .SRV_FW_STATUS_SVN_COMMIT_PENDING 0 (b2n s.flash.commit)

/-- PACKAGE_RESET: by register, by the sideband, or by an FW_ACTIVATE with NOW = 1. -/
def packageReset (req : ResetReq) (b : BootInputs) (s : State) : State :=
  match req with
  | .cmd id =>
    match s.cmd id with
    | some c =>
      if c.opcode = 0x0F06 ∧ s.startable c ∧ bit (leAt c.raw 16 1) 0 = true ∧ s.boot = .ready then (s.preferOther c.raw).packageReset b else s
    | none => s
  | .reg v => if (stepOfReg v).step ≠ 4 then s else if s.resetRegOk false v then s.packageReset b else s.refuseReset
  | .sideband v => if (stepOfReg v).step ≠ 4 then s else if s.resetRegOk true v then s.packageReset b else s.refuseReset

/-! ### Function resets and the host ports (R399, R429, R498) -/

def Queue.afterFlr (x : Queue) : Queue :=
  { x with
    head := 0, tail := 0, armed := false, held := false, faulted := false, dbBad := false, lost := false, overflowed := false,
    evtLost := false, sinceArm := 0, firstAt := none, subs := [], dups := [] }

/-- R399 for a function: frogs, its queues, its mailbox, its aperture and APERTURE_ERR (Table 12-9). -/
def State.flr (s : State) (f : Nat) : State :=
  match tget s.funcs f with
  | none => s
  | some _ =>
    let s := s.abandonFreeze f
    let s := s.frogAll (s.ctxsWhere fun c => decide (c.func = f)) 0x0201
    let s := { s with queues := s.queues.map fun (e : Nat × Queue) => if e.2.func = f then (e.1, e.2.afterFlr) else e }
    s.modFunc f fun g => { g with m2tHead := 0, m2tTail := 0, t2mHead := 0, t2mTail := 0, apEn := false, apErr := 0 }

/-- FLR_VF. A VF that is frozen or saved stays so but for an abandoned freeze. -/
def flrVf (f : Nat) (s : State) : State := if 1 ≤ f ∧ f ≤ 252 then s.flr f else s

/-- FLR_PF0. -/
def flrPf0 (s : State) : State := if s.boot = .ready then s.flr 0 else s

def State.setHpReset (s : State) (port : Nat) (on : Bool) : State :=
  { s with pins := { s.pins with hpReset := (s.pins.hpReset.zipIdx.map fun e => if e.2 = port then on else e.1) } }

def hp0PerstAssert (durNs : Nat) (b : BootInputs) (s : State) : State :=
  let s := (s.setHpReset 0 true).emit (.hostPort 0 false)
  if s.boot = .ready ∧ 100000 ≤ durNs then s.packageReset b else s

def hp1PerstAssert (s : State) : State :=
  let s := (s.setHpReset 1 true).emit (.hostPort 1 false)
  s.reclaim fun o _ => decide (o = 0x1331)

/-- PERST_N_DEASSERT: the port may train its link once the stage regulates; HP1 also needs its domain. -/
def perstNDeassert (port : Nat) (s : State) : State :=
  if 1 < port then s
  else
    let s := s.setHpReset port false
    if s.pins.stage48 ∧ (port = 0 ∨ s.domainOn 102) then s.emit (.hostPort port true) else s

/-! ### Losing the 48 V stage (R383, R430, R495) -/

/-- The parts that the 3.3 V supply feeds keep their registers: the MGC, the timebase and the pins. -/
def auxKinds : List Nat :=
  ([.TMB_TIME, .TMB_CTL, .TMB_EPOCH, .TMB_STATUS, .TMB_PPS_TIME, .GLB_ID, .GLB_BOOT_STATUS, .GLB_FABRIC_VERSION, .MGT_SEC_STATUS, .SRV_ALERT,
    .SRV_FW_STATUS, .SRV_CFG_STATUS, .SRV_INPUT_STATUS] : List Reg).map fun r => r.ctorIdx

def State.loseStage (s : State) (b : Boot) : State :=
  let mgc := s.reg .SRV_STATUS 0
  let s := { State.reset with
    pending := s.pending, free := s.free, out := s.out, time := s.time, fuses := s.fuses,
    regs := s.regs.filter fun e => auxKinds.contains (e.1 / 65536),
    mem := { Memory.empty with lost := (List.range 16).map fun f => (f, tgetD s.mem.lost f 0 + 1) },
    keyNext := s.keyNext, mwk := s.mwk, saved := s.saved,
    hbms := s.hbms.map fun (e : Nat × Stack) => (e.1, { Stack.new with
      repairs := e.2.repairs, pendingHard := e.2.pendingHard, spareUsed := e.2.spareUsed }),
    boots := s.boots, nextCmd := s.nextCmd, nextTag := s.nextTag, timebase := s.timebase, flash := s.flash, tap := s.tap,
    pins := { s.pins with stage48 := false }, boot := b, pwr := { State.reset.pwr with shedN := s.pwr.shedN } }
  s.setReg .SRV_STATUS 0 mgc

/-- R495: a supply fault while the package watches its supplies. -/
def State.supplyFault (s : State) : State :=
  if s.pins.stage48 then (s.loseStage .inputFault).setAlert .SRV_ALERT_INPUT_FAULT true else s

def vin48Undervoltage (durNs : Nat) (s : State) : State := if 20000 ≤ durNs then s.supplyFault else s
def vin48Overvoltage (durNs : Nat) (s : State) : State := if 10000 ≤ durNs then s.supplyFault else s
def regulatorFault (durNs : Nat) (s : State) : State := if 10000 ≤ durNs then s.supplyFault else s

/-- Nothing has power or is out of reset. -/
def State.powerDown (s : State) (tray : Bool) : State :=
  let s := s.powerUp
  { s with boots := s.boots - 1, pins := { s.pins with trayRst := tray } }

/-- V3P3_UNDERVOLTAGE: every domain is held in reset and every pin released. -/
def v3p3Undervoltage (durNs : Nat) (s : State) : State :=
  if 10000 ≤ durNs ∧ s.boot ≠ .off then s.powerDown s.pins.trayRst else s

/-- TRAY_RST_ASSERT (R430, R480). -/
def trayRstAssert (stableNs : Nat) (s : State) : State :=
  if stableNs < 10000 then (if s.boot = .off then s else s.incFld .SRV_INPUT_STATUS_RST_GLITCHES 0 1)
  else s.powerDown true

/-- Table 11-4: the trip temperature of a sensor group; 25 to 40 are the stacks. -/
def tripC (unit : Nat) : Int := if unit < 25 then 115 else 105

/-- THERMAL_TRIP. -/
def thermalTrip (unit : Nat) (celsius : Int) (s : State) : State :=
  if unit < 41 ∧ tripC unit ≤ celsius ∧ s.boot ≠ .off ∧ ¬ s.pins.thermTrip then
    let s := s.loseStage .tripped
    { s.emit .thermTrip with pins := { s.pins with thermTrip := true } }
  else s

/-! ### Clocks (R23) -/

def clockHoldoverEnter (s : State) : State :=
  if s.boot = .off ∨ s.fld .GLB_STATUS_CLK_HOLDOVER 0 = 1 then s
  else
    let s := { s.setFld .GLB_STATUS_CLK_HOLDOVER 0 1 with pins := { s.pins with refBad := true } }
    (s.setAlert .SRV_ALERT_CLK_HOLDOVER true).postMgr 0x0008 0

def clockHoldoverExit (s : State) : State :=
  if s.fld .GLB_STATUS_CLK_HOLDOVER 0 = 1 then
    let s := { s.setFld .GLB_STATUS_CLK_HOLDOVER 0 0 with pins := { s.pins with refBad := false } }
    s.setAlert .SRV_ALERT_CLK_HOLDOVER false
  else s

/-- PLL_LOCK_LOSS: the port of a domain stops (log entry 30). -/
def pllLockLoss (d : Nat) (s : State) : State :=
  if 59 < d ∨ ¬ (bit (s.reg .GLB_CLK_STATUS 0) d) then s
  else
    let s := s.setReg .GLB_CLK_STATUS 0 (setBits (s.reg .GLB_CLK_STATUS 0) d d 0)
    if d < 16 then s.stackOut d
    else if d < 48 then (if s.linkState (d - 16) = 0 then s else s.linkDown (d - 16) 4)
    else if d < 52 then s
    else if d < 54 then (s.emit (.hostPort (d - 52) false)).reclaim fun o _ => decide (o = 0x1330 + (d - 52))
    else if d < 58 then guestIsolate ((d - 54) / 2) true s
    else s

/-- CONTROLLER_FAULT (R418, R251). -/
def controllerFault (c : Nat) (s : State) : State :=
  if c < 27 ∧ s.fld .SRV_STATUS_STATE c = 2 then
    (s.setFld .SRV_STATUS_STATE c 4).logFault 0x0C c 0 0xFFFF none 0 (s.fld .SRV_STATUS_VERSION c)
  else s

/-! ### Bind-off (R483) -/

/-- BIND_OFF: a write of `SRV_BIND_OFF` by PF0 or the sideband. -/
def bindOff (v : View) (value : W64) (s : State) : State :=
  if bits value.toNat 63 48 = 0x424F ∧ (v = .pf0 ∨ v = .sideband) ∧ s.boot = .ready then
    let d := bits value.toNat 47 32
    let staging := s.cmds.filter fun e => decide (e.2.opcode = 0x0F05) && decide (e.2.phase ≠ .done)
    let s := staging.foldl (fun s e => s.cancelCmd e.1 0x0201) s
    { s.setFld .SRV_BIND_OFF_BUSY 0 1 with boot := .bindOff, bindAt := s.time, drainMs := if d = 0 then 1000 else d }
  else s

/-- The contexts that still hold work. -/
def State.workCtxs (s : State) : List Nat :=
  sortNat ((s.cmds.map fun e => e.2.ctx) ++ (s.images.map fun e => e.2.ctx) ++
    (s.rsqs.filterMap fun e => if e.2.run.isSome ∨ e.2.seqs ≠ [] then some e.2.ctx else none)) 4096

def bindOffDrainExpire (s : State) : State :=
  if s.boot = .bindOff ∧ 1000000 * s.drainMs ≤ (s.time - s.bindAt).toNat then s.frogAll s.workCtxs 0x0201 else s

/-- Phases 3 to 6, once no command is in flight. -/
def State.bindOffEnd (s : State) : State :=
  let s := s.cleanSlices
  let s := (List.range 32).foldl (fun s l => if s.linkState l = 0 then s else s.linkDown l 1) s
  let s := (List.range 2).foldl (fun s g => if s.fld .GST_STATUS_STATE g = 4 then s.isolateGuest g 0 else s) s
  let s := (List.range 103).foldl (fun s d => s.setDomain d false) (s.emit (.hostPort 1 false))
  let s := (List.range 16).foldl (fun s h => s.setFld .HBM_STK_STATUS_SELF_REFRESH h 1) s
  let s := (s.setFld .SRV_BIND_OFF_BUSY 0 0).setFld .SRV_BIND_OFF_DONE 0 1
  { s with boot := .bound, pins := { s.pins with stage48 := false } }

/-! ### The tick -/

/-- A nanosecond passes while no command waits: the reset step in progress completes, and bind-off goes on once its work has drained (log
entries 17 and 28). Package time counts from cast-on step 1 (R336). -/
def State.tick (s : State) : State :=
  if s.boot = .off then s
  else
    let s := { s with time := s.time + 1 }
    let s := s.finishReset
    if s.boot = .bindOff ∧ s.workCtxs = [] then s.bindOffEnd else s

end Sys2Proof.Machine
end

