-- ==== Sys2Proof/Machine/RegAccess.lean ====
section
/-! DEFINITION. Register accesses: the offsets and their peek aliases (R457), the register views (R402, R403), reads with a side
effect, and writes with the actions that they perform (R5, R6). -/

namespace Sys2Proof.Machine

/-! ### Offsets -/

/-- The instance that an offset within a run of registers names, with the number counted so far. -/
def dimIndex : List (Nat × Nat) → Nat → Nat → Option Nat
  | [], off, n => if off = 0 then some n else none
  | (count, stride) :: t, off, n => if off / stride < count then dimIndex t (off % stride) (n * count + off / stride) else none

def RegMap.index (m : RegMap) (off : Nat) : Option Nat :=
  if off < m.base then none else (dimIndex m.dims (off - m.base) 0).map fun i => m.first + i

def Reg.index (r : Reg) (off : Nat) : Option Nat := (regInfo r).maps.findSome? fun m => m.index off

def findReg (l : List Reg) (off : Nat) : Option (Reg × Nat) := l.findSome? fun r => (r.index off).map fun i => (r, i)

def Reg.hasRc (r : Reg) : Bool := (regInfo r).fields.any fun f => decide (f.acc = .rc)

/-- R457: how far a register's peek alias lies above it. -/
def aliasOf (off : Nat) : Nat := if 0x2000000 ≤ off ∧ off < 0x3000000 then 0x30000 else 0x8000

def findAlias (off : Nat) : Option (Reg × Nat) :=
  (findReg (allRegs.filter Reg.hasRc) (off - aliasOf off)).filter fun _ => decide (aliasOf off ≤ off)

/-! ### Views -/

/-- The PF0 offset of what a VF's BAR0 shows at an offset (Table 12-3). -/
def vfOffset (off : Nat) : Nat :=
  if 0x80000 ≤ off ∧ off < 0xE0000 then off - 0x80000 + 0x2000000
  else if 0xE0000 ≤ off ∧ off < 0xF0000 then off - 0xE0000 + 0x700000
  else off

/-- R402, R249, R282, R313, R353, R415, R445: what a VF's view shows. -/
def State.vfSees (s : State) (f : Nat) (r : Reg) (i : Nat) : Bool :=
  match r with
  | .GLB_ID | .GLB_STATUS | .TMB_TIME | .OBS_FN_CNT => true
  | .MGT_FN_SEL | .MGT_FN_CFG | .MGT_FN_PANELS | .MGT_FN_STATUS | .MGT_MBX_BASE | .MGT_MBX_M2T | .MGT_MBX_T2M | .MGT_APERTURE
  | .MGT_SEC_STATUS => true
  | .QUE_POOL | .QUE_SEL | .QUE_CFG | .QUE_RING | .QUE_IRQ | .QUE_PTRS | .QUE_STATUS | .QUE_PROGRESS | .QUE_LAST_TIME
  | .QUE_OVF_BASE | .QUE_OVF_PTRS | .QUE_FN_STATUS => true
  | .PNL_CFG | .PNL_TILES | .PNL_LC_TILES | .PNL_W | .PNL_STATUS | .PNL_COUNTS | .PNL_DISPATCH | .PNL_LAST_PREEMPT
  | .RSQ_STATUS | .RSQ_ROW | .RSQ_POOL | .RSQ_SEQS | .RSQ_ROW_WC | .RSQ_LAST_ROW_TIME | .RSQ_COUNTS | .RSQ_FAULT =>
    bit (s.fnPanels f) i
  | _ => false

/-- The full register space is served: from READY on, and during bind-off (R469, R470, R483). -/
def State.barOpen (s : State) : Bool := decide (s.boot = .ready) || decide (s.boot = .bindOff)

/-- What a package short of READY serves: the GLB and MGT blocks in the management-only state, `GLB_BOOT_STATUS` on the sideband in the
recovery state (R470), and nothing to a host whose port has no power or answers with retry status (R469; log entry 135). -/
def State.bootServes (s : State) (v : View) (r : Reg) (off : Nat) : Bool :=
  match s.boot with
  | .ready | .bindOff => true
  | .mgmtOnly => decide (off < 0x20000)
  | .recovery => decide (v = .sideband) && decide (r = .GLB_BOOT_STATUS)
  | .off | .halted => false
  | .vinWait | .bound | .inputFault | .tripped => decide (v = .sideband) || decide (v = .dap)

/-- The register block of an instance is served: after PKG_MAP_FAULT only GLB and MGT are (R15); the block of a die held in reset, its
counter sets and the registers of an unpopulated guest site read zero (R14, R440, R354). -/
def State.served (s : State) (v : View) (r : Reg) (i off : Nat) : Bool :=
  s.bootServes v r off && (decide (s.fld .GLB_STATUS_PKG_MAP_FAULT 0 = 0) || decide (off < 0x20000)) &&
    (if 0x1000000 ≤ off ∧ off < 0x1C00000 then s.diePresent ((off - 0x1000000) / 0x100000)
    else if 0x600000 ≤ off ∧ off < 0x700000 then s.sitePopulated ((off - 0x600000) % 0x8000 / 0x1000)
    else match r with
      | .OBS_F => ((unitDie (i / 16)).map s.diePresent).getD (unitKind (i / 16)).isSome
      | .OBS_P | .OBS_PCTL => ((unitDie (i / 8)).map s.diePresent).getD (unitKind (i / 8)).isSome
      | _ => true)

/-- A register view answers: PF0's and the privileged ones always, a VF's while the function exists. -/
def State.viewOf (s : State) : View → Nat → Option Nat
  | .vf n, off => if n ≠ 0 ∧ (tget s.funcs n).isSome ∧ off < 0x100000 then some (vfOffset off) else none
  | _, off => some off

/-- What an access at a PF0 offset reaches through a view: the register, its instance, and whether it is the peek alias. -/
def State.regAtPf (s : State) (v : View) (o : Nat) : Option (Reg × Nat × Bool) :=
  let hit := match findReg allRegs o with
    | some (r, i) => some (r, i, false)
    | none => (findAlias o).map fun (r, i) => (r, i, true)
  hit.filter fun (r, i, al) =>
    s.served v r i (if al then o - aliasOf o else o) && (decide (viewFn v = 0) || s.vfSees (viewFn v) r i)

/-- What an access at an offset of a view reaches. -/
def State.regAt (s : State) (v : View) (off : Nat) : Option (Reg × Nat × Bool) := (s.viewOf v off).bind (s.regAtPf v)

/-! ### The MSI-X table and pending bits (R392) -/

def isMsix (off : Nat) : Bool := decide (0xF0000 ≤ off) && decide (off < 0xF8100)

def vectorsOf (f : Nat) : Nat := if f = 0 then 2048 else 64

/-- The eight bytes at an offset of the table or of the pending-bit array. -/
def State.msixValue (s : State) (f off : Nat) : Nat :=
  if off < 0xF8000 then
    let v := (off - 0xF0000) / 16
    if v < vectorsOf f then s.msixWord f v (off / 8 % 2) else 0
  else maskOf ((List.range 64).filter fun i => s.msixPend.contains (2048 * f + 64 * ((off - 0xF8000) / 8) + i))

/-- A write of a table word; a vector that is unmasked sends the message that was pending. -/
def State.writeMsix (s : State) (f off m val : Nat) : State :=
  let v := (off - 0xF0000) / 16
  let w := off / 8 % 2
  let keep := if w = 0 then 2 ^ 64 - 4 else 2 ^ 33 - 1
  if off < 0xF8000 ∧ v < vectorsOf f then
    let x := ((s.msixWord f v w &&& (2 ^ 64 - 1 - m)) ||| (val &&& m)) &&& keep
    let s := { s with msix := tput s.msix (2 * (2048 * f + v) + w) (w64 x) }
    if s.msixPend.contains (2048 * f + v) ∧ ¬ (s.msixMasked f v) then
      { s with msixPend := s.msixPend.filter fun k => !(decide (k = 2048 * f + v)) }.emit (.msix f v)
    else s
  else s

/-! ### Reads -/

def halfOf (h : Half) (v : Nat) : Nat :=
  match h with
  | .full => v
  | .low => v % 2 ^ 32
  | .high => v / 2 ^ 32

def rcMask (r : Reg) : Nat :=
  (regInfo r).fields.foldl (fun m f => if f.acc = .rc then m + (2 ^ (f.hi + 1 - f.lo) - 1) * 2 ^ f.lo else m) 0

/-- What a read does to the RC fields of a register (Table 00-5). -/
def State.readEffect (s : State) (f : Nat) (r : Reg) (i : Nat) : State :=
  match r with
  | .HBM_ECC_LOG => s.eccLogPop i
  | .HBM_REPAIR_LOG => s.repairLogNext i
  | .QUE_FN_STATUS => s.modFunc (s.selFn f .QUE_FN_SEL_FUNC) fun g => { g with dropped := 0, badDb := 0 }
  | _ => if r.hasRc then s.setReg r i (s.reg r i &&& (2 ^ 64 - 1 - rcMask r)) else s

/-- RSQ and PNL sets have no side effect in a VF's view (R282, R313); the debug access port reads peek aliases (R458). -/
def State.readsQuietly (s : State) (v : View) (r : Reg) : Bool :=
  match v with
  | .vf _ => decide (r ≠ .QUE_FN_STATUS)
  | .dap => decide (s.fld .DBG_CTL_DESTRUCTIVE 0 = 0)
  | _ => false

/-- A read of a register instance through a view: its value, with the side effect of an 8-byte read (R5). -/
def State.readReg (s : State) (v : View) (r : Reg) (i : Nat) (h : Half) (al : Bool) : State × Nat :=
  let (s, x) := s.peek (viewFn v) r i
  if h = .full ∧ al = false ∧ s.readsQuietly v r = false then (s.readEffect (viewFn v) r i, x) else (s, halfOf h x)

/-- A read of what an offset reached; what is not there reads zero (R402). -/
def State.readHit (s : State) (v : View) (h : Half) : Option (Reg × Nat × Bool) → State × Nat
  | none => (s, 0)
  | some (r, i, al) => s.readReg v r i h al

/-- The function of a view answers. -/
def State.viewUp (s : State) (v : View) : Bool := s.barOpen && (decide (viewFn v = 0) || (tget s.funcs (viewFn v)).isSome)

def State.readAt (s : State) (v : View) (off : Nat) (h : Half) : State × Nat :=
  if isMsix off && s.viewUp v then (s, halfOf h (s.msixValue (viewFn v) off)) else s.readHit v h (s.regAt v off)

/-- A read at a PF0 offset, as a context makes it. -/
def State.readPf (s : State) (v : View) (off : Nat) (h : Half) : State × Nat :=
  if isMsix off && s.viewUp v then (s, halfOf h (s.msixValue (viewFn v) off)) else s.readHit v h (s.regAtPf v off)

/-- The offset of an instance within a run of registers. -/
def RegMap.offset (m : RegMap) (i : Nat) : Option Nat :=
  if m.first ≤ i ∧ i - m.first < m.dims.foldl (fun n d => n * d.1) 1 then
    some (m.dims.foldr (fun (d x : Nat × Nat) => (x.1 / d.1, x.2 + x.1 % d.1 * d.2)) (i - m.first, m.base)).2
  else none

def Reg.offset (r : Reg) (i : Nat) : Option Nat := (regInfo r).maps.findSome? fun m => m.offset i

/-- The register instance answers in a view. -/
def State.answers (s : State) (v : View) (r : Reg) (i : Nat) : Bool :=
  match r.offset i with
  | none => false
  | some off => s.served v r i off && (decide (viewFn v = 0) || (s.vfSees (viewFn v) r i && (tget s.funcs (viewFn v)).isSome))

/-- A host read of one register instance, given by its number. -/
def State.hostRead (s : State) (v : View) (r : Reg) (i : Nat) (h : Half) : State :=
  if s.answers v r i then
    let (s, x) := s.readReg v r i h false
    s.emit (.regData (w64 x))
  else s.emit (.regData 0)

/-! ### Writes -/

def halfMask : Half → Nat
  | .full => 2 ^ 64 - 1
  | .low => 2 ^ 32 - 1
  | .high => (2 ^ 32 - 1) * 2 ^ 32

/-- The value of a write as bits of the register. -/
def halfValue (h : Half) (v : Nat) : Nat :=
  match h with
  | .full => v
  | .low => v % 2 ^ 32
  | .high => v % 2 ^ 32 * 2 ^ 32

/-- The bits of a field that a write covers. -/
def FieldInfo.mask (f : FieldInfo) (m : Nat) : Nat := ((2 ^ (f.hi + 1 - f.lo) - 1) * 2 ^ f.lo) &&& m

/-- Table 00-5: one field under a write. -/
def FieldInfo.write (f : FieldInfo) (m val old : Nat) : Nat :=
  let k := f.mask m
  match f.acc with
  | .rw => old - (old &&& k) + (val &&& k)
  | .w1c => old - (old &&& (k &&& val))
  | .w1s => old ||| (k &&& val)
  | _ => old

def writeFields (r : Reg) (m val old : Nat) : Nat := (regInfo r).fields.foldl (fun o f => f.write m val o) old

def Reg.writable (r : Reg) : Bool :=
  (regInfo r).fields.any fun f => decide (f.acc = .rw) || decide (f.acc = .w1c) || decide (f.acc = .w1s)

/-- The registers whose reset value the configuration image gives (R475). -/
def fromImage (r : Reg) : Bool :=
  [Reg.LNK_G_ID, .TMB_CTL, .HBM_G_CTL, .LNK_CTL, .GST_CTL, .HBM_G_FRAME_MODE, .QUE_MGR_EVT].contains r

def State.noteWritten (s : State) (r : Reg) (i : Nat) : State :=
  if fromImage r && !(s.written.contains (regKey r i)) then { s with written := regKey r i :: s.written } else s

/-- The stored fields of a register under a write. -/
def State.storeReg (s : State) (r : Reg) (i m val : Nat) : State := s.setReg r i (writeFields r m val (s.reg r i))

/-- An index of a pointer register; one beyond TAIL is ignored. -/
def headMoves (head tail v : W32) : Bool := decide ((v - head).toNat ≤ (tail - head).toNat)

/-- The high half of a pointer register is written: its HEAD moves, unless the value lies beyond TAIL. -/
def State.writeHead (s : State) (f : Fld) (tail : W32) (m val : Nat) : State :=
  let v := w32 (val / 2 ^ 32)
  if bit m 32 && headMoves (w32 (s.fld f 0)) tail v then s.setFld f 0 v.toNat else s

/-! #### Staged registers (R306) -/

def stageKey : StageItem → Nat × Nat × Nat
  | .panel p _ _ => (0, p, 0)
  | .ctxClass c _ => (1, c, 0)
  | .arr t _ => (2, t, 0)
  | .dscr d w _ => (3, d, w)
  | .frameMode _ => (4, 0, 0)

/-- An item enters the stage in place of one of the same register; in a full stage it is ignored with STAGE_FULL set. -/
def State.stageReg (s : State) (x : StageItem) : State :=
  if s.stage.any fun y => decide (stageKey y = stageKey x) then
    { s with stage := s.stage.map fun y => if stageKey y = stageKey x then x else y }
  else if 256 ≤ s.stage.length then s.setFld .PNL_CFG_STATUS_STAGE_FULL 0 1
  else { s with stage := s.stage ++ [x] }

/-- The value that a staged register is to have: of its item in the stage, else of the committed settings. -/
def State.stagedValue (s : State) (r : Reg) (i : Nat) : Nat :=
  let hit := s.stage.findSome? fun x =>
    match r, x with
    | .ARR_CONFIG, .arr t v => if t = i then some v else none
    | .CD_DSCR_OWNER0, .dscr d 0 v => if d = i then some v else none
    | .CD_DSCR_OWNER1, .dscr d 1 v => if d = i then some v else none
    | .HBM_G_FRAME_MODE, .frameMode v => some v
    | _, _ => none
  hit.getD (s.regValue 0 r i 0)

/-- An owner byte that names no panel, 48 to 63, is not taken (Table 03-13). -/
def ownerBytes (old v : Nat) : Nat :=
  packFields ((List.range 8).map fun k =>
    let b := bits v (8 * k + 7) (8 * k)
    (8 * k, if bit b 7 ∧ 48 ≤ bits b 5 0 then bits old (8 * k + 7) (8 * k) else b &&& 0xBF))

def isStaged (r : Reg) : Bool := [Reg.ARR_CONFIG, .CD_DSCR_OWNER0, .CD_DSCR_OWNER1, .HBM_G_FRAME_MODE].contains r

def State.writeStaged (s : State) (r : Reg) (i m val : Nat) : State :=
  let old := s.stagedValue r i
  let v := writeFields r m val old
  match r with
  | .ARR_CONFIG => s.stageReg (.arr i v)
  | .CD_DSCR_OWNER0 => s.stageReg (.dscr i 0 (ownerBytes old v))
  | .CD_DSCR_OWNER1 => s.stageReg (.dscr i 1 (ownerBytes old v))
  | _ => s.stageReg (.frameMode v)

/-! #### Actions -/

def State.writeSwCtl (s : State) (h m val : Nat) : State :=
  let s := s.storeReg .HBM_SW_CTL h m val
  if bit (m &&& val) 1 then swDone s h else if bit (m &&& val) 0 then swStart s h else s

def State.writeHbmCtl (s : State) (m val : Nat) : State :=
  if bit (m &&& val) 0 ∧ ¬ s.testModeOk then
    (s.storeReg .HBM_G_CTL 0 m val).setFld .HBM_G_CTL_TEST_MODE 0 (s.fld .HBM_G_CTL_TEST_MODE 0)
  else s.storeReg .HBM_G_CTL 0 m val

def State.writeQueStatus (s : State) (f val : Nat) : State :=
  match s.selQueue f with
  | none => s
  | some (q, x) =>
    s.setQueue q { x with dbBad := x.dbBad && !(bit val 5), lost := x.lost && !(bit val 4), overflowed := x.overflowed && !(bit val 3) }

def State.writeOvfHead (s : State) (f m val : Nat) : State :=
  s.modFunc (s.selFn f .QUE_FN_SEL_FUNC) fun g =>
    if bit m 32 && headMoves g.ovfHead g.ovfTail (w32 (val / 2 ^ 32)) then { g with ovfHead := w32 (val / 2 ^ 32) } else g

def State.writeMbx (s : State) (f : Nat) (r : Reg) (m val : Nat) : State :=
  let t := s.selFn f .MGT_FN_SEL_FUNC
  let hi := w32 (val / 2 ^ 32)
  let lo := w32 val
  if r = .MGT_MBX_M2T then
    if f ≠ 0 then (if bit m 32 then s.m2tHead t hi else s) else if bit m 0 then s.m2tTail t lo else s
  else
    if f ≠ 0 then (if bit m 0 then s.t2mTail t lo else s) else if bit m 32 then s.t2mHead t hi else s

def State.writeAperture (s : State) (m val : Nat) : State :=
  let f := s.fld .MGT_FN_SEL_FUNC 0
  let v := writeFields .MGT_APERTURE m val (s.funcReg f .MGT_APERTURE)
  s.modFunc f fun g => { g with apEn := bit v 63, apCtx := bits v 59 48, apBase := bits v 47 16 * 65536 }

/-- `GST_CTL`: ENABLE = 0 isolates the site (R350); RETRAIN powers it and begins its training, whose outcome GUEST_RETRAIN brings. -/
def State.writeGstCtl (s : State) (g m val : Nat) : State :=
  let s := guestIsolate g false (s.storeReg .GST_CTL g m val)
  if bit (m &&& val) 1 ∧ s.sitePopulated g ∧ s.fld .GST_CTL_ENABLE g = 1 ∧ s.fld .GST_STATUS_STATE g = 5 then
    ((s.setDomain (100 + g) true).setFld .GST_STATUS_CAUSE g 0).setFld .GST_STATUS_STATE g 2
  else s

def State.writeLnkCtl (s : State) (l m val : Nat) : State :=
  let was := s.fld .LNK_CTL_ADMIN_UP l
  let s := s.storeReg .LNK_CTL l m val
  let s := if was = 1 ∧ s.fld .LNK_CTL_ADMIN_UP l = 0 then s.linkDown l 1
    else if was = 0 ∧ s.fld .LNK_CTL_ADMIN_UP l = 1 then s.modLink l fun x => { x with tryAt := s.time } else s
  if bit (m &&& val) 1 then linkRetrain l s else s

def State.writeRoute (s : State) (val : Nat) : State :=
  let t := s.fld .LNK_G_ROUTE_SEL_TABLE 0
  let i := s.fld .LNK_G_ROUTE_SEL_INDEX 0
  if t = 0 ∧ 127 < i then s else { s with routes := tput s.routes (256 * t + i) (val % 2 ^ 32) }

/-- What a write does to one register instance (R5, R6). `m`: the bits that the access covers; a half access performs an action as if
the other half's fields were zero. -/
def State.writeReg (s : State) (v : View) (r : Reg) (i m val : Nat) : State :=
  let f := viewFn v
  let act := val &&& m
  match r with
  | .HBM_REPAIR_CMD => s.repairCmd i (bits act 63 62) (bits act 47 42) (bits act 41 38) (bits act 37 22)
  | .HBM_REPAIR_LOG => s.repairLogHome i
  | .HBM_SW_CTL => s.writeSwCtl i m val
  | .HBM_G_CTL => s.writeHbmCtl m val
  | .HBM_KEY_CTL => s.keyOp (bits act 47 44) (bits act 55 48)
  | .QUE_SEL => s.storeReg .QUE_SEL f m val
  | .QUE_STATUS => s.writeQueStatus f act
  | .QUE_OVF_PTRS => s.writeOvfHead f m val
  | .LNK_CTL => s.writeLnkCtl i m val
  | .LNK_G_ID => if (List.range 32).any fun l => decide (s.fld .LNK_CTL_ADMIN_UP l = 1) then s else s.storeReg r i m val
  | .LNK_G_ROUTE => if bit m 0 then s.writeRoute val else s
  | .MGT_FN_STATUS => if bit act 5 then s.modFunc (s.selFn f .MGT_FN_SEL_FUNC) fun g => { g with mbxBad := false } else s
  | .MGT_MBX_M2T | .MGT_MBX_T2M => s.writeMbx f r m val
  | .MGT_APERTURE => s.writeAperture m val
  | .HUB_FLT_PTRS => s.writeHead .HUB_FLT_PTRS_HEAD s.fltTail m val
  | .HUB_RESET_CMD => s.resetByReg (decide (v = .sideband)) (w64 act)
  | .OBS_CTL =>
    if bit m 0 then
      let (n, s) := s.fresh
      counterFreeze (bit val 0) (Config.freeNat n) s
    else s
  | .OBS_PCTL => (s.settleP (i / 8) (i % 8)).storeReg r i m val
  | .OBS_SMP_PTRS => s.writeHead .OBS_SMP_PTRS_HEAD (w32 (s.fld .OBS_SMP_PTRS_TAIL 0)) m val
  | .OBS_CSMP_PTRS => s.writeHead .OBS_CSMP_PTRS_HEAD (w32 (s.fld .OBS_CSMP_PTRS_TAIL 0)) m val
  | .OBS_FN_CNT => s.storeReg r (16 * s.selFn f .OBS_FN_SEL_FUNC + i) m val
  | .TMB_EPOCH => { s.storeReg r i m val with timebase := { s.timebase with epochSet := true } }
  | .GST_CTL => s.writeGstCtl i m val
  | .DBG_CTL =>
    let s := s.storeReg r i m val
    if bit m 0 then lcHaltEnable (bit val 0) s else s
  | .DBG_HALT_CMD => s.haltCmd act
  | .DBG_REG_DATA => if bit m 0 then s.dbgRegWrite (w32 val) else s
  | .DBG_STEP_GO => dbgStepGo (bits act 5 0) s
  | .SRV_BIND_OFF => bindOff v (w64 act) s
  | _ => if isStaged r then s.writeStaged r i m val else if r.writable then s.storeReg r i m val else s

/-- The registers that a VF may write (R249, R400, R415). -/
def vfWrites (r : Reg) : Bool := [Reg.QUE_SEL, .QUE_STATUS, .QUE_OVF_PTRS, .MGT_FN_STATUS, .MGT_MBX_M2T, .MGT_MBX_T2M].contains r

/-- A write of what an offset reached. What is not there, a peek alias and what a VF may not write ignore it. -/
def State.writeHit (s : State) (v : View) (h : Half) (val : Nat) : Option (Reg × Nat × Bool) → State
  | some (r, i, false) =>
    let m := halfMask h % 2 ^ (regInfo r).width
    if viewFn v ≠ 0 ∧ vfWrites r = false ∨ m = 0 then s else (s.noteWritten r i).writeReg v r i m (halfValue h val)
  | _ => s

def State.writeAt (s : State) (v : View) (off : Nat) (h : Half) (val : Nat) : State :=
  if isMsix off && s.viewUp v then s.writeMsix (viewFn v) off (halfMask h) (halfValue h val) else s.writeHit v h val (s.regAt v off)

/-- A write at a PF0 offset, as a context makes it. -/
def State.writePf (s : State) (v : View) (off : Nat) (h : Half) (val : Nat) : State :=
  if isMsix off && s.viewUp v then s.writeMsix (viewFn v) off (halfMask h) (halfValue h val) else s.writeHit v h val (s.regAtPf v off)

/-- A PF0 write of one register instance, given by its number. -/
def State.hostWrite (s : State) (r : Reg) (i val : Nat) : State :=
  if s.answers .pf0 r i then (s.noteWritten r i).writeReg .pf0 r i (2 ^ 64 - 1) val else s

/-- A PF0 write of a stageable register. -/
def State.stagedAt (s : State) (off : Nat) (h : Half) (val : Nat) : State :=
  match s.regAt .pf0 off with
  | some (r, _, false) => if isStaged r then s.writeAt .pf0 off h val else s
  | _ => s

end Sys2Proof.Machine
end

