-- ==== Sys2Proof/Machine/Access.lean ====
section
/-! DEFINITION. Accesses at virtual addresses, sector by sector: local memory, the register space, and other packages, for commands
and for general cores. -/

namespace Sys2Proof.Machine

/-! ### The register space (R185, R5; log entry 37) -/

/-- The register view of an access: the manager's, or that of the context's function at PF0's offsets (R403). -/
def State.whoView (s : State) (w : Who) : View :=
  if w.mgr then .pf0 else .vf (((tget s.ctxs w.ctx).map fun c => c.func).getD 0)

/-- Bytes of the register space as aligned accesses: 8 bytes where all of them are named, else the halves. -/
def State.regsRead (s : State) (v : View) (off n : Nat) : State × List Byte :=
  let words := (List.range (n / 8 + 2)).map fun i => off / 8 * 8 + 8 * i
  words.foldl (fun (x : State × List Byte) w =>
    let lo := max off w
    let hi := min (off + n) (w + 8)
    if hi ≤ lo then x
    else
      if hi - lo = 8 then
        let (s, val) := x.1.readPf v w .full
        (s, x.2 ++ leBytes 8 val)
      else
        let (s, a) := if lo < w + 4 then x.1.readPf v w .low else (x.1, 0)
        let (s, b) := if w + 4 < hi then s.readPf v w .high else (s, 0)
        (s, x.2 ++ ((leBytes 4 a ++ leBytes 4 b).drop (lo - w)).take (hi - lo))) (s, [])

/-- Bytes written to the register space; a part of a half is not an access and is not performed. -/
def State.regsWrite (s : State) (v : View) (off : Nat) (b : List Byte) : State :=
  let n := b.length
  let words := (List.range (n / 8 + 2)).map fun i => off / 8 * 8 + 8 * i
  words.foldl (fun (s : State) w =>
    let at4 (o : Nat) : Nat := leNat ((b.drop (o - off)).take 4)
    let lowIn := decide (off ≤ w) && decide (w + 4 ≤ off + n)
    let highIn := decide (off ≤ w + 4) && decide (w + 8 ≤ off + n)
    if lowIn && highIn then s.writePf v w .full (at4 w + at4 (w + 4) * 2 ^ 32)
    else if lowIn then s.writePf v w .low (at4 w)
    else if highIn then s.writePf v w .high (at4 (w + 4))
    else s) s

/-! ### Local physical accesses -/

/-- Read within one sector of a local address that translation allowed. -/
def State.localRead (s : State) (w : Who) (key a n : Nat) : State × Got :=
  match region a with
  | .regs off =>
    let (s, b) := s.regsRead (s.whoView w) off n
    (s, .ok b false)
  | _ => s.pread ((s.keyOf key).getD 0) a n

/-- Write within one sector; the status is 0 when it is performed. A poisoned write leaves its HBM sector poisoned. -/
def State.localWrite (s : State) (w : Who) (key a : Nat) (b : List Byte) (poison : Bool) : State × Nat :=
  match region a with
  | .regs off => (s.regsWrite (s.whoView w) off b, 0)
  | r =>
    match s.pwrite ((s.keyOf key).getD 0) a b with
    | (s, st) => (if poison ∧ r = .hbm ∧ st = 0 then { s with mem := s.mem.poison ((s.keyOf key).getD 0) a } else s, st)

/-! ### Reads of commands -/

/-- What a read of some bytes came to: the bytes, whether a sector was poisoned, the first fault, and whether data of another package
has yet to arrive. -/
structure Rd where
  bytes : List Byte
  poison : Bool
  fault : Option XFault
  wait : Bool
  deriving DecidableEq, Repr

def Rd.empty : Rd := ⟨[], false, none, false⟩

/-- Data of another package that a command may use: what has arrived for it, or a lease copy (R176), which no DEVICE leaf reads (R202). -/
def State.landedBytes (s : State) (id ctx ga n : Nat) (device : Bool) : Option (List Byte × Bool) :=
  let sec := ga / 32 * 32
  match (s.cmd id).bind (fun c => c.landed.find? fun e => decide (e.1 = sec)) with
  | some e => some ((e.2.1.drop (ga - sec)).take n, e.2.2)
  | none =>
    if device then none
    else (s.leaseHit (s.waiterQuad (.cmd id)) ctx (ga / 128)).map fun x =>
      ((x.bytes.drop (ga % 128)).take n, x.poison.testBit (ga % 128 / 32))

/-- One sector, or part, read for a command. Other packages' data is requested and waited for. -/
def State.cmdRead1 (s : State) (id : Nat) (iss : Issuer) (va n : Nat) (acc : Rd) : State × Rd :=
  match s.xlate iss .read va with
  | (s, .error f) => (s, { acc with fault := some (acc.fault.getD f) })
  | (s, .ok x) =>
    if s.isLocal x.pa then
      match s.localRead iss.who x.key (x.pa % 2 ^ 48) n with
      | (s, .ok b p) => (s, { acc with bytes := acc.bytes ++ b, poison := acc.poison || p })
      | (s, .fault _) => (s, { acc with fault := some (acc.fault.getD ⟨5, 2, 0, va⟩) })
    else
      match s.landedBytes id iss.who.ctx x.pa n x.device with
      | some (b, p) => (s, { acc with bytes := acc.bytes ++ b, poison := acc.poison || p })
      | none =>
        let func := ((s.cmd id).map fun c => c.func).getD 0
        (s.remoteRead iss.who.ctx func x.pa x.key x.device (.cmd id), { acc with bytes := acc.bytes ++ zeros n, wait := true })

/-- Read [va, va + n) for a command. -/
def State.cmdRead (s : State) (id : Nat) (iss : Issuer) (va n : Nat) : State × Rd :=
  (chunks va n).foldl (fun (x : State × Rd) c => x.1.cmdRead1 id iss c.1 c.2 x.2) (s, Rd.empty)

/-! ### Writes of commands -/

/-- The first fault that accesses to [va, va + n) would meet. -/
def State.probe (s : State) (iss : Issuer) (need : Need) (va n : Nat) : State × Option XFault :=
  (chunks va n).foldl (fun (x : State × Option XFault) (c : Nat × Nat) =>
    match x.2 with
    | some _ => x
    | none =>
      match x.1.xlate iss need c.1 with
      | (s, .ok _) => (s, none)
      | (s, .error f) => (s, some f)) (s, none)

/-- One sector, or part, written for a command, under a STREAM where it leaves the package; a status other than 0 that the write met
is added to the one so far. -/
def State.cmdWrite1 (s : State) (id : Nat) (iss : Issuer) (stream va : Nat) (b : List Byte) (poison : Bool) (st : Nat) : State × Nat :=
  match s.xlate iss .write va with
  | (s, .error f) => (s, worse st (causeStatus f.cause))
  | (s, .ok x) =>
    if s.isLocal x.pa then
      match s.localWrite iss.who x.key (x.pa % 2 ^ 48) b poison with
      | (s, e) => (s, if e = 0 then st else worse st e)
    else
      let func := ((s.cmd id).map fun c => c.func).getD 0
      (s.remoteWrite iss.who.ctx func x.pa x.key stream b poison (.cmdWrite id va), st)

/-- Write bytes at [va, va + n) for a command. -/
def State.cmdWrite (s : State) (id : Nat) (iss : Issuer) (stream va : Nat) (b : List Byte) : State × Nat :=
  (chunks va b.length).foldl (fun (x : State × Nat) (c : Nat × Nat) =>
    x.1.cmdWrite1 id iss stream c.1 ((b.drop (c.1 - va)).take c.2) false x.2) (s, 0)

/-- The physical addresses of the sectors of [va, va + n), as far as they translate. -/
def State.physOf (s : State) (iss : Issuer) (need : Need) (va n : Nat) : List (Nat × Nat) :=
  (chunks va n).filterMap fun c =>
    match (s.xlate iss need c.1).2 with
    | .ok x => some (x.pa, c.2)
    | .error _ => none

def overlapping (a b : List (Nat × Nat)) : Bool :=
  a.any fun x => b.any fun y => decide (x.1 < y.1 + y.2) && decide (y.1 < x.1 + x.2)

/-- A lost access of the command has already decided it. -/
def Cmd.lost (c : Cmd) : Bool := decide (0x200 ≤ c.status)

end Sys2Proof.Machine
end

