-- ==== Sys2Proof/Machine/Cores.lean ====
section
/-! DEFINITION. General cores (03): which instruction may issue, a thread's registers, how a group's paths follow one another
(R87), and faults (R96, R97, R112). -/

namespace Sys2Proof.Machine

/-! ### Issue (R81, R82, R87) -/

/-- An instruction that issues: its core and group, the path that issues it and the group's other paths, the active lanes, the command
and launch it runs for, and the address of the instruction after it. -/
structure Iss where
  k : Nat
  g : Group
  p : Path
  rest : List Path
  lanes : Nat
  c : Cmd
  l : Launch
  npc : W64
  deriving DecidableEq, Repr

def laneList (m : Nat) : List Nat := maskBits m 32

def Path.waiting (p : Path) : Bool := decide (p.wait ≠ .none)

/-- The paths from the first that does not wait, in their order. -/
def turnPaths (l : List Path) : List Path := l.dropWhile Path.waiting ++ l.takeWhile Path.waiting

/-- A tile whose unit is to stop lets no instruction of it issue: each group stops at its next instruction (R297). -/
def State.tileStops (s : State) (k : Nat) : Bool := (s.tile (coreTile k)).pre.isSome

/-- The registers of each thread of a launch (R85): REGS, 0 meaning 256. -/
def regsOf (r : List Byte) : Nat := if leAt r 38 1 = 0 then 256 else leAt r 38 1

/-- The instruction may issue now. -/
def State.issuing (s : State) (i : Issue) : Option Iss :=
  let k := 32 * i.die + i.core
  match s.findGroup k i.group, (s.coreOf k).launch with
  | some g, some id =>
    match s.cmd id, tget s.launches id, turnPaths g.paths with
    | some c, some l, p :: rest =>
      if l.stopped ∨ g.parked.isSome ∨ p.waiting = true ∨ s.tileStops k = true ∨ (s.groupHalted k g ∧ ¬ g.step) then none
      else some ⟨k, g, p, rest, (p.only.getD p.lanes) &&& p.lanes, c, l, i.npc⟩
    | _, _, _ => none
  | _, _ => none

/-- Who a launch's accesses are made for, and how they translate (06.8, Table 06-11). -/
def Iss.issuer (x : Iss) : Issuer := ⟨x.k, x.c.who, 0, 0⟩

/-- The waiter of an access of a lane to another package. -/
def Iss.waiter (x : Iss) (lane rd size instr : Nat) : Waiter := .lane (x.k / 32) (x.k % 32) x.g.num lane rd size instr

/-- The thread number within its block. -/
def Group.thread (g : Group) (lane : Nat) : Nat := 32 * g.inBlock + lane

/-! ### Registers (03.2, R110)

Registers 256 to 259 are the fixed ones that every thread receives: block, thread, die and core; from 260 on, the words of the argument
block, which is held read-only. The numbers are the model's (log entry 40). -/

def Iss.reg (x : Iss) (lane r : Nat) : Nat :=
  if r < 256 then (tgetD x.g.regs (256 * lane + r) 0).toNat
  else if r = 256 then x.g.block
  else if r = 257 then x.g.thread lane
  else if r = 258 then x.k / 32
  else if r = 259 then x.k % 32
  else leAt x.l.args (4 * (r - 260)) 4

/-- A value of `size` bytes in consecutive registers. -/
def Iss.regN (x : Iss) (lane r size : Nat) : Nat :=
  (List.range (sizeRegs size)).foldl (fun n j => n + x.reg lane (r + j) * 2 ^ (32 * j)) 0 % 2 ^ (8 * size)

def Iss.src (x : Iss) (lane : Nat) : Src → Nat
  | .reg r => x.reg lane r
  | .imm v => v.toNat

/-- A 64-bit operand: a register pair, or an immediate with zeros above it. -/
def Iss.src64 (x : Iss) (lane : Nat) : Src → Nat
  | .reg r => x.regN lane r 8
  | .imm v => v.toNat

/-- The registers that an operand names. -/
def srcRegs (n : Nat) : Src → List Nat
  | .reg r => (List.range n).map fun j => r + j
  | .imm _ => []

def regRun (r n : Nat) : List Nat := (List.range n).map fun j => r + j

/-- Registers that a thread of the launch has: its REGS for a destination, the fixed ones as well for a source. -/
def Iss.legal (x : Iss) (src dst : List Nat) : Bool :=
  (dst.all fun r => decide (r < regsOf x.c.raw)) && src.all fun r => decide (r < regsOf x.c.raw) || decide (256 ≤ r)

/-- An active lane has yet to receive one of the registers (R104). -/
def Iss.awaits (x : Iss) (rs : List Nat) : Bool := x.g.pend.any fun p => bit x.lanes p.lane && rs.contains p.reg

def setLaneReg (t : Tab W32) (lane r v : Nat) : Tab W32 := tput t (256 * lane + r) (w32 v)

/-- Write one register of every active lane. -/
def Group.setLanes (g : Group) (lanes r : Nat) (f : Nat → Nat) : Group :=
  { g with regs := (laneList lanes).foldl (fun t i => setLaneReg t i r (f i)) g.regs }

/-! ### Paths (R87) -/

/-- The path goes on at an address. -/
def Path.goto (p : Path) (pc : W64) : Path := { p with pc := pc, only := none, issued := p.issued + 1 }

/-- Reconvergence markers that the path has reached are behind it. -/
def Path.pop (p : Path) : Path := { p with markers := p.markers.dropWhile fun m => decide (m = p.pc) }

/-- A path that meets its reconvergence marker joins the path that stands there with the same markers to reach, if there is one, and
else lets the others run; after 32 instructions, or when it waits, the next path is served. -/
def settlePaths (p : Path) (rest : List Path) : List Path :=
  let y : Path := { p.pop with issued := 0 }
  if p.waiting then rest ++ [y]
  else if p.pop.markers ≠ p.markers then
    match rest.find? fun q => decide (q.pc = y.pc) && decide (q.markers = y.markers) && !q.waiting && q.only.isNone with
    | some q => { p.pop with lanes := p.lanes ||| q.lanes } :: rest.erase q
    | none => rest ++ [y]
  else if 32 ≤ p.issued then rest ++ [y]
  else p :: rest

/-- A stalled path lets the next one run. -/
def State.pathStall (s : State) (x : Iss) : State :=
  if x.rest = [] then s else s.modGroup x.k x.g.num fun g => { g with paths := x.rest ++ [{ x.p with issued := 0 }] }

/-- The instruction has issued: the counters of progress, and the reservations' instruction counts. -/
def State.countIssue (s : State) (x : Iss) : State :=
  let s := s.setReg .GC_ISSUED x.k ((s.reg .GC_ISSUED x.k + 1) % 2 ^ 64)
  let a : Option Attr := some ⟨x.c.ctx, x.c.panel, hLayer x.c.raw, hOperator x.c.raw⟩
  let s := (s.bump (unitCore (x.k / 32) (x.k % 32)) 0 1 a).bump (unitCore (x.k / 32) (x.k % 32)) 1 (laneList x.lanes).length a
  { s with
    launches := tmod s.launches x.c.id fun l => { l with issued := l.issued + 1 },
    resvs := s.resvs.map fun (r : Resv) =>
      if r.core = x.k ∧ r.group = x.g.num ∧ bit x.lanes r.lane = true then { r with issued := r.issued + 1 } else r }

/-- It has issued, and the group is as it now is. -/
def State.retire (s : State) (x : Iss) (g : Group → Group) : State :=
  (s.countIssue x).modGroup x.k x.g.num fun y => { g y with step := false }

/-- It issued, and its path goes on in sequence. -/
def State.next (s : State) (x : Iss) (g : Group → Group) : State :=
  s.retire x fun y => { g y with paths := settlePaths (x.p.goto x.npc) x.rest }

/-! ### Faults (R96, R97, R112) -/

/-- What a fault record says that differs from fault to fault (Table 03-4). -/
structure CoreFault where
  status : Nat
  lane : Nat
  kind : Nat
  bypass : Bool
  remain : Nat
  va : Nat
  pc : W64
  active : Nat
  rdv : Nat
  meet : Bool
  cause : Nat
  deriving DecidableEq, Repr

/-- Table 03-4. -/
def faultRecord (k : Nat) (g : Group) (f : CoreFault) (count : Nat) (time : W64) : List Byte :=
  leBytes 2 f.status ++ leBytes 1 f.lane ++ leBytes 1 (f.kind + 16 * b2n f.bypass) ++ leBytes 4 f.remain ++ leBytes 8 f.va ++
    leBytes 8 f.pc.toNat ++ leBytes 4 g.block ++ leBytes 1 g.inBlock ++ leBytes 1 (k % 32) ++ leBytes 1 (k / 32) ++ leBytes 1 count ++
    leBytes 8 time.toNat ++ leBytes 4 f.active ++ leBytes 2 f.rdv ++ leBytes 1 (b2n f.meet) ++ leBytes 1 f.cause ++ zeros 16

/-- Write bytes for a core's launch, as far as they translate. -/
def State.coreWrite (s : State) (k : Nat) (c : Cmd) (va : Nat) (b : List Byte) : State :=
  (s.cmdWrite c.id ⟨k, c.who, 0, 0⟩ 0 va b).1

/-- The fault registers of a core (R118). -/
def State.faultRegs (s : State) (k : Nat) (f : CoreFault) : State :=
  let s := s.setReg .GC_FAULT_INFO k (f.status * 2 ^ 48 + f.lane * 2 ^ 40 + f.kind * 2 ^ 36 + f.remain)
  let s := (s.setReg .GC_FAULT_VADDR k f.va).setReg .GC_FAULT_PC k f.pc.toNat
  let s := s.setFld .GC_STATUS_FAULTED k 1
  if f.status = 0x0304 then s.setFld .GC_STATUS_MISMATCH k 1 else s

/-- R112, FAULT_MODE 0: no further block starts and every group stops; the launch ends with this status unless it has one of a fault. -/
def State.stopLaunch (s : State) (id st : Nat) : State :=
  { s with launches := tmod s.launches id fun l =>
      { l with stopped := true, status := if l.stopped then l.status else if 0x0400 ≤ st ∧ 0x0300 ≤ l.status then l.status else st } }

/-- FAULT_MODE = 1. -/
def parks (r : List Byte) : Bool := bit (leAt r 39 1) 0

/-- A fault of a thread of group `g` of core `k`. A further fault of a launch that stops is only counted. -/
def State.coreFault (s : State) (k : Nat) (g : Group) (c : Cmd) (l : Launch) (f : CoreFault) (late : Bool) : State :=
  let addr := leAt c.raw 56 8
  let s := s.faultRegs k f
  let s := s.logFault 0x01 f.kind f.status (0x1100 + k) (some c.ctx) (hTag c.raw) f.va
  let s := { s with launches := tmod s.launches c.id fun l =>
    { l with first := if l.first = 0 then f.status else l.first, faults := if l.stopped then sat 8 (l.faults + 1) else 0 } }
  if l.stopped then
    if addr = 0 then s else s.coreWrite k c (addr + 31) (leBytes 1 (sat 8 (l.faults + 1)))
  else
    let s := if addr = 0 then s else s.coreWrite k c addr (faultRecord k g f 0 s.time)
    if parks c.raw ∧ f.status ≠ 0x0304 then
      (s.modGroup k g.num fun y => { y with parked := some ⟨f.remain, s.time, f.status, late⟩ }).postCtx c.ctx 0x0004 (hTag c.raw)
    else s.stopLaunch c.id f.status

/-- The lowest active lane. -/
def lowLane (m : Nat) : Nat := (laneList m).headD 0

/-- Active lanes f and above. -/
def lanesFrom (m f : Nat) : Nat := m / 2 ^ f * 2 ^ f

/-- A fault of the instruction that issues, at lane `f`, of the lane's own status: 0x0303 when a lane below took effect (R96). -/
def State.laneFault (s : State) (x : Iss) (f st kind : Nat) (bypass : Bool) (va : Nat) : State :=
  let part := decide (lanesFrom x.lanes f ≠ x.lanes)
  (s.retire x fun g => { g with paths := x.p :: x.rest }).coreFault x.k x.g x.c x.l ⟨if part then 0x0303 else st, f, kind, bypass, lanesFrom x.lanes f, va, x.p.pc, x.lanes, 0, false,
    if part then st % 256 else 0⟩ false

/-- One instruction: it issues for the active lanes once its registers hold their values (R82) and its code may be fetched; a fetch that
does not translate faults (log entry 41). -/
def State.issue (s : State) (i : Issue) (src dst : List Nat) (body : State → Iss → State) : State :=
  match s.issuing i with
  | none => s
  | some x =>
    if !(x.legal src dst) then s
    else if x.awaits (src ++ dst) then s.pathStall x
    else
      match s.xlate x.issuer .exec x.p.pc.toNat with
      | (s', .error f) =>
        let (u, s') := s'.fresh
        s'.laneFault x (lowLane x.lanes) 0x0301 (Config.freeNat u % 16) false f.va
      | (s', .ok _) => body s' x

end Sys2Proof.Machine
end

