-- ==== Sys2Proof/Machine/CoreArith.lean ====
section
/-! DEFINITION. The general cores' arithmetic and conversion instructions (03.1). -/

namespace Sys2Proof.Machine

/-- How many operands an operation reads. -/
def aluArity : AluOp → Nat
  | .frcp | .fsqrt | .frsqrt | .fexp2 | .flog2 | .fsin | .fcos | .inot => 1
  | .ffma | .hfmaBF16 | .hfmaFP16 | .dfma => 3
  | _ => 2

/-- The registers that an operation reads. -/
def aluSrcs (op : AluOp) (a b c : Src) : List Nat :=
  let n := if isF64 op then 2 else 1
  (([a, b, c].take (aluArity op)).map fun x => srcRegs n x).flatten

/-- ALU_OP: the results of the active lanes. -/
def aluGroup (x : Iss) (op : AluOp) (rd : Nat) (a b c : Src) (g : Group) : Group :=
  if isF64 op then
    let v (i : Nat) : Nat := alu64 op (x.src64 i a) (x.src64 i b) (x.src64 i c)
    (g.setLanes x.lanes rd v).setLanes x.lanes (rd + 1) fun i => v i / 2 ^ 32
  else g.setLanes x.lanes rd fun i => alu32 op (x.src i a) (x.src i b) (x.src i c)

def aluOp (i : Issue) (op : AluOp) (rd : Nat) (a b c : Src) (s : State) : State :=
  s.issue i (aluSrcs op a b c) (regRun rd (if isF64 op then 2 else 1)) fun s x => s.next x (aluGroup x op rd a b c)

/-- Random bits of a stochastic conversion (R64, R84). -/
def State.convRandom (s : State) (x : Iss) (stoch : Bool) (index tensor : Src) (lane : Nat) : Option Nat :=
  if stoch then
    some (roundBits (((tget s.ctxs x.c.ctx).map fun c => c.kctx.toNat).getD x.c.ctx) (x.src lane tensor) (x.src lane index))
  else none

/-- CONVERT: the results by lane. `free`: the number of the first free value. -/
def State.convLanes (s : State) (x : Iss) (from_ dest : Nat) (sat stoch : Bool) (a index tensor : Src) : Nat → Nat :=
  let r := s.convRandom x stoch index tensor
  let v (i : Nat) : Nat := if bit x.lanes i then convFrom from_ i (x.src i a) else 0
  if isBlock dest then
    let l := convBlock dest sat ((List.range 32).map r) s.free ((List.range 32).map v)
    fun i => l.getD i 0
  else fun i => if convSame from_ dest then x.src i a % 2 ^ elemBits dest else convPlain dest sat (r i) (v i)

def convert (i : Issue) (from_ dest : Nat) (sat stoch : Bool) (rd : Nat) (a index tensor : Src) (s : State) : State :=
  let extra := if stoch then srcRegs 1 index ++ srcRegs 1 tensor else []
  if 15 ≤ from_ ∨ 15 ≤ dest then s
  else
    s.issue i (srcRegs 1 a ++ extra) [rd] fun s x =>
      let f := s.convLanes x from_ dest sat stoch a index tensor
      ({ s with free := s.free + 64 }).next x fun g => g.setLanes x.lanes rd f

end Sys2Proof.Machine
end

