-- ==== Sys2Proof/Machine/CoreFlow.lean ====
section
/-! DEFINITION. Branches, lane exchanges, tallies, MEET, rendezvous points and exits (03.3, 03.4). -/

namespace Sys2Proof.Machine

/-! ### BRANCH -/

/-- The paths after a branch that the lanes of `taken` take: a divergent one gives both sides the reconvergence marker, and the lanes that
do not take it go on. -/
def branchPaths (x : Iss) (taken : Nat) (target marker : W64) : List Path :=
  if taken = x.lanes then settlePaths (x.p.goto target) x.rest
  else if taken = 0 then settlePaths (x.p.goto x.npc) x.rest
  else
    let p : Path := { x.p with markers := marker :: x.p.markers }
    let far : Path := { p with lanes := taken, pc := target, issued := 0, only := none }
    settlePaths ({ p with lanes := x.lanes &&& (taken ^^^ x.lanes) }.goto x.npc) (x.rest ++ [far.pop])

def branch (i : Issue) (cond : Nat) (target marker : W64) (s : State) : State :=
  s.issue i [cond] [] fun s x =>
    let taken := maskOf ((laneList x.lanes).filter fun j => decide (x.reg j cond ≠ 0))
    s.retire x fun g => { g with paths := branchPaths x taken target marker }

/-! ### Exchanges and tallies (Table 03-3) -/

def segStart (w i : Nat) : Nat := i / w * w

/-- The value that lane `i` reads of lane `j`: its own where that lane takes no part. -/
def xchValue (x : Iss) (v i j : Nat) : Nat := if bit x.lanes j then x.reg j v else x.reg i v

def exchange (i : Issue) (srcs : List Nat) (rd v : Nat) (lane : Iss → Nat → Nat) (s : State) : State :=
  s.issue i srcs [rd] fun s x => s.next x fun g => g.setLanes x.lanes rd fun j => xchValue x v j (lane x j)

def xchPick (i : Issue) (w rd v r : Nat) (s : State) : State :=
  exchange i [v, r] rd v (fun x j => segStart w j + x.reg j r % w) s

def xchRot (i : Issue) (w rd v d : Nat) (s : State) : State :=
  exchange i [v] rd v (fun _ j => segStart w j + (j % w + d) % w) s

def xchSwap (i : Issue) (w rd v m : Nat) (s : State) : State :=
  if m < w then exchange i [v] rd v (fun _ j => j ^^^ m) s else s

def xchRev (i : Issue) (w rd v : Nat) (s : State) : State :=
  exchange i [v] rd v (fun _ j => segStart w j + w - 1 - j % w) s

/-- The participants of lane i's segment for which p is true. -/
def tallied (x : Iss) (w p i : Nat) : List Nat :=
  (laneList x.lanes).filter fun j => decide (segStart w j = segStart w i) && decide (x.reg j p ≠ 0)

/-- The participants of lane i's segment. -/
def segLanes (x : Iss) (w i : Nat) : List Nat := (laneList x.lanes).filter fun j => decide (segStart w j = segStart w i)

def tally (i : Issue) (rd p : Nat) (f : Iss → Nat → Nat) (s : State) : State :=
  s.issue i [p] [rd] fun s x => s.next x fun g => g.setLanes x.lanes rd (f x)

def tallyAny (i : Issue) (w rd p : Nat) (s : State) : State :=
  tally i rd p (fun x j => b2n (!(tallied x w p j).isEmpty)) s

def tallyAll (i : Issue) (w rd p : Nat) (s : State) : State :=
  tally i rd p (fun x j => b2n (decide ((tallied x w p j).length = (segLanes x w j).length))) s

def tallyMask (i : Issue) (w rd p : Nat) (s : State) : State :=
  tally i rd p (fun x j => maskOf (tallied x w p j)) s

def tallyCount (i : Issue) (w rd p : Nat) (s : State) : State :=
  tally i rd p (fun x j => (tallied x w p j).length) s

def tallyBelow (i : Issue) (w rd p : Nat) (s : State) : State :=
  tally i rd p (fun x j => ((tallied x w p j).filter fun n => decide (n < j)).length) s

def tallyLead (i : Issue) (w rd p : Nat) (s : State) : State :=
  tally i rd p (fun x j => (tallied x w p j).headD 0xFF) s

/-! ### MEET (R91) -/

/-- The lanes of the segments whose live lanes all wait at a MEET. -/
def Group.met (g : Group) (w : Nat) (pc : W64) : Nat :=
  let here := g.paths.foldl (fun m p => if p.wait = .meet w pc then m ||| p.lanes else m) 0
  (List.range (32 / w)).foldl (fun m j =>
    let seg := (2 ^ w - 1) * 2 ^ (w * j) &&& g.live
    if seg &&& here = seg then m ||| seg else m) 0

def commonSuffix (a b : List W64) : List W64 :=
  ((a.reverse.zip b.reverse).takeWhile fun x => decide (x.1 = x.2)).map (fun x => x.1) |>.reverse

/-- Lanes that have met leave their paths and go on together on one. -/
def Group.goOn (g : Group) (w : Nat) (pc : W64) : Group :=
  let m := g.met w pc
  let from_ := g.paths.filter fun p => decide (p.wait = .meet w pc) && decide (p.lanes &&& m ≠ 0)
  match from_ with
  | [] => g
  | p :: l =>
    let joined : Path :=
      { p with lanes := m, markers := l.foldl (fun k q => commonSuffix k q.markers) p.markers, issued := 0, wait := .none, only := none }
    let left := (g.paths.map fun q => { q with lanes := q.lanes &&& (m ^^^ (2 ^ 32 - 1)) }).filter fun q => decide (q.lanes ≠ 0)
    { g with paths := left ++ [joined.pop] }

/-- Every MEET that is met. -/
def Group.meets (g : Group) : Group :=
  g.paths.foldl (fun g p => match p.wait with
    | .meet w pc => g.goOn w pc
    | _ => g) g

/-! ### Rendezvous points (R92, R93) -/

def Core.blockGroups (c : Core) (b : Nat) : List Group := c.groups.filter fun g => decide (g.block = b)

/-- The block's live threads. -/
def Core.liveThreads (c : Core) (b : Nat) : List Nat :=
  (c.blockGroups b).flatMap fun g => (laneList g.live).map g.thread

def Core.modBlk (c : Core) (b : Nat) (f : Blk → Blk) : Core :=
  { c with blocks := c.blocks.map fun x => if x.idx = b then f x else x }

def arrivalsAt (x : Blk) (r thread : Nat) : Nat := tgetD x.arrivals (1024 * r + thread) 0

/-- How many rendezvous of point r every live thread has arrived at. -/
def Blk.reached (x : Blk) (r : Nat) (live : List Nat) : Nat :=
  match live with
  | [] => x.released.getD r 0
  | t :: l => max (x.released.getD r 0) (l.foldl (fun m t => min m (arrivalsAt x r t)) (arrivalsAt x r t))

/-- Rendezvous that every live thread has arrived at release. -/
def Core.rendezvous (c : Core) (b : Nat) : Core :=
  match c.blocks.find? fun x => decide (x.idx = b) with
  | none => c
  | some x =>
    let done := (List.range 8).map fun r => x.reached r (c.liveThreads b)
    { c.modBlk b (fun x => { x with released := done }) with
      groups := c.groups.map fun g =>
        if g.block = b then
          { g with paths := g.paths.map fun p => match p.wait with
            | .rdv r n => if n ≤ done.getD r 0 then { p with wait := .none } else p
            | _ => p }
        else g }

/-- Every live thread of the block waits, none is parked, and some wait. -/
def Core.stuck (c : Core) (b : Nat) : Bool :=
  decide (c.liveThreads b ≠ []) && (c.blockGroups b).all fun g => g.parked.isNone && g.paths.all Path.waiting

/-- R93: the points at which a thread of the block waits, and whether a lane waits at a MEET. -/
def Core.waitedOn (c : Core) (b : Nat) : Nat × Bool :=
  let l := (c.blockGroups b).flatMap fun g => g.paths.map fun p => p.wait
  (maskOf (l.filterMap fun w => match w with
    | .rdv r _ => some r
    | _ => none), l.any fun w => match w with
    | .meet _ _ => true
    | _ => false)

/-- A block whose every thread has exited leaves its core. -/
def State.endBlock (s : State) (k b id : Nat) : State :=
  let c := s.coreOf k
  if c.liveThreads b = [] then
    let gone := (c.blockGroups b).map fun g => g.num
    let s := s.setCore k { c with
      groups := c.groups.filter fun g => !(decide (g.block = b)), blocks := c.blocks.filter (fun x => !(decide (x.idx = b))),
      loads := c.loads.filter fun l => !(gone.contains l.group) }
    { s with
      launches := tmod s.launches id fun l => { l with done := l.done + 1 },
      resvs := s.resvs.filter fun r => !(decide (r.core = k) && gone.contains r.group) }
  else s

/-- After a thread has come to wait or has exited: what can release does, and a block that waits for ever faults. -/
def State.settleBlock (s : State) (x : Iss) : State :=
  let s := (s.modGroup x.k x.g.num Group.meets).modCore x.k fun c => c.rendezvous x.g.block
  let c := s.coreOf x.k
  if c.stuck x.g.block then
    let (rdv, meet) := c.waitedOn x.g.block
    s.coreFault x.k x.g x.c x.l ⟨0x0304, 0xFF, 6, false, 0, 0, x.p.pc, x.lanes, rdv, meet, 0⟩ false
  else s

def meet (i : Issue) (w : Nat) (s : State) : State :=
  s.issue i [] [] fun s x =>
    (s.retire x fun g => { g with paths := settlePaths { x.p.goto x.npc with wait := .meet w x.p.pc } x.rest }).settleBlock x

/-- Record the arrival of every active lane at a point. -/
def State.arriveAt (s : State) (x : Iss) (r : Nat) : State :=
  s.modCore x.k fun c => c.modBlk x.g.block fun b =>
    { b with arrivals := (laneList x.lanes).foldl (fun t j => tupd t (1024 * r + x.g.thread j) 0 (· + 1)) b.arrivals }

/-- The rendezvous that a lane waits for: the number of its own arrivals. -/
def State.arrivals (s : State) (x : Iss) (r lane : Nat) : Nat :=
  match (s.coreOf x.k).blocks.find? fun b => decide (b.idx = x.g.block) with
  | some b => arrivalsAt b r (x.g.thread lane)
  | none => 0

/-- RDV.WAIT: lanes that wait for different rendezvous of the point wait apart. -/
def rdvWait (i : Issue) (r : Nat) (s : State) : State :=
  if 8 ≤ r then s
  else
    s.issue i [] [] fun s x =>
      let s := s.arriveAt x r
      let n := s.arrivals x r
      let waits := ((laneList x.lanes).map n).eraseDups.map fun k : Nat =>
        { x.p.goto x.npc with
          lanes := maskOf ((laneList x.lanes).filter fun j => decide (n j = k)), wait := .rdv r k, issued := 0 }
      (s.retire x fun g => { g with paths := x.rest ++ waits.map Path.pop }).settleBlock x

/-- RDV.SIGNAL. -/
def rdvSignal (i : Issue) (r : Nat) (s : State) : State :=
  if 8 ≤ r then s else s.issue i [] [] fun s x => ((s.arriveAt x r).next x id).settleBlock x

/-- THREAD_EXIT. -/
def threadExit (i : Issue) (s : State) : State :=
  s.issue i [] [] fun s x =>
    let s := s.retire x fun g => { g with live := g.live &&& (x.lanes ^^^ (2 ^ 32 - 1)), paths := x.rest }
    (s.settleBlock x).endBlock x.k x.g.block x.c.id

end Sys2Proof.Machine
end

