-- ==== Sys2Proof/Machine/Move.lean ====
section
/-! DEFINITION. Memory movement by the DMA engines (06.9, 07.8): COPY, GATHER, SCATTER, FILL and REDUCE, their checks, and the
pieces that they share. -/

namespace Sys2Proof.Machine

/-! ### Pieces -/

def hStream (r : List Byte) : Nat := leAt r 40 2

/-- The engine number of a die's DMA engines in the tags of their reductions (R182). -/
def dmaEng (die : Nat) : Nat := 0x100 + die

def State.noteVa (s : State) (id va : Nat) : State := s.modCmd id fun c => { c with vaddr := w64 va }

/-- Some of [va, va + n) lies in another package. -/
def State.farRange (s : State) (iss : Issuer) (need : Need) (va n : Nat) : Bool :=
  (s.physOf iss need va n).any fun x => !(s.isLocal x.1)

/-- Ask other packages for what [va, va + n) holds of theirs; whether some of it has yet to arrive. -/
def State.await (s : State) (id : Nat) (iss : Issuer) (va n : Nat) : State × Bool :=
  (chunks va n).foldl (fun (x : State × Bool) (p : Nat × Nat) =>
    match (x.1.xlate iss .read p.1).2 with
    | .error _ => x
    | .ok l =>
      if x.1.isLocal l.pa ∨ (x.1.landedBytes id iss.who.ctx l.pa p.2 l.device).isSome then x
      else (x.1.remoteRead iss.who.ctx (((x.1.cmd id).map fun c => c.func).getD 0) l.pa l.key l.device (.cmd id), true)) (s, false)

def State.awaitAll (s : State) (id : Nat) (iss : Issuer) (l : List (Nat × Nat)) : State × Bool :=
  l.foldl (fun (x : State × Bool) p =>
    let (s, w) := x.1.await id iss p.1 p.2
    (s, x.2 || w)) (s, false)

/-- Read [va, va + n) for a command: its bytes, the status that ends it, or none while other packages' data has yet to arrive. -/
def State.readWhole (s : State) (c : Cmd) (iss : Issuer) (va n : Nat) : State × Option (Except Nat (List Byte)) :=
  match s.await c.id iss va n with
  | (s, true) => (s, none)
  | (s, false) =>
    match s.cmdRead c.id iss va n with
    | (s, d) =>
      match d.fault with
      | some f => (s.noteVa c.id f.va, some (.error (causeStatus f.cause)))
      | none => if d.poison then (s.noteVa c.id va, some (.error 0x0302)) else (s, some (.ok d.bytes))

/-- A transfer cut at the destination's sectors: destination, source, bytes. -/
def piecesOf (dst src n : Nat) : List (Nat × Nat × Nat) :=
  (chunks dst n).map fun c => (c.1, src + (c.1 - dst), c.2)

/-- Read the source of every piece: what is to be written at each destination. -/
def State.readPieces (s : State) (id : Nat) (iss : Issuer) (l : List (Nat × Nat × Nat)) : State × List (Nat × Rd) :=
  l.foldl (fun (x : State × List (Nat × Rd)) p =>
    let (s, r) := x.1.cmdRead id iss p.2.1 p.2.2
    (s, x.2 ++ [(p.1, r)])) (s, [])

/-- Write the pieces; a piece that was read poisoned leaves its sector poisoned. -/
def State.writePieces (s : State) (id : Nat) (iss : Issuer) (stream : Nat) (l : List (Nat × Rd)) : State × Nat :=
  l.foldl (fun (x : State × Nat) p => x.1.cmdWrite1 id iss stream p.1 p.2.bytes p.2.poison x.2) (s, 0)

def firstFault (l : List (Nat × Rd)) : Option XFault := l.findSome? fun p => p.2.fault

/-- The first fault of writes to a list of ranges. -/
def State.probeAll (s : State) (iss : Issuer) (need : Need) (l : List (Nat × Nat)) : State × Option XFault :=
  l.foldl (fun (x : State × Option XFault) p =>
    match x.2 with
    | some _ => x
    | none => x.1.probe iss need p.1 p.2) (s, none)

/-- A command ends with a fault: its outputs are undefined (R8), and its fault log entry shows where. -/
def State.endFault (s : State) (c : Cmd) (f : XFault) : State × Option Nat :=
  ((s.spoilOutputs c).noteVa c.id f.va, some (causeStatus f.cause))

/-! ### Checks (R234, R235) -/

/-- Table 07-11: the fields that the expert forms add. -/
def State.moveExpert (s : State) (r : List Byte) (copy : Bool) : List (Bool × Nat) :=
  if hExpert r then
    [(nonzero r 68 72 || nonzero r 91 128 || nzBits r 89 7 4, 0x0102),
     (if copy then decide (2 ^ 24 < leAt r 64 4) else nonzero r 64 88, 0x0102),
     ((maskBits (bits (leAt r 88 2) 11 0) 12).any fun n => !(s.diePresent n), 0x0104)]
  else []

def copyChecks (s : State) (r : List Byte) : List (Bool × Nat) :=
  [(nzBits r 43 7 1 || nonzero r 44 48, 0x0102),
   (decide (leAt r 32 8 = 0) || decide (2 ^ 48 < leAt r 32 8), 0x0102),
   (bit (leAt r 43 1) 0 && decide (leAt r 48 8 % 8 ≠ 0), 0x0102)] ++ s.moveExpert r true

def listChecks (s : State) (r : List Byte) : List (Bool × Nat) :=
  [(nonzero r 38 40 || nzBits r 43 7 2 || nonzero r 44 48, 0x0102),
   (decide (leAt r 16 8 % 8 ≠ 0) || decide (leAt r 32 4 = 0) || decide (elemBytes r < 4) || decide (4096 < elemBytes r) ||
     decide (elemBytes r % 4 ≠ 0), 0x0102),
   (decide (leAt r 48 8 % 64 ≠ 0) || (!(bit (leAt r 43 1) 1) && nonzero r 56 64), 0x0102)] ++ s.moveExpert r false

def fillChecks (s : State) (r : List Byte) : List (Bool × Nat) :=
  [(nonzero r 43 64, 0x0102), (decide (leAt r 24 8 = 0) || decide (2 ^ 48 < leAt r 24 8), 0x0102)] ++ s.moveExpert r false

def reduceChecks (s : State) (r : List Byte) : List (Bool × Nat) :=
  [(nzBits r 42 7 5 || nonzero r 43 44 || nonzero r 46 64, 0x0102),
   (decide (leAt r 24 8 % 128 ≠ 0) || decide (leAt r 32 8 % 32 ≠ 0) || decide (8 < bits (leAt r 42 1) 3 0), 0x0102)] ++
    s.moveExpert r false

/-! ### COPY (R234, R235) -/

/-- The flag, after the data: a FINAL of the stream in another package, else a write once every write of the copy is performed. -/
def State.copyFlag (s : State) (c : Cmd) : State × Option Nat :=
  let iss := s.dmaIssuer c
  let va := leAt c.raw 48 8
  match s.xlate iss .write va with
  | (s, .error f) => (s.noteVa c.id f.va, some (causeStatus f.cause))
  | (s, .ok x) =>
    if s.isLocal x.pa then
      if s.remoteOpen c.id then (s, none)
      else if c.status = 0x0308 then (s, some 0)
      else
        let (s, st) := s.cmdWrite c.id iss 0 va ((c.raw.drop 56).take 8)
        (s, some st)
    else
      match s.remoteFinal c.ctx c.func x.pa x.key (hStream c.raw) (w64 (leAt c.raw 56 8)) (.cmdWrite c.id va) with
      | none => (s, none)
      | some s => (s, some 0)

/-- The data of a COPY; `none` while other packages' data has yet to arrive. -/
def State.copyData (s : State) (c : Cmd) : State × Option (Except XFault Nat) :=
  let iss := s.dmaIssuer c
  let rows := copyRows c.raw
  match s.awaitAll c.id iss (rows.map fun x => (x.1, x.2.2)) with
  | (s, true) => (s, none)
  | (s, false) =>
    let (s, l) := s.readPieces c.id iss (rows.flatMap fun x => piecesOf x.2.1 x.1 x.2.2)
    let (s, wf) := s.probeAll iss .write (rows.map fun x => (x.2.1, x.2.2))
    match firstFault l, wf with
    | some f, _ => (s, some (.error f))
    | none, some f => (s, some (.error f))
    | none, none =>
      let clash := overlapping (rows.flatMap fun x => s.physOf iss .read x.1 x.2.2) (rows.flatMap fun x => s.physOf iss .write x.2.1 x.2.2)
      let (s, st) := s.writePieces c.id iss (hStream c.raw) l
      let s := if clash then s.spoilOutputs c else s
      (s, some (.ok (worse st (if l.any fun p => p.2.poison then 0x0302 else 0))))

/-- What COPY finds of its FLAG_ADDR when it starts: a status that ends it. -/
def State.copyFlagBad (s : State) (c : Cmd) : State × Nat :=
  if bit (leAt c.raw 43 1) 0 then
    match s.xlate (s.dmaIssuer c) .write (leAt c.raw 48 8) with
    | (s, .error f) => (s.noteVa c.id f.va, 0x0301)
    | (s, .ok x) => (s, if s.isLocal x.pa ∨ (hStream c.raw ≠ 0 ∧ ¬ hLc c.raw) then 0 else 0x0102)
  else (s, 0)

def copyBody (s : State) (c : Cmd) : State × Option Nat :=
  let bad := checkStatus (copyChecks s c.raw)
  if c.step = 1 then s.copyFlag c
  else if bad ≠ 0 then (s, some bad)
  else if c.lost then (s.spoilOutputs c, some 0)
  else
    match s.copyFlagBad c with
    | (s, 0) =>
      let iss := s.dmaIssuer c
      if hLc c.raw ∧ (copyRows c.raw).any fun x => s.farRange iss .read x.1 x.2.2 || s.farRange iss .write x.2.1 x.2.2 then
        (s, some 0x0102)
      else
        match s.copyData c with
        | (s, none) => (s, none)
        | (s, some (.error f)) => s.endFault c f
        | (s, some (.ok st)) =>
          if bit (leAt c.raw 43 1) 0 then
            ((s.cmdStatus c.id st 0).modCmd c.id fun c => { c with step := 1 }).copyFlag { c with step := 1, status := worse c.status st }
          else (s, some st)
    | (s, st) => (s, some st)

/-! ### GATHER and SCATTER (R209, R210) -/

/-- The elements in an order that nothing fixes: each is put in its place by a free number. -/
def freeOrder (base : Nat) : Nat → List Nat
  | 0 => []
  | n + 1 =>
    let rec ins (x : Nat) : List Nat → List Nat
      | [] => [x]
      | y :: t => if Config.freeNat (base + x) < Config.freeNat (base + y) then x :: y :: t else y :: ins x t
    ins n (freeOrder base n)

/-- A faulting element: its number, its cause, and its address where it has one. -/
structure ElemFault where
  j : Nat
  cause : Nat
  va : Option Nat
  deriving DecidableEq, Repr

/-- Element `j`'s scattered address, or its fault. -/
def State.elemAddr (s : State) (c : Cmd) (j : Nat) : State × Except ElemFault Nat :=
  let e := listEntry c.raw j
  match s.cmdRead c.id (s.dmaIssuer c) e.1 e.2 with
  | (s, r) =>
    match r.fault with
    | some f => (s, .error ⟨j, f.cause, none⟩)
    | none => if r.poison then (s, .error ⟨j, 10, none⟩) else (s, .ok (scatteredAddr c.raw (leNat r.bytes)))

/-- The source and the destination of element `j` whose scattered address is `va`. -/
def elemSides (r : List Byte) (j va : Nat) : Nat × Nat :=
  let dense := (leAt r 24 8 + j * elemBytes r) % 2 ^ 64
  if hOp r = 2 then (va, dense) else (dense, va)

/-- Perform one element whose data has arrived: its fault, if it counts as a faulting one. -/
def State.moveElem (s : State) (c : Cmd) (j va : Nat) : State × Option ElemFault :=
  let iss := s.dmaIssuer c
  let n := elemBytes c.raw
  let (src, dst) := elemSides c.raw j va
  match s.probe iss .read src n with
  | (s, some f) => (s, some ⟨j, f.cause, some va⟩)
  | (s, none) =>
    match s.probe iss .write dst n with
    | (s, some f) => (s, some ⟨j, f.cause, some va⟩)
    | (s, none) =>
      let (s, l) := s.readPieces c.id iss (piecesOf dst src n)
      match firstFault l with
      | some f => (s, some ⟨j, f.cause, some va⟩)
      | none =>
        let (s, st) := s.writePieces c.id iss (hStream c.raw) l
        if st ≠ 0 ∨ l.any (fun p => p.2.poison) then (s, some ⟨j, 10, some va⟩) else (s, none)

/-- Table 06-8. -/
def faultList (status : Nat) (fs : List ElemFault) (va0 now : Nat) : List Byte :=
  let l := fs.take 16
  leBytes 2 status ++ leBytes 1 (b2n (decide (16 < fs.length))) ++ [0] ++ leBytes 4 (sat 32 fs.length) ++
    (l.flatMap fun f => leBytes 4 f.j) ++ (List.range (16 - l.length)).flatMap (fun _ => leBytes 4 0xFFFFFFFF) ++
    l.map (fun f => BitVec.ofNat 8 f.cause) ++ zeros (16 - l.length) ++ leBytes 8 va0 ++ leBytes 8 now ++ zeros 24

/-- R210: write the fault list, or lose it. -/
def State.putFaultList (s : State) (c : Cmd) (status : Nat) (fs : List ElemFault) : State :=
  let a := leAt c.raw 48 8
  let iss := s.dmaIssuer c
  if a = 0 then s
  else
    match s.probe iss .write a 128 with
    | (s, some _) => s
    | (s, none) =>
      if s.farRange iss .write a 128 then s
      else
        let (n, s) := s.fresh
        let va0 := (fs.head?.bind fun f => f.va).getD (Config.freeNat n % 2 ^ 64)
        (s.cmdWrite c.id iss 0 a (faultList status fs va0 s.now)).1

/-- R209: the status of a list of faults among `n` elements. -/
def listStatus (n : Nat) (fs : List ElemFault) : Nat :=
  match fs.head? with
  | none => 0
  | some f => if fs.length < n then 0x0303 else causeStatus f.cause

/-- The scattered address of every element, or its fault. -/
def State.elemAddrs (s : State) (c : Cmd) (n : Nat) : State × List (Nat × Except ElemFault Nat) :=
  (List.range n).foldl (fun (x : State × List (Nat × Except ElemFault Nat)) j =>
    let (s, e) := x.1.elemAddr c j
    (s, x.2 ++ [(j, e)])) (s, [])

def addrOf (l : List (Nat × Except ElemFault Nat)) (j : Nat) : Except ElemFault Nat := tgetD l j (.error ⟨j, 1, none⟩)

def listBody (s : State) (c : Cmd) : State × Option Nat :=
  let r := c.raw
  let bad := checkStatus (listChecks s r)
  let iss := s.dmaIssuer c
  let n := leAt r 32 4
  if bad ≠ 0 then (s, some bad)
  else if c.lost then (s.spoilOutputs c, some 0)
  else
    match s.awaitAll c.id iss ((List.range n).map (listEntry r)) with
    | (s, true) => (if hLc r then s.dropRemotesOf fun x => decide (x.wait = .cmd c.id) else s, if hLc r then some 0x0102 else none)
    | (s, false) =>
      let (s, as) := s.elemAddrs c n
      let sides := as.filterMap fun p => match p.2 with
        | .ok va => some (elemSides r p.1 va)
        | .error _ => none
      if hLc r ∧ sides.any fun x => s.farRange iss .read x.1 (elemBytes r) || s.farRange iss .write x.2 (elemBytes r) then
        (s, some 0x0102)
      else
        match s.awaitAll c.id iss (sides.map fun x => (x.1, elemBytes r)) with
        | (s, true) => (s, none)
        | (s, false) =>
          let order := freeOrder s.free n
          let s := { s with free := s.free + n }
          let (s, fs) := order.foldl (fun (x : State × List ElemFault) j =>
            match addrOf as j with
            | .error f => (x.1, f :: x.2)
            | .ok va =>
              match x.1.moveElem c j va with
              | (s, none) => (s, x.2)
              | (s, some f) => (s, f :: x.2)) (s, [])
          let fs := (List.range n).filterMap fun j => fs.find? fun f => decide (f.j = j)
          let st := listStatus n fs
          let s := if fs.isEmpty then s else s.putFaultList c st fs
          (match (fs.head?.bind fun f => f.va) with
            | some va => s.noteVa c.id va
            | none => s, some st)

/-! ### FILL -/

/-- Pattern bytes from byte `j` on. -/
def patternAt (r : List Byte) (j n : Nat) : List Byte :=
  (List.range n).map fun i => ((r.drop 32).getD ((j + i) % 8) 0)

def fillBody (s : State) (c : Cmd) : State × Option Nat :=
  let r := c.raw
  let bad := checkStatus (fillChecks s r)
  let iss := s.dmaIssuer c
  let (dst, n) := (leAt r 16 8, leAt r 24 8)
  if bad ≠ 0 then (s, some bad)
  else if hLc r ∧ s.farRange iss .write dst n then (s, some 0x0102)
  else
    match s.probe iss .write dst n with
    | (s, some f) => s.endFault c f
    | (s, none) =>
      let (s, st) := (chunks dst n).foldl (fun (x : State × Nat) p =>
        x.1.cmdWrite1 c.id iss (hStream r) p.1 (patternAt r (p.1 - dst) p.2) false x.2) (s, 0)
      (s, some st)

/-! ### REDUCE (R177, R181) -/

/-- One reduction by an engine of this package at a translated line: its notes. -/
def State.engineAdd (s : State) (id : Nat) (w : Who) (eng stream va : Nat) (x : Xl) (sectors spoil rop : Nat) (exact : Bool)
    (anchor : Int) (payload : List Byte) (splitK : Bool) : State × Nat :=
  let func := ((s.cmd id).map fun c => c.func).getD 0
  if s.isLocal x.pa then
    let a := x.pa % 2 ^ 48
    let (rt, s) := s.nextRTag eng
    let (s, n, _) := s.once (s.homeQ a) rt fun s =>
      let (s, n) := s.addLineAt ⟨(s.keyOf x.key).getD 0, w.ctx, if w.panel < 48 then some w.panel else none, splitK⟩ (a / 128) sectors
        rop exact false anchor payload spoil
      (s, n, 0)
    (s, n)
  else
    (s.remoteAddLine w.ctx func x.pa x.key stream (BitVec.ofNat 4 sectors) (BitVec.ofNat 4 spoil) rop exact anchor payload eng
      (.cmdWrite id va), 0)

/-- The lines of a REDUCE: destination, source, bytes. -/
def reduceLines (r : List Byte) : List (Nat × Nat × Nat) :=
  let n := leAt r 32 8
  (List.range (ceilDiv n 128)).map fun i =>
    ((leAt r 24 8 + 128 * i) % 2 ^ 64, (leAt r 16 8 + 128 * i) % 2 ^ 64, min 128 (n - 128 * i))

/-- One line: the sectors read whole are applied, those read poisoned spoil the line's. -/
def State.reduceOne (s : State) (c : Cmd) (rop : Nat) (exact : Bool) (anchor : Int) (dst : Nat) (l : List (Nat × Rd)) : State × Nat :=
  let iss := s.dmaIssuer c
  match s.xlate iss .atomic dst with
  | (s, .error f) => (s, causeStatus f.cause)
  | (s, .ok x) =>
    let payload := l.flatMap fun p => p.2.bytes
    let sectors := maskOf ((l.filter fun p => !p.2.poison).map fun p => (p.1 - dst) / 32)
    let spoil := maskOf ((l.filter fun p => p.2.poison).map fun p => (p.1 - dst) / 32)
    let (s, n) := s.engineAdd c.id c.who (dmaEng (s.dmaDie c)) (hStream c.raw) dst x sectors spoil rop exact anchor
      (payload ++ zeros (128 - payload.length)) false
    (s, worse n (if spoil = 0 then 0 else 0x0302))

/-- A line of the destination that is a device region (R177). -/
def State.deviceLine (s : State) (iss : Issuer) (dst : Nat) : Bool :=
  match (s.xlate iss .atomic dst).2 with
  | .ok x => x.device
  | .error _ => false

def reduceBody (s : State) (c : Cmd) : State × Option Nat :=
  let r := c.raw
  let bad := checkStatus (reduceChecks s r)
  let iss := s.dmaIssuer c
  let ls := reduceLines r
  let (src, dst, n) := (leAt r 16 8, leAt r 24 8, leAt r 32 8)
  if bad ≠ 0 then (s, some bad)
  else if c.lost then (s.spoilOutputs c, some 0)
  else if hLc r ∧ (s.farRange iss .read src n ∨ s.farRange iss .atomic dst n) then (s, some 0x0102)
  else
    match s.await c.id iss src n with
    | (s, true) => (s, none)
    | (s, false) =>
      match ls.find? fun x => s.deviceLine iss x.1 with
      | some x =>
        ((ls.filter fun y => !(s.deviceLine iss y.1)).foldl (fun s y => s.spoilVa iss y.1 y.2.2) s |>.noteVa c.id x.1, some 0x0301)
      | none =>
        let (s, rs) := ls.foldl (fun (a : State × List (Nat × List (Nat × Rd))) x =>
          let (s, l) := a.1.readPieces c.id iss (piecesOf x.1 x.2.1 x.2.2)
          (s, a.2 ++ [(x.1, l)])) (s, [])
        let (s, wf) := s.probe iss .atomic dst n
        match rs.findSome? (fun x => firstFault x.2), wf with
        | some f, _ => s.endFault c f
        | none, some f => s.endFault c f
        | none, none =>
          let rop := bits (leAt r 42 1) 3 0
          let (s, st) := rs.foldl (fun (a : State × Nat) x =>
            let (s, st) := a.1.reduceOne c rop (bit (leAt r 42 1) 4) (signed 16 (leAt r 44 2)) x.1 x.2
            (s, worse a.2 st)) (s, 0)
          (s, some st)

end Sys2Proof.Machine
end

