-- ==== Sys2Proof/Machine/Control.lean ====
section
/-! DEFINITION. Queue control and maintenance (07.10, 06.8): FENCE, SIGNAL, WAIT, EVENT_POST, NOP, L1_INV and XLAT_INV. -/

namespace Sys2Proof.Machine

/-- The accesses of SIGNAL and WAIT are the DIC's. -/
def State.dicIssuer (s : State) (c : Cmd) : Issuer := { s.dmaIssuer c with source := 3 }

/-- The engine number of the hub's own atomics (R182). -/
def hubEng : Nat := 0x10C

/-! ### FENCE, EVENT_POST, NOP -/

def fenceChecks (_ : State) (r : List Byte) : List (Bool × Nat) :=
  [(nzBits r 16 7 2 || nonzero r 17 64 || decide (bits (leAt r 16 1) 1 0 = 0), 0x0102)]

def fenceBody (s : State) (c : Cmd) : State × Option Nat :=
  let bad := checkStatus (fenceChecks s c.raw)
  if bad ≠ 0 then (s, some bad)
  else
    let (s, n) := s.fenceScope c.ctx (bits (leAt c.raw 16 1) 1 0)
    (s, some n)

def eventPostChecks (_ : State) (r : List Byte) : List (Bool × Nat) := [(nonzero r 20 64, 0x0102)]

def eventPostDo (s : State) (r : List Byte) : State × Nat := (s.postCtx (hCtx r) 0x0005 (leAt r 16 4), 0)

def nopChecks (_ : State) (r : List Byte) : List (Bool × Nat) := [(nonzero r 16 64, 0x0102)]

def nopDo (s : State) (_ : List Byte) : State × Nat := (s, 0)

/-! ### SIGNAL -/

def signalChecks (_ : State) (r : List Byte) : List (Bool × Nat) :=
  [(nzBits r 32 7 2 || nonzero r 33 64 || decide (bits (leAt r 32 1) 1 0 = 3) || decide (leAt r 16 8 % 8 ≠ 0), 0x0102)]

def signalOp (r : List Byte) : AtomOp :=
  match bits (leAt r 32 1) 1 0 with
  | 0 => .xchg
  | 1 => .add
  | _ => .max

/-- A local address that atomics reach: normal memory or die scratch (R89). -/
def atomicRegion (a : Nat) : Bool :=
  match region a with
  | .hbm => true
  | .dscr _ _ => true
  | _ => false

def signalBody (s : State) (c : Cmd) : State × Option Nat :=
  let r := c.raw
  let bad := checkStatus (signalChecks s r)
  let va := leAt r 16 8
  if bad ≠ 0 then (s, some bad)
  else if c.step = 1 then (s, some 0)
  else
    match s.xlate (s.dicIssuer c) .atomic va with
    | (s, .error f) => (s.noteVa c.id f.va, some (causeStatus f.cause))
    | (s, .ok x) =>
      let (s', n) := s.fenceScope c.ctx (max 2 c.fenceB)
      if s.isLocal x.pa then
        if atomicRegion (x.pa % 2 ^ 48) then
          match s'.atomicAt ((s.keyOf x.key).getD 0) (x.pa % 2 ^ 48) (signalOp r) 8 (leAt r 24 8) 0 with
          | (s, .ok _) => (s, some n)
          | (s, .error st) => (s.noteVa c.id va, some (worse n st))
        else (s.noteVa c.id va, some 0x0301)
      else if hLc r then (s, some 0x0102)
      else
        (((s'.cmdStatus c.id n 0).remoteAtomic c.ctx c.func x.pa x.key 0 (signalOp r) 8 (w64 (leAt r 24 8)) 0 hubEng (.cmdWrite c.id va)).modCmd
          c.id fun c => { c with step := 1 }, some 0)

/-! ### WAIT -/

def waitChecks (_ : State) (r : List Byte) : List (Bool × Nat) :=
  [(nzBits r 32 7 2 || nonzero r 33 36 || nonzero r 40 64 || decide (leAt r 16 8 % 8 ≠ 0), 0x0102)]

def waitMeets (r : List Byte) (x : Nat) : Bool :=
  let v := leAt r 24 8
  match bits (leAt r 32 1) 1 0 with
  | 0 => decide (v ≤ x)
  | 1 => decide (x = v)
  | 2 => decide (x ≠ v)
  | _ => decide (signed 64 v ≤ signed 64 x)

/-- Read the word at its home and compare; another package's word is asked for again each time. -/
def waitLook (s : State) (c : Cmd) : State × Option Nat :=
  let r := c.raw
  let va := leAt r 16 8
  match s.xlate (s.dicIssuer c) .read va with
  | (s, .error f) => (s.noteVa c.id f.va, some (causeStatus f.cause))
  | (s, .ok x) =>
    if s.isLocal x.pa then
      if atomicRegion (x.pa % 2 ^ 48) then
        match s.pread ((s.keyOf x.key).getD 0) (x.pa % 2 ^ 48) 8 with
        | (s, .fault st) => (s.noteVa c.id va, some st)
        | (s, .ok _ true) => (s.noteVa c.id va, some 0x0302)
        | (s, .ok b false) => (s, if waitMeets r (leNat b) then some 0 else none)
      else (s.noteVa c.id va, some 0x0301)
    else
      match c.landed.find? fun e => decide (e.1 = x.pa / 32 * 32) with
      | none => (s.remoteRead c.ctx c.func x.pa x.key x.device (.cmd c.id), none)
      | some e =>
        let s := s.modCmd c.id fun c => { c with landed := [] }
        if e.2.2 then (s.noteVa c.id va, some 0x0302)
        else if waitMeets r (leAt e.2.1 (x.pa % 32) 8) then (s, some 0)
        else (s, none)

def waitBody (s : State) (c : Cmd) : State × Option Nat :=
  let bad := checkStatus (waitChecks s c.raw)
  if bad ≠ 0 then (s, some bad)
  else if c.lost then (s, some 0)
  else waitLook (s.modCmd c.id fun c => { c with step := 1 }) c

/-- The word's sector was written, or 1 µs passed: a WAIT that has begun looks again. -/
def waitRecheck (id : Nat) (s : State) : State :=
  match s.cmd id with
  | some c => if c.step = 1 ∧ c.phase = .running then s.runCmd id 0x0603 waitBody else s
  | none => s

/-- TIMEOUT_US; 0 means 1,000,000. -/
def waitLimit (r : List Byte) : Nat := if leAt r 36 4 = 0 then 1000000 else leAt r 36 4

/-- A WAIT's time has passed: it ends with 0x0404. -/
def waitTimeout (id : Nat) (s : State) : State :=
  match s.cmd id with
  | some c =>
    if c.opcode = 0x0603 ∧ c.phase = .running ∧ 1000 * waitLimit c.raw ≤ (s.time - c.tStart).toNat then
      (s.dropRemotesOf fun r => decide (r.wait = .cmd id)).modCmd id fun c => { c with phase := .done, status := worse c.status 0x0404 }
    else s
  | none => s

/-! ### L1_INV (R239) -/

def State.panelTiles (s : State) (p : Nat) : Nat := ((tget s.panels p).map fun x => x.tiles).getD 0

def l1InvChecks (s : State) (r : List Byte) : List (Bool × Nat) :=
  let mine := match tget s.ctxs (hCtx r) with
    | some c => s.panelTiles c.panel
    | none => 0
  [(nonzero r 22 64, 0x0102),
   ((maskBits (leAt r 16 6) 48).any fun t => !(s.tilePresent t) || (!(s.isMgr (hCtx r)) && !(bit mine t)), 0x0104)]

def l1InvDo (s : State) (r : List Byte) : State × Nat :=
  ((maskBits (leAt r 16 6) 48).foldl (fun s t => (tileCores t).foldl (fun s k => s.invCore k) s) s, 0)

/-! ### XLAT_INV (R207, R208) -/

def xlatInvChecks (s : State) (r : List Byte) : List (Bool × Nat) :=
  let va := leAt r 16 8
  let n := leAt r 24 8
  let t := bits (leAt r 32 2) 11 0
  let wide := bit (leAt r 34 1) 0
  [(nzBits r 33 7 4 || nzBits r 34 7 2 || nonzero r 35 64, 0x0102),
   (decide (va % 65536 ≠ 0) || decide (n % 65536 ≠ 0) || decide (2 ^ 48 < va + n), 0x0102),
   (!(s.isMgr (hCtx r)) && (decide (t ≠ hCtx r) || wide), 0x0102),
   (!(thas s.ctxs t), 0x0104)]

/-- The contexts that an XLAT_INV covers. -/
def State.xlatTargets (s : State) (r : List Byte) (x : Nat) : Bool :=
  let t := bits (leAt r 32 2) 11 0
  if bit (leAt r 34 1) 0 then
    match tget s.ctxs t, tget s.ctxs x with
    | some a, some b => decide (a.panel = b.panel)
    | _, _ => false
  else decide (x = t)

/-- The range: LENGTH 0 is the whole address space. -/
def xlatRange (r : List Byte) : Nat × Nat :=
  if leAt r 24 8 = 0 then (0, 2 ^ 48) else (leAt r 16 8, leAt r 16 8 + leAt r 24 8)

def heldCovers (l : List TlbEntry) (lo hi : Nat) : Bool := l.any fun e => decide (e.va < hi) && decide (lo < e.va + e.size)

/-- A dump into a page of the range is pending (Table 14-8). -/
def State.dumpInto (s : State) (r : List Byte) : Bool :=
  let (lo, hi) := xlatRange r
  s.dumps.any fun e => s.xlatTargets r e.2.ctx && heldCovers e.2.held lo hi

/-- Entries, markers and L1s. -/
def State.xlatInvAct (s : State) (r : List Byte) : State :=
  let (lo, hi) := xlatRange r
  let s := s.xlatDrop (s.xlatTargets r) lo hi
  let s := { s with marks := s.marks.map fun e =>
    if s.xlatTargets r e.2.ctx && heldCovers e.2.held lo hi then (e.1, { e.2 with armed := false, held := [] }) else e }
  if bit (leAt r 34 1) 1 then
    let p := ((tget s.ctxs (bits (leAt r 32 2) 11 0)).map fun c => c.panel).getD 63
    (maskBits (s.panelTiles p) 48).foldl (fun s t => (tileCores t).foldl (fun s k => s.invCore k) s) s
  else s

/-- Remote accesses of the covered contexts that left before the command began are not all answered. `step` is the first tag after
them, plus one. -/
def State.xlatOpen (s : State) (r : List Byte) (step : Nat) : Bool :=
  s.remotes.any fun x => s.xlatTargets r x.ctx && decide (x.tag + 1 < step)

def xlatInvBody (s : State) (c : Cmd) : State × Option Nat :=
  let r := c.raw
  if c.step = 0 then
    let bad := checkStatus (xlatInvChecks s r)
    if bad ≠ 0 then (s, some bad)
    else if s.dumpInto r then (s, none)
    else
      let s := (s.xlatInvAct r).modCmd c.id fun c => { c with step := s.nextTag + 1 }
      (s, if s.xlatOpen r (s.nextTag + 1) then none else some 0)
  else (s, if s.xlatOpen r c.step then none else some 0)

end Sys2Proof.Machine
end

