-- ==== Sys2Proof/Machine/CoreCache.lean ====
section
/-! DEFINITION. The L1 of a general core (03.6): lines, the eviction buffer, fills in flight, and what maintenance does to them. Only
lines of this package are cached. -/

namespace Sys2Proof.Machine

/-! ### Lines -/

def byteMask (off n : Nat) : Nat := (2 ^ n - 1) * 2 ^ off

/-- Bytes of `new` where the mask has a bit, of `old` elsewhere. -/
def overlay (mask : Nat) (old new : List Byte) : List Byte :=
  (List.range 128).map fun i => if bit mask i then new.getD i 0 else old.getD i 0

/-- The mask of the bytes of some sectors. -/
def sectorMask (sectors : Nat) : Nat := (maskBits sectors 4).foldl (fun m i => m ||| byteMask (32 * i) 32) 0

def Core.lineOf (c : Core) (line : Nat) : Option L1Line := c.l1.find? fun l => decide (l.line = line)

def Core.evbOf (c : Core) (line : Nat) : Option L1Line := c.evb.reverse.find? fun l => decide (l.line = line)

/-- Put a line at the front of its core's lines, in place of what was there of it. -/
def Core.putLine (c : Core) (l : L1Line) : Core := { c with l1 := l :: c.l1.filter fun x => !(decide (x.line = l.line)) }

def Core.dropLine (c : Core) (line : Nat) : Core := { c with l1 := c.l1.filter fun x => !(decide (x.line = line)) }

/-- The sectors of a local line that are poisoned, or whose stack has left service. -/
def State.badSectors (s : State) (line : Nat) : Nat :=
  let a := 128 * localLine line
  maskOf ((List.range 4).filter fun i => s.hbmOos (a + 32 * i) || (s.seenMem a).poisoned (a + 32 * i))

/-! ### The eviction buffer (R105) -/

/-- An entry is accepted at the unified cache; a fill in flight of its line has its bytes. -/
def State.drainEntry (s : State) (k : Nat) (e : L1Line) : State :=
  (s.writeBackLine e).modCore k fun c => { c with
    evb := c.evb.erase e,
    fills := c.fills.map fun f => if f.line = e.line ∧ ¬ f.covered then { f with bytes := overlay e.dirty f.bytes e.bytes } else f }

/-- EVICTION_DRAIN: the oldest entry. -/
def State.drainOldest (s : State) (k : Nat) : State :=
  match (s.coreOf k).evb with
  | [] => s
  | e :: _ => s.drainEntry k e

/-- Entries of a line drain. -/
def State.drainLine (s : State) (k line : Nat) : State :=
  ((s.coreOf k).evb.filter fun e => decide (e.line = line)).foldl (fun s e => s.drainEntry k e) s

/-- A dirty line leaves the L1; a full buffer drains an entry first, for which the fill waits. -/
def State.pushEvb (s : State) (k : Nat) (l : L1Line) : State :=
  if l.dirty = 0 then s
  else
    let s := s.drainLine k l.line
    let s := if 8 ≤ (s.coreOf k).evb.length then s.drainOldest k else s
    s.modCore k fun c => { c with evb := c.evb ++ [l] }

/-- Install a line: the least recently used of its set's unlocked lines leaves where the ways are full (R98). -/
def State.l1Install (s : State) (k : Nat) (l : L1Line) : State :=
  let c := s.coreOf k
  let mine := c.l1.filter fun x => decide (x.line % 128 = l.line % 128) && !x.locked && !(decide (x.line = l.line))
  let s := if mine.length < 8 - c.lockN then s
    else match mine.getLast? with
      | some v => (s.modCore k fun c => c.dropLine v.line).pushEvb k v
      | none => s
  s.modCore k fun c => c.putLine l

/-! ### Keeping one thread's view (R88, R95) -/

/-- Before an access that bypasses the L1, what this core has stored to the line reaches memory. -/
def State.l1Flush (s : State) (k line : Nat) : State :=
  let s := s.drainLine k line
  match (s.coreOf k).lineOf line with
  | none => s
  | some l => (s.writeBackLine l).modCore k fun c => { c with l1 := c.l1.map fun x => if x.line = line then { x with dirty := 0 } else x }

/-- The sectors that some bytes of a mask lie in. -/
def maskSectors (mask : Nat) : Nat := maskOf ((List.range 4).filter fun i => decide (mask &&& byteMask (32 * i) 32 ≠ 0))

/-- After a write that bypasses it, a copy and a fill in flight of the line hold the bytes of the mask as memory does; their other bytes
stay as they are (R88, R102). -/
def State.l1Refresh (s : State) (k line mask : Nat) : State :=
  let bad := s.badSectors line &&& maskSectors mask
  s.modCore k fun c => { c with
    l1 := c.l1.map fun (l : L1Line) => if l.line = line then
      { l with bytes := overlay mask l.bytes (s.lineNow line l.key), valid := l.valid &&& (sectorMask bad ^^^ (2 ^ 128 - 1)) } else l,
    fills := c.fills.map fun (f : Fill) =>
      if f.line = line ∧ ¬ f.covered then
        { f with bytes := overlay mask f.bytes (s.lineNow line f.key), poison := f.poison ||| bad } else f }

/-- A copy that was made under another key slot leaves first. -/
def State.l1Rekey (s : State) (k line key : Nat) : State :=
  let c := s.coreOf k
  if (c.l1 ++ c.evb).any fun l => decide (l.line = line) && decide (l.key ≠ key) then
    (s.l1Flush k line).modCore k fun c => c.dropLine line
  else s

/-! ### Cached loads and stores (R99, R103 to R105) -/

/-- What a cached load of some bytes of a line finds: each byte that the core holds; `fill`: it must wait for a fill of the line; `new`:
the fill is a new one; `bad`: a byte that it must fetch is poisoned; `hold`: a fill that an invalidate has covered must return
first. -/
structure L1Read where
  bytes : List (Option Byte)
  fill : Bool
  new : Bool
  bad : Bool
  hold : Bool
  deriving DecidableEq, Repr

def someBytes (l : L1Line) (mask off n : Nat) : List (Option Byte) :=
  (List.range n).map fun i => if bit mask (off + i) then some (l.bytes.getD (off + i) 0) else none

def State.l1Read (s : State) (k line key off n : Nat) : State × L1Read :=
  let s := s.l1Rekey k line key
  let c := s.coreOf k
  let held := match c.lineOf line with
    | some l => someBytes l l.valid off n
    | none => match c.evbOf line with
      | some l => someBytes l l.dirty off n
      | none => List.replicate n none
  if held.all Option.isSome then
    (match c.lineOf line with
      | some l => s.modCore k fun c => c.putLine l
      | none => s, ⟨held, false, false, false, false⟩)
  else
    match c.fills.find? fun f => decide (f.line = line) with
    | some f =>
      if f.covered then (s, ⟨held, false, false, false, true⟩)
      else (s, ⟨held, true, false, bit f.poison (off / 32), false⟩)
    | none =>
      let s := (s.drainLine k line).wakeHbm (128 * localLine line)
      let bad := s.badSectors line
      if bit bad (off / 32) then (s, ⟨held, false, false, true, false⟩)
      else
        (s.modCore k fun c => { c with fills := c.fills ++ [⟨line, key, s.lineNow line key, bad, true, false⟩] },
          ⟨held, true, true, false, false⟩)

/-- A cached store: a locked line is written through, one in the eviction buffer takes the bytes, and a miss allocates the line without
reading memory. -/
def State.l1Store (s : State) (k line key off : Nat) (b : List Byte) : State :=
  let s := s.l1Rekey k line key
  let c := s.coreOf k
  let mask := byteMask off b.length
  let img := zeros off ++ b ++ zeros (128 - off - b.length)
  let s := s.breakResv (128 * localLine line + off)
  match c.lineOf line with
  | some l =>
    if l.locked then
      let s := (s.writeMasked ((s.keyOf key).getD 0) (localLine line) mask img).1
      s.modCore k fun c => c.putLine { l with bytes := overlay mask l.bytes img, valid := l.valid ||| mask }
    else
      s.modCore k fun c => c.putLine { l with bytes := overlay mask l.bytes img, valid := l.valid ||| mask, dirty := l.dirty ||| mask }
  | none =>
    match c.evbOf line with
    | some e =>
      s.modCore k fun c => { c with evb := c.evb.map fun x =>
        if x = e then { x with bytes := overlay mask x.bytes img, valid := x.valid ||| mask, dirty := x.dirty ||| mask } else x }
    | none => s.l1Install k ⟨line, img, mask, mask, key, false⟩

/-- Fill data is installed under the bytes that the core holds. -/
def State.l1Fill (s : State) (k : Nat) (f : Fill) : State :=
  let got := sectorMask (f.poison ^^^ 15)
  let c := s.coreOf k
  match c.lineOf f.line with
  | some l => s.modCore k fun c => c.putLine { l with bytes := overlay l.valid f.bytes l.bytes, valid := l.valid ||| got }
  | none =>
    match c.evbOf f.line with
    | some e => s.l1Install k ⟨f.line, overlay e.dirty f.bytes e.bytes, got ||| e.dirty, 0, f.key, false⟩
    | none => s.l1Install k ⟨f.line, f.bytes, got, 0, f.key, false⟩

/-! ### Maintenance (R103, R106, R107) -/

/-- The physical pieces of a virtual range, one for each granule of it that translates to this package's memory, from line to line. -/
def State.rangeLines (s : State) (iss : Issuer) (va n : Nat) : List (Nat × Nat) :=
  let hi := min (va + n) (2 ^ 48)
  if hi ≤ va then []
  else
    (List.range (hi / 65536 + 1 - va / 65536)).filterMap fun i =>
      let a := max va ((va / 65536 + i) * 65536)
      let e := min hi ((va / 65536 + i + 1) * 65536)
      let t := match (s.xlate iss .read a).2 with
        | .ok x => some x.pa
        | .error _ => match (s.xlate iss .write a).2 with
          | .ok x => some x.pa
          | .error _ => none
      if e ≤ a then none else t.map fun pa => (pa / 128, (pa + (e - a) + 127) / 128)

def inLines (l : List (Nat × Nat)) (line : Nat) : Bool := l.any fun r => decide (r.1 ≤ line) && decide (line < r.2)

/-- L1WB on the lines that satisfy a condition. -/
def State.l1Clean (s : State) (k : Nat) (p : Nat → Bool) : State :=
  let c := s.coreOf k
  (((c.evb ++ c.l1).filter fun l => p l.line).map fun l => l.line).eraseDups.foldl (fun s n => s.l1Flush k n) s

/-- L1INV on the lines that satisfy a condition; a fill in flight of one is not to be installed. -/
def State.l1Drop (s : State) (k : Nat) (p : L1Line → Bool) (q : Nat → Bool) : State :=
  (s.l1Clean k q).modCore k fun c => { c with
    l1 := c.l1.filter (fun l => !(p l)), fills := c.fills.map fun f => if q f.line then { f with covered := true } else f }

/-- A fill of this package that an invalidate has covered has not returned. -/
def State.coveredFills (s : State) (k : Nat) (q : Nat → Bool) : Bool :=
  (s.coreOf k).fills.any fun f => f.covered && q f.line && s.isLocal (128 * f.line)

/-- L1LOCK: the reserved ways' lines leave; of each set's other lines the most recently used stay (log entry 44). -/
def State.l1LockDo (s : State) (k n ctx : Nat) : State :=
  let c := s.coreOf k
  let place (l : L1Line) : Nat :=
    ((c.l1.takeWhile fun x => !(decide (x = l))).filter fun x => decide (x.line % 128 = l.line % 128) && !x.locked).length
  let goes := c.l1.filter fun l => l.locked || decide (8 - n ≤ place l)
  let s := goes.foldl (fun s l => s.writeBackLine l) s
  s.modCore k fun c => { c with l1 := c.l1.filter (fun l => !(goes.contains l)), lockN := n, lockCtx := ctx }

/-- L1PRE of one line: whether its set's reserved ways were full. -/
def State.l1PreLine (s : State) (k line key : Nat) : State × Nat :=
  let c := s.coreOf k
  match c.lineOf line with
  | some ⟨_, _, _, _, _, true⟩ => (s, 0)
  | _ =>
    if c.lockN ≤ (c.l1.filter fun x => decide (x.line % 128 = line % 128) && x.locked).length then (s, 1)
    else
      let s := (s.l1Flush k line).wakeHbm (128 * localLine line)
      let l : L1Line := ⟨line, s.lineNow line key, sectorMask (s.badSectors line ^^^ 15), 0, key, true⟩
      (s.modCore k fun c => c.putLine l, 0)

end Sys2Proof.Machine
end

