-- ==== Sys2Proof/Machine/CoreMem.lean ====
section
/-! DEFINITION. Memory accesses of the general cores (03.3, 03.5): loads, stores, atomics, LL and SC, add-to-line and fences. Lanes
are taken in rising order, so that a fault leaves what R96 says. -/

namespace Sys2Proof.Machine

/-! ### What a group has outstanding (R104) -/

def Core.missing (c : Core) (g : Nat) : Bool := c.loads.any fun l => decide (l.group = g) && l.miss

/-- The group's open accesses to other packages other than loads: the numbers of their instructions. -/
def State.laneRemotes (s : State) (k g : Nat) (p : Remote → Nat → Bool) : List Nat :=
  (s.remotes.filterMap fun r => match r.wait with
    | .lane die core x lane _ _ n =>
      if 32 * die + core = k ∧ x = g ∧ r.kind ≠ .read ∧ p r lane = true then some n else none
    | _ => none).eraseDups

def CoreLoad.far (s : State) (l : CoreLoad) : Bool := l.lanes.any fun y => y.bytes.any fun b => !(s.isLocal b.1)

/-- Bypass, narrow and atomic instructions outstanding. -/
def State.serials (s : State) (k g : Nat) : Nat :=
  ((s.coreOf k).loads.filter fun l => decide (l.group = g) && l.far s).length + (s.laneRemotes k g fun _ _ => true).length

/-! ### Lanes -/

/-- The address of a lane: a register pair plus an offset. -/
def Iss.addr (x : Iss) (ra : Nat) (off : W64) (lane : Nat) : Nat := (x.regN lane ra 8 + off.toNat) % 2 ^ 64

/-- Whether all active lanes address one location (R96). -/
def Iss.sameAddr (x : Iss) (va : Nat → Nat) : Bool := (laneList x.lanes).all fun j => decide (va j = va (lowLane x.lanes))

/-- An access is cached: so marked, and to normal memory of this package (R88, R98). -/
def State.cachedAt (s : State) (mark : MemMark) (l : Xl) : Bool :=
  decide (mark = .cached) && !l.device && s.isLocal l.pa && decide (region (l.pa % 2 ^ 48) = .hbm)

/-! ### Landing of loads -/

def LaneLoad.value (y : LaneLoad) : Nat := leNat (y.bytes.map fun b => b.2.getD 0)

def LaneLoad.whole (y : LaneLoad) : Bool := y.bytes.all fun b => b.2.isSome

def State.landLanes (s : State) (k : Nat) (l : CoreLoad) (ys : List LaneLoad) : State :=
  ys.foldl (fun s y => s.modGroup k l.group fun g => g.land y.lane l.rd l.size y.value) s

/-- The bytes of other packages are asked for again. -/
def CoreLoad.again (s : State) (l : CoreLoad) (f : Nat) : CoreLoad :=
  { l with lanes := (l.lanes.filter fun y => decide (f ≤ y.lane)).map fun y =>
      { y with poison := false, bytes := y.bytes.map fun b => if s.isLocal b.1 then b else (b.1, none) } }

/-- A load whose bytes have all arrived writes its registers; poison that came from another package faults now. -/
def State.landLoad (s : State) (k : Nat) (l : CoreLoad) : State :=
  match s.findGroup k l.group, (s.coreOf k).launch with
  | some g, some id =>
    if (l.lanes.all LaneLoad.whole) && g.parked.isNone then
      let s := s.modCore k fun c => { c with loads := c.loads.erase l }
      match l.lanes.find? fun y => y.poison, s.cmd id, tget s.launches id with
      | some y, some c, some run =>
        let s := s.landLanes k l (l.lanes.filter fun z => decide (z.lane < y.lane))
        let part := decide (lanesFrom l.active y.lane ≠ l.active)
        let s := s.modCore k fun c => { c with loads := c.loads ++ [l.again s y.lane] }
        s.coreFault k g c run ⟨if part then 0x0303 else 0x0302, y.lane, l.kind, l.bypass, lanesFrom l.active y.lane, y.va, l.pc, l.active, 0,
          false, if part then 2 else 0⟩ true
      | _, _, _ => s.landLanes k l l.lanes
    else s
  | _, _ => s.modCore k fun c => { c with loads := c.loads.erase l }

def State.landLoads (s : State) (k : Nat) : State := (s.coreOf k).loads.foldl (fun s l => s.landLoad k l) s

/-- The bytes of a fill that a lane waits for. -/
def LaneLoad.take (y : LaneLoad) (f : Fill) : LaneLoad :=
  let mine (b : Nat × Option Byte) : Bool := b.2.isNone && decide (b.1 / 128 = f.line)
  { y with
    bytes := y.bytes.map fun b => if mine b then (b.1, some (f.bytes.getD (b.1 % 128) 0)) else b,
    poison := y.poison || y.bytes.any fun b => mine b && bit f.poison (b.1 % 128 / 32) }

/-- L1_FILL_RETURN: the data goes to the registers that wait for it, and is installed unless an invalidate covered the line. -/
def l1FillReturn (die core line : Nat) (s : State) : State :=
  let k := 32 * die + core
  match (s.coreOf k).fills.find? fun f => decide (f.line = line) && f.ready with
  | none => s
  | some f =>
    let s := s.modCore k fun c => { c with
      fills := c.fills.erase f, loads := c.loads.map fun l => { l with lanes := l.lanes.map fun y => y.take f } }
    let s := if f.covered then s else s.l1Fill k f
    s.landLoads k

/-- EVICTION_DRAIN. -/
def evictionDrain (die core : Nat) (s : State) : State := s.drainOldest (32 * die + core)

/-- Another package's line is on its way to a core. -/
def State.farFill (s : State) (x : Iss) (l : Xl) : State :=
  let line := l.pa / 128
  if (s.coreOf x.k).fills.any fun f => decide (f.line = line) then s
  else
    let s := s.modCore x.k fun c => { c with fills := c.fills ++ [⟨line, l.key, [], 0, false, true⟩] }
    s.remoteRead x.c.ctx x.c.func l.pa l.key l.device (.lane (x.k / 32) (x.k % 32) 0 0 0 0 0)

/-- Loads that a fault interrupted after they had issued ask again for what they lack (R113). -/
def State.askAgain (s : State) (k g : Nat) (x : Cmd) : State :=
  (((s.coreOf k).loads.filter fun l => decide (l.group = g)).flatMap fun l => l.lanes).foldl (fun s y =>
    (y.bytes.filter fun b => b.2.isNone).foldl (fun s b =>
      if (s.coreOf k).fills.any fun f => decide (f.line = b.1 / 128) then s
      else
        let s := s.modCore k fun c => { c with fills := c.fills ++ [⟨b.1 / 128, y.key, [], 0, false, true⟩] }
        s.remoteRead x.ctx x.func b.1 y.key true (.lane (k / 32) (k % 32) 0 0 0 0 0)) s) s

/-! ### Loads -/

/-- What a load has come to: its lanes, whether a line misses anew, whether another package's data is awaited, whether it must wait
before it can issue, and the first lane that faults with its status and address. -/
structure LoadAcc where
  lanes : List LaneLoad
  new : Bool
  far : Bool
  hold : Bool
  fault : Option (Nat × Nat × Nat)
  deriving DecidableEq, Repr

/-- One sector, or part, of a lane's load; `bad`: the status of a fault. -/
structure PartLoad where
  key : Nat
  bytes : List (Nat × Option Byte)
  new : Bool
  far : Bool
  hold : Bool
  bad : Nat
  deriving DecidableEq, Repr

def knownAt (pa : Nat) (b : List Byte) : List (Nat × Option Byte) := b.zipIdx.map fun p => (pa + p.2, some p.1)

def unknownAt (pa n : Nat) : List (Nat × Option Byte) := (List.range n).map fun i => (pa + i, none)

def State.loadPart (s : State) (x : Iss) (mark : MemMark) (va n : Nat) : State × PartLoad :=
  match s.xlate x.issuer .read va with
  | (s, .error _) => (s, ⟨0, [], false, false, false, 0x0301⟩)
  | (s, .ok l) =>
    if s.cachedAt mark l then
      let (s, r) := s.l1Read x.k (l.pa / 128) l.key (l.pa % 128) n
      (s, ⟨l.key, r.bytes.zipIdx.map fun p => (l.pa + p.2, p.1), r.new, false, r.hold, if r.bad then 0x0302 else 0⟩)
    else if s.isLocal l.pa then
      let s := if region (l.pa % 2 ^ 48) = .hbm then s.l1Flush x.k (l.pa / 128) else s
      match s.localRead x.issuer.who l.key (l.pa % 2 ^ 48) n with
      | (s, .ok b false) => (s, ⟨l.key, knownAt l.pa b, false, false, false, 0⟩)
      | (s, .ok _ true) => (s, ⟨0, [], false, false, false, 0x0302⟩)
      | (s, .fault st) => (s, ⟨0, [], false, false, false, st⟩)
    else
      match if l.device then none else s.leaseHit (x.k / 96) x.c.ctx (l.pa / 128) with
      | some y =>
        if bit y.poison (l.pa % 128 / 32) then (s, ⟨0, [], false, false, false, 0x0302⟩)
        else (s, ⟨l.key, knownAt l.pa ((y.bytes.drop (l.pa % 128)).take n), false, false, false, 0⟩)
      | none => (s.farFill x l, ⟨l.key, unknownAt l.pa n, false, true, false, 0⟩)

/-- One lane. -/
def State.loadLane (s : State) (x : Iss) (mark : MemMark) (size lane va : Nat) (a : LoadAcc) : State × LoadAcc :=
  if a.fault.isSome then (s, a)
  else
    let (s, y, a) := (chunks va size).foldl (fun (t : State × LaneLoad × LoadAcc) c =>
      if t.2.2.fault.isSome then t
      else
        let (s, p) := t.1.loadPart x mark c.1 c.2
        (s, { t.2.1 with key := p.key, bytes := t.2.1.bytes ++ p.bytes },
          { t.2.2 with
            new := t.2.2.new || p.new, far := t.2.2.far || p.far, hold := t.2.2.hold || p.hold,
            fault := if p.bad = 0 then none else some (lane, p.bad, c.1) })) (s, ⟨lane, va, 0, [], false⟩, a)
    (s, if a.fault.isSome then a else { a with lanes := a.lanes ++ [y] })

def loadKind (x : Iss) (va : Nat → Nat) (store : Bool) : Nat := b2n store + if x.sameAddr va then 0 else 2

/-- Keep a load that waits for data. -/
def State.keepLoad (s : State) (x : Iss) (l : CoreLoad) : State :=
  (s.modCore x.k fun c => { c with loads := c.loads ++ [l] }).modGroup x.k x.g.num fun g => { g with
    pend := g.pend ++ l.lanes.flatMap fun y => (regRun l.rd (sizeRegs l.size)).map fun r => ⟨y.lane, r⟩ }

def load (i : Issue) (mark : MemMark) (size rd ra : Nat) (off : W64) (s : State) : State :=
  s.issue i (regRun ra 2) (regRun rd (sizeRegs size)) fun s x =>
    let va := x.addr ra off
    let bypass := decide (mark ≠ .cached)
    let (t, a) := (laneList x.lanes).foldl (fun (y : State × LoadAcc) j => y.1.loadLane x mark size j (va j) y.2)
      (s, ⟨[], false, false, false, none⟩)
    if a.hold ∨ (a.new ∧ (s.coreOf x.k).missing x.g.num) ∨ (a.far ∧ 4 ≤ s.serials x.k x.g.num) then s.pathStall x
    else
      let l : CoreLoad := ⟨x.g.num, rd, size, x.p.pc, x.lanes, a.new, bypass, loadKind x va false, a.lanes⟩
      let t := if a.lanes.all LaneLoad.whole then t.landLanes x.k l a.lanes else t.keepLoad x l
      match a.fault with
      | some (f, st, at_) => t.laneFault x f st (loadKind x va false) bypass at_
      | none => t.next x id

/-! ### Stores -/

/-- Where a store of a lane goes, by sector; the first fault's status and address. -/
def State.storeParts (s : State) (x : Iss) (need : Need) (va n : Nat) : State × Except (Nat × Nat) (List (Nat × Nat × Xl)) :=
  (chunks va n).foldl (fun (t : State × Except (Nat × Nat) (List (Nat × Nat × Xl))) c =>
    match t.2 with
    | .error _ => t
    | .ok l =>
      match t.1.xlate x.issuer need c.1 with
      | (s, .error _) => (s, .error (0x0301, c.1))
      | (s, .ok y) =>
        if s.isLocal y.pa ∧ region (y.pa % 2 ^ 48) = .hbm ∧ s.hbmOos (y.pa % 2 ^ 48) = true then (s, .error (0x0302, c.1))
        else (s, .ok (l ++ [(c.1, c.2, y)]))) (s, .ok [])

/-- Write one sector, or part, of a lane's store: the status. -/
def State.storePart (s : State) (x : Iss) (mark : MemMark) (stream lane instr : Nat) (l : Xl) (b : List Byte) : State × Nat :=
  if s.cachedAt mark l then (s.l1Store x.k (l.pa / 128) l.key (l.pa % 128) b, 0)
  else if s.isLocal l.pa then
    let hbm := decide (region (l.pa % 2 ^ 48) = .hbm)
    let s := if hbm then s.l1Flush x.k (l.pa / 128) else s
    match s.localWrite x.issuer.who l.key (l.pa % 2 ^ 48) b false with
    | (s, st) => (if hbm then s.l1Refresh x.k (l.pa / 128) (byteMask (l.pa % 128) b.length) else s, st)
  else (s.remoteWrite x.c.ctx x.c.func l.pa l.key stream b false (x.waiter lane 0 0 instr), 0)

/-- The thread has executed a store, an atomic or another LL: its reservation ends (R90). -/
def State.endResv (s : State) (x : Iss) (lane : Nat) : State :=
  { s with resvs := s.resvs.filter fun r => !(decide (r.core = x.k) && decide (r.group = x.g.num) && decide (r.lane = lane)) }

/-- One lane of a store; the first fault is kept as (lane, status, address). -/
def State.storeLane (s : State) (x : Iss) (mark : MemMark) (size rv stream instr lane va : Nat) (a : Option (Nat × Nat × Nat)) :
    State × Option (Nat × Nat × Nat) :=
  if a.isSome then (s, a)
  else
    match s.storeParts x .write va size with
    | (s, .error (st, at_)) => (s, some (lane, st, at_))
    | (s, .ok l) =>
      let b := leBytes size (x.regN lane rv size)
      (l.foldl (fun (t : State × Option (Nat × Nat × Nat)) c =>
        match t.1.storePart x mark stream lane instr c.2.2 ((b.drop (c.1 - va)).take c.2.1) with
        | (s, st) => (s, if st = 0 ∨ t.2.isSome = true then t.2 else some (lane, st, c.1))) (s.endResv x lane, none))

/-- The access would leave the package for some lane. -/
def State.goesFar (s : State) (x : Iss) (need : Need) (size : Nat) (va : Nat → Nat) : Bool :=
  (laneList x.lanes).any fun j => (chunks (va j) size).any fun c =>
    match (s.xlate x.issuer need c.1).2 with
    | .ok y => !(s.isLocal y.pa)
    | .error _ => false

def store (i : Issue) (mark : MemMark) (size rv ra : Nat) (off : W64) (stream : Nat) (s : State) : State :=
  s.issue i (regRun ra 2 ++ regRun rv (sizeRegs size)) [] fun s x =>
    let va := x.addr ra off
    if s.goesFar x .write size va ∧ 4 ≤ s.serials x.k x.g.num then s.pathStall x
    else
      let n := s.nextTag
      let (s, a) := (laneList x.lanes).foldl (fun (y : State × Option (Nat × Nat × Nat)) j =>
        y.1.storeLane x mark size rv stream n j (va j) y.2) (s, none)
      match a with
      | some (f, st, at_) => s.laneFault x f st (loadKind x va true) (decide (mark ≠ .cached)) at_
      | none => s.next x id

/-! ### Words: atomics, LL and SC (R89, R90) -/

/-- The word of a lane: it lies in one sector, and in this package in normal memory or die scratch (log entry 45). -/
def State.wordAt (s : State) (x : Iss) (need : Need) (size va : Nat) : State × Except Nat Xl :=
  match s.storeParts x need va size with
  | (s, .error (st, _)) => (s, .error st)
  | (s, .ok [(_, _, l)]) => (s, if s.isLocal l.pa ∧ atomicRegion (l.pa % 2 ^ 48) = false then .error 0x0301 else .ok l)
  | (s, .ok _) => (s, .error 0x0301)

/-- Perform an access that may write `n` bytes of a word of this package's memory: what this core has stored to its line is written
first, and a copy takes the word after. -/
def State.onWord (s : State) (x : Iss) (l : Xl) (n : Nat) (act : State → State × Except Nat Nat) : State × Except Nat Nat :=
  if region (l.pa % 2 ^ 48) = .hbm then
    let (s, r) := act (s.l1Flush x.k (l.pa / 128))
    (s.l1Refresh x.k (l.pa / 128) (byteMask (l.pa % 128) n), r)
  else act s

/-- Lanes of a word instruction in rising order: each answers the value for its register, nothing where it comes later, or a fault. -/
def State.wordLanes (s : State) (x : Iss) (need : Need) (size rd rsize : Nat) (va : Nat → Nat)
    (act : State → Nat → Xl → State × Except Nat (Option Nat)) : State × Option (Nat × Nat × Nat) :=
  (laneList x.lanes).foldl (fun (t : State × Option (Nat × Nat × Nat)) j =>
    if t.2.isSome then t
    else
      match t.1.wordAt x need size (va j) with
      | (s, .error st) => (s, some (j, st, va j))
      | (s, .ok l) =>
        match act s j l with
        | (s, .error st) => (s, some (j, st, va j))
        | (s, .ok (some v)) => (s.modGroup x.k x.g.num fun g => g.land j rd rsize v, none)
        | (s, .ok none) => (s, none)) (s, none)

/-- The end of a word instruction. -/
def State.wordEnd (r : State × Option (Nat × Nat × Nat)) (x : Iss) (kind : Nat) : State :=
  match r with
  | (s, some (f, st, at_)) => s.laneFault x f st kind true at_
  | (s, none) => s.next x id

def atomicLane (x : Iss) (op : AtomOp) (size rd rb rc n : Nat) (s : State) (j : Nat) (l : Xl) : State × Except Nat (Option Nat) :=
  let a := x.regN j rb size
  let b := x.regN j rc size
  let s := s.endResv x j
  if s.isLocal l.pa then
    match s.onWord x l size fun s => s.atomicAt ((s.keyOf l.key).getD 0) (l.pa % 2 ^ 48) op size a b with
    | (s, .ok old) => (s, .ok (some old))
    | (s, .error st) => (s, .error st)
  else
    let s := s.remoteAtomic x.c.ctx x.c.func l.pa l.key 0 op size (w64 a) (w64 b) x.k (x.waiter j rd size n)
    (s.modGroup x.k x.g.num fun g => { g with pend := g.pend ++ (regRun rd (sizeRegs size)).map fun r => ⟨j, r⟩ }, .ok none)

def atomicInstr (i : Issue) (op : AtomOp) (size rd ra rb rc : Nat) (s : State) : State :=
  if op = .fadd ∧ size ≠ 4 then s
  else
    let w := sizeRegs size
    s.issue i (regRun ra 2 ++ regRun rb w ++ if op = .cas then regRun rc w else []) (regRun rd w) fun s x =>
      let va := x.addr ra 0
      if s.goesFar x .atomic size va ∧ 4 ≤ s.serials x.k x.g.num then s.pathStall x
      else State.wordEnd (s.wordLanes x .atomic size rd size va (atomicLane x op size rd rb rc s.nextTag)) x 4

/-- LL: the word is read as by a bypass load and its sector reserved. No message carries a reservation to another package. -/
def llLane (x : Iss) (size : Nat) (s : State) (j : Nat) (l : Xl) : State × Except Nat (Option Nat) :=
  if s.isLocal l.pa then
    let a := l.pa % 2 ^ 48
    let read (s : State) : State × Except Nat Nat :=
      match s.pread ((s.keyOf l.key).getD 0) a size with
      | (s, .ok b false) => (s, .ok (leNat b))
      | (s, .ok _ true) => (s, .error 0x0302)
      | (s, .fault st) => (s, .error st)
    match s.onWord x l 0 read with
    | (s, .ok v) =>
      let s := s.endResv x j
      ({ s with resvs := s.resvs ++ [⟨x.k, x.g.num, j, a, size, a / 32, 0⟩] }, .ok (some v))
    | (s, .error st) => (s, .error st)
  else (s, .error 0x0301)

def ll (i : Issue) (size rd ra : Nat) (s : State) : State :=
  s.issue i (regRun ra 2) (regRun rd (sizeRegs size)) fun s x =>
    let r := State.wordEnd (s.wordLanes x .read size rd size (x.addr ra 0) (llLane x size)) x 5
    { r with resvs := r.resvs.map fun (y : Resv) =>
        if y.core = x.k ∧ y.group = x.g.num ∧ bit x.lanes y.lane = true then { y with issued := 0 } else y }

/-- The lane's reservation of the word still holds (R90). -/
def State.holdsResv (s : State) (x : Iss) (j a size : Nat) : Bool :=
  s.resvs.any fun r => decide (r.core = x.k) && decide (r.group = x.g.num) && decide (r.lane = j) && decide (r.addr = a) &&
    decide (r.size = size) && decide (r.issued ≤ 64)

def scLane (x : Iss) (size rv : Nat) (s : State) (j : Nat) (l : Xl) : State × Except Nat (Option Nat) :=
  let a := l.pa % 2 ^ 48
  if s.isLocal l.pa then
    if s.holdsResv x j a size then
      let write (s : State) : State × Except Nat Nat :=
        match s.pwrite ((s.keyOf l.key).getD 0) a (leBytes size (x.regN j rv size)) with
        | (s, 0) => (s, .ok 1)
        | (s, st) => (s, .error st)
      match (s.endResv x j).onWord x l size write with
      | (s, .ok v) => (s, .ok (some v))
      | (s, .error st) => (s, .error st)
    else (s.endResv x j, .ok (some 0))
  else (s, .error 0x0301)

/-- SC: 1 or 0 in `rd`. -/
def sc (i : Issue) (size rd ra rv : Nat) (s : State) : State :=
  s.issue i (regRun ra 2 ++ regRun rv (sizeRegs size)) [rd] fun s x =>
    State.wordEnd (s.wordLanes x .write size rd 4 (x.addr ra 0) (scLane x size rv)) x 5

/-! ### Add-to-line (R177) -/

/-- The sectors whose eight lanes are all active. -/
def fullSectors (lanes : Nat) : Nat := maskOf ((List.range 4).filter fun i => decide (bits lanes (8 * i + 7) (8 * i) = 255))

/-- ADD_TO_LINE: the line is the lowest active lane's, and lane i gives word i of the payload (log entry 46). -/
def addToLine (i : Issue) (ra rp : Nat) (sectors : BitVec 4) (rop : Nat) (exact : Bool) (anchor : Int) (s : State) : State :=
  if 8 < rop then s
  else
    s.issue i (regRun ra 2 ++ [rp]) [] fun s x =>
      let f := lowLane x.lanes
      let va := x.addr ra 0 f / 128 * 128
      let w := x.issuer.who
      match s.xlate x.issuer .atomic va with
      | (s, .error _) => s.laneFault x f 0x0301 4 true va
      | (s, .ok l) =>
        let payload := (List.range 32).flatMap fun j => leBytes 4 (if bit x.lanes j then x.reg j rp else 0)
        let m := sectors.toNat &&& fullSectors x.lanes
        if l.device ∨ region (l.pa % 2 ^ 48) ≠ .hbm then s.laneFault x f 0x0301 4 true va
        else if s.isLocal l.pa then
          let line := l.pa % 2 ^ 48 / 128
          let (rt, s) := (s.l1Flush x.k (l.pa / 128)).nextRTag x.k
          let (s, n, _) := s.once (s.homeQ (l.pa % 2 ^ 48)) rt fun s =>
            let (s, n) := s.addLineAt ⟨(s.keyOf l.key).getD 0, w.ctx, if w.panel < 48 then some w.panel else none, false⟩ line m rop exact
              false anchor payload 0
            (s, n, 0)
          let s := (s.l1Refresh x.k (l.pa / 128) (sectorMask m)).launchStatus x.k n
          ((laneList x.lanes).foldl (fun s j => s.endResv x j) s).next x id
        else if 4 ≤ s.serials x.k x.g.num then s.pathStall x
        else
          (s.remoteAddLine x.c.ctx x.c.func l.pa l.key 0 (BitVec.ofNat 4 m) 0 rop exact anchor payload x.k
            (x.waiter f 0 0 s.nextTag)).next x id

/-! ### Fences (R187 to R189) -/

/-- Earlier accesses of the active lanes that a fence of a scope waits for: reads that have not returned, and for a global one every access
that another package has not acknowledged. -/
def State.fenceOpen (s : State) (x : Iss) (scope : Nat) : Bool :=
  ((s.coreOf x.k).loads.any fun l => decide (l.group = x.g.num) && l.lanes.any fun y => bit x.lanes y.lane) ||
    !(s.laneRemotes x.k x.g.num fun r lane => bit x.lanes lane && (decide (scope = 3) || decide (r.kind = .atomic))).isEmpty

def fenceInstr (i : Issue) (scope : Nat) (s : State) : State :=
  s.issue i [] [] fun s x =>
    if s.fenceOpen x scope then s.pathStall x
    else
      let (s, n) := s.fenceScope x.c.ctx scope
      (s.launchStatus x.k n).next x id

def fenceT (i : Issue) (s : State) : State := fenceInstr i 1 s
def fenceP (i : Issue) (s : State) : State := fenceInstr i 2 s
def fenceG (i : Issue) (s : State) : State := fenceInstr i 3 s

/-! ### L1 maintenance (Table 03-5) -/

/-- The lines that the active lanes' ranges cover. -/
def State.laneLines (s : State) (x : Iss) (ra rl : Nat) : List (Nat × Nat) :=
  (laneList x.lanes).flatMap fun j => s.rangeLines x.issuer (x.regN j ra 8) (x.regN j rl 8)

def l1wb (i : Issue) (ra rl : Nat) (s : State) : State :=
  s.issue i (regRun ra 2 ++ regRun rl 2) [] fun s x => (s.l1Clean x.k (inLines (s.laneLines x ra rl))).next x id

/-- An invalidate completes once the fills that it covers have returned. -/
def State.invDone (s : State) (x : Iss) (q : Nat → Bool) : State := if s.coveredFills x.k q then s.pathStall x else s.next x id

def l1inv (i : Issue) (ra rl : Nat) (s : State) : State :=
  s.issue i (regRun ra 2 ++ regRun rl 2) [] fun s x =>
    let q := inLines (s.laneLines x ra rl)
    (s.l1Drop x.k (fun l => q l.line) q).invDone x q

def l1wbAll (i : Issue) (s : State) : State := s.issue i [] [] fun s x => (s.l1Clean x.k fun _ => true).next x id

def l1invAll (i : Issue) (s : State) : State :=
  s.issue i [] [] fun s x => (s.l1Drop x.k (fun l => !l.locked) fun _ => true).invDone x fun _ => true

def l1lock (i : Issue) (n : Nat) (s : State) : State :=
  if n = 0 ∨ 6 < n then s else s.issue i [] [] fun s x => (s.l1LockDo x.k n x.c.ctx).next x id

/-- L1PRE for one lane: the lines it could not install; a fault of a line is kept. -/
def State.l1PreLane (s : State) (x : Iss) (lane va n : Nat) : State × Nat × Option (Nat × Nat × Nat) :=
  (List.range (if n = 0 then 0 else (va % 128 + n + 127) / 128)).foldl (fun (t : State × Nat × Option (Nat × Nat × Nat)) j =>
    if t.2.2.isSome then t
    else
      let a := va / 128 * 128 + 128 * j
      match t.1.xlate x.issuer .read a with
      | (s, .error _) => (s, t.2.1, some (lane, 0x0301, a))
      | (s, .ok l) =>
        if s.cachedAt .cached l then
          let (s, m) := s.l1PreLine x.k (l.pa / 128) l.key
          (s, t.2.1 + m, none)
        else (s, t.2.1, none)) (s, 0, none)

def l1pre (i : Issue) (rd ra rl : Nat) (s : State) : State :=
  s.issue i (regRun ra 2 ++ regRun rl 2) [rd] fun s x =>
    let (s, a) := (laneList x.lanes).foldl (fun (t : State × Option (Nat × Nat × Nat)) j =>
      if t.2.isSome then t
      else
        match t.1.l1PreLane x j (x.regN j ra 8) (x.regN j rl 8) with
        | (s, m, none) => (s.modGroup x.k x.g.num fun g => g.land j rd 4 m, none)
        | (s, _, some f) => (s, some f)) (s, none)
    match a with
    | some (f, st, at_) => s.laneFault x f st (loadKind x (fun j => x.regN j ra 8) false) false at_
    | none => s.next x id

def l1unlock (i : Issue) (s : State) : State := s.issue i [] [] fun s x => (s.modCore x.k Core.unlock).next x id

end Sys2Proof.Machine
end

