-- ==== Sys2Proof/Machine/CmdCore.lean ====
section
/-! DEFINITION. The meanings of the general cores' instructions (03). -/

namespace Sys2Proof.Machine

/-- R83, R84. -/
def execAluOp (i : Issue) (op : AluOp) (rd : Nat) (a b c : Src) (s : State) : Host.Outcome State Fault Refusal :=
  .next (aluOp i op rd a b c s)

/-- R84. -/
def execConvert (i : Issue) (from_ dest : Nat) (sat stoch : Bool) (rd : Nat) (a index tensor : Src) (s : State) :
    Host.Outcome State Fault Refusal :=
  .next (convert i from_ dest sat stoch rd a index tensor s)

/-- R87. -/
def execBranch (i : Issue) (cond : Nat) (target marker : W64) (s : State) : Host.Outcome State Fault Refusal :=
  .next (branch i cond target marker s)

/-- R91. -/
def execXchPick (i : Issue) (w rd v r : Nat) (s : State) : Host.Outcome State Fault Refusal := .next (xchPick i w rd v r s)

/-- R91. -/
def execXchRot (i : Issue) (w rd v d : Nat) (s : State) : Host.Outcome State Fault Refusal := .next (xchRot i w rd v d s)

/-- R91. -/
def execXchSwap (i : Issue) (w rd v m : Nat) (s : State) : Host.Outcome State Fault Refusal := .next (xchSwap i w rd v m s)

/-- R91. -/
def execXchRev (i : Issue) (w rd v : Nat) (s : State) : Host.Outcome State Fault Refusal := .next (xchRev i w rd v s)

/-- R91. -/
def execTallyAny (i : Issue) (w rd p : Nat) (s : State) : Host.Outcome State Fault Refusal := .next (tallyAny i w rd p s)

/-- R91. -/
def execTallyAll (i : Issue) (w rd p : Nat) (s : State) : Host.Outcome State Fault Refusal := .next (tallyAll i w rd p s)

/-- R91. -/
def execTallyMask (i : Issue) (w rd p : Nat) (s : State) : Host.Outcome State Fault Refusal := .next (tallyMask i w rd p s)

/-- R91. -/
def execTallyCount (i : Issue) (w rd p : Nat) (s : State) : Host.Outcome State Fault Refusal := .next (tallyCount i w rd p s)

/-- R91. -/
def execTallyBelow (i : Issue) (w rd p : Nat) (s : State) : Host.Outcome State Fault Refusal := .next (tallyBelow i w rd p s)

/-- R91. -/
def execTallyLead (i : Issue) (w rd p : Nat) (s : State) : Host.Outcome State Fault Refusal := .next (tallyLead i w rd p s)

/-- R91. -/
def execMeet (i : Issue) (w : Nat) (s : State) : Host.Outcome State Fault Refusal := .next (meet i w s)

/-- R92, R93. -/
def execRdvWait (i : Issue) (r : Nat) (s : State) : Host.Outcome State Fault Refusal := .next (rdvWait i r s)

/-- R92. -/
def execRdvSignal (i : Issue) (r : Nat) (s : State) : Host.Outcome State Fault Refusal := .next (rdvSignal i r s)

/-- R92, R93. -/
def execThreadExit (i : Issue) (s : State) : Host.Outcome State Fault Refusal := .next (threadExit i s)

/-- R88, R94 to R96, R104. -/
def execLoad (i : Issue) (mark : MemMark) (size rd ra : Nat) (off : W64) (s : State) : Host.Outcome State Fault Refusal :=
  .next (load i mark size rd ra off s)

/-- R88, R94 to R96, R99. -/
def execStore (i : Issue) (mark : MemMark) (size rv ra : Nat) (off : W64) (stream : Nat) (s : State) :
    Host.Outcome State Fault Refusal :=
  .next (store i mark size rv ra off stream s)

/-- R89. -/
def execAtomicInstr (i : Issue) (op : AtomOp) (size rd ra rb rc : Nat) (s : State) : Host.Outcome State Fault Refusal :=
  .next (atomicInstr i op size rd ra rb rc s)

/-- R90. -/
def execLl (i : Issue) (size rd ra : Nat) (s : State) : Host.Outcome State Fault Refusal := .next (ll i size rd ra s)

/-- R90. -/
def execSc (i : Issue) (size rd ra rv : Nat) (s : State) : Host.Outcome State Fault Refusal := .next (sc i size rd ra rv s)

/-- R177. -/
def execAddToLine (i : Issue) (ra rp : Nat) (sectors : BitVec 4) (rop : Nat) (exact : Bool) (anchor : Int) (s : State) :
    Host.Outcome State Fault Refusal :=
  .next (addToLine i ra rp sectors rop exact anchor s)

/-- R187. -/
def execFenceT (i : Issue) (s : State) : Host.Outcome State Fault Refusal := .next (fenceT i s)

/-- R187. -/
def execFenceP (i : Issue) (s : State) : Host.Outcome State Fault Refusal := .next (fenceP i s)

/-- R187, R188. -/
def execFenceG (i : Issue) (s : State) : Host.Outcome State Fault Refusal := .next (fenceG i s)

/-- R106. -/
def execL1wb (i : Issue) (ra rl : Nat) (s : State) : Host.Outcome State Fault Refusal := .next (l1wb i ra rl s)

/-- R106, R107. -/
def execL1inv (i : Issue) (ra rl : Nat) (s : State) : Host.Outcome State Fault Refusal := .next (l1inv i ra rl s)

/-- R106. -/
def execL1wbAll (i : Issue) (s : State) : Host.Outcome State Fault Refusal := .next (l1wbAll i s)

/-- R106, R107. -/
def execL1invAll (i : Issue) (s : State) : Host.Outcome State Fault Refusal := .next (l1invAll i s)

/-- R103. -/
def execL1lock (i : Issue) (n : Nat) (s : State) : Host.Outcome State Fault Refusal := .next (l1lock i n s)

/-- R103. -/
def execL1pre (i : Issue) (rd ra rl : Nat) (s : State) : Host.Outcome State Fault Refusal := .next (l1pre i rd ra rl s)

/-- R103. -/
def execL1unlock (i : Issue) (s : State) : Host.Outcome State Fault Refusal := .next (l1unlock i s)

/-- R104, R107. -/
def execL1FillReturn (die core line : Nat) (s : State) : Host.Outcome State Fault Refusal :=
  .next (l1FillReturn die core line s)

/-- R105. -/
def execEvictionDrain (die core : Nat) (s : State) : Host.Outcome State Fault Refusal := .next (evictionDrain die core s)

end Sys2Proof.Machine
end

