-- ==== Sys2Proof/Machine/CmdDebug.lean ====
section
/-! DEFINITION. The meanings of the debug rows (14.8). -/

namespace Sys2Proof.Machine

/-- R461, R462. -/
def execDbgHaltGroup (die core group : Nat) (s : State) : Host.Outcome State Fault Refusal :=
  .next (dbgHaltGroup die core group s)

/-- R461, R462. -/
def execDbgHaltCore (die core : Nat) (s : State) : Host.Outcome State Fault Refusal := .next (dbgHaltCore die core s)

/-- R461, R462. -/
def execDbgResumeGroup (die core group : Nat) (s : State) : Host.Outcome State Fault Refusal :=
  .next (dbgResumeGroup die core group s)

/-- R461, R462. -/
def execDbgResumeCore (die core : Nat) (s : State) : Host.Outcome State Fault Refusal := .next (dbgResumeCore die core s)

/-- R461, R462. -/
def execDbgStepGroup (die core group : Nat) (s : State) : Host.Outcome State Fault Refusal :=
  .next (dbgStepGroup die core group s)

/-- R461. -/
def execDbgRegAccess (wr : Bool) (value : W32) (s : State) : Host.Outcome State Fault Refusal := .next (dbgRegAccess wr value s)

/-- R463. -/
def execDbgStepGo (t : Nat) (s : State) : Host.Outcome State Fault Refusal := .next (dbgStepGo t s)

/-- R461. -/
def execLcHaltEnable (on : Bool) (s : State) : Host.Outcome State Fault Refusal := .next (lcHaltEnable on s)

/-- R461. -/
def execLcHaltActivate (s : State) : Host.Outcome State Fault Refusal := .next (lcHaltActivate s)

/-- R462. -/
def execHaltDeferTimeout (die core group : Nat) (s : State) : Host.Outcome State Fault Refusal :=
  .next (haltDeferTimeout die core group s)

end Sys2Proof.Machine
end

