-- ==== Sys2Proof/Machine/CmdHbm.lean ====
section
/-! DEFINITION. The meanings of the HBM, key and repair rows (04). -/

namespace Sys2Proof.Machine

/-- R133: refresh and refresh management have no architectural effect beyond their count. -/
def execHbmRefresh (h pc : Nat) (allBank rfm : Bool) (s : State) : Host.Outcome State Fault Refusal :=
  .next (hbmRefresh h pc allBank rfm s)

/-- R125. -/
def execHbmRecentre (h pc : Nat) (s : State) : Host.Outcome State Fault Refusal := .next (hbmRecentre h pc s)

/-- R131, R132: one sector of the patrol. -/
def execPatrolScrub (h sector pc bank row : Nat) (ecc : EccEvent) (s : State) : Host.Outcome State Fault Refusal :=
  .next (patrolScrub h sector pc bank row ecc s)

/-- R124. -/
def execStackOutOfService (h : Nat) (s : State) : Host.Outcome State Fault Refusal := .next (s.stackOut h)

/-- R141: each key operation as `HBM_KEY_CTL` performs it. -/
def execKeyGenerate (slot : Nat) (s : State) : Host.Outcome State Fault Refusal := .next (s.keyOp 1 slot)

def execKeyErase (slot : Nat) (s : State) : Host.Outcome State Fault Refusal := .next (s.keyOp 2 slot)

def execKeyImport (slot : Nat) (s : State) : Host.Outcome State Fault Refusal := .next (s.keyOp 3 slot)

def execKeyExport (slot : Nat) (s : State) : Host.Outcome State Fault Refusal := .next (s.keyOp 4 slot)

/-- R145 to R147, by `HBM_REPAIR_CMD`. -/
def execSoftPpr (h pc bank row : Nat) (s : State) : Host.Outcome State Fault Refusal := .next (s.repairCmd h 1 pc bank row)

def execHardPprAdd (h pc bank row : Nat) (s : State) : Host.Outcome State Fault Refusal := .next (s.repairCmd h 2 pc bank row)

def execHardPprRemove (h pc bank row : Nat) (s : State) : Host.Outcome State Fault Refusal :=
  .next (s.repairCmd h 3 pc bank row)

/-- R149. -/
def execSwatchStart (h : Nat) (s : State) : Host.Outcome State Fault Refusal := .next (swStart s h)

/-- R153: a stop ends the run where it stands. -/
def execSwatchStop (h : Nat) (s : State) : Host.Outcome State Fault Refusal := .next (swDone s h)

def execSwatchDone (h : Nat) (s : State) : Host.Outcome State Fault Refusal := .next (swDone s h)

end Sys2Proof.Machine
end

