-- ==== Sys2Proof/Machine/Approx.lean ====
section
/-! DEFINITION. The accuracy that Table 02-4 states for the built-in activation functions: a value within it of the exact function, which
is computed here far more closely than the table asks. The constants are numbers of 2^-160. -/

namespace Sys2Proof.Machine

/-- ln 2. -/
def ln2Fix : Int := 1013035739299659071135698605846798551586536899366

/-- 2 √(2/π), the factor of the tanh form of GELU within a sigmoid (log entry 128). -/
def geluFix : Int := 2332219184028872162936766921774799528781383630017

def Dyad.fix (d : Dyad) : Int := (d.floorAt (-160)).1

/-- Terms of the exponential series in r, from the last to the first. -/
def expSeries (r : Int) : Nat → Int → Int
  | 0, t => t
  | i + 1, t => expSeries r i (2 ^ 160 + (r * t).fdiv (2 ^ 160 * ((i : Int) + 1)))

/-- e^x for x in numbers of 2^-160, below 200 in magnitude. -/
def expFix (x : Int) : Dyad :=
  let n := x.fdiv ln2Fix
  ⟨expSeries (x - n * ln2Fix) 40 (2 ^ 160), n - 160⟩

/-- 1 / (1 + e^-x), in numbers of 2^-160; beyond 200 it is 0 or 1 more closely than any format shows. -/
def sigmoidFix (x : Dyad) : Int :=
  if (Dyad.mk 200 0).le x then 2 ^ 160
  else if x.le ⟨-200, 0⟩ then 0
  else ((2 ^ 320 : Int)).fdiv (2 ^ 160 + (expFix (-x.fix)).fix)

/-- tanh x = 2 σ(2x) − 1. -/
def tanhFix (x : Dyad) : Int := 2 * sigmoidFix ⟨x.m, x.e + 1⟩ - 2 ^ 160

/-- The tanh form of GELU, x σ(2 √(2/π) (x + 0.044715 x³)); from 64 on it is x, and 0 from −64 down. -/
def geluD (x : Dyad) : Dyad :=
  if (Dyad.mk 64 0).le x then x
  else if x.le ⟨-64, 0⟩ then Dyad.zero
  else
    let f := x.fix
    let cube := (f * f * f).fdiv (2 ^ 320)
    let u := (geluFix * (f + (44715 * cube).fdiv 1000000)).fdiv (2 ^ 160)
    x.mul ⟨sigmoidFix ⟨u, -160⟩, -160⟩

/-- The exact functions 2 to 5 of Table 02-4. -/
def actExact (t : Nat) (x : Dyad) : Dyad :=
  match t with
  | 2 => geluD x
  | 3 => x.mul ⟨sigmoidFix x, -160⟩
  | 4 => ⟨sigmoidFix x, -160⟩
  | _ => ⟨tanhFix x, -160⟩

def Dyad.abs (d : Dyad) : Dyad := ⟨d.m.natAbs, d.e⟩

/-- Within 2^-20 relative or 2^-24 absolute, whichever is larger. -/
def nearEnough (y w : Dyad) : Bool :=
  let d := (w.add y.neg).abs
  d.le ⟨1, -24⟩ || d.le ⟨y.abs.m, y.e - 20⟩

/-- The FP32 value `w` where it is a finite one within the accuracy, and else the nearest FP32 value. -/
def withinAccuracy (y : Dyad) (w : Nat) : Nat :=
  match fdecode fp32 w with
  | .fin neg m e => if nearEnough y (FVal.fin neg m e).dyad then w else froundD fp32 y
  | _ => froundD fp32 y

/-- Functions 2 to 5 at a finite input, from a free value. -/
def actNear (t : Nat) (x : Dyad) (w : Nat) : Nat := withinAccuracy (actExact t x) w

/-- The exponential at a finite input, from a free value; a result beyond the FP32 range is the FP32 maximum. -/
def expNear (x : Dyad) (w : Nat) : Nat :=
  if (Dyad.mk 200 0).le x then fp32.maxFinite false
  else
    let y := if x.le ⟨-200, 0⟩ then Dyad.zero else expFix x.fix
    if y.le ⟨2 ^ 24 - 1, 104⟩ then withinAccuracy y w else fp32.maxFinite false

end Sys2Proof.Machine
end

