-- ==== Sys2Proof/Machine/GemmArith.lean ====
section
/-! DEFINITION. The arithmetic of the matrix arrays (02.3 to 02.6): legal pairs, exact windows, ordered accumulation, the epilogue,
activation tables and statistics. FP32 values are numbers of 32 bits. -/

namespace Sys2Proof.Machine

/-! ### Legal pairs (Table 02-3) -/

inductive Accum where
  | exact | int | ordered | threePass
  deriving DecidableEq, Repr

def isLow4 (c : Nat) : Bool := decide (c = 9) || decide (c = 11)
def isMid (c : Nat) : Bool := decide (3 ≤ c) && decide (c ≤ 8) || decide (c = 10)

/-- MACs per cell per beat and the accumulation of a pair; none for an illegal one. FP32 runs three passes at 2. -/
def pairOf (a b : Nat) : Option (Nat × Accum) :=
  if isLow4 a then (if isLow4 b then some (8, .exact) else if isMid b then some (4, .exact) else none)
  else if isMid a then (if isLow4 b || isMid b then some (4, .exact) else none)
  else if a = 12 then (if b = 12 ∨ b = 13 then some (4, .int) else none)
  else if a = 1 then (if b = 1 ∨ isLow4 b ∨ isMid b ∨ b = 12 ∨ b = 13 then some (2, .ordered) else none)
  else if a = 2 then (if b = 2 then some (2, .ordered) else none)
  else if a = 0 then (if b = 0 then some (2, .threePass) else none)
  else none

/-- R74: compute beats. -/
def computeBeats (a b m n k : Nat) : Nat :=
  match pairOf a b with
  | some (kb, .threePass) => 3 * (ceilDiv m 256 * ceilDiv n 256 * ceilDiv k kb)
  | some (kb, _) => ceilDiv m 256 * ceilDiv n 256 * ceilDiv k kb
  | none => 0

/-! ### Products -/

/-- An exact product; Inf × 0 is NaN. -/
def fprod (a b : FVal) : FVal :=
  match a, b with
  | .nan, _ => .nan
  | _, .nan => .nan
  | .inf x, .inf y => .inf (x != y)
  | .inf x, .fin y m _ => if m = 0 then .nan else .inf (x != y)
  | .fin x m _, .inf y => if m = 0 then .nan else .inf (x != y)
  | .fin x ma ea, .fin y mb eb => .fin (x != y) (ma * mb) (ea + eb)

/-! ### Exact mode (R46 to R50) -/

/-- R46: the largest unbiased scale of the blocks that are not NaN. -/
def anchorOf (l : List El) : Int :=
  ((l.filter fun e => !e.bad).map fun e => e.scale).foldl
    (fun (o : Option Int) x => some (match o with
      | some y => max x y
      | none => x)) none |>.getD 0

/-- The window of an output element and its sticky flags. -/
structure Win where
  acc : Int
  nan : Bool
  pinf : Bool
  ninf : Bool
  inexact : Bool
  deriving DecidableEq, Repr

def Win.zero : Win := ⟨0, false, false, false, false⟩

/-- Add one product to a window whose least significant bit has weight 2^lsb. -/
def Win.add (w : Win) (lsb : Int) (a b : El) : Win :=
  if a.bad || b.bad then { w with nan := true }
  else match fprod a.v b.v with
    | .nan => { w with nan := true }
    | .inf neg => if neg then { w with ninf := true } else { w with pinf := true }
    | .fin neg m e =>
      let q := (FVal.fin neg m (e + a.scale + b.scale)).dyad.floorAt lsb
      { w with acc := w.acc + q.1, inexact := w.inexact || !q.2 }

def windowOf (lsb : Int) (a b : List El) : Win := (a.zip b).foldl (fun w p => w.add lsb p.1 p.2) Win.zero

/-- R49: the window's value as FP32. -/
def Win.value (w : Win) (lsb : Int) : Nat :=
  if w.nan || (w.pinf && w.ninf) then fp32.nan
  else if w.pinf then fp32.inf false
  else if w.ninf then fp32.inf true
  else froundD fp32 ⟨w.acc, lsb⟩

/-! ### Ordered accumulation (R51 to R53) -/

/-- Two exact products summed and rounded once. -/
def pairSum (x y : FVal) : Nat :=
  match x, y with
  | .nan, _ => fp32.nan
  | _, .nan => fp32.nan
  | .inf a, .inf b => if a = b then fp32.inf a else fp32.nan
  | .inf a, _ => fp32.inf a
  | _, .inf b => fp32.inf b
  | .fin a m e, .fin b k f =>
    let d := (FVal.fin a m e).dyad.add (FVal.fin b k f).dyad
    if d.m = 0 then (if a && b then 2 ^ 31 else 0) else froundD fp32 d

/-- s_0, s_1, … of R51. -/
def pairSums : List FVal → List Nat
  | [] => []
  | [x] => [pairSum x (.fin false 0 0)]
  | x :: y :: t => pairSum x y :: pairSums t

/-- Continue an accumulator, or begin it with the first term. -/
def chain (acc : Option Nat) (l : List Nat) : Option Nat :=
  l.foldl (fun o x => some (match o with
    | some y => faddR fp32 fp32.nan y x
    | none => x)) acc

def products (a b : List FVal) : List FVal := (a.zip b).map fun p => fprod p.1 p.2

def orderedDot (a b : List FVal) : Nat := (chain none (pairSums (products a b))).getD 0

/-- R52: the high and low parts of an FP32 operand. -/
def split32 (x : Nat) : FVal × FVal :=
  let h := fdecode bf16 (x / 2 ^ 16)
  match fdecode fp32 x with
  | .fin neg m e =>
    let d := (FVal.fin neg m e).dyad.add h.dyad.neg
    (h, fdecode bf16 (if d.m = 0 then 0 else froundD bf16 d))
  | _ => (h, .fin false 0 0)

def threePassDot (a b : List Nat) : Nat :=
  let sa := a.map split32
  let sb := b.map split32
  let hi (l : List (FVal × FVal)) : List FVal := l.map fun p => p.1
  let lo (l : List (FVal × FVal)) : List FVal := l.map fun p => p.2
  let o := chain none (pairSums (products (hi sa) (hi sb)))
  let o := chain o (pairSums (products (hi sa) (lo sb)))
  (chain o (pairSums (products (lo sa) (hi sb)))).getD 0

/-- R53: a weight decoded to BF16, and whether that rounded. -/
def decodeBf16 (e : El) : FVal × Bool :=
  if e.bad then (.nan, false)
  else match e.v.scaled e.scale with
    | .fin neg m x =>
      let v := fdecode bf16 (fround bf16 neg m x)
      (v, match v with
        | .fin a k f => decide (((FVal.fin a k f).dyad.add (FVal.fin neg m x).dyad.neg).m ≠ 0)
        | _ => true)
    | v => (v, false)

/-! ### One accumulated element -/

/-- An accumulated value: FP32 bits, the exact integer of an integer pair, whether bits were discarded. -/
structure AccOut where
  v : Nat
  i : Int
  inexact : Bool
  deriving DecidableEq, Repr

def accumulate (bf : Nat) (k : Accum) (a b : List El) : AccOut :=
  match k with
  | .exact =>
    let lsb : Int := anchorOf a + anchorOf b - 70
    let w := windowOf lsb a b
    ⟨w.value lsb, 0, w.inexact⟩
  | .int =>
    let w := windowOf 0 a b
    ⟨froundD fp32 ⟨w.acc, 0⟩, w.acc, false⟩
  | .ordered =>
    if bf = 1 ∨ bf = 2 then ⟨orderedDot (a.map fun e => e.v) (b.map fun e => e.v), 0, false⟩
    else
      let d := b.map decodeBf16
      ⟨orderedDot (a.map fun e => e.v) (d.map fun p => p.1), 0, d.any fun p => p.2⟩
  | .threePass => ⟨threePassDot (a.map fun e => e.raw) (b.map fun e => e.raw), 0, false⟩

/-! ### The post-processor (R56 to R60) -/

def mulF (a b : Nat) : Nat := fmulR fp32 fp32.nan a b
def addF (a b : Nat) : Nat := faddR fp32 fp32.nan a b
def negF (a : Nat) : Nat := if bit a 31 then a - 2 ^ 31 else a + 2 ^ 31

/-- a ≤ b as numbers; the zeros are equal and a NaN compares with nothing. -/
def leF (a b : Nat) : Bool :=
  match fdecode fp32 a, fdecode fp32 b with
  | .nan, _ => false
  | _, .nan => false
  | .inf x, .inf y => x || !y
  | .inf x, _ => x
  | _, .inf y => !y
  | .fin s m e, .fin t k f => (FVal.fin s m e).dyad.le (FVal.fin t k f).dyad

/-- Table 02-4: what an identifier gives at −Inf, +Inf and NaN, for tables 2 to 6. -/
def actLimit (t : Nat) : FVal → Option Nat
  | .nan => some fp32.nan
  | .inf true => some (if t = 2 ∨ t = 3 then 2 ^ 31 else if t = 5 then 0xBF800000 else 0)
  | .inf false => some (if t = 4 ∨ t = 5 then 0x3F800000 else fp32.inf false)
  | .fin _ _ _ => none

/-- The entry of a loaded table at byte `off` of segment `i`. -/
def segField (b : List Byte) (i off : Nat) : Nat := leAt b (32 * i + off) 4

/-- R57: a loaded table's value at x. -/
def tableAct (b : List Byte) (x : Nat) : Nat :=
  if isNan fp32 x then fp32.nan
  else
    let i := ((List.range (b.length / 32)).filter fun i => leF (segField b i 0) x).getLast?.getD 0
    let t := addF x (negF (segField b i 4))
    let c (j : Nat) : Nat := segField b i (8 + 4 * j)
    addF (mulF (addF (mulF (addF (mulF (c 3) t) (c 2)) t) (c 1)) t) (c 0)

/-- Table 6, the exponential: within the accuracy of Table 02-4 at a finite input, a free value (log entry 128). -/
def expAct (x : Nat) : Nat := (actLimit 6 (fdecode fp32 x)).getD (expNear (fdecode fp32 x).dyad (Config.expFn (w32 x)).toNat)

/-- R57, R58: act(v) for an identifier; `slots`: the panel's loaded tables. -/
def actValue (slots : Tab (List Byte)) (t v : Nat) : Nat :=
  if t = 0 then v
  else if t = 1 then (if isNan fp32 v then fp32.nan else if bit v 31 then 0 else v)
  else if t = 6 then expAct v
  else if t < 7 then (actLimit t (fdecode fp32 v)).getD (actNear t (fdecode fp32 v).dyad (Config.actFn t (w32 v)).toNat)
  else tableAct (tgetD slots (t - 8) []) v

/-- R60: Σ of a list from its first term. -/
def sumF : List Nat → Nat
  | [] => 0
  | x :: t => t.foldl addF x

/-- R60: the record of a group of values. -/
def statsRecord (l : List Nat) : List Byte :=
  let mx := match l with
    | [] => 0
    | x :: t => t.foldl (fmaxR fp32) (if isNan fp32 x then fp32.nan else x)
  let se := if mx = fp32.inf true then 0 else sumF (l.map fun v => expAct (addF v (negF mx)))
  leBytes 4 mx ++ leBytes 4 se ++ leBytes 4 (sumF l) ++ leBytes 4 (sumF (l.map fun v => mulF v v))

/-- What the epilogue does to an element: each factor where its step is enabled (R56). -/
structure Epi where
  col : Option Nat
  row : Option Nat
  bias : Option Nat
  act : Nat
  resid : Option Nat
  mul : Bool
  deriving DecidableEq, Repr

def epilogue (slots : Tab (List Byte)) (e : Epi) (v : Nat) : Nat :=
  let step (o : Option Nat) (f : Nat → Nat → Nat) (v : Nat) : Nat := match o with
    | some x => f v x
    | none => v
  let v := step e.bias addF (step e.row mulF (step e.col mulF v))
  step e.resid (if e.mul then mulF else addF) (actValue slots e.act v)

/-- R50: an INT32 output and whether it saturated. -/
def satInt32 (i : Int) : Nat × Bool :=
  if i < -(2 ^ 31) then (2 ^ 31, true) else if 2 ^ 31 - 1 < i then (2 ^ 31 - 1, true) else ((i % 2 ^ 32).toNat, false)

end Sys2Proof.Machine
end

