-- ==== Sys2Proof/Machine/Gemm.lean ====
section
/-! DEFINITION. Matrix commands (02.6 to 02.8): GEMM with its checks, operands, outputs, statistics and poison, and
ACT_TABLE_LOAD. -/

namespace Sys2Proof.Machine

/-! ### Fields (Tables 02-5 to 02-7) -/

def gM (r : List Byte) : Nat := leAt r 48 4
def gN (r : List Byte) : Nat := leAt r 52 4
def gK (r : List Byte) : Nat := leAt r 56 4
def gA (r : List Byte) : Nat := bits (leAt r 60 2) 3 0
def gB (r : List Byte) : Nat := bits (leAt r 60 2) 7 4
def gC (r : List Byte) : Nat := bits (leAt r 60 2) 11 8
def gAct (r : List Byte) : Nat := leAt r 62 1
def gOpt (r : List Byte) (i : Nat) : Bool := bit (leAt r 63 1) i
def gSat (r : List Byte) : Bool := bit (leAt r 61 1) 4
def gStoch (r : List Byte) : Bool := bit (leAt r 61 1) 5
def gKsplit (r : List Byte) : Nat := if hExpert r then leAt r 77 1 else 1

/-- Elements from one row of a plane to the next: the pitch of the expert form at byte `off`, else the row itself. -/
def gPitch (r : List Byte) (off k : Nat) : Nat := if hExpert r then leAt r off 4 else k

def gHasBlocks (r : List Byte) : Bool := isBlock (gA r) || isBlock (gB r) || isBlock (gC r)

/-- R70: an auxiliary descriptor is required. -/
def gNeedsAux (r : List Byte) : Bool :=
  gHasBlocks r || gOpt r 0 || gOpt r 1 || gOpt r 2 || gOpt r 3 || gOpt r 5 || gStoch r

/-! ### Checks (R45, R50, R54, R58, R67, R71, R73) -/

/-- R71: a pitch below the row, or one at which a row would not start on a byte. -/
def pitchBad (c k p : Nat) : Bool :=
  decide (p < k) || (decide (elemBits c = 4) && decide (p % 2 ≠ 0)) || (decide (elemBits c = 6) && decide (p % 4 ≠ 0))

def gKb (r : List Byte) : Nat := ((pairOf (gA r) (gB r)).map fun p => p.1).getD 1

/-- R71: bytes of a staging area of `rows` × `cols` elements. -/
def areaBytes (c rows cols : Nat) : Nat :=
  ceilDiv (rows * cols * elemBits c / 8 + rows * (cols / 32) * scaleBytes c) 4096 * 4096

/-- The staging areas in use: offset and size. -/
def stagingAreas (r : List Byte) : List (Nat × Nat) :=
  let m := leAt r 104 2
  let n := leAt r 106 2
  let k := leAt r 108 4
  [(leAt r 88 4, areaBytes (gA r) m k), (leAt r 92 4, areaBytes (gB r) n k), (leAt r 96 4, areaBytes (gC r) m n)] ++
    if 1 < gKsplit r then [(leAt r 100 4, 16 * m * n)] else []

/-- Two areas of a list overlap. -/
def areasOverlap : List (Nat × Nat) → Bool
  | [] => false
  | x :: t => (t.any fun y => decide (x.1 < y.1 + y.2) && decide (y.1 < x.1 + x.2)) || areasOverlap t

def gemmExpertChecks (s : State) (cfg : Settings) (p : Nat) (r : List Byte) : List (Bool × Nat) :=
  let mask := leAt r 80 6
  let kb := gKb r
  let m := leAt r 104 2
  let n := leAt r 106 2
  let k := leAt r 108 4
  let ordered := match pairOf (gA r) (gB r) with
    | some (_, .ordered) | some (_, .threePass) => true
    | _ => false
  [(nonzero r 78 80 || nonzero r 86 88 || nonzero r 113 128, 0x0102),
   (pitchBad (gA r) (gK r) (leAt r 64 4) || pitchBad (gB r) (gK r) (leAt r 68 4) || pitchBad (gC r) (gN r) (leAt r 72 4), 0x0102),
   (decide (leAt r 76 1 ≠ 1) && decide (leAt r 76 1 ≠ 2) || decide (1 < leAt r 112 1) || decide (mask = 0), 0x0102),
   (decide (gKsplit r = 0) || decide (12 < gKsplit r) || decide ((maskBits mask 48).length < gKsplit r) ||
     (decide (1 < gKsplit r) && ordered), 0x0102),
   (decide (leAt r 88 4 % 4096 ≠ 0) || decide (leAt r 92 4 % 4096 ≠ 0) || decide (leAt r 96 4 % 4096 ≠ 0), 0x0102),
   (decide (m = 0) || decide (m % 256 ≠ 0) || decide (n = 0) || decide (n % 256 ≠ 0) || decide (k = 0) || decide (k % (32 * kb) ≠ 0) ||
     decide (4096 * kb < k), 0x0102),
   ((stagingAreas r).any fun a => (maskBits mask 48).any fun t => decide (cfg.userMib t * 0x100000 < a.1 + a.2), 0x0102),
   (areasOverlap (stagingAreas r), 0x0102),
   ((maskBits mask 48).any fun t => !(s.tilePresent t) || decide ((s.tile t).owner ≠ some p), 0x0104)]

/-- The tiles that a GEMM of panel p may use: TILE_MASK, or for a basic form the panel's tiles, for LC those of LC_TILES, whose
managed portion has at least 8 MiB (R67, R245). -/
def State.gemmTiles (s : State) (cfg : Settings) (p : Nat) (r : List Byte) : List Nat :=
  if hExpert r then maskBits (leAt r 80 6) 48
  else (maskBits (if hLc r then (cfg.panel p).lcTiles else tgetD (s.panels.map fun e => (e.1, e.2.tiles)) p 0) 48).filter fun t =>
    s.tilePresent t && decide (cfg.userMib t ≤ 24)

/-- R73, for a command of panel p under the settings of an epoch. -/
def gemmChecks (s : State) (cfg : Settings) (p : Nat) (r : List Byte) : List (Bool × Nat) :=
  let big (x : Nat) : Bool := decide (x = 0) || decide (16777216 < x)
  let slots := ((tget s.panels p).map fun x => x.actSlots).getD []
  let int := match pairOf (gA r) (gB r) with
    | some (_, .int) => true
    | _ => false
  [(nzBits r 61 7 6 || nzBits r 63 7 7, 0x0102),
   ((pairOf (gA r) (gB r)).isNone || decide (gC r = 13) || decide (gC r = 15), 0x0102),
   (big (gM r) || big (gN r) || big (gK r), 0x0102),
   (decide (leAt r 16 8 % 64 ≠ 0) || decide (leAt r 24 8 % 64 ≠ 0) || decide (leAt r 32 8 % 64 ≠ 0) || decide (leAt r 40 8 % 64 ≠ 0), 0x0102),
   ((isBlock (gA r) || isBlock (gB r)) && decide (gK r % 32 ≠ 0) || isBlock (gC r) && decide (gN r % 32 ≠ 0) ||
     decide (gB r = 13) && decide (gK r % 2 ≠ 0), 0x0102),
   (decide (gC r = 14) && (!int || decide (gAct r ≠ 0) || gOpt r 0 || gOpt r 1 || gOpt r 2 || gOpt r 3 || gOpt r 5 || gStoch r), 0x0102),
   (decide (gAct r = 7) || decide (11 < gAct r) || (decide (8 ≤ gAct r) && !(thas slots (gAct r - 8))), 0x0102),
   (gNeedsAux r && decide (leAt r 40 8 = 0), 0x0102),
   (!(hExpert r) && decide (s.gemmTiles cfg p r = []), 0x0104)] ++
    if hExpert r then gemmExpertChecks s cfg p r else []

/-! ### The auxiliary descriptor (R70) -/

/-- The features whose addresses stand at 0, 8, … of the descriptor. -/
def auxUses (r : List Byte) : List Bool :=
  [isBlock (gA r), isBlock (gB r), isBlock (gC r), gOpt r 0, gOpt r 1, gOpt r 2, gOpt r 3, gOpt r 5]

def auxBad (r a : List Byte) : Bool :=
  nonzero a 68 128 || (auxUses r).zipIdx.any fun u =>
    let x := leAt a (8 * u.2) 8
    decide (x % 64 ≠ 0) || (!u.1 && decide (x ≠ 0))

/-! ### Operands -/

/-- The virtual ranges of a plane's rows: where row i begins and its bytes. -/
def planeRow (base pitch cols c i : Nat) : Nat × Nat := ((base + i * (pitch * elemBits c / 8)) % 2 ^ 64, cols * elemBits c / 8)

def scaleRow (base cols c i : Nat) : Nat × Nat := (base + i * (cols / 32 * scaleBytes c), cols / 32 * scaleBytes c)

/-- The format of the residual: C_FMT when that is FP32, BF16 or FP16, and BF16 otherwise. -/
def residFmt (r : List Byte) : Nat := if gC r < 3 then gC r else 1

/-- Every range that a GEMM reads, apart from the descriptor. -/
def gemmReads (r a : List Byte) : List (Nat × Nat) :=
  let rows (base off k c n : Nat) : List (Nat × Nat) := (List.range n).map (planeRow base (gPitch r off k) k c)
  rows (leAt r 16 8) 64 (gK r) (gA r) (gM r) ++ rows (leAt r 24 8) 68 (gK r) (gB r) (gN r) ++
    [(leAt a 0 8, gM r * (gK r / 32) * scaleBytes (gA r)), (leAt a 8 8, gN r * (gK r / 32) * scaleBytes (gB r)),
     (leAt a 24 8, if gOpt r 0 then 4 * gN r else 0), (leAt a 32 8, if gOpt r 1 then 4 * gN r else 0),
     (leAt a 40 8, if gOpt r 2 then 4 * gM r else 0),
     (leAt a 48 8, if gOpt r 3 then gM r * gN r * (elemBits (residFmt r) / 8) else 0)]

/-- Every range that it writes. -/
def gemmWrites (r a : List Byte) : List (Nat × Nat) :=
  ((List.range (gM r)).map (planeRow (leAt r 32 8) (gPitch r 72 (gN r)) (gN r) (gC r))) ++
    [(leAt a 16 8, gM r * (gN r / 32) * scaleBytes (gC r)), (leAt a 56 8, if gOpt r 5 then gM r * ceilDiv (gN r) 256 * 16 else 0)]

/-- A row of an operand with its scales: the elements, and what the read came to. -/
structure OpRow where
  els : List El
  poison : Bool
  fault : Option XFault
  deriving DecidableEq, Repr

def Rd.both (a b : Rd) : Bool × Option XFault :=
  (a.poison || b.poison, match a.fault with
    | some f => some f
    | none => b.fault)

/-- Read the rows of an operand. -/
def State.readOperand (s : State) (id : Nat) (iss : Issuer) (base pitch k c scale n : Nat) : State × List OpRow :=
  (List.range n).foldl (fun (x : State × List OpRow) i =>
    let p := planeRow base pitch k c i
    let q := scaleRow scale k c i
    let (s, d) := x.1.cmdRead id iss p.1 p.2
    let (s, e) := s.cmdRead id iss q.1 q.2
    let (po, f) := d.both e
    (s, x.2 ++ [⟨rowEls c k d.bytes e.bytes, po, f⟩])) (s, [])

/-- One FP32 value, or one of a format, of a vector that is read where its step is enabled: its bits, poison and fault. -/
structure Side where
  v : Nat
  poison : Bool
  fault : Option XFault
  deriving DecidableEq, Repr

def State.readSides (s : State) (id : Nat) (iss : Issuer) (on : Bool) (base c n : Nat) : State × List Side :=
  if on then
    let w := elemBits c / 8
    (List.range n).foldl (fun (x : State × List Side) i =>
      let (s, d) := x.1.cmdRead id iss (base + w * i) w
      (s, x.2 ++ [⟨fencode fp32 (fdecode (if c = 0 then fp32 else if c = 2 then fp16 else bf16) (leNat d.bytes)), d.poison, d.fault⟩]))
      (s, [])
  else (s, [])

/-! ### Outputs -/

/-- An element of the output: its value before conversion (or the exact integer), whether poison reached it. -/
structure OutEl where
  v : Nat
  i : Int
  poison : Bool
  inexact : Bool
  deriving DecidableEq, Repr

/-- Everything a GEMM has read. -/
structure GemmIn where
  a : List OpRow
  b : List OpRow
  bias : List Side
  col : List Side
  row : List Side
  resid : List Side
  slots : Tab (List Byte)
  kctx : Nat
  tensor : Nat
  deriving DecidableEq, Repr

def sideV (l : List Side) (i : Nat) : Option Nat := l[i]?.map fun x => x.v
def sideP (l : List Side) (i : Nat) : Bool := (l[i]?.map fun x => x.poison).getD false

/-- R46 to R56: element (i, j) up to the end of the epilogue. -/
def gemmEl (r : List Byte) (g : GemmIn) (i j : Nat) (a b : OpRow) : OutEl :=
  let k := ((pairOf (gA r) (gB r)).map fun p => p.2).getD .exact
  let x := accumulate (gB r) k a.els b.els
  let e : Epi := {
    col := sideV g.col j, row := sideV g.row i, bias := sideV g.bias j, act := gAct r, resid := sideV g.resid (i * gN r + j),
    mul := gOpt r 4 }
  ⟨if gC r = 14 then 0 else epilogue g.slots e x.v, x.i,
    a.poison || b.poison || sideP g.col j || sideP g.row i || sideP g.bias j || sideP g.resid (i * gN r + j), x.inexact⟩

def gemmRowEls (r : List Byte) (g : GemmIn) (i : Nat) (a : OpRow) : List OutEl :=
  g.b.zipIdx.map fun b => gemmEl r g i b.2 a b.1

/-- A row's element codes, scale entries, whether an element overflowed, and where poison reached it: whole blocks in a block
format. `free`: the number of the row's first free value. -/
structure OutRow where
  codes : List Nat
  scales : List Nat
  overflow : Bool
  poison : List Bool
  deriving DecidableEq, Repr

def rounding (r : List Byte) (g : GemmIn) (i j : Nat) : Option Nat :=
  if gStoch r then some (roundBits g.kctx g.tensor (i * gN r + j)) else none

def convertRow (r : List Byte) (g : GemmIn) (free i : Nat) (l : List OutEl) : OutRow :=
  if gC r = 14 then
    let x := l.map fun e => satInt32 e.i
    ⟨x.map fun p => p.1, [], x.any fun p => p.2, l.map fun e => e.poison⟩
  else if isBlock (gC r) then
    (List.range (gN r / 32)).foldl (fun (o : OutRow) b =>
      let blk := (l.drop (32 * b)).take 32
      let rs := (List.range 32).map fun j => rounding r g i (32 * b + j)
      let x := toBlock (gC r) (gSat r) rs (fun j => Config.freeNat (free + 64 * b + j)) (blk.map fun e => e.v)
      ⟨o.codes ++ x.1, o.scales ++ [x.2.1], o.overflow || x.2.2,
        o.poison ++ List.replicate 32 (blk.any fun e => e.poison)⟩) ⟨[], [], false, []⟩
  else
    let x := l.zipIdx.map fun e => toPlain (gC r) (gSat r) (rounding r g i e.2) e.1.v
    ⟨x.map fun p => p.1, [], x.any fun p => p.2, l.map fun e => e.poison⟩

/-- Codes of a width packed without padding (R43). -/
def packCodes (w : Nat) (l : List Nat) : List Byte := leBytes (l.length * w / 8) (l.zipIdx.foldl (fun n p => n + p.1 * 2 ^ (w * p.2)) 0)

/-- Some item of `w` bits each among the bytes [lo, lo + n) is poisoned. -/
def poisonIn (w : Nat) (l : List Bool) (lo n : Nat) : Bool :=
  l.zipIdx.any fun p => p.1 && decide (8 * lo < w * (p.2 + 1)) && decide (w * p.2 < 8 * (lo + n))

/-- Bytes at `va` as sector pieces, poisoned where an item of `w` bits in them is. -/
def piecesWith (va w : Nat) (b : List Byte) (p : List Bool) : List (Nat × Rd) :=
  (chunks va b.length).map fun c => (c.1, ⟨(b.drop (c.1 - va)).take c.2, poisonIn w p (c.1 - va) c.2, none, false⟩)

/-- The blocks of a row that hold poison. -/
def blockPoison (l : List Bool) (k : Nat) : List Bool :=
  (List.range (ceilDiv l.length k)).map fun b => ((l.drop (k * b)).take k).any id

/-- What is written for row i. -/
def rowWrites (r a : List Byte) (i : Nat) (els : List OutEl) (o : OutRow) : List (Nat × Rd) :=
  let p := planeRow (leAt r 32 8) (gPitch r 72 (gN r)) (gN r) (gC r) i
  let sc := scaleRow (leAt a 16 8) (gN r) (gC r) i
  let groups := ceilDiv (gN r) 256
  piecesWith p.1 (elemBits (gC r)) (packCodes (elemBits (gC r)) o.codes) o.poison ++
    piecesWith sc.1 (8 * scaleBytes (gC r)) (o.scales.flatMap fun e => leBytes (scaleBytes (gC r)) e) (blockPoison o.poison 32) ++
    if gOpt r 5 then
      piecesWith (leAt a 56 8 + 16 * (i * groups)) 128
        ((List.range groups).flatMap fun g => statsRecord (((els.drop (256 * g)).take 256).map fun e => e.v))
        (blockPoison (els.map fun e => e.poison) 256)
    else []

/-! ### Tiles and their registers -/

/-- The tiles that a command holds: its units' and LC tiles, and for a row command of an LC sequencer the sequencer's. -/
def State.heldTiles (s : State) (c : Cmd) : List Nat :=
  (List.range 48).filter fun t => (s.tilesOf c.id).contains t || (match c.row with
    | some p => decide ((s.tile t).lc = some (.seq p))
    | none => false)

/-- The tiles `l` can compute for the command now: it holds them, and none has halted at a tile boundary. -/
def State.tilesReady (s : State) (c : Cmd) (l : List Nat) : Bool :=
  decide (l ≠ []) && (l.all fun t => (s.heldTiles c).contains t && !((s.tile t).pre.any fun p => decide (p.phase = .stopped))) &&
    (!(hExpert c.raw) || decide (maskOf l = tileMask c.raw))

/-- A sticky bit of `ARR_STATUS` is set on the tiles that met its cause: at least one, and which is the DIC's choice (R65, R79). -/
def State.stickyOn (s : State) (f : Fld) (l : List Nat) : State :=
  let (u, s) := s.fresh
  l.zipIdx.foldl (fun s t =>
    if t.2 = Config.freeNat u % l.length ∨ (Config.freeNat u / 256).testBit t.2 then s.setFld f t.1 1 else s) s

def State.stickyIf (s : State) (b : Bool) (f : Fld) (l : List Nat) : State := if b then s.stickyOn f l else s

/-- `ARR_FAULT` of a faulted command. -/
def State.arrFault (s : State) (c : Cmd) (l : List Nat) (st : Nat) : State :=
  l.foldl (fun s t => s.setReg .ARR_FAULT t (st * 2 ^ 48 + c.ctx * 2 ^ 32 + hTag c.raw)) s

/-- A GEMM ends with a fault: R205 gives an array's accesses 0x0301. -/
def State.gemmFault (s : State) (c : Cmd) (l : List Nat) (f : XFault) : State × Option Nat :=
  (((s.spoilOutputs c).noteVa c.id f.va).arrFault c l 0x0301, some 0x0301)

/-! ### GEMM -/

/-- Arrays translate through their die's TLB (06.8). -/
def Cmd.arrayIssuer (c : Cmd) (tile : Nat) : Issuer := ⟨384 + tile / 4, c.who, hTag c.raw, 1⟩

/-- R59: an earlier ACT_TABLE_LOAD of the panel for the command's slot has not completed. -/
def State.loadBefore (s : State) (c : Cmd) : Bool :=
  decide (8 ≤ gAct c.raw) && s.cmds.any fun e =>
    decide (e.2.opcode = 0x0202) && decide (e.1 < c.id) && decide (e.2.panel = c.panel) && decide (e.2.phase ≠ .done) &&
      decide (leAt e.2.raw 24 1 = gAct c.raw - 8)

/-- Compute and write every row: the notes, and what the sticky bits show. -/
structure GemmSum where
  st : Nat
  inexact : Bool
  overflow : Bool
  nan : Bool
  poison : Bool
  deriving DecidableEq, Repr

def State.gemmRow1 (s : State) (c : Cmd) (iss : Issuer) (aux : List Byte) (g : GemmIn) (i : Nat) (a : OpRow) (x : GemmSum) :
    State × GemmSum :=
  let r := c.raw
  let els := gemmRowEls r g i a
  let o := convertRow r g s.free i els
  let s := { s with free := s.free + 2 * gN r + 64 }
  let (s, st) := s.writePieces c.id iss 0 (rowWrites r aux i els o)
  (s, ⟨worse x.st st, x.inexact || els.any (fun e => e.inexact), x.overflow || o.overflow,
    x.nan || (decide (gC r ≠ 14) && els.any fun e => isNan fp32 e.v), x.poison || els.any fun e => e.poison⟩)

def gemmFirstFault (g : GemmIn) : Option XFault :=
  ((g.a ++ g.b).findSome? fun x => x.fault).or ((g.bias ++ g.col ++ g.row ++ g.resid).findSome? fun x => x.fault)

/-- Read every operand. -/
def State.gemmIn (s : State) (c : Cmd) (iss : Issuer) (aux : List Byte) : State × GemmIn :=
  let r := c.raw
  let (s, a) := s.readOperand c.id iss (leAt r 16 8) (gPitch r 64 (gK r)) (gK r) (gA r) (leAt aux 0 8) (gM r)
  let (s, b) := s.readOperand c.id iss (leAt r 24 8) (gPitch r 68 (gK r)) (gK r) (gB r) (leAt aux 8 8) (gN r)
  let (s, bias) := s.readSides c.id iss (gOpt r 0) (leAt aux 24 8) 0 (gN r)
  let (s, col) := s.readSides c.id iss (gOpt r 1) (leAt aux 32 8) 0 (gN r)
  let (s, row) := s.readSides c.id iss (gOpt r 2) (leAt aux 40 8) 0 (gM r)
  let (s, resid) := s.readSides c.id iss (gOpt r 3) (leAt aux 48 8) (residFmt r) (gM r * gN r)
  (s, ⟨a, b, bias, col, row, resid, ((tget s.panels c.panel).map fun p => p.actSlots).getD [],
    ((tget s.ctxs c.ctx).map fun x => x.kctx.toNat).getD c.ctx, leAt aux 64 4⟩)

/-- R73, R74, R79: what a GEMM that ran leaves in its tiles' registers, its beats and its status. -/
def State.gemmEnd (s : State) (c : Cmd) (l : List Nat) (x : GemmSum) : State × Option Nat :=
  let r := c.raw
  let (u, s) := s.fresh
  let beats := computeBeats (gA r) (gB r) (gM r) (gN r) (gK r) + Config.beats (hTag r) u % (512 * l.length + 1)
  let s := s.modCmd c.id fun c => { c with beats := c.beats + beats }
  let s := (((s.stickyIf x.inexact .ARR_STATUS_INEXACT l).stickyIf x.overflow .ARR_STATUS_OVERFLOW l).stickyIf x.nan .ARR_STATUS_NAN l)
    |>.stickyIf x.poison .ARR_STATUS_POISON l
  let st := worse x.st (if x.poison then 0x0302 else b2n x.inexact * noteInexact + b2n x.overflow * noteOverflow)
  (if 0x0300 ≤ st then s.arrFault c l st else s, some st)

/-- The computation, once every operand has arrived. -/
def State.gemmRun (s : State) (c : Cmd) (l : List Nat) (iss : Issuer) (aux : List Byte) : State × Option Nat :=
  let (s, g) := s.gemmIn c iss aux
  let (s, wf) := s.probeAll iss .write (gemmWrites c.raw aux)
  match gemmFirstFault g, wf with
  | some f, _ => s.gemmFault c l f
  | none, some f => s.gemmFault c l f
  | none, none =>
    let (s, x) := g.a.zipIdx.foldl (fun (y : State × GemmSum) a => y.1.gemmRow1 c iss aux g a.2 a.1 y.2)
      (s, ⟨0, false, false, false, false⟩)
    s.gemmEnd c l x

/-- R70: the descriptor is read once, at the start; a status where it ends the command, none while it has not arrived. -/
def State.readAux (s : State) (c : Cmd) (iss : Issuer) : State × Option (Except (Nat × Nat) (List Byte)) :=
  let a := leAt c.raw 40 8
  if a = 0 then (s, some (.ok (zeros 128)))
  else
    match s.await c.id iss a 128 with
    | (s, true) => (s, none)
    | (s, false) =>
      match s.cmdRead c.id iss a 128 with
      | (s, d) =>
        match d.fault with
        | some f => (s, some (.error (0x0301, f.va)))
        | none =>
          if d.poison then (s, some (.error (0x0302, a)))
          else if auxBad c.raw d.bytes then (s, some (.error (0x0102, 0)))
          else (s, some (.ok d.bytes))

def gemmBody (tiles : TileMask) (s : State) (c : Cmd) : State × Option Nat :=
  let l := maskBits tiles.toNat 48
  let bad := checkStatus (gemmChecks s (s.settings c.epoch) c.panel c.raw)
  let iss := c.arrayIssuer (l.headD 0)
  if s.loadBefore c ∨ ¬ (s.tilesReady c l) then (s, none)
  else if bad ≠ 0 then (s, some bad)
  else if c.lost then (s.spoilOutputs c, some 0)
  else
    match s.readAux c iss with
    | (s, none) => (s, none)
    | (s, some (.error e)) =>
      (if 0x0300 ≤ e.1 then ((s.noteVa c.id e.2).arrFault c l e.1).stickyIf (decide (e.1 = 0x0302)) .ARR_STATUS_POISON l else s, some e.1)
    | (s, some (.ok aux)) =>
      if hLc c.raw ∧ ((gemmReads c.raw aux).any (fun x => s.farRange iss .read x.1 x.2) ∨
          (gemmWrites c.raw aux).any fun x => s.farRange iss .write x.1 x.2) then (s, some 0x0102)
      else
        match s.awaitAll c.id iss (gemmReads c.raw aux) with
        | (s, true) => (s, none)
        | (s, false) => s.gemmRun c l iss aux

/-! ### ACT_TABLE_LOAD (R59, R72) -/

def actTableLoadChecks (_ : State) (r : List Byte) : List (Bool × Nat) :=
  [(nonzero r 26 64 || decide (leAt r 16 8 % 64 ≠ 0) || decide (3 < leAt r 24 1) || decide (leAt r 25 1 = 0) ||
    decide (64 < leAt r 25 1), 0x0102)]

/-- A matrix command of the panel, admitted before, names the slot and has not completed. -/
def State.gemmBefore (s : State) (c : Cmd) : Bool :=
  s.cmds.any fun e =>
    decide (e.2.opcode = 0x0201) && decide (e.1 < c.id) && decide (e.2.panel = c.panel) && decide (e.2.phase ≠ .done) &&
      decide (gAct e.2.raw = leAt c.raw 24 1 + 8)

/-- The entries are in order: each LOWER is above the one before it, and reserved bytes are zero. -/
def tableOk (b : List Byte) : Bool :=
  let n := b.length / 32
  (List.range n).all fun i =>
    !(nonzero b (32 * i + 24) (32 * i + 32)) && !(isNan fp32 (segField b i 0)) &&
      (decide (i = 0) || !(leF (segField b i 0) (segField b (i - 1) 0)))

/-- Every tile of the panel holds the table. -/
def State.fillSlot (s : State) (p slot : Nat) (b : List Byte) : State :=
  let s := { s with panels := tmod s.panels p fun x => { x with actSlots := tput x.actSlots slot b } }
  (maskBits (((tget s.panels p).map fun x => x.tiles).getD 0) 48).foldl (fun s t => s.setReg .ARR_ACT_SLOT (4 * t + slot) (slotReg b)) s

def actTableLoadBody (s : State) (c : Cmd) : State × Option Nat :=
  let r := c.raw
  let bad := checkStatus (actTableLoadChecks s r)
  let iss : Issuer := { s.dmaIssuer c with source := 3 }
  let n := 32 * leAt r 25 1
  if s.gemmBefore c then (s, none)
  else if bad ≠ 0 then (s, some bad)
  else if c.lost then (s, some 0)
  else
    match s.await c.id iss (leAt r 16 8) n with
    | (s, true) => (s, none)
    | (s, false) =>
      match s.cmdRead c.id iss (leAt r 16 8) n with
      | (s, d) =>
        match d.fault with
        | some f => (s.noteVa c.id f.va, some (causeStatus f.cause))
        | none =>
          if d.poison then (s.noteVa c.id (leAt r 16 8), some 0x0302)
          else if tableOk d.bytes then (s.fillSlot c.panel (leAt r 24 1) d.bytes, some 0)
          else (s, some 0x0102)

end Sys2Proof.Machine
end

