-- ==== Sys2Proof/Machine/CoreLaunch.lean ====
section
/-! DEFINITION. Kernel launches (03.8): LAUNCH and RESUME_GROUP, the placing of blocks, kernel starts and ends, and the limits of parked
groups and LC launches. -/

namespace Sys2Proof.Machine

/-! ### Fields and checks (Tables 03-7, 03-8, R114) -/

def gridOf (r : List Byte) : Nat := leAt r 32 4
def blockThreads (r : List Byte) : Nat := leAt r 36 2

/-- Table 03-2: groups that a core can hold. -/
def groupPlaces (r : List Byte) : Nat := min 2048 (65536 / regsOf r) / 32

/-- The tiles that a launch may use: those of CORE_MASK, or the panel's. -/
def State.launchTiles (s : State) (panel : Nat) (r : List Byte) : List Nat :=
  if hExpert r then maskBits (tileMask r) 48 else (maskBits (s.panelTiles panel) 48).filter s.tilePresent

/-- The cores that a launch may use. -/
def State.launchCores (s : State) (panel : Nat) (r : List Byte) : List Nat :=
  (s.launchTiles panel r).flatMap fun t =>
    (tileCores t).filter fun k => !(hExpert r) || bit (leAt r (64 + t) 1) (k % 8)

/-- The die-scratch segments from DSCR_OFFSET on. -/
def dscrSegs (r : List Byte) : List Nat :=
  let (o, n) := (leAt r 44 4, leAt r 48 4)
  if n = 0 then [] else (List.range 16).filter fun i => decide (o < (i + 1) * 0x100000) && decide (i * 0x100000 < o + n)

def launchExpertChecks (s : State) (panel : Nat) (r : List Byte) : List (Bool × Nat) :=
  [(nonzero r 113 116 || nonzero r 120 128 || decide (1000000 < leAt r 116 4) || decide (leAt r 64 48 = 0), 0x0102),
   ((s.launchTiles panel r).any fun t => !(bit (s.panelTiles panel) t) || !(s.tilePresent t), 0x0104)]

def launchChecks (s : State) (cfg : Settings) (panel : Nat) (r : List Byte) : List (Bool × Nat) :=
  let n := blockThreads r
  let g := leAt r 38 1
  [(nzBits r 39 7 1 || nonzero r 42 44 || nonzero r 52 56, 0x0102),
   (decide (leAt r 16 8 % 128 ≠ 0) || decide (leAt r 24 8 % 64 ≠ 0) || decide (leAt r 56 8 % 64 ≠ 0) || decide (leAt r 44 4 % 64 ≠ 0),
    0x0102),
   (decide (gridOf r = 0) || decide (n < 32) || decide (1024 < n) || decide (n % 32 ≠ 0), 0x0102),
   ((decide (g ≠ 0) && (decide (g < 16) || decide (g % 8 ≠ 0))) || decide (4096 < leAt r 40 2) || decide (leAt r 40 2 % 8 ≠ 0), 0x0102),
   (decide (32 * groupPlaces r < n) || decide (0x1000000 < leAt r 44 4 + leAt r 48 4), 0x0102)] ++
    (if hExpert r then launchExpertChecks s panel r else []) ++
    [(((s.launchTiles panel r).map fun t => t / 4).any fun d =>
      (dscrSegs r).any fun i => decide (cfg.dscrOwner d i ≠ some panel), 0x0104)]

/-! ### LAUNCH (R110, R111) -/

/-- GEMM and LAUNCH run once the command holds a tile. -/
def State.runTiled (s : State) (id opcode : Nat) (body : State → Cmd → State × Option Nat) : State :=
  match s.cmd id with
  | none => s
  | some c => if s.heldTiles c = [] then s else s.runCmd id opcode body

def argBytes (r : List Byte) : Nat := if leAt r 24 8 = 0 then 0 else leAt r 40 2

/-- The argument block is read once. -/
def State.readArgs (s : State) (c : Cmd) : State × Option (Except Nat (List Byte)) :=
  let iss := s.dicIssuer c
  let (va, n) := (leAt c.raw 24 8, argBytes c.raw)
  if n = 0 then (s, some (.ok []))
  else if hLc c.raw ∧ s.farRange iss .read va n then (s, some (.error 0x0102))
  else
    match s.await c.id iss va n with
    | (s, true) => (s, none)
    | (s, false) =>
      match s.cmdRead c.id iss va n with
      | (s, d) =>
        match d.fault with
        | some f => (s.noteVa c.id f.va, some (.error (causeStatus f.cause)))
        | none => if d.poison then (s.noteVa c.id va, some (.error 0x0302)) else (s, some (.ok d.bytes))

/-- The launch runs on the cores that the DIC uses; it completes with its last kernel end. -/
def launchBody (cores : List Nat) (s : State) (c : Cmd) : State × Option Nat :=
  let bad := checkStatus (launchChecks s (s.settings c.epoch) c.panel c.raw)
  let l := (cores.filter fun k => (s.launchCores c.panel c.raw).contains k).eraseDups
  if thas s.launches c.id then (s, none)
  else if bad ≠ 0 then (s, some bad)
  else if c.lost then (s, some 0)
  else if l = [] then (s, none)
  else
    match s.readArgs c with
    | (s, none) => (s, none)
    | (s, some (.error st)) => (s, some st)
    | (s, some (.ok args)) =>
      ({ s with launches := tput s.launches c.id ⟨c.id, 0, 0, l, [], args, 0, 0, 0, false, 0⟩ }, none)

/-! ### Blocks (R86, R101) -/

/-- Group numbers that nothing in flight names. -/
def State.freeGroups (s : State) (k : Nat) : List Nat :=
  let c := s.coreOf k
  (List.range 64).filter fun n =>
    !(c.groups.any fun g => decide (g.num = n)) && (s.laneRemotes k n fun _ _ => true).isEmpty

/-- A core has room for one more block. -/
def State.roomFor (s : State) (k : Nat) (r : List Byte) : Bool :=
  let c := s.coreOf k
  let n := blockThreads r / 32
  decide (c.groups.length + n ≤ groupPlaces r) && decide (n ≤ (s.freeGroups k).length) &&
    (!(hExpert r) || decide (leAt r 112 1 = 0) || decide (c.blocks.length < leAt r 112 1))

/-- KERNEL_START: lines that are not locked are invalidated, and locked ways of another context (R101); reservations end (R90). -/
def State.kernelStart (s : State) (k : Nat) (c : Cmd) : State :=
  let s := s.modCore k fun (y : Core) =>
    let y := if y.lockN ≠ 0 ∧ y.lockCtx ≠ c.ctx then y.unlock else y
    { y with launch := some c.id, l1 := y.l1.filter (fun l => l.locked), fills := [], loads := [], started := s.time }
  let s := { s with
    resvs := s.resvs.filter fun r => !(decide (r.core = k)),
    launches := tmod s.launches c.id fun l => { l with open_ := l.open_ ++ [k] } }
  s.setFld .GC_STATUS_CTX k c.ctx

/-- A group at the kernel's entry: its registers are zero (R85). -/
def Group.entry (num block inBlock : Nat) (pc : W64) : Group :=
  { num := num, block := block, inBlock := inBlock, live := 2 ^ 32 - 1, paths := [⟨2 ^ 32 - 1, pc, [], 0, .none, none⟩], regs := [],
    pend := [], parked := none, halted := false, deferred := none, step := false, lockBroken := false }

def State.placeBlock (s : State) (k : Nat) (c : Cmd) (b : Nat) : State :=
  let nums := (s.freeGroups k).take (blockThreads c.raw / 32)
  let s := s.modCore k fun y => { y with
    groups := y.groups ++ nums.zipIdx.map fun n => Group.entry n.1 b n.2 (w64 (leAt c.raw 16 8)),
    blocks := y.blocks ++ [⟨b, List.replicate 8 0, []⟩] }
  { s with launches := tmod s.launches c.id fun l => { l with next := l.next + 1 } }

/-- BLOCK_START: the next block of the launch on a core with room. -/
def blockStart (id die core : Nat) (s : State) : State :=
  let k := 32 * die + core
  match s.cmd id, tget s.launches id with
  | some c, some l =>
    let y := s.coreOf k
    if !l.stopped && decide (l.next < gridOf c.raw) && l.cores.contains k && (s.heldTiles c).contains (coreTile k) && !(s.tileStops k) &&
        !y.halted && (y.launch.isNone || decide (y.launch = some id)) && s.roomFor k c.raw then
      let s := if y.launch.isNone then s.kernelStart k c else s
      s.placeBlock k c l.next
    else s
  | _, _ => s

/-- An access of a core to another package is not yet answered. -/
def State.coreRemotes (s : State) (k : Nat) : Bool :=
  s.remotes.any fun r => match r.wait with
    | .lane die core _ _ _ _ _ => decide (32 * die + core = k) && decide (r.kind ≠ .read)
    | _ => false

/-- The launch is over: every block finished, or stopped, and every kernel has ended. -/
def State.launchOver (s : State) (id : Nat) (c : Cmd) : State :=
  match tget s.launches id with
  | some l => if l.open_ = [] ∧ (l.done = gridOf c.raw ∨ l.stopped) then s.endCmd id l.status else s
  | none => s

/-- KERNEL_END: dirty bytes are written back; the core's last block has finished, or the launch stops (R101, R112). -/
def kernelEnd (id die core : Nat) (s : State) : State :=
  let k := 32 * die + core
  match s.cmd id, tget s.launches id with
  | some c, some l =>
    let y := s.coreOf k
    if decide (y.launch = some id) && (y.blocks.isEmpty || l.stopped) && !(s.coreRemotes k) then
      let s := (s.cleanCore k).modCore k fun y => { y with launch := none, groups := [], blocks := [], fills := [], loads := [] }
      let s := s.dropRemotesOf fun r => match r.wait with
        | .lane d n _ _ _ _ _ => decide (32 * d + n = k)
        | _ => false
      let s := { s with
        resvs := s.resvs.filter fun r => !(decide (r.core = k)),
        launches := tmod s.launches id fun l => { l with open_ := l.open_.filter fun n => !(decide (n = k)) } }
      ((s.setReg .GC_LAST_DONE_TIME k s.now).setFld .GC_STATUS_CTX k c.ctx).launchOver id c
    else s
  | _, _ => s

/-! ### Parked groups (R112, R113) -/

/-- The parked group of a launch by its block and its number in it: core and group. -/
def State.parkedGroup (s : State) (id block group : Nat) : Option (Nat × Group × Parked) :=
  s.cores.findSome? fun e =>
    if e.2.launch = some id then
      e.2.groups.findSome? fun g =>
        if g.block = block ∧ g.inBlock = group then g.parked.map fun p => (e.1, g, p) else none
    else none

/-- PARK_TIMEOUT in µs; 0, and a basic form, mean 100,000. -/
def parkLimit (r : List Byte) : Nat := if hExpert r ∧ leAt r 116 4 ≠ 0 then leAt r 116 4 else 100000

def parkTimeout (id block group : Nat) (s : State) : State :=
  match s.cmd id, s.parkedGroup id block group with
  | some c, some (_, _, p) => if 1000 * parkLimit c.raw ≤ (s.time - p.since).toNat then s.stopLaunch id 0x0401 else s
  | _, _ => s

/-- The launch that a RESUME_GROUP names, of the same context and running, with its parked group. -/
def State.resumed (s : State) (r : List Byte) : Option (Cmd × Nat × Group × Parked) :=
  s.cmds.findSome? fun e =>
    if e.2.q = bits (leAt r 16 4) 17 0 ∧ hTag e.2.raw = leAt r 20 4 ∧ e.2.opcode = 0x0301 ∧ e.2.ctx = hCtx r ∧ e.2.row.isNone then
      match tget s.launches e.1 with
      | some l => if l.stopped then none else (s.parkedGroup e.1 (leAt r 24 4) (bits (leAt r 28 1) 4 0)).map fun p => (e.2, p)
      | none => none
    else none

def resumeGroupChecks (s : State) (r : List Byte) : List (Bool × Nat) :=
  let a := bits (leAt r 29 1) 1 0
  [(decide (bits (leAt r 16 4) 31 18 ≠ 0) || nzBits r 28 7 5 || nzBits r 29 7 2 || nonzero r 30 64, 0x0102),
   (decide (a = 0) || decide (a = 3), 0x0102), ((s.resumed r).isNone, 0x0102)]

/-- RESUME_GROUP: the faulting instruction runs again for the lanes of REMAIN only, or the launch is aborted. -/
def resumeGroupDo (s : State) (r : List Byte) : State × Nat :=
  match s.resumed r with
  | none => (s, 0x0102)
  | some (c, k, g, p) =>
    if bits (leAt r 29 1) 1 0 = 2 then
      (s.stopLaunch c.id (((tget s.launches c.id).map fun l => l.first).getD p.status), 0)
    else if p.late then (((s.modGroup k g.num fun y => { y with parked := none }).askAgain k g.num c).landLoads k, 0)
    else
      (s.modGroup k g.num fun y => { y with
        parked := none,
        paths := match y.paths with
          | q :: l => { q with only := some p.remain } :: l
          | [] => [] }, 0)

/-! ### LC launches (R245) -/

/-- LAUNCH_OVERRUN: a core still occupied after the declared beats of the launch's OPERATOR. A beat lasts 1/2,100 µs at least. -/
def launchOverrun (id die core : Nat) (s : State) : State :=
  let y := s.coreOf (32 * die + core)
  match s.cmd id, tget s.launches id with
  | some c, some l =>
    match (tget s.ctxs c.ctx).bind fun x => tget x.decls (hOperator c.raw) with
    | some (b, _) =>
      if y.launch = some id ∧ s.isLc c = true ∧ ¬ l.stopped ∧ 1000 * b ≤ 2100 * (s.time - y.started).toNat then s.stopLaunch id 0x0406
      else s
    | none => s
  | _, _ => s

end Sys2Proof.Machine
end

