-- ==== Sys2Proof/Machine/CmdLaunch.lean ====
section
/-! DEFINITION. The meanings of the array and launch rows (02.8, 03.8). -/

namespace Sys2Proof.Machine

/-- R45 to R79. -/
def execGemm (id : Nat) (tiles : TileMask) (s : State) : Host.Outcome State Fault Refusal :=
  .next (s.runTiled id 0x0201 (gemmBody tiles))

/-- R59. -/
def execActTableLoad (id : Nat) (s : State) : Host.Outcome State Fault Refusal := .next (s.runCmd id 0x0202 actTableLoadBody)

/-- R110 to R112. -/
def execLaunch (id : Nat) (cores : List Nat) (s : State) : Host.Outcome State Fault Refusal :=
  .next (s.runTiled id 0x0301 (launchBody cores))

/-- R113. -/
def execResumeGroup (id : Nat) (s : State) : Host.Outcome State Fault Refusal :=
  .next (s.runCmd id 0x0302 (checkedBody resumeGroupChecks resumeGroupDo))

/-- R86, R101. -/
def execBlockStart (id die core : Nat) (s : State) : Host.Outcome State Fault Refusal := .next (blockStart id die core s)

/-- R101, R112. -/
def execKernelEnd (id die core : Nat) (s : State) : Host.Outcome State Fault Refusal := .next (kernelEnd id die core s)

/-- R112. -/
def execParkTimeout (id block group : Nat) (s : State) : Host.Outcome State Fault Refusal :=
  .next (parkTimeout id block group s)

/-- R245. -/
def execLaunchOverrun (id die core : Nat) (s : State) : Host.Outcome State Fault Refusal := .next (launchOverrun id die core s)

end Sys2Proof.Machine
end

