-- ==== Sys2Proof/Machine/CmdLink.lean ====
section
/-! DEFINITION. The meanings of the link, time and guest-site rows (10). -/

namespace Sys2Proof.Machine

/-- R322: accept in order, or discard with NAK or duplicate handling. -/
def execFlitReceive (l : Nat) (f : Flit) (s : State) : Host.Outcome State Fault Refusal := .next (flitReceive l f s)

/-- R322. -/
def execNakResend (l : Nat) (s : State) : Host.Outcome State Fault Refusal := .next (nakResend l s)

/-- R321. -/
def execReplayTimeout (l : Nat) (s : State) : Host.Outcome State Fault Refusal := .next (replayTimeout l s)

/-- R323. -/
def execLinkRecovery (l : Nat) (lockLoss : Bool) (s : State) : Host.Outcome State Fault Refusal :=
  .next (linkRecovery l lockLoss s)

/-- R323: recovery that is not complete within 10 ms. -/
def execLinkRecoveryFail (l : Nat) (s : State) : Host.Outcome State Fault Refusal := .next (linkRecoveryFail l s)

/-- R325. -/
def execLinkTrain (l : Nat) (o : TrainOutcome) (s : State) : Host.Outcome State Fault Refusal := .next (linkTrain l o s)

/-- R352. -/
def execLinkRetrain (l : Nat) (s : State) : Host.Outcome State Fault Refusal := .next (linkRetrain l s)

/-- R316. -/
def execLaserInputLoss (e w durNs : Nat) (s : State) : Host.Outcome State Fault Refusal := .next (laserInputLoss e w durNs s)

/-- R326, R327. -/
def execCtlTrain (l pkg peerLink vlo vhi compat : Nat) (s : State) : Host.Outcome State Fault Refusal :=
  .next (ctlTrain l pkg peerLink vlo vhi compat s)

/-- R338. -/
def execCtlTime (l t1 t2 t3 t4 root depth : Nat) (s : State) : Host.Outcome State Fault Refusal :=
  .next (ctlTime l t1 t2 t3 t4 root depth s)

/-- R338. -/
def execTimeExchange (l : Nat) (s : State) : Host.Outcome State Fault Refusal := .next (timeExchange l s)

/-- R340. -/
def execTimeRelock (s : State) : Host.Outcome State Fault Refusal := .next (timeRelock s)

/-- R340. -/
def execTimeHoldover (s : State) : Host.Outcome State Fault Refusal := .next (timeHoldover s)

/-- R194. -/
def execCtlRefused (tag : Nat) (s : State) : Host.Outcome State Fault Refusal := .next (ctlRefused tag s)

/-- R194. -/
def execRefusedResend (tag : Nat) (s : State) : Host.Outcome State Fault Refusal := .next (refusedResend tag s)

/-- R343. -/
def execCtlColl (ctx : Nat) (epoch : W64) (number : Nat) (digest hash : W32) (rank : Nat) (s : State) :
    Host.Outcome State Fault Refusal :=
  .next (ctlColl ctx epoch number digest hash rank s)

/-- R343. -/
def execCtlAbort (epoch : W64) (s : State) : Host.Outcome State Fault Refusal := .next (ctlAbort epoch s)

/-- Table 10-2. -/
def execCtlMgmt (l : Nat) (bytes : List Byte) (s : State) : Host.Outcome State Fault Refusal := .next (ctlMgmt l bytes s)

/-- R346. -/
def execCtlCap (site : Nat) (block : List Byte) (s : State) : Host.Outcome State Fault Refusal := .next (ctlCap site block s)

/-- R333. -/
def execE2eTimeout (tag : Nat) (s : State) : Host.Outcome State Fault Refusal := .next (e2eTimeout tag s)

/-- R195. -/
def execFinalTimeout (pkg ctx stream : Nat) (s : State) : Host.Outcome State Fault Refusal :=
  .next (finalTimeout pkg ctx stream s)

/-- R337, R480. -/
def execPpsEdge (highNs : Nat) (s : State) : Host.Outcome State Fault Refusal := .next (ppsEdge highNs s)

/-- R345. -/
def execGuestRetrain (site : Nat) (o : TrainOutcome) (s : State) : Host.Outcome State Fault Refusal :=
  .next (guestRetrain site o s)

/-- R345. -/
def execGuestCapTimeout (site : Nat) (s : State) : Host.Outcome State Fault Refusal := .next (guestCapTimeout site s)

/-- R350. -/
def execGuestIsolate (site : Nat) (linkFailed : Bool) (s : State) : Host.Outcome State Fault Refusal :=
  .next (guestIsolate site linkFailed s)

/-- R347. -/
def execGuestPowerExceeded (site watts durNs : Nat) (s : State) : Host.Outcome State Fault Refusal :=
  .next (guestPowerExceeded site watts durNs s)

end Sys2Proof.Machine
end

