-- ==== Sys2Proof/Machine/Coll.lean ====
section
/-! DEFINITION. Collectives (07.9, 10.8). The other members' inputs are operands: which messages carry them is the algorithm's choice. -/

namespace Sys2Proof.Machine

/-! ### Fields and checks (Table 07-12) -/

def kLen (r : List Byte) : Nat := leAt r 32 8
def kRop (r : List Byte) : Nat := bits (leAt r 52 1) 3 0
def kExact (r : List Byte) : Bool := bit (leAt r 52 1) 4
def kAnchor (r : List Byte) : Int := signed 16 (leAt r 50 2)
def kRoot (r : List Byte) : Nat := leAt r 54 2
def kTimeoutMs (r : List Byte) : Nat := if leAt r 56 4 = 0 then 1000 else leAt r 56 4

def collChecks (_ : State) (r : List Byte) : List (Bool × Nat) :=
  [(nzBits r 52 7 5 || nonzero r 53 54 || nonzero r 60 64, 0x0102),
   (decide (kLen r % 128 ≠ 0) || decide (leAt r 48 2 = 0) || decide (8 < kRop r) || decide (60000 < leAt r 56 4), 0x0102),
   (decide (hOp r = 5) && nonzero r 16 40, 0x0102)]

/-- The group descriptor's header: epoch, N, rank. -/
structure Group16 where
  epoch : W64
  n : Nat
  rank : Nat
  deriving DecidableEq, Repr

def group16 (d : List Byte) : Group16 := ⟨w64 (leAt d 0 8), leAt d 8 2, leAt d 10 2⟩

/-- R236: ranges of the descriptor, and those that depend on N. -/
def collGroupBad (r d : List Byte) : Bool :=
  let g := group16 d
  decide (g.n < 2) || decide (32768 < g.n) || decide (g.n ≤ g.rank) || nonzero d 12 16 || decide (65535 < leAt r 48 2 + g.n - 1) ||
    (decide (hOp r = 2) && decide (kLen r % (128 * g.n) ≠ 0)) || (decide (hOp r = 4) && decide (g.n ≤ kRoot r))

/-- The members' packages by rank. -/
def groupMembers (d : List Byte) (n : Nat) : List Nat := (List.range n).map fun i => bits (leAt d (16 * i) 2) 14 0

/-- What the digest covers (R343). -/
def collFields (r : List Byte) (n : Nat) : List Byte :=
  leBytes 1 (hOp r) ++ leBytes 8 (kLen r) ++ leBytes 1 (kRop r) ++ leBytes 1 (b2n (kExact r)) ++ leBytes 2 (leAt r 50 2) ++
    leBytes 2 (kRoot r) ++ leBytes 2 n

/-! ### Results (R236, R237) -/

/-- The reduction of one element over the members, in rank order; in exact mode rounded once. Its notes. -/
def reduceEl (rop : Nat) (exact : Bool) (anchor : Int) (l : List Nat) : Nat × Nat :=
  let f := ropFmt rop
  if exact ∧ rop < 2 then
    let (a, n) := l.foldl (fun (x : Acc × Nat) v =>
      let (a, n) := accAdd f anchor x.1 v
      (a, x.2 ||| n)) (accOpen f 0, 0)
    let (v, above) := accClose f anchor a
    (v, n ||| if above then noteOverflow else 0)
  else
    match l with
    | [] => (0, 0)
    | x :: t =>
      let v := t.foldl (ropApply rop) x
      (v, 0)

/-- The reduction of all members' inputs, in rank order. -/
def reduceAll (r : List Byte) (n : Nat) (ins : List (List Byte)) : List Byte × Nat :=
  let w := ropBytes (kRop r)
  let cols := ins.map fun b => elems w (n / w) b
  let l := (List.range (n / w)).map fun i => reduceEl (kRop r) (kExact r) (kAnchor r) (cols.map fun c => c.getD i 0)
  (unelems w (l.map fun x => x.1), l.foldl (fun a x => a ||| x.2) 0)

/-- What this member's DST receives, and the notes. -/
def collResult (r : List Byte) (n rank : Nat) (ins : List (List Byte)) : List Byte × Nat :=
  match hOp r with
  | 1 => reduceAll r (kLen r) ins
  | 2 =>
    let k := kLen r / max 1 n
    reduceAll r k (ins.map fun b => (b.drop (rank * k)).take k)
  | 3 => (ins.flatten, 0)
  | 4 => (ins.getD (kRoot r) [], 0)
  | _ => ([], 0)

/-- This member reads its own input. -/
def readsSrc (r : List Byte) (rank : Nat) : Bool := decide (hOp r ≤ 3) || (decide (hOp r = 4) && decide (kRoot r = rank))

/-- The inputs by rank; none while one that is needed is missing. -/
def inputsOf (r : List Byte) (n rank : Nat) (own : List Byte) (others : List (Nat × List Byte)) : Option (List (List Byte)) :=
  (List.range n).foldr (fun i (acc : Option (List (List Byte))) =>
    let b := if i = rank then some own
      else if hOp r = 4 ∧ i ≠ kRoot r then some []
      else (others.find? fun e => decide (e.1 = i) && decide (e.2.length = kLen r)).map fun e => e.2
    match b, acc with
    | some b, some l => some (b :: l)
    | _, _ => none) (some [])

/-! ### Jobs (R342, R343) -/

/-- The job whose collective a command is. -/
def State.jobOf (s : State) (id : Nat) : Option Job := s.jobs.find? fun j => j.cur.any fun c => decide (c.cmd = id)

/-- A collective of a job is in progress. -/
def State.jobBusy (s : State) (j : Job) : Bool := j.cur.any fun c => (s.cmd c.cmd).any fun x => decide (x.phase = .running)

def State.dropJob (s : State) (j : Job) : State :=
  { s with jobs := s.jobs.filter fun x => !(decide (x.ctx = j.ctx) && decide (x.epoch = j.epoch)) }

/-- A collective is over: its COLL messages are forgotten. -/
def State.closeColl (s : State) (j : Job) (number : Nat) : State :=
  { s.putJob { j with cur := none, issued := number } with
    colls := s.colls.filter fun m => !(decide (m.epoch = j.epoch) && decide (m.number = number)) }

/-- Issue a collective: COLL goes to every member, and what has arrived is compared. -/
def State.issueColl (s : State) (c : Cmd) (g : Group16) (members : List Nat) : State :=
  let j := (s.job c.ctx g.epoch).getD ⟨c.ctx, g.epoch, false, 0, false, none⟩
  let number := j.issued + 1
  let digest := Config.collDigest (collFields c.raw g.n)
  let hash := s.jobHash c.panel (kExact c.raw) (leAt c.raw 50 2)
  let cur : JobCur := ⟨c.id, number, digest, hash, g.rank, members⟩
  let s := (s.putJob { j with cur := some cur }).modCmd c.id fun c => { c with step := 1 }
  let s := s.tellMembers c.ctx cur (.coll c.ctx g.epoch number digest hash g.rank) (ctlColl c.ctx g.epoch number digest hash g.rank)
  s.checkJob c.ctx g.epoch

/-- The first step: the group descriptor is read and checked. The second component is the status that ends the command. -/
def collOpen (s : State) (c : Cmd) : State × Option Nat :=
  let iss := c.hubIssuer 5
  let ga := leAt c.raw 40 8
  match s.readWhole c iss ga 16 with
  | (s, none) => (s, none)
  | (s, some (.error st)) => (s, some st)
  | (s, some (.ok d)) =>
    let g := group16 d
    if collGroupBad c.raw d then (s, some 0x0102)
    else
      match s.readWhole c iss (ga + 16) (16 * g.n) with
      | (s, none) => (s, none)
      | (s, some (.error st)) => (s, some st)
      | (s, some (.ok e)) =>
        match s.job c.ctx g.epoch with
        | some j =>
          if j.fenced then (s, some 0x0307)
          else if s.jobBusy j then (s, none)
          else (s.issueColl c g (groupMembers e g.n), none)
        | none => (s.issueColl c g (groupMembers e g.n), none)

/-- Write the result, and end. -/
def State.collFinish (s : State) (c : Cmd) (j : Job) (k : JobCur) (ins : List (List Byte)) : State × Option Nat :=
  let iss := c.hubIssuer 5
  let (b, notes) := collResult c.raw k.members.length k.rank ins
  match s.probe iss .write (leAt c.raw 24 8) b.length with
  | (s, some f) => ((s.closeColl j k.number).endFault c f)
  | (s, none) =>
    let (s, st) := s.cmdWrite c.id iss (leAt c.raw 48 2) (leAt c.raw 24 8) b
    (s.closeColl j k.number, some (worse notes st))

/-- The data of a collective whose members have all issued it. -/
def collData (others : List (Nat × List Byte)) (s : State) (c : Cmd) (j : Job) (k : JobCur) : State × Option Nat :=
  let n := k.members.length
  if hOp c.raw = 5 then (s.closeColl j k.number, some 0)
  else if readsSrc c.raw k.rank then
    match s.readWhole c (c.hubIssuer 5) (leAt c.raw 16 8) (kLen c.raw) with
    | (s, none) => (s, none)
    | (s, some (.error st)) => ((s.closeColl j k.number).spoilOutputs c, some st)
    | (s, some (.ok own)) =>
      match inputsOf c.raw n k.rank own others with
      | none => (s, none)
      | some l => s.collFinish c j k l
  else
    match inputsOf c.raw n k.rank [] others with
    | none => (s, none)
    | some l => s.collFinish c j k l

/-- After COLL: once every member's has arrived the opening collective compares the hashes (R342), and the data follows. -/
def collStep (others : List (Nat × List Byte)) (s : State) (c : Cmd) : State × Option Nat :=
  match s.jobOf c.id with
  | none => (s, none)
  | some j =>
    match j.cur with
    | none => (s, none)
    | some k =>
      let ranks := (List.range k.members.length).filter fun i => decide (i ≠ k.rank)
      if ranks.any fun i => (s.collOf j k i).isNone then (s, none)
      else if j.open_ then collData others s c j k
      else if ranks.any fun i => (s.collOf j k i).any fun m => decide (m.hash ≠ k.hash) then
        ((s.closeColl j k.number).dropJob j, some 0x0108)
      else
        let j := { j with open_ := true }
        collData others (s.putJob j) c j k

def collBody (others : List (Nat × List Byte)) (s : State) (c : Cmd) : State × Option Nat :=
  let bad := checkStatus (collChecks s c.raw)
  if bad ≠ 0 then (s, some bad)
  else if c.lost then (s.spoilOutputs c, some 0)
  else if c.step = 0 then
    match collOpen s c with
    | (s, none) =>
      match s.cmd c.id with
      | some c => if c.step = 1 ∧ c.phase = .running then collStep others s c else (s, none)
      | none => (s, none)
    | x => x
  else collStep others s c

/-- COLLECTIVE_TIMEOUT: TIMEOUT_MS have passed. An opening collective changes nothing (R342); of any other the DST is undefined. -/
def collectiveTimeout (id : Nat) (s : State) : State :=
  match s.cmd id with
  | none => s
  | some c =>
    if hCls c.raw = 4 ∧ c.phase = .running ∧ 1000000 * kTimeoutMs c.raw ≤ (s.time - c.tStart).toNat then
      match s.jobOf id with
      | some j =>
        let n := (j.cur.map fun k => k.number).getD 0
        if j.open_ then (s.closeColl j n).failColl id 0x0407
        else (((s.closeColl j n).dropJob j).dropRemotesOf fun r => decide (r.wait = .cmd id)).endCmd id 0x0407
      | none => s.failColl id 0x0407
    else s

end Sys2Proof.Machine
end

