-- ==== Sys2Proof/Machine/Work.lean ====
section
/-! DEFINITION. The declared work of commands (R245): tiles, beats and bytes, for the deadline promise and for the row bound of R260. -/

namespace Sys2Proof.Machine

/-- A plane's bytes: packed, or by rows where the pitch exceeds the row. -/
def planeBytes (c rows cols pitch : Nat) : Nat :=
  if cols < pitch then rows * (64 * (ceilDiv (ceilDiv (cols * elemBits c) 8) 64 + 1)) else ceilDiv (rows * cols * elemBits c) 8

def scalePlane (c rows cols : Nat) : Nat := rows * (cols / 32) * scaleBytes c

/-- Beats of a GEMM on `tiles` tiles. -/
def gemmWorkBeats (r : List Byte) (tiles : Nat) : Nat :=
  let blocks := ceilDiv (gM r) 256 * ceilDiv (gN r) 256
  let k := ceilDiv (gK r) (gKb r)
  ceilDiv blocks (max 1 tiles) * (if gA r = 0 then 3 * k else k) + 512

/-- Every element plane, scale plane, auxiliary input and output, and the descriptor. -/
def gemmWorkBytes (r : List Byte) : Nat :=
  let (m, n, k) := (gM r, gN r, gK r)
  planeBytes (gA r) m k (gPitch r 64 k) + planeBytes (gB r) n k (gPitch r 68 k) + planeBytes (gC r) m n (gPitch r 72 n) +
    scalePlane (gA r) m k + scalePlane (gB r) n k + scalePlane (gC r) m n +
    (if gOpt r 0 then 4 * n else 0) + (if gOpt r 1 then 4 * n else 0) + (if gOpt r 2 then 4 * m else 0) +
    (if gOpt r 3 then m * n * (elemBits (residFmt r) / 8) else 0) + (if gOpt r 5 then m * ceilDiv n 256 * 16 else 0) +
    (if leAt r 40 8 = 0 then 0 else 128)

/-- Class 0x01: bytes read plus bytes written. -/
def moveWork (r : List Byte) : Nat :=
  match hOp r with
  | 1 => 2 * (copyRows r).length * leAt r 32 8 + (if bit (leAt r 43 1) 0 then 8 else 0)
  | 4 => leAt r 24 8
  | 5 => 3 * leAt r 32 8
  | _ => leAt r 32 4 * ((listEntry r 0).2 + 2 * elemBytes r)

/-- The declaration of a command's OPERATOR in a context (R240). -/
def State.declared (s : State) (ctx : Nat) (r : List Byte) : Option (Nat × Nat) := (tget s.ctxs ctx).bind fun c => tget c.decls (hOperator r)

/-- The tiles that an LC command may use, its beats and its bytes. -/
def State.lcWork (s : State) (r : List Byte) : List Nat × Nat × Nat :=
  let p := ((tget s.ctxs (hCtx r)).map fun c => c.panel).getD 63
  match hCls r with
  | 1 => ([], 0, moveWork r)
  | 2 =>
    let l := s.gemmTiles s.cfg p r
    (l, gemmWorkBeats r l.length, gemmWorkBytes r)
  | 3 =>
    let d := (s.declared (hCtx r) r).getD (0, 0)
    (s.launchTiles p r, d.1, d.2)
  | _ => ([], 0, 0)

end Sys2Proof.Machine
end

