-- ==== Sys2Proof/Machine/RsqMem.lean ====
section
/-! DEFINITION. The row sequencer's memory (08.3): its accesses, the pool control block, the free stack, the sequence table and the page
lists, written back at every boundary and read back at a resume. -/

namespace Sys2Proof.Machine

def State.rsqState (s : State) (p : Nat) : Nat := s.fld .RSQ_STATUS_STATE p
def State.setRsqState (s : State) (p n : Nat) : State := s.setFld .RSQ_STATUS_STATE p n
def State.putRsq (s : State) (p : Nat) (r : Rsq) : State := { s with rsqs := tput s.rsqs p r }

/-! ### Accesses (R255) -/

def State.ctxFunc (s : State) (ctx : Nat) : Nat := ((tget s.ctxs ctx).map fun c => c.func).getD 0

/-- A sequencer's accesses are its context's, through the hub's structures. -/
def State.rsqWho (s : State) (p ctx : Nat) : Who := ⟨ctx, p, s.isMgr ctx, s.committed⟩

def State.rsqIssuer (s : State) (p ctx : Nat) : Issuer := ⟨396, s.rsqWho p ctx, 0, 4⟩

/-- The built-in accept kernel's accesses are those of the cores of TILES. -/
def State.acceptIssuer (s : State) (p ctx tiles : Nat) : Issuer :=
  ⟨((tileCores ((maskBits tiles 48).headD 0)).headD 0), s.rsqWho p ctx, 0, 0⟩

/-- Read bytes: what they are, or a status. Another package's bytes are asked for and are free values. -/
def State.seqRead (s : State) (iss : Issuer) (va n : Nat) : State × Except Nat (List Byte) :=
  (chunks va n).foldl (fun (x : State × Except Nat (List Byte)) (c : Nat × Nat) =>
    match x.2 with
    | .error _ => x
    | .ok acc =>
      match x.1.xlate iss .read c.1 with
      | (s, .error f) => (s, .error (causeStatus f.cause))
      | (s, .ok l) =>
        if s.isLocal l.pa then
          match s.localRead iss.who l.key (l.pa % 2 ^ 48) c.2 with
          | (s, .ok b false) => (s, .ok (acc ++ b))
          | (s, .ok _ true) => (s, .error 0x0302)
          | (s, .fault st) => (s, .error st)
        else
          let s := s.remoteRead iss.who.ctx (s.ctxFunc iss.who.ctx) l.pa l.key l.device .none
          let (u, s) := s.fresh
          (s, .ok (acc ++ (List.range c.2).map fun i => Config.undefByte u i))) (s, .ok [])

/-- Write bytes: the worst status of the parts, 0 where all are performed. -/
def State.seqWrite (s : State) (iss : Issuer) (va : Nat) (b : List Byte) : State × Nat :=
  (chunks va b.length).foldl (fun (x : State × Nat) (c : Nat × Nat) =>
    let d := (b.drop (c.1 - va)).take c.2
    match x.1.xlate iss .write c.1 with
    | (s, .error f) => (s, worse x.2 (causeStatus f.cause))
    | (s, .ok l) =>
      if s.isLocal l.pa then
        match s.localWrite iss.who l.key (l.pa % 2 ^ 48) d false with
        | (s, e) => (s, if e = 0 then x.2 else worse x.2 e)
      else (s.remoteWrite iss.who.ctx (s.ctxFunc iss.who.ctx) l.pa l.key 0 d false .none, x.2)) (s, 0)

/-! ### A sequence's SEQ entry (Table 08-8) -/

def SeqRec.promptAddr (x : SeqRec) : Nat := leAt x.entry 24 8
def SeqRec.promptLen (x : SeqRec) : Nat := leAt x.entry 32 4
def SeqRec.maxNew (x : SeqRec) : Nat := leAt x.entry 36 4
def SeqRec.tokenQueue (x : SeqRec) : Nat := bits (leAt x.entry 40 4) 17 0
def SeqRec.firstUs (x : SeqRec) : Nat := leAt x.entry 44 4
def SeqRec.tokenUs (x : SeqRec) : Nat := leAt x.entry 48 4
/-- Prompt tokens not yet in KV. -/
def SeqRec.promptLeft (x : SeqRec) : Nat := x.promptLen - x.promptDone
def SeqRec.decoding (x : SeqRec) : Bool := decide (x.promptLen ≤ x.promptDone)

/-- The sequence runs in the current row. -/
def SeqRec.running (x : SeqRec) : Bool := (decide (x.state = .prefill) || decide (x.state = .decode)) && decide (0 < x.ntok)

/-! ### Publication (R261, R262) -/

def SeqState.code : SeqState → Nat
  | .waiting => 1 | .prefill => 2 | .decode => 3 | .parked => 4 | .leaving => 5

/-- Table 08-7. -/
def SeqRec.bytes (x : SeqRec) : List Byte :=
  leBytes 4 x.tag.toNat ++ leBytes 4 (x.q % 2 ^ 18 + x.state.code * 2 ^ 18 + b2n x.lc * 2 ^ 21) ++ leBytes 4 x.l ++ leBytes 4 x.promptDone ++
    leBytes 4 x.outCount ++ leBytes 4 x.pages.length ++ leBytes 4 x.pagesMax ++ leBytes 2 (sat 16 x.parkRows) ++ leBytes 1 (x.depth % 16) ++
    [0] ++ leBytes 4 x.last.toNat ++ zeros 4 ++ leBytes 8 x.admitNo ++ leBytes 8 x.submit.toNat ++ leBytes 8 x.lastTime.toNat ++
    (x.entry ++ zeros 64).take 64

/-- A FREE slot: the spec gives its STATE; the rest is free. -/
def freeSlotBytes (u slot : Nat) : List Byte :=
  (List.range 128).map fun i =>
    let b := Config.undefByte u (128 * slot + i)
    if i = 6 then b &&& 0xE3 else b

def Rsq.tableBytes (r : Rsq) (u : Nat) : List Byte :=
  (List.range r.cfg.slots).flatMap fun i => match tget r.seqs i with
    | some x => x.bytes
    | none => freeSlotBytes u i

def Rsq.listBytes (r : Rsq) : List Byte :=
  (List.range r.cfg.slots).flatMap fun i =>
    let l := ((tget r.seqs i).map fun x => x.pages).getD []
    ((l ++ List.replicate (r.cfg.maxPages - l.length) 0xFFFFFFFF).take r.cfg.maxPages).flatMap fun n => leBytes 4 n

/-- Table 08-6. -/
def Rsq.ctrlBytes (r : Rsq) (time : W64) : List Byte :=
  let b := leBytes 4 r.pool ++ leBytes 4 r.stack.length ++ leBytes 4 r.lcOut ++ zeros 4 ++ leBytes 8 r.row ++ leBytes 8 r.nextAdmit ++
    leBytes 8 time.toNat
  b ++ leBytes 4 (crc32c b) ++ zeros 20

/-- The free stack in memory: the top is the last entry. -/
def Rsq.stackBytes (r : Rsq) : List Byte := r.stack.reverse.flatMap fun n => leBytes 4 n

/-- Write the four structures back. -/
def State.publishRsq (s : State) (p : Nat) (r : Rsq) : State × Nat :=
  let iss := s.rsqIssuer p r.ctx
  let (u, s) := s.fresh
  let (s, a) := s.seqWrite iss r.cfg.table (r.tableBytes u)
  let (s, b) := s.seqWrite iss r.cfg.lists r.listBytes
  let (s, c) := s.seqWrite iss (r.cfg.ctrl + 64) r.stackBytes
  let (s, d) := s.seqWrite iss r.cfg.ctrl (r.ctrlBytes s.time)
  (s.setReg .RSQ_LAST_ROW_TIME p s.now, worse (worse a b) (worse c d))

/-! ### Reading back (R277) -/

def seqStateOf : Nat → Option SeqState
  | 1 => some .waiting | 2 => some .prefill | 3 => some .decode | 4 => some .parked | _ => none

def wordsOf (b : List Byte) : List Nat := (List.range (b.length / 4)).map fun i => leAt b (4 * i) 4

/-- A slot that is read back; what the table does not hold comes from the working copy of the same sequence, if there is one. -/
def seqOf (old : Option SeqRec) (now : W64) (b : List Byte) (pages : List Nat) (st : SeqState) : SeqRec :=
  let w := leAt b 4 4
  let old := old.bind fun x => if x.tag = w32 (leAt b 0 4) ∧ x.q = bits w 17 0 then some x else none
  { tag := w32 (leAt b 0 4), q := bits w 17 0, state := st, lc := bit w 21, l := leAt b 8 4, promptDone := leAt b 12 4,
    outCount := leAt b 16 4, pages := pages, pagesMax := leAt b 24 4, parkRows := leAt b 28 2, depth := bits (leAt b 30 1) 3 0,
    last := w32 (leAt b 32 4), admitNo := leAt b 40 8, submit := w64 (leAt b 48 8), lastTime := w64 (leAt b 56 8), entry := b.drop 64,
    ntok := 0, tokOff := 0,
    joined := match old with
      | some x => x.joined
      | none => if st = .waiting then none else some now,
    late := (old.map fun x => x.late).getD false, cancelled := (old.map fun x => x.cancelled).getD false }

/-- The slots of a table image with their page lists; none where a slot is not consistent. -/
def readSlots (old : Tab SeqRec) (now : W64) (maxPages : Nat) (table lists : List Byte) : Nat → Option (Tab SeqRec)
  | 0 => some []
  | n + 1 =>
    match readSlots old now maxPages table lists n with
    | none => none
    | some t =>
      let b := (table.drop (128 * n)).take 128
      let code := bits (leAt b 4 4) 20 18
      let held := leAt b 20 4
      if code = 0 then some t
      else
        match seqStateOf code with
        | none => none
        | some st =>
          if maxPages < held then none
          else some (tput t n (seqOf (tget old n) now b (wordsOf ((lists.drop (4 * maxPages * n)).take (4 * held))) st))

/-- Every page that a sequencer's structures name. -/
def Rsq.allPages (r : Rsq) : List Nat := r.stack ++ r.seqs.flatMap fun e => e.2.pages

/-- R277: the control block's CRC and the consistency of every slot. The second component: a page index is out of range (R262). -/
def Rsq.restored (r : Rsq) (now : W64) (ctrl stack table lists : List Byte) : Option Rsq × Bool :=
  match readSlots r.seqs now r.cfg.maxPages table lists r.cfg.slots with
  | none => (none, false)
  | some seqs =>
    let x : Rsq := { r with
      pool := bits (leAt ctrl 0 4) 23 0, stack := (wordsOf stack).reverse, lcOut := leAt ctrl 8 4, row := leAt ctrl 16 8,
      nextAdmit := leAt ctrl 24 8, seqs := seqs, run := none, fault := none }
    let range := x.allPages.any fun i => decide (x.pool ≤ i)
    let ok := decide (crc32c (ctrl.take 40) = leAt ctrl 40 4) && !range && decide (x.allPages.eraseDups.length = x.allPages.length) &&
      decide (x.allPages.length = x.pool)
    (if ok then some x else none, range)

/-- Read the structures back: the sequencer that goes on, or the status of RSQ_START. -/
def State.loadRsq (s : State) (p : Nat) (r : Rsq) : State × Except Nat Rsq :=
  let iss := s.rsqIssuer p r.ctx
  match s.seqRead iss r.cfg.ctrl 64 with
  | (s, .error st) => (s, .error st)
  | (s, .ok ctrl) =>
    if crc32c (ctrl.take 40) ≠ leAt ctrl 40 4 ∨ leAt ctrl 0 4 < leAt ctrl 4 4 then (s, .error 0x0102)
    else
      match s.seqRead iss (r.cfg.ctrl + 64) (4 * leAt ctrl 4 4) with
      | (s, .error st) => (s, .error st)
      | (s, .ok stack) =>
        match s.seqRead iss r.cfg.table (128 * r.cfg.slots) with
        | (s, .error st) => (s, .error st)
        | (s, .ok table) =>
          match s.seqRead iss r.cfg.lists (4 * r.cfg.maxPages * r.cfg.slots) with
          | (s, .error st) => (s, .error st)
          | (s, .ok lists) =>
            match r.restored s.time ctrl stack table lists with
            | (some x, _) => (s, .ok x)
            | (none, range) =>
              let s := if range then (s.setRsqState p 5).setFld .RSQ_FAULT_STATUS p 0x0102 else s
              (s, .error 0x0102)

end Sys2Proof.Machine
end

