-- ==== Sys2Proof/Machine/Outside.lean ====
section
/-! DEFINITION. Accesses from outside the package: the host through BAR4 (R394), and guests (R348). Each translates as an access of a
context through the hub's structures; the fault registers show a SOURCE that the spec does not give: a free value. -/

namespace Sys2Proof.Machine

/-- A host's or a guest's access for a context. -/
def State.outerIssuer (s : State) (ctx : Nat) : Issuer × State :=
  let (n, s) := s.fresh
  (⟨396, ⟨ctx, ((tget s.ctxs ctx).map fun c => c.panel).getD 63, s.isMgr ctx, s.committed⟩, 0, Config.freeNat n % 8⟩, s)

/-- Read bytes whose addresses translate: the bytes and whether a sector was poisoned; none where a part faults. Another package's
bytes are asked for, and are free. -/
def State.outerRead (s : State) (iss : Issuer) (va n : Nat) : State × Option (List Byte × Bool) :=
  (chunks va n).foldl (fun (x : State × Option (List Byte × Bool)) (c : Nat × Nat) =>
    match x.2 with
    | none => x
    | some (acc, p) =>
      match x.1.xlate iss .read c.1 with
      | (s, .error _) => (s, none)
      | (s, .ok l) =>
        if s.isLocal l.pa then
          match s.localRead iss.who l.key (l.pa % 2 ^ 48) c.2 with
          | (s, .ok b q) => (s, some (acc ++ b, p || q))
          | (s, .fault _) => (s, none)
        else
          let s := s.remoteRead iss.who.ctx (s.ctxFunc iss.who.ctx) l.pa l.key l.device .none
          let (u, s) := s.fresh
          (s, some (acc ++ (List.range c.2).map fun i => Config.undefByte u i, p))) (s, some ([], false))

/-! ### BAR4 (R394) -/

/-- An aperture access fails: a read is aborted and a write dropped. -/
def State.apertureFail (s : State) (f : Nat) (read : Bool) : State :=
  let s := s.modFunc f fun g => { g with apErr := sat 16 (g.apErr + 1) }
  if read then (s.bump (unitHost 0) 6 1 none).emit .abort else s

def accIsRead : HostAcc → Bool
  | .read _ => true
  | .write _ _ => false

def accNeed : HostAcc → Need
  | .read _ => .read
  | .write _ _ => .write

def accBytes : HostAcc → Nat
  | .read n => n
  | .write d _ => d.length

/-- HOST_APERTURE_ACCESS. -/
def hostApertureAccess (f off : Nat) (acc : HostAcc) (s : State) : State :=
  let s := s.bump (unitHost 0) 4 1 none
  match tget s.funcs f with
  | none => if accIsRead acc then s.emit .abort else s
  | some g =>
    if ¬ g.apEn ∨ 2 ^ 36 < off + accBytes acc then s.apertureFail f (accIsRead acc)
    else
      let (iss, s) := s.outerIssuer g.apCtx
      match s.probe iss (accNeed acc) (g.apBase + off) (accBytes acc) with
      | (s, some _) => s.apertureFail f (accIsRead acc)
      | (s, none) =>
        match acc with
        | .read n =>
          match s.outerRead iss (g.apBase + off) n with
          | (s, some (b, p)) => s.emit (.memData b p)
          | (s, none) => s.apertureFail f true
        | .write d _ => (s.seqWrite iss (g.apBase + off) d).1

/-! ### Guests (R348) -/

/-- The bit of TXN_REQ that a request needs (Table 10-12). -/
def reqTxn : GuestReq → Nat
  | .rdOnce _ _ => 0
  | .wrLine _ _ _ => 1
  | .wrPtl _ _ _ => 2
  | .atomic _ _ _ _ _ => 3
  | .addLine _ _ _ _ _ _ => 4

def reqVa : GuestReq → Nat
  | .rdOnce a _ | .wrLine a _ _ | .wrPtl a _ _ | .atomic a _ _ _ _ | .addLine a _ _ _ _ _ => a.toNat

def reqBytes : GuestReq → Nat
  | .rdOnce _ n => n
  | .wrLine _ d _ => d.length
  | .wrPtl _ d _ => d.length
  | .atomic _ _ n _ _ => n
  | .addLine _ _ _ _ _ _ => 128

def reqNeed : GuestReq → Need
  | .rdOnce _ _ => .read
  | .wrLine _ _ _ | .wrPtl _ _ _ => .write
  | _ => .atomic

/-- A refused or faulting request: an error response, and nothing changes. -/
def State.guestRefuse (s : State) (site st : Nat) : State :=
  ((s.incFld .GST_ERR_REFUSED site 1).bump (unitGuest site) 4 1 none).emit (.guestAck site st 0)

/-- A request stays within this package's memory. -/
def State.guestLocal (s : State) (iss : Issuer) (q : GuestReq) : Bool :=
  (chunks (reqVa q) (reqBytes q)).all fun c => match (s.xlate iss (reqNeed q) c.1).2 with
    | .ok x => s.isLocal x.pa
    | .error _ => true

/-- A request whose addresses translate is performed. -/
def State.guestDo (s : State) (site : Nat) (iss : Issuer) (q : GuestReq) : State :=
  match q with
  | .rdOnce a n =>
    match s.outerRead iss a.toNat n with
    | (s, some (b, p)) => s.emit (.guestData site b p)
    | (s, none) => s.guestRefuse site 0x0301
  | .wrLine a d _ | .wrPtl a d _ =>
    match s.seqWrite iss a.toNat d with
    | (s, 0) => s.emit (.guestAck site 0 0)
    | (s, st) => s.guestRefuse site st
  | .atomic a op n x y =>
    match s.xlate iss .atomic a.toNat with
    | (s, .error f) => s.guestRefuse site (causeStatus f.cause)
    | (s, .ok l) =>
      match s.atomicAt ((s.keyOf l.key).getD 0) (l.pa % 2 ^ 48) op n x.toNat y.toNat with
      | (s, .ok old) => s.emit (.guestAck site 0 (w64 old))
      | (s, .error st) => s.guestRefuse site st
  | .addLine a m rop exact anchor p =>
    match s.xlate iss .atomic a.toNat with
    | (s, .error f) => s.guestRefuse site (causeStatus f.cause)
    | (s, .ok l) =>
      if l.device ∨ region (l.pa % 2 ^ 48) ≠ .hbm then s.guestRefuse site 0x0301
      else
        let w := iss.who
        let (s, n) := s.addLineAt ⟨(s.keyOf l.key).getD 0, w.ctx, if w.panel < 48 then some w.panel else none, false⟩
          (l.pa % 2 ^ 48 / 128) m.toNat rop exact false anchor p 0
        s.emit (.guestAck site n 0)

/-- GUEST_REQUEST: a site in service; the transaction is one it declared, under a bound context, to this package. -/
def guestRequest (site : Nat) (q : GuestReq) (s : State) : State :=
  if ¬ (site < 2 ∧ s.fld .GST_STATUS_STATE site = 4) then s
  else
    let s := s.bump (unitGuest site) 2 1 none
    if s.fld .GST_BIND_VALID site = 0 ∨ ¬ (bit (s.fld .GST_CAP_TXN_REQ site) (reqTxn q)) then s.guestRefuse site 0x0301
    else
      let (iss, s) := s.outerIssuer (s.fld .GST_BIND_CTX site)
      match s.probe iss (reqNeed q) (reqVa q) (reqBytes q) with
      | (s, some f) => s.guestRefuse site (causeStatus f.cause)
      | (s, none) => if s.guestLocal iss q then s.guestDo site iss q else s.guestRefuse site 0x0301

end Sys2Proof.Machine
end

