-- ==== Sys2Proof/Machine/Manage.lean ====
section
/-! DEFINITION. What the MGC does: firmware (15.4), attestation and SPDM (12.9), PLDM on the sideband (16.7), the test access port and the
debug access port (14.7), and ATS invalidations (12.1). -/

/-- Whether a firmware bundle verifies (R412, R472), and if it does its version, lowest SVN and compatibility class. -/
opaque Sys2Proof.Config.fwBundle : List Sys2Proof.Byte → Option (Sys2Proof.W16 × Nat × Sys2Proof.W16)

namespace Sys2Proof.Machine

/-! ### FW_STAGE (R477) -/

/-- The fields of the command: a local HBM address, LENGTH and KIND. -/
def fwStageChecks (s : State) (r : List Byte) : List (Bool × Nat) :=
  let a := leAt r 16 8
  let n := leAt r 24 4
  let image := bit (leAt r 28 1) 0
  [(nzBits r 28 7 1 || nonzero r 29 64, 0x0102), (decide (a % 64 ≠ 0) || !(inHbm a n), 0x0102),
   ((!image && decide (0x1000000 < n)) || (image && decide (n ≠ 1024)), 0x0102),
   (s.stageBusy || decide (s.boot = .bindOff), 0x0104)]

/-- The bytes at SRC_ADDR, or the status of a bundle or image that is refused. -/
def State.stageBytes (s : State) (r : List Byte) : State × Except Nat (List Byte) :=
  match s.readPhys s.hubWho 63 (leAt r 16 8) (leAt r 24 4) with
  | (s, none) => (s, .error 0x0302)
  | (s, some b) =>
    if bit (leAt r 28 1) 0 then (if imgOk b then (s, .ok b) else (s, .error 0x0102))
    else
      match Config.fwBundle b with
      | none => (s, .error 0x0102)
      | some (_, svn, _) => if svn < s.fuses.minSvn then (s, .error 0x0102) else (s, .ok b)

/-- The copy that does not run is B. -/
def State.otherIsB (s : State) : Bool := decide (s.fld .GLB_BOOT_STATUS_FW_COPY 0 = 0)

/-- The copy that does not run. -/
def State.setOther (s : State) (x : FwCopy) : State :=
  let fl := if s.otherIsB then { s.flash with b := x } else { s.flash with a := x }
  let s := { s with flash := fl }
  (s.setFld .SRV_FW_STATUS_INACTIVE_VALID 0 (b2n x.good)).setFld .SRV_FW_STATUS_STAGED_VERSION 0 (if x.good then x.version.toNat else 0)

/-- Erase what is about to be written. -/
def State.eraseOther (s : State) (image : Bool) : State :=
  if image then { s with flash := { s.flash with image := [] } }
  else s.setOther { (if s.otherIsB then s.flash.b else s.flash.a) with good := false }

/-- Write a bundle into the copy that does not run, or the configuration image, and verify it. -/
def State.writeFlash (s : State) (image : Bool) (b : List Byte) (flashOk : Bool) : State × Nat :=
  if ¬ flashOk then (s.eraseOther image, 0x0104)
  else if image then ({ s with flash := { s.flash with image := b } }, 0)
  else
    match Config.fwBundle b with
    | none => (s.eraseOther false, 0x0104)
    | some (v, svn, c) => (s.setOther ⟨true, v, svn, c⟩, 0)

/-- The stage begins by erasing, so that one that is abandoned leaves what it was writing invalid (R479), and then writes. -/
def fwStageBody (flashOk : Bool) (s : State) (c : Cmd) : State × Option Nat :=
  let image := bit (leAt c.raw 28 1) 0
  if c.step = 0 then
    let bad := checkStatus (fwStageChecks s c.raw)
    if bad ≠ 0 then (s, some bad)
    else
      match s.stageBytes c.raw with
      | (s, .error st) => (s, some st)
      | (s, .ok _) => ((s.modCmd c.id fun c => { c with step := 1 }).eraseOther image, none)
  else
    match s.stageBytes c.raw with
    | (s, .error _) => (s, some 0x0104)
    | (s, .ok b) =>
      match s.writeFlash image b flashOk with
      | (s, st) => (s, some st)

/-! ### FW_ACTIVATE (R478) -/

def fwActivateChecks (s : State) (r : List Byte) : List (Bool × Nat) :=
  [(nzBits r 16 7 2 || nonzero r 17 64, 0x0102), (decide (s.fld .SRV_FW_STATUS_INACTIVE_VALID 0 = 0), 0x0102)]

/-- FW_ACTIVATE: with NOW = 1 it performs reset step 4, whose findings are free (log entry 25), and leaves no command to complete. -/
def fwActivate (id : Nat) (s : State) : State :=
  match s.cmd id with
  | none => s
  | some c =>
    if c.opcode = 0x0F06 ∧ s.startable c ∧ checkStatus (fwActivateChecks s c.raw) = 0 ∧ bit (leAt c.raw 16 1) 0 = true ∧ s.boot = .ready then
      let (n, s) := s.fresh
      (s.preferOther c.raw).packageReset (Config.bootInputs n)
    else
      s.runCmd id 0x0F06 fun s c =>
        let bad := checkStatus (fwActivateChecks s c.raw)
        if bad ≠ 0 then (s, some bad)
        else if bit (leAt c.raw 16 1) 0 then (s, some 0x0104)
        else (s.preferOther c.raw, some 0)

/-! ### Attestation (R413, R414) -/

def attestChecks (_ : State) (r : List Byte) : List (Bool × Nat) :=
  let n := leAt r 24 4
  [(nonzero r 40 64, 0x0102), (decide (n = 0) || decide (4096 < n), 0x0102)]

/-- A physical range that the hub cannot read or write: its status. -/
def State.physStatus (s : State) (a n : Nat) : Nat := if (chunks a n).all fun c => s.paOk s.hubWho c.1 then 0x0302 else 0x0301

/-- The MGC's response to one request; a response that does not fit is not written. -/
def attestDo (s : State) (r : List Byte) : State × Nat :=
  match s.readPhys s.hubWho 63 (leAt r 16 8) (leAt r 24 4) with
  | (s, none) => (s, s.physStatus (leAt r 16 8) (leAt r 24 4))
  | (s, some q) =>
    let (n, s) := s.fresh
    let a := Config.spdmReply q n
    if leAt r 28 4 < a.length + 4 then (s, 0x0104)
    else
      match s.writePhys s.hubWho 63 (leAt r 32 8) (leBytes 4 a.length ++ a) with
      | (s, true) => (s, 0)
      | (s, false) => (s, s.physStatus (leAt r 32 8) (a.length + 4))

/-- The MGC runs its firmware. -/
def State.mgcUp (s : State) : Bool :=
  match s.boot with
  | .off | .recovery | .halted => false
  | _ => true

/-- SPDM_REQUEST on the sideband. The spec does not give the bytes of a response. -/
def spdmRequest (bytes : List Byte) (_known : Bool) (s : State) : State :=
  if s.mgcUp then
    let (n, s) := s.fresh
    s.emit (.spdm (Config.spdmReply bytes n))
  else s

/-- The configuration image holds the hash of a requester certificate (Table 15-3). -/
def State.reqCert (s : State) : Bool := nonzero s.flash.inUse 88 136

/-- FLEET_KEY_SET: within a session that was authenticated against the image's hash, the key becomes the wrapping key. Its identity is the
key itself, above those of keys that packages generate. -/
def fleetKeySet (key : BitVec 256) (sessionOk : Bool) (s : State) : State :=
  if s.mgcUp ∧ sessionOk ∧ s.reqCert = true then
    let s := { s with mwk := 2 ^ 64 + key.toNat }
    let s := (s.setFld .MGT_SEC_STATUS_MWK_FLEET 0 1).setFld .MGT_SEC_STATUS_MWK_LOADED 0 1
    let (n, s) := s.fresh
    s.emit (.spdm (Config.spdmReply (leBytes 32 key.toNat) n))
  else
    let (n, s) := s.fresh
    if s.mgcUp then s.emit (.spdm (Config.spdmReply (leBytes 32 key.toNat) n)) else s

/-! ### PLDM (R501, R470) -/

/-- Sensor 10. -/
def State.packageState (s : State) : Option Nat :=
  match s.boot with
  | .off | .halted => none
  | .vinWait => some 1
  | .ready => some 2
  | .mgmtOnly => some 3
  | .recovery => some 4
  | .bindOff => some 5
  | .bound => some 6
  | .inputFault => some 7
  | .tripped => none

/-- A sensor's value; none for one that the spec does not give. -/
def State.pldmSensor (s : State) (sid : Nat) : Option Nat :=
  match sid with
  | 1 => some (s.fld .PWR_MEAS_POWER_W 0)
  | 2 => some (s.fld .PWR_MEAS_VIN 0)
  | 3 => some (s.fld .PWR_MEAS_IIN 0)
  | 4 => some (s.fld .PWR_THERMAL_HOT_C 0)
  | 5 => some (s.fld .PWR_THERMAL_STACK_C 0)
  | 10 => s.packageState
  | 11 => some (s.reg .SRV_ALERT 0)
  | _ => none

/-- PLDM_GET_SENSOR. Other sensors, such as the fused laser bias limits (R504), answer free values. -/
def pldmGetSensor (sid : Nat) (s : State) : State :=
  if s.mgcUp ∨ s.boot = .recovery then
    match s.pldmSensor sid with
    | some v => s.emit (.pldm (w64 v))
    | none =>
      let (n, s) := s.fresh
      s.emit (.pldm (Config.freeWord n))
  else s

/-- A class 0x07 command of one 16-bit field and one flag, as its checks see it. -/
def effecterRaw (v flag : Nat) : List Byte := zeros 16 ++ leBytes 2 v ++ leBytes 1 flag ++ zeros 45

def State.pldmOk (s : State) : State := s.emit (.pldm 0)

/-- PLDM_SET_EFFECTER: checked as the command or register write is; a write that fails is answered so, and changes nothing. -/
def pldmSetEffecter (eid : Nat) (value : W64) (s : State) : State :=
  let v := value.toNat
  let refuse := s.emit .pldmError
  if ¬ s.mgcUp then s
  else
    match eid with
    | 20 =>
      let r := effecterRaw (v % 2 ^ 16) 0
      if s.boot = .mgmtOnly ∨ checkStatus (capSetChecks s r) ≠ 0 then refuse else (capSetDo s r).pldmOk
    | 21 =>
      let r := effecterRaw (v % 2 ^ 15) (bits v 15 15)
      if s.boot = .mgmtOnly ∨ checkStatus (shedLevelSetChecks s r) ≠ 0 then refuse else (shedLevelSetDo s r).pldmOk
    | 22 =>
      if s.boot = .mgmtOnly then refuse
      else match v with
        | 1 => (shedDo s).pldmOk
        | 2 => (restoreDo s).pldmOk
        | _ => refuse
    | 23 =>
      if ¬ (s.resetRegOk true value) then refuse
      else if (stepOfReg value).step = 4 then
        let (n, s) := s.fresh
        (s.packageReset (Config.bootInputs n)).pldmOk
      else (s.acceptReset (stepOfReg value) none).pldmOk
    | 24 => if bits v 63 48 = 0x424F ∧ s.boot = .ready then (bindOff .sideband value s).pldmOk else refuse
    | _ => refuse

/-- A verified bundle: the figures of its images are free where the operands do not show them. -/
def State.pldmCopy (s : State) : State × FwCopy :=
  let (n, s) := s.fresh
  (s, ⟨true, w16 (Config.freeNat (2 * n)), Config.freeNat (2 * n + 1), w16 (Config.freeNat n)⟩)

/-- Cast-on goes on from step 2 after a bundle was received in the recovery state. -/
def State.castAgain (s : State) (b : BootInputs) : State :=
  let s := ((s.setFld .GLB_BOOT_STATUS_RECOVERY 0 0).setFld .GLB_BOOT_STATUS_FAIL_STEP 0 0).setFld .GLB_BOOT_STATUS_CAUSE 0 0
  let power := decide (s.fld .GLB_BOOT_STATUS_FROM_POWER 0 = 1)
  if ¬ b.romOk then s.bootFail 2 0x21 .halted
  else match (s.bootStep 2).bootLoad power b with
  | (s, false) => s
  | (s, true) =>
    if s.pins.stage48 then s.bootRest power b ((List.range 16).map fun h => bit (s.fld .HBM_G_STATUS_IN_SERVICE 0) h)
    else { s.setFld .GLB_BOOT_STATUS_VIN_WAIT 0 1 with boot := .vinWait }

/-- PLDM_FW_UPDATE: a configuration image, or with no bytes a bundle that verifies or not. In the recovery state a bundle goes into the
copy with the lower version and cast-on goes on from step 2; otherwise it is staged as FW_STAGE would. -/
def pldmFwUpdate (image : List Byte) (bundleOk : Bool) (b : BootInputs) (s : State) : State :=
  if s.boot = .recovery then
    if image ≠ [] ∨ bundleOk = false then s.emit .pldmError
    else
      let (s, x) := s.pldmCopy
      let fl := if s.flash.b.version.toNat < s.flash.a.version.toNat then { s.flash with b := x } else { s.flash with a := x }
      ({ s with flash := fl }.castAgain b).pldmOk
  else if ¬ s.mgcUp then s
  else if s.stageBusy ∨ s.boot = .bindOff ∨ (image ≠ [] ∧ imgOk image = false) ∨ (image = [] ∧ bundleOk = false) then s.emit .pldmError
  else if image ≠ [] then ({ s with flash := { s.flash with image := image } }).pldmOk
  else
    let (s, x) := s.pldmCopy
    if x.svn < s.fuses.minSvn then s.emit .pldmError else (s.setOther x).pldmOk

/-! ### The TAP (R459, R503) -/

/-- What an instruction of the TAP selects, by its code. -/
def State.tapShift (s : State) (code : Nat) : State × W64 :=
  match code with
  | 0x01 => (s, w64 s.idcode)
  | 0x00 | 0x02 =>
    let (n, s) := s.fresh
    (s, Config.freeWord n)
  | _ => (s, 0)

/-- An instruction is loaded: the register that it selects captures, and shifts out. -/
def State.tapLoad (s : State) (code : Byte) : State :=
  let (s, v) := s.tapShift code.toNat
  { s with tap := { s.tap with instr := code, shift := v } }.emit (.tap v)

/-- An instruction that drives pins acts as BYPASS unless TRAY_RST_N is asserted. -/
def State.tapPins (s : State) (code : Byte) : State :=
  if s.pins.trayRst then s.tapLoad code
  else
    let s := { s with tap := { s.tap with instr := code, shift := 0 } }
    s.emit (.tap 0)

def tapExtest (s : State) : State := s.tapPins 0x00
def tapIdcode (s : State) : State := s.tapLoad 0x01
def tapSamplePreload (v : W64) (s : State) : State :=
  let s := s.tapLoad 0x02
  { s with tap := { s.tap with preload := v } }
def tapClamp (s : State) : State := s.tapPins 0x03
def tapHighz (s : State) : State := s.tapPins 0x04
def tapDap (s : State) : State := s.tapLoad 0x20
def tapReset (s : State) : State := s.tapLoad 0x01

/-- A code that names no instruction. -/
def tapListed (code : Byte) : Bool := [0x00, 0x01, 0x02, 0x03, 0x04, 0x20].contains code.toNat

def tapBypass (code : Byte) (s : State) : State := if tapListed code then s else s.tapLoad code

/-- What the boundary register's outputs do now: none where the functions drive them, the preloaded value, or nothing (HIGHZ). -/
def State.boundary1149 (s : State) : Option (Option W64) :=
  if ¬ s.pins.trayRst then none
  else
    match s.tap.instr.toNat with
    | 0x00 | 0x03 => some (some s.tap.preload)
    | 0x04 => some none
    | _ => none

/-! ### The debug access port (R460) -/

/-- DAP_AUTHORISE: the token names this package and its signature holds. -/
def dapAuthorise (serial : W32) (signatureOk : Bool) (s : State) : State :=
  if s.mgcUp ∧ s.tap.instr = 0x20 ∧ signatureOk ∧ serial = s.fuses.serial then s.setFld .DBG_STATUS_AUTH 0 1 else s

/-- An access that the port refuses: reads return zero. -/
def State.dapRefuse (s : State) : DapAcc → State
  | .readReg _ => s.refuseDebug.emit (.regData 0)
  | .readMem _ n _ => s.refuseDebug.emit (.memData (zeros n) false)
  | _ => s.refuseDebug

def State.isDbgId (s : State) : DapAcc → Bool
  | .readReg off => match s.regAt .dap off with
    | some (.DBG_ID, _, _) => true
    | _ => false
  | _ => false

/-- Memory is read and written under a key slot; what cannot be read reads as poisoned zeros. -/
def State.dapDo (s : State) : DapAcc → State
  | .readReg off =>
    let (s, v) := s.readAt .dap off .full
    s.emit (.regData (w64 v))
  | .writeReg off v => s.writeAt .dap off .full v.toNat
  | .readMem a n k =>
    match s.readPhys s.hubWho k a n with
    | (s, some b) => s.emit (.memData b false)
    | (s, none) => s.emit (.memData (zeros n) true)
  | .writeMem a d k => (s.writePhys s.hubWho k a d).1

/-- DAP_ACCESS. -/
def dapAccess (a : DapAcc) (s : State) : State :=
  if ¬ (s.mgcUp ∧ s.tap.instr = 0x20) then s
  else if s.fld .DBG_STATUS_AUTH 0 = 1 ∨ s.isDbgId a = true then s.dapDo a
  else s.dapRefuse a

/-! ### ATS (R392) -/

/-- ATS_INVALIDATION: every access that used the translation has completed, since an access to the host window completes within its step. -/
def atsInvalidation (f : Nat) (_va : W64) (_len : Nat) (s : State) : State :=
  match tget s.funcs f with
  | some g => if g.atsEn then s.emit (.atsDone f) else s
  | none => s

end Sys2Proof.Machine
end

