-- ==== Sys2Proof/Machine/RsqConfig.lean ====
section
/-! DEFINITION. The sequencer commands (08.2, 08.9): RSQ_CONFIG with the descriptor, the row program and the row bound, RSQ_START,
RSQ_STOP, SEQ_CANCEL and POOL_RESIZE. -/

namespace Sys2Proof.Machine

/-! ### The row program (Table 08-5) -/

def eStage (e : List Byte) : Nat := bits (leAt e 128 1) 1 0
def eFlag (e : List Byte) (i : Nat) : Bool := bit (leAt e 129 1) i
def eBuiltin (e : List Byte) : Bool := eFlag e 5
def eRowOff (e : List Byte) : Nat := leAt e 130 2
def eStepOff (e : List Byte) : Nat := leAt e 132 2

/-- The command of an entry: 128 bytes in the expert form, else 64. -/
def eCmd (e : List Byte) : List Byte := if hExpert e then e.take 128 else e.take 64

/-- The descriptor fields that the checks of the program need. -/
structure ProgLimits where
  ctx : Nat
  tiles : Nat
  tokMax : Nat
  seqMax : Nat
  draftMax : Nat
  deriving DecidableEq, Repr

/-- R258: the command of an entry. -/
def State.entryCmdBad (s : State) (l : ProgLimits) (e : List Byte) : Bool :=
  let r := eCmd e
  let op := hOpcode r
  let cls := hCls r
  !((decide (cls = 1) || decide (op = 0x0201) || decide (op = 0x0301) || decide (cls = 6)) && (opInfo op).isSome) ||
    (!(hExpert r) && nonzero e 64 128) || hReservedBad r || (hExpert r && !((opInfo op).any fun i => i.expert)) ||
    decide (hCtx r ≠ l.ctx) || hLc r || decide (hDeadline r ≠ 0) || decide (hTag r ≠ 0) ||
    (usesTiles op && hExpert r && decide (tileMask r ||| l.tiles ≠ l.tiles)) ||
    (decide (op = 0x0301) && (s.declared l.ctx r).isNone) || s.maskBarred r

/-- R258 and Table 08-5: one entry. -/
def State.entryBad (s : State) (l : ProgLimits) (e : List Byte) : Bool :=
  let op := hOpcode e
  nzBits e 128 7 2 || nzBits e 129 7 6 || nonzero e 134 256 || (eFlag e 0 && eFlag e 1) ||
    ((eFlag e 0 || eFlag e 1) && decide (op ≠ 0x0201)) || (eFlag e 2 && decide (op ≠ 0x0301)) ||
    (eFlag e 3 && (decide (eRowOff e < 16) || decide (120 < eRowOff e) || decide (eRowOff e % 8 ≠ 0))) ||
    (eFlag e 4 && (decide (eStage e ≠ 1) || decide (eStepOff e < 16) || decide (124 < eStepOff e) || decide (eStepOff e % 4 ≠ 0))) ||
    (if eBuiltin e then decide (eStage e ≠ 3) || nonzero e 0 128 else s.entryCmdBad l e)

/-- The stages do not fall. -/
def stageOrder : List (List Byte) → Bool
  | a :: b :: t => decide (eStage a ≤ eStage b) && stageOrder (b :: t)
  | _ => true

/-- R258: the whole program. -/
def State.progBad (s : State) (l : ProgLimits) (prog : List (List Byte)) : Bool :=
  prog.any (s.entryBad l) || !(stageOrder prog) || !(prog.any fun e => decide (eStage e = 2)) ||
    decide ((prog.filter eBuiltin).length ≠ 1)

/-- Patch an entry's command with the row's sizes, its descriptor's address and the draft step. -/
def patchCmd (e : List Byte) (tokens seqs addr step : Nat) : List Byte :=
  let e := if eFlag e 0 then patch e 48 (leBytes 4 tokens) else if eFlag e 1 then patch e 48 (leBytes 4 seqs) else e
  let e := if eFlag e 2 then patch e 32 (leBytes 4 seqs) else e
  let e := if eFlag e 3 then patch e (eRowOff e) (leBytes 8 addr) else e
  eCmd (if eFlag e 4 then patch e (eStepOff e) (leBytes 4 step) else e)

/-! ### The row bound (R260) -/

/-- Declared beats and bytes of one issue of an entry, at the largest sizes; a basic GEMM runs on those of TILES whose managed portion
has at least 8 MiB (R67, R245). -/
def State.entryWork (s : State) (l : ProgLimits) (e : List Byte) : Nat × Nat :=
  if eBuiltin e then (2 * l.tokMax, 12 * l.tokMax + 64 * l.seqMax)
  else
    let r := patchCmd e l.tokMax l.seqMax 0 l.draftMax
    match hCls r with
    | 1 => (0, moveWork r)
    | 2 => (gemmWorkBeats r (if hExpert r then (maskBits (tileMask r) 48).length else
        ((maskBits l.tiles 48).filter fun t => decide (s.cfg.userMib t ≤ 24)).length), gemmWorkBytes r)
    | 3 => (s.declared l.ctx r).getD (0, 0)
    | _ => (0, 0)

/-- ROW_WC, rounded up to µs; `g` beats/µs and `w` GB/s. -/
def State.rowBound (s : State) (l : ProgLimits) (slots g w : Nat) (prog : List (List Byte)) : Nat :=
  let (b, y, n) := prog.foldl (fun (x : Nat × Nat × Nat) e =>
    let k := if eStage e = 1 then l.draftMax else 1
    let v := s.entryWork l e
    (x.1 + k * v.1, x.2.1 + k * v.2, x.2.2 + k)) (0, 0, 0)
  let f := ((Frac.mk slots 250).add ⟨b, g⟩).add ⟨y, 1000 * w⟩
  3 + n + ceilDiv f.num f.den

/-! ### RSQ_CONFIG (R255 to R257, R260) -/

/-- The panel of the context that issues a command. -/
def State.ctxPanel (s : State) (r : List Byte) : Nat := ((tget s.ctxs (hCtx r)).map fun c => c.panel).getD 63

def rsqConfigChecks (s : State) (r : List Byte) : List (Bool × Nat) :=
  [(nonzero r 24 64 || (hExpert r && (nzBits r 69 7 1 || nonzero r 70 128 || decide (100 < leAt r 68 1))), 0x0102),
   (s.rsqStarted (s.ctxPanel r), 0x0104)]

/-- An expert field, or its default where it is 0 or the form is basic. -/
def policy (r : List Byte) (off n dflt : Nat) : Nat := if hExpert r ∧ leAt r off n ≠ 0 then leAt r off n else dflt

/-- Table 08-2 and Table 08-4. -/
def rsqCfgOf (r d : List Byte) : RsqCfg :=
  { poolBase := leAt d 0 8, ctrl := leAt d 8 8, table := leAt d 16 8, lists := leAt d 24 8, rowBuf := leAt d 32 8, poolPages := leAt d 48 3,
    rowBufBytes := leAt d 52 4, tokMax := leAt d 56 4, slot64 := leAt d 60 2, slots := leAt d 62 2, seqMax := leAt d 64 2,
    maxPages := leAt d 66 2, chunk := leAt d 68 2, draftMax := bits (leAt d 72 1) 3 0, lcEn := bit (leAt d 73 1) 0, tiles := leAt d 80 6,
    parkLimit := policy r 64 2 64, joinMax := policy r 66 2 0, prefillPct := policy r 68 1 100,
    joinParked := hExpert r && bit (leAt r 69 1) 0 }

/-- R255, R256: reserved fields, ranges and alignment. -/
def descBad (c : RsqCfg) (d : List Byte) : Bool :=
  let out (n lo hi : Nat) : Bool := decide (n < lo) || decide (hi < n)
  nonzero d 51 52 || nzBits d 72 7 4 || nzBits d 73 7 1 || nonzero d 74 80 || nonzero d 86 256 ||
    decide (c.poolBase % 65536 ≠ 0) || [c.ctrl, c.table, c.lists, c.rowBuf, leAt d 40 8].any (fun a => decide (a % 64 ≠ 0)) ||
    out c.poolPages 1 16777215 || out c.tokMax 1 65536 || out c.slot64 1 1024 || out c.slots 1 4096 || out c.seqMax 1 c.slots ||
    out c.maxPages 1 16384 || out c.chunk 16 8192 || decide (c.chunk % 16 ≠ 0) || out (leAt d 70 2) 1 512 || decide (8 < c.draftMax) ||
    decide (c.tiles = 0) || decide (c.rowBufBytes % 64 ≠ 0) || decide (c.rowBufBytes < 64 + 64 * c.seqMax + 12 * c.tokMax) ||
    decide (c.tokMax < c.seqMax * (1 + c.draftMax) + c.chunk)

/-- The tiles of TILES are present and the panel's. -/
def State.rsqTilesOk (s : State) (p tiles : Nat) : Bool :=
  (maskBits tiles 48).all fun t => s.tilePresent t && decide ((s.tile t).owner = some p)

def RsqCfg.limits (c : RsqCfg) (ctx : Nat) : ProgLimits := ⟨ctx, c.tiles, c.tokMax, c.seqMax, c.draftMax⟩

/-- The checks that need the descriptor and the program. -/
def State.rsqCfgStatus (s : State) (p ctx : Nat) (c : RsqCfg) (prog : List (List Byte)) : Nat :=
  checkStatus
    [(s.progBad (c.limits ctx) prog, 0x0102),
     (decide (16384 < c.slots + ((s.rsqs.filter fun e => decide (e.1 ≠ p)).map fun e => e.2.cfg.slots).sum), 0x0104),
     (!(s.rsqTilesOk p c.tiles), 0x0104),
     (c.lcEn && !(s.lcReserved p), 0x0103)]

/-- The panel's sequencer is configured, with its registers reset (R283). -/
def State.configureRsq (s : State) (p ctx : Nat) (c : RsqCfg) (prog : List (List Byte)) : State :=
  let wc := if s.lcReserved p then s.rowBound (c.limits ctx) c.slots (s.fld .PWR_PANEL_RESERVED_G p) (s.cfg.panel p).w prog else 0
  let s := [Reg.RSQ_STATUS, .RSQ_ROW, .RSQ_POOL, .RSQ_SEQS, .RSQ_LAST_ROW_TIME, .RSQ_COUNTS, .RSQ_FAULT].foldl
    (fun s x => s.resetReg x p) s
  ((s.setReg .RSQ_ROW_WC p (sat 32 wc)).setRsqState p 1).putRsq p
    { cfg := c, ctx := ctx, prog := prog, pool := c.poolPages, stack := [], lcOut := 0, row := 0, nextAdmit := 0, seqs := [], run := none,
      stop := [], resize := none, fault := none, byFreeze := false }

def splitEvery (n : Nat) (b : List Byte) : Nat → List (List Byte)
  | 0 => []
  | k + 1 => b.take n :: splitEvery n (b.drop n) k

def rsqConfigBody (s : State) (c : Cmd) : State × Option Nat :=
  let bad := checkStatus (rsqConfigChecks s c.raw)
  let iss := s.rsqIssuer c.panel c.ctx
  if bad ≠ 0 then (s, some bad)
  else if c.lost then (s, some 0)
  else
    match s.readWhole c iss (leAt c.raw 16 8) 256 with
    | (s, none) => (s, none)
    | (s, some (.error st)) => (s, some st)
    | (s, some (.ok d)) =>
      let k := rsqCfgOf c.raw d
      if descBad k d then (s, some 0x0102)
      else
        let n := leAt d 70 2
        match s.readWhole c iss (leAt d 40 8) (256 * n) with
        | (s, none) => (s, none)
        | (s, some (.error st)) => (s, some st)
        | (s, some (.ok b)) =>
          let prog := splitEvery 256 b n
          let st := s.rsqCfgStatus c.panel c.ctx k prog
          if st ≠ 0 then (s, some st) else (s.configureRsq c.panel c.ctx k prog, some 0)

/-! ### RSQ_START (R277, R264) -/

/-- The sequencer of the issuing context's panel. -/
def State.rsqOf (s : State) (r : List Byte) : Option Rsq := tget s.rsqs (s.ctxPanel r)

def rsqStartChecks (s : State) (r : List Byte) : List (Bool × Nat) :=
  let p := s.ctxPanel r
  [(nzBits r 16 7 1 || nonzero r 17 64, 0x0102),
   ((s.rsqOf r).isNone || s.rsqStarted p, 0x0104),
   (match s.rsqOf r with
    | some x => (!x.cfg.lcEn && !(s.beAllowed x.ctx s.committed)) || !(s.rsqTilesOk p x.cfg.tiles)
    | none => false, 0x0104)]

/-- The sequencer as RESUME = 0 starts it: no sequence, page 0 on top of the stack. -/
def Rsq.emptied (r : Rsq) : Rsq :=
  { r with stack := List.range r.pool, lcOut := 0, row := 0, seqs := [], run := none, fault := none }

def State.beginRsq (s : State) (p : Nat) (r : Rsq) : State × Option Nat := ((s.setRsqState p 2).putRsq p { r with byFreeze := false }, some 0)

/-- An LC sequencer takes its tiles as an LC job; until they are free their BE units are stopped. -/
def rsqStartBody (s : State) (c : Cmd) : State × Option Nat :=
  let bad := checkStatus (rsqStartChecks s c.raw)
  if bad ≠ 0 then (s, some bad)
  else
    match tget s.rsqs c.panel with
    | none => (s, some 0x0104)
    | some r =>
      let l := if r.cfg.lcEn then maskBits r.cfg.tiles 48 else []
      if l.any fun t => (s.tile t).lc.isSome then (s, none)
      else if l.any fun t => (s.tile t).unit.isSome then (s.stopForLc l, none)
      else if bit (leAt c.raw 16 1) 0 then
        match s.loadRsq c.panel r with
        | (s, .error st) => (s, some st)
        | (s, .ok x) => (s.ownTiles l (.seq c.panel)).beginRsq c.panel x
      else
        match s.publishRsq c.panel r.emptied with
        | (s, 0) => (s.ownTiles l (.seq c.panel)).beginRsq c.panel r.emptied
        | (s, st) => (s, some st)

/-! ### RSQ_STOP, SEQ_CANCEL, POOL_RESIZE (R278 to R280) -/

def rsqStopChecks (s : State) (r : List Byte) : List (Bool × Nat) :=
  let m := bits (leAt r 16 1) 1 0
  [(nzBits r 16 7 2 || nonzero r 17 64 || decide (m = 0) || decide (m = 3), 0x0102), ((s.rsqOf r).isNone, 0x0104)]

/-- RSQ_STOP waits for the boundary that stops the sequencer; one that is not started has nothing to stop. -/
def rsqStopBody (s : State) (c : Cmd) : State × Option Nat :=
  let bad := checkStatus (rsqStopChecks s c.raw)
  let m := bits (leAt c.raw 16 1) 1 0
  if c.step = 1 then (s, none)
  else if bad ≠ 0 then (s, some bad)
  else if ¬ (s.rsqStarted c.panel) then (s.releaseSeqTiles c.panel, some 0)
  else
    let s := if m = 1 then s.setRsqState c.panel 3 else s
    (({ s with rsqs := tmod s.rsqs c.panel fun r => { r with stop := r.stop ++ [(m, c.id)] } }).modCmd c.id fun c => { c with step := 1 }, none)

/-- The sequence that a SEQ_CANCEL names. -/
def Rsq.named (r : Rsq) (q : Nat) (tag : W32) : Option (Nat × SeqRec) :=
  r.seqs.find? fun e => decide (e.2.q = q) && decide (e.2.tag = tag)

def State.cancelled (s : State) (r : List Byte) : Option (Nat × SeqRec) :=
  (s.rsqOf r).bind fun x => x.named (bits (leAt r 16 4) 17 0) (w32 (leAt r 20 4))

def seqCancelChecks (s : State) (r : List Byte) : List (Bool × Nat) :=
  [(decide (bits (leAt r 16 4) 31 18 ≠ 0) || nonzero r 24 64, 0x0102), ((s.rsqOf r).isSome && (s.cancelled r).isNone, 0x0102),
   ((s.rsqOf r).isNone, 0x0104)]

def seqCancelDo (s : State) (r : List Byte) : State × Nat :=
  match s.cancelled r with
  | none => (s, 0x0102)
  | some (slot, _) =>
    ({ s with rsqs := tmod s.rsqs (s.ctxPanel r) fun x => { x with seqs := tmod x.seqs slot fun y => { y with cancelled := true } } }, 0)

def poolResizeChecks (s : State) (r : List Byte) : List (Bool × Nat) :=
  [(nonzero r 19 64 || decide (leAt r 16 3 = 0), 0x0102), ((s.rsqOf r).isNone, 0x0104)]

/-- POOL_RESIZE waits for the next boundary. -/
def poolResizeBody (s : State) (c : Cmd) : State × Option Nat :=
  let bad := checkStatus (poolResizeChecks s c.raw)
  if c.step = 1 then (s, none)
  else if bad ≠ 0 then (s, some bad)
  else if (tget s.rsqs c.panel).any fun r => r.resize.isSome then (s, none)
  else
    (({ s with rsqs := tmod s.rsqs c.panel fun r => { r with resize := some (leAt c.raw 16 3, c.id) } }).modCmd c.id
      fun c => { c with step := 1 }, none)

end Sys2Proof.Machine
end

