-- ==== Sys2Proof/Machine/RsqSeq.lean ====
section
/-! DEFINITION. SEQ entries (08.4): their checks and admission, and the deadline test of LC sequences. -/

namespace Sys2Proof.Machine

/-- TEMPERATURE is finite and not below 0; TOP_P is 0 or above (Table 08-8). -/
def tempBad (n : Nat) : Bool :=
  match fdecode fp32 n with
  | .fin neg m _ => neg && decide (m ≠ 0)
  | _ => true

def topPBad (n : Nat) : Bool :=
  match fdecode fp32 n with
  | .nan => true
  | .inf neg => neg
  | .fin neg m _ => neg && decide (m ≠ 0)

def eLc (e : List Byte) : Bool := bit (leAt e 4 1) 0
def eDepth (e : List Byte) : Nat := bits (leAt e 5 1) 3 0
/-- Token positions that the sequence may come to use. -/
def eSpan (e : List Byte) : Nat := leAt e 32 4 + leAt e 36 4 + eDepth e

/-- R263, check 1; `k`: the sequencer's configuration where there is one. -/
def State.seqRangeBad (s : State) (x : Queue) (k : Option RsqCfg) (e : List Byte) : Bool :=
  nzBits e 4 7 1 || nzBits e 5 7 4 || decide (bits (leAt e 40 4) 31 18 ≠ 0) || nonzero e 60 64 || tempBad (leAt e 8 4) || topPBad (leAt e 12 4) ||
    decide (leAt e 24 8 % 4 ≠ 0) || decide (leAt e 32 4 = 0) || decide (leAt e 36 4 = 0) || decide (8 < eDepth e) ||
    (!(eLc e) && nonzero e 44 52) || !(s.isQueue (bits (leAt e 40 4) 17 0) .cpl x.func) ||
    k.any fun c => decide (16 * c.maxPages < eSpan e) || decide (c.draftMax < eDepth e)

/-- R264: rows' worth of prompt that admitted LC sequences still have before them. -/
def Rsq.lcChunks (r : Rsq) : Nat :=
  (r.seqs.map fun e => if e.2.lc && (decide (e.2.state = .waiting) || decide (e.2.state = .prefill)) then ceilDiv e.2.promptLeft r.cfg.chunk
    else 0).sum

/-- R264: the deadlines do not fit; nor does any while LC work is being halted (R461). -/
def State.seqLate (s : State) (p : Nat) (r : Rsq) (e : List Byte) : Bool :=
  let wc := s.fld .RSQ_ROW_WC_US p
  decide (leAt e 48 4 < wc) || decide (leAt e 44 4 < (1 + r.lcChunks + ceilDiv (leAt e 32 4) r.cfg.chunk) * wc) ||
    decide (s.fld .DBG_CTL_LC_HALT_EN 0 = 1)

/-- The sequencer that a SEQ queue feeds: its panel's, of the queue's context. -/
def State.feeds (s : State) (x : Queue) : Option Rsq := (tget s.rsqs x.panel).filter fun r => decide (r.ctx = x.ctx)

def seqChecks (s : State) (x : Queue) (e : List Byte) : List (Bool × Nat) :=
  let r := s.feeds x
  let p := x.panel
  let lc := eLc e
  let test (f : Rsq → Bool) : Bool := lc && r.any f
  [(s.seqRangeBad x (r.map fun r => r.cfg) e, 0x0102), (r.isNone || decide (s.rsqState p ≠ 2), 0x0104),
   (test fun r => !r.cfg.lcEn, 0x0103),
   (test fun r => decide (r.stack.length < r.lcOut + ceilDiv (eSpan e) 16), 0x0104),
   (test fun r => s.seqLate p r e, 0x0103),
   (test fun r => decide (r.cfg.seqMax ≤ (r.seqs.filter fun y => y.2.lc).length), 0x0104)]

/-- A sequence that waits, of the next admission number. -/
def newSeq (r : Rsq) (q : Nat) (e : List Byte) (submit : W64) : SeqRec :=
  { tag := w32 (leAt e 0 4), q := q, state := .waiting, lc := eLc e, l := 0, promptDone := 0, outCount := 0, pages := [],
    pagesMax := if eLc e then ceilDiv (eSpan e) 16 else 0, parkRows := 0, depth := eDepth e, last := 0, admitNo := r.nextAdmit,
    submit := submit, lastTime := 0, entry := e, ntok := 0, tokOff := 0, joined := none, late := false, cancelled := false }

def Rsq.admitSeq (r : Rsq) (slot : Nat) (x : SeqRec) : Rsq :=
  { r with seqs := tput r.seqs slot x, nextAdmit := r.nextAdmit + 1, lcOut := r.lcOut + x.pagesMax }

/-- An entry that fails a check receives its completion record. -/
def State.rejectSeq (s : State) (q ctx func : Nat) (tag status : Nat) : State :=
  (s.bumpFn func 1 1).finishRecord q ctx tag (record tag status q 0 0 s.time s.time)

/-- SEQ_ENTRY_FETCH (R263, R247, R254). `slot`: the FREE slot that an admitted sequence takes. -/
def seqEntryFetch (q slot : Nat) (s : State) : State :=
  match s.queue q with
  | none => s
  | some x =>
    if x.typ ≠ .seq ∨ ¬ s.fetching ∨ ¬ (s.eligible q x) ∨ s.lcWaits x.panel then s
    else
      match s.headEntry x with
      | (s, none, _) => s.faultQueue q
      | (s, some e, _) =>
        let tag := leAt e 0 4
        let tSub := x.subTime x.head s.time
        let passed : Queue := { x.pass 1 with fetched := x.fetched + 1 }
        match x.dups.find? (fun d => decide (d.tag = w32 tag)) with
        | some d => s.duplicate q passed x.ctx d
        | none =>
          let fresh : Queue := { passed with dups := dupAdd passed.dups tag none }
          let st := checkStatus (seqChecks s x e)
          if st ≠ 0 then (s.setQueue q fresh).rejectSeq q x.ctx x.func tag st
          else
            match s.feeds x with
            | none => s
            | some r =>
              if r.cfg.slots ≤ r.seqs.length then s.setQueue q { x with held := true }
              else if r.cfg.slots ≤ slot ∨ thas r.seqs slot then s
              else (s.setQueue q fresh).putRsq x.panel (r.admitSeq slot (newSeq r q e tSub))

end Sys2Proof.Machine
end

