-- ==== Sys2Proof/Machine/RsqAccept.lean ====
section
/-! DEFINITION. The built-in accept kernel (08.6, 08.7): the sampling distribution, its draws, and the acceptance rule. The logits are
free values: the spec does not say where a row program leaves them. -/

namespace Sys2Proof.Machine

/-! ### FP32 -/

/-- a / b for a positive finite b, rounded to nearest even. -/
def divF (a b : Nat) : Nat :=
  match fdecode fp32 a, fdecode fp32 b with
  | .nan, _ => fp32.nan
  | .inf neg, _ => fp32.inf neg
  | .fin neg m e, .fin _ n f =>
    if m = 0 ∨ n = 0 then b2n neg * 2 ^ 31
    else
      let k := 96 + bitLength n
      let x := m * 2 ^ k
      fround fp32 neg (2 * (x / n) + b2n (decide (x % n ≠ 0))) (e - f - k - 1)
  | _, _ => fp32.nan

def isZeroF (n : Nat) : Bool := decide (n % 2 ^ 31 = 0)

/-- R273: u(n, j). -/
def uniform (seed n j : Nat) : Nat := fround fp32 false (roundBits (seed / 2 ^ 32) (seed % 2 ^ 32) (16 * n + j)) (-24)

/-! ### The distribution (R273) -/

/-- A token with its logit comes before another: higher logit, then lower identifier; NaN last. -/
def tokenBefore (a b : Nat × Nat) : Bool :=
  let (x, y) := (isNan fp32 a.2, isNan fp32 b.2)
  if x || y then (!x && y) || (x && y && decide (a.1 < b.1))
  else if leF a.2 b.2 then leF b.2 a.2 && decide (a.1 < b.1) else true

def tokenInsert (x : Nat × Nat) : List (Nat × Nat) → List (Nat × Nat)
  | [] => [x]
  | y :: t => if tokenBefore x y then x :: y :: t else y :: tokenInsert x t

def tokenSort (l : List (Nat × Nat)) : List (Nat × Nat) := l.foldr tokenInsert []

/-- The sampling parameters of a sequence. -/
structure Sampling where
  temp : Nat
  topK : Nat
  topP : Nat
  seed : Nat
  deriving DecidableEq, Repr

/-- Tokens in order with their weights, after TOP_K. -/
def weights (p : Sampling) (logits : List Nat) : List (Nat × Nat) :=
  let l := tokenSort ((logits.map fun x => if isZeroF p.temp then x else divF x p.temp).zipIdx.map fun x => (x.2, x.1))
  let l := if p.topK = 0 then l else l.take p.topK
  let mx := (l.head?.map fun x => x.2).getD 0
  l.map fun x => (x.1, if isNan fp32 x.2 then 0 else expAct (addF x.2 (negF mx)))

/-- The running sums of weights. -/
def running : Nat → List (Nat × Nat) → List (Nat × Nat)
  | _, [] => []
  | acc, x :: t => (x.1, addF acc x.2) :: running (addF acc x.2) t

def total (l : List (Nat × Nat)) : Nat := ((running 0 l).getLast?.map fun x => x.2).getD 0

/-- The tokens kept by TOP_P: the shortest prefix whose running sum reaches TOP_P × S. -/
def nucleus (p : Sampling) (l : List (Nat × Nat)) : List (Nat × Nat) :=
  if isZeroF p.topP ∨ leF 0x3F800000 p.topP then l
  else l.take (((running 0 l).takeWhile fun x => !(leF (mulF p.topP (total l)) x.2)).length + 1)

/-- The distribution of one position, as weights in order. -/
def distribution (p : Sampling) (logits : List Nat) : List (Nat × Nat) := nucleus p (weights p logits)

/-- The first token whose running sum reaches u × S; a free one where rounding leaves none. -/
def drawToken (free u : Nat) (l : List (Nat × Nat)) : Nat :=
  (((running 0 l).find? fun x => leF (mulF u (total l)) x.2).map fun x => x.1).getD (Config.freeNat free % 2 ^ 32)

/-- A draw; with temperature 0 the token of the highest logit. -/
def sample (p : Sampling) (free u : Nat) (l : List (Nat × Nat)) : Nat :=
  if isZeroF p.temp then (l.head?.map fun x => x.1).getD (Config.freeNat free % 2 ^ 32) else drawToken free u l

/-! ### The acceptance rule (R271) -/

/-- u ≤ p(x) / q, in FP32 and without rounding; where the two differ, either answer (the spec does not say how the quotient is rounded). -/
def acceptTest (free u q x : Nat) (l : List (Nat × Nat)) : Bool :=
  let w := ((l.find? fun y => decide (y.1 = x)).map fun y => y.2).getD 0
  let rounded := leF u (divF (divF w (total l)) q)
  let d (n : Nat) : Dyad := (fdecode fp32 n).dyad
  let exact := (((d u).mul (d q)).mul (d (total l))).le (d w)
  if rounded = exact then exact else decide (Config.freeNat free % 2 = 1)

/-- norm(max(0, p − q · onehot(x))) as weights. -/
def residual (q x : Nat) (l : List (Nat × Nat)) : List (Nat × Nat) :=
  l.map fun y => if y.1 = x then
      let w := addF y.2 (negF (mulF q (total l)))
      (y.1, if leF 0 w then w else 0)
    else y

/-- One sequence's positions: `dist j` is the distribution of position POS + j. Drafts still to test, from draft `j`; the answer is
ACCEPTED and the output tokens. -/
def acceptFrom (p : Sampling) (free pos : Nat) (dist : Nat → List (Nat × Nat)) : Nat → List (Nat × Nat) → Nat × List Nat
  | j, [] => (j, [sample p free (uniform p.seed (pos + j) 0) (dist j)])
  | j, (x, q) :: t =>
    let l := dist j
    let ok := if isZeroF p.temp then decide (l.head?.map (fun y => y.1) = some x)
      else acceptTest free (uniform p.seed (pos + j) (j + 1)) q x l
    if ok then
      let (a, out) := acceptFrom p free pos dist (j + 1) t
      (a, x :: out)
    else (j, [sample p free (uniform p.seed (pos + j) 0) (if isZeroF p.temp then l else residual q x l)])

/-- The logits of position `i` of a sequence in the row. -/
def logitsOf (free i : Nat) : List Nat := (List.range Config.vocab).map fun t => (Config.logit free i t).toNat

/-! ### The kernel (R270, R271) -/

def Rsq.rowBase (r : Rsq) : Nat := r.cfg.rowBuf + r.row % 2 * r.cfg.rowBufBytes

/-- Where the row's three arrays begin. -/
def RowRun.inOff (x : RowRun) : Nat := 64 + 64 * x.slots.length
def RowRun.outOff (x : RowRun) : Nat := x.inOff + 4 * x.tokens
def RowRun.qOff (x : RowRun) : Nat := x.outOff + 4 * x.tokens

/-- One sequence's entry: what the kernel writes, from its entry, its drafts and their probabilities. -/
def acceptOne (free : Nat) (e input q : List Byte) : Nat × List Nat :=
  let f := leAt e 2 1
  let d := bits (leAt e 3 1) 3 0
  let pos := leAt e 4 4
  let n := leAt e 8 4
  let p : Sampling := ⟨leAt e 16 4, leAt e 24 2, leAt e 20 4, leAt e 28 8⟩
  let dist (j : Nat) : List (Nat × Nat) := distribution p (logitsOf free j)
  if bit f 1 then
    if bit f 2 then (0, [sample p free (uniform p.seed (pos + n - 1) 0) (dist (n - 1))]) else (0, [])
  else acceptFrom p free pos dist 0 (((wordsOf input).zip (wordsOf q)).drop 1 |>.take d)

/-- Run the kernel for the i-th sequence of the row. -/
def State.acceptSeq (s : State) (iss : Issuer) (r : Rsq) (x : RowRun) (i : Nat) : State × Nat :=
  let base := r.rowBase
  let ea := base + 64 + 64 * i
  match s.seqRead iss ea 64 with
  | (s, .error st) => (s, st)
  | (s, .ok e) =>
    let off := 4 * leAt e 12 4
    let n := leAt e 8 4
    match s.seqRead iss (base + x.inOff + off) (4 * n) with
    | (s, .error st) => (s, st)
    | (s, .ok input) =>
      match s.seqRead iss (base + x.qOff + off) (4 * n) with
      | (s, .error st) => (s, st)
      | (s, .ok q) =>
        let (u, s) := s.fresh
        let (a, out) := acceptOne u e input q
        let (s, w) := s.seqWrite iss (base + x.outOff + off) (out.flatMap fun t => leBytes 4 t)
        let (s, v) := s.seqWrite iss (ea + 44) (leBytes 1 a ++ leBytes 1 out.length)
        (s, worse w v)

/-- BUILTIN_ACCEPT: the worst status of the row's sequences. -/
def State.builtinAccept (s : State) (p : Nat) (r : Rsq) (x : RowRun) : State × Nat :=
  let iss := s.acceptIssuer p r.ctx r.cfg.tiles
  (List.range x.slots.length).foldl (fun (a : State × Nat) i =>
    let (s, st) := a.1.acceptSeq iss r x i
    (s, worse a.2 st)) (s, 0)

/-! ### Issuing a row's commands (R259) -/

/-- A row command as the sequencer issues it; it takes no place of Table 07-14 (R254). -/
def State.rowCmd (s : State) (p ctx : Nat) (raw : List Byte) : Cmd :=
  { id := s.nextCmd, q := 0, row := some p, raw := raw, func := s.ctxFunc ctx, panel := p, ctx := ctx, epoch := s.committed, tSub := s.time,
    tAdm := s.time, tStart := s.time, twc := none, phase := .waiting, status := 0, vaddr := 0, beats := 0, energy := 0, tiles := 0, step := 0,
    spans := 0, fenceB := hFenceBefore raw, fenceA := hFenceAfter raw, landed := [] }

/-- Issue one entry of the program for the row. -/
def State.issueEntry (s : State) (p i : Nat) : State :=
  match tget s.rsqs p with
  | none => s
  | some r =>
    match r.run with
    | none => s
    | some x =>
      let e := r.prog.getD i []
      if eBuiltin e then
        let (s, st) := s.builtinAccept p r x
        s.putRsq p { r with run := some { x with next := i + 1, failed := if st < 0x0100 then x.failed else x.failed ++ [(0, i, st)] } }
      else
        let c := s.rowCmd p r.ctx (patchCmd e x.tokens x.slots.length r.rowBase x.step)
        { s.putRsq p { r with run := some { x with next := i + 1, issued := x.issued ++ [(c.id, i)] } } with
          cmds := tput s.cmds c.id c, nextCmd := s.nextCmd + 1 }

/-- The entries of the current stage that are still to be issued, as many as the 64 places take. -/
def Rsq.toIssue (r : Rsq) (x : RowRun) : List Nat :=
  let l := (List.range r.prog.length).filter fun i => decide (x.next ≤ i) && decide (eStage (r.prog.getD i []) = x.stage)
  l.take (64 - x.issued.length)

def State.issueStage (s : State) (p : Nat) : State :=
  match tget s.rsqs p with
  | none => s
  | some r =>
    match r.run with
    | none => s
    | some x => (r.toIssue x).foldl (fun s i => s.issueEntry p i) s

/-- The stage and draft step after the current one; none after ACCEPT. -/
def RowRun.after (x : RowRun) : Option (Nat × Nat) :=
  if x.stage = 1 ∧ x.step < x.steps then some (1, x.step + 1)
  else if x.stage = 0 ∧ x.steps ≠ 0 then some (1, 1)
  else if x.stage = 0 then some (2, 0)
  else if x.stage < 3 then some (x.stage + 1, 0)
  else none

/-- ROW_STAGE_ISSUE: entries of the stage that still wait for a place are issued; when none is left and every row command has ended, the
package-scope fence is performed, and the next stage or draft step is issued, or the row ends. -/
def rowStageIssue (p : Nat) (s : State) : State :=
  match tget s.rsqs p with
  | none => s
  | some r =>
    match r.run with
    | none => s
    | some x =>
      if ¬ (s.rsqStarted p) ∨ x.ended ∨ r.fault.isSome ∨ x.failed ≠ [] then s
      else if r.toIssue x ≠ [] then s.issueStage p
      else if x.issued ≠ [] ∨ (List.range r.prog.length).any (fun i => decide (x.next ≤ i) && decide (eStage (r.prog.getD i []) = x.stage)) then s
      else
        let (s, _) := s.fenceScope r.ctx 2
        match x.after with
        | none => s.putRsq p { r with run := some { x with ended := true } }
        | some (stage, step) =>
          let next := ((r.prog.findIdx? fun e => decide (eStage e = stage)).getD r.prog.length)
          (s.putRsq p { r with run := some { x with stage := stage, step := step, next := next } }).issueStage p

/-- ROW_COMMAND_FAULT (R281): the row's first failure is noted; nothing further is issued. -/
def rowCommandFault (p id : Nat) (s : State) : State :=
  match tget s.rsqs p with
  | none => s
  | some r =>
    match r.run with
    | none => s
    | some x =>
      match x.failed.find? fun e => decide (e.1 = id) with
      | none => s
      | some (_, i, st) =>
        s.putRsq p { r with
          run := some { x with failed := x.failed.filter fun e => !(decide (e.1 = id)) },
          fault := some (r.fault.getD (st, eStage (r.prog.getD i []), i)) }

end Sys2Proof.Machine
end

