-- ==== Sys2Proof/Machine/RsqBoundary.lean ====
section
/-! DEFINITION. The row boundary (08.5, 08.6, 08.8): resize, commit, leaves, growth, joins and publication, and how the sequencer stops
or halts there. -/

namespace Sys2Proof.Machine

/-! ### Working copies -/

/-- Sequences by admission number, oldest first. -/
def admitInsert (x : Nat × SeqRec) : List (Nat × SeqRec) → List (Nat × SeqRec)
  | [] => [x]
  | y :: t => if x.2.admitNo < y.2.admitNo then x :: y :: t else y :: admitInsert x t

def byAdmit (l : List (Nat × SeqRec)) : List (Nat × SeqRec) := l.foldr admitInsert []

/-- LC first, then BE, each by admission number. -/
def inOrder (l : List (Nat × SeqRec)) : List (Nat × SeqRec) :=
  byAdmit (l.filter fun e => e.2.lc) ++ byAdmit (l.filter fun e => !e.2.lc)

/-- A boundary in progress: the sequencer, what is left of the row's tokens, its decode tokens, the BE prefill tokens given, whether a BE
sequence was parked, and how many were parked and joined. -/
structure Bnd where
  r : Rsq
  budget : Nat
  decTok : Nat
  bePre : Nat
  parked : Bool
  parks : Nat
  joins : Nat
  deriving DecidableEq, Repr

def Bnd.put (b : Bnd) (slot : Nat) (x : SeqRec) : Bnd := { b with r := { b.r with seqs := tput b.r.seqs slot x } }

/-- The sequences that satisfy a condition. -/
def Bnd.those (b : Bnd) (f : SeqRec → Bool) : List (Nat × SeqRec) := b.r.seqs.filter fun e => f e.2

/-- Pages on the stack that no LC reservation claims. -/
def Rsq.unreserved (r : Rsq) : Nat := r.stack.length - r.lcOut

/-- Push a sequence's pages from logical page `n` on, the last first; an LC sequence's return to its reservation (R261, R266). -/
def Rsq.tink (r : Rsq) (slot n : Nat) (x : SeqRec) : Rsq :=
  let gone := x.pages.drop n
  { r with
    stack := gone.reverse.foldl (fun l i => i :: l) r.stack, lcOut := if x.lc then r.lcOut + gone.length else r.lcOut,
    seqs := tput r.seqs slot { x with pages := x.pages.take n } }

/-- Take pages from the top of the stack. -/
def Bnd.take (b : Bnd) (slot : Nat) (x : SeqRec) (n : Nat) : Bnd :=
  { b with r := { b.r with
      stack := b.r.stack.drop n, lcOut := if x.lc then b.r.lcOut - n else b.r.lcOut,
      seqs := tput b.r.seqs slot { x with pages := x.pages ++ b.r.stack.take n } } }

def SeqRec.need (x : SeqRec) : Nat := ceilDiv (x.l + x.ntok) 16 - x.pages.length

def SeqRec.continuing (x : SeqRec) : Bool := decide (x.state = .prefill) || decide (x.state = .decode) || decide (x.state = .parked)

/-! ### Resize (R280) -/

/-- The slots of pages [lo, hi) are mapped with read and write rights. -/
def State.slotsMapped (s : State) (p : Nat) (r : Rsq) (lo hi : Nat) : Bool :=
  let iss := s.rsqIssuer p r.ctx
  (List.range ((hi - lo) * r.cfg.slot64)).all fun i =>
    let va := r.cfg.poolBase + lo * (r.cfg.slot64 * 65536) + 65536 * i
    match (s.xlate iss .read va).2, (s.xlate iss .write va).2 with
    | .ok _, .ok _ => true
    | _, _ => false

/-- The sequencer with its pool resized; none where the resize cannot be applied. -/
def State.resized (s : State) (p : Nat) (r : Rsq) (n : Nat) : Option Rsq :=
  if r.pool ≤ n then
    if s.slotsMapped p r r.pool n then some { r with pool := n, stack := (List.range (n - r.pool)).map (fun i => r.pool + i) ++ r.stack }
    else none
  else
    let keep := r.stack.filter fun i => decide (i < n)
    if r.stack.length - keep.length = r.pool - n ∧ r.lcOut ≤ keep.length then some { r with pool := n, stack := keep } else none

/-! ### Commit (R272, R275) -/

/-- What a row produced for a sequence: ACCEPTED and the output tokens. -/
structure RowOut where
  slot : Nat
  accepted : Nat
  tokens : List Nat
  deriving DecidableEq, Repr

/-- How many tokens of a row's output count: at most those the sequence could produce; beyond that a free number. -/
def outCount (free depth prefill last n : Nat) : Nat :=
  let most := if prefill = 1 then last else depth + 1
  if n ≤ most then n else Config.freeNat free % (most + 1)

/-- Read the results of the row from its descriptor. -/
def State.rowOuts (s : State) (p : Nat) (r : Rsq) (x : RowRun) : State × Except Nat (List RowOut) :=
  let iss := s.rsqIssuer p r.ctx
  x.slots.zipIdx.foldl (fun (a : State × Except Nat (List RowOut)) (w : Nat × Nat) =>
    match a.2, tget r.seqs w.1 with
    | .ok l, some y =>
      match a.1.seqRead iss (r.rowBase + 64 + 64 * w.2) 64 with
      | (s, .error st) => (s, .error st)
      | (s, .ok e) =>
        let (u, s) := s.fresh
        let pre := b2n (!y.decoding)
        let last := b2n (decide (y.promptLen ≤ y.promptDone + y.ntok))
        let n := outCount u y.depth pre last (bits (leAt e 45 1) 3 0)
        match s.seqRead iss (r.rowBase + x.outOff + 4 * y.tokOff) (4 * n) with
        | (s, .error st) => (s, .error st)
        | (s, .ok b) => (s, .ok (l ++ [⟨w.1, bits (leAt e 44 1) 3 0, wordsOf b⟩]))
    | _, _ => a) (s, .ok [])

def SeqRec.stopToken (x : SeqRec) (t : Nat) : Bool :=
  decide (t ≠ 0xFFFFFFFF) && (decide (t = leAt x.entry 52 4) || decide (t = leAt x.entry 56 4))

/-- The tokens taken: up to the first stop token or MAX_NEW. -/
def SeqRec.taken (x : SeqRec) : Nat → List Nat → List Nat
  | _, [] => []
  | n, t :: l => if x.maxNew ≤ n then [] else if x.stopToken t then [t] else t :: x.taken (n + 1) l

/-- Table 08-11. -/
def tokenRecord (x : SeqRec) (index : Nat) (l : List Nat) (end_ stop : Bool) : List Byte :=
  leBytes 4 x.tag.toNat ++ leBytes 2 (l.length + 8 * b2n end_ + 16 * b2n stop) ++ leBytes 3 (x.q % 2 ^ 18) ++ zeros 3 ++ leBytes 4 index ++
    ((l ++ List.replicate 4 0xFFFFFFFF).take 4).flatMap fun t => leBytes 4 t

/-- Token records of up to four tokens. -/
def State.deliverTokens (s : State) (ctx : Nat) (x : SeqRec) (end_ stop : Bool) : Nat → Nat → List Nat → State
  | 0, _, _ => s
  | n + 1, index, l =>
    if l = [] then s
    else
      let last := decide (l.length ≤ 4)
      (s.writeRecord x.tokenQueue ctx (tokenRecord x index (l.take 4) (end_ && last) (stop && last))).deliverTokens ctx x end_ stop n (index + 4)
        (l.drop 4)

/-- R264: the record that is written now comes after its deadline. -/
def SeqRec.lateNow (x : SeqRec) (now : W64) : Bool :=
  x.lc && (if x.outCount = 0 then decide (x.submit.toNat + 1000 * x.firstUs < now.toNat)
    else decide (x.lastTime.toNat + 1000 * x.tokenUs < now.toNat))

/-- Counter `i` of the sequencer's unit. -/
def State.countRsq (s : State) (p i n : Nat) (ctx : Nat) : State := s.bump (unitRsq p) i n (some ⟨ctx, p, 0, 0⟩)

/-- Commit one sequence of the row. -/
def State.commitSeq (s : State) (p : Nat) (o : RowOut) : State :=
  match tget s.rsqs p with
  | none => s
  | some r =>
    match tget r.seqs o.slot with
    | none => s
    | some x =>
      let pre := !x.decoding
      let taken := x.taken x.outCount o.tokens
      let k := taken.length
      let stop := taken.getLast?.any x.stopToken
      let leave := stop || decide (x.maxNew ≤ x.outCount + k)
      let s := if k = 0 then s else s.deliverTokens r.ctx x (leave || x.cancelled) stop k x.outCount taken
      let s := ((s.countRsq p 1 k r.ctx).countRsq p 2 (if pre then 0 else x.depth) r.ctx)
      let s := if pre then s else s.countRsq p (3 + min 8 o.accepted) 1 r.ctx
      let s := s.bumpFn (s.ctxFunc r.ctx) 10 k
      let l := if pre then x.l + x.ntok else x.l + k
      let s := if pre then s else s.incFld .RSQ_COUNTS_TINKED p (x.ntok - k)
      let done := if pre then x.promptDone + x.ntok else x.promptDone
      let y := { x with
        l := l, promptDone := done, outCount := x.outCount + k, last := (taken.getLast?.map w32).getD x.last,
        lastTime := if k = 0 then x.lastTime else s.time, late := x.late || (decide (k ≠ 0) && x.lateNow s.time),
        state := if leave then .leaving else if x.promptLen ≤ done then .decode else .prefill }
      s.putRsq p (if pre then { r with seqs := tput r.seqs o.slot y } else r.tink o.slot (ceilDiv l 16) y)

/-! ### Leaves (R265, R268, R276, R278, R279) -/

/-- The status with which a sequence leaves at this boundary, if it does. -/
def SeqRec.leaves (x : SeqRec) (parkLimit : Nat) (draining : Bool) : Option Nat :=
  if x.cancelled then some 0x0204
  else if x.state = .leaving then some 0
  else if draining ∧ x.state = .waiting then some 0x0204
  else if x.state = .parked ∧ parkLimit ≤ x.parkRows then some 0x0203
  else none

/-- A sequence leaves: its pages return, then its record is written. -/
def State.leaveSeq (s : State) (p slot status : Nat) (x : SeqRec) : State :=
  match tget s.rsqs p with
  | none => s
  | some r =>
    let t := r.tink slot 0 x
    let s := s.putRsq p { t with lcOut := if x.lc then t.lcOut - x.pagesMax else t.lcOut, seqs := tdel t.seqs slot }
    let s := s.countRsq p 13 1 r.ctx
    let s := if status = 0x0203 then ((s.countRsq p 15 1 r.ctx).incFld .RSQ_COUNTS_EVICTIONS p 1).setFld .RSQ_STATUS_EVICTED p 1 else s
    s.seqRecord r.ctx x status

def State.leaveAll (s : State) (p : Nat) : State :=
  match tget s.rsqs p with
  | none => s
  | some r => r.seqs.foldl (fun s e => match e.2.leaves r.cfg.parkLimit (decide (s.rsqState p = 3)) with
    | some st => s.leaveSeq p e.1 st e.2
    | none => s) s

/-! ### Growth (R265 to R267) -/

/-- tokens(s, budget) of a sequence whose prompt is not done. -/
def Bnd.prefillTokens (b : Bnd) (x : SeqRec) : Nat :=
  let room := if x.lc then b.budget else min b.budget (b.r.cfg.prefillPct * (b.r.cfg.tokMax - b.decTok) / 100 - b.bePre)
  min (min x.promptLeft b.r.cfg.chunk) room

/-- The tokens of a continuing sequence are set and leave the budget. -/
def Bnd.giveTokens (b : Bnd) (e : Nat × SeqRec) : Bnd :=
  let x := e.2
  if x.decoding then
    let n := 1 + x.depth
    { b.put e.1 { x with ntok := n } with budget := b.budget - n, decTok := b.decTok + n }
  else
    let n := b.prefillTokens x
    { b.put e.1 { x with ntok := n } with budget := b.budget - n, bePre := if x.lc then b.bePre else b.bePre + n }

/-- Skip the row, keeping the pages. -/
def Bnd.park (b : Bnd) (e : Nat × SeqRec) : Bnd :=
  { b.put e.1 { e.2 with state := .parked, ntok := 0, parkRows := e.2.parkRows + 1 } with parked := true, parks := b.parks + 1 }

/-- A continuing sequence runs: it takes what it needs. -/
def Bnd.grow (b : Bnd) (e : Nat × SeqRec) : Bnd :=
  let x := { e.2 with parkRows := 0, state := if e.2.decoding then SeqState.decode else .prefill }
  b.take e.1 x x.need

/-- R267: park the youngest that needs pages until the rest fits. `l`: BE sequences, oldest first. -/
def Bnd.parkForPages (b : Bnd) : Nat → List (Nat × SeqRec) → Bnd × List (Nat × SeqRec)
  | 0, l => (b, l)
  | n + 1, l =>
    if (l.map fun e => e.2.need).sum ≤ b.r.unreserved then (b, l)
    else
      match l.reverse.find? fun e => decide (0 < e.2.need) with
      | none => (b, l)
      | some y => (b.park y).parkForPages n (l.filter fun e => !(decide (e.1 = y.1)))

/-- R253: park the youngest beyond the row's places. -/
def Bnd.parkForPlaces (b : Bnd) (places : Nat) : Nat → List (Nat × SeqRec) → Bnd × List (Nat × SeqRec)
  | 0, l => (b, l)
  | n + 1, l =>
    if (l.filter fun e => decide (0 < e.2.ntok)).length ≤ places then (b, l)
    else
      match l.reverse.find? fun e => decide (0 < e.2.ntok) with
      | none => (b, l)
      | some y => (b.park y).parkForPlaces places n (l.filter fun e => !(decide (e.1 = y.1)))

def Bnd.growth (b : Bnd) : Bnd :=
  let b := (inOrder (b.those fun x => x.continuing && x.decoding)).foldl Bnd.giveTokens b
  let b := (inOrder (b.those fun x => x.continuing && !x.decoding)).foldl Bnd.giveTokens b
  let b := (byAdmit (b.those fun x => x.continuing && x.lc)).foldl Bnd.grow b
  let lc := (b.those fun x => x.lc && x.running).length
  let be := byAdmit (b.those fun x => x.continuing && !x.lc)
  let (b, be) := b.parkForPages be.length be
  let (b, be) := b.parkForPlaces (b.r.cfg.seqMax - lc) be.length be
  be.foldl Bnd.grow b

/-! ### Joins (R269) -/

def Bnd.inRow (b : Bnd) : Nat := (b.those SeqRec.running).length

/-- The tokens with which a sequence would join; 0 where the join does not fit. -/
def Bnd.joinTokens (b : Bnd) (x : SeqRec) : Nat :=
  let n := b.prefillTokens x
  if b.r.cfg.seqMax ≤ b.inRow ∨ (b.r.cfg.joinMax ≠ 0 ∧ b.r.cfg.joinMax ≤ b.joins) then 0
  else if x.lc then n
  else if b.r.unreserved < ceilDiv n 16 ∨ (b.parked ∧ ¬ b.r.cfg.joinParked) then 0 else n

def Bnd.join (b : Bnd) (now : W64) (e : Nat × SeqRec) (n : Nat) : Bnd :=
  let x := { e.2 with state := .prefill, ntok := n, joined := some now }
  { b.take e.1 x (ceilDiv n 16) with budget := b.budget - n, bePre := if x.lc then b.bePre else b.bePre + n, joins := b.joins + 1 }

/-- An LC join that finds every place taken parks the youngest running BE sequence; its tokens return to the budget. -/
def Bnd.makePlace (b : Bnd) : Bnd :=
  if b.inRow < b.r.cfg.seqMax then b
  else
    match (byAdmit (b.those fun x => x.running && !x.lc)).getLast? with
    | none => b
    | some y =>
      let n := y.2.ntok
      let b := b.park y
      if y.2.decoding then { b with budget := b.budget + n, decTok := b.decTok - n } else { b with budget := b.budget + n, bePre := b.bePre - n }

def Bnd.joinLc (now : W64) (b : Bnd) (e : Nat × SeqRec) : Bnd :=
  let b := b.makePlace
  let n := b.joinTokens e.2
  if n = 0 then b else b.join now e n

/-- BE joins end with the first that does not fit. -/
def Bnd.joinBe (now : W64) (b : Bnd) : List (Nat × SeqRec) → Bnd
  | [] => b
  | e :: t =>
    let n := b.joinTokens e.2
    if n = 0 then b else (b.join now e n).joinBe now t

def Bnd.joinAll (b : Bnd) (now : W64) : Bnd :=
  let b := (byAdmit (b.those fun x => decide (x.state = .waiting) && x.lc)).foldl (Bnd.joinLc now) b
  b.joinBe now (byAdmit (b.those fun x => decide (x.state = .waiting) && !x.lc))

/-- Growth and joins of the boundary of the next row. -/
def Rsq.fill (r : Rsq) (now : W64) : Bnd :=
  let b : Bnd := ⟨{ r with seqs := r.seqs.map fun e => (e.1, { e.2 with ntok := 0, tokOff := 0 }) }, r.cfg.tokMax, 0, 0, false, 0, 0⟩
  b.growth.joinAll now

/-! ### The row descriptor (R270) -/

/-- Give the row's sequences their places in the arrays. -/
def placeTokens : Nat → List (Nat × SeqRec) → List (Nat × SeqRec)
  | _, [] => []
  | o, e :: t => (e.1, { e.2 with tokOff := o }) :: placeTokens (o + e.2.ntok) t

/-- Table 08-10. -/
def rowEntry (r : Rsq) (e : Nat × SeqRec) : List Byte :=
  let x := e.2
  let pre := !x.decoding
  let last := decide (x.promptLen ≤ x.promptDone + x.ntok)
  leBytes 2 e.1 ++ leBytes 1 (b2n x.lc + 2 * b2n pre + 4 * b2n (pre && last)) ++ leBytes 1 (if pre then 0 else x.depth) ++ leBytes 4 x.l ++
    leBytes 4 x.ntok ++ leBytes 4 x.tokOff ++ leBytes 4 (leAt x.entry 8 4) ++ leBytes 4 (leAt x.entry 12 4) ++ leBytes 2 (leAt x.entry 6 2) ++
    zeros 2 ++ leBytes 8 (leAt x.entry 16 8) ++ leBytes 8 (r.cfg.lists + 4 * r.cfg.maxPages * e.1) ++ zeros 20

/-- Table 08-9. -/
def rowHeader (r : Rsq) (x : RowRun) (lc : Bool) : List Byte :=
  leBytes 8 r.row ++ leBytes 2 x.slots.length ++ leBytes 1 x.steps ++ leBytes 1 (b2n lc) ++ leBytes 4 x.tokens ++ leBytes 4 x.inOff ++
    leBytes 4 x.outOff ++ leBytes 4 x.qOff ++ zeros 4 ++ leBytes 8 r.cfg.poolBase ++ leBytes 4 (r.cfg.slot64 * 65536) ++ zeros 20

/-- The input tokens of a sequence: its prompt chunk, or its last token. -/
def State.inputOf (s : State) (iss : Issuer) (x : SeqRec) : State × Except Nat (List Byte) :=
  if x.decoding then (s, .ok (leBytes 4 x.last.toNat)) else s.seqRead iss (x.promptAddr + 4 * x.promptDone) (4 * x.ntok)

/-- Write the row's descriptor; the worst status. -/
def State.writeRow (s : State) (p : Nat) (r : Rsq) (x : RowRun) (l : List (Nat × SeqRec)) : State × Nat :=
  let iss := s.rsqIssuer p r.ctx
  let base := r.rowBase
  let (s, a) := s.seqWrite iss base (rowHeader r x (l.any fun e => e.2.lc) ++ l.flatMap (rowEntry r))
  l.foldl (fun (y : State × Nat) e =>
    match y.1.inputOf iss e.2 with
    | (s, .error st) => (s, worse y.2 st)
    | (s, .ok b) =>
      let (s, st) := s.seqWrite iss (base + x.inOff + 4 * e.2.tokOff) b
      (s, worse y.2 st)) (s, a)

/-! ### How a boundary ends -/

/-- RSQ_STOPs end, after the tiles are released. -/
def State.endStops (s : State) (p : Nat) : State :=
  match tget s.rsqs p with
  | none => s
  | some r =>
    let s := r.stop.foldl (fun s x => s.endCmd x.2 0) (s.releaseSeqTiles p)
    s.putRsq p { r with
      stop := [], run := none, fault := none,
      byFreeze := !r.stop.isEmpty && r.stop.all fun x => decide (x.2 = 0) }

/-- The sequencer halts faulted, and publishes its working copies; a POOL_RESIZE that waits is not applied. -/
def State.haltRsq (s : State) (p : Nat) (status stage entry : Nat) : State :=
  match tget s.rsqs p with
  | none => s
  | some r =>
    let s := match r.resize with
      | some (_, id) => s.endCmd id 0x0104
      | none => s
    let s := (s.putRsq p { r with resize := none }).setRsqState p 5
    let s := ((s.setFld .RSQ_FAULT_STATUS p status).setFld .RSQ_FAULT_STAGE p stage).setFld .RSQ_FAULT_ENTRY p entry
    let s := s.setFld .RSQ_FAULT_ROW p r.row
    ((s.publishRsq p { r with resize := none, run := none }).1).endStops p

/-- Publish without starting a row, and stop in a state. -/
def State.stopAt (s : State) (p n : Nat) : State :=
  match tget s.rsqs p with
  | none => s
  | some r =>
    match s.publishRsq p r with
    | (s, 0) => (s.setRsqState p n).endStops p
    | (s, st) => s.haltRsq p st 0 0

/-- R265: growth, joins, publication and the dispatch of the row program. -/
def State.startRow (s : State) (p : Nat) : State :=
  match tget s.rsqs p with
  | none => s
  | some r =>
    let b := r.fill s.time
    let l := placeTokens 0 (inOrder (b.those SeqRec.running))
    let r := { b.r with seqs := l.foldl (fun t e => tput t e.1 e.2) b.r.seqs, run := none }
    let x : RowRun := {
      slots := l.map fun e => e.1, tokens := (l.map fun e => e.2.ntok).sum,
      steps := (l.map fun e => if e.2.decoding then e.2.depth else 0).foldl max 0, stage := 0, step := 0, next := 0, issued := [],
      failed := [], ended := false }
    let s := ((s.countRsq p 12 b.joins r.ctx).countRsq p 14 b.parks r.ctx).incFld .RSQ_COUNTS_PARKS p b.parks
    let s := if b.parks = 0 then s else s.setFld .RSQ_STATUS_POOL_SHORT p 1
    let s := s.putRsq p r
    let (s, a) := if l = [] then (s, 0) else s.writeRow p r x l
    if a ≠ 0 then s.haltRsq p a 0 0
    else
      match s.publishRsq p r with
      | (s, 0) =>
        if l = [] then s
        else ((s.countRsq p 0 1 r.ctx).putRsq p { r with run := some x }).issueStage p
      | (s, st) => s.haltRsq p st 0 0

/-- A waiting POOL_RESIZE is applied, or ends with 0x0104; the command that ends with 0x0000 once the boundary has published. -/
def State.resizeRsq (s : State) (p : Nat) : State × Option Nat :=
  match tget s.rsqs p with
  | none => (s, none)
  | some r =>
    match r.resize with
    | none => (s, none)
    | some (n, id) =>
      match s.resized p r n with
      | some t => (s.putRsq p { t with resize := none }, some id)
      | none => ((s.putRsq p { r with resize := none }).endCmd id 0x0104, none)

/-- Commit the results of the row that ended, in ascending slot order, and move on to the next row. -/
def State.commitRow (s : State) (p : Nat) (outs : List RowOut) : State :=
  let s := (List.range 4096).foldl (fun s i => match outs.find? fun o => decide (o.slot = i) with
    | some o => s.commitSeq p o
    | none => s) s
  { s with rsqs := tmod s.rsqs p fun r => { r with run := none, row := r.row + 1 } }

/-- The steps of a boundary after the row's results have been read. -/
def State.boundary (s : State) (p : Nat) (outs : Option (List RowOut)) : State :=
  let (s, grown) := s.resizeRsq p
  let s := match outs with
    | some l => s.commitRow p l
    | none => s
  let s := s.leaveAll p
  let s := match tget s.rsqs p with
    | none => s
    | some r =>
      if r.stop.any fun x => decide (x.1 = 2) then s.stopAt p 4
      else if s.rsqState p = 3 ∧ r.seqs = [] then s.stopAt p 1
      else s.startRow p
  match grown with
  | some id => s.endCmd id 0
  | none => s

/-- A HOLD dump of a row command is not written yet (R454). -/
def State.rowHeld (s : State) (p : Nat) : Bool := s.dumps.any fun e => decide (e.2.holdRow = some p)

/-- The function of a sequencer's context is not frozen. -/
def State.rsqLive (s : State) (r : Rsq) : Bool :=
  match tget s.funcs (s.ctxFunc r.ctx) with
  | some g => decide (g.state = 1)
  | none => false

/-- R406: a sequencer that a freeze halted goes on as RSQ_START with RESUME = 1 would make it; one that cannot stays halted. -/
def State.resumeRsq (s : State) (p : Nat) (r : Rsq) : State :=
  if s.rsqState p = 4 ∧ r.byFreeze ∧ s.rsqLive r = true then
    let s := s.putRsq p { r with byFreeze := false }
    if s.beAllowed r.ctx s.committed ∧ s.rsqTilesOk p r.cfg.tiles then
      match s.loadRsq p r with
      | (s, .error _) => s
      | (s, .ok x) => (s.beginRsq p x).1
    else s
  else s

/-- ROW_BOUNDARY: the row has ended, or none runs. After a fault nothing of the row is committed (R281). -/
def rowBoundary (p : Nat) (s : State) : State :=
  match tget s.rsqs p with
  | none => s
  | some r =>
    if s.rsqState p = 4 then s.resumeRsq p r
    else if ¬ (s.rsqStarted p) ∨ s.rowHeld p then s
    else
      match r.run, r.fault with
      | some x, some (st, stage, entry) => if x.issued = [] ∧ x.failed = [] then s.haltRsq p st stage entry else s
      | some x, none =>
        if x.ended then
          match s.rowOuts p r x with
          | (s, .error st) => s.haltRsq p st 0 0
          | (s, .ok l) => s.boundary p (some l)
        else s
      | none, _ => s.boundary p none

end Sys2Proof.Machine
end

