-- ==== Sys2Proof/Machine/Migrate.lean ====
section
/-! DEFINITION. Migration (12.6): MIG_FREEZE, MIG_SAVE, MIG_RESTORE. What an image that this package did not write says, and how many bytes
it has, are free: the spec gives the sections of an image, not the places of their fields. -/

/-- The length of a migration image that this package did not write, from its header, and what its bytes say; none where a section's CRC
fails. -/
opaque Sys2Proof.Config.migLength : List Sys2Proof.Byte → Nat
opaque Sys2Proof.Config.migDecode : List Sys2Proof.Byte → Option Sys2Proof.Machine.MigImage

namespace Sys2Proof.Machine

def vfOf (r : List Byte) : Nat := leAt r 16 1

def badVf (vf : Nat) : Bool := decide (vf = 0) || decide (252 < vf)

def State.fnState (s : State) (f : Nat) : Nat := ((tget s.funcs f).map fun g => g.state).getD 0

def State.setFnState (s : State) (f n : Nat) : State := s.modFunc f fun g => { g with state := n }

/-! ### MIG_FREEZE (R405, R406, R456) -/

/-- A sequencer of the function's panels is started with LC_EN = 1. -/
def State.lcSequencer (s : State) (f : Nat) : Bool :=
  s.rsqs.any fun e => bit (s.fnPanels f) e.1 && e.2.cfg.lcEn && s.rsqStarted e.1

def migFreezeChecks (s : State) (r : List Byte) : List (Bool × Nat) :=
  let vf := vfOf r
  let a := bits (leAt r 17 1) 1 0
  [(nzBits r 17 7 2 || nonzero r 18 64, 0x0102), (decide (a = 0) || decide (a = 3), 0x0102), (badVf vf, 0x0102),
   (!(thas s.funcs vf), 0x0104), (decide (a = 1) && (decide (2 ≤ s.fnState vf) || s.lcSequencer vf), 0x0104),
   (decide (a = 2) && (decide (s.fnState vf < 3) || decide (4 < s.fnState vf)), 0x0104)]

/-- A command of a frozen function is held: one that has not started and is not LC, a WAIT, and one whose units are stashed. -/
def State.heldByFreeze (s : State) (f : Nat) (c : Cmd) : Bool :=
  decide (c.func = f) && c.row.isNone &&
    ((decide (c.phase = .waiting) && !(hLc c.raw)) || (decide (c.phase = .running) && decide (c.opcode = 0x0603)) ||
      decide (c.phase = .stashed) ||
      (decide (c.phase = .running) && (s.tilesOf c.id).isEmpty && s.images.any fun i => decide (i.2.cmd = c.id)))

def State.holdCmds (s : State) (f : Nat) : State :=
  { s with cmds := s.cmds.map fun (e : Nat × Cmd) => if s.heldByFreeze f e.2 then (e.1, { e.2 with phase := .recorded }) else e }

/-- Steps 1 and 2: fetching stops, markers disarm, and started sequencers halt at their next boundary. -/
def State.beginFreeze (s : State) (f : Nat) : State :=
  let s := s.setFnState f 2
  let s := { s with
    marks := s.marks.map fun (e : Nat × Marker) =>
      if s.ctxFunc e.2.ctx = f then (e.1, { e.2 with armed := false, held := [] }) else e }
  let s := { s with
    rsqs := s.rsqs.map fun (e : Nat × Rsq) =>
      if s.ctxFunc e.2.ctx = f ∧ s.rsqStarted e.1 then (e.1, { e.2 with stop := e.2.stop ++ [(2, 0)] }) else e }
  s.holdCmds f

/-- Tiles on which a unit of the function's contexts runs. -/
def State.fnTiles (s : State) (f : Nat) : List Nat :=
  (List.range 48).filter fun t => match (s.tile t).unit with
    | some u => decide (s.ctxFunc u.ctx = f)
    | none => false

/-- Nothing of the function is left to wait for. -/
def State.settled (s : State) (f : Nat) : Bool :=
  (s.fnTiles f).isEmpty && (s.cmds.all fun e => !(decide (e.2.func = f)) || decide (e.2.phase = .recorded)) &&
    (s.remotes.all fun r => !(decide (r.func = f))) && s.dumps.all fun e => !(decide (s.ctxFunc e.2.ctx = f))

/-- Step 5: a global fence for each context of the function. -/
def State.fenceFn (s : State) (f : Nat) : State :=
  (s.ctxsWhere fun c => decide (c.func = f)).foldl (fun s x => (s.fenceScope x 3).1) s

/-- Steps 2 to 5: the units are stopped once no sequencer runs. -/
def State.freezeOn (s : State) (f : Nat) : State × Option Nat :=
  if (s.rsqs.any fun e => decide (s.ctxFunc e.2.ctx = f) && s.rsqStarted e.1) then (s, none)
  else
    let s := ((s.fnTiles f).foldl (fun s t => s.requestStop t false false false true) s).holdCmds f
    if s.settled f then ((s.fenceFn f).setFnState f 3, some 0) else (s, none)

/-- A thaw: recorded commands continue in place, and the sequencers that the freeze halted go on. -/
def State.thaw (s : State) (f : Nat) : State :=
  let s := (s.setFnState f 1).thawCmds f
  s.rsqs.foldl (fun (s : State) (e : Nat × Rsq) => if s.ctxFunc e.2.ctx = f then s.resumeRsq e.1 e.2 else s) s

def migFreezeBody (s : State) (c : Cmd) : State × Option Nat :=
  let f := vfOf c.raw
  if c.step ≠ 0 then s.freezeOn f
  else
    let bad := checkStatus (migFreezeChecks s c.raw)
    if bad ≠ 0 then (s, some bad)
    else if bits (leAt c.raw 17 1) 1 0 = 2 then (s.thaw f, some 0)
    else ((s.modCmd c.id fun c => { c with step := 1 }).beginFreeze f).freezeOn f

/-! ### The image (Table 12-6) -/

def State.ctxsOf (s : State) (f : Nat) : Tab Ctx := s.ctxs.filter fun e => decide (e.2.func = f)

/-- What the image of a frozen function says. -/
def State.migImage (s : State) (f : Nat) (g : Func) : MigImage :=
  let ps := maskBits g.panels 48
  let cs := s.ctxsOf f
  let rec_ := (s.cmds.filter fun e => decide (e.2.func = f) && decide (e.2.phase = .recorded)).map fun e => e.2
  let mine (t : Nat) : Bool := match (s.tile t).owner with
    | some p => ps.contains p
    | none => false
  { stepping := s.fld .GLB_ID_STEPPING 0, compat := s.compat, vf := f, func := g,
    msix := s.msix.filter fun e => decide (e.1 / 4096 = f), pend := s.msixPend.filter fun k => decide (k / 2048 = f),
    panels := ps.map fun p => { panel := p, tiles := s.panelTiles p, cfg := s.cfg.panel p, target := s.target p,
                                reserved := s.fld .PWR_PANEL_RESERVED_G p, lock := s.fld .PWR_PANEL_LOCK p,
                                slots := ((tget s.panels p).map fun x => x.actSlots).getD [] },
    arr := s.cfg.arr.filter fun e => mine e.1,
    dscr := s.cfg.dscr.filter fun e => (s.cfg.dscrOwner (e.1 / 16) (e.1 % 16)).any fun p => ps.contains p,
    queues := s.queues.filter fun e => decide (e.2.func = f), ctxs := cs,
    classes := s.cfg.classes.filter fun e => thas cs e.1, accounts := s.pwr.accounts.filter fun e => thas cs e.1,
    cmds := rec_.map fun c => (c, s.time - c.tStart), launches := s.launches.filter fun e => rec_.any fun c => decide (c.id = e.1),
    images := (s.images.filter fun e => thas cs e.2.ctx).map fun e => e.2,
    seqs := (s.rsqs.filter fun e => thas cs e.2.ctx).map fun e => (e.1, s.rsqState e.1, e.2) }

/-- LENGTH. -/
def MigImage.length (m : MigImage) : Nat :=
  256 + 8 * 64 + 256 + 8448 * m.panels.length + 10368 * m.queues.length + 8448 * m.ctxs.length + 192 * m.cmds.length +
    35717184 * m.images.length + 512 * m.seqs.length + 64 * m.panels.length

/-- The header: 252 free bytes and their CRC-32C. -/
def migHeader (n : Nat) : List Byte :=
  let h := (List.range 252).map fun i => Config.undefByte n i
  h ++ leBytes 4 (crc32c h)

/-- The KEYS entries: each panel's key as an EXPORT blob; the rest of the 64 bytes is free. -/
def State.migKeys (s : State) (n : Nat) (m : MigImage) : List Byte :=
  m.panels.flatMap fun p => (wrapped ((s.keyOf p.panel).getD 0) s.mwk ++ (List.range 24).map fun i => Config.undefByte n (i + 64 * p.panel)).take 64

/-- The image's bytes: the sections in the order of Table 12-6, so that KEYS comes last. -/
def SavedMig.bytes (x : SavedMig) : List Byte :=
  migHeader x.num ++ ((List.range (x.image.length - 256 - x.keys.length)).map fun i => Config.undefByte x.num (256 + i)) ++ x.keys

/-! ### MIG_SAVE (R407) -/

def migSaveChecks (s : State) (r : List Byte) : List (Bool × Nat) :=
  let vf := vfOf r
  [(nonzero r 17 24 || nonzero r 40 64, 0x0102), (badVf vf, 0x0102), (decide (leAt r 24 8 % 65536 ≠ 0) || !(inHbm (leAt r 24 8) 256), 0x0102),
   (!(thas s.funcs vf), 0x0104), (!(decide (s.fnState vf = 3) || decide (s.fnState vf = 4)), 0x0104)]

/-- The blobs of the KEYS entries can be imported (R141). -/
def State.noteBlobs (s : State) (m : MigImage) : State :=
  m.panels.foldl (fun s p =>
    let k := (s.keyOf p.panel).getD 0
    let b := (wrapped k s.mwk, k, s.mwk)
    if s.blobs.contains b then s else { s with blobs := s.blobs ++ [b] }) s

/-- Write the image, or the header alone where it does not fit. -/
def migSaveDo (s : State) (r : List Byte) : State × Nat :=
  let f := vfOf r
  match tget s.funcs f with
  | none => (s, 0x0104)
  | some g =>
    let (n, s) := s.fresh
    let m := s.migImage f g
    let x : SavedMig := ⟨n, s.migKeys n m, m⟩
    if leAt r 32 8 < m.length then
      match s.writePhys s.hubWho 63 (leAt r 24 8) (migHeader n) with
      | (s, true) => (s, 0x0104)
      | (s, false) => (s, 0x0302)
    else
      match s.writePhys s.hubWho 63 (leAt r 24 8) x.bytes with
      | (s, true) => ({ s.noteBlobs m with saved := s.saved ++ [x] }.setFnState f 4, 0)
      | (s, false) => (s, 0x0302)

/-! ### MIG_RESTORE (R408) -/

def migRestoreChecks (_ : State) (r : List Byte) : List (Bool × Nat) :=
  [(nonzero r 16 24 || nonzero r 32 64, 0x0102), (!(inHbm (leAt r 24 8) 256), 0x0102)]

/-- Whether the bytes at an address are an image that this package wrote. -/
def State.holdsImage (s : State) (a : Nat) (x : SavedMig) : Bool :=
  decide ((s.readPhys s.hubWho 63 a x.image.length).2 = some x.bytes)

/-- What the image at an address says, or the status of the rejection. -/
def State.readImage (s : State) (a : Nat) : State × Except Nat MigImage :=
  match s.readPhys s.hubWho 63 a 256 with
  | (s, none) => (s, .error 0x0302)
  | (s, some h) =>
    if crc32c (h.take 252) ≠ leAt h 252 4 then (s, .error 0x0102)
    else
      match s.saved.find? fun x => s.holdsImage a x with
      | some x => (s, .ok x.image)
      | none =>
        match s.readPhys s.hubWho 63 a (Config.migLength h) with
        | (s, none) => (s, .error 0x0302)
        | (s, some b) =>
          match Config.migDecode b with
          | none => (s, .error 0x0102)
          | some m => (s, .ok m)

/-- The settings that the image makes of the latest committed ones. A die-scratch segment that another panel holds is kept. -/
def State.migSettings (s : State) (m : MigImage) : Settings :=
  let c := s.cfg
  let ps := m.panels.map fun p => p.panel
  { c with
    panels := m.panels.foldl (fun t p => tput t p.panel p.cfg) c.panels,
    classes := m.classes.foldl (fun t e => tput t e.1 e.2) c.classes,
    arr := m.arr.foldl (fun t e => tput t e.1 e.2) c.arr,
    dscr := m.dscr.foldl (fun t e => match c.dscrOwner (e.1 / 16) (e.1 % 16) with
      | some p => if ps.contains p then tput t e.1 e.2 else t
      | none => tput t e.1 e.2) c.dscr }

/-- The settings can be committed (R308). -/
def State.migStands (s : State) (m : MigImage) : Bool :=
  let n := s.migSettings m
  (m.panels.all fun p => decide (p.cfg.lcTiles &&& p.tiles = p.cfg.lcTiles)) &&
    decide ((n.panels.map fun e => max e.2.w (s.cfg.panel e.1).w).foldl (· + ·) 0 ≤ s.wLimit) &&
    decide (sumPanels n (fun c => c.linkShare) ≤ 1024)

/-- Why an image is rejected. -/
def State.imageChecks (s : State) (m : MigImage) : List (Bool × Nat) :=
  [(decide (m.stepping ≠ s.fld .GLB_ID_STEPPING 0) || decide (m.compat ≠ s.compat), 0x0102), (badVf m.vf, 0x0102),
   (thas s.funcs m.vf, 0x0104), (m.queues.any fun e => (s.queue e.1).isSome, 0x0104), (m.ctxs.any fun e => thas s.ctxs e.1, 0x0104),
   (m.panels.any fun p => !(thas s.panels p.panel) || decide (s.panelTiles p.panel ≠ p.tiles), 0x0104),
   (m.panels.any fun p => decide (8 ≤ s.holders p.panel), 0x0104),
   (m.seqs.any fun e => thas s.rsqs e.1, 0x0104), (decide (s.applied ≠ s.committed), 0x0104), (!(s.migStands m), 0x0102)]

/-- A recorded command enters under a number of this package's. -/
def State.enterCmd (s : State) (m : MigImage) (x : Cmd × W64) : State :=
  let id := s.nextCmd
  let old := x.1.id
  let c : Cmd := { x.1 with
    id := id, epoch := s.committed, tSub := s.time, tAdm := s.time, tStart := s.time - x.2, twc := none, phase := .recorded, landed := [] }
  let s := { s with cmds := tput s.cmds id c, nextCmd := id + 1 }
  let s := match tget m.launches old with
    | some l => { s with launches := tput s.launches id { l with id := id } }
    | none => s
  (m.images.filter fun i => decide (i.cmd = old)).foldl (fun s i =>
    let i : Image := { i with cmd := id, epoch := s.committed, cores := i.cores.map fun k => { k with launch := k.launch.map fun _ => id } }
    { s with images := tput s.images s.nextImage i, nextImage := s.nextImage + 1 }) s

/-- The image's bytes go into its stash slot. -/
def State.putStash (s : State) (i : Image) : State :=
  let (c, s) := s.fresh
  let scratch := (List.range 0x2000000).map fun o => ((i.scratch.find? fun (e : Host.Cell) => decide (e.1 = o)).map fun e => e.2).getD 0
  s.heldWrite (tgetD s.stash (4 * i.ctx + i.quad) []) (s.slotVa i.ctx i.quad i.slot i.epoch)
    (scratch ++ (List.range 0x210000).map fun j => Config.undefByte c j)

/-- Gauges and activation slots of a panel. -/
def State.restorePanel (s : State) (p : MigPanel) : State :=
  let s := ((s.setFld .PWR_PANEL_TARGET p.panel p.target).setFld .PWR_PANEL_RESERVED_G p.panel p.reserved).setFld .PWR_PANEL_LOCK p.panel p.lock
  let s := { s with panels := tmod s.panels p.panel fun x => { x with actSlots := p.slots } }
  (maskBits (s.panelTiles p.panel) 48).foldl (fun s t => s.giveSlots t p.panel) s

/-- A sequencer is configured as the image has it: halted, unless it was never started. -/
def State.restoreSeq (s : State) (e : Nat × Nat × Rsq) : State :=
  let r := e.2.2
  (s.configureRsq e.1 r.ctx r.cfg r.prog).setRsqState e.1 (if e.2.1 = 1 then 1 else 4) |>.putRsq e.1
    { r with run := none, stop := [], resize := none, fault := none }

/-- Build the function, frozen. -/
def State.restoreImage (s : State) (m : MigImage) : State :=
  let s := { s with
    funcs := tput s.funcs m.vf { m.func with state := 3, flrBusy := false },
    msix := m.msix.foldl (fun t (e : Nat × W64) => tput t e.1 e.2) s.msix, msixPend := m.pend ++ s.msixPend,
    queues := m.queues.foldl (fun t (e : Nat × Queue) => tput t e.1 { e.2 with held := false, firstAt := none, subs := [] }) s.queues,
    ctxs := m.ctxs.foldl (fun t (e : Nat × Ctx) => tput t e.1 { e.2 with gfence := s.time }) s.ctxs,
    pwr := { s.pwr with accounts := m.accounts.foldl (fun t (e : Nat × Nat) => tput t e.1 e.2) s.pwr.accounts } }
  let n := s.migSettings m
  let s := s.commitAs n (changedResources s.cfg n)
  let s := m.classes.foldl (fun (s : State) (e : Nat × CtxClass) => configApply (.ctxClass e.1) s) s.checkApplied
  let s := m.panels.foldl (fun s p => s.restorePanel p) s
  let s := m.cmds.foldl (fun s x => s.enterCmd m x) s
  let s := (s.images.filter fun e => thas m.ctxs e.2.ctx).foldl (fun s e => s.putStash e.2) s
  let s := m.seqs.foldl (fun s e => s.restoreSeq e) s
  (s.updateReservations.updateBelow).paceDies

def migRestoreDo (s : State) (r : List Byte) : State × Nat :=
  match s.readImage (leAt r 24 8) with
  | (s, .error st) => (s, st)
  | (s, .ok m) =>
    let bad := checkStatus (s.imageChecks m)
    if bad ≠ 0 then (s, bad) else (s.restoreImage m, 0)

end Sys2Proof.Machine
end

