-- ==== Sys2Proof/Machine/Checks.lean ====
section
/-! DEFINITION. Steps 4 to 6 of R242 for every operation, and what a fetch from a CMD queue, a doorbell, and the creation and removal of
queues, contexts and functions do (07.3, 07.4, 07.11, 12.2). -/

namespace Sys2Proof.Machine

/-- A BE command that uses tiles needs its context's class (R294). -/
def State.classMissing (s : State) (r : List Byte) : Bool := !(hLc r) && !(s.beAllowed (hCtx r) s.committed)

/-- What R289, R294 and R296 ask of a command that uses tiles. -/
def State.unitChecks (s : State) (r : List Byte) : List (Bool × Nat) :=
  [(s.maskBarred r, 0x0102), (s.classMissing r, 0x0104), (s.lcMaskBad (s.ctxPanel r) r, 0x0104)]

/-- The checks of each operation of Table 07-9. -/
def State.opChecks (s : State) (r : List Byte) : List (Bool × Nat) :=
  match hOpcode r with
  | 0x0101 => copyChecks s r
  | 0x0102 | 0x0103 => listChecks s r
  | 0x0104 => fillChecks s r
  | 0x0105 => reduceChecks s r
  | 0x0201 => gemmChecks s s.cfg (s.ctxPanel r) r ++ s.unitChecks r
  | 0x0202 => actTableLoadChecks s r
  | 0x0301 => launchChecks s s.cfg (s.ctxPanel r) r ++ s.unitChecks r ++ [(hLc r && (s.declared (hCtx r) r).isNone, 0x0107)]
  | 0x0302 => resumeGroupChecks s r
  | 0x0303 => workDeclareChecks s r
  | 0x0401 | 0x0402 | 0x0403 | 0x0404 | 0x0405 => collChecks s r
  | 0x0501 => rsqConfigChecks s r
  | 0x0502 => rsqStartChecks s r
  | 0x0503 => rsqStopChecks s r
  | 0x0504 => seqCancelChecks s r
  | 0x0505 => poolResizeChecks s r
  | 0x0601 => fenceChecks s r
  | 0x0602 => signalChecks s r
  | 0x0603 => waitChecks s r
  | 0x0604 => eventPostChecks s r
  | 0x0605 => nopChecks s r
  | 0x0701 => capSetChecks s r
  | 0x0702 => slewSetChecks s r
  | 0x0703 => shedLevelSetChecks s r
  | 0x0704 | 0x0705 => noFieldChecks s r
  | 0x0706 => gaugeSetChecks s r
  | 0x0707 => domainSwitchChecks s r
  | 0x0708 => reserveChecks s r
  | 0x0801 => panelCreateChecks s r
  | 0x0802 => panelDestroyChecks s r
  | 0x0803 => panelRebindChecks s r
  | 0x0804 => configStageChecks s r
  | 0x0805 => configCommitChecks s r
  | 0x0806 => queueCreateChecks s r
  | 0x0807 => queueDestroyChecks s r
  | 0x0808 => ctxCreateChecks s r
  | 0x0809 => ctxDestroyChecks s r
  | 0x080A => ctxFrogChecks s r
  | 0x080B => engineResetChecks s r
  | 0x080C => panelResetChecks s r
  | 0x080D => vfCreateChecks s r
  | 0x080E => vfDestroyChecks s r
  | 0x0901 => counterSetChecks s r
  | 0x0902 => snapshotChecks s r
  | 0x0903 => samplerSetChecks s r
  | 0x0904 => stitchSetChecks s r
  | 0x0905 => dumpChecks s r
  | 0x0A01 => (s.maskBarred r, 0x0102) :: l1InvChecks s r
  | 0x0A02 => xlatInvChecks s r
  | 0x0F01 => migFreezeChecks s r
  | 0x0F02 => migSaveChecks s r
  | 0x0F03 => migRestoreChecks s r
  | 0x0F04 => attestChecks s r
  | 0x0F05 => fwStageChecks s r
  | 0x0F06 => fwActivateChecks s r
  | _ => []

def State.opStatus (s : State) (_ : Queue) (r : List Byte) : Nat := checkStatus (s.opChecks r)

/-- COMMAND_FETCH. The SCC's turn among panels and queues (R241) is the command's operand; only an LC queue's precedence binds it. -/
def commandFetch (q : Nat) (s : State) : State := s.fetchOne State.opStatus State.lcWork q

/-! ### Doorbells and interrupts (R220, R221, R231) -/

/-- Bind-off has begun to end the package's work: doorbells are ignored (R483). -/
def State.doorbellsOpen (s : State) : Bool := decide (s.fld .SRV_BIND_OFF_BUSY 0 = 0) && decide (s.fld .SRV_BIND_OFF_DONE 0 = 0)

/-- A write of INDEX: the high half alone is ignored. -/
def doorbellIndex (f q : Nat) (half : Half) (index : W32) (s : State) : State :=
  if half = .high ∨ s.doorbellsOpen = false then s else s.doorbell f q index false

/-- DOORBELL_TAIL: a doorbell of a CMD or SEQ queue. -/
def doorbellTail (f q : Nat) (half : Half) (index : W32) (s : State) : State := doorbellIndex f q half index s

/-- DOORBELL_HEAD: a doorbell of a CPL or EVT queue. -/
def doorbellHead (f q : Nat) (half : Half) (index : W32) (s : State) : State := doorbellIndex f q half index s

/-- DOORBELL_ARM: an 8-byte write with ARM = 1. -/
def doorbellArm (f q : Nat) (index : W32) (s : State) : State := if s.doorbellsOpen then s.doorbell f q index true else s

/-- INTERRUPT_COAL_TIMEOUT. -/
def interruptCoalTimeout (q : Nat) (s : State) : State :=
  match s.queue q with
  | none => s
  | some x =>
    match x.firstAt with
    | none => s
    | some t => if x.armed ∧ x.coalUs ≠ 0 ∧ 1000 * x.coalUs ≤ (s.time - t).toNat then s.interrupt q else s

/-! ### Queues and contexts (R223, R224, R410) -/

/-- The sequences that a SEQ queue submitted leave. -/
def State.dropSeqsOf (s : State) (q status : Nat) : State :=
  s.rsqs.foldl (fun (s : State) (e : Nat × Rsq) =>
    (e.2.seqs.filter fun y => decide (y.2.q = q)).foldl (fun (s : State) (y : Nat × SeqRec) => s.leaveSeq e.1 y.1 status y.2) s) s

/-- QUEUE_DESTROY: its own command may be among those that are cancelled. -/
def queueDestroyDo (s : State) (r : List Byte) : State × Nat :=
  let q := bits (leAt r 16 4) 17 0
  let s := (s.cmdsOf fun c => decide (c.q = q) && c.row.isNone).foldl (fun s id => s.cancelCmd id 0x0205) s
  let s := s.dropSeqsOf q 0x0205
  ({ s with queues := tdel s.queues q }, 0)

/-- R410: the recorded commands and images of a saved function's context are discarded without records. -/
def State.discardRecorded (s : State) (ctx : Nat) : State :=
  if s.fnState (s.ctxFunc ctx) = 4 then
    let l := s.cmdsOf fun c => decide (c.ctx = ctx) && decide (c.phase = .recorded)
    { s with
      cmds := s.cmds.filter fun e => !(l.contains e.1), launches := s.launches.filter fun e => !(l.contains e.1),
      images := s.images.filter fun e => !(decide (e.2.ctx = ctx)) }
  else s

/-- CTX_DESTROY: the context is frogged, and what is kept for it goes with its number. -/
def ctxDestroyDo (s : State) (r : List Byte) : State × Nat :=
  let x := leAt r 16 2 % 4096
  let s := (s.discardRecorded x).frog x 0x0201
  let gone := (s.rsqs.filter fun e => decide (e.2.ctx = x)).map fun e => e.1
  let s := gone.foldl (fun (s : State) p => s.setRsqState p 0) s
  ({ s with
    ctxs := tdel s.ctxs x, rsqs := s.rsqs.filter fun e => !(decide (e.2.ctx = x)), jobs := s.jobs.filter fun j => !(decide (j.ctx = x)),
    marks := s.marks.filter fun e => !(decide (e.2.ctx = x)), stash := (List.range 4).foldl (fun t q => tdel t (4 * x + q)) s.stash,
    pwr := { s.pwr with accounts := tdel s.pwr.accounts x }, toApply := s.toApply.filter fun a => !(decide (a = CfgResource.ctxClass x)),
    epochs := s.epochs.map fun (e : Nat × Settings) => (e.1, { e.2 with classes := tdel e.2.classes x }) }.checkApplied, 0)

end Sys2Proof.Machine
end

