-- ==== Sys2Proof/Machine/CmdManage.lean ====
section
/-! DEFINITION. The meanings of the migration, firmware, attestation, sideband, test port and outside-access rows (12, 14.7, 15.4, 16.7). -/

namespace Sys2Proof.Machine

/-- R405, R406. -/
def execMigFreeze (id : Nat) (s : State) : Host.Outcome State Fault Refusal := .next (s.runCmd id 0x0F01 migFreezeBody)

/-- R407. -/
def execMigSave (id : Nat) (s : State) : Host.Outcome State Fault Refusal :=
  .next (s.runCmd id 0x0F02 (checkedBody migSaveChecks migSaveDo))

/-- R408. -/
def execMigRestore (id : Nat) (s : State) : Host.Outcome State Fault Refusal :=
  .next (s.runCmd id 0x0F03 (checkedBody migRestoreChecks migRestoreDo))

/-- R414. -/
def execAttest (id : Nat) (s : State) : Host.Outcome State Fault Refusal :=
  .next (s.runCmd id 0x0F04 (checkedBody attestChecks attestDo))

/-- R477. -/
def execFwStage (id : Nat) (flashOk : Bool) (s : State) : Host.Outcome State Fault Refusal :=
  .next (s.runCmd id 0x0F05 (fwStageBody flashOk))

/-- R478. -/
def execFwActivate (id : Nat) (s : State) : Host.Outcome State Fault Refusal := .next (fwActivate id s)

/-- R394. -/
def execHostApertureAccess (f off : Nat) (acc : HostAcc) (s : State) : Host.Outcome State Fault Refusal :=
  .next (hostApertureAccess f off acc s)

/-- R348. -/
def execGuestRequest (site : Nat) (req : GuestReq) (s : State) : Host.Outcome State Fault Refusal :=
  .next (guestRequest site req s)

/-- R459. -/
def execTapExtest (s : State) : Host.Outcome State Fault Refusal := .next (tapExtest s)

/-- R459. -/
def execTapIdcode (s : State) : Host.Outcome State Fault Refusal := .next (tapIdcode s)

/-- R459. -/
def execTapSamplePreload (v : W64) (s : State) : Host.Outcome State Fault Refusal := .next (tapSamplePreload v s)

/-- R459. -/
def execTapClamp (s : State) : Host.Outcome State Fault Refusal := .next (tapClamp s)

/-- R459. -/
def execTapHighz (s : State) : Host.Outcome State Fault Refusal := .next (tapHighz s)

/-- R459. -/
def execTapBypass (code : Byte) (s : State) : Host.Outcome State Fault Refusal := .next (tapBypass code s)

/-- R459. -/
def execTapDap (s : State) : Host.Outcome State Fault Refusal := .next (tapDap s)

/-- R503. -/
def execTapReset (s : State) : Host.Outcome State Fault Refusal := .next (tapReset s)

/-- R460. -/
def execDapAuthorise (serial : W32) (signatureOk : Bool) (s : State) : Host.Outcome State Fault Refusal :=
  .next (dapAuthorise serial signatureOk s)

/-- R458, R460. -/
def execDapAccess (a : DapAcc) (s : State) : Host.Outcome State Fault Refusal := .next (dapAccess a s)

/-- R413. -/
def execSpdmRequest (bytes : List Byte) (known : Bool) (s : State) : Host.Outcome State Fault Refusal :=
  .next (spdmRequest bytes known s)

/-- R413. -/
def execFleetKeySet (key : BitVec 256) (sessionOk : Bool) (s : State) : Host.Outcome State Fault Refusal :=
  .next (fleetKeySet key sessionOk s)

/-- R501. -/
def execPldmGetSensor (sid : Nat) (s : State) : Host.Outcome State Fault Refusal := .next (pldmGetSensor sid s)

/-- R470, R475, R500. -/
def execPldmFwUpdate (image : List Byte) (bundleOk : Bool) (b : BootInputs) (s : State) : Host.Outcome State Fault Refusal :=
  .next (pldmFwUpdate image bundleOk b s)

/-- R501. -/
def execPldmSetEffecter (eid : Nat) (value : W64) (s : State) : Host.Outcome State Fault Refusal :=
  .next (pldmSetEffecter eid value s)

/-- R392. -/
def execAtsInvalidation (f : Nat) (va : W64) (len : Nat) (s : State) : Host.Outcome State Fault Refusal :=
  .next (atsInvalidation f va len s)

end Sys2Proof.Machine
end

