-- ==== Sys2Proof/Machine/CmdMove.lean ====
section
/-! DEFINITION. The meanings of the memory-movement and queue-control rows (07.8, 07.10, 06.8). -/

namespace Sys2Proof.Machine

/-- R234. -/
def execCopy (id : Nat) (s : State) : Host.Outcome State Fault Refusal := .next (s.runCmd id 0x0101 copyBody)

/-- R234, R209. -/
def execGather (id : Nat) (s : State) : Host.Outcome State Fault Refusal := .next (s.runCmd id 0x0102 listBody)

/-- R234, R209. -/
def execScatter (id : Nat) (s : State) : Host.Outcome State Fault Refusal := .next (s.runCmd id 0x0103 listBody)

/-- R234. -/
def execFill (id : Nat) (s : State) : Host.Outcome State Fault Refusal := .next (s.runCmd id 0x0104 fillBody)

/-- R177, R181. -/
def execReduce (id : Nat) (s : State) : Host.Outcome State Fault Refusal := .next (s.runCmd id 0x0105 reduceBody)

/-- R187, R238. -/
def execFence (id : Nat) (s : State) : Host.Outcome State Fault Refusal := .next (s.runCmd id 0x0601 fenceBody)

/-- R238. -/
def execSignal (id : Nat) (s : State) : Host.Outcome State Fault Refusal := .next (s.runCmd id 0x0602 signalBody)

/-- R238. -/
def execWait (id : Nat) (s : State) : Host.Outcome State Fault Refusal := .next (s.runCmd id 0x0603 waitBody)

/-- R238. -/
def execWaitRecheck (id : Nat) (s : State) : Host.Outcome State Fault Refusal := .next (waitRecheck id s)

/-- R238. -/
def execWaitTimeout (id : Nat) (s : State) : Host.Outcome State Fault Refusal := .next (waitTimeout id s)

/-- R238. -/
def execEventPost (id : Nat) (s : State) : Host.Outcome State Fault Refusal :=
  .next (s.runCmd id 0x0604 (checkedBody eventPostChecks eventPostDo))

/-- Table 07-9. -/
def execNop (id : Nat) (s : State) : Host.Outcome State Fault Refusal :=
  .next (s.runCmd id 0x0605 (checkedBody nopChecks nopDo))

/-- R106, R239. -/
def execL1Inv (id : Nat) (s : State) : Host.Outcome State Fault Refusal :=
  .next (s.runCmd id 0x0A01 (checkedBody l1InvChecks l1InvDo))

/-- R207, R208. -/
def execXlatInv (id : Nat) (s : State) : Host.Outcome State Fault Refusal := .next (s.runCmd id 0x0A02 xlatInvBody)

end Sys2Proof.Machine
end

