-- ==== Sys2Proof/Machine/CmdObserve.lean ====
section
/-! DEFINITION. The meanings of the observation rows (14). -/

namespace Sys2Proof.Machine

/-- Table 14-3, R443. -/
def execCounterSet (id : Nat) (s : State) : Host.Outcome State Fault Refusal :=
  .next (s.runCmd id 0x0901 (checkedBody counterSetChecks counterSetDo))

/-- R447. -/
def execSnapshot (id : Nat) (s : State) : Host.Outcome State Fault Refusal :=
  .next (s.runCmd id 0x0902 (checkedBody snapshotChecks snapshotDo))

/-- R448, R450. -/
def execSamplerSet (id : Nat) (s : State) : Host.Outcome State Fault Refusal :=
  .next (s.runCmd id 0x0903 (checkedBody samplerSetChecks samplerSetDo))

/-- R452. -/
def execStitchSet (id : Nat) (s : State) : Host.Outcome State Fault Refusal :=
  .next (s.runCmd id 0x0904 (checkedBody stitchSetChecks stitchSetDo))

/-- R455. -/
def execDump (id : Nat) (s : State) : Host.Outcome State Fault Refusal :=
  .next (s.runCmd id 0x0905 (checkedBody dumpChecks dumpDo))

/-- R453. -/
def execDumpCopy (n : Nat) (s : State) : Host.Outcome State Fault Refusal := .next (dumpCopy n s)

/-- R446. -/
def execCounterFreeze (on : Bool) (skewNs : Nat) (s : State) : Host.Outcome State Fault Refusal :=
  .next (counterFreeze on skewNs s)

/-- R448. -/
def execSamplerRecord (skewNs : Nat) (s : State) : Host.Outcome State Fault Refusal := .next (samplerRecord skewNs s)

/-- R450. -/
def execCoreSample (die core group skid : Nat) (stalled : Bool) (s : State) : Host.Outcome State Fault Refusal :=
  .next (coreSample die core group skid stalled s)

/-- R449. -/
def execBwWindow (s : State) : Host.Outcome State Fault Refusal := .next (bwWindow s)

end Sys2Proof.Machine
end

