-- ==== Sys2Proof/Machine/CmdPanel.lean ====
section
/-! DEFINITION. The meanings of the panel, tile and staged-configuration rows (09). -/

namespace Sys2Proof.Machine

/-- R287. -/
def execPanelCreate (id : Nat) (s : State) : Host.Outcome State Fault Refusal :=
  .next (s.runCmd id 0x0801 (checkedBody panelCreateChecks panelCreateDo))

/-- R288. -/
def execPanelDestroy (id : Nat) (s : State) : Host.Outcome State Fault Refusal :=
  .next (s.runCmd id 0x0802 (checkedBody panelDestroyChecks panelDestroyDo))

/-- R302. -/
def execPanelRebind (id : Nat) (s : State) : Host.Outcome State Fault Refusal := .next (s.runCmd id 0x0803 panelRebindBody)

/-- R307. -/
def execConfigStage (id : Nat) (s : State) : Host.Outcome State Fault Refusal :=
  .next (s.runCmd id 0x0804 (checkedBody configStageChecks configStageDo))

/-- R308. -/
def execConfigCommit (id : Nat) (s : State) : Host.Outcome State Fault Refusal :=
  .next (s.runCmd id 0x0805 (checkedBody configCommitChecks fun s _ => configCommitDo s))

/-- R306. -/
def execConfigApply (r : CfgResource) (s : State) : Host.Outcome State Fault Refusal := .next (configApply r s)

/-- R309. -/
def execConfigRollback (s : State) : Host.Outcome State Fault Refusal := .next (configRollback s)

/-- R289, R299. -/
def execLcDispatch (id : Nat) (s : State) : Host.Outcome State Fault Refusal := .next (lcDispatch id s)

/-- R297, Table 09-4. -/
def execPreemptStopDone (t : Nat) (s : State) : Host.Outcome State Fault Refusal := .next (preemptStopDone t s)

/-- R295, R297. -/
def execStashDone (t : Nat) (accepted : Bool) (s : State) : Host.Outcome State Fault Refusal := .next (stashDone t accepted s)

/-- R298. -/
def execPreemptAbandon (t : Nat) (s : State) : Host.Outcome State Fault Refusal := .next (preemptAbandon t s)

/-- R290. -/
def execBeUnitStart (t id : Nat) (s : State) : Host.Outcome State Fault Refusal := .next (beUnitStart t id s)

/-- R291. -/
def execQuantumEnd (t : Nat) (s : State) : Host.Outcome State Fault Refusal := .next (quantumEnd t s)

/-- R296, R300. -/
def execUnitResume (t image : Nat) (crcOk : Bool) (s : State) : Host.Outcome State Fault Refusal :=
  .next (unitResume t image crcOk s)

/-- R310. -/
def execCompaction (t : Nat) (s : State) : Host.Outcome State Fault Refusal := .next (compaction t s)

/-- R311. -/
def execRespread (t : Nat) (s : State) : Host.Outcome State Fault Refusal := .next (respread t s)

end Sys2Proof.Machine
end

