-- ==== Sys2Proof/Machine/CmdPower.lean ====
section
/-! DEFINITION. The meanings of the power rows (11) and of the class 0x07 commands. -/

namespace Sys2Proof.Machine

/-- R387: ends when the ceiling begins to move. -/
def execCapSet (id : Nat) (s : State) : Host.Outcome State Fault Refusal := .next (s.runCmd id 0x0701 (onceThen capSetDo))

/-- R387: ends at the next control period. -/
def execSlewSet (id : Nat) (s : State) : Host.Outcome State Fault Refusal := .next (s.runCmd id 0x0702 (onceThen slewSetDo))

/-- R368, R387. -/
def execShedLevelSet (id : Nat) (s : State) : Host.Outcome State Fault Refusal :=
  .next (s.runCmd id 0x0703 (onceThen shedLevelSetDo))

/-- R365. -/
def execShed (id : Nat) (s : State) : Host.Outcome State Fault Refusal :=
  .next (s.runCmd id 0x0704 fun s _ => (shedDo s, some 0))

/-- R365. -/
def execRestore (id : Nat) (s : State) : Host.Outcome State Fault Refusal :=
  .next (s.runCmd id 0x0705 fun s _ => (restoreDo s, some 0))

/-- R370, R375: ends when the dies pace at the new grant. -/
def execGaugeSet (id : Nat) (s : State) : Host.Outcome State Fault Refusal := .next (s.runCmd id 0x0706 (onceThen gaugeSetDo))

/-- R26: the request is queued for its domain. -/
def execDomainSwitch (id : Nat) (s : State) : Host.Outcome State Fault Refusal := .next (s.runCmd id 0x0707 domainSwitchDo)

/-- R27. -/
def execDomainSwitchDone (d : Nat) (s : State) : Host.Outcome State Fault Refusal := .next (domainSwitchDone d s)

/-- R363, R388. -/
def execReserve (id : Nat) (s : State) : Host.Outcome State Fault Refusal :=
  .next (s.runCmd id 0x0708 fun s c => ((reserveDo s c.raw).1, some (reserveDo s c.raw).2))

/-- R358. -/
def execControlPeriod (fastMw : Nat) (loadMw : List Nat) (s : State) : Host.Outcome State Fault Refusal :=
  .next (controlPeriod fastMw loadMw s)

/-- R355, R359, R385. -/
def execMeasureWindow (nJ vin10mV iin100mA baseW : Nat) (s : State) : Host.Outcome State Fault Refusal :=
  .next (measureWindow nJ vin10mV iin100mA baseW s)

/-- R367. -/
def execPowerBackstop (s : State) : Host.Outcome State Fault Refusal := .next (powerBackstop s)

/-- R377. -/
def execDroopResponse (die lateBeats : Nat) (s : State) : Host.Outcome State Fault Refusal :=
  .next (droopResponse die lateBeats s)

/-- R377. -/
def execDroopRecovery (die : Nat) (s : State) : Host.Outcome State Fault Refusal := .next (droopRecovery die s)

/-- R381, R382, R481. -/
def execSensorRead (rs : List Reading) (s : State) : Host.Outcome State Fault Refusal := .next (sensorRead rs s)

/-- R120, R382. -/
def execHbmTempRead (h : Nat) (celsius : Int) (s : State) : Host.Outcome State Fault Refusal := .next (hbmTempRead h celsius s)

/-- R365, R480. -/
def execShedNAssert (stableNs : Nat) (s : State) : Host.Outcome State Fault Refusal := .next (shedNAssert stableNs s)

/-- R365, R480. -/
def execShedNDeassert (stableNs : Nat) (s : State) : Host.Outcome State Fault Refusal := .next (shedNDeassert stableNs s)

end Sys2Proof.Machine
end

