-- ==== Sys2Proof/Machine/CmdQueue.lean ====
section
/-! DEFINITION. The meanings of the queue, doorbell, collective and management rows (07, 12). -/

namespace Sys2Proof.Machine

/-- R220, R221. -/
def execDoorbellTail (func q : Nat) (half : Half) (index : W32) (s : State) : Host.Outcome State Fault Refusal :=
  .next (doorbellTail func q half index s)

/-- R220, R221. -/
def execDoorbellHead (func q : Nat) (half : Half) (index : W32) (s : State) : Host.Outcome State Fault Refusal :=
  .next (doorbellHead func q half index s)

/-- R231. -/
def execDoorbellArm (func q : Nat) (index : W32) (s : State) : Host.Outcome State Fault Refusal :=
  .next (doorbellArm func q index s)

/-- R231. -/
def execInterruptCoalTimeout (q : Nat) (s : State) : Host.Outcome State Fault Refusal := .next (interruptCoalTimeout q s)

/-- R241 to R247. -/
def execCommandFetch (q : Nat) (s : State) : Host.Outcome State Fault Refusal := .next (commandFetch q s)

/-- R228, R190, R246. -/
def execCommandComplete (id : Nat) (s : State) : Host.Outcome State Fault Refusal := .next (commandComplete id s)

/-- R240. -/
def execWorkDeclare (id : Nat) (s : State) : Host.Outcome State Fault Refusal :=
  .next (s.runCmd id 0x0303 (checkedBody workDeclareChecks workDeclareDo))

/-- R236, R237. -/
def execAllReduce (id : Nat) (others : List (Nat × List Byte)) (s : State) : Host.Outcome State Fault Refusal :=
  .next (s.runCmd id 0x0401 (collBody others))

/-- R236, R237. -/
def execReduceScatter (id : Nat) (others : List (Nat × List Byte)) (s : State) : Host.Outcome State Fault Refusal :=
  .next (s.runCmd id 0x0402 (collBody others))

/-- R236. -/
def execAllGather (id : Nat) (others : List (Nat × List Byte)) (s : State) : Host.Outcome State Fault Refusal :=
  .next (s.runCmd id 0x0403 (collBody others))

/-- R236. -/
def execBroadcast (id : Nat) (others : List (Nat × List Byte)) (s : State) : Host.Outcome State Fault Refusal :=
  .next (s.runCmd id 0x0404 (collBody others))

/-- R236. -/
def execBarrier (id : Nat) (s : State) : Host.Outcome State Fault Refusal := .next (s.runCmd id 0x0405 (collBody []))

/-- R236, R342. -/
def execCollectiveTimeout (id : Nat) (s : State) : Host.Outcome State Fault Refusal := .next (collectiveTimeout id s)

/-- R222. -/
def execQueueCreate (id : Nat) (s : State) : Host.Outcome State Fault Refusal :=
  .next (s.runCmd id 0x0806 (checkedBody queueCreateChecks queueCreateDo))

/-- R223. -/
def execQueueDestroy (id : Nat) (s : State) : Host.Outcome State Fault Refusal :=
  .next (s.runCmd id 0x0807 (checkedBody queueDestroyChecks queueDestroyDo))

/-- R224. -/
def execCtxCreate (id : Nat) (s : State) : Host.Outcome State Fault Refusal :=
  .next (s.runCmd id 0x0808 (checkedBody ctxCreateChecks ctxCreateDo))

/-- R224, R410. -/
def execCtxDestroy (id : Nat) (s : State) : Host.Outcome State Fault Refusal :=
  .next (s.runCmd id 0x0809 (checkedBody ctxDestroyChecks ctxDestroyDo))

/-- R395 to R397. -/
def execVfCreate (id : Nat) (s : State) : Host.Outcome State Fault Refusal :=
  .next (s.runCmd id 0x080D (checkedBody vfCreateChecks vfCreateDo))

/-- R398. -/
def execVfDestroy (id : Nat) (s : State) : Host.Outcome State Fault Refusal :=
  .next (s.runCmd id 0x080E (checkedBody vfDestroyChecks vfDestroyDo))

end Sys2Proof.Machine
end

