-- ==== Sys2Proof/Machine/CmdRegs.lean ====
section
/-! DEFINITION. The meanings of the register rows: reads with a side effect, register writes, and the mailbox indices (12). -/

namespace Sys2Proof.Machine

/-- R152. -/
def execHbmEccCountRead (h : Nat) (half : Half) (s : State) : Host.Outcome State Fault Refusal :=
  .next (s.hostRead .pf0 .HBM_ECC_COUNT h half)

/-- R152. -/
def execHbmEccLogRead (h : Nat) (half : Half) (s : State) : Host.Outcome State Fault Refusal :=
  .next (s.hostRead .pf0 .HBM_ECC_LOG h half)

/-- R153. -/
def execHbmRepairLogRead (h : Nat) (half : Half) (s : State) : Host.Outcome State Fault Refusal :=
  .next (s.hostRead .pf0 .HBM_REPAIR_LOG h half)

/-- R184. -/
def execUccSliceErrRead (q : Nat) (half : Half) (s : State) : Host.Outcome State Fault Refusal :=
  .next (s.hostRead .pf0 .UCC_SLICE_ERR q half)

/-- R184. -/
def execUccDirStatusRead (q : Nat) (half : Half) (s : State) : Host.Outcome State Fault Refusal :=
  .next (s.hostRead .pf0 .UCC_DIR_STATUS q half)

/-- R184. -/
def execUccSkeinStatusRead (q : Nat) (half : Half) (s : State) : Host.Outcome State Fault Refusal :=
  .next (s.hostRead .pf0 .UCC_SKEIN_STATUS q half)

/-- R212. -/
def execXltCountsRead (unit : Nat) (half : Half) (s : State) : Host.Outcome State Fault Refusal :=
  .next (s.hostRead .pf0 .XLT_COUNTS unit half)

/-- R352. -/
def execLnkErrRead (l : Nat) (half : Half) (s : State) : Host.Outcome State Fault Refusal :=
  .next (s.hostRead .pf0 .LNK_ERR l half)

/-- R352. -/
def execLnkFecRead (l : Nat) (half : Half) (s : State) : Host.Outcome State Fault Refusal :=
  .next (s.hostRead .pf0 .LNK_FEC l half)

/-- R352. -/
def execLnkGStatusRead (half : Half) (s : State) : Host.Outcome State Fault Refusal :=
  .next (s.hostRead .pf0 .LNK_G_STATUS 0 half)

/-- R354. -/
def execGstErrRead (site : Nat) (half : Half) (s : State) : Host.Outcome State Fault Refusal :=
  .next (s.hostRead .pf0 .GST_ERR site half)

/-- R390. -/
def execPwrDroopRead (half : Half) (s : State) : Host.Outcome State Fault Refusal := .next (s.hostRead .pf0 .PWR_DROOP 0 half)

/-- R437. -/
def execHubFltStatusRead (half : Half) (s : State) : Host.Outcome State Fault Refusal :=
  .next (s.hostRead .pf0 .HUB_FLT_STATUS 0 half)

/-- R437. -/
def execHubLeaseStatusRead (half : Half) (s : State) : Host.Outcome State Fault Refusal :=
  .next (s.hostRead .pf0 .HUB_LEASE_STATUS 0 half)

/-- R466. -/
def execObsSmpStatusRead (half : Half) (s : State) : Host.Outcome State Fault Refusal :=
  .next (s.hostRead .pf0 .OBS_SMP_STATUS 0 half)

/-- R466. -/
def execObsCsmpStatusRead (half : Half) (s : State) : Host.Outcome State Fault Refusal :=
  .next (s.hostRead .pf0 .OBS_CSMP_STATUS 0 half)

/-- R485. -/
def execSrvInputStatusRead (half : Half) (s : State) : Host.Outcome State Fault Refusal :=
  .next (s.hostRead .pf0 .SRV_INPUT_STATUS 0 half)

/-- R250. -/
def execQueFnStatusRead (v : View) (half : Half) (s : State) : Host.Outcome State Fault Refusal :=
  .next (s.hostRead v .QUE_FN_STATUS 0 half)

/-- R283. -/
def execRsqCountsRead (v : View) (p : Nat) (half : Half) (s : State) : Host.Outcome State Fault Refusal :=
  .next (s.hostRead v .RSQ_COUNTS p half)

/-- R314. -/
def execPnlCountsRead (v : View) (p : Nat) (half : Half) (s : State) : Host.Outcome State Fault Refusal :=
  .next (s.hostRead v .PNL_COUNTS p half)

/-- R314. -/
def execPnlDispatchRead (v : View) (p : Nat) (half : Half) (s : State) : Host.Outcome State Fault Refusal :=
  .next (s.hostRead v .PNL_DISPATCH p half)

/-- R153. -/
def execHbmRepairLogWrite (h : Nat) (s : State) : Host.Outcome State Fault Refusal := .next (s.hostWrite .HBM_REPAIR_LOG h 0)

/-- R5, R6. -/
def execRegisterWrite (v : View) (off : Nat) (half : Half) (value : W64) (s : State) : Host.Outcome State Fault Refusal :=
  .next (s.writeAt v off half value.toNat)

/-- R306. -/
def execStagedRegisterWrite (off : Nat) (half : Half) (value : W64) (s : State) : Host.Outcome State Fault Refusal :=
  .next (s.stagedAt off half value.toNat)

/-- R400. -/
def execMbxM2tTail (f : Nat) (value : W32) (s : State) : Host.Outcome State Fault Refusal := .next (s.m2tTail f value)

/-- R400. -/
def execMbxM2tHead (f : Nat) (value : W32) (s : State) : Host.Outcome State Fault Refusal := .next (s.m2tHead f value)

/-- R400. -/
def execMbxT2mTail (f : Nat) (value : W32) (s : State) : Host.Outcome State Fault Refusal := .next (s.t2mTail f value)

/-- R400. -/
def execMbxT2mHead (f : Nat) (value : W32) (s : State) : Host.Outcome State Fault Refusal := .next (s.t2mHead f value)

end Sys2Proof.Machine
end

