-- ==== Sys2Proof/Machine/CmdReset.lean ====
section
/-! DEFINITION. The meanings of the reset, cast-on, supply and clock rows (01.6, 13, 15, 16). -/

namespace Sys2Proof.Machine

/-- R424. -/
def execCtxFrog (req : ResetReq) (s : State) : Host.Outcome State Fault Refusal := .next (resetRow 1 0x080A req s)

/-- R426. -/
def execEngineReset (req : ResetReq) (s : State) : Host.Outcome State Fault Refusal := .next (resetRow 2 0x080B req s)

/-- R427. -/
def execPanelReset (req : ResetReq) (s : State) : Host.Outcome State Fault Refusal := .next (resetRow 3 0x080C req s)

/-- R428. -/
def execPackageReset (req : ResetReq) (b : BootInputs) (s : State) : Host.Outcome State Fault Refusal :=
  .next (packageReset req b s)

/-- R423. -/
def execResetOverrun (s : State) : Host.Outcome State Fault Refusal := .next (resetOverrun s)

/-- R399. -/
def execFlrVf (f : Nat) (s : State) : Host.Outcome State Fault Refusal := .next (flrVf f s)

/-- R429. -/
def execFlrPf0 (s : State) : Host.Outcome State Fault Refusal := .next (flrPf0 s)

/-- R429, R498. -/
def execHp0PerstAssert (durNs : Nat) (b : BootInputs) (s : State) : Host.Outcome State Fault Refusal :=
  .next (hp0PerstAssert durNs b s)

/-- R429. -/
def execHp1PerstAssert (s : State) : Host.Outcome State Fault Refusal := .next (hp1PerstAssert s)

/-- R498. -/
def execPerstNDeassert (port : Nat) (s : State) : Host.Outcome State Fault Refusal := .next (perstNDeassert port s)

/-- R383. -/
def execThermalTrip (unit : Nat) (celsius : Int) (s : State) : Host.Outcome State Fault Refusal :=
  .next (thermalTrip unit celsius s)

/-- R23. -/
def execClockHoldoverEnter (s : State) : Host.Outcome State Fault Refusal := .next (clockHoldoverEnter s)

/-- R23. -/
def execClockHoldoverExit (s : State) : Host.Outcome State Fault Refusal := .next (clockHoldoverExit s)

/-- R23. -/
def execPllLockLoss (d : Nat) (s : State) : Host.Outcome State Fault Refusal := .next (pllLockLoss d s)

/-- R495. -/
def execVin48Undervoltage (durNs : Nat) (s : State) : Host.Outcome State Fault Refusal := .next (vin48Undervoltage durNs s)

/-- R495. -/
def execVin48Overvoltage (durNs : Nat) (s : State) : Host.Outcome State Fault Refusal := .next (vin48Overvoltage durNs s)

/-- R495. -/
def execV3p3Undervoltage (durNs : Nat) (s : State) : Host.Outcome State Fault Refusal := .next (v3p3Undervoltage durNs s)

/-- R495. -/
def execRegulatorFault (durNs : Nat) (s : State) : Host.Outcome State Fault Refusal := .next (regulatorFault durNs s)

/-- R430. -/
def execTrayRstAssert (stableNs : Nat) (s : State) : Host.Outcome State Fault Refusal := .next (trayRstAssert stableNs s)

/-- R468. -/
def execCastOn (b : BootInputs) (s : State) : Host.Outcome State Fault Refusal := .next (castOn b s)

/-- R468. -/
def execVin48InRange (b : BootInputs) (s : State) : Host.Outcome State Fault Refusal := .next (vin48InRange b s)

/-- R483. -/
def execBindOff (v : View) (value : W64) (s : State) : Host.Outcome State Fault Refusal := .next (bindOff v value s)

/-- R483. -/
def execBindOffDrainExpire (s : State) : Host.Outcome State Fault Refusal := .next (bindOffDrainExpire s)

/-- R418, R251. -/
def execControllerFault (c : Nat) (s : State) : Host.Outcome State Fault Refusal := .next (controllerFault c s)

end Sys2Proof.Machine
end

