-- ==== Sys2Proof/Machine/CmdRsq.lean ====
section
/-! DEFINITION. The meanings of the row sequencer rows (08). -/

namespace Sys2Proof.Machine

/-- R255 to R260. -/
def execRsqConfig (id : Nat) (s : State) : Host.Outcome State Fault Refusal := .next (s.runCmd id 0x0501 rsqConfigBody)

/-- R277. -/
def execRsqStart (id : Nat) (s : State) : Host.Outcome State Fault Refusal := .next (s.runCmd id 0x0502 rsqStartBody)

/-- R278. -/
def execRsqStop (id : Nat) (s : State) : Host.Outcome State Fault Refusal := .next (s.runCmd id 0x0503 rsqStopBody)

/-- R279. -/
def execSeqCancel (id : Nat) (s : State) : Host.Outcome State Fault Refusal :=
  .next (s.runCmd id 0x0504 (checkedBody seqCancelChecks seqCancelDo))

/-- R280. -/
def execPoolResize (id : Nat) (s : State) : Host.Outcome State Fault Refusal := .next (s.runCmd id 0x0505 poolResizeBody)

/-- R263, R264, R247. -/
def execSeqEntryFetch (q slot : Nat) (s : State) : Host.Outcome State Fault Refusal := .next (seqEntryFetch q slot s)

/-- R259, R271. -/
def execRowStageIssue (panel : Nat) (s : State) : Host.Outcome State Fault Refusal := .next (rowStageIssue panel s)

/-- R265 to R272, R275, R276. -/
def execRowBoundary (panel : Nat) (s : State) : Host.Outcome State Fault Refusal := .next (rowBoundary panel s)

/-- R281. -/
def execRowCommandFault (panel id : Nat) (s : State) : Host.Outcome State Fault Refusal := .next (rowCommandFault panel id s)

end Sys2Proof.Machine
end

