-- ==== Sys2Proof/Machine/CmdUcc.lean ====
section
/-! DEFINITION. The meanings of the coherence protocol's rows (05): requests, snoops, answers and the events of a slice. -/

namespace Sys2Proof.Machine

/-- R162, Table 05-5. -/
def execRdShr (h : ReqHdr) (slice line : Nat) (s : State) : Host.Outcome State Fault Refusal := .next (rdShr h slice line s)

def execRdOwn (h : ReqHdr) (slice line : Nat) (readMiss : Bool) (s : State) : Host.Outcome State Fault Refusal :=
  .next (rdOwn h slice line readMiss s)

def execUpgrade (h : ReqHdr) (slice line : Nat) (s : State) : Host.Outcome State Fault Refusal := .next (upgrade h slice line s)

def execRdOnce (h : ReqHdr) (line : Nat) (s : State) : Host.Outcome State Fault Refusal := .next (rdOnce h line s)

def execWrLine (h : ReqHdr) (line : Nat) (data : List Byte) (hint : Nat) (s : State) : Host.Outcome State Fault Refusal :=
  .next (wrLine h line data hint s)

def execWrPtl (h : ReqHdr) (line : Nat) (mask : BitVec 128) (data : List Byte) (hint : Nat) (s : State) :
    Host.Outcome State Fault Refusal :=
  .next (wrPtl h line mask data hint s)

def execAtomic (h : ReqHdr) (addr : Nat) (op : AtomOp) (size : Nat) (a b : W64) (rt : Option RTag) (s : State) :
    Host.Outcome State Fault Refusal :=
  .next (atomicReq h addr op size a b rt s)

def execAddLine (h : ReqHdr) (line : Nat) (sectors : BitVec 4) (rop : Nat) (exact carry : Bool) (anchor : Int)
    (payload : List Byte) (rt : RTag) (s : State) : Host.Outcome State Fault Refusal :=
  .next (addLineReq h line sectors rop exact carry anchor payload rt s)

def execSnpShr (slice line : Nat) (s : State) : Host.Outcome State Fault Refusal := .next (snpShr slice line s)

def execSnpInv (slice line : Nat) (s : State) : Host.Outcome State Fault Refusal := .next (snpInv slice line s)

def execSnpFetch (slice line : Nat) (ecc : EccEvent) (s : State) : Host.Outcome State Fault Refusal :=
  .next (snpFetch slice line ecc s)

def execInvAck (slice line : Nat) (s : State) : Host.Outcome State Fault Refusal := .next (invAck slice line s)

def execWbInFlight (slice line : Nat) (s : State) : Host.Outcome State Fault Refusal := .next (wbInFlight slice line s)

def execComplete (tag : Nat) (s : State) : Host.Outcome State Fault Refusal := .next (complete tag s)

def execWbAck (slice line : Nat) (s : State) : Host.Outcome State Fault Refusal := .next (wbAck slice line s)

def execEvictClean (slice line : Nat) (s : State) : Host.Outcome State Fault Refusal := .next (evictClean slice line s)

def execDirFree (slice line : Nat) (s : State) : Host.Outcome State Fault Refusal := .next (dirFree slice line s)

def execCredit (slice bank : Nat) (s : State) : Host.Outcome State Fault Refusal := .next (credit slice bank s)

def execData (dst line : Nat) (s : State) : Host.Outcome State Fault Refusal := .next (data dst line s)

def execWbData (slice line : Nat) (s : State) : Host.Outcome State Fault Refusal := .next (wbData slice line s)

def execHoldExpire (slice line : Nat) (s : State) : Host.Outcome State Fault Refusal := .next (holdExpire slice line s)

def execReplayWindowExpire (slice pkg eng : Nat) (s : State) : Host.Outcome State Fault Refusal :=
  .next (replayExpire slice pkg eng s)

def execRequestTimeout (tag : Nat) (s : State) : Host.Outcome State Fault Refusal := .next (requestTimeout tag s)

end Sys2Proof.Machine
end

