-- ==== Sys2Proof/Machine/Dispatch.lean ====
section
/-! DEFINITION. One arm for each command: a direct call of its meaning. -/

namespace Sys2Proof.Machine

def exec (i : Instr) (s : State) : Host.Outcome State Fault Refusal :=
  match i with
  | .doorbellTail func q half index => Sys2Proof.Machine.execDoorbellTail func q half index s
  | .doorbellHead func q half index => Sys2Proof.Machine.execDoorbellHead func q half index s
  | .doorbellArm func q index => Sys2Proof.Machine.execDoorbellArm func q index s
  | .interruptCoalTimeout q => Sys2Proof.Machine.execInterruptCoalTimeout q s
  | .commandFetch q => Sys2Proof.Machine.execCommandFetch q s
  | .commandComplete id => Sys2Proof.Machine.execCommandComplete id s
  | .copy id => Sys2Proof.Machine.execCopy id s
  | .gather id => Sys2Proof.Machine.execGather id s
  | .scatter id => Sys2Proof.Machine.execScatter id s
  | .fill id => Sys2Proof.Machine.execFill id s
  | .reduce id => Sys2Proof.Machine.execReduce id s
  | .gemm id tiles => Sys2Proof.Machine.execGemm id tiles s
  | .actTableLoad id => Sys2Proof.Machine.execActTableLoad id s
  | .launch id cores => Sys2Proof.Machine.execLaunch id cores s
  | .resumeGroup id => Sys2Proof.Machine.execResumeGroup id s
  | .workDeclare id => Sys2Proof.Machine.execWorkDeclare id s
  | .allReduce id others => Sys2Proof.Machine.execAllReduce id others s
  | .reduceScatter id others => Sys2Proof.Machine.execReduceScatter id others s
  | .allGather id others => Sys2Proof.Machine.execAllGather id others s
  | .broadcast id others => Sys2Proof.Machine.execBroadcast id others s
  | .barrier id => Sys2Proof.Machine.execBarrier id s
  | .collectiveTimeout id => Sys2Proof.Machine.execCollectiveTimeout id s
  | .rsqConfig id => Sys2Proof.Machine.execRsqConfig id s
  | .rsqStart id => Sys2Proof.Machine.execRsqStart id s
  | .rsqStop id => Sys2Proof.Machine.execRsqStop id s
  | .seqCancel id => Sys2Proof.Machine.execSeqCancel id s
  | .poolResize id => Sys2Proof.Machine.execPoolResize id s
  | .seqEntryFetch q slot => Sys2Proof.Machine.execSeqEntryFetch q slot s
  | .rowStageIssue panel => Sys2Proof.Machine.execRowStageIssue panel s
  | .rowBoundary panel => Sys2Proof.Machine.execRowBoundary panel s
  | .rowCommandFault panel id => Sys2Proof.Machine.execRowCommandFault panel id s
  | .fence id => Sys2Proof.Machine.execFence id s
  | .signal id => Sys2Proof.Machine.execSignal id s
  | .wait id => Sys2Proof.Machine.execWait id s
  | .waitRecheck id => Sys2Proof.Machine.execWaitRecheck id s
  | .waitTimeout id => Sys2Proof.Machine.execWaitTimeout id s
  | .eventPost id => Sys2Proof.Machine.execEventPost id s
  | .nop id => Sys2Proof.Machine.execNop id s
  | .capSet id => Sys2Proof.Machine.execCapSet id s
  | .slewSet id => Sys2Proof.Machine.execSlewSet id s
  | .shedLevelSet id => Sys2Proof.Machine.execShedLevelSet id s
  | .shed id => Sys2Proof.Machine.execShed id s
  | .restore id => Sys2Proof.Machine.execRestore id s
  | .gaugeSet id => Sys2Proof.Machine.execGaugeSet id s
  | .domainSwitch id => Sys2Proof.Machine.execDomainSwitch id s
  | .domainSwitchDone d => Sys2Proof.Machine.execDomainSwitchDone d s
  | .reserve id => Sys2Proof.Machine.execReserve id s
  | .panelCreate id => Sys2Proof.Machine.execPanelCreate id s
  | .panelDestroy id => Sys2Proof.Machine.execPanelDestroy id s
  | .panelRebind id => Sys2Proof.Machine.execPanelRebind id s
  | .configStage id => Sys2Proof.Machine.execConfigStage id s
  | .configCommit id => Sys2Proof.Machine.execConfigCommit id s
  | .configApply r => Sys2Proof.Machine.execConfigApply r s
  | .configRollback => Sys2Proof.Machine.execConfigRollback s
  | .stagedRegisterWrite off half value => Sys2Proof.Machine.execStagedRegisterWrite off half value s
  | .queueCreate id => Sys2Proof.Machine.execQueueCreate id s
  | .queueDestroy id => Sys2Proof.Machine.execQueueDestroy id s
  | .ctxCreate id => Sys2Proof.Machine.execCtxCreate id s
  | .ctxDestroy id => Sys2Proof.Machine.execCtxDestroy id s
  | .ctxFrog req => Sys2Proof.Machine.execCtxFrog req s
  | .engineReset req => Sys2Proof.Machine.execEngineReset req s
  | .panelReset req => Sys2Proof.Machine.execPanelReset req s
  | .packageReset req b => Sys2Proof.Machine.execPackageReset req b s
  | .resetOverrun => Sys2Proof.Machine.execResetOverrun s
  | .vfCreate id => Sys2Proof.Machine.execVfCreate id s
  | .vfDestroy id => Sys2Proof.Machine.execVfDestroy id s
  | .counterSet id => Sys2Proof.Machine.execCounterSet id s
  | .snapshot id => Sys2Proof.Machine.execSnapshot id s
  | .samplerSet id => Sys2Proof.Machine.execSamplerSet id s
  | .stitchSet id => Sys2Proof.Machine.execStitchSet id s
  | .dump id => Sys2Proof.Machine.execDump id s
  | .dumpCopy n => Sys2Proof.Machine.execDumpCopy n s
  | .l1Inv id => Sys2Proof.Machine.execL1Inv id s
  | .xlatInv id => Sys2Proof.Machine.execXlatInv id s
  | .migFreeze id => Sys2Proof.Machine.execMigFreeze id s
  | .migSave id => Sys2Proof.Machine.execMigSave id s
  | .migRestore id => Sys2Proof.Machine.execMigRestore id s
  | .attest id => Sys2Proof.Machine.execAttest id s
  | .fwStage id flashOk => Sys2Proof.Machine.execFwStage id flashOk s
  | .fwActivate id => Sys2Proof.Machine.execFwActivate id s
  | .aluOp at0 op rd a b c => Sys2Proof.Machine.execAluOp at0 op rd a b c s
  | .convert at0 from_ dest sat stoch rd a index tensor => Sys2Proof.Machine.execConvert at0 from_ dest sat stoch rd a index tensor s
  | .branch at0 cond target marker => Sys2Proof.Machine.execBranch at0 cond target marker s
  | .xchPick at0 w rd v r => Sys2Proof.Machine.execXchPick at0 w rd v r s
  | .xchRot at0 w rd v d => Sys2Proof.Machine.execXchRot at0 w rd v d s
  | .xchSwap at0 w rd v m => Sys2Proof.Machine.execXchSwap at0 w rd v m s
  | .xchRev at0 w rd v => Sys2Proof.Machine.execXchRev at0 w rd v s
  | .tallyAny at0 w rd p => Sys2Proof.Machine.execTallyAny at0 w rd p s
  | .tallyAll at0 w rd p => Sys2Proof.Machine.execTallyAll at0 w rd p s
  | .tallyMask at0 w rd p => Sys2Proof.Machine.execTallyMask at0 w rd p s
  | .tallyCount at0 w rd p => Sys2Proof.Machine.execTallyCount at0 w rd p s
  | .tallyBelow at0 w rd p => Sys2Proof.Machine.execTallyBelow at0 w rd p s
  | .tallyLead at0 w rd p => Sys2Proof.Machine.execTallyLead at0 w rd p s
  | .meet at0 w => Sys2Proof.Machine.execMeet at0 w s
  | .rdvWait at0 r => Sys2Proof.Machine.execRdvWait at0 r s
  | .rdvSignal at0 r => Sys2Proof.Machine.execRdvSignal at0 r s
  | .threadExit at0 => Sys2Proof.Machine.execThreadExit at0 s
  | .load at0 mark size rd ra off => Sys2Proof.Machine.execLoad at0 mark size rd ra off s
  | .store at0 mark size rv ra off stream => Sys2Proof.Machine.execStore at0 mark size rv ra off stream s
  | .atomicInstr at0 op size rd ra rb rc => Sys2Proof.Machine.execAtomicInstr at0 op size rd ra rb rc s
  | .ll at0 size rd ra => Sys2Proof.Machine.execLl at0 size rd ra s
  | .sc at0 size rd ra rv => Sys2Proof.Machine.execSc at0 size rd ra rv s
  | .addToLine at0 ra rp sectors rop exact anchor => Sys2Proof.Machine.execAddToLine at0 ra rp sectors rop exact anchor s
  | .fenceT at0 => Sys2Proof.Machine.execFenceT at0 s
  | .fenceP at0 => Sys2Proof.Machine.execFenceP at0 s
  | .fenceG at0 => Sys2Proof.Machine.execFenceG at0 s
  | .l1wb at0 ra rl => Sys2Proof.Machine.execL1wb at0 ra rl s
  | .l1inv at0 ra rl => Sys2Proof.Machine.execL1inv at0 ra rl s
  | .l1wbAll at0 => Sys2Proof.Machine.execL1wbAll at0 s
  | .l1invAll at0 => Sys2Proof.Machine.execL1invAll at0 s
  | .l1lock at0 n => Sys2Proof.Machine.execL1lock at0 n s
  | .l1pre at0 rd ra rl => Sys2Proof.Machine.execL1pre at0 rd ra rl s
  | .l1unlock at0 => Sys2Proof.Machine.execL1unlock at0 s
  | .l1FillReturn die core line => Sys2Proof.Machine.execL1FillReturn die core line s
  | .evictionDrain die core => Sys2Proof.Machine.execEvictionDrain die core s
  | .blockStart id die core => Sys2Proof.Machine.execBlockStart id die core s
  | .kernelEnd id die core => Sys2Proof.Machine.execKernelEnd id die core s
  | .parkTimeout id block group => Sys2Proof.Machine.execParkTimeout id block group s
  | .launchOverrun id die core => Sys2Proof.Machine.execLaunchOverrun id die core s
  | .haltDeferTimeout die core group => Sys2Proof.Machine.execHaltDeferTimeout die core group s
  | .lcDispatch id => Sys2Proof.Machine.execLcDispatch id s
  | .preemptStopDone t => Sys2Proof.Machine.execPreemptStopDone t s
  | .stashDone t accepted => Sys2Proof.Machine.execStashDone t accepted s
  | .preemptAbandon t => Sys2Proof.Machine.execPreemptAbandon t s
  | .beUnitStart t id => Sys2Proof.Machine.execBeUnitStart t id s
  | .quantumEnd t => Sys2Proof.Machine.execQuantumEnd t s
  | .unitResume t image crcOk => Sys2Proof.Machine.execUnitResume t image crcOk s
  | .compaction t => Sys2Proof.Machine.execCompaction t s
  | .respread t => Sys2Proof.Machine.execRespread t s
  | .rdShr h slice line => Sys2Proof.Machine.execRdShr h slice line s
  | .rdOwn h slice line readMiss => Sys2Proof.Machine.execRdOwn h slice line readMiss s
  | .upgrade h slice line => Sys2Proof.Machine.execUpgrade h slice line s
  | .rdOnce h line => Sys2Proof.Machine.execRdOnce h line s
  | .wrLine h line data hint => Sys2Proof.Machine.execWrLine h line data hint s
  | .wrPtl h line mask data hint => Sys2Proof.Machine.execWrPtl h line mask data hint s
  | .atomic h addr op size a b rt => Sys2Proof.Machine.execAtomic h addr op size a b rt s
  | .addLine h line sectors rop exact carry anchor payload rt => Sys2Proof.Machine.execAddLine h line sectors rop exact carry anchor payload rt s
  | .snpShr slice line => Sys2Proof.Machine.execSnpShr slice line s
  | .snpInv slice line => Sys2Proof.Machine.execSnpInv slice line s
  | .snpFetch slice line ecc => Sys2Proof.Machine.execSnpFetch slice line ecc s
  | .invAck slice line => Sys2Proof.Machine.execInvAck slice line s
  | .wbInFlight slice line => Sys2Proof.Machine.execWbInFlight slice line s
  | .complete tag => Sys2Proof.Machine.execComplete tag s
  | .wbAck slice line => Sys2Proof.Machine.execWbAck slice line s
  | .evictClean slice line => Sys2Proof.Machine.execEvictClean slice line s
  | .dirFree slice line => Sys2Proof.Machine.execDirFree slice line s
  | .credit slice bank => Sys2Proof.Machine.execCredit slice bank s
  | .data dst line => Sys2Proof.Machine.execData dst line s
  | .wbData slice line => Sys2Proof.Machine.execWbData slice line s
  | .holdExpire slice line => Sys2Proof.Machine.execHoldExpire slice line s
  | .replayWindowExpire slice pkg eng => Sys2Proof.Machine.execReplayWindowExpire slice pkg eng s
  | .requestTimeout tag => Sys2Proof.Machine.execRequestTimeout tag s
  | .hbmRefresh h pc allBank rfm => Sys2Proof.Machine.execHbmRefresh h pc allBank rfm s
  | .hbmRecentre h pc => Sys2Proof.Machine.execHbmRecentre h pc s
  | .hbmTempRead h celsius => Sys2Proof.Machine.execHbmTempRead h celsius s
  | .patrolScrub h sector pc bank row ecc => Sys2Proof.Machine.execPatrolScrub h sector pc bank row ecc s
  | .stackOutOfService h => Sys2Proof.Machine.execStackOutOfService h s
  | .keyGenerate slot => Sys2Proof.Machine.execKeyGenerate slot s
  | .keyErase slot => Sys2Proof.Machine.execKeyErase slot s
  | .keyImport slot => Sys2Proof.Machine.execKeyImport slot s
  | .keyExport slot => Sys2Proof.Machine.execKeyExport slot s
  | .softPpr h pc bank row => Sys2Proof.Machine.execSoftPpr h pc bank row s
  | .hardPprAdd h pc bank row => Sys2Proof.Machine.execHardPprAdd h pc bank row s
  | .hardPprRemove h pc bank row => Sys2Proof.Machine.execHardPprRemove h pc bank row s
  | .swatchStart h => Sys2Proof.Machine.execSwatchStart h s
  | .swatchStop h => Sys2Proof.Machine.execSwatchStop h s
  | .swatchDone h => Sys2Proof.Machine.execSwatchDone h s
  | .hbmEccCountRead h half => Sys2Proof.Machine.execHbmEccCountRead h half s
  | .hbmEccLogRead h half => Sys2Proof.Machine.execHbmEccLogRead h half s
  | .hbmRepairLogRead h half => Sys2Proof.Machine.execHbmRepairLogRead h half s
  | .hbmRepairLogWrite h => Sys2Proof.Machine.execHbmRepairLogWrite h s
  | .uccSliceErrRead q half => Sys2Proof.Machine.execUccSliceErrRead q half s
  | .uccDirStatusRead q half => Sys2Proof.Machine.execUccDirStatusRead q half s
  | .uccSkeinStatusRead q half => Sys2Proof.Machine.execUccSkeinStatusRead q half s
  | .xltCountsRead unit half => Sys2Proof.Machine.execXltCountsRead unit half s
  | .queFnStatusRead v half => Sys2Proof.Machine.execQueFnStatusRead v half s
  | .rsqCountsRead v p half => Sys2Proof.Machine.execRsqCountsRead v p half s
  | .pnlCountsRead v p half => Sys2Proof.Machine.execPnlCountsRead v p half s
  | .pnlDispatchRead v p half => Sys2Proof.Machine.execPnlDispatchRead v p half s
  | .lnkErrRead l half => Sys2Proof.Machine.execLnkErrRead l half s
  | .lnkFecRead l half => Sys2Proof.Machine.execLnkFecRead l half s
  | .lnkGStatusRead half => Sys2Proof.Machine.execLnkGStatusRead half s
  | .gstErrRead site half => Sys2Proof.Machine.execGstErrRead site half s
  | .pwrDroopRead half => Sys2Proof.Machine.execPwrDroopRead half s
  | .hubFltStatusRead half => Sys2Proof.Machine.execHubFltStatusRead half s
  | .hubLeaseStatusRead half => Sys2Proof.Machine.execHubLeaseStatusRead half s
  | .obsSmpStatusRead half => Sys2Proof.Machine.execObsSmpStatusRead half s
  | .obsCsmpStatusRead half => Sys2Proof.Machine.execObsCsmpStatusRead half s
  | .srvInputStatusRead half => Sys2Proof.Machine.execSrvInputStatusRead half s
  | .registerWrite v off half value => Sys2Proof.Machine.execRegisterWrite v off half value s
  | .mbxM2tTail f value => Sys2Proof.Machine.execMbxM2tTail f value s
  | .mbxM2tHead f value => Sys2Proof.Machine.execMbxM2tHead f value s
  | .mbxT2mTail f value => Sys2Proof.Machine.execMbxT2mTail f value s
  | .mbxT2mHead f value => Sys2Proof.Machine.execMbxT2mHead f value s
  | .hostApertureAccess f off acc => Sys2Proof.Machine.execHostApertureAccess f off acc s
  | .guestRequest site req => Sys2Proof.Machine.execGuestRequest site req s
  | .flrVf f => Sys2Proof.Machine.execFlrVf f s
  | .flrPf0 => Sys2Proof.Machine.execFlrPf0 s
  | .hp0PerstAssert durNs b => Sys2Proof.Machine.execHp0PerstAssert durNs b s
  | .hp1PerstAssert => Sys2Proof.Machine.execHp1PerstAssert s
  | .flitReceive l f => Sys2Proof.Machine.execFlitReceive l f s
  | .nakResend l => Sys2Proof.Machine.execNakResend l s
  | .replayTimeout l => Sys2Proof.Machine.execReplayTimeout l s
  | .linkRecovery l lockLoss => Sys2Proof.Machine.execLinkRecovery l lockLoss s
  | .linkRecoveryFail l => Sys2Proof.Machine.execLinkRecoveryFail l s
  | .linkTrain l o => Sys2Proof.Machine.execLinkTrain l o s
  | .linkRetrain l => Sys2Proof.Machine.execLinkRetrain l s
  | .laserInputLoss e w durNs => Sys2Proof.Machine.execLaserInputLoss e w durNs s
  | .ctlTrain l pkg peerLink vlo vhi compat => Sys2Proof.Machine.execCtlTrain l pkg peerLink vlo vhi compat s
  | .ctlTime l t1 t2 t3 t4 root depth => Sys2Proof.Machine.execCtlTime l t1 t2 t3 t4 root depth s
  | .timeExchange l => Sys2Proof.Machine.execTimeExchange l s
  | .timeRelock => Sys2Proof.Machine.execTimeRelock s
  | .timeHoldover => Sys2Proof.Machine.execTimeHoldover s
  | .ctlRefused tag => Sys2Proof.Machine.execCtlRefused tag s
  | .refusedResend tag => Sys2Proof.Machine.execRefusedResend tag s
  | .ctlColl ctx epoch number digest hash rank => Sys2Proof.Machine.execCtlColl ctx epoch number digest hash rank s
  | .ctlAbort epoch => Sys2Proof.Machine.execCtlAbort epoch s
  | .ctlMgmt l bytes => Sys2Proof.Machine.execCtlMgmt l bytes s
  | .ctlCap site block => Sys2Proof.Machine.execCtlCap site block s
  | .e2eTimeout tag => Sys2Proof.Machine.execE2eTimeout tag s
  | .finalTimeout pkg ctx stream => Sys2Proof.Machine.execFinalTimeout pkg ctx stream s
  | .ppsEdge highNs => Sys2Proof.Machine.execPpsEdge highNs s
  | .guestRetrain site o => Sys2Proof.Machine.execGuestRetrain site o s
  | .guestCapTimeout site => Sys2Proof.Machine.execGuestCapTimeout site s
  | .guestIsolate site linkFailed => Sys2Proof.Machine.execGuestIsolate site linkFailed s
  | .guestPowerExceeded site watts durNs => Sys2Proof.Machine.execGuestPowerExceeded site watts durNs s
  | .controlPeriod fastMw loadMw => Sys2Proof.Machine.execControlPeriod fastMw loadMw s
  | .measureWindow nJ vin10mV iin100mA baseW => Sys2Proof.Machine.execMeasureWindow nJ vin10mV iin100mA baseW s
  | .powerBackstop => Sys2Proof.Machine.execPowerBackstop s
  | .droopResponse die lateBeats => Sys2Proof.Machine.execDroopResponse die lateBeats s
  | .sensorRead rs => Sys2Proof.Machine.execSensorRead rs s
  | .thermalTrip unit celsius => Sys2Proof.Machine.execThermalTrip unit celsius s
  | .shedNAssert stableNs => Sys2Proof.Machine.execShedNAssert stableNs s
  | .shedNDeassert stableNs => Sys2Proof.Machine.execShedNDeassert stableNs s
  | .clockHoldoverEnter => Sys2Proof.Machine.execClockHoldoverEnter s
  | .clockHoldoverExit => Sys2Proof.Machine.execClockHoldoverExit s
  | .pllLockLoss d => Sys2Proof.Machine.execPllLockLoss d s
  | .vin48Undervoltage durNs => Sys2Proof.Machine.execVin48Undervoltage durNs s
  | .vin48Overvoltage durNs => Sys2Proof.Machine.execVin48Overvoltage durNs s
  | .v3p3Undervoltage durNs => Sys2Proof.Machine.execV3p3Undervoltage durNs s
  | .regulatorFault durNs => Sys2Proof.Machine.execRegulatorFault durNs s
  | .trayRstAssert stableNs => Sys2Proof.Machine.execTrayRstAssert stableNs s
  | .castOn b => Sys2Proof.Machine.execCastOn b s
  | .vin48InRange b => Sys2Proof.Machine.execVin48InRange b s
  | .bindOff v value => Sys2Proof.Machine.execBindOff v value s
  | .bindOffDrainExpire => Sys2Proof.Machine.execBindOffDrainExpire s
  | .counterFreeze on skewNs => Sys2Proof.Machine.execCounterFreeze on skewNs s
  | .samplerRecord skewNs => Sys2Proof.Machine.execSamplerRecord skewNs s
  | .coreSample die core group skid stalled => Sys2Proof.Machine.execCoreSample die core group skid stalled s
  | .bwWindow => Sys2Proof.Machine.execBwWindow s
  | .dbgHaltGroup die core group => Sys2Proof.Machine.execDbgHaltGroup die core group s
  | .dbgHaltCore die core => Sys2Proof.Machine.execDbgHaltCore die core s
  | .dbgResumeGroup die core group => Sys2Proof.Machine.execDbgResumeGroup die core group s
  | .dbgResumeCore die core => Sys2Proof.Machine.execDbgResumeCore die core s
  | .dbgStepGroup die core group => Sys2Proof.Machine.execDbgStepGroup die core group s
  | .dbgRegAccess wr value => Sys2Proof.Machine.execDbgRegAccess wr value s
  | .dbgStepGo t => Sys2Proof.Machine.execDbgStepGo t s
  | .lcHaltEnable on => Sys2Proof.Machine.execLcHaltEnable on s
  | .lcHaltActivate => Sys2Proof.Machine.execLcHaltActivate s
  | .tapExtest => Sys2Proof.Machine.execTapExtest s
  | .tapIdcode => Sys2Proof.Machine.execTapIdcode s
  | .tapSamplePreload v => Sys2Proof.Machine.execTapSamplePreload v s
  | .tapClamp => Sys2Proof.Machine.execTapClamp s
  | .tapHighz => Sys2Proof.Machine.execTapHighz s
  | .tapBypass code => Sys2Proof.Machine.execTapBypass code s
  | .tapDap => Sys2Proof.Machine.execTapDap s
  | .tapReset => Sys2Proof.Machine.execTapReset s
  | .dapAuthorise serial signatureOk => Sys2Proof.Machine.execDapAuthorise serial signatureOk s
  | .dapAccess a => Sys2Proof.Machine.execDapAccess a s
  | .spdmRequest bytes known => Sys2Proof.Machine.execSpdmRequest bytes known s
  | .fleetKeySet key sessionOk => Sys2Proof.Machine.execFleetKeySet key sessionOk s
  | .pldmGetSensor sid => Sys2Proof.Machine.execPldmGetSensor sid s
  | .pldmFwUpdate image bundleOk b => Sys2Proof.Machine.execPldmFwUpdate image bundleOk b s
  | .droopRecovery die => Sys2Proof.Machine.execDroopRecovery die s
  | .perstNDeassert port => Sys2Proof.Machine.execPerstNDeassert port s
  | .atsInvalidation f va len => Sys2Proof.Machine.execAtsInvalidation f va len s
  | .pldmSetEffecter eid value => Sys2Proof.Machine.execPldmSetEffecter eid value s
  | .controllerFault c => Sys2Proof.Machine.execControllerFault c s

end Sys2Proof.Machine
end

