-- ==== Sys2Proof/Safety.lean ====
section
/-! DEFINITION. What counts as a safe run, and the terms in which the statements say what a command does. -/

namespace Sys2Proof

/-- The commands of a list run one after another from a state; none where one of them stops. -/
def Machine.State.runAll (s : Machine.State) : List Instr → Option Machine.State
  | [] => some s
  | c :: t => match Machine.exec c s with
    | .next s' => s'.runAll t
    | _ => none

/-- A run is safe when no command of it stops. -/
def Safe (s : Machine.State) (l : List Instr) : Prop := ∃ s', s.runAll l = some s'

namespace Machine

/-- Command `id`, of an opcode, may run in `s`: its fences are met and it waits for no remote answer. `t` is the state in which its
body runs, with its start recorded, and `c` its record there. -/
def State.mayRun (s : State) (id op : Nat) (t : State) (c : Cmd) : Prop :=
  ∃ c0, s.cmd id = some c0 ∧ c0.opcode = op ∧ s.startable c0 = true ∧ t = s.beginCmd c0 ∧ t.cmd id = some c

/-- What a body's answer makes of its command: it runs again later, or its work has ended with a status. -/
def bodyEnd (id : Nat) : State × Option Nat → State
  | (s, none) => s
  | (s, some st) => s.modCmd id fun c => { c with phase := .done, status := worse c.status st }

/-- The work of command `id` has ended with a status. -/
def State.ended (s : State) (id st : Nat) : State := bodyEnd id (s, some st)

/-- An instruction of a general core may issue in `s`, its registers being ready and its code translating. `t` is the state after its
fetch, and `x` says for what it issues. -/
def State.mayIssue (s : State) (i : Issue) (src dst : List Nat) (t : State) (x : Iss) : Prop :=
  s.issuing i = some x ∧ x.legal src dst = true ∧ x.awaits (src ++ dst) = false ∧
    ∃ y, s.xlate x.issuer .exec x.p.pc.toNat = (t, .ok y)

/-- In `t`, the active lanes of an instruction's group hold `f` in register `rd`, and every other register of the group holds what it
held. -/
def State.laneResult (t : State) (x : Iss) (rd : Nat) (f : Nat → Nat) : Prop :=
  ∃ g, t.findGroup x.k x.g.num = some g ∧
    (∀ j, j < 32 → bit x.lanes j = true → tgetD g.regs (256 * j + rd) 0 = w32 (f j)) ∧
    (∀ n, (∀ j, j < 32 → bit x.lanes j = true → n ≠ 256 * j + rd) → tgetD g.regs n 0 = tgetD x.g.regs n 0)

/-- A request of a line finds its home in this package's HBM, a tracker entry for its port, and no request under way with its tag. -/
def State.takesReq (s : State) (h : ReqHdr) (line : Nat) : Prop :=
  s.isLocal (128 * line) = true ∧ region (128 * localLine line) = .hbm ∧ s.trackerRoom (portOf h.src) = true ∧
    ∀ t ∈ s.tracker, t.tag ≠ h.tag

/-- The state after a request reached its bank, and the bank carried forward what could go on. -/
def State.requestServed (s : State) (r : Req) (sectors : Nat) : State :=
  ((s.track r.h r.line sectors).arrive (s.homeOf r.line) r).settleAll (s.homeOf r.line) r.line

/-! ### Kinds of rows -/

/-- The rows of the coherence protocol (05). -/
def protocolRow : Instr → Bool
  | .rdShr .. | .rdOwn .. | .upgrade .. | .rdOnce .. | .wrLine .. | .wrPtl .. | .atomic .. | .addLine .. | .snpShr .. | .snpInv ..
  | .snpFetch .. | .invAck .. | .wbInFlight .. | .complete .. | .wbAck .. | .evictClean .. | .dirFree .. | .credit .. | .data .. | .wbData ..
  | .holdExpire .. | .replayWindowExpire .. | .requestTimeout .. => true
  | _ => false

/-- The rows of the protocol that only answer, release or give up. -/
def answerRow : Instr → Bool
  | .snpShr .. | .snpInv .. | .wbAck .. | .dirFree .. | .credit .. | .holdExpire .. | .replayWindowExpire .. | .requestTimeout .. => true
  | _ => false

/-- The register reads that clear or pop. -/
def readRow : Instr → Bool
  | .hbmEccCountRead .. | .hbmEccLogRead .. | .hbmRepairLogRead .. | .uccSliceErrRead .. | .uccDirStatusRead .. | .uccSkeinStatusRead ..
  | .xltCountsRead .. | .queFnStatusRead .. | .rsqCountsRead .. | .pnlCountsRead .. | .pnlDispatchRead .. | .lnkErrRead .. | .lnkFecRead ..
  | .lnkGStatusRead .. | .gstErrRead .. | .pwrDroopRead .. | .hubFltStatusRead .. | .hubLeaseStatusRead .. | .obsSmpStatusRead ..
  | .obsCsmpStatusRead .. | .srvInputStatusRead .. => true
  | _ => false

/-- Rows that touch no memory and no translation. -/
def quietRow : Instr → Bool
  | .interruptCoalTimeout .. | .rowCommandFault .. | .waitTimeout .. | .blockStart .. | .parkTimeout .. | .launchOverrun ..
  | .haltDeferTimeout .. | .preemptStopDone .. | .quantumEnd .. | .hbmRefresh .. | .hbmRecentre .. | .softPpr .. | .hardPprAdd ..
  | .hardPprRemove .. | .swatchStart .. | .mbxM2tTail .. | .mbxM2tHead .. | .mbxT2mTail .. | .mbxT2mHead .. | .nakResend ..
  | .replayTimeout .. | .linkRecovery .. | .timeExchange .. | .timeRelock | .ctlRefused .. | .ctlMgmt .. | .finalTimeout .. | .ppsEdge ..
  | .droopResponse .. | .shedNAssert .. | .shedNDeassert .. | .clockHoldoverExit .. | .counterFreeze .. | .bwWindow | .dbgHaltGroup ..
  | .dbgHaltCore .. | .dbgResumeGroup .. | .dbgResumeCore .. | .dbgStepGroup .. | .dbgRegAccess .. | .dbgStepGo .. | .lcHaltEnable ..
  | .lcHaltActivate .. | .tapExtest | .tapIdcode | .tapSamplePreload .. | .tapClamp | .tapHighz | .tapBypass .. | .tapDap | .tapReset
  | .dapAuthorise .. | .spdmRequest .. | .fleetKeySet .. | .pldmGetSensor .. | .droopRecovery .. | .perstNDeassert .. | .atsInvalidation .. =>
    true
  | c => readRow c

/-- The core instructions that compute with registers or branch: where each issues, and the registers that it reads and writes. -/
def regRow : Instr → Option (Issue × List Nat × List Nat)
  | .aluOp i op rd a b c => some (i, aluSrcs op a b c, regRun rd (if isF64 op then 2 else 1))
  | .convert i _ _ _ stoch rd a index tensor =>
    some (i, srcRegs 1 a ++ (if stoch then srcRegs 1 index ++ srcRegs 1 tensor else []), [rd])
  | .branch i cond _ _ => some (i, [cond], [])
  | .xchPick i _ rd v r => some (i, [v, r], [rd])
  | .xchRot i _ rd v _ => some (i, [v], [rd])
  | .xchSwap i _ rd v _ => some (i, [v], [rd])
  | .xchRev i _ rd v => some (i, [v], [rd])
  | .tallyAny i _ rd p => some (i, [p], [rd])
  | .tallyAll i _ rd p => some (i, [p], [rd])
  | .tallyMask i _ rd p => some (i, [p], [rd])
  | .tallyCount i _ rd p => some (i, [p], [rd])
  | .tallyBelow i _ rd p => some (i, [p], [rd])
  | .tallyLead i _ rd p => some (i, [p], [rd])
  | _ => none

end Machine

end Sys2Proof
end

