-- ==== Sys2Proof/Certificates/Slice0/Obligations.lean ====
section
/-! DEFINITION. The statements for the provers. -/

open Sys2Proof Sys2Proof.Machine

/-! ## What each command does -/

/-- 07.8 (R234): COPY and FILL without a fault. What a COPY read is written, piece by piece, and a flag follows once the data's
writes are performed. FILL writes its pattern over [DST, DST + LENGTH). -/
def Obligations.CopyFillComplete : Prop :=
  (∀ s id s0 c s1 s2 s3 s4 l w st, State.mayRun s id 0x0101 s0 c → c.step ≠ 1 → c.lost = false →
    checkStatus (copyChecks s0 c.raw) = 0 → s0.copyFlagBad c = (s1, 0) →
    (hLc c.raw = true → ∀ x ∈ copyRows c.raw, s1.farRange (s1.dmaIssuer c) .read x.1 x.2.2 = false ∧
      s1.farRange (s1.dmaIssuer c) .write x.2.1 x.2.2 = false) →
    s1.awaitAll c.id (s1.dmaIssuer c) ((copyRows c.raw).map fun x => (x.1, x.2.2)) = (s2, false) →
    s2.readPieces c.id (s1.dmaIssuer c) ((copyRows c.raw).flatMap fun x => piecesOf x.2.1 x.1 x.2.2) = (s3, l) →
    s3.probeAll (s1.dmaIssuer c) .write ((copyRows c.raw).map fun x => (x.2.1, x.2.2)) = (s4, none) → firstFault l = none →
    overlapping ((copyRows c.raw).flatMap fun x => s4.physOf (s1.dmaIssuer c) .read x.1 x.2.2)
      ((copyRows c.raw).flatMap fun x => s4.physOf (s1.dmaIssuer c) .write x.2.1 x.2.2) = false →
    (l.any fun p => p.2.poison) = false → s4.writePieces c.id (s1.dmaIssuer c) (hStream c.raw) l = (w, st) →
    exec (.copy id) s = .next (
      if bit (leAt c.raw 43 1) 0 then
        bodyEnd id (((w.cmdStatus c.id (worse st 0) 0).modCmd c.id fun c => { c with step := 1 }).copyFlag
          { c with step := 1, status := worse c.status (worse st 0) })
      else w.ended id (worse st 0))) ∧
  (∀ s id s0 c s1 x, State.mayRun s id 0x0101 s0 c → c.step = 1 → c.status ≠ 0x0308 →
    s0.xlate (s0.dmaIssuer c) .write (leAt c.raw 48 8) = (s1, .ok x) → s1.isLocal x.pa = true → s1.remoteOpen c.id = false →
    exec (.copy id) s = .next ((s1.cmdWrite c.id (s0.dmaIssuer c) 0 (leAt c.raw 48 8) ((c.raw.drop 56).take 8)).1.ended id
      (s1.cmdWrite c.id (s0.dmaIssuer c) 0 (leAt c.raw 48 8) ((c.raw.drop 56).take 8)).2)) ∧
  (∀ s id s0 c s1, State.mayRun s id 0x0104 s0 c → checkStatus (fillChecks s0 c.raw) = 0 →
    (hLc c.raw = true → s0.farRange (s0.dmaIssuer c) .write (leAt c.raw 16 8) (leAt c.raw 24 8) = false) →
    s0.probe (s0.dmaIssuer c) .write (leAt c.raw 16 8) (leAt c.raw 24 8) = (s1, none) →
    ∃ t st, (chunks (leAt c.raw 16 8) (leAt c.raw 24 8)).foldl (fun (x : State × Nat) p =>
        x.1.cmdWrite1 c.id (s0.dmaIssuer c) (hStream c.raw) p.1 (patternAt c.raw (p.1 - leAt c.raw 16 8) p.2) false x.2) (s1, 0) = (t, st) ∧
      exec (.fill id) s = .next (t.ended id st))

/-- 07.8 (R235, R234): GATHER and SCATTER, which move elements through a list in an order that is free, and REDUCE, which applies its
source at its destination's home; each without a fault. -/
def Obligations.ListMovesAndReduce : Prop :=
  (∀ s id op s0 c s1 s2 s3 s4 (l : List (Nat × Nat)), State.mayRun s id op s0 c →
    checkStatus (listChecks s0 c.raw) = 0 → c.lost = false →
    s0.awaitAll c.id (s0.dmaIssuer c) ((List.range (leAt c.raw 32 4)).map (listEntry c.raw)) = (s1, false) →
    s1.elemAddrs c (leAt c.raw 32 4) = (s2, l.map fun p => (p.1, .ok p.2)) →
    (hLc c.raw = true → ∀ p ∈ l, s2.farRange (s0.dmaIssuer c) .read (elemSides c.raw p.1 p.2).1 (elemBytes c.raw) = false ∧
      s2.farRange (s0.dmaIssuer c) .write (elemSides c.raw p.1 p.2).2 (elemBytes c.raw) = false) →
    s2.awaitAll c.id (s0.dmaIssuer c) (l.map fun p => ((elemSides c.raw p.1 p.2).1, elemBytes c.raw)) = (s3, false) →
    (freeOrder s3.free (leAt c.raw 32 4)).foldl (fun (x : State × List ElemFault) j =>
      match addrOf (l.map fun p => (p.1, .ok p.2)) j with
      | .error f => (x.1, f :: x.2)
      | .ok va =>
        match x.1.moveElem c j va with
        | (s, none) => (s, x.2)
        | (s, some f) => (s, f :: x.2)) ({ s3 with free := s3.free + leAt c.raw 32 4 }, []) = (s4, []) →
    (op = 0x0102 → exec (.gather id) s = .next (s4.ended id 0)) ∧
      (op = 0x0103 → exec (.scatter id) s = .next (s4.ended id 0))) ∧
  ∀ s id s0 c s1 s2 s3 rs, State.mayRun s id 0x0105 s0 c → checkStatus (reduceChecks s0 c.raw) = 0 → c.lost = false →
    (hLc c.raw = true → s0.farRange (s0.dmaIssuer c) .read (leAt c.raw 16 8) (leAt c.raw 32 8) = false ∧
      s0.farRange (s0.dmaIssuer c) .atomic (leAt c.raw 24 8) (leAt c.raw 32 8) = false) →
    s0.await c.id (s0.dmaIssuer c) (leAt c.raw 16 8) (leAt c.raw 32 8) = (s1, false) →
    (∀ x ∈ reduceLines c.raw, s1.deviceLine (s0.dmaIssuer c) x.1 = false) →
    (reduceLines c.raw).foldl (fun (a : State × List (Nat × List (Nat × Rd))) x =>
      let (s, l) := a.1.readPieces c.id (s0.dmaIssuer c) (piecesOf x.1 x.2.1 x.2.2)
      (s, a.2 ++ [(x.1, l)])) (s1, []) = (s2, rs) →
    (∀ x ∈ rs, firstFault x.2 = none) →
    s2.probe (s0.dmaIssuer c) .atomic (leAt c.raw 24 8) (leAt c.raw 32 8) = (s3, none) →
    ∃ t st, rs.foldl (fun (a : State × Nat) x =>
        let (s, st) := a.1.reduceOne c (bits (leAt c.raw 42 1) 3 0) (bit (leAt c.raw 42 1) 4) (signed 16 (leAt c.raw 44 2)) x.1 x.2
        (s, worse a.2 st)) (s3, 0) = (t, st) ∧
      exec (.reduce id) s = .next (t.ended id st)

/-- 07.10 (R187, R238): FENCE performs the fence of its scope; EVENT_POST posts COMMAND_EVENT with its word to the context's EVT
queue; NOP does nothing. Each ends with success, but for a FENCE that overflows an exact sum. -/
def Obligations.QueueControlComplete : Prop :=
  (∀ s id s0 c, State.mayRun s id 0x0601 s0 c → checkStatus (fenceChecks s0 c.raw) = 0 →
    exec (.fence id) s = .next ((s0.fenceScope c.ctx (bits (leAt c.raw 16 1) 1 0)).1.ended id
      (s0.fenceScope c.ctx (bits (leAt c.raw 16 1) 1 0)).2)) ∧
  (∀ s id s0 c, State.mayRun s id 0x0604 s0 c → checkStatus (eventPostChecks s0 c.raw) = 0 →
    exec (.eventPost id) s = .next ((s0.postCtx (hCtx c.raw) 0x0005 (leAt c.raw 16 4)).ended id 0)) ∧
  (∀ s id s0 c, State.mayRun s id 0x0605 s0 c → checkStatus (nopChecks s0 c.raw) = 0 → exec (.nop id) s = .next (s0.ended id 0))

/-- 07.10 (R238): SIGNAL applies its operation to the 8-byte word in one atomic access, after a fence of package scope; a WAIT whose word meets the
condition ends with success, one whose word does not looks again; a WAIT whose time has passed ends with WAIT_TIMEOUT. -/
def Obligations.SignalWaitComplete : Prop :=
  (∀ s id s0 c s1 x s2 old, State.mayRun s id 0x0602 s0 c → checkStatus (signalChecks s0 c.raw) = 0 → c.step ≠ 1 →
    s0.xlate (s0.dicIssuer c) .atomic (leAt c.raw 16 8) = (s1, .ok x) → s1.isLocal x.pa = true →
    atomicRegion (x.pa % 2 ^ 48) = true →
    (s1.fenceScope c.ctx (max 2 c.fenceB)).1.atomicAt ((s1.keyOf x.key).getD 0) (x.pa % 2 ^ 48) (signalOp c.raw) 8 (leAt c.raw 24 8) 0
      = (s2, .ok old) →
    exec (.signal id) s = .next (s2.ended id (s1.fenceScope c.ctx (max 2 c.fenceB)).2)) ∧
  (∀ s id s0 c u s1 x s2 b, State.mayRun s id 0x0603 s0 c → checkStatus (waitChecks s0 c.raw) = 0 → c.lost = false →
    u = s0.modCmd c.id (fun c => { c with step := 1 }) → u.xlate (u.dicIssuer c) .read (leAt c.raw 16 8) = (s1, .ok x) →
    s1.isLocal x.pa = true → atomicRegion (x.pa % 2 ^ 48) = true →
    s1.pread ((s1.keyOf x.key).getD 0) (x.pa % 2 ^ 48) 8 = (s2, .ok b false) →
    exec (.wait id) s = .next (if waitMeets c.raw (leNat b) then s2.ended id 0 else s2) ∧
      (∀ c0, s.cmd id = some c0 → c0.step = 1 → c0.phase = .running →
        exec (.waitRecheck id) s = .next (if waitMeets c.raw (leNat b) then s2.ended id 0 else s2))) ∧
  (∀ s id c, State.cmd s id = some c → c.opcode = 0x0603 → c.phase = .running →
    1000 * waitLimit c.raw ≤ (s.time - c.tStart).toNat →
    exec (.waitTimeout id) s = .next ((s.dropRemotesOf fun r => decide (r.wait = .cmd id)).ended id 0x0404))

/-- 07.10, 06.8 (R239, R207): L1_INV invalidates the L1 of every core of its tiles; XLAT_INV drops the translations of its range, and
ends once the covered contexts' earlier remote accesses are answered. -/
def Obligations.MaintenanceComplete : Prop :=
  (∀ s id s0 c, State.mayRun s id 0x0A01 s0 c → checkStatus (l1InvChecks s0 c.raw) = 0 →
    exec (.l1Inv id) s = .next (((maskBits (leAt c.raw 16 6) 48).foldl (fun s t => (tileCores t).foldl (fun s k => s.invCore k) s) s0).ended id 0)) ∧
  (∀ s id s0 c, State.mayRun s id 0x0A02 s0 c → c.step = 0 → checkStatus (xlatInvChecks s0 c.raw) = 0 → s0.dumpInto c.raw = false →
    (∀ r ∈ (s0.xlatInvAct c.raw).remotes, (s0.xlatInvAct c.raw).xlatTargets c.raw r.ctx = false) →
    exec (.xlatInv id) s = .next (((s0.xlatInvAct c.raw).modCmd c.id fun c => { c with step := s0.nextTag + 1 }).ended id 0)) ∧
  (∀ s id s0 c, State.mayRun s id 0x0A02 s0 c → c.step ≠ 0 →
    exec (.xlatInv id) s = .next (if s0.xlatOpen c.raw c.step then s0 else s0.ended id 0))

/-- 07.3 (R221, R220): doorbells. A CMD or SEQ queue takes INDEX as its TAIL when the ring has room for it, and a CPL or EVT queue as
its HEAD when the entries are there; a repeated or delayed write changes no pointer, though its ARM still counts; any other is ignored whole,
sets DB_BAD and raises QUEUE_ERROR; a doorbell of a queue that the writer does not hold is counted. Doorbells stand open until a bind-off
stops them (the model's reading of R483). -/
def Obligations.DoorbellRules : Prop :=
  (∀ s f q index x, State.queue s q = some x → x.func = f → (x.typ = .cmd ∨ x.typ = .seq) → s.doorbellsOpen = true →
    (∀ half, half ≠ .high → (index - x.head).toNat ≤ 2 ^ x.k → 0 < (index - x.tail).toNat → (index - x.tail).toNat < 2 ^ 31 →
      exec (.doorbellTail f q half index) s =
        .next (s.setQueue q { x with tail := index, subs := x.subs ++ [(index, s.time)] })) ∧
    (∀ half, (index = x.tail ∨ 2 ^ 31 ≤ (index - x.tail).toNat) → exec (.doorbellTail f q half index) s = .next s) ∧
    exec (.doorbellTail f q .high index) s = .next s ∧
    (∀ half, half ≠ .high → 2 ^ x.k < (index - x.head).toNat → 0 < (index - x.tail).toNat → (index - x.tail).toNat < 2 ^ 31 →
      exec (.doorbellTail f q half index) s = .next ((s.setQueue q { x with dbBad := true }).postBoth x.ctx 0x0001 q))) ∧
  (∀ s f q index x, State.queue s q = some x → x.func = f → (x.typ = .cpl ∨ x.typ = .evt) → s.doorbellsOpen = true →
    ((index - x.head).toNat ≤ x.count → 0 < (index - x.head).toNat → (index - x.head).toNat < 2 ^ 31 →
      (∀ half, half ≠ .high → exec (.doorbellHead f q half index) s = .next (s.setQueue q { x with head := index })) ∧
        exec (.doorbellArm f q index) s = exec (.doorbellArm f q index) (s.setQueue q { x with head := index })) ∧
    (index = x.head ∨ 2 ^ 31 ≤ (index - x.head).toNat →
      (∀ half, exec (.doorbellHead f q half index) s = .next s) ∧
        ∃ (t : State) (y : Queue), exec (.doorbellArm f q index) s = .next t ∧ t.queue q = some y ∧ y.head = x.head ∧ y.tail = x.tail ∧
          y.armed = decide (x.head = x.tail)) ∧
    (x.count < (index - x.head).toNat → (index - x.head).toNat < 2 ^ 31 →
      (∀ half, half ≠ .high → exec (.doorbellHead f q half index) s =
        .next ((s.setQueue q { x with dbBad := true }).postMgr 0x0001 q)) ∧
        exec (.doorbellArm f q index) s = .next ((s.setQueue q { x with dbBad := true }).postMgr 0x0001 q))) ∧
  (∀ s f q index, (∀ x, State.queue s q = some x → x.func ≠ f) → s.doorbellsOpen = true →
    exec (.doorbellTail f q .full index) s = .next (s.modFunc f fun g => { g with badDb := sat 32 (g.badDb + 1) }) ∧
      exec (.doorbellHead f q .low index) s = .next (s.modFunc f fun g => { g with badDb := sat 32 (g.badDb + 1) })) ∧
  (∀ s f q half index, State.doorbellsOpen s = false → exec (.doorbellTail f q half index) s = .next s ∧
    exec (.doorbellHead f q half index) s = .next s ∧ exec (.doorbellArm f q index) s = .next s)

/-- 07.6 (R231): a doorbell write of the current HEAD with ARM = 1 arms the queue, and interrupts at once if the ring holds unread
entries; the COAL_COUNTth entry written since, or COAL_US after the first, interrupts; sending the interrupt disarms the queue, and
an unarmed queue sends none. A VECTOR beyond the function's table is out of range. -/
def Obligations.InterruptRules : Prop :=
  (∀ s f q x, State.queue s q = some x → x.func = f → (x.typ = .cpl ∨ x.typ = .evt) → s.doorbellsOpen = true →
    exec (.doorbellArm f q x.head) s = .next (
      if x.head = x.tail then s.setQueue q { x with armed := true, sinceArm := 0, firstAt := none }
      else ((s.setQueue q { x with armed := true, sinceArm := 0, firstAt := none }).setQueue q
        { x with armed := false, sinceArm := 0, firstAt := none }).sendMsix x.func x.vector)) ∧
  (∀ s q x t, State.queue s q = some x → x.armed = true → x.firstAt = some t → x.coalUs ≠ 0 → 1000 * x.coalUs ≤ (s.time - t).toNat →
    exec (.interruptCoalTimeout q) s =
      .next ((s.setQueue q { x with armed := false, sinceArm := 0, firstAt := none }).sendMsix x.func x.vector)) ∧
  (∀ s q x, State.queue s q = some x → x.armed = false → exec (.interruptCoalTimeout q) s = .next s ∧ s.noteEntry q = s) ∧
  (∀ s q x, State.queue s q = some x → x.armed = true →
    (x.sinceArm + 1 < x.coalCount → (s.noteEntry q).out = s.out ∧ (s.noteEntry q).msixPend = s.msixPend ∧
      ∃ y, (s.noteEntry q).queue q = some y ∧ y.armed = true ∧ y.sinceArm = x.sinceArm + 1) ∧
    (x.coalCount ≤ x.sinceArm + 1 → ∃ y, (s.noteEntry q).queue q = some y ∧ y.armed = false ∧
      (s.msixMasked x.func x.vector = false → (s.noteEntry q).out = s.out ++ [.msix x.func x.vector]))) ∧
  (∀ s r, hOpcode r = 0x0806 → (leAt r 20 1 % 4 = 1 ∨ leAt r 20 1 % 4 = 3) → (if leAt r 21 1 = 0 then 2048 else 64) ≤ leAt r 38 2 →
    checkStatus (State.opChecks s r) = 0x0102)

/-- 07.11 (R242): a command that passes every check is admitted: its queue's HEAD passes it, and it stands in flight with the epoch
current at its admission, waiting to start. -/
def Obligations.FetchAdmits : Prop :=
  ∀ s q x s1 r n i, State.queue s q = some x → x.typ = .cmd → s.fetching = true → s.eligible q x = true →
    (x.lc = true ∨ s.lcWaits x.panel = false) → s.headEntry x = (s1, some r, n) → n ≠ 0 →
    x.dups.find? (fun d => decide (d.tag = w32 (hTag r))) = none → opInfo (hOpcode r) = some i → (i.priv = true → x.func = 0) →
    s1.contextOk x (hCtx r) = true → headerRangeBad i r x.head.toNat = false → checkStatus (s1.opChecks r) = 0 → hLc r = false →
    s1.placeFree x (hCtx r) false = true →
    ∃ (t : State) (c : Cmd), exec (.commandFetch q) s = .next t ∧ t.cmd s1.nextCmd = some c ∧ t.nextCmd = s1.nextCmd + 1 ∧ c.raw = r ∧ c.q = q ∧
      c.phase = .waiting ∧ c.status = 0 ∧ c.epoch = s1.committed ∧ c.tAdm = s1.time ∧ c.tSub = x.subTime x.head s1.time ∧
      (∀ id, id ≠ s1.nextCmd → t.cmd id = s1.cmd id) ∧
      t.queue q = some { x.pass n with fetched := x.fetched + 1, dups := dupAdd x.dups (hTag r) none } ∧ t.mem = s1.mem

/-- 07.11 (R242): the first failing check gives the status, and the command has no effect but its record and the counts of it. -/
def Obligations.FetchRejects : Prop :=
  ∀ s q x s1 r n, State.queue s q = some x → x.typ = .cmd → s.fetching = true → s.eligible q x = true →
    (x.lc = true ∨ s.lcWaits x.panel = false) → s.headEntry x = (s1, some r, n) → n ≠ 0 →
    x.dups.find? (fun d => decide (d.tag = w32 (hTag r))) = none →
    let away (st : Nat) : State :=
      (s1.setQueue q { x.pass n with fetched := x.fetched + 1, dups := dupAdd x.dups (hTag r) none }).reject q x.func r st
    (opInfo (hOpcode r) = none → exec (.commandFetch q) s = .next (away 0x0101)) ∧
    (∀ i, opInfo (hOpcode r) = some i →
      (i.priv = true → x.func ≠ 0 → exec (.commandFetch q) s = .next (away 0x0105)) ∧
      ((i.priv = true → x.func = 0) →
        (s1.contextOk x (hCtx r) = false → exec (.commandFetch q) s = .next (away 0x0106)) ∧
        (s1.contextOk x (hCtx r) = true →
          (headerRangeBad i r x.head.toNat = true → exec (.commandFetch q) s = .next (away 0x0102)) ∧
          (headerRangeBad i r x.head.toNat = false →
            (checkStatus (s1.opChecks r) ≠ 0 → exec (.commandFetch q) s = .next (away (checkStatus (s1.opChecks r)))) ∧
            (checkStatus (s1.opChecks r) = 0 → hLc r = true → s1.lcFit q (s1.cmdPanel x (hCtx r)) r (x.subTime x.head s1.time) (s1.lcWork r) = none →
              exec (.commandFetch q) s = .next (away 0x0103))))))

/-- 07.13 (R247): a duplicate is neither checked nor executed and takes no place in flight; a copy of the original's record is written
at once if that record has been written, and otherwise the copy waits for it. -/
def Obligations.DuplicateFetch : Prop :=
  ∀ s q x s1 r n d, State.queue s q = some x → x.typ = .cmd → s.fetching = true → s.eligible q x = true →
    (x.lc = true ∨ s.lcWaits x.panel = false) → s.headEntry x = (s1, some r, n) → n ≠ 0 →
    x.dups.find? (fun d => decide (d.tag = w32 (hTag r))) = some d →
    ∃ t : State, exec (.commandFetch q) s = .next t ∧
      (∀ rec, d.record = some rec →
        t = (s1.setQueue q { x.pass n with fetched := x.fetched + 1, completed := x.completed + 1, lastTime := s1.time }).writeRecord
          x.cpl (hCtx r) rec) ∧
      (d.record = none →
        t = s1.setQueue q { x.pass n with
          fetched := x.fetched + 1, dups := x.dups.map fun e => if e.tag = d.tag then { e with copies := e.copies + 1 } else e })

/-- 07.6 (R228, R190): a command whose work has ended and whose remote accesses are answered performs its fence-after and leaves
flight. -/
def Obligations.CompletionEnds : Prop :=
  ∀ s id c, State.cmd s id = some c → c.phase = .done → s.remoteOpen id = false →
    exec (.commandComplete id) s =
      .next ((s.fenceScope c.ctx c.fenceA).1.finishCmd id (worse c.status (s.fenceScope c.ctx c.fenceA).2))

/-- 07.4, 07.10, 12.2 (R222 to R224, R240, R395, R398): creating and removing queues, contexts and functions, and WORK_DECLARE. -/
def Obligations.ObjectsComplete : Prop :=
  (∀ s id s0 c, State.mayRun s id 0x0806 s0 c → checkStatus (queueCreateChecks s0 c.raw) = 0 →
    ∃ (t : State) (x : Queue), exec (.queueCreate id) s = .next (t.ended id 0) ∧ t = s0.setQueue (bits (leAt c.raw 16 4) 17 0) x ∧
      x.typ = queueTypeOf (bits (leAt c.raw 20 1) 1 0) ∧ x.k = bits (leAt c.raw 20 1) 6 2 ∧ x.lc = bit (leAt c.raw 20 1) 7 ∧
      x.func = leAt c.raw 21 1 ∧ x.panel = bits (leAt c.raw 22 1) 5 0 ∧ x.anyCtx = bit (leAt c.raw 22 1) 6 ∧
      x.key = bits (leAt c.raw 23 1) 5 0 ∧ x.ring = leAt c.raw 24 8 ∧ x.ctx = bits (leAt c.raw 32 2) 11 0 ∧
      x.cpl = bits (leAt c.raw 34 4) 17 0 ∧ x.vector = leAt c.raw 38 2 ∧ x.head = 0 ∧ x.tail = 0 ∧ x.armed = false ∧
      x.faulted = false ∧ x.overflowed = false ∧ x.dups = []) ∧
  (∀ s id s0 c, State.mayRun s id 0x0807 s0 c → checkStatus (queueDestroyChecks s0 c.raw) = 0 →
    ∃ t : State, t = ((s0.cmdsOf fun e => decide (e.q = bits (leAt c.raw 16 4) 17 0) && e.row.isNone).foldl
        (fun (s : State) i => s.cancelCmd i 0x0205) s0).dropSeqsOf (bits (leAt c.raw 16 4) 17 0) 0x0205 ∧
      exec (.queueDestroy id) s = .next ({ t with queues := tdel t.queues (bits (leAt c.raw 16 4) 17 0) }.ended id 0)) ∧
  (∀ s id s0 c, State.mayRun s id 0x0808 s0 c → checkStatus (ctxCreateChecks s0 c.raw) = 0 →
    exec (.ctxCreate id) s = .next ({ s0 with ctxs := tput s0.ctxs (bits (leAt c.raw 16 2) 11 0) {
      panel := bits (leAt c.raw 18 1) 5 0, func := leAt c.raw 19 1, troot := some (leAt c.raw 20 8),
      kctx := if bit (leAt c.raw 36 1) 0 then w32 (leAt c.raw 28 4) else w32 (bits (leAt c.raw 16 2) 11 0),
      evtQ := bits (leAt c.raw 32 4) 17 0, maxInflight := if leAt c.raw 37 1 = 0 then 256 else leAt c.raw 37 1,
      decls := [], gfence := 0 } }.ended id 0)) ∧
  (∀ s id s0 c, State.mayRun s id 0x0809 s0 c → checkStatus (ctxDestroyChecks s0 c.raw) = 0 →
    ∃ t : State, exec (.ctxDestroy id) s = .next (t.ended id 0) ∧ (tsorted t.ctxs = true → tget t.ctxs (leAt c.raw 16 2 % 4096) = none) ∧
      t = (ctxDestroyDo s0 c.raw).1) ∧
  (∀ s id s0 c, State.mayRun s id 0x080D s0 c → checkStatus (vfCreateChecks s0 c.raw) = 0 →
    ∃ (t : State) (g : Func), exec (.vfCreate id) s = .next (t.ended id 0) ∧ tget t.funcs (leAt c.raw 16 1) = some g ∧
      g.panels = leAt c.raw 18 6 ∧ g.ovfLog2 = bits (leAt c.raw 24 1) 4 0 ∧ g.ovfAddr = leAt c.raw 32 8 ∧
      g.mbxLog2 = bits (leAt c.raw 25 1) 3 0 ∧ g.mbxAddr = leAt c.raw 40 8 ∧ g.atsEn = bit (leAt c.raw 17 1) 0 ∧
      g.maxInflight = (if bits (leAt c.raw 30 2) 12 0 = 0 then 4096 else bits (leAt c.raw 30 2) 12 0) ∧ g.m2tHead = 0 ∧ g.m2tTail = 0) ∧
  (∀ s id s0 c, State.mayRun s id 0x080E s0 c → checkStatus (vfDestroyChecks s0 c.raw) = 0 →
    exec (.vfDestroy id) s = .next ({ s0 with funcs := tdel s0.funcs (leAt c.raw 16 1) }.ended id 0)) ∧
  (∀ s id s0 c, State.mayRun s id 0x0303 s0 c → checkStatus (workDeclareChecks s0 c.raw) = 0 →
    exec (.workDeclare id) s = .next ({ s0 with ctxs := tmod s0.ctxs (hCtx c.raw) fun (x : Ctx) => { x with
      decls := if bit (leAt c.raw 18 1) 0 then tdel x.decls (leAt c.raw 16 2)
        else tput x.decls (leAt c.raw 16 2) (leAt c.raw 20 4, leAt c.raw 24 8) } }.ended id 0))

/-- 11.10 (R387, R388): the class 0x07 commands. CAP_SET, SLEW_SET, SHED_LEVEL_SET and GAUGE_SET set their registers when they run and
end at a later control period; SHED and RESTORE begin and end the command shed; RESERVE sets a panel's reserved gauge; a
DOMAIN_SWITCH is queued for its domain, and the oldest request for a domain is performed when the domain reports. -/
def Obligations.PowerCommandsComplete : Prop :=
  (∀ s id s0 c, State.mayRun s id 0x0701 s0 c → c.step = 0 → exec (.capSet id) s =
    .next (((s0.setFld .PWR_LIMITS_CAP_W 0 (leAt c.raw 16 2)).updateShed).modCmd c.id fun x => { x with step := 1 })) ∧
  (∀ s id s0 c, State.mayRun s id 0x0702 s0 c → c.step = 0 → exec (.slewSet id) s =
    .next ((s0.setFld .PWR_LIMITS_SLEW 0 (leAt c.raw 16 2)).modCmd c.id fun x => { x with step := 1 })) ∧
  (∀ s id s0 c, State.mayRun s id 0x0703 s0 c → c.step = 0 → exec (.shedLevelSet id) s =
    .next (((s0.setFld .PWR_LIMITS_SHED_LEVEL_W 0 (leAt c.raw 16 2)).updateBelow.updateShed).modCmd c.id fun x => { x with step := 1 })) ∧
  (∀ s id s0 c, State.mayRun s id 0x0704 s0 c →
    exec (.shed id) s = .next (((s0.setFld .PWR_STATUS_SHED_CMD 0 1).updateShed).ended id 0)) ∧
  (∀ s id s0 c, State.mayRun s id 0x0705 s0 c → exec (.restore id) s = .next (
    if s0.pwr.shedN then ((s0.setFld .PWR_STATUS_SHED_CMD 0 0).updateShed).ended id 0
    else ((((s0.setFld .PWR_STATUS_SHED_CMD 0 0).setFld .PWR_STATUS_SHED_PIN 0 0).modPwr fun p => { p with outlast := false }).updateShed).ended
      id 0)) ∧
  (∀ s id s0 c, State.mayRun s id 0x0706 s0 c → c.step = 0 → exec (.gaugeSet id) s =
    .next (((s0.setFld .PWR_PANEL_TARGET (leAt c.raw 16 1 % 64) (leAt c.raw 18 2)).setFld .PWR_PANEL_LOCK (leAt c.raw 16 1 % 64)
      (leAt c.raw 17 1 % 2)).modCmd c.id fun x => { x with step := 1 })) ∧
  (∀ s id s0 c, State.mayRun s id 0x0707 s0 c → c.step = 0 → ∃ t : State, exec (.domainSwitch id) s = .next t ∧
    t.switches = s0.switches ++ [(leAt c.raw 16 1 % 128, bit (leAt c.raw 17 1) 0, c.id)] ∧ t.regs = s0.regs ∧ t.mem = s0.mem) ∧
  (∀ s d on id l, State.switches s = (d, on, id) :: l → s.switchBreaks d on = false →
    exec (.domainSwitchDone d) s = .next (({ s with switches := l }.switchDo d on).ended id 0)) ∧
  (∀ s id s0 c, State.mayRun s id 0x0708 s0 c → exec (.reserve id) s = .next (
    if s0.target (leAt c.raw 16 1 % 64) < leAt c.raw 18 2 then
      (((s0.setFld .PWR_PANEL_RESERVED_G (leAt c.raw 16 1 % 64) (leAt c.raw 18 2)).setFld .PWR_PANEL_TARGET (leAt c.raw 16 1 % 64)
        (leAt c.raw 18 2)).updateReservations.updateBelow).ended id 0
    else ((s0.setFld .PWR_PANEL_RESERVED_G (leAt c.raw 16 1 % 64) (leAt c.raw 18 2)).updateReservations.updateBelow).ended id 0))

/-- 11.2, 11.4, 11.6, 11.8 (R358, R365, R367, R377, R480): the power events. A level of SHED_N that was not stable for 2 µs is counted
and ignored; a stable one begins or ends the pin shed. The ceiling of a control period falls by at most 0.1 × SLEW and follows
R358. The backstop sets every die's gauge to 800. A droop is counted with its late beats, and recovery ends it. -/
def Obligations.PowerEvents : Prop :=
  (∀ s ns, ns < 2000 → exec (.shedNAssert ns) s = .next (s.incFld .SRV_INPUT_STATUS_SHED_GLITCHES 0 1) ∧
    exec (.shedNDeassert ns) s = .next (s.incFld .SRV_INPUT_STATUS_SHED_GLITCHES 0 1)) ∧
  (∀ s ns, 2000 ≤ ns → exec (.shedNAssert ns) s =
    .next (((State.modPwr s fun p => { p with shedN := true, outlast := false }).setFld .PWR_STATUS_SHED_PIN 0 1).updateShed)) ∧
  (∀ s ns, 2000 ≤ ns → (State.pwr s).shedN = true → exec (.shedNDeassert ns) s = .next (
    if s.fld .PWR_POLICY_AUTO_RESTORE 0 = 1 then ((s.modPwr fun p => { p with shedN := false }).setFld .PWR_STATUS_SHED_PIN 0 0).updateShed
    else (s.modPwr fun p => { p with shedN := false }).modPwr fun p => { p with outlast := true })) ∧
  (∀ s fast load, State.pwcRuns s = true → ∃ t : State, exec (.controlPeriod fast load) s = .next t ∧
    t.pwr.ceiling = (nextCeiling (1000 * s.limitW) s.pwr.ceiling (s.fld .PWR_LIMITS_SLEW 0) fast).1) ∧
  (∀ s t, (State.pwr s).shedAt = some t → s.pwr.moved = false → 1500000 ≤ (s.time - t).toNat → s.fld .PWR_STATUS_BACKSTOP 0 ≠ 1 →
    ∃ u : State, exec .powerBackstop s = .next u ∧ u.pwr.fillers = [] ∧ u.fld .PWR_STATUS_FILL_ACTIVE 0 = 0 ∧
      ∀ n, n < 12 → u.fld .PWR_DIE_GAUGE n = 800) ∧
  (∀ s n late, State.diePresent s n = true → ∃ t : State, exec (.droopResponse n late) s = .next t ∧ n ∈ t.pwr.drooped ∧
    tgetD t.pwr.late n 0 = tgetD s.pwr.late n 0 + late) ∧
  (∀ s n, ∃ t : State, exec (.droopRecovery n) s = .next t ∧ t = s.modPwr (fun p => { p with drooped := p.drooped.filter fun m => !(decide (m = n)) }) ∧
    n ∉ t.pwr.drooped)

/-- 11.1, 11.8 (R355, R381, R120, R481): a measurement window adds its energy, under the user calibration (R476), and shows its power, a sensor reading that is taken
stands as the sensor's last, a stack's readout is shown in its status. -/
def Obligations.SensorEvents : Prop :=
  (∀ s nJ v i b, State.pwcRuns s = true → ∃ t : State, exec (.measureWindow nJ v i b) s = .next t ∧ t.pwr.energy = s.pwr.energy + s.calEnergy nJ v ∧
    t.fld .PWR_MEAS_POWER_W 0 = sat 16 (s.calEnergy nJ v / 1000000)) ∧
  (∀ s u i (v : Int), u < 25 → i < unitSensors u → -40 ≤ v → v ≤ 150 → s.calByte (192 + u) = 0 →
    (∀ o, (tgetD s.sensors (tempKey u i) Sensor.new).last = some o → -40 ≤ 4 * v - o ∧ 4 * v - o ≤ 40) →
    ∃ t : State, exec (.sensorRead [⟨u, i, v⟩]) s = .next t ∧ (tgetD t.sensors (tempKey u i) Sensor.new).last = some (4 * v)) ∧
  (∀ s h (v : Int), h < 16 → 0 ≤ v → v ≤ 150 → s.calByte (217 + h) = 0 →
    (∀ o, (tgetD s.sensors (25 + h) Sensor.new).last = some o → -40 ≤ 4 * v - o ∧ 4 * v - o ≤ 40) →
    (tgetD s.sensors (25 + h) Sensor.new).failed = false →
    ∃ t : State, exec (.hbmTempRead h v) s = .next t ∧ t.fld .HBM_STK_STATUS_TEMP h = v.toNat)

/-- 09.1, 09.5 (R287, R288, R302): PANEL_CREATE without an imported key gives the panel a fresh key and every tile it names;
PANEL_DESTROY removes it; a PANEL_REBIND whose tiles hold no unit hands them over, and one whose tiles do first stops the units. -/
def Obligations.PanelsComplete : Prop :=
  (∀ s id s0 c, State.mayRun s id 0x0801 s0 c → checkStatus (panelCreateChecks s0 c.raw) = 0 → bit (leAt c.raw 17 1) 0 = false →
    thas s0.epochs s0.committed = true →
    ∃ t : State, exec (.panelCreate id) s = .next (t.ended id 0) ∧ tget t.panels (leAt c.raw 16 1 % 64) = some ⟨leAt c.raw 18 6, []⟩ ∧
      (∀ k ∈ maskBits (leAt c.raw 18 6) 48, (t.tile k).owner = some (leAt c.raw 16 1 % 64)) ∧
      t.cfg.panel (leAt c.raw 16 1 % 64) = panelCfgOf c.raw) ∧
  (∀ s id s0 c x, State.mayRun s id 0x0802 s0 c → checkStatus (panelDestroyChecks s0 c.raw) = 0 →
    tget s0.panels (leAt c.raw 16 1 % 64) = some x → tsorted s0.panels = true →
    ∃ t : State, exec (.panelDestroy id) s = .next (t.ended id 0) ∧ thas t.panels (leAt c.raw 16 1 % 64) = false ∧
      ∀ k ∈ maskBits x.tiles 48, (t.tile k).owner = none) ∧
  (∀ s id s0 c, State.mayRun s id 0x0803 s0 c → (c.step = 0 → checkStatus (panelRebindChecks s0 c.raw) = 0) →
    ((∀ k ∈ maskBits (leAt c.raw 18 6) 48, (s0.tile k).unit = none) → s0.lcHolds (maskBits (leAt c.raw 18 6) 48) = false →
      ∃ t : State, exec (.panelRebind id) s = .next (t.ended id 0) ∧
        ∀ k ∈ maskBits (leAt c.raw 18 6) 48, (t.tile k).home = none ∧
          (t.tile k).owner = if leAt c.raw 17 1 % 64 = 63 then none else some (leAt c.raw 17 1 % 64)) ∧
    (∀ k u, k ∈ maskBits (leAt c.raw 18 6) 48 → (s0.tile k).unit = some u →
      ∃ t : State, exec (.panelRebind id) s = .next t ∧ ∃ y, (t.tile k).pre = some y ∧ y.forRebind = true))

/-- 09.6 (R306 to R309): CONFIG_STAGE adds an item, is refused by a full stage, or empties the stage; CONFIG_COMMIT makes the stage the next epoch; a resource at its
quiescent point applies it; an epoch that was not applied in time is followed by one with its predecessor's settings. -/
def Obligations.ConfigurationComplete : Prop :=
  (∀ s id s0 c, State.mayRun s id 0x0804 s0 c → checkStatus (configStageChecks s0 c.raw) = 0 →
    (leAt c.raw 16 1 = 1 → s0.stage.length < 256 → exec (.configStage id) s =
      .next ({ s0 with stage := s0.stage ++ [StageItem.panel (leAt c.raw 18 2 % 64) (leAt c.raw 20 1) (panelSetOf c.raw)] }.ended id 0)) ∧
    (leAt c.raw 16 1 = 1 ∨ leAt c.raw 16 1 = 2 → 256 ≤ s0.stage.length → exec (.configStage id) s =
      .next ((s0.setFld .PNL_CFG_STATUS_STAGE_FULL 0 1).ended id 0x0104)) ∧
    (∀ u l, leAt c.raw 16 1 = 2 → s0.stage.length < 256 → s0.stashAreas (leAt c.raw 18 2 % 4096) (classOf c.raw) = (u, some l) → exec (.configStage id) s =
      .next ({ u with stage := u.stage ++ [StageItem.ctxClass (leAt c.raw 18 2 % 4096) (classOf c.raw)] }.ended id 0)) ∧
    (leAt c.raw 16 1 = 3 → exec (.configStage id) s = .next ({ s0 with stage := [] }.ended id 0))) ∧
  (∀ s id s0 c, State.mayRun s id 0x0805 s0 c → checkStatus (configCommitChecks s0 c.raw) = 0 →
    (s0.stage = [] → exec (.configCommit id) s = .next (s0.ended id 0)) ∧
    (s0.stage ≠ [] → ∃ t : State, exec (.configCommit id) s = .next (t.ended id 0) ∧ t.committed = s0.committed + 1 ∧ t.stage = [] ∧
      tget t.epochs (s0.committed + 1) = some (applyStage s0.cfg s0.stage))) ∧
  (∀ s r, r ∈ State.toApply s → s.quiescent r = true →
    exec (.configApply r) s = .next (({ s with toApply := s.toApply.erase r }.applyResource r).checkApplied)) ∧
  (∀ s, State.toApply s ≠ [] → s.committed = s.applied + 1 →
    1000000 * max 1 (min 1000 (s.fld .PNL_CFG_CTL_TIMEOUT_MS 0)) ≤ (s.time - s.commitAt).toNat →
    ∃ t : State, exec .configRollback s = .next t ∧ t.committed = s.committed + 1 ∧
      tget t.epochs (s.committed + 1) = some (s.settings (s.committed - 1)))

/-- 09.2 to 09.4 (R289, R290, R295 to R301): LC dispatch takes free tiles and stops the BE units of others; a BE unit starts on an
open tile; a stop is followed by the stash of the unit and its later resumption; a phase that passes its limit frogs the context. -/
def Obligations.TileEvents : Prop :=
  (∀ s id c, State.cmd s id = some c → hLc c.raw = true → c.row = none → usesTiles c.opcode = true → c.phase = .waiting →
    s.startable c = true → (∀ k ∈ maskBits c.tiles 48, (s.tile k).lc = none) →
    ((∀ k ∈ maskBits c.tiles 48, (s.tile k).unit = none) →
      ∃ t : State, exec (.lcDispatch id) s = .next t ∧ ∀ k ∈ maskBits c.tiles 48, (t.tile k).lc = some (.cmd id)) ∧
    (∀ k u, k ∈ maskBits c.tiles 48 → (s.tile k).unit = some u →
      exec (.lcDispatch id) s = .next ((maskBits c.tiles 48).foldl (fun (s : State) k => s.requestStop k true false false false) s))) ∧
  (∀ s k y, (State.tile s k).pre = some y → y.phase = .requested → s.tileAtomics k = false →
    exec (.preemptStopDone k) s = .next (s.setTile k { s.tile k with pre := some { y with phase := .stopped, since := s.time } })) ∧
  (∀ s k u y, (State.tile s k).unit = some u → (s.tile k).pre = some y → y.phase = .stopped →
    s.slotReady u.ctx (quadOf k) (s.slotVa u.ctx (quadOf k) u.slot u.epoch) = true →
    ∃ t : State, exec (.stashDone k true) s = .next t ∧ t = s.stashUnit k u ∧ (t.tile k).unit = none ∧ (t.tile k).pre = none ∧
      t.nextImage = s.nextImage + 1 ∧ ∃ i, tget t.images s.nextImage = some i ∧ i.ctx = u.ctx ∧ i.cmd = u.cmd ∧ i.tile = k ∧ i.slot = u.slot) ∧
  (∀ s k u y, (State.tile s k).unit = some u → (s.tile k).pre = some y →
    (if y.phase = .requested then 16000 else 56000) ≤ (s.time - y.since).toNat →
    exec (.preemptAbandon k) s = .next ((((s.setFld .PNL_STATUS_ABANDON ((s.tile k).owner.getD 0) 1).incFld .PNL_COUNTS_ABANDONS
      ((s.tile k).owner.getD 0) 1)).frog u.ctx 0x0202)) ∧
  (∀ s k id c, State.cmd s id = some c → s.beFits c k = true → s.tileOpen k c.panel c.epoch = true → c.phase ≠ .done →
    s.stepBars k id = false →
    ∃ (t : State) (u : TileUnit), exec (.beUnitStart k id) s = .next t ∧ (t.tile k).unit = some u ∧ u.cmd = id ∧ u.ctx = c.ctx ∧
      u.epoch = c.epoch ∧ s.freeSlot c.ctx (quadOf k) c.epoch = some u.slot) ∧
  (∀ s k u p, (State.tile s k).unit = some u → (s.tile k).owner = some p → (s.tile k).pre = none →
    1000 * ((s.settings u.epoch).panel p).quantum ≤ (s.time - u.quantumStart).toNat → s.otherWaits k p u.ctx = true →
    exec (.quantumEnd k) s = .next ((s.setTile k { s.tile k with pre := some ⟨.requested, s.time, false, true, false, false⟩ }).setFld
      .ARR_STATUS_STOP_PENDING k 1)) ∧
  (∀ s k n i c, tget (State.images s) n = some i → s.cmd i.cmd = some c → s.tileOpen k c.panel i.epoch = true → s.imageFits i k = true →
    s.beAllowed i.ctx i.epoch = true → c.phase ≠ .recorded → s.unitsBarred c = false →
    s.slotPoisoned i.ctx i.quad (s.slotVa i.ctx i.quad i.slot i.epoch) = false → tsorted s.images = true →
    ∃ (t : State) (u : TileUnit), exec (.unitResume k n true) s = .next t ∧ tget t.images n = none ∧ (t.tile k).unit = some u ∧
      u.cmd = i.cmd ∧ u.ctx = i.ctx) ∧
  (∀ s k, s.fld .PNL_COMPACT_EN 0 = 1 → s.tilesOffNow < s.fld .PNL_COMPACT_TARGET_OFF 0 → s.nextVacate = some k →
    (State.tile s k).unit = none →
    ∃ t : State, exec (.compaction k) s = .next t ∧
      (∀ p, (s.tile k).owner = some p → (t.tile k).home = some p ∧ (t.tile k).owner = none) ∧
      ((s.tile k).owner = none → t = (s.tileOff k).updateReservations.paceDies)) ∧
  (∀ s k p, s.fld .PNL_COMPACT_TARGET_OFF 0 < s.tilesOffNow → s.nextHome = some k → (State.tile s k).home = some p →
    ∃ t : State, exec (.respread k) s = .next t ∧ (t.tile k).owner = some p ∧ (t.tile k).home = none)

/-- 04.4, 04.2 (R120, R124, R125, R129 to R131): the HBM controllers' events on a stack in service. A refresh and a re-centring change
no data; a patrol read that meets a correctable error counts it and changes no data, and one that meets an uncorrectable error leaves
its sector poisoned; a stack that leaves service says so. -/
def Obligations.HbmEvents : Prop :=
  (∀ s h pc a r, State.stackLive s h = true → s.domainOn (76 + h) = true →
    exec (.hbmRefresh h pc a r) s = .next (s.bump (unitStack h) 6 1 none)) ∧
  (∀ s h pc, State.stackLive s h = true → exec (.hbmRecentre h pc) s = .next (s.bump (unitStack h) 12 1 none)) ∧
  (∀ s h n pc bank row, State.stackLive s h = true → s.fld .HBM_G_CTL_SCRUB_PERIOD 0 ≠ 0 → n < 2 ^ 31 →
    (∃ t : State, exec (.patrolScrub h n pc bank row .clean) s = .next t ∧ t.mem = s.mem) ∧
    (∃ t : State, exec (.patrolScrub h n pc bank row .corrected) s = .next t ∧ t.mem = s.mem ∧
      t.fld .HBM_ECC_COUNT_CORRECTED h = sat (Fld.HBM_ECC_COUNT_CORRECTED.hi + 1 - Fld.HBM_ECC_COUNT_CORRECTED.lo)
        (s.fld .HBM_ECC_COUNT_CORRECTED h + 1)) ∧
    (∃ t : State, exec (.patrolScrub h n pc bank row .uncorrectable) s = .next t ∧
      t.mem.poisoned (s.paOfStack h (32 * n)) = true)) ∧
  (∀ s h, State.stackLive s h = true → ∃ t : State, exec (.stackOutOfService h) s = .next t ∧
    t.fld .HBM_STK_STATUS_OUT_OF_SERVICE h = 1 ∧ t.stackLive h = false)

/-- 04.6 (R141, R142): the key operations on slots 0 to 47. GENERATE loads a key that no slot has held, ERASE unloads the slot, and
each raises its generation; IMPORT loads the key of a blob that the package wrapped under the present wrapping key; EXPORT
writes the wrapped blob and keeps the slot as it is. -/
def Obligations.KeyOperations : Prop :=
  (∀ s p, p < 48 → ∃ t : State, exec (.keyGenerate p) s = .next t ∧ (t.slot p).key = State.keyNext s ∧
    (t.slot p).gen = (s.slot p).gen + 1 ∧ t.keyNext = s.keyNext + 1 ∧ t.fld .HBM_KEY_CTL_ERROR 0 = 0 ∧
    (∀ q, q ≠ p → t.slot q = s.slot q) ∧ t.mem = s.mem) ∧
  (∀ s p, p < 48 → ∃ t : State, exec (.keyErase p) s = .next t ∧ (t.slot p).key = 0 ∧ (t.slot p).gen = (s.slot p).gen + 1 ∧
    (∀ q, q ≠ p → t.slot q = s.slot q) ∧ t.mem = s.mem) ∧
  (∀ s p b k u, p < 48 → State.blobOk s (s.fld .HBM_KEY_BUF_ADDR 0) = true → s.mwk ≠ 0 →
    s.readPhys s.hubWho 63 (s.fld .HBM_KEY_BUF_ADDR 0) 40 = (u, some b) →
    u.blobs.find? (fun e => decide (e.1 = b) && decide (e.2.2 = u.mwk)) = some (b, k, u.mwk) → u.mwk ≠ 0 →
    ∃ t : State, exec (.keyImport p) s = .next t ∧ (t.slot p).key = k ∧ t.fld .HBM_KEY_CTL_ERROR 0 = 0) ∧
  (∀ s p k u, p < 48 → State.keyOf s p = some k → s.blobOk (s.fld .HBM_KEY_BUF_ADDR 0) = true → s.mwk ≠ 0 →
    s.writePhys s.hubWho 63 (s.fld .HBM_KEY_BUF_ADDR 0) (wrapped k s.mwk) = (u, true) →
    ∃ t : State, exec (.keyExport p) s = .next t ∧ t.keys = u.keys ∧ t.mem = u.mem ∧ (wrapped k s.mwk, k, u.mwk) ∈ t.blobs ∧
      t.fld .HBM_KEY_CTL_ERROR 0 = 0) ∧
  (∀ s p, 48 ≤ p → exec (.keyGenerate p) s = .next (s.setFld .HBM_KEY_CTL_ERROR 0 1))

/-- 04.7 (R145, R146, R149, R153): repairs by command outside test mode, and the swatch engine. A soft repair uses a spare row of the
bank and is logged; a hard one joins or leaves the pending list; without a spare row nothing is repaired. A swatch run ends with DONE, and a
read-only one changes no byte. -/
def Obligations.RepairAndSwatch : Prop :=
  (∀ s h pc bank row, State.fld s .HBM_G_CTL_TEST_MODE 0 = 0 →
    (s.bankSpareLeft h pc bank ≠ 0 → ∃ t : State, exec (.softPpr h pc bank row) s = .next t ∧
      t.bankSpareLeft h pc bank = s.bankSpareLeft h pc bank - 1 ∧
      (t.stack h).repairs = (⟨1, 0, pc, bank, row, s.boots⟩ :: (s.stack h).repairs).take 512 ∧ t.fld .HBM_REPAIR_STATUS_LAST_RESULT h = 0 ∧
      t.mem = s.mem) ∧
    (s.bankSpareLeft h pc bank = 0 → exec (.softPpr h pc bank row) s = .next (s.setFld .HBM_REPAIR_STATUS_LAST_RESULT h 1)) ∧
    (s.bankSpareLeft h pc bank ≠ 0 → (s.stack h).pendingHard.contains (pc, bank, row) = false → (s.stack h).pendingHard.length < 32 →
      ∃ t : State, exec (.hardPprAdd h pc bank row) s = .next t ∧
        (t.stack h).pendingHard = (s.stack h).pendingHard ++ [(pc, bank, row)] ∧ t.mem = s.mem) ∧
    (∃ t : State, exec (.hardPprRemove h pc bank row) s = .next t ∧ (pc, bank, row) ∉ (t.stack h).pendingHard ∧ t.mem = s.mem)) ∧
  (∀ s h, State.stackLive s h = true → s.fld .HBM_STK_STATUS_SW_BUSY h = 0 → s.fld .HBM_SW_CTL_OP h = 4 →
    ∃ t : State, exec (.swatchStart h) s = .next t ∧ t.fld .HBM_STK_STATUS_SW_BUSY h = 1 ∧ t.mem = s.mem) ∧
  (∀ s h, State.fld s .HBM_STK_STATUS_SW_BUSY h = 1 → s.fld .HBM_SW_CTL_OP h = 4 →
    (∃ t : State, exec (.swatchDone h) s = .next t ∧ t.fld .HBM_STK_STATUS_SW_BUSY h = 0 ∧ t.fld .HBM_SW_RESULT_DONE h = 1 ∧
      t.mem = s.mem) ∧
    (∃ t : State, exec (.swatchStop h) s = .next t ∧ t.fld .HBM_STK_STATUS_SW_BUSY h = 0 ∧ t.fld .HBM_SW_RESULT_DONE h = 1 ∧
      t.mem = s.mem))

/-- 00, 14.6 (R5, R6, R457): the registers whose 8-byte read clears their RC fields. The value read is the one before; a 4-byte read
returns its half and changes no field. -/
def Obligations.ClearingReads : Prop :=
  ∀ (s : State) (h : Nat),
    let cleared (r : Reg) (i : Nat) : State :=
      (s.setReg r i (s.reg r i &&& (2 ^ 64 - 1 - rcMask r))).emit (.regData (w64 (s.regValue 0 r i 0)))
    let half (r : Reg) (i : Nat) (k : Half) : State := s.emit (.regData (w64 (halfOf k (s.regValue 0 r i 0))))
    (s.answers .pf0 .HBM_ECC_COUNT h = true → exec (.hbmEccCountRead h .full) s = .next (cleared .HBM_ECC_COUNT h) ∧
      ∀ k, k ≠ .full → exec (.hbmEccCountRead h k) s = .next (half .HBM_ECC_COUNT h k)) ∧
    (s.answers .pf0 .UCC_SLICE_ERR h = true → exec (.uccSliceErrRead h .full) s = .next (cleared .UCC_SLICE_ERR h) ∧
      ∀ k, k ≠ .full → exec (.uccSliceErrRead h k) s = .next (half .UCC_SLICE_ERR h k)) ∧
    (s.answers .pf0 .UCC_DIR_STATUS h = true → exec (.uccDirStatusRead h .full) s = .next (cleared .UCC_DIR_STATUS h) ∧
      ∀ k, k ≠ .full → exec (.uccDirStatusRead h k) s = .next (half .UCC_DIR_STATUS h k)) ∧
    (s.answers .pf0 .UCC_SKEIN_STATUS h = true → exec (.uccSkeinStatusRead h .full) s = .next (cleared .UCC_SKEIN_STATUS h) ∧
      ∀ k, k ≠ .full → exec (.uccSkeinStatusRead h k) s = .next (half .UCC_SKEIN_STATUS h k)) ∧
    (s.answers .pf0 .XLT_COUNTS h = true → exec (.xltCountsRead h .full) s = .next (cleared .XLT_COUNTS h) ∧
      ∀ k, k ≠ .full → exec (.xltCountsRead h k) s = .next (half .XLT_COUNTS h k)) ∧
    (s.answers .pf0 .LNK_ERR h = true → exec (.lnkErrRead h .full) s = .next (cleared .LNK_ERR h) ∧
      ∀ k, k ≠ .full → exec (.lnkErrRead h k) s = .next (half .LNK_ERR h k)) ∧
    (s.answers .pf0 .LNK_FEC h = true → exec (.lnkFecRead h .full) s = .next (cleared .LNK_FEC h) ∧
      ∀ k, k ≠ .full → exec (.lnkFecRead h k) s = .next (half .LNK_FEC h k)) ∧
    (s.answers .pf0 .GST_ERR h = true → exec (.gstErrRead h .full) s = .next (cleared .GST_ERR h) ∧
      ∀ k, k ≠ .full → exec (.gstErrRead h k) s = .next (half .GST_ERR h k)) ∧
    (s.answers .pf0 .RSQ_COUNTS h = true → exec (.rsqCountsRead .pf0 h .full) s = .next (cleared .RSQ_COUNTS h) ∧
      ∀ k, k ≠ .full → exec (.rsqCountsRead .pf0 h k) s = .next (half .RSQ_COUNTS h k)) ∧
    (s.answers .pf0 .PNL_COUNTS h = true → exec (.pnlCountsRead .pf0 h .full) s = .next (cleared .PNL_COUNTS h) ∧
      ∀ k, k ≠ .full → exec (.pnlCountsRead .pf0 h k) s = .next (half .PNL_COUNTS h k)) ∧
    (s.answers .pf0 .PNL_DISPATCH h = true → exec (.pnlDispatchRead .pf0 h .full) s = .next (cleared .PNL_DISPATCH h) ∧
      ∀ k, k ≠ .full → exec (.pnlDispatchRead .pf0 h k) s = .next (half .PNL_DISPATCH h k)) ∧
    (s.answers .pf0 .LNK_G_STATUS 0 = true → exec (.lnkGStatusRead .full) s = .next (cleared .LNK_G_STATUS 0) ∧
      ∀ k, k ≠ .full → exec (.lnkGStatusRead k) s = .next (half .LNK_G_STATUS 0 k)) ∧
    (s.answers .pf0 .PWR_DROOP 0 = true → exec (.pwrDroopRead .full) s = .next (cleared .PWR_DROOP 0) ∧
      ∀ k, k ≠ .full → exec (.pwrDroopRead k) s = .next (half .PWR_DROOP 0 k)) ∧
    (s.answers .pf0 .HUB_FLT_STATUS 0 = true → exec (.hubFltStatusRead .full) s = .next (cleared .HUB_FLT_STATUS 0) ∧
      ∀ k, k ≠ .full → exec (.hubFltStatusRead k) s = .next (half .HUB_FLT_STATUS 0 k)) ∧
    (s.answers .pf0 .HUB_LEASE_STATUS 0 = true → exec (.hubLeaseStatusRead .full) s = .next (cleared .HUB_LEASE_STATUS 0) ∧
      ∀ k, k ≠ .full → exec (.hubLeaseStatusRead k) s = .next (half .HUB_LEASE_STATUS 0 k)) ∧
    (s.answers .pf0 .OBS_SMP_STATUS 0 = true → exec (.obsSmpStatusRead .full) s = .next (cleared .OBS_SMP_STATUS 0) ∧
      ∀ k, k ≠ .full → exec (.obsSmpStatusRead k) s = .next (half .OBS_SMP_STATUS 0 k)) ∧
    (s.answers .pf0 .OBS_CSMP_STATUS 0 = true → exec (.obsCsmpStatusRead .full) s = .next (cleared .OBS_CSMP_STATUS 0) ∧
      ∀ k, k ≠ .full → exec (.obsCsmpStatusRead k) s = .next (half .OBS_CSMP_STATUS 0 k)) ∧
    (s.answers .pf0 .SRV_INPUT_STATUS 0 = true → exec (.srvInputStatusRead .full) s = .next (cleared .SRV_INPUT_STATUS 0) ∧
      ∀ k, k ≠ .full → exec (.srvInputStatusRead k) s = .next (half .SRV_INPUT_STATUS 0 k))

/-- 04.7, 07.15 (R148, R152, R153, R250): the reads that pop, advance or clear. An 8-byte read of `HBM_ECC_LOG` takes the oldest entry
and latches its place, one of `HBM_REPAIR_LOG` moves to the next entry and a write returns to the newest, and one of `QUE_FN_STATUS`
clears the selected function's counts. A VF's reads of the RSQ and PNL counts have no side effect (R282, R313). -/
def Obligations.PoppingReads : Prop :=
  (∀ s h, State.answers s .pf0 .HBM_ECC_LOG h = true →
    (∀ e l, (s.stack h).eccLog = e :: l → exec (.hbmEccLogRead h .full) s = .next
      (((s.setStack h { s.stack h with eccLog := l, overrun := false }).setReg .HBM_ECC_LOC h
        (e.row * 2 ^ 48 + e.bank * 2 ^ 44 + e.pc * 2 ^ 38 + e.addr)).emit (.regData (w64 (s.eccLogValue h))))) ∧
    ((s.stack h).eccLog = [] → exec (.hbmEccLogRead h .full) s = .next
      ((s.setStack h { s.stack h with overrun := false }).emit (.regData (w64 (s.eccLogValue h)))))) ∧
  (∀ s h, State.answers s .pf0 .HBM_REPAIR_LOG h = true → (s.stack h).repairPos < (s.stack h).repairs.length →
    exec (.hbmRepairLogRead h .full) s = .next
      ((s.setStack h { s.stack h with repairPos := (s.stack h).repairPos + 1 }).emit (.regData (w64 (s.repairLogValue h))))) ∧
  (∀ s h, State.answers s .pf0 .HBM_REPAIR_LOG h = true →
    exec (.hbmRepairLogWrite h) s = .next (s.setStack h { s.stack h with repairPos := 0 })) ∧
  (∀ s, State.answers s .pf0 .QUE_FN_STATUS 0 = true → exec (.queFnStatusRead .pf0 .full) s = .next
    ((s.modFunc (s.fld .QUE_FN_SEL_FUNC 0) fun g => { g with dropped := 0, badDb := 0 }).emit
      (.regData (w64 (s.funcReg (s.fld .QUE_FN_SEL_FUNC 0) .QUE_FN_STATUS))))) ∧
  (∀ s n p k, 0 < n → State.answers s (.vf n) .PNL_COUNTS p = true →
    exec (.pnlCountsRead (.vf n) p k) s = .next (s.emit (.regData (w64 (halfOf k (s.regValue n .PNL_COUNTS p 0)))))) ∧
  (∀ s n p k, 0 < n → State.answers s (.vf n) .PNL_DISPATCH p = true →
    exec (.pnlDispatchRead (.vf n) p k) s = .next (s.emit (.regData (w64 (halfOf k (s.regValue n .PNL_DISPATCH p 0)))))) ∧
  (∀ s n p k, 0 < n → State.answers s (.vf n) .RSQ_COUNTS p = true →
    exec (.rsqCountsRead (.vf n) p k) s = .next (s.emit (.regData (w64 (halfOf k (s.regValue n .RSQ_COUNTS p 0))))))

/-- 00, 09.6 (R5, R6, R306): register writes through PF0. A register without an action of its own takes the write field by field as
its access codes say; a stageable register's write goes to the stage. -/
def Obligations.RegisterWrites : Prop :=
  (∀ s off h (v : W64) r i, State.regAt s .pf0 off = some (r, i, false) → isMsix off = false → isStaged r = false → r.writable = true →
    halfMask h % 2 ^ (regInfo r).width ≠ 0 →
    r ∉ [Reg.HBM_REPAIR_CMD, .HBM_REPAIR_LOG, .HBM_SW_CTL, .HBM_G_CTL, .HBM_KEY_CTL, .QUE_SEL, .QUE_STATUS, .QUE_OVF_PTRS, .LNK_CTL, .LNK_G_ID,
      .LNK_G_ROUTE, .MGT_FN_STATUS, .MGT_MBX_M2T, .MGT_MBX_T2M, .MGT_APERTURE, .HUB_FLT_PTRS, .HUB_RESET_CMD, .OBS_CTL, .OBS_PCTL,
      .OBS_SMP_PTRS, .OBS_CSMP_PTRS, .OBS_FN_CNT, .TMB_EPOCH, .GST_CTL, .DBG_CTL, .DBG_HALT_CMD, .DBG_REG_DATA, .DBG_STEP_GO,
      .SRV_BIND_OFF] →
    exec (.registerWrite .pf0 off h v) s = .next ((s.noteWritten r i).setReg r i
      (writeFields r (halfMask h % 2 ^ (regInfo r).width) (halfValue h v.toNat) (s.reg r i)))) ∧
  (∀ s off h (v : W64) k, State.regAt s .pf0 off = some (.ARR_CONFIG, k, false) → isMsix off = false → s.stage.length < 256 →
    (∀ x ∈ s.stage, ∀ w, x ≠ .arr k w) → halfMask h % 2 ^ (regInfo .ARR_CONFIG).width ≠ 0 →
    exec (.stagedRegisterWrite off h v) s = .next { s with stage := s.stage ++ [.arr k (writeFields .ARR_CONFIG
      (halfMask h % 2 ^ (regInfo .ARR_CONFIG).width) (halfValue h v.toNat) (s.cfg.arrConfig k))] })

/-- 12.4 (R400): an index write of a mailbox ring. A producer's index moves TAIL when the ring has the room and messages the consumer's
vector; a consumer's moves HEAD when the messages are there; the same index changes nothing, and any other sets MBX_BAD. -/
def Obligations.MailboxWrites : Prop :=
  ∀ (s : State) f g (v : W32), tget s.funcs f = some g →
    ((v - g.m2tHead).toNat ≤ 2 ^ g.mbxLog2 → (g.m2tTail - g.m2tHead).toNat < (v - g.m2tHead).toNat → v ≠ g.m2tTail →
      exec (.mbxM2tTail f v) s = .next ((s.modFunc f fun g => { g with m2tTail := v }).sendMsix f g.mbxVector)) ∧
    ((v - g.m2tHead).toNat ≤ (g.m2tTail - g.m2tHead).toNat → v ≠ g.m2tHead →
      exec (.mbxM2tHead f v) s = .next (s.modFunc f fun g => { g with m2tHead := v })) ∧
    ((v - g.t2mHead).toNat ≤ 2 ^ g.mbxLog2 → (g.t2mTail - g.t2mHead).toNat < (v - g.t2mHead).toNat → v ≠ g.t2mTail →
      exec (.mbxT2mTail f v) s = .next ((s.modFunc f fun g => { g with t2mTail := v }).sendMsix 0 g.pfVector)) ∧
    ((v - g.t2mHead).toNat ≤ (g.t2mTail - g.t2mHead).toNat → v ≠ g.t2mHead →
      exec (.mbxT2mHead f v) s = .next (s.modFunc f fun g => { g with t2mHead := v })) ∧
    (exec (.mbxM2tTail f g.m2tTail) s = .next s ∧ exec (.mbxT2mHead f g.t2mHead) s = .next s) ∧
    (2 ^ g.mbxLog2 < (v - g.m2tHead).toNat → v ≠ g.m2tTail →
      exec (.mbxM2tTail f v) s = .next (s.modFunc f fun g => { g with mbxBad := true })) ∧
    ((g.t2mTail - g.t2mHead).toNat < (v - g.t2mHead).toNat → v ≠ g.t2mHead →
      exec (.mbxT2mHead f v) s = .next (s.modFunc f fun g => { g with mbxBad := true }))

/-! ## General cores -/

/-- 03.1, 03.2 (R84): an arithmetic or logic operation writes each active lane's result to its destination, an FP64 one to a pair of
registers, and a conversion its converted element. No other register of the group changes. -/
def Obligations.CoreArithmetic : Prop :=
  (∀ s i op rd a b c t x, State.mayIssue s i (aluSrcs op a b c) [rd] t x → isF64 op = false →
    ∃ u : State, exec (.aluOp i op rd a b c) s = .next u ∧ u.laneResult x rd fun j => alu32 op (x.src j a) (x.src j b) (x.src j c)) ∧
  (∀ s i op rd a b c t x, State.mayIssue s i (aluSrcs op a b c) [rd, rd + 1] t x → isF64 op = true →
    ∃ (u : State) (g : Group), exec (.aluOp i op rd a b c) s = .next u ∧ u.findGroup x.k x.g.num = some g ∧
      (∀ j, j < 32 → bit x.lanes j = true →
        tgetD g.regs (256 * j + rd) 0 = w32 (alu64 op (x.src64 j a) (x.src64 j b) (x.src64 j c)) ∧
        tgetD g.regs (256 * j + rd + 1) 0 = w32 (alu64 op (x.src64 j a) (x.src64 j b) (x.src64 j c) / 2 ^ 32)) ∧
      (∀ n, (∀ j, j < 32 → bit x.lanes j = true → n ≠ 256 * j + rd ∧ n ≠ 256 * j + rd + 1) →
        tgetD g.regs n 0 = tgetD x.g.regs n 0)) ∧
  (∀ s i from_ dest sat stoch rd a index tensor t x, from_ < 15 → dest < 15 →
    State.mayIssue s i (srcRegs 1 a ++ if stoch then srcRegs 1 index ++ srcRegs 1 tensor else []) [rd] t x →
    ∃ u : State, exec (.convert i from_ dest sat stoch rd a index tensor) s = .next u ∧
      u.laneResult x rd (t.convLanes x from_ dest sat stoch a index tensor))

/-- 03.4, Table 03-3 (R91): the exchanges and tallies within segments of `w` lanes. A lane reads its own value where the lane that it
names takes no part, and a tally counts the participants of its segment. -/
def Obligations.ExchangesAndTallies : Prop :=
  (∀ s i w rd v r t x, w ∈ [2, 4, 8, 16, 32] → State.mayIssue s i [v, r] [rd] t x → ∃ u : State, exec (.xchPick i w rd v r) s = .next u ∧
    u.laneResult x rd fun j => xchValue x v j (j / w * w + x.reg j r % w)) ∧
  (∀ s i w rd v d t x, w ∈ [2, 4, 8, 16, 32] → State.mayIssue s i [v] [rd] t x → ∃ u : State, exec (.xchRot i w rd v d) s = .next u ∧
    u.laneResult x rd fun j => xchValue x v j (j / w * w + (j % w + d) % w)) ∧
  (∀ s i w rd v m t x, w ∈ [2, 4, 8, 16, 32] → m < w → State.mayIssue s i [v] [rd] t x →
    ∃ u : State, exec (.xchSwap i w rd v m) s = .next u ∧ u.laneResult x rd fun j => xchValue x v j (j / w * w + (j % w ^^^ m))) ∧
  (∀ s i w rd v t x, w ∈ [2, 4, 8, 16, 32] → State.mayIssue s i [v] [rd] t x → ∃ u : State, exec (.xchRev i w rd v) s = .next u ∧
    u.laneResult x rd fun j => xchValue x v j (j / w * w + (w - 1 - j % w))) ∧
  (∀ s i w rd p t x, w ∈ [2, 4, 8, 16, 32] → State.mayIssue s i [p] [rd] t x →
    let yes (j : Nat) : List Nat := (List.range 32).filter fun k => bit x.lanes k && decide (k / w = j / w) && decide (x.reg k p ≠ 0)
    let part (j : Nat) : List Nat := (List.range 32).filter fun k => bit x.lanes k && decide (k / w = j / w)
    (∃ u : State, exec (.tallyAny i w rd p) s = .next u ∧ u.laneResult x rd fun j => if yes j = [] then 0 else 1) ∧
    (∃ u : State, exec (.tallyAll i w rd p) s = .next u ∧ u.laneResult x rd fun j => if yes j = part j then 1 else 0) ∧
    (∃ u : State, exec (.tallyMask i w rd p) s = .next u ∧ u.laneResult x rd fun j => maskOf (yes j)) ∧
    (∃ u : State, exec (.tallyCount i w rd p) s = .next u ∧ u.laneResult x rd fun j => (yes j).length) ∧
    (∃ u : State, exec (.tallyBelow i w rd p) s = .next u ∧ u.laneResult x rd fun j => ((yes j).filter fun k => decide (k < j)).length) ∧
    (∃ u : State, exec (.tallyLead i w rd p) s = .next u ∧ u.laneResult x rd fun j => (yes j).headD 0xFF))

/-- 03.3, 03.4 (R87, R91 to R93): BRANCH sends the active lanes whose condition is not zero to its target, MEET and RDV.WAIT let the
path wait, RDV.SIGNAL only records the arrival, and exited lanes leave their group. -/
def Obligations.CoreControlFlow : Prop :=
  (∀ s i cond target marker t x, State.mayIssue s i [cond] [] t x → exec (.branch i cond target marker) s = .next (
    t.retire x fun g => { g with
      paths := branchPaths x (maskOf ((laneList x.lanes).filter fun j => decide (x.reg j cond ≠ 0))) target marker })) ∧
  (∀ s i w t x, State.mayIssue s i [] [] t x → exec (.meet i w) s = .next (
    (t.retire x fun g => { g with paths := settlePaths { x.p.goto x.npc with wait := .meet w x.p.pc } x.rest }).settleBlock x)) ∧
  (∀ s i r t x, r < 8 → State.mayIssue s i [] [] t x →
    ∃ ws : List Path, exec (.rdvWait i r) s = .next (((t.arriveAt x r).retire x fun g => { g with paths := x.rest ++ ws }).settleBlock x) ∧
      (∀ p ∈ ws, ∃ n, p.wait = .rdv r n ∧ (∀ j, bit p.lanes j = true → (t.arriveAt x r).arrivals x r j = n) ∧ p.pc = x.npc) ∧
      (∀ j, j < 32 → bit x.lanes j = true → ∃ p ∈ ws, bit p.lanes j = true)) ∧
  (∀ s i r t x, r < 8 → State.mayIssue s i [] [] t x →
    exec (.rdvSignal i r) s = .next (((t.arriveAt x r).next x id).settleBlock x)) ∧
  (∀ s i t x, State.mayIssue s i [] [] t x → exec (.threadExit i) s = .next (
    ((t.retire x fun g => { g with live := g.live &&& (x.lanes ^^^ (2 ^ 32 - 1)), paths := x.rest }).settleBlock x).endBlock x.k x.g.block
      x.c.id))

/-- 03.3, 03.5 (R88 to R90, R94 to R96, R177): a load, store, atomic, LL or SC none of whose lanes faults performs its lanes in rising
order and goes on; ADD_TO_LINE applies the full sectors of its payload at the line's home. -/
def Obligations.CoreMemoryAccesses : Prop :=
  (∀ s i mark size rd ra off t x u a, State.mayIssue s i (regRun ra 2) (regRun rd (sizeRegs size)) t x →
    (laneList x.lanes).foldl (fun (y : State × LoadAcc) j => y.1.loadLane x mark size j (x.addr ra off j) y.2)
      (t, ⟨[], false, false, false, none⟩) = (u, a) →
    a.fault = none → a.hold = false → (a.new = true → (t.coreOf x.k).missing x.g.num = false) →
    (a.far = true → t.serials x.k x.g.num < 4) →
    ∃ l : CoreLoad, l.group = x.g.num ∧ l.rd = rd ∧ l.size = size ∧ l.lanes = a.lanes ∧ exec (.load i mark size rd ra off) s = .next (
      (if a.lanes.all LaneLoad.whole then u.landLanes x.k l a.lanes else u.keepLoad x l).next x id)) ∧
  (∀ s i mark size rv ra off stream t x u, State.mayIssue s i (regRun ra 2 ++ regRun rv (sizeRegs size)) [] t x →
    (t.goesFar x .write size (x.addr ra off) = true → t.serials x.k x.g.num < 4) →
    (laneList x.lanes).foldl (fun (y : State × Option (Nat × Nat × Nat)) j =>
      y.1.storeLane x mark size rv stream t.nextTag j (x.addr ra off j) y.2) (t, none) = (u, none) →
    exec (.store i mark size rv ra off stream) s = .next (u.next x id)) ∧
  (∀ s i op size rd ra rb rc t x u, (op = .fadd → size = 4) →
    State.mayIssue s i (regRun ra 2 ++ regRun rb (sizeRegs size) ++ if op = .cas then regRun rc (sizeRegs size) else [])
      (regRun rd (sizeRegs size)) t x →
    (t.goesFar x .atomic size (x.addr ra 0) = true → t.serials x.k x.g.num < 4) →
    t.wordLanes x .atomic size rd size (x.addr ra 0) (atomicLane x op size rd rb rc t.nextTag) = (u, none) →
    exec (.atomicInstr i op size rd ra rb rc) s = .next (u.next x id)) ∧
  (∀ s i size rd ra t x u, State.mayIssue s i (regRun ra 2) (regRun rd (sizeRegs size)) t x →
    t.wordLanes x .read size rd size (x.addr ra 0) (llLane x size) = (u, none) →
    ∃ w : State, exec (.ll i size rd ra) s = .next w ∧ { w with resvs := (u.next x id).resvs } = u.next x id ∧
      ∀ r ∈ w.resvs, r.core = x.k → r.group = x.g.num → bit x.lanes r.lane = true → r.issued = 0) ∧
  (∀ s i size rd ra rv t x u, State.mayIssue s i (regRun ra 2 ++ regRun rv (sizeRegs size)) [rd] t x →
    t.wordLanes x .write size rd 4 (x.addr ra 0) (scLane x size rv) = (u, none) →
    exec (.sc i size rd ra rv) s = .next (u.next x id)) ∧
  (∀ s i ra rp sectors rop exact anchor t x u l rt v w n, rop ≤ 8 → State.mayIssue s i (regRun ra 2 ++ [rp]) [] t x →
    t.xlate x.issuer .atomic (x.addr ra 0 (lowLane x.lanes) / 128 * 128) = (u, .ok l) → l.device = false →
    region (l.pa % 2 ^ 48) = .hbm → u.isLocal l.pa = true → (u.l1Flush x.k (l.pa / 128)).nextRTag x.k = (rt, v) →
    v.once (v.homeQ (l.pa % 2 ^ 48)) rt (fun s =>
      let (s, n) := s.addLineAt ⟨(s.keyOf l.key).getD 0, x.issuer.who.ctx,
          if x.issuer.who.panel < 48 then some x.issuer.who.panel else none, false⟩ (l.pa % 2 ^ 48 / 128)
        (sectors.toNat &&& fullSectors x.lanes) rop exact false anchor
        ((List.range 32).flatMap fun j => leBytes 4 (if bit x.lanes j then x.reg j rp else 0)) 0
      (s, n, 0)) = (w, n) →
    exec (.addToLine i ra rp sectors rop exact anchor) s = .next (
      ((laneList x.lanes).foldl (fun s j => s.endResv x j)
        ((w.l1Refresh x.k (l.pa / 128) (sectorMask (sectors.toNat &&& fullSectors x.lanes))).launchStatus x.k n.1)).next x id))

/-- 06.2, 03.6 (R187 to R189, R101 to R107): a fence whose earlier accesses are answered performs its scope; the L1 instructions write back,
invalidate, lock, fill and unlock lines of their core; a fill's data is installed unless an invalidate covered it, and the oldest entry of
the eviction buffer drains. -/
def Obligations.FencesAndL1 : Prop :=
  (∀ s i t x, State.mayIssue s i [] [] t x →
    (t.fenceOpen x 1 = false → exec (.fenceT i) s =
      .next (((t.fenceScope x.c.ctx 1).1.launchStatus x.k (t.fenceScope x.c.ctx 1).2).next x id)) ∧
    (t.fenceOpen x 2 = false → exec (.fenceP i) s =
      .next (((t.fenceScope x.c.ctx 2).1.launchStatus x.k (t.fenceScope x.c.ctx 2).2).next x id)) ∧
    (t.fenceOpen x 3 = false → exec (.fenceG i) s =
      .next (((t.fenceScope x.c.ctx 3).1.launchStatus x.k (t.fenceScope x.c.ctx 3).2).next x id)) ∧
    exec (.l1wbAll i) s = .next ((t.l1Clean x.k fun _ => true).next x id) ∧
    ((t.l1Drop x.k (fun l => !l.locked) fun _ => true).coveredFills x.k (fun _ => true) = false →
      ∃ u : State, exec (.l1invAll i) s = .next u ∧ u = (t.l1Drop x.k (fun l => !l.locked) fun _ => true).next x id ∧
        ∀ l ∈ (u.coreOf x.k).l1, l.locked = true) ∧
    (∀ n, 0 < n → n ≤ 6 → ∃ u : State, exec (.l1lock i n) s = .next u ∧ u = (t.l1LockDo x.k n x.c.ctx).next x id ∧
      (u.coreOf x.k).lockN = n ∧ (u.coreOf x.k).lockCtx = x.c.ctx) ∧
    (∃ u : State, exec (.l1unlock i) s = .next u ∧ u = (t.modCore x.k Core.unlock).next x id ∧ (u.coreOf x.k).lockN = 0 ∧
      ∀ l ∈ (u.coreOf x.k).l1, l.locked = false)) ∧
  (∀ s i ra rl t x, State.mayIssue s i (regRun ra 2 ++ regRun rl 2) [] t x →
    exec (.l1wb i ra rl) s = .next ((t.l1Clean x.k (inLines (t.laneLines x ra rl))).next x id) ∧
    ((t.l1Drop x.k (fun l => inLines (t.laneLines x ra rl) l.line) (inLines (t.laneLines x ra rl))).coveredFills x.k
        (inLines (t.laneLines x ra rl)) = false →
      ∃ u : State, exec (.l1inv i ra rl) s = .next u ∧ ∀ l ∈ (u.coreOf x.k).l1, inLines (t.laneLines x ra rl) l.line = false)) ∧
  (∀ s i rd ra rl t x u, State.mayIssue s i (regRun ra 2 ++ regRun rl 2) [rd] t x →
    (laneList x.lanes).foldl (fun (y : State × Option (Nat × Nat × Nat)) j =>
      if y.2.isSome then y
      else
        match y.1.l1PreLane x j (x.regN j ra 8) (x.regN j rl 8) with
        | (s, m, none) => (s.modGroup x.k x.g.num fun g => g.land j rd 4 m, none)
        | (s, _, some f) => (s, some f)) (t, none) = (u, none) →
    exec (.l1pre i rd ra rl) s = .next (u.next x id)) ∧
  (∀ s die core line f, (State.coreOf s (32 * die + core)).fills.find? (fun f => decide (f.line = line) && f.ready) = some f →
    let u : State := s.modCore (32 * die + core) fun c => { c with
      fills := c.fills.erase f, loads := c.loads.map fun l => { l with lanes := l.lanes.map fun y => y.take f } }
    exec (.l1FillReturn die core line) s =
      .next ((if f.covered then u else u.l1Fill (32 * die + core) f).landLoads (32 * die + core))) ∧
  (∀ s die core e l, (State.coreOf s (32 * die + core)).evb = e :: l →
    ∃ u : State, exec (.evictionDrain die core) s = .next u ∧ (u.coreOf (32 * die + core)).evb = l)

/-- 03.8, 03.2, 03.6 (R85, R86, R101, R110 to R113, R245): a LAUNCH opens its launch on the cores that it uses; a block starts whole on a core
with room, its registers zero and its path at the entry; a kernel ends with its dirty bytes written back; a parked or late launch is
stopped; RESUME_GROUP aborts its launch or lets the parked lanes run again. -/
def Obligations.LaunchesComplete : Prop :=
  (∀ s id cores s0 c s1 args, (∃ c0, State.cmd s id = some c0 ∧ s.heldTiles c0 ≠ []) → State.mayRun s id 0x0301 s0 c →
    thas s0.launches c.id = false → checkStatus (launchChecks s0 (s0.settings c.epoch) c.panel c.raw) = 0 → c.lost = false →
    (cores.filter fun k => (s0.launchCores c.panel c.raw).contains k) ≠ [] → s0.readArgs c = (s1, some (.ok args)) →
    ∃ l : Launch, exec (.launch id cores) s = .next { s1 with launches := tput s1.launches c.id l } ∧ l.args = args ∧ l.next = 0 ∧
      l.done = 0 ∧ l.stopped = false ∧ l.status = 0 ∧ (∀ k, k ∈ l.cores ↔ k ∈ cores ∧ k ∈ s0.launchCores c.panel c.raw)) ∧
  (∀ s id die core c l, State.cmd s id = some c → tget s.launches id = some l → l.stopped = false → l.next < gridOf c.raw →
    l.cores.contains (32 * die + core) = true → (s.heldTiles c).contains (coreTile (32 * die + core)) = true →
    s.tileStops (32 * die + core) = false → (s.coreOf (32 * die + core)).halted = false →
    ((s.coreOf (32 * die + core)).launch = none ∨ (s.coreOf (32 * die + core)).launch = some id) →
    s.roomFor (32 * die + core) c.raw = true → c.id = id →
    ∃ t : State, exec (.blockStart id die core) s = .next t ∧ (t.coreOf (32 * die + core)).launch = some id ∧
      (t.coreOf (32 * die + core)).blocks = (s.coreOf (32 * die + core)).blocks ++ [⟨l.next, List.replicate 8 0, []⟩] ∧
      (∃ gs : List Group, (t.coreOf (32 * die + core)).groups = (s.coreOf (32 * die + core)).groups ++ gs ∧
        gs.length = blockThreads c.raw / 32 ∧ ∀ g ∈ gs, g.block = l.next ∧ g.live = 2 ^ 32 - 1 ∧ g.regs = [] ∧ g.parked = none ∧
          g.paths = [⟨2 ^ 32 - 1, w64 (leAt c.raw 16 8), [], 0, .none, none⟩]) ∧
      (tget t.launches id).map (fun l => l.next) = some (l.next + 1)) ∧
  (∀ s id die core c l, State.cmd s id = some c → tget s.launches id = some l → (s.coreOf (32 * die + core)).launch = some id →
    ((s.coreOf (32 * die + core)).blocks = [] ∨ l.stopped = true) → s.coreRemotes (32 * die + core) = false →
    ∃ t : State, exec (.kernelEnd id die core) s = .next t ∧ (t.coreOf (32 * die + core)).launch = none ∧
      (t.coreOf (32 * die + core)).groups = [] ∧ (t.coreOf (32 * die + core)).evb = [] ∧
      (∀ l ∈ (t.coreOf (32 * die + core)).l1, l.dirty = 0) ∧ ∀ r ∈ t.resvs, r.core ≠ 32 * die + core) ∧
  (∀ s id block group c k g p, State.cmd s id = some c → s.parkedGroup id block group = some (k, g, p) →
    1000 * parkLimit c.raw ≤ (s.time - p.since).toNat → exec (.parkTimeout id block group) s = .next (s.stopLaunch id 0x0401)) ∧
  (∀ s id die core c l b e, State.cmd s id = some c → tget s.launches id = some l →
    ((tget s.ctxs c.ctx).bind fun x => tget x.decls (hOperator c.raw)) = some (b, e) → (s.coreOf (32 * die + core)).launch = some id →
    s.isLc c = true → l.stopped = false → 1000 * b ≤ 2100 * (s.time - (s.coreOf (32 * die + core)).started).toNat →
    exec (.launchOverrun id die core) s = .next (s.stopLaunch id 0x0406)) ∧
  (∀ s id s0 c run k g p, State.mayRun s id 0x0302 s0 c → checkStatus (resumeGroupChecks s0 c.raw) = 0 →
    s0.resumed c.raw = some (run, k, g, p) →
    (bits (leAt c.raw 29 1) 1 0 = 1 → p.late = false → exec (.resumeGroup id) s = .next ((s0.modGroup k g.num fun y => { y with
      parked := none,
      paths := match y.paths with
        | q :: l => { q with only := some p.remain } :: l
        | [] => [] }).ended id 0)) ∧
    (bits (leAt c.raw 29 1) 1 0 = 1 → p.late = true → exec (.resumeGroup id) s =
      .next ((((s0.modGroup k g.num fun y => { y with parked := none }).askAgain k g.num run).landLoads k).ended id 0)) ∧
    (bits (leAt c.raw 29 1) 1 0 = 2 → exec (.resumeGroup id) s =
      .next ((s0.stopLaunch run.id (((tget s0.launches run.id).map fun l => l.first).getD p.status)).ended id 0)))

/-! ## Arrays and collectives -/

/-- 02.8, 02.4 (R45 to R79): a GEMM whose operands and results translate computes every row from what it read, writes it, and ends with
the notes and the beats of its sums; ACT_TABLE_LOAD fills its slot in every tile of the panel. -/
def Obligations.MatrixComplete : Prop :=
  (∀ s id (tiles : TileMask) s0 c l iss s1 aux s2 s3 g s4 s5 x, (∃ c0, State.cmd s id = some c0 ∧ s.heldTiles c0 ≠ []) →
    State.mayRun s id 0x0201 s0 c → l = maskBits tiles.toNat 48 → s0.loadBefore c = false → s0.tilesReady c l = true →
    checkStatus (gemmChecks s0 (s0.settings c.epoch) c.panel c.raw) = 0 → c.lost = false → iss = c.arrayIssuer (l.headD 0) →
    s0.readAux c iss = (s1, some (.ok aux)) →
    (hLc c.raw = true → (∀ y ∈ gemmReads c.raw aux, s1.farRange iss .read y.1 y.2 = false) ∧
      ∀ y ∈ gemmWrites c.raw aux, s1.farRange iss .write y.1 y.2 = false) →
    s1.awaitAll c.id iss (gemmReads c.raw aux) = (s2, false) → s2.gemmIn c iss aux = (s3, g) →
    s3.probeAll iss .write (gemmWrites c.raw aux) = (s4, none) → gemmFirstFault g = none →
    g.a.zipIdx.foldl (fun (y : State × GemmSum) a => y.1.gemmRow1 c iss aux g a.2 a.1 y.2) (s4, ⟨0, false, false, false, false⟩) = (s5, x) →
    ∃ (t : State) (st : Nat), s5.gemmEnd c l x = (t, some st) ∧ exec (.gemm id tiles) s = .next (t.ended id st) ∧
      (x.poison = true → 0x0302 ≤ st)) ∧
  (∀ s id s0 c s1 s2 b, State.mayRun s id 0x0202 s0 c → s0.gemmBefore c = false → checkStatus (actTableLoadChecks s0 c.raw) = 0 →
    c.lost = false → s0.await c.id { s0.dmaIssuer c with source := 3 } (leAt c.raw 16 8) (32 * leAt c.raw 25 1) = (s1, false) →
    s1.cmdRead c.id { s0.dmaIssuer c with source := 3 } (leAt c.raw 16 8) (32 * leAt c.raw 25 1) = (s2, ⟨b, false, none, false⟩) →
    exec (.actTableLoad id) s = .next (if tableOk b then (s2.fillSlot c.panel (leAt c.raw 24 1) b).ended id 0 else s2.ended id 0x0102))

/-- 07.9, 10.8 (R236, R237, R342, R343): once every member's COLL is there, and for a job's opening collective their hashes agree, a
collective's inputs are combined and its result written; a member with another hash ends the opening collective with 0x0108, and a
collective that is out of time ends with 0x0407. The other members' inputs are operands. -/
def Obligations.CollectivesComplete : Prop :=
  (∀ s id op s0 c j k, State.mayRun s id op s0 c → checkStatus (collChecks s0 c.raw) = 0 → c.lost = false → c.step ≠ 0 →
    s0.jobOf c.id = some j → j.cur = some k → (∀ i, i < k.members.length → i ≠ k.rank → (s0.collOf j k i).isSome = true) →
    ((j.open_ = true ∨ ∀ i m, i < k.members.length → i ≠ k.rank → s0.collOf j k i = some m → m.hash = k.hash) →
      let v := if j.open_ then s0 else s0.putJob { j with open_ := true }
      (op = 0x0405 → exec (.barrier id) s = .next ((v.closeColl { j with open_ := true } k.number).ended id 0)) ∧
      (∀ others s1 own l s2, op ∈ [0x0401, 0x0402, 0x0403, 0x0404] →
        (readsSrc c.raw k.rank = true → v.readWhole c (c.hubIssuer 5) (leAt c.raw 16 8) (kLen c.raw) = (s1, some (.ok own))) →
        (readsSrc c.raw k.rank = false → s1 = v ∧ own = []) → inputsOf c.raw k.members.length k.rank own others = some l →
        s1.probe (c.hubIssuer 5) .write (leAt c.raw 24 8) (collResult c.raw k.members.length k.rank l).1.length = (s2, none) →
        ∃ (t : State) (st : Nat), s2.cmdWrite c.id (c.hubIssuer 5) (leAt c.raw 48 2) (leAt c.raw 24 8)
            (collResult c.raw k.members.length k.rank l).1 = (t, st) ∧
          ∀ u : State, u = (t.closeColl { j with open_ := true } k.number).ended id
              (worse (collResult c.raw k.members.length k.rank l).2 st) →
            (op = 0x0401 → exec (.allReduce id others) s = .next u) ∧ (op = 0x0402 → exec (.reduceScatter id others) s = .next u) ∧
              (op = 0x0403 → exec (.allGather id others) s = .next u) ∧ (op = 0x0404 → exec (.broadcast id others) s = .next u))) ∧
    (j.open_ = false → (∃ i m, i < k.members.length ∧ i ≠ k.rank ∧ s0.collOf j k i = some m ∧ m.hash ≠ k.hash) →
      ∀ others (u : State), u = ((s0.closeColl j k.number).dropJob j).ended id 0x0108 →
        (op = 0x0401 → exec (.allReduce id others) s = .next u) ∧ (op = 0x0402 → exec (.reduceScatter id others) s = .next u) ∧
          (op = 0x0403 → exec (.allGather id others) s = .next u) ∧ (op = 0x0404 → exec (.broadcast id others) s = .next u) ∧
          (op = 0x0405 → exec (.barrier id) s = .next u))) ∧
  (∀ s id c j k, State.cmd s id = some c → hCls c.raw = 4 → c.phase = .running →
    1000000 * kTimeoutMs c.raw ≤ (s.time - c.tStart).toNat → s.jobOf id = some j → j.cur = some k →
    (j.open_ = true → exec (.collectiveTimeout id) s = .next ((s.closeColl j k.number).failColl id 0x0407)) ∧
    (j.open_ = false → exec (.collectiveTimeout id) s =
      .next ((((s.closeColl j k.number).dropJob j).dropRemotesOf fun r => decide (r.wait = .cmd id)).endCmd id 0x0407)))

/-! ## Row sequencers -/

/-- 08.2, 08.8 (R255 to R260, R277 to R280): RSQ_CONFIG configures the panel's sequencer from a descriptor and program that stand;
RSQ_START starts it with no sequence and every page free, or with what its structures hold; RSQ_STOP and POOL_RESIZE wait for the next
boundary; SEQ_CANCEL marks its sequence. -/
def Obligations.SequencerCommands : Prop :=
  (∀ s id s0 c s1 d s2 b, State.mayRun s id 0x0501 s0 c → checkStatus (rsqConfigChecks s0 c.raw) = 0 → c.lost = false →
    s0.readWhole c (s0.rsqIssuer c.panel c.ctx) (leAt c.raw 16 8) 256 = (s1, some (.ok d)) → descBad (rsqCfgOf c.raw d) d = false →
    s1.readWhole c (s0.rsqIssuer c.panel c.ctx) (leAt d 40 8) (256 * leAt d 70 2) = (s2, some (.ok b)) →
    s2.rsqCfgStatus c.panel c.ctx (rsqCfgOf c.raw d) (splitEvery 256 b (leAt d 70 2)) = 0 →
    ∃ (t : State) (r : Rsq), exec (.rsqConfig id) s = .next (t.ended id 0) ∧ tget t.rsqs c.panel = some r ∧ r.cfg = rsqCfgOf c.raw d ∧
      r.ctx = c.ctx ∧ r.prog = splitEvery 256 b (leAt d 70 2) ∧ r.pool = (rsqCfgOf c.raw d).poolPages ∧ r.seqs = [] ∧ r.run = none ∧
      t.rsqState c.panel = 1) ∧
  (∀ s id s0 c r, State.mayRun s id 0x0502 s0 c → checkStatus (rsqStartChecks s0 c.raw) = 0 → tget s0.rsqs c.panel = some r →
    (r.cfg.lcEn = true → ∀ k ∈ maskBits r.cfg.tiles 48, (s0.tile k).lc = none ∧ (s0.tile k).unit = none) →
    let own (t : State) : State := t.ownTiles (if r.cfg.lcEn then maskBits r.cfg.tiles 48 else []) (.seq c.panel)
    (∀ s1, bit (leAt c.raw 16 1) 0 = false → s0.publishRsq c.panel r.emptied = (s1, 0) →
      ∃ (t : State) (y : Rsq), exec (.rsqStart id) s = .next (t.ended id 0) ∧ t = ((own s1).setRsqState c.panel 2).putRsq c.panel y ∧
        y.stack = List.range r.pool ∧ y.seqs = [] ∧ y.lcOut = 0 ∧ y.row = 0 ∧ y.cfg = r.cfg) ∧
    (∀ s1 x, bit (leAt c.raw 16 1) 0 = true → s0.loadRsq c.panel r = (s1, .ok x) →
      exec (.rsqStart id) s = .next ((((own s1).setRsqState c.panel 2).putRsq c.panel { x with byFreeze := false }).ended id 0))) ∧
  (∀ s id s0 c, State.mayRun s id 0x0503 s0 c → c.step ≠ 1 → checkStatus (rsqStopChecks s0 c.raw) = 0 →
    (s0.rsqStarted c.panel = false → exec (.rsqStop id) s = .next ((s0.releaseSeqTiles c.panel).ended id 0)) ∧
    (s0.rsqStarted c.panel = true → ∀ r, tget s0.rsqs c.panel = some r →
      ∃ (t : State) (y : Rsq), exec (.rsqStop id) s = .next t ∧ tget t.rsqs c.panel = some y ∧
        y.stop = r.stop ++ [(bits (leAt c.raw 16 1) 1 0, c.id)])) ∧
  (∀ s id s0 c slot y, State.mayRun s id 0x0504 s0 c → checkStatus (seqCancelChecks s0 c.raw) = 0 → s0.cancelled c.raw = some (slot, y) →
    exec (.seqCancel id) s = .next ({ s0 with rsqs := tmod s0.rsqs (s0.ctxPanel c.raw) fun x =>
      { x with seqs := tmod x.seqs slot fun y => { y with cancelled := true } } }.ended id 0)) ∧
  (∀ s id s0 c r, State.mayRun s id 0x0505 s0 c → c.step ≠ 1 → checkStatus (poolResizeChecks s0 c.raw) = 0 →
    tget s0.rsqs c.panel = some r → r.resize = none →
    ∃ (t : State) (y : Rsq), exec (.poolResize id) s = .next t ∧ tget t.rsqs c.panel = some y ∧ y.resize = some (leAt c.raw 16 3, c.id))

/-- 08.4 to 08.6, 08.9 (R254, R259, R263 to R276, R281): an entry that passes its checks takes a slot and the next admission number, and one that
does not leaves only its record; a row's stages follow one another with a fence between, and the row ends after its last; a boundary
without a row to commit applies its resize, its leaves and then its stop or the next row; a failed row command halts the row. -/
def Obligations.SequencerEvents : Prop :=
  (∀ s q slot x s1 e n, State.queue s q = some x → x.typ = .seq → s.fetching = true → s.eligible q x = true → s.lcWaits x.panel = false →
    s.headEntry x = (s1, some e, n) → x.dups.find? (fun d => decide (d.tag = w32 (leAt e 0 4))) = none →
    (checkStatus (seqChecks s1 x e) = 0 → ∀ r, s1.feeds x = some r → r.seqs.length < r.cfg.slots → slot < r.cfg.slots →
      thas r.seqs slot = false →
      ∃ (t : State) (r' : Rsq) (y : SeqRec), exec (.seqEntryFetch q slot) s = .next t ∧ tget t.rsqs x.panel = some r' ∧
        tget r'.seqs slot = some y ∧ y.state = .waiting ∧ y.tag = w32 (leAt e 0 4) ∧ y.q = q ∧ y.entry = e ∧ y.admitNo = r.nextAdmit ∧
        r'.nextAdmit = r.nextAdmit + 1 ∧ r'.stack = r.stack ∧ (∀ i, i ≠ slot → tget r'.seqs i = tget r.seqs i) ∧
        (t.queue q).map (fun z => z.head) = some (x.pass 1).head) ∧
    (checkStatus (seqChecks s1 x e) ≠ 0 → exec (.seqEntryFetch q slot) s = .next
      ((s1.setQueue q { x.pass 1 with fetched := x.fetched + 1, dups := dupAdd x.dups (leAt e 0 4) none }).rejectSeq q x.ctx x.func (leAt e 0 4)
        (checkStatus (seqChecks s1 x e))))) ∧
  (∀ s p r x, tget (State.rsqs s) p = some r → r.run = some x → s.rsqStarted p = true → x.ended = false → r.fault = none → x.failed = [] →
    (r.toIssue x ≠ [] → exec (.rowStageIssue p) s = .next ((r.toIssue x).foldl (fun s i => s.issueEntry p i) s)) ∧
    (r.toIssue x = [] → x.issued = [] →
      (∀ i, i < r.prog.length → x.next ≤ i → eStage (r.prog.getD i []) ≠ x.stage) →
      (x.after = none → ∃ (t : State) (y : RowRun), exec (.rowStageIssue p) s = .next t ∧ y.ended = true ∧
        (tget t.rsqs p).map (fun r => r.run) = some (some y)) ∧
      (∀ stage step, x.after = some (stage, step) → exec (.rowStageIssue p) s = .next
        (((s.fenceScope r.ctx 2).1.putRsq p { r with run := some { x with
          stage := stage, step := step, next := (r.prog.findIdx? fun e => decide (eStage e = stage)).getD r.prog.length } }).issueStage p)))) ∧
  (∀ s p r, tget (State.rsqs s) p = some r → s.rsqStarted p = true → s.rowHeld p = false → r.run = none → r.resize = none →
    ∃ (t : State) (y : Rsq), t = s.leaveAll p ∧ tget t.rsqs p = some y ∧ y.cfg = r.cfg ∧
      ((∃ z ∈ y.stop, z.1 = 2) → exec (.rowBoundary p) s = .next (t.stopAt p 4)) ∧
      ((∀ z ∈ y.stop, z.1 ≠ 2) → t.rsqState p = 3 → y.seqs = [] → exec (.rowBoundary p) s = .next (t.stopAt p 1)) ∧
      ((∀ z ∈ y.stop, z.1 ≠ 2) → (t.rsqState p = 3 → y.seqs ≠ []) → exec (.rowBoundary p) s = .next (t.startRow p))) ∧
  (∀ s p r x, tget (State.rsqs s) p = some r → s.rsqStarted p = true → s.rowHeld p = false → r.run = some x →
    (∀ s1 l, r.fault = none → x.ended = true → s.rowOuts p r x = (s1, .ok l) →
      exec (.rowBoundary p) s = .next (s1.boundary p (some l))) ∧
    (∀ st stage entry, r.fault = some (st, stage, entry) → x.issued = [] → x.failed = [] →
      exec (.rowBoundary p) s = .next (s.haltRsq p st stage entry))) ∧
  (∀ s p id r x i st, tget (State.rsqs s) p = some r → r.run = some x → x.failed.find? (fun e => decide (e.1 = id)) = some (id, i, st) →
    ∃ (t : State) (y : Rsq), exec (.rowCommandFault p id) s = .next t ∧ tget t.rsqs p = some y ∧
      y.fault = some (r.fault.getD (st, eStage (r.prog.getD i []), i)) ∧ y.seqs = r.seqs)

/-! ## Resets, cast-on and supplies -/

/-- 13.3 to 13.7 (R421 to R427, R423): reset steps 1 to 3, by command, register or sideband. While no step is in progress an accepted
request does its step at once, says BUSY and ends when the step completes (the model's reading, log entry 28); a request that is refused
sets BAD; a step that takes too long says so and goes on. -/
def Obligations.LowerResetsComplete : Prop :=
  (∀ s id op s0 c (u : State), State.mayRun s id op s0 c → c.step = 0 → s0.boot ≠ .bindOff → s0.targetExists (resetOf c.raw) = true →
    s0.resetJob = none → u = s0.modCmd c.id (fun x => { x with step := 1 }) →
    (op = 0x080A → ∃ t : State, t = u.frog (leAt c.raw 16 2 % 4096) 0x0201 ∧ exec (.ctxFrog (.cmd id)) s =
      .next { t.setFld .HUB_RESET_STATUS_BUSY 0 1 with resetJob := some ⟨1, 0, leAt c.raw 16 2 % 4096, t.time, [c.id], false⟩ }) ∧
    (op = 0x080B → ∃ t : State, t = u.engineReset (leAt c.raw 16 1 % 4) (leAt c.raw 17 1 % 64) ∧ exec (.engineReset (.cmd id)) s =
      .next { t.setFld .HUB_RESET_STATUS_BUSY 0 1 with
        resetJob := some ⟨2, leAt c.raw 16 1 % 4, leAt c.raw 17 1 % 64, t.time, [c.id], false⟩ }) ∧
    (op = 0x080C → ∃ t : State, t = u.panelReset (leAt c.raw 16 1 % 64) ∧ exec (.panelReset (.cmd id)) s =
      .next { t.setFld .HUB_RESET_STATUS_BUSY 0 1 with resetJob := some ⟨3, 0, leAt c.raw 16 1 % 64, t.time, [c.id], false⟩ })) ∧
  (∀ s (v : W64) side (req : ResetReq), req = (if side then .sideband v else .reg v) →
    (State.resetRegOk s side v = true → s.resetJob = none →
      ((stepOfReg v).step = 1 → exec (.ctxFrog req) s = .next (s.startReset (stepOfReg v) [])) ∧
      ((stepOfReg v).step = 2 → exec (.engineReset req) s = .next (s.startReset (stepOfReg v) [])) ∧
      ((stepOfReg v).step = 3 → exec (.panelReset req) s = .next (s.startReset (stepOfReg v) []))) ∧
    (State.resetRegOk s side v = false → ∀ t : State,
      t = (s.setFld .HUB_RESET_STATUS_BAD 0 1).setFld .HUB_RESET_STATUS_LAST_RESULT 0 1 →
      ((stepOfReg v).step = 1 → exec (.ctxFrog req) s = .next t) ∧ ((stepOfReg v).step = 2 → exec (.engineReset req) s = .next t) ∧
        ((stepOfReg v).step = 3 → exec (.panelReset req) s = .next t) ∧
        (∀ b, (stepOfReg v).step = 4 → exec (.packageReset req b) s = .next t))) ∧
  (∀ s j, State.resetJob s = some j → j.overran = false → ∃ t : State, exec .resetOverrun s = .next t ∧
    t.resetJob = some { j with overran := true } ∧ t.fld .HUB_RESET_STATUS_LAST_RESULT 0 = 2)

/-- 13.8, 12.3, 16.6 (R428, R429, R399, R498): reset step 4 by register, sideband, FW_ACTIVATE or HP0's reset pin of at least 100 µs; the
function resets; the host ports' reset pins. -/
def Obligations.UpperResetsComplete : Prop :=
  (∀ s (v : W64) b side, State.resetRegOk s side v = true → (stepOfReg v).step = 4 →
    ∃ t : State, exec (.packageReset (if side then .sideband v else .reg v) b) s = .next t ∧ t = s.packageReset b ∧ t.resetJob = none ∧
      t.fld .HUB_RESET_STATUS_LAST_STEP 0 = 4 ∧ t.fld .HUB_RESET_STATUS_LAST_RESULT 0 = 0 ∧ t.cmds = [] ∧ t.rsqs = [] ∧ t.panels = []) ∧
  (∀ s id c b, State.cmd s id = some c → c.opcode = 0x0F06 → s.startable c = true → bit (leAt c.raw 16 1) 0 = true → s.boot = .ready →
    exec (.packageReset (.cmd id) b) s = .next ((s.preferOther c.raw).packageReset b)) ∧
  (∀ s ns b, (State.boot s = .ready → 100000 ≤ ns →
      exec (.hp0PerstAssert ns b) s = .next (((s.setHpReset 0 true).emit (.hostPort 0 false)).packageReset b)) ∧
    (State.boot s ≠ .ready ∨ ns < 100000 → exec (.hp0PerstAssert ns b) s = .next ((s.setHpReset 0 true).emit (.hostPort 0 false)))) ∧
  (∀ s, exec .hp1PerstAssert s =
    .next (((s.setHpReset 1 true).emit (.hostPort 1 false)).reclaim fun o _ => decide (o = 0x1331))) ∧
  (∀ s port, port < 2 → exec (.perstNDeassert port) s = .next (
    if s.pins.stage48 = true ∧ (port = 0 ∨ s.domainOn 102 = true) then (s.setHpReset port false).emit (.hostPort port true)
    else s.setHpReset port false)) ∧
  (∀ s f g, tget (State.funcs s) f = some g → (f = 0 → s.boot = .ready) → f ≤ 252 →
    ∃ t : State, (f = 0 → exec .flrPf0 s = .next t) ∧ (f ≠ 0 → exec (.flrVf f) s = .next t) ∧
      (∀ q x, t.queue q = some x → x.func = f → x.head = 0 ∧ x.tail = 0 ∧ x.armed = false ∧ x.faulted = false ∧ x.dups = []) ∧
      (∃ g', tget t.funcs f = some g' ∧ g'.m2tTail = 0 ∧ g'.t2mTail = 0 ∧ g'.apEn = false))

/-- 15.2 (R468): cast-on. A ROM that fails halts the package, flash that fails leaves it in recovery, and otherwise it waits for 48 V and
then goes on to READY, or to management only where the stage, the dies or the stacks do not come up. -/
def Obligations.CastOnComplete : Prop :=
  (∀ s b, State.boot s = .off → s.pins.trayRst = true →
    (b.romOk = false → ∃ t : State, exec (.castOn b) s = .next t ∧ t.boot = .halted ∧ t.fld .GLB_BOOT_STATUS_FAIL_STEP 0 = 2 ∧
      t.fld .GLB_BOOT_STATUS_CAUSE 0 = 0x21) ∧
    (b.romOk = true → b.flashOk = false → ∃ t : State, exec (.castOn b) s = .next t ∧ t.boot = .recovery ∧
      t.fld .GLB_BOOT_STATUS_RECOVERY 0 = 1 ∧ t.fld .GLB_BOOT_STATUS_CAUSE 0 = 0x32) ∧
    (b.romOk = true → b.flashOk = true → s.flash.a.good = true → b.copyABad = false → (s.flash.recordOk = true → s.flash.preferB = false) →
      ∃ t : State, exec (.castOn b) s = .next t ∧ t.boot = .vinWait ∧ t.fld .GLB_BOOT_STATUS_VIN_WAIT 0 = 1 ∧
        t.fld .GLB_BOOT_STATUS_STEP 0 = 4 ∧ t.cmds = [] ∧ t.mem.cells = [] ∧ t.boots = s.boots + 1)) ∧
  (∀ s b, State.boot s = .vinWait → b.stageOk = false → ∃ t : State, exec (.vin48InRange b) s = .next t ∧ t.boot = .mgmtOnly ∧
    t.fld .GLB_BOOT_STATUS_FAIL_STEP 0 = 5 ∧ t.fld .GLB_BOOT_STATUS_CAUSE 0 = 0x51) ∧
  (∀ s b, State.boot s = .vinWait → exec (.vin48InRange b) s = .next (s.bootRest true b []))

/-- 16.5, 11.8, 01.6, 15.7, 13.2 (R495, R383, R430, R480, R23, R483, R418): supply faults of the stated lengths, the thermal trip, the tray's
reset, the clocks, bind-off and a controller's fault. Shorter supply disturbances change nothing. -/
def Obligations.SupplyEvents : Prop :=
  (∀ s ns (t : State), State.supplyFault s = t →
    (20000 ≤ ns → exec (.vin48Undervoltage ns) s = .next t) ∧ (10000 ≤ ns → exec (.vin48Overvoltage ns) s = .next t) ∧
    (10000 ≤ ns → exec (.regulatorFault ns) s = .next t) ∧ (ns < 20000 → exec (.vin48Undervoltage ns) s = .next s) ∧
    (ns < 10000 → exec (.vin48Overvoltage ns) s = .next s ∧ exec (.regulatorFault ns) s = .next s) ∧
    (s.pins.stage48 = true → t.boot = .inputFault ∧ t.pins.stage48 = false ∧ t.cmds = [] ∧ t.queues = [] ∧ t.mem.cells = []) ∧
    (s.pins.stage48 = false → t = s)) ∧
  (∀ s ns, State.boot s ≠ .off → 10000 ≤ ns → ∃ t : State, exec (.v3p3Undervoltage ns) s = .next t ∧ t.boot = .off ∧ t.queues = [] ∧
    t.pins.trayRst = s.pins.trayRst) ∧
  (∀ s ns, 10000 ≤ ns → ∃ t : State, exec (.trayRstAssert ns) s = .next t ∧ t.boot = .off ∧ t.pins.trayRst = true ∧ t.queues = [] ∧
    t.mem.cells = []) ∧
  (∀ s ns, ns < 10000 → State.boot s ≠ .off → exec (.trayRstAssert ns) s = .next (s.incFld .SRV_INPUT_STATUS_RST_GLITCHES 0 1)) ∧
  (∀ s u v, u < 41 → tripC u ≤ v → State.boot s ≠ .off → s.pins.thermTrip = false → ∃ t : State, exec (.thermalTrip u v) s = .next t ∧
    t.boot = .tripped ∧ t.pins.thermTrip = true ∧ t.pins.stage48 = false ∧ t.queues = []) ∧
  (∀ s, State.boot s ≠ .off → s.fld .GLB_STATUS_CLK_HOLDOVER 0 = 0 → ∃ t : State, exec .clockHoldoverEnter s = .next t ∧
    t.fld .GLB_STATUS_CLK_HOLDOVER 0 = 1 ∧ t.pins.refBad = true) ∧
  (∀ s, State.fld s .GLB_STATUS_CLK_HOLDOVER 0 = 1 → ∃ t : State, exec .clockHoldoverExit s = .next t ∧
    t.fld .GLB_STATUS_CLK_HOLDOVER 0 = 0 ∧ t.pins.refBad = false ∧ t.mem = s.mem) ∧
  (∀ s d, d < 60 → bit (State.reg s .GLB_CLK_STATUS 0) d = true → ∃ t : State, exec (.pllLockLoss d) s = .next t ∧
    bit (t.reg .GLB_CLK_STATUS 0) d = false ∧ (d < 16 → t.stackLive d = false)) ∧
  (∀ s v (w : W64), (v = .pf0 ∨ v = .sideband) → State.boot s = .ready → bits w.toNat 63 48 = 0x424F →
    ∃ t : State, exec (.bindOff v w) s = .next t ∧ t.boot = .bindOff ∧ t.fld .SRV_BIND_OFF_BUSY 0 = 1 ∧ t.bindAt = s.time ∧
      t.drainMs = (if bits w.toNat 47 32 = 0 then 1000 else bits w.toNat 47 32)) ∧
  (∀ s, State.boot s = .bindOff → 1000000 * s.drainMs ≤ (s.time - s.bindAt).toNat →
    exec .bindOffDrainExpire s = .next (s.frogAll s.workCtxs 0x0201)) ∧
  (∀ s c, c < 27 → State.fld s .SRV_STATUS_STATE c = 2 → ∃ t : State, exec (.controllerFault c) s = .next t ∧ t.fld .SRV_STATUS_STATE c = 4)

/-! ## Observation and debug -/

/-- 14.2 to 14.5 (R443, R446 to R455): the observation commands and events. -/
def Obligations.ObservationComplete : Prop :=
  (∀ s id s0 c (i : Nat), State.mayRun s id 0x0901 s0 c → checkStatus (counterSetChecks s0 c.raw) = 0 →
    i = 8 * (leAt c.raw 16 2 % 1024) + leAt c.raw 18 1 % 8 → ∃ t : State, exec (.counterSet id) s = .next (t.ended id 0) ∧
      t.reg .OBS_PCTL i = leAt c.raw 24 8 ∧ (bit (leAt c.raw 18 1) 6 = true → t.reg .OBS_P i = leAt c.raw 32 8 % 2 ^ 48)) ∧
  (∀ s id s0 c, State.mayRun s id 0x0902 s0 c → checkStatus (snapshotChecks s0 c.raw) = 0 →
    ∃ (t : State) (st : Nat), exec (.snapshot id) s = .next (t.ended id st) ∧
      t.fld .OBS_STATUS_SNAP_COUNT 0 = (s0.fld .OBS_STATUS_SNAP_COUNT 0 + 1) % 2 ^ 32 ∧ t.fld .OBS_STATUS_SKEW_NS 0 ≤ 50 ∧
      (leAt c.raw 26 1 % 4 = 1 → t.fld .OBS_CTL_FREEZE 0 = 1) ∧ (leAt c.raw 26 1 % 4 = 2 → t.fld .OBS_CTL_FREEZE 0 = 0)) ∧
  (∀ s id s0 c, State.mayRun s id 0x0903 s0 c → checkStatus (samplerSetChecks s0 c.raw) = 0 →
    ∃ t : State, exec (.samplerSet id) s = .next (t.ended id 0) ∧ t.mem = s0.mem ∧
      (bit (leAt c.raw 16 1) 0 = false → t.reg .OBS_SMP_PTRS 0 = 0 ∧ t.fld .OBS_SMP_RING_ADDR 0 = leAt c.raw 24 8 ∧
        t.fld .OBS_SMP_CTL_PERIOD_US 0 = leAt c.raw 20 4 ∧ t.fld .OBS_SMP_CTL_EN 0 = b2n (bit (leAt c.raw 16 1) 1)) ∧
      (bit (leAt c.raw 16 1) 0 = true → t.reg .OBS_CSMP_PTRS 0 = 0 ∧ t.fld .OBS_CSMP_RING_ADDR 0 = leAt c.raw 24 8 ∧
        t.fld .OBS_CSMP_CTL_PERIOD 0 = leAt c.raw 20 4 ∧ t.fld .OBS_CSMP_CTL_EN 0 = b2n (bit (leAt c.raw 16 1) 1))) ∧
  (∀ s id s0 c, State.mayRun s id 0x0904 s0 c → checkStatus (stitchSetChecks s0 c.raw) = 0 →
    (leAt c.raw 16 1 % 4 = 1 → ∀ u held n, s0.heldPages (hCtx c.raw) (leAt c.raw 40 8)
        (max 1 (leAt c.raw 18 1) * (64 + ceilDiv (leAt c.raw 48 4) 64 * 64)) = (u, .ok held) →
      u.markNumber (hCtx c.raw) (leAt c.raw 17 1 % 16) = some n →
      ∃ (t : State) (m : Marker), exec (.stitchSet id) s = .next (t.ended id 0) ∧ tget t.marks n = some m ∧ m.armed = true ∧
        m.ctx = hCtx c.raw ∧ m.slot = leAt c.raw 17 1 % 16 ∧ m.left = max 1 (leAt c.raw 18 1) ∧ m.fired = 0 ∧ m.held = held) ∧
    (leAt c.raw 16 1 % 4 = 2 → ∃ t : State, exec (.stitchSet id) s = .next (t.ended id 0) ∧ t.mem = s0.mem ∧
      ∀ n, s0.slotMark (hCtx c.raw) (leAt c.raw 17 1 % 16) = some n → t.marks = tmod s0.marks n fun m => { m with armed := false })) ∧
  (∀ s n d t st, tget (State.dumps s) n = some d → s.dumpData d = (t, st) →
    exec (.dumpCopy n) s = .next ({ t with dumps := tdel t.dumps n }.endDump d st)) ∧
  (∀ s on skew, ∃ t : State, exec (.counterFreeze on skew) s = .next t ∧ t.fld .OBS_STATUS_FROZEN 0 = b2n on ∧
    t.fld .OBS_CTL_FREEZE 0 = b2n on ∧ t.fld .OBS_STATUS_SKEW_NS 0 = min 50 skew ∧ t.mem = s.mem) ∧
  (∀ s skew, State.fld s .OBS_SMP_CTL_EN 0 = 1 → s.now % (1000 * s.fld .OBS_SMP_CTL_PERIOD_US 0) = 0 → s.smpAt ≠ some s.time →
    (2 ^ s.fld .OBS_SMP_CTL_LOG2_ENTRIES 0 ≤ (w32 (s.fld .OBS_SMP_PTRS_TAIL 0) - w32 (s.fld .OBS_SMP_PTRS_HEAD 0)).toNat →
      ∃ t : State, exec (.samplerRecord skew) s = .next t ∧ t.mem = s.mem ∧ t.smpLost = true ∧
        t.fld .OBS_SMP_PTRS_TAIL 0 = s.fld .OBS_SMP_PTRS_TAIL 0) ∧
    (¬ 2 ^ s.fld .OBS_SMP_CTL_LOG2_ENTRIES 0 ≤ (w32 (s.fld .OBS_SMP_PTRS_TAIL 0) - w32 (s.fld .OBS_SMP_PTRS_HEAD 0)).toNat →
      ∀ b u v, { s with smpAt := some s.time }.snapRecord (s.fld .OBS_SMP_CTL_KINDS 0) (min 50 skew) s.smpLost s.frozenCounters = (b, u) →
      u.writePhysSt 63 (s.fld .OBS_SMP_RING_ADDR 0 + 64 * s.fld .OBS_SMP_RING_RECORD_64B 0 *
        (s.fld .OBS_SMP_PTRS_TAIL 0 % 2 ^ s.fld .OBS_SMP_CTL_LOG2_ENTRIES 0)) b = (v, 0) →
      exec (.samplerRecord skew) s =
        .next { v.setFld .OBS_SMP_PTRS_TAIL 0 ((s.fld .OBS_SMP_PTRS_TAIL 0 + 1) % 2 ^ 32) with smpLost := false })) ∧
  (∀ s die core group skid stalled, die < 12 → core < 32 → State.fld s .OBS_CSMP_CTL_EN 0 = 1 →
    bit (s.fld .OBS_CSMP_TILES_TILES 0) (coreTile (32 * die + core)) = true →
    (s.fld .OBS_CSMP_CTL_MODE 0 = 1 ∨
      s.fld .OBS_CSMP_CTL_PERIOD 0 ≤ s.reg .GC_ISSUED (32 * die + core) - tgetD s.csmpAt (32 * die + core) 0) →
    ∃ t : State, exec (.coreSample die core group skid stalled) s = .next t ∧
      tgetD t.csmpAt (32 * die + core) 0 = s.reg .GC_ISSUED (32 * die + core) ∧
      ((s.coreOf (32 * die + core)).groups = [] →
        t = ({ s with csmpAt := tput s.csmpAt (32 * die + core) (s.reg .GC_ISSUED (32 * die + core)) }.bump (unitCore die core) 15 1 none).incFld
          .OBS_CSMP_STATUS_IDLE 0 1)) ∧
  (∀ s, State.now s % (1000 * min 10000 (max 1 (s.fld .OBS_BW_CTL_WINDOW_US 0))) = 0 → s.bwAt ≠ some s.time →
    ∃ t : State, exec .bwWindow s = .next t ∧ t.bwAt = some s.time ∧ t.mem = s.mem ∧ t.free = s.free + 56)

/-- 14.8 (R461 to R463): halts, resumptions and steps of groups and cores that run no LC work, and the LC halt's enable and start. A halt of
a group that holds a reservation is deferred, and after 10 µs breaks it; LC work is refused. -/
def Obligations.DebugComplete : Prop :=
  (∀ s die core group g, State.findGroup s (32 * die + core) group = some g →
    (s.lcCore (32 * die + core) = false →
      (s.groupHalted (32 * die + core) g = false → g.deferred = none →
        ∃ (t : State) (h : Group), exec (.dbgHaltGroup die core group) s = .next t ∧ t.findGroup (32 * die + core) group = some h ∧
          (s.groupLocked (32 * die + core) group = false → h = { g with halted := true }) ∧
          (s.groupLocked (32 * die + core) group = true → h = { g with deferred := some s.time })) ∧
      (∃ (t : State) (h : Group), exec (.dbgStepGroup die core group) s = .next t ∧ t.findGroup (32 * die + core) group = some h ∧
        h = { g with halted := true, deferred := none, step := true })) ∧
    (s.lcCore (32 * die + core) = true → exec (.dbgHaltGroup die core group) s = .next s.refuseDebug ∧
      exec (.dbgStepGroup die core group) s = .next s.refuseDebug) ∧
    (∃ (t : State) (h : Group), exec (.dbgResumeGroup die core group) s = .next t ∧ t.findGroup (32 * die + core) group = some h ∧
      h = { g with halted := false, deferred := none, step := false }) ∧
    (∀ t0, g.deferred = some t0 → s.groupLocked (32 * die + core) group = true → 10000 ≤ (s.time - t0).toNat →
      ∃ (t : State) (h : Group), exec (.haltDeferTimeout die core group) s = .next t ∧ t.findGroup (32 * die + core) group = some h ∧
        h.halted = true ∧ h.lockBroken = true ∧ t.groupLocked (32 * die + core) group = false ∧ t.fld .DBG_STATUS_LOCK_BROKEN 0 = 1)) ∧
  (∀ s die core, die < 12 → core < 32 →
    (State.lcCore s (32 * die + core) = false → ∃ t : State, exec (.dbgHaltCore die core) s = .next t ∧
      (t.coreOf (32 * die + core)).halted = true) ∧
    (∃ t : State, exec (.dbgResumeCore die core) s = .next t ∧ (t.coreOf (32 * die + core)).halted = false ∧
      ∀ g ∈ (t.coreOf (32 * die + core)).groups, g.halted = false ∧ g.deferred = none ∧ g.step = false)) ∧
  (∀ s g i (v : W32), State.dbgReg s = some (g, i) →
    exec (.dbgRegAccess false v) s = .next (s.emit (.regData (w64 (tgetD g.regs i 0).toNat))) ∧
    exec (.dbgRegAccess true v) s = .next (s.modGroup s.dbgCore g.num fun x => { x with regs := tput x.regs i v })) ∧
  (∀ s t n c, tget (State.stepped s) t = some n → n % 2 = 0 → s.cmd (n / 2) = some c →
    exec (.dbgStepGo t) s = .next { s with stepped := tput s.stepped t (n + 1) }) ∧
  (∀ s, exec (.lcHaltEnable true) s = .next (s.setFld .DBG_CTL_LC_HALT_EN 0 1) ∧
    exec (.lcHaltEnable false) s = .next ((s.setFld .DBG_CTL_LC_HALT_EN 0 0).setFld .DBG_STATUS_LC_HALT_ACTIVE 0 0)) ∧
  (∀ s, State.fld s .DBG_CTL_LC_HALT_EN 0 = 1 → (∀ e ∈ s.cmds, hLc e.2.raw = true → e.2.row.isSome = true) →
    (∀ e ∈ s.rsqs, e.2.cfg.lcEn = true → s.rsqStarted e.1 = false) →
    exec .lcHaltActivate s = .next (s.setFld .DBG_STATUS_LC_HALT_ACTIVE 0 1))

/-! ## Migration, firmware and the outside -/

/-- 12.6 (R405 to R408): a freeze stops a function's fetching at once, holds its commands and ends, frozen, once nothing of it is left to wait for; a
thaw lets them go on; MIG_SAVE writes the image of a frozen function where it fits; MIG_RESTORE builds the function, frozen, from an
image that passes its checks. -/
def Obligations.MigrationComplete : Prop :=
  (∀ s id s0 c (u v : State), State.mayRun s id 0x0F01 s0 c → (c.step = 0 → checkStatus (migFreezeChecks s0 c.raw) = 0) →
    (c.step = 0 → bits (leAt c.raw 17 1) 1 0 = 2 → exec (.migFreeze id) s = .next ((s0.thaw (vfOf c.raw)).ended id 0)) ∧
    ((c.step = 0 → bits (leAt c.raw 17 1) 1 0 = 1) →
      u = (if c.step = 0 then (s0.modCmd c.id fun c => { c with step := 1 }).beginFreeze (vfOf c.raw) else s0) →
      ((∃ e ∈ u.rsqs, u.ctxFunc e.2.ctx = vfOf c.raw ∧ u.rsqStarted e.1 = true) → exec (.migFreeze id) s = .next u) ∧
      ((∀ e ∈ u.rsqs, u.ctxFunc e.2.ctx = vfOf c.raw → u.rsqStarted e.1 = false) →
        v = ((u.fnTiles (vfOf c.raw)).foldl (fun s t => s.requestStop t false false false true) u).holdCmds (vfOf c.raw) →
        exec (.migFreeze id) s = .next (if v.settled (vfOf c.raw) then
          ((v.fenceFn (vfOf c.raw)).setFnState (vfOf c.raw) 3).ended id 0 else v)))) ∧
  (∀ s id s0 c g n u, State.mayRun s id 0x0F02 s0 c → checkStatus (migSaveChecks s0 c.raw) = 0 → tget s0.funcs (vfOf c.raw) = some g →
    s0.fresh = (n, u) → (u.migImage (vfOf c.raw) g).length ≤ leAt c.raw 32 8 →
    ∀ v, u.writePhys u.hubWho 63 (leAt c.raw 24 8) (SavedMig.bytes ⟨n, u.migKeys n (u.migImage (vfOf c.raw) g), u.migImage (vfOf c.raw) g⟩) =
        (v, true) →
      ∃ t : State, exec (.migSave id) s = .next (t.ended id 0) ∧ t.fnState (vfOf c.raw) = (if (tget v.funcs (vfOf c.raw)).isSome then 4 else 0) ∧
        t.saved = v.saved ++ [⟨n, u.migKeys n (u.migImage (vfOf c.raw) g), u.migImage (vfOf c.raw) g⟩] ∧ t.mem = v.mem) ∧
  (∀ s id s0 c u m, State.mayRun s id 0x0F03 s0 c → checkStatus (migRestoreChecks s0 c.raw) = 0 →
    s0.readImage (leAt c.raw 24 8) = (u, .ok m) →
    exec (.migRestore id) s = .next (if checkStatus (u.imageChecks m) = 0 then (u.restoreImage m).ended id 0
      else u.ended id (checkStatus (u.imageChecks m))))

/-- 12.9, 15.4, 16.7, 12.1 (R413, R414, R477, R478, R500, R501, R470, R392): attestation, staging and activating firmware, SPDM and
PLDM on the sideband, and ATS invalidations. The bytes of an SPDM response are free. -/
def Obligations.FirmwareAndSideband : Prop :=
  (∀ s id s0 c s1 q n s2, State.mayRun s id 0x0F04 s0 c → checkStatus (attestChecks s0 c.raw) = 0 →
    s0.readPhys s0.hubWho 63 (leAt c.raw 16 8) (leAt c.raw 24 4) = (s1, some q) → s1.fresh = (n, s2) →
    (leAt c.raw 28 4 < (Config.spdmReply q n).length + 4 → exec (.attest id) s = .next (s2.ended id 0x0104)) ∧
    (∀ s3, (Config.spdmReply q n).length + 4 ≤ leAt c.raw 28 4 →
      s2.writePhys s2.hubWho 63 (leAt c.raw 32 8) (leBytes 4 (Config.spdmReply q n).length ++ Config.spdmReply q n) = (s3, true) →
      exec (.attest id) s = .next (s3.ended id 0))) ∧
  (∀ s id ok s0 c u b, State.mayRun s id 0x0F05 s0 c → s0.stageBytes c.raw = (u, .ok b) →
    (c.step = 0 → checkStatus (fwStageChecks s0 c.raw) = 0 → exec (.fwStage id ok) s =
      .next ((u.modCmd c.id fun c => { c with step := 1 }).eraseOther (bit (leAt c.raw 28 1) 0))) ∧
    (c.step ≠ 0 → ok = true → bit (leAt c.raw 28 1) 0 = true →
      exec (.fwStage id ok) s = .next ({ u with flash := { u.flash with image := b } }.ended id 0)) ∧
    (c.step ≠ 0 → ok = true → bit (leAt c.raw 28 1) 0 = false → ∀ v svn k, Config.fwBundle b = some (v, svn, k) →
      ∃ t : State, exec (.fwStage id ok) s = .next (t.ended id 0) ∧ (if u.otherIsB then t.flash.b else t.flash.a) = ⟨true, v, svn, k⟩ ∧
        t.fld .SRV_FW_STATUS_INACTIVE_VALID 0 = 1)) ∧
  (∀ s id s0 c, State.mayRun s id 0x0F06 s0 c → checkStatus (fwActivateChecks s0 c.raw) = 0 → bit (leAt c.raw 16 1) 0 = false →
    exec (.fwActivate id) s = .next ((s0.preferOther c.raw).ended id 0)) ∧
  (∀ s id c n u, State.cmd s id = some c → c.opcode = 0x0F06 → s.startable c = true → checkStatus (fwActivateChecks s c.raw) = 0 →
    bit (leAt c.raw 16 1) 0 = true → s.boot = .ready → s.fresh = (n, u) →
    exec (.fwActivate id) s = .next ((u.preferOther c.raw).packageReset (Config.bootInputs n))) ∧
  (∀ s bytes known, State.mgcUp s = true → ∃ (t : State) (b : List Byte), exec (.spdmRequest bytes known) s = .next t ∧
    t.out = s.out ++ [.spdm b] ∧ t.mem = s.mem ∧ t.regs = s.regs) ∧
  (∀ s (key : BitVec 256), State.mgcUp s = true →
    (s.reqCert = true → ∃ t : State, exec (.fleetKeySet key true) s = .next t ∧ t.mwk = 2 ^ 64 + key.toNat ∧
      t.fld .MGT_SEC_STATUS_MWK_FLEET 0 = 1 ∧ t.fld .MGT_SEC_STATUS_MWK_LOADED 0 = 1) ∧
    (∀ ok, ok = false ∨ s.reqCert = false → ∃ t : State, exec (.fleetKeySet key ok) s = .next t ∧ t.mwk = s.mwk ∧ t.regs = s.regs)) ∧
  (∀ s sid v, State.mgcUp s = true → s.pldmSensor sid = some v → exec (.pldmGetSensor sid) s = .next (s.emit (.pldm (w64 v)))) ∧
  (∀ s (v : W64), State.mgcUp s = true → s.boot ≠ .mgmtOnly →
    (checkStatus (capSetChecks s (effecterRaw (v.toNat % 2 ^ 16) 0)) = 0 →
      exec (.pldmSetEffecter 20 v) s = .next ((capSetDo s (effecterRaw (v.toNat % 2 ^ 16) 0)).pldmOk)) ∧
    (checkStatus (shedLevelSetChecks s (effecterRaw (v.toNat % 2 ^ 15) (bits v.toNat 15 15))) = 0 → exec (.pldmSetEffecter 21 v) s =
      .next ((shedLevelSetDo s (effecterRaw (v.toNat % 2 ^ 15) (bits v.toNat 15 15))).pldmOk)) ∧
    exec (.pldmSetEffecter 22 1) s = .next ((shedDo s).pldmOk) ∧ exec (.pldmSetEffecter 22 2) s = .next ((restoreDo s).pldmOk) ∧
    (s.resetRegOk true v = true → (stepOfReg v).step ≠ 4 →
      exec (.pldmSetEffecter 23 v) s = .next ((s.acceptReset (stepOfReg v) none).pldmOk)) ∧
    (bits v.toNat 63 48 = 0x424F → s.boot = .ready → exec (.pldmSetEffecter 24 v) s = .next ((bindOff .sideband v s).pldmOk))) ∧
  (∀ s image ok b, (State.boot s = .recovery → image = [] → ok = true →
      ∃ t x, s.pldmCopy = (t, x) ∧ exec (.pldmFwUpdate image ok b) s = .next (({ t with flash :=
        if s.flash.b.version.toNat < s.flash.a.version.toNat then { t.flash with b := x } else { t.flash with a := x } }.castAgain b).pldmOk)) ∧
    (State.mgcUp s = true → s.stageBusy = false → s.boot ≠ .bindOff → image ≠ [] → imgOk image = true →
      exec (.pldmFwUpdate image ok b) s = .next ({ s with flash := { s.flash with image := image } }.pldmOk))) ∧
  (∀ s f g va n, tget (State.funcs s) f = some g → exec (.atsInvalidation f va n) s = .next (if g.atsEn then s.emit (.atsDone f) else s))

/-- 14.7 (R458 to R460, R503): the test access port's instructions, and the debug access port. An instruction that drives pins acts as
BYPASS unless TRAY_RST_N is asserted; before an authorisation the port answers nothing but its identity. The bits that a capture of
the pins shifts out are free. -/
def Obligations.TestPorts : Prop :=
  (∀ s, exec .tapIdcode s = .next ({ s with tap := { s.tap with instr := 0x01, shift := w64 s.idcode } }.emit (.tap (w64 s.idcode))) ∧
    exec .tapReset s = .next ({ s with tap := { s.tap with instr := 0x01, shift := w64 s.idcode } }.emit (.tap (w64 s.idcode))) ∧
    exec .tapDap s = .next ({ s with tap := { s.tap with instr := 0x20, shift := 0 } }.emit (.tap 0)) ∧
    exec .tapClamp s = .next ({ s with tap := { s.tap with instr := 0x03, shift := 0 } }.emit (.tap 0)) ∧
    exec .tapHighz s = .next ({ s with tap := { s.tap with instr := 0x04, shift := 0 } }.emit (.tap 0)) ∧
    (∀ v, ∃ t : State, exec (.tapSamplePreload v) s = .next t ∧ t.tap.instr = 0x02 ∧ t.tap.preload = v ∧ t.mem = s.mem ∧ t.regs = s.regs) ∧
    (∃ t : State, exec .tapExtest s = .next t ∧ t.tap.instr = 0x00 ∧ t.tap.preload = s.tap.preload ∧
      (State.boundary1149 t = if s.pins.trayRst = true then some (some s.tap.preload) else none)) ∧
    (∀ code, tapListed code = false →
      exec (.tapBypass code) s = .next ({ s with tap := { s.tap with instr := code, shift := 0 } }.emit (.tap 0)))) ∧
  (∀ s serial ok, State.mgcUp s = true → s.tap.instr = 0x20 →
    (ok = true → serial = s.fuses.serial → exec (.dapAuthorise serial ok) s = .next (s.setFld .DBG_STATUS_AUTH 0 1)) ∧
    (ok = false ∨ serial ≠ s.fuses.serial → exec (.dapAuthorise serial ok) s = .next s)) ∧
  (∀ s a, State.mgcUp s = true → s.tap.instr = 0x20 →
    (s.fld .DBG_STATUS_AUTH 0 = 1 → exec (.dapAccess a) s = .next (s.dapDo a)) ∧
    (s.fld .DBG_STATUS_AUTH 0 ≠ 1 → s.isDbgId a = false → ∃ t : State, exec (.dapAccess a) s = .next t ∧
      t.fld .DBG_STATUS_REFUSED 0 = 1 ∧ t.mem = s.mem ∧ t.cmds = s.cmds))

/-- 12.2, 10.9 (R394, R348): an aperture access inside its window whose addresses translate is performed, and one that fails is counted, a
read aborted and a write dropped; a guest's request of a declared kind under a bound context is performed in this package, and any
other is refused. -/
def Obligations.OutsideAccesses : Prop :=
  (∀ s f off acc g iss u v, tget (State.funcs s) f = some g → g.apEn = true → off + accBytes acc ≤ 2 ^ 36 →
    (s.bump (unitHost 0) 4 1 none).outerIssuer g.apCtx = (iss, u) → u.probe iss (accNeed acc) (g.apBase + off) (accBytes acc) = (v, none) →
    (∀ n w b p, acc = .read n → v.outerRead iss (g.apBase + off) n = (w, some (b, p)) →
      exec (.hostApertureAccess f off acc) s = .next (w.emit (.memData b p))) ∧
    (∀ d h, acc = .write d h → exec (.hostApertureAccess f off acc) s = .next (v.seqWrite iss (g.apBase + off) d).1)) ∧
  (∀ s f off acc g, tget (State.funcs s) f = some g → (g.apEn = false ∨ 2 ^ 36 < off + accBytes acc) →
    ∃ (t : State) (h : Func), exec (.hostApertureAccess f off acc) s = .next t ∧ tget t.funcs f = some h ∧ h.apErr = sat 16 (g.apErr + 1) ∧
      t.mem = s.mem ∧ (∀ n, acc = .read n → t.out = s.out ++ [.abort]) ∧ (∀ d k, acc = .write d k → t.out = s.out)) ∧
  (∀ s site q u, site < 2 → State.fld s .GST_STATUS_STATE site = 4 → u = s.bump (unitGuest site) 2 1 none →
    (s.fld .GST_BIND_VALID site = 0 ∨ bit (s.fld .GST_CAP_TXN_REQ site) (reqTxn q) = false →
      exec (.guestRequest site q) s = .next (u.guestRefuse site 0x0301)) ∧
    (s.fld .GST_BIND_VALID site ≠ 0 → bit (s.fld .GST_CAP_TXN_REQ site) (reqTxn q) = true → ∀ iss v w,
      u.outerIssuer (u.fld .GST_BIND_CTX site) = (iss, v) → v.probe iss (reqNeed q) (reqVa q) (reqBytes q) = (w, none) →
      w.guestLocal iss q = true →
      (∀ a n x b p, q = .rdOnce a n → w.outerRead iss a.toNat n = (x, some (b, p)) →
        exec (.guestRequest site q) s = .next (x.emit (.guestData site b p))) ∧
      (∀ a d h x, (q = .wrLine a d h ∨ q = .wrPtl a d h) → w.seqWrite iss a.toNat d = (x, 0) →
        exec (.guestRequest site q) s = .next (x.emit (.guestAck site 0 0))) ∧
      (∀ a op n x y r l z old, q = .atomic a op n x y → w.xlate iss .atomic a.toNat = (r, .ok l) →
        r.atomicAt ((r.keyOf l.key).getD 0) (l.pa % 2 ^ 48) op n x.toNat y.toNat = (z, .ok old) →
        exec (.guestRequest site q) s = .next (z.emit (.guestAck site 0 (w64 old))))))

/-! ## Links, time and guest sites -/

/-- 10.2, 10.3 (R316, R321 to R323, R325 to R327, R352): a good flit in order is accepted and acknowledged, a bad one answered with one
NAK, a duplicate dropped and acknowledged again; replays, recovery and its failure; training, the comparison of TRAIN, and the loss of a
laser input. -/
def Obligations.LinkEvents : Prop :=
  (∀ s l f, l < 32 → (State.linkState s l = 1 ∨ s.linkState l = 2 ∨ s.linkState l = 3) →
    (f.good = false → (s.link l).nak = none → ∃ t : State, exec (.flitReceive l f) s = .next t ∧ (t.link l).nak = some s.time ∧
      (t.link l).expected = (s.link l).expected ∧ t.out = s.out ++ [.linkNak l] ∧ t.mem = s.mem) ∧
    (f.good = true → f.nak = false → f.idle = false → f.msgs = [] → f.seq = (s.link l).expected → (s.link l).waiting = [] →
      ∃ t : State, exec (.flitReceive l f) s = .next t ∧ (t.link l).expected = (s.link l).expected + 1 ∧ (t.link l).nak = none ∧
        t.out = s.out ++ [.linkAck l f.seq] ∧ t.mem = s.mem) ∧
    (f.good = true → f.nak = false → f.idle = false → f.seq ≠ (s.link l).expected → (s.link l).nak = none → (s.link l).waiting = [] →
      ∃ t : State, exec (.flitReceive l f) s = .next t ∧ (t.link l).expected = (s.link l).expected ∧
        t.out = s.out ++ [.linkAck l ((s.link l).expected - 1)] ∧ t.mem = s.mem)) ∧
  (∀ s l t0, (State.link s l).nak = some t0 → 8000 ≤ (s.time - t0).toNat →
    exec (.nakResend l) s = .next ((s.modLink l fun x => { x with nak := some s.time }).emit (.linkNak l))) ∧
  (∀ s l, l < 32 → 2 ≤ State.linkState s l → (s.link l).unacked ≠ [] → 8000 ≤ (s.time - (s.link l).progress).toNat →
    ∃ t : State, exec (.replayTimeout l) s = .next t ∧ t.out = s.out ++ (s.link l).unacked.map (fun f => .linkMsg l f.msg) ∧
      (t.link l).unacked = (s.link l).unacked ∧ (t.link l).sameReplays = (s.link l).sameReplays + 1) ∧
  (∀ s l loss, l < 32 → (State.linkState s l = 2 ∨ s.linkState l = 3) →
    (loss = true ∨ 16 ≤ (s.link l).sameReplays ∨ 100000 ≤ (s.time - (s.link l).lastGood).toNat) →
    ∃ t : State, exec (.linkRecovery l loss) s = .next t ∧ t.linkState l = 4 ∧ (t.link l).recovery = some s.time ∧
      (t.link l).unacked = (s.link l).unacked) ∧
  (∀ s l t0, (State.link s l).recovery = some t0 → s.linkState l = 4 → 10000000 ≤ (s.time - t0).toNat →
    exec (.linkRecoveryFail l) s = .next (s.linkDown l 5)) ∧
  (∀ s l n, l < 32 → State.fld s .LNK_CTL_ADMIN_UP l = 1 → s.oeOn l = true →
    (s.linkState l = 0 → (s.link l).tryAt.toNat ≤ s.now →
      (∃ t : State, exec (.linkTrain l (.ok n)) s = .next t ∧ t.linkState l = 1 ∧
        (t.link l).unacked.map (fun f => f.msg.body) = [.train s.ownPkg l 1 2 s.compat]) ∧
      (∃ t : State, exec (.linkTrain l (.fail n)) s = .next t ∧ t.linkState l = 0 ∧ t.fld .LNK_STATUS_DOWN_CAUSE l =
        n % 2 ^ (Fld.LNK_STATUS_DOWN_CAUSE.hi + 1 - Fld.LNK_STATUS_DOWN_CAUSE.lo) ∧ (t.link l).tryAt = s.time + 1000000000)) ∧
    (s.linkState l = 4 → ∃ t : State, exec (.linkTrain l (.ok n)) s = .next t ∧
      t.linkState l = (if s.fld .LNK_STATUS_MGMT_CAUSE l = 0 then 3 else 2) ∧ (t.link l).recovery = none ∧
      (t.link l).unacked = (s.link l).unacked)) ∧
  (∀ s l, l < 32 → exec (.linkRetrain l) s = .next ((s.linkDown l 0).modLink l fun x => { x with tryAt := s.time })) ∧
  (∀ s e w ns, e < 8 → w < 4 → 10000 ≤ ns → ∃ t : State, exec (.laserInputLoss e w ns) s = .next t ∧
    ∀ i, i < 4 → t.linkState (4 * e + i) = 0 ∧ bit (t.fld .LNK_OPTICS_LASER_OK (4 * e + i)) w = false) ∧
  (∀ s l pkg peer vlo vhi k, l < 32 → State.linkState s l = 1 → vlo ≤ 2 → 1 ≤ vhi → vlo ≤ vhi → ∃ t : State,
    exec (.ctlTrain l pkg peer vlo vhi k) s = .next t ∧
      t.linkState l = (if k = s.compat ∧ pkg ≠ s.ownPkg then 3 else 2) ∧ t.fld .LNK_STATUS_VERSION l = min 2 vhi ∧
      t.fld .LNK_STATUS_MGMT_CAUSE l = (if k ≠ s.compat then 1 else if pkg = s.ownPkg then 2 else 0)) ∧
  (∀ s l b, l < 32 → (State.linkState s l = 2 ∨ s.linkState l = 3) →
    exec (.ctlMgmt l b) s = .next { s with mctp := s.mctp ++ [(l, b)] })

/-- 06.4, 10.5, 10.8 (R194, R195, R333, R343): a refused request leaves again after 1 µs, one that has left and has no answer is resent up to 3 times and
then lost, as a write is at once; held FINALs of a stream are discarded after 1 ms; a COLL is kept and compared, and an ABORT fences the jobs of
its epoch. -/
def Obligations.RemoteAccessEvents : Prop :=
  (∀ s tag r, (State.remotes s).find? (fun r => decide (r.tag = tag)) = some r →
    (∃ t : State, exec (.ctlRefused tag) s = .next t ∧
      t.remotes.find? (fun r => decide (r.tag = tag)) = some { r with refused := some s.time }) ∧
    (∀ t0 u v, r.refused = some t0 → 1000 ≤ (s.time - t0).toNat →
      u = (s.modRemote tag fun x => { x with refused := none, sentAt := s.time }).incFld .LNK_G_STATUS_REFUSED 0 1 →
      u.inject (u.message r.pkg r.ctx tag r.msg) = some v → exec (.refusedResend tag) s = .next v) ∧
    (r.refused = none → s.unsent tag = false → s.e2eNs ≤ (s.time - r.sentAt).toNat →
      (r.kind = .write ∨ r.kind = .final ∨ 3 ≤ r.resends → exec (.e2eTimeout tag) s = .next (s.loseRemote r)) ∧
      (r.kind ≠ .write → r.kind ≠ .final → r.resends < 3 → ∀ v, s.inject (s.message r.pkg r.ctx tag r.msg) = some v →
        exec (.e2eTimeout tag) s = .next ((v.modRemote tag fun x => { x with resends := x.resends + 1, sentAt := v.time }).incFld
          .LNK_G_STATUS_E2E_RESENDS 0 1)))) ∧
  (∀ s pkg ctx stream t, State.findTracker s pkg ctx stream = some t → (∃ h ∈ t.held, 1000000 ≤ (s.time - h.since).toNat) →
    ∃ u : State, exec (.finalTimeout pkg ctx stream) s = .next u ∧ u.findTracker pkg ctx stream = none ∧ u.mem = s.mem) ∧
  (∀ s ctx epoch number digest hash rank, (∀ j ∈ State.jobs s, j.cur = none) →
    exec (.ctlColl ctx epoch number digest hash rank) s =
      .next { s with colls := s.colls ++ [⟨ctx, epoch, number, digest, hash, rank⟩] }) ∧
  (∀ s epoch, exec (.ctlAbort epoch) s =
    .next ((s.jobs.filter fun j => decide (j.epoch = epoch) && !j.fenced).foldl (fun s j => s.fenceJob j) s))

/-- 10.7 (R337 to R340, R480): an exchange with a peer on an UP link gives its offset and round trip; an UP link sends its TIME message; lock
returns after 10 ms within ±100 ns, and a package 10 ms in holdover is unlocked; a PPS edge that the filter takes is stamped. -/
def Obligations.TimeEvents : Prop :=
  (∀ s l t1 t2 t3 t4 root depth, State.linkUp s l = true → ∃ t u : State, exec (.ctlTime l t1 t2 t3 t4 root depth) s = .next t ∧
    u.fld .LNK_TIME_RTT l = sat 32 ((((t4 : Int) - t1) - ((t3 : Int) - t2)).toNat) ∧
    u.fld .LNK_TIME_OFFSET l = satSigned 32 (u.peer l).offset ∧
    ((u.peer l).offsets = ((((t2 : Int) - t1) - ((t4 : Int) - t3)) / 2 :: (s.peer l).offsets).take 64) ∧
    (u.chooseParent.fld .TMB_STATUS_PARENT_LINK 0 = l → t = u.chooseParent.follow l) ∧
    (u.chooseParent.fld .TMB_STATUS_PARENT_LINK 0 ≠ l → t = u.chooseParent)) ∧
  (∀ s l, State.linkUp s l = true → ∃ u : State, u = s.chooseParent ∧ exec (.timeExchange l) s = .next (u.enqueue l 0 (u.message 0 0 0
    (.time u.now (u.peer l).stamp (u.peer l).arrived u.ownRoot (u.fld .TMB_STATUS_DEPTH 0))))) ∧
  (∀ s t, (State.timebase s).good = some t → 10000000 ≤ (s.time - t).toNat → s.fld .TMB_STATUS_LOCKED 0 = 0 →
    exec .timeRelock s = .next ((s.setFld .TMB_STATUS_LOCKED 0 1).setFld .PWR_STATUS_GAUGE_LOCK_LOST 0 0)) ∧
  (∀ s t, (State.timebase s).lost = some t → 10000000 ≤ (s.time - t).toNat → s.timebase.told = false →
    s.fld .TMB_STATUS_HOLDOVER 0 = 1 → ∃ u : State, exec .timeHoldover s = .next u ∧ u.fld .TMB_STATUS_LOCKED 0 = 0 ∧
      u.fld .PWR_STATUS_GAUGE_LOCK_LOST 0 = 1 ∧ u.timebase.told = true) ∧
  (∀ s ns, (ns < 100 ∨ ∃ t, (State.pins s).lastPps = some t ∧ (s.time - t).toNat < 999000000) →
    exec (.ppsEdge ns) s = .next (s.incFld .SRV_INPUT_STATUS_PPS_DISCARDS 0 1)) ∧
  (∀ s ns, 100 ≤ ns → (∀ t, (State.pins s).lastPps = some t → 999000000 ≤ (s.time - t).toNat) → ∃ u : State,
    exec (.ppsEdge ns) s = .next u ∧ u.pins.lastPps = some u.time ∧ u.reg .TMB_PPS_TIME 0 = u.now ∧ u.mem = s.mem ∧
      (s.timebase.epochSet = false → u.time = s.time) ∧
      (s.isRoot = true → s.fld .TMB_CTL_PPS_EN 0 = 1 → s.timebase.epochSet = true → s.now < s.reg .TMB_EPOCH 0 * 1000000000 →
        s.reg .TMB_EPOCH 0 * 1000000000 < 2 ^ 64 → u.now = s.reg .TMB_EPOCH 0 * 1000000000))

/-- 10.9 (R345 to R347, R350): a populated, enabled site trains; a capability block that stands brings it into service, and any other, a
late block, a failed link, a cleared ENABLE or too much power isolates it. -/
def Obligations.GuestSites : Prop :=
  (∀ s site n c, State.sitePopulated s site = true → s.fld .GST_CTL_ENABLE site = 1 → s.fld .GST_STATUS_STATE site ≠ 4 →
    (∃ t : State, exec (.guestRetrain site (.ok n)) s = .next t ∧ t.fld .GST_STATUS_STATE site = 3 ∧ t.fld .GST_STATUS_CAUSE site = 0 ∧
      tgetD t.guestUp site 0 = s.time) ∧
    (∃ t : State, exec (.guestRetrain site (.fail c)) s = .next t ∧ t.fld .GST_STATUS_STATE site = 5)) ∧
  (∀ s site b, site < 2 → State.fld s .GST_STATUS_STATE site = 3 →
    (capCause b = 0 → ∃ t : State, exec (.ctlCap site b) s = .next t ∧ t.fld .GST_STATUS_STATE site = 4 ∧
      t.fld .GST_CAP_POWER_W site = leAt b 12 2 ∧ t.fld .GST_CAP_TXN_REQ site = bits (leAt b 5 1) 4 0 ∧ t.mem = s.mem) ∧
    (capCause b ≠ 0 → exec (.ctlCap site b) s = .next (s.isolateGuest site (capCause b))) ∧
    (10000000 ≤ (s.time - tgetD s.guestUp site 0).toNat → exec (.guestCapTimeout site) s = .next (s.isolateGuest site 3))) ∧
  (∀ s site, site < 2 → 2 ≤ State.fld s .GST_STATUS_STATE site → s.fld .GST_STATUS_STATE site ≤ 4 →
    exec (.guestIsolate site true) s = .next (s.isolateGuest site 9) ∧
    (s.fld .GST_CTL_ENABLE site = 0 → exec (.guestIsolate site false) s = .next (s.isolateGuest site 11))) ∧
  (∀ s site w ns, site < 2 → State.fld s .GST_STATUS_STATE site = 4 → 11 * s.fld .GST_CAP_POWER_W site < 10 * w → 1000000 ≤ ns →
    exec (.guestPowerExceeded site w ns) s = .next (s.isolateGuest site 10))

/-! ## The coherence protocol -/

/-- 05.4 to 05.6 (R170, R171, R177): a request that finds a tracker entry reaches its bank, and the bank carries forward what can go on; a
request without one waits at its port. On a bank with nothing at the line, every request but WR_LINE makes an entry and asks the home slice
for the line. An atomic or reduction of a device region is answered with 0x0301. -/
def Obligations.CoherenceRequests : Prop :=
  (∀ s h slice line, State.takesReq s { h with src := slice % 4 } line →
    exec (.rdShr h slice line) s = .next (s.requestServed ⟨{ h with src := slice % 4 }, line, .rdShr⟩ 15) ∧
    (∀ m, exec (.rdOwn h slice line m) s = .next (s.requestServed ⟨{ h with src := slice % 4 }, line, .rdOwn m⟩ 15)) ∧
    exec (.upgrade h slice line) s = .next (s.requestServed ⟨{ h with src := slice % 4 }, line, .upgrade⟩ 15)) ∧
  (∀ s h line, State.takesReq s h line →
    exec (.rdOnce h line) s = .next (s.requestServed ⟨h, line, .rdOnce⟩ 15) ∧
    (∀ d hint, d.length = 128 → exec (.wrLine h line d hint) s = .next (s.requestServed ⟨h, line, .wrLine d hint⟩ 15)) ∧
    (∀ m d hint, d.length = 128 → exec (.wrPtl h line m d hint) s = .next (s.requestServed ⟨h, line, .wrPtl m d hint⟩ 15)) ∧
    (∀ a op n x y rt, a / 128 = line → (n = 4 ∨ n = 8) → a % n = 0 → region (a % 2 ^ 48) = .hbm →
      exec (.atomic h a op n x y rt) s = .next (s.requestServed ⟨h, line, .atomic (a % 2 ^ 48) op n x y rt⟩ (2 ^ (a / 32 % 4)))) ∧
    (∀ sec rop e c k p rt, p.length = 128 → rop < 9 →
      exec (.addLine h line sec rop e c k p rt) s = .next (s.requestServed ⟨h, line, .addLine sec rop e c k p rt⟩ sec.toNat))) ∧
  (∀ s r sectors q, q = State.homeOf s r.line → s.bank q = [] → s.stalled q = [] → (∀ d n, r.op ≠ .wrLine d n) →
    ∃ t : State, s.requestServed r sectors = t ∧
      t.tracker = s.tracker ++ [⟨r.h.tag, portOf r.h.src, r.h.owner, r.h.ctx, r.line, s.time, sectors⟩] ∧
      t.net = s.net ++ [{ Msg.plain .snpFetch (bankAgent q) q r.line ReqHdr.hub with tag := r.h.tag }] ∧
      t.bank q = [⟨r.line, .di, 0, 0, some ⟨some r, [⟨q, .snpFetch, false, false⟩], 0, false, false⟩, []⟩] ∧
      t.mem = s.mem ∧ t.slices = s.slices ∧ t.out = s.out) ∧
  (∀ s h line slice, State.trackerRoom s (portOf h.src) = false →
    exec (.rdOnce h line) s = .next s ∧ (h.src = slice % 4 → exec (.rdShr h slice line) s = .next s ∧
      (∀ m, exec (.rdOwn h slice line m) s = .next s) ∧ exec (.upgrade h slice line) s = .next s)) ∧
  (∀ s h a op n x y rt, (n = 4 ∨ n = 8) → a % n = 0 → region (a % 2 ^ 48) ≠ .hbm → (∀ d o, region (a % 2 ^ 48) ≠ .dscr d o) →
    exec (.atomic h a op n x y rt) s = .next (s.refuseReq h (a / 128) 0x0301)) ∧
  (∀ s h line sec rop e c k p rt, p.length = 128 → rop < 9 → region (128 * localLine line) ≠ .hbm →
    exec (.addLine h line sec rop e c k p rt) s = .next (s.refuseReq h line 0x0301))

/-- 05.3, 05.6 (R165, Table 05-4, R160, R169, R172, R173, R182, R482): a slice's answers to the snoops that reach it, from its own state, its
write-back buffer and its own HBM alone; a snoop of a line under its hold waits in the hold table, and is answered when the hold ends. The
responses that end at a slice free what they answer for: WB_ACK the buffered line and a credit, CREDIT a credit, DIR_FREE the mirror bit,
and a line that the home kept in S is then its only copy. COMPLETE and a request's timeout end it at its issuer. -/
def Obligations.SliceAnswers : Prop :=
  (∀ s q line m t, State.snpBlocked s q line = false → (t.slice q).holding line = true →
    (s.recv .snpShr none (some q) line = some (m, t) → exec (.snpShr q line) s =
      .next (t.modSlice q fun x => { x with held := x.held ++ [(line, .snpShr, m.tag)] })) ∧
    (s.recv .snpInv none (some q) line = some (m, t) → exec (.snpInv q line) s =
      .next (t.modSlice q fun x => { x with held := x.held ++ [(line, .snpInv, m.tag)] }))) ∧
  (∀ s q line m t a, State.snpBlocked s q line = false → (t.slice q).holding line = false →
    (∀ l ∈ (t.slice q).wbuf, l.line ≠ line) → a = Msg.plain .invAck q (bankAgent (t.homeOf line)) line { ReqHdr.hub with tag := m.tag } →
    (s.recv .snpShr none (some q) line = some (m, t) →
      ((t.slice q).find line = none → ∃ u : State, exec (.snpShr q line) s = .next u ∧ u.net = t.net ++ [a] ∧ u.mem = s.mem ∧
        (u.slice q).lines = (s.slice q).lines) ∧
      (∀ l, (t.slice q).find line = some l → ∃ u : State, exec (.snpShr q line) s = .next u ∧ u.mem = s.mem ∧
        u.net = t.net ++ [{ a with kind := .data, dirty := if l.state = .m then l.dirty else 0, grant := some .s }] ∧
        (u.slice q).find line = some { l with state := .s, dirty := 0 })) ∧
    (s.recv .snpInv none (some q) line = some (m, t) →
      ((t.slice q).find line = none → ∃ u : State, exec (.snpInv q line) s = .next u ∧ u.net = t.net ++ [a] ∧ u.mem = s.mem ∧
        (u.slice q).lines = (s.slice q).lines) ∧
      (∀ l, (t.slice q).find line = some l → ∃ u : State, exec (.snpInv q line) s = .next u ∧ u.mem = s.mem ∧
        u.net = t.net ++ [if l.state = .s then a else { a with kind := .data, dirty := if l.state = .m then l.dirty else 0 }] ∧
        (u.slice q).find line = none))) ∧
  (∀ s q line m t, State.snpBlocked s q line = false → (t.slice q).holding line = false → (∃ l ∈ (t.slice q).wbuf, l.line = line) →
    (∀ k, k = .snpShr ∨ k = .snpInv → s.recv k none (some q) line = some (m, t) → ∃ u : State,
      exec (if k = .snpShr then .snpShr q line else .snpInv q line) s = .next u ∧ u.mem = s.mem ∧
      u.net = t.net ++ [Msg.plain .wbInFlight q (bankAgent (t.homeOf line)) line { ReqHdr.hub with tag := m.tag }])) ∧
  (∀ s q line ecc m t, State.recv s .snpFetch none (some q) line = some (m, t) →
    (∀ l, (t.slice q).find line = some l → ∃ u : State, exec (.snpFetch q line ecc) s = .next u ∧ u.mem = s.mem ∧
      u.net = t.net ++ [{ Msg.plain .data q (bankAgent (t.homeOf line)) line { ReqHdr.hub with tag := m.tag } with
        dirty := if l.state = .m then l.dirty else 0, grant := some .s }] ∧
      (u.slice q).find line = some { l with state := .s, dirty := 0 } ∧ (u.slice q).mirror.contains line = true) ∧
    ((t.slice q).find line = none → t.stackLive (t.hbmLoc (128 * localLine line)).1 = false → ∃ u : State,
      exec (.snpFetch q line ecc) s = .next u ∧ u.mem = s.mem ∧ (u.slice q).mirror.contains line = true ∧
      u.net = t.net ++ [Msg.plain .data q (bankAgent (t.homeOf line)) line { ReqHdr.hub with tag := m.tag }])) ∧
  (∀ s q line h, (State.slice s q).holds.find? (fun h => decide (h.line = line)) = some h → h.until_ ≤ s.now →
    exec (.holdExpire q line) s = .next (s.endHold q line)) ∧
  (∀ s slice pkg eng r, State.replay s slice pkg eng = some r → 1000000 ≤ (s.time - r.last).toNat →
    exec (.replayWindowExpire slice pkg eng) s = .next { s with replays := s.replays.filter fun x => !(decide (x = r)) }) ∧
  (∀ s q line m t, State.recv s .wbAck none (some q) line = some (m, t) → ∃ u : State, exec (.wbAck q line) s = .next u ∧
    (u.slice q).wbuf = (s.slice q).wbuf.filter (fun l => !(decide (l.line = line))) ∧
    (u.slice q).credit (s.homeOf line) = (s.slice q).credit (s.homeOf line) - 1 ∧
    (u.slice q).lines = (s.slice q).lines ∧ u.net = t.net ∧ u.mem = s.mem ∧ (∀ k, k ≠ q → u.slice k = s.slice k)) ∧
  (∀ s q bank m rest, takeMsg (fun m => decide (m.kind = .credit) && decide (m.dst = q) && decide (m.src = bankAgent bank))
      (State.net s) = some (m, rest) → ∃ u : State, exec (.credit q bank) s = .next u ∧ u.net = rest ∧
    (u.slice q).credit bank = (s.slice q).credit bank - 1 ∧ (∀ b, b ≠ bank → (u.slice q).credit b = (s.slice q).credit b) ∧
    (u.slice q).lines = (s.slice q).lines ∧ u.mem = s.mem ∧ (∀ k, k ≠ q → u.slice k = s.slice k)) ∧
  (∀ s q line m t, State.recv s .dirFree none (some q) line = some (m, t) → ∃ u : State, exec (.dirFree q line) s = .next u ∧
    (u.slice q).mirror.contains line = false ∧ u.net = t.net ∧ u.mem = s.mem ∧ (∀ k, k ≠ q → u.slice k = s.slice k) ∧
    (∀ l ∈ (u.slice q).lines, l.line = line → l.state ≠ .s)) ∧
  (∀ s tag m rest, takeMsg (fun m => decide (m.kind = .complete) && decide (m.tag = tag)) (State.net s) = some (m, rest) →
    ∃ u : State, exec (.complete tag) s = .next u ∧ u.net = rest ∧ u.tracker = s.tracker.filter (fun t => !(decide (t.tag = tag))) ∧
      u.mem = s.mem ∧ u.slices = s.slices ∧ u.dirs = s.dirs ∧
      u.out = s.out ++ (if (m.dst = 0x22 ∨ m.dst = 0x23) ∧ (∃ x ∈ s.tracker, x.tag = tag) then
        [.guestAck (m.dst - 0x22) m.status m.old] else [])) ∧
  (∀ s tag t0, (State.tracker s).find? (fun t => decide (t.tag = tag)) = some t0 →
    1000 * max 10 (min 100000 (s.fld .SRV_REQ_TIMEOUT_US 0)) ≤ (s.time - t0.since).toNat → ∃ u : State,
    exec (.requestTimeout tag) s = .next u ∧ u.tracker = s.tracker.filter (fun t => !(decide (t.tag = tag))) ∧ u.mem = s.mem ∧
      (t0.port = 6 → u.out = s.out ++ [.guestAck 0 0x0405 0]) ∧ (t0.port = 7 → u.out = s.out ++ [.guestAck 1 0x0405 0]) ∧
      (t0.port = 4 ∨ t0.port = 5 → ∃ b, u.out = s.out ++ [.memData b true]))

/-- 05.2, 05.6 (R164, R173, Table 05-10): the answers and data that reach a directory bank, and a grant or a cacheless reader's bytes at
their receiver. A crossing write-back ends once both its halves are here, and the bank then carries forward what can go on. -/
def Obligations.DirectoryAnswers : Prop :=
  (∀ s slice line m t q, State.recv s .invAck (some slice) none line = some (m, t) → q = s.homeOf line →
    (findDir (t.bank q) line = none → exec (.invAck slice line) s = .next t) ∧
    (∀ e x, findDir (t.bank q) line = some e → e.busy = some x → needsData e x = false →
      (x.waits.any fun w => decide (w.slice = slice) && decide (w.kind = .snpShr)) = false →
      exec (.invAck slice line) s = .next ((t.modTxn q line fun e y => { e with
        slices := setBits e.slices slice slice 0, state := if e.state = .dx then .di else e.state,
        busy := some { y with waits := dropWait x.waits slice true } }).settleAll q line)) ∧
    (∀ e x, findDir (t.bank q) line = some e → e.busy = some x →
      (needsData e x = true ∨ ∃ w ∈ x.waits, w.slice = slice ∧ w.kind = .snpShr) → (∀ w ∈ x.waits, w.kind ≠ .snpFetch) →
      exec (.invAck slice line) s = .next (((t.modTxn q line fun e y => { e with
        slices := setBits e.slices slice slice 0, state := if e.state = .dx then .di else e.state,
        busy := some { y with waits := dropWait x.waits slice true ++ [⟨q, .snpFetch, false, false⟩] } }).sendSnoop q line 0
          (q, .snpFetch)).settleAll q line))) ∧
  (∀ s slice line m t e w, State.recv s .wbInFlight (some slice) none line = some (m, t) →
    findDir (t.bank (s.homeOf line)) line = some e → snooped e slice = some w →
    (w.wbData = true → exec (.wbInFlight slice line) s = .next (t.crossed (s.homeOf line) slice line)) ∧
    (w.wbData = false → ∃ u : State, exec (.wbInFlight slice line) s = .next u ∧ u.net = t.net ∧ u.slices = s.slices ∧
      u.mem = s.mem)) ∧
  (∀ s slice line m t, State.recv s .wbData (some slice) none line = some (m, t) →
    (findDir (t.bank (s.homeOf line)) line = none ∨ (∃ e, findDir (t.bank (s.homeOf line)) line = some e ∧ snooped e slice = none) →
      exec (.wbData slice line) s = .next ((((t.modDir (s.homeOf line) line fun e =>
        { e with slices := setBits e.slices slice slice 0 }).send (Msg.plain .wbAck (bankAgent (s.homeOf line)) slice line ReqHdr.hub)).settleAll
          (s.homeOf line) line))) ∧
    (∀ e w, findDir (t.bank (s.homeOf line)) line = some e → snooped e slice = some w → w.wbFlight = false → ∃ u : State,
      exec (.wbData slice line) s = .next u ∧ u.net = t.net ∧ u.slices = s.slices ∧ u.mem = s.mem)) ∧
  (∀ s slice line m t, State.recv s .evictClean (some slice) none line = some (m, t) →
    exec (.evictClean slice line) s = .next (((if slice = s.homeOf line then t
      else t.send (Msg.plain .credit (bankAgent (s.homeOf line)) slice 0 ReqHdr.hub)).modDir (s.homeOf line) line fun e =>
        { e with slices := setBits e.slices slice slice 0 }).settleAll (s.homeOf line) line)) ∧
  (∀ s dst line m t, State.recv s .data none (some dst) line = some (m, t) →
    (0x10 ≤ dst → dst < 0x14 → exec (.data dst line) s = .next (t.snoopData (dst - 0x10) m)) ∧
    (∀ u, dst < 4 → t.fill dst (t.newLine m.hdr line (m.grant.getD .s) (if m.grant = some .m then m.dirty else 0)) = some u →
      (m.grant ≠ some .m → exec (.data dst line) s = .next ((u.untrack m.tag).granted (u.homeOf line) line)) ∧
      (m.grant = some .m → exec (.data dst line) s = .next (((u.modSlice dst fun x => { x with
        holds := x.holds ++ [⟨line, u.now + 64, m.hdr.ctx, m.hdr.owner⟩] }).untrack m.tag).granted (u.homeOf line) line))) ∧
    (0x14 ≤ dst → (∃ x ∈ t.tracker, x.tag = m.tag) → exec (.data dst line) s =
      .next ((((t.untrack m.tag).modDir (t.homeOf line) line fun e => { e with ports := e.ports &&& (7 - portBit dst) }).emit
        (.memData m.bytes (decide (m.poison ≠ 0)))).settleAll (t.homeOf line) line)))

/-! ## Rules of the whole block -/

/-- 14.4 (R451, R455): markers. Arming a slot gives it a new marker in place of the one it has, disarming disarms it, and no other marker
changes; arming a slot that has none while the package holds 1,024 markers is rejected with 0x0104. A slot is one of 16. DUMP copies at
once, as a firing with FIRING 0 and TAG, ROW and CMD_STATUS zero, and its status is that of the dump. -/
def Obligations.MarkerRules : Prop :=
  (∀ s id s0 c u held n, State.mayRun s id 0x0904 s0 c → checkStatus (stitchSetChecks s0 c.raw) = 0 → leAt c.raw 16 1 % 4 = 1 →
    s0.heldPages (hCtx c.raw) (leAt c.raw 40 8) (max 1 (leAt c.raw 18 1) * (64 + ceilDiv (leAt c.raw 48 4) 64 * 64)) = (u, .ok held) →
    s0.markNumber (hCtx c.raw) (leAt c.raw 17 1) = some n →
    leAt c.raw 17 1 < 16 ∧ ∃ (t : State) (m : Marker), exec (.stitchSet id) s = .next (t.ended id 0) ∧
      tget t.marks n = some m ∧ m.armed = true ∧ m.ctx = hCtx c.raw ∧ m.slot = leAt c.raw 17 1 ∧ m.fired = 0 ∧
      (∀ k, k ≠ n → tget t.marks k = tget s0.marks k) ∧
      (∀ k, s0.slotMark (hCtx c.raw) (leAt c.raw 17 1) = some k → k = n)) ∧
  (∀ s id s0 c, State.mayRun s id 0x0904 s0 c → checkStatus ((stitchSetChecks s0 c.raw).take 3) = 0 → leAt c.raw 16 1 % 4 = 1 →
    s0.slotMark (hCtx c.raw) (leAt c.raw 17 1) = none → (∀ i, i < 1024 → ∃ m, tget s0.marks i = some m ∧ m.armed = true) →
    checkStatus (stitchSetChecks s0 c.raw) = 0x0104 ∧ exec (.stitchSet id) s = .next (s0.ended id 0x0104)) ∧
  (∀ s id s0 c n, State.mayRun s id 0x0904 s0 c → checkStatus (stitchSetChecks s0 c.raw) = 0 → leAt c.raw 16 1 % 4 = 2 →
    s0.slotMark (hCtx c.raw) (leAt c.raw 17 1) = some n → ∃ (t : State) (m : Marker), exec (.stitchSet id) s = .next (t.ended id 0) ∧
      tget s0.marks n = some m ∧ tget t.marks n = some { m with armed := false } ∧
      ∀ k, k ≠ n → tget t.marks k = tget s0.marks k) ∧
  (∀ s id s0 c u held, State.mayRun s id 0x0905 s0 c → checkStatus (dumpChecks s0 c.raw) = 0 →
    s0.heldPages (hCtx c.raw) (leAt c.raw 24 8) (64 + ceilDiv (leAt c.raw 32 4) 64 * 64) = (u, .ok held) →
    ∃ (d : Dump) (t : State) (st : Nat), u.dumpData d = (t, st) ∧ d.ctx = hCtx c.raw ∧ d.src = leAt c.raw 16 8 ∧ d.dst = leAt c.raw 24 8 ∧
      d.len = leAt c.raw 32 4 ∧ d.name = w32 (leAt c.raw 36 4) ∧ d.firing = 0 ∧ d.tag = 0 ∧ d.row = 0 ∧ d.cmdStatus = 0 ∧ d.mark = none ∧
      d.held = held ∧ exec (.dump id) s = .next ((t.endDump d st).ended id st))

/-- 05 (R155, R161 to R173): the frame of the coherence protocol. Its rows change nothing but the caches, directories and messages between
them, memory at the lines' homes, the reservations that a write ends, what is sent outside, and counters and the power state of a stack's
interface; the rows that only answer or release leave every byte of memory, and every register, as they were. -/
def Obligations.ProtocolFrame : Prop :=
  (∀ s c t, protocolRow c = true → exec c s = .next t →
    t = { s with
      free := t.free, out := t.out, regs := t.regs, mem := t.mem, hbms := t.hbms, slices := t.slices, dirs := t.dirs, dirWait := t.dirWait,
      net := t.net, tracker := t.tracker, skein := t.skein, replays := t.replays, resvs := t.resvs }) ∧
  (∀ s c t, answerRow c = true → exec c s = .next t →
    t = { s with free := t.free, out := t.out, slices := t.slices, net := t.net, tracker := t.tracker, replays := t.replays })

/-- The frame of the rows that touch no memory: they change no byte of memory, no key, no context, no cache line, directory entry or
translation, no fault log entry and no setting. What else each kind of them may change is said with it. -/
def Obligations.QuietFrame : Prop :=
  (∀ s c t, quietRow c = true → exec c s = .next t →
    t.mem = s.mem ∧ t.keys = s.keys ∧ t.keyNext = s.keyNext ∧ t.blobs = s.blobs ∧ t.ctxs = s.ctxs ∧ t.slices = s.slices ∧ t.dirs = s.dirs ∧
    t.net = s.net ∧ t.tlbs = s.tlbs ∧ t.walks = s.walks ∧ t.faultLog = s.faultLog ∧ t.fltTail = s.fltTail ∧ t.panels = s.panels ∧
    t.epochs = s.epochs ∧ t.committed = s.committed ∧ t.applied = s.applied ∧ t.flash = s.flash ∧ t.fuses = s.fuses ∧ t.boot = s.boot ∧
    t.marks = s.marks ∧ t.routes = s.routes ∧ t.pending = s.pending ∧ t.nextCmd = s.nextCmd) ∧
  (∀ s c t, readRow c = true → exec c s = .next t → t = { s with free := t.free, out := t.out, regs := t.regs, hbms := t.hbms, funcs := t.funcs }) ∧
  (∀ s f v t, (exec (.mbxM2tTail f v) s = .next t ∨ exec (.mbxM2tHead f v) s = .next t ∨ exec (.mbxT2mTail f v) s = .next t ∨
      exec (.mbxT2mHead f v) s = .next t) →
    t = { s with out := t.out, funcs := t.funcs, msixPend := t.msixPend } ∧ ∀ g, g ≠ f → tget t.funcs g = tget s.funcs g) ∧
  (∀ s die core group t, (exec (.dbgHaltGroup die core group) s = .next t ∨ exec (.dbgResumeGroup die core group) s = .next t ∨
      exec (.dbgStepGroup die core group) s = .next t ∨ exec (.dbgHaltCore die core) s = .next t ∨
      exec (.dbgResumeCore die core) s = .next t) →
    t = { s with regs := t.regs, cores := t.cores } ∧ (∀ k, k ≠ 32 * die + core → t.coreOf k = s.coreOf k) ∧
      ∀ r i, i < 65536 → r ≠ .DBG_STATUS → t.reg r i = s.reg r i) ∧
  (∀ s c t, c ∈ [Instr.tapExtest, .tapIdcode, .tapClamp, .tapHighz, .tapDap, .tapReset] ∨ (∃ v, c = .tapSamplePreload v) ∨
      (∃ k, c = .tapBypass k) → exec c s = .next t → t = { s with free := t.free, out := t.out, tap := t.tap })

/-- The frame of the core instructions that only compute with registers or branch: one that issues changes no memory, nothing of another core
or of another group, and no register but its destinations, the issue and event counts, and what its fetch's translation counts, wakes or
caches. -/
def Obligations.CoreRegisterFrame : Prop :=
  ∀ s c i src dst t x u, regRow c = some (i, src, dst) → State.mayIssue s i src dst t x → i.die < 12 → i.core < 32 →
    exec c s = .next u →
    u = { s with
      free := u.free, regs := u.regs, tlbs := u.tlbs, walks := u.walks, cores := u.cores, launches := u.launches, resvs := u.resvs } ∧
    (∀ k, k ≠ x.k → u.coreOf k = s.coreOf k) ∧ (∀ n, n ≠ x.g.num → u.findGroup x.k n = s.findGroup x.k n) ∧
    (∃ g, u.findGroup x.k x.g.num = some g ∧
      ∀ n, (∀ j, j < 32 → bit x.lanes j = true → ∀ rd ∈ dst, n ≠ 256 * j + rd) → tgetD g.regs n 0 = tgetD x.g.regs n 0) ∧
    ∀ r n, n < 65536 → r ∉ [Reg.GC_ISSUED, .OBS_F, .OBS_P, .XLT_COUNTS, .PWR_DOMAIN_ON, .HBM_STK_STATUS] → u.reg r n = s.reg r n

/-- 05.2, 03.3, 05.9 (R164, R177, R89): what two forms store, and that they store nowhere else. A WR_LINE whose line has no entry at its bank
puts its bytes in the line's 128 bytes under its key, and an atomic in die scratch puts its result in its word and answers the old value;
every other byte of memory reads as before. -/
def Obligations.StoresFrame : Prop :=
  (∀ s h line d q a, State.takesReq s h line → d.length = 128 → q = s.homeOf line → s.bank q = [] → s.stalled q = [] →
    a = 128 * localLine line → ∃ u : State, exec (.wrLine h line d 0) s = .next u ∧
      (∀ k b, b < a ∨ a + 128 ≤ b → u.mem.byte k b = s.mem.byte k b ∧ u.mem.plainByte b = s.mem.plainByte b) ∧
      (s.mem.wf = true → (∀ i, i < 4 → s.hbmOos (a + 32 * i) = false) →
        ∀ i, i < 128 → u.mem.byte ((s.keyOf h.key).getD 0) (a + i) = d.getD i 0)) ∧
  (∀ s h addr op n x y a die o, (n = 4 ∨ n = 8) → (op = .fadd → n = 4) → addr % n = 0 → a = addr % 2 ^ 48 → region a = .dscr die o →
    (∀ e ∈ State.skein s, e.line ≠ a / 128) → s.mem.wf = true → ∃ u : State, exec (.atomic h addr op n x y none) s = .next u ∧
      leNat (u.mem.readPlain a n) =
        atomNew op n (leNat (s.mem.readPlain a n)) x.toNat y.toNat % 2 ^ (8 * n) ∧
      u.net = s.net ++ [{ Msg.plain .complete 0x38 h.src (addr / 128) h with status := 0, old := w64 (leNat (s.mem.readPlain a n)) }] ∧
      (∀ b, b < a ∨ a + n ≤ b → u.mem.plainByte b = s.mem.plainByte b) ∧
      ∀ k b, region b = .hbm → u.mem.byte k b = s.mem.byte k b)

/-- A step takes the command at the front of the queue and runs it with the queue's rest; with none waiting, the package's clock
ticks (the model's choice, log entries 1 and 17). No word spells a command, as the opcode table gives no row any bits. -/
def Obligations.StepRunsCommand : Prop :=
  (∀ s c rest, State.pending s = c :: rest → step s = exec c { s with pending := rest }) ∧
  (∀ s c, step { s with pending := c :: State.pending s } = exec c s) ∧
  (∀ s, State.pending s = [] → step s = .next s.tick) ∧
  (∀ s nbits w, decodeTableWord nbits w = none ∧ State.withFetchWord s nbits w = s)

/-- The package before cast-on: every register reads its reset value (the tables' reset columns give those below; every other is zero), no
object exists, and memory is in canonical form with nothing listed. What the fuses and the flash hold is the model's choice
(log entries 13 and 14). -/
def Obligations.ResetState : Prop :=
  State.reset.mem.wf = true ∧ State.reset.mem.cells = [] ∧ State.reset.mem.sect = [] ∧
  (∀ r i, State.reset.reg r i = match r with
    | .ARR_CONFIG => 0x10000
    | .HBM_PICOT_CTL => 2
    | .HBM_G_CTL => 0x10002008
    | .UCC_CTL => 0x1C8
    | .UCC_SLICE_STATUS => 0x10000000000000
    | .QUE_POOL => 0x40000
    | .QUE_STATUS => 2
    | .PNL_EPOCH => 0x100000001
    | .PNL_CFG_CTL => 10
    | .PNL_COMPACT => 1
    | .LNK_G_CTL => 200
    | .PWR_POLICY => 0x10100
    | .PWR_FILL => 326
    | .PWR_THERMAL_CTL => 0x645F
    | .PWR_PANEL => 2
    | .HUB_FLT_CTL => 0xFFF0
    | .OBS_BW_CTL => 1000
    | .TMB_STATUS => 0xFFF000
    | .GST_CTL => 4
    | .SRV_REQ_TIMEOUT => 1000
    | _ => 0) ∧
  State.reset.pending = [] ∧ State.reset.queues = [] ∧ State.reset.ctxs = [] ∧ State.reset.cmds = [] ∧ State.reset.panels = [] ∧
  State.reset.keys = [] ∧ State.reset.slices = [] ∧ State.reset.net = [] ∧ State.reset.faultLog = [] ∧ State.reset.committed = 1 ∧
  State.reset.applied = 1 ∧ State.reset.time = 0 ∧ State.reset.fuses.raisesLeft = 32 ∧ State.reset.fuses.hubVersion = 2

/-- An invariant that every step keeps: memory stays in its canonical form, the listed bytes in rising order and none equal to what an
unlisted address reads as. That it holds at reset is in ResetState. -/
def Obligations.StepKeepsMemory : Prop :=
  ∀ s t, (State.mem s).wf = true → step s = .next t → t.mem.wf = true
end

