-- ==== Sys2Proof/Laws/Tab.lean ====
section
/-! SUPPORT. Laws of the sparse tables: what a read gives after a write or a deletion, and that every operation keeps the keys
strictly rising. -/

namespace Sys2Proof.Machine

variable {α : Type}

@[simp] theorem tget_tput_same (t : Tab α) (n : Nat) (x : α) : tget (tput t n x) n = some x := by
  induction t with
  | nil => simp [tput, tget]
  | cons e t ih =>
    rcases e with ⟨k, v⟩
    by_cases h : n < k
    · simp [tput, tget, h]
    · by_cases h' : n = k
      · simp [tput, tget, h']
      · simp [tput, tget, h, h', ih]

theorem tget_tput_ne (t : Tab α) {n m : Nat} (x : α) (hm : m ≠ n) : tget (tput t n x) m = tget t m := by
  induction t with
  | nil => simp [tput, tget, hm]
  | cons e t ih =>
    rcases e with ⟨k, v⟩
    by_cases h : n < k
    · simp [tput, tget, h, hm]
    · by_cases h' : n = k
      · subst h'; simp [tput, tget, hm]
      · simp [tput, tget, h, h', ih]

theorem tget_tput (t : Tab α) (n m : Nat) (x : α) : tget (tput t n x) m = if m = n then some x else tget t m := by
  by_cases h : m = n
  · simp [h]
  · simp [h, tget_tput_ne t x h]

theorem tget_tdel_ne (t : Tab α) {n m : Nat} (hm : m ≠ n) : tget (tdel t n) m = tget t m := by
  induction t with
  | nil => rfl
  | cons e t ih =>
    rcases e with ⟨k, v⟩
    by_cases h : n = k
    · subst h; simp [tdel, tget, hm]
    · simp [tdel, tget, h, ih]

theorem tget_tmod_same (t : Tab α) (n : Nat) (f : α → α) : tget (tmod t n f) n = (tget t n).map f := by
  unfold tmod; cases h : tget t n <;> simp [h]

theorem tget_tmod_ne (t : Tab α) {n m : Nat} (f : α → α) (hm : m ≠ n) : tget (tmod t n f) m = tget t m := by
  unfold tmod; cases h : tget t n <;> simp [tget_tput_ne _ _ hm]

@[simp] theorem tgetD_tput_same (t : Tab α) (n : Nat) (x d : α) : tgetD (tput t n x) n d = x := by simp [tgetD]

theorem tgetD_tput_ne (t : Tab α) {n m : Nat} (x d : α) (hm : m ≠ n) : tgetD (tput t n x) m d = tgetD t m d := by
  simp [tgetD, tget_tput_ne t x hm]

/-! ### Keys strictly rising -/

theorem tsortedFrom_mono {lo lo' : Nat} (t : Tab α) (hl : lo' ≤ lo) (h : tsortedFrom lo t = true) : tsortedFrom lo' t = true := by
  cases t with
  | nil => rfl
  | cons e t =>
    simp [tsortedFrom] at *
    exact ⟨by omega, h.2⟩

theorem tget_below {lo n : Nat} (t : Tab α) (h : tsortedFrom lo t = true) (hn : n < lo) : tget t n = none := by
  induction t generalizing lo with
  | nil => rfl
  | cons e t ih =>
    simp [tsortedFrom] at h
    have : n ≠ e.1 := by omega
    rcases e with ⟨k, v⟩
    simp [tget, this]
    exact ih h.2 (by simp at h; omega)

theorem tsortedFrom_tput {lo n : Nat} (t : Tab α) (x : α) (hl : lo ≤ n) (h : tsortedFrom lo t = true) :
    tsortedFrom lo (tput t n x) = true := by
  induction t generalizing lo with
  | nil => simp [tput, tsortedFrom, hl]
  | cons e t ih =>
    rcases e with ⟨k, v⟩
    simp [tsortedFrom] at h
    by_cases h1 : n < k
    · have h2 := h.2
      simp [tput, h1, tsortedFrom, hl, h2]
    · by_cases h' : n = k
      · subst h'; simp [tput, tsortedFrom, h]
      · simp [tput, h1, h', tsortedFrom, h.1]
        exact ih (by omega) h.2

theorem tsorted_tput (t : Tab α) (n : Nat) (x : α) (h : tsorted t = true) : tsorted (tput t n x) = true :=
  tsortedFrom_tput t x (Nat.zero_le _) h

theorem tsortedFrom_tdel {lo : Nat} (t : Tab α) (n : Nat) (h : tsortedFrom lo t = true) : tsortedFrom lo (tdel t n) = true := by
  induction t generalizing lo with
  | nil => rfl
  | cons e t ih =>
    rcases e with ⟨k, v⟩
    simp [tsortedFrom] at h
    by_cases h' : n = k
    · simp [tdel, h']; exact tsortedFrom_mono t (by omega) h.2
    · simp [tdel, h', tsortedFrom, h.1, ih h.2]

theorem tsorted_tdel (t : Tab α) (n : Nat) (h : tsorted t = true) : tsorted (tdel t n) = true := tsortedFrom_tdel t n h

theorem tsortedFrom_filter {lo : Nat} (t : Tab α) (p : Nat × α → Bool) (h : tsortedFrom lo t = true) :
    tsortedFrom lo (t.filter p) = true := by
  induction t generalizing lo with
  | nil => rfl
  | cons e t ih =>
    rcases e with ⟨k, v⟩
    simp [tsortedFrom] at h
    by_cases hp : p (k, v)
    · simp [hp, tsortedFrom, h.1, ih h.2]
    · simp [hp]; exact tsortedFrom_mono _ (by omega) (ih h.2)

theorem tsorted_filter (t : Tab α) (p : Nat × α → Bool) (h : tsorted t = true) : tsorted (t.filter p) = true :=
  tsortedFrom_filter t p h

theorem tsorted_tmod (t : Tab α) (n : Nat) (f : α → α) (h : tsorted t = true) : tsorted (tmod t n f) = true := by
  unfold tmod
  cases tget t n with
  | none => exact h
  | some v => exact tsorted_tput t n (f v) h

theorem tsorted_tupd (t : Tab α) (n : Nat) (d : α) (f : α → α) (h : tsorted t = true) : tsorted (tupd t n d f) = true :=
  tsorted_tput t n _ h

theorem tget_tdel_same (t : Tab α) (n : Nat) (h : tsorted t = true) : tget (tdel t n) n = none := by
  unfold tsorted at h
  generalize 0 = lo at h
  induction t generalizing lo with
  | nil => rfl
  | cons e t ih =>
    rcases e with ⟨k, v⟩
    simp [tsortedFrom] at h
    by_cases h' : n = k
    · subst h'; simp [tdel]; exact tget_below t h.2 (by omega)
    · simp [tdel, tget, h']; exact ih _ h.2

end Sys2Proof.Machine
end

