-- ==== Sys2Proof/Laws/Mem.lean ====
section
/-! SUPPORT. Laws of memory: every operation keeps the canonical form, and a read gives what the last write to the same place
wrote. -/

namespace Sys2Proof.Machine

/-! ### Cells -/

theorem cellsWf_mono {lo lo' : Nat} (l : List Host.Cell) (hl : lo' ≤ lo) (h : cellsWf lo l = true) : cellsWf lo' l = true := by
  cases l with
  | nil => rfl
  | cons e t =>
    simp [cellsWf] at *
    exact ⟨⟨by omega, h.1.2⟩, h.2⟩

theorem cellGet_below {lo a : Nat} (l : List Host.Cell) (h : cellsWf lo l = true) (ha : a < lo) : cellGet l a = unlisted a := by
  induction l generalizing lo with
  | nil => rfl
  | cons e t ih =>
    rcases e with ⟨k, v⟩
    simp [cellsWf] at h
    have : a ≠ k := by omega
    simp [cellGet, this]
    exact ih h.2 (by omega)

theorem cellsWf_del {lo : Nat} (l : List Host.Cell) (a : Nat) (h : cellsWf lo l = true) : cellsWf lo (cellDel l a) = true := by
  induction l generalizing lo with
  | nil => rfl
  | cons e t ih =>
    rcases e with ⟨k, v⟩
    simp [cellsWf] at h
    by_cases h' : a = k
    · simp [cellDel, h']; exact cellsWf_mono t (by omega) h.2
    · simp [cellDel, h', cellsWf, h.1, ih h.2]

theorem cellsWf_ins {lo : Nat} (l : List Host.Cell) (a : Nat) (b : Byte) (hl : lo ≤ a) (hb : unlisted a ≠ some b)
    (h : cellsWf lo l = true) : cellsWf lo (cellIns l a b) = true := by
  induction l generalizing lo with
  | nil => simp [cellIns, cellsWf, hl, hb]
  | cons e t ih =>
    rcases e with ⟨k, v⟩
    simp [cellsWf] at h
    by_cases h1 : a < k
    · have h2 := h.2
      have h3 := h.1.2
      simp [cellIns, h1, cellsWf, hl, hb, h2, h3]
    · by_cases h' : a = k
      · subst h'; simp [cellIns, cellsWf, h, hb]
      · simp [cellIns, h1, h', cellsWf, h.1]
        exact ih (by omega) h.2

theorem cellsWf_put (l : List Host.Cell) (a : Nat) (b : Byte) (h : cellsWf 0 l = true) : cellsWf 0 (cellPut l a b) = true := by
  unfold cellPut
  split
  · exact cellsWf_del l a h
  · exact cellsWf_ins l a b (Nat.zero_le _) ‹_› h

theorem cellsWf_puts (l : List Host.Cell) (a : Nat) (b : List Byte) (h : cellsWf 0 l = true) :
    cellsWf 0 (cellsPut l a b) = true := by
  induction b generalizing l a with
  | nil => exact h
  | cons x t ih => exact ih _ _ (cellsWf_put l a x h)

theorem cellsWf_filter {lo : Nat} (l : List Host.Cell) (p : Host.Cell → Bool) (h : cellsWf lo l = true) :
    cellsWf lo (l.filter p) = true := by
  induction l generalizing lo with
  | nil => rfl
  | cons e t ih =>
    rcases e with ⟨k, v⟩
    simp [cellsWf] at h
    by_cases hp : p (k, v)
    · simp [hp, cellsWf, h.1, ih h.2]
    · simp [hp]; exact cellsWf_mono _ (by omega) (ih h.2)

theorem cellGet_del_ne (l : List Host.Cell) {a x : Nat} (hx : x ≠ a) : cellGet (cellDel l a) x = cellGet l x := by
  induction l with
  | nil => rfl
  | cons e t ih =>
    rcases e with ⟨k, v⟩
    by_cases h : a = k
    · subst h; simp [cellDel, cellGet, hx]
    · simp [cellDel, cellGet, h, ih]

theorem cellGet_ins (l : List Host.Cell) (a x : Nat) (b : Byte) :
    cellGet (cellIns l a b) x = if x = a then some b else cellGet l x := by
  induction l with
  | nil => simp [cellIns, cellGet]
  | cons e t ih =>
    rcases e with ⟨k, v⟩
    by_cases h : a < k
    · simp [cellIns, cellGet, h]
    · by_cases h' : a = k
      · subst h'
        by_cases hx : x = a <;> simp [cellIns, cellGet, hx]
      · by_cases hx : x = a
        · subst hx; simp [cellIns, cellGet, h, h', ih]
        · by_cases hk : x = k <;> simp [cellIns, cellGet, h, h', hk, hx, ih]
          intro e; omega

theorem cellGet_put_ne (l : List Host.Cell) {a x : Nat} (b : Byte) (hx : x ≠ a) : cellGet (cellPut l a b) x = cellGet l x := by
  unfold cellPut
  split
  · exact cellGet_del_ne l hx
  · simp [cellGet_ins, hx]

theorem cellGet_del_same {lo : Nat} (l : List Host.Cell) (a : Nat) (h : cellsWf lo l = true) :
    cellGet (cellDel l a) a = unlisted a := by
  induction l generalizing lo with
  | nil => rfl
  | cons e t ih =>
    rcases e with ⟨k, v⟩
    simp [cellsWf] at h
    by_cases h' : a = k
    · subst h'; simp [cellDel]; exact cellGet_below t h.2 (by omega)
    · simp [cellDel, cellGet, h']; exact ih h.2

theorem cellGet_put_same (l : List Host.Cell) (a : Nat) (b : Byte) (h : cellsWf 0 l = true) :
    cellGet (cellPut l a b) a = some b := by
  unfold cellPut
  split
  · rw [cellGet_del_same l a h]; assumption
  · simp [cellGet_ins]

theorem cellGet_puts_out (l : List Host.Cell) (a x : Nat) (b : List Byte) (hx : x < a ∨ a + b.length ≤ x) :
    cellGet (cellsPut l a b) x = cellGet l x := by
  induction b generalizing l a with
  | nil => rfl
  | cons v t ih =>
    simp at hx
    simp [cellsPut]
    rw [ih _ _ (by omega), cellGet_put_ne _ _ (by omega)]

theorem cellGet_puts_in (l : List Host.Cell) (a i : Nat) (b : List Byte) (h : cellsWf 0 l = true) (hi : i < b.length) :
    cellGet (cellsPut l a b) (a + i) = some b[i] := by
  induction b generalizing l a i with
  | nil => simp at hi
  | cons v t ih =>
    simp at hi
    cases i with
    | zero =>
      simp [cellsPut]
      rw [cellGet_puts_out _ _ _ _ (by omega), cellGet_put_same _ _ _ h]
    | succ i =>
      simp only [cellsPut]
      rw [show a + (i + 1) = (a + 1) + i by omega, ih _ _ _ (cellsWf_put l a v h) (by omega)]
      simp

/-! ### The operations keep the canonical form -/

theorem Memory.wf_iff (m : Memory) : m.wf = true ↔ cellsWf 0 m.cells = true ∧ tsorted m.sect = true ∧ tsorted m.lost = true := by
  simp [Memory.wf, and_assoc]

theorem Memory.empty_wf : Memory.empty.wf = true := rfl

theorem Memory.fresh_wf (f : Nat → Nat) : ({ Memory.empty with lost := (List.range 16).map fun i => (i, f i) } : Memory).wf = true := by
  simp [Memory.wf, Memory.empty, cellsWf, tsorted, List.range, List.range.loop, tsortedFrom]

theorem Memory.writePlain_wf (m : Memory) (a : Nat) (b : List Byte) (h : m.wf = true) : (m.writePlain a b).wf = true := by
  rw [Memory.wf_iff] at *
  exact ⟨cellsWf_puts _ _ _ h.1, h.2⟩

theorem Memory.writeHbm_wf (m : Memory) (k a : Nat) (b : List Byte) (h : m.wf = true) : (m.writeHbm k a b).wf = true := by
  rw [Memory.wf_iff] at *
  unfold Memory.writeHbm
  simp only
  split
  · exact ⟨cellsWf_puts _ _ _ h.1, tsorted_tput _ _ _ h.2.1, h.2.2⟩
  · split
    · exact ⟨cellsWf_puts _ _ _ h.1, tsorted_tput _ _ _ h.2.1, h.2.2⟩
    · split
      · exact h
      · split
        · exact ⟨cellsWf_puts _ _ _ h.1, h.2⟩
        · exact ⟨cellsWf_puts _ _ _ (cellsWf_puts _ _ _ h.1), tsorted_tput _ _ _ h.2.1, h.2.2⟩

theorem Memory.poison_wf (m : Memory) (k a : Nat) (h : m.wf = true) : (m.poison k a).wf = true := by
  rw [Memory.wf_iff] at *
  unfold Memory.poison
  split <;> exact ⟨h.1, tsorted_tput _ _ _ h.2.1, h.2.2⟩

theorem Memory.clearWindow_wf (m : Memory) (lo hi : Nat) (h : m.wf = true) : (m.clearWindow lo hi).wf = true := by
  rw [Memory.wf_iff] at *
  exact ⟨cellsWf_filter _ _ h.1, h.2⟩

theorem Memory.loseFrame_wf (m : Memory) (f : Nat) (h : m.wf = true) : (m.loseFrame f).wf = true := by
  rw [Memory.wf_iff] at *
  exact ⟨cellsWf_filter _ _ h.1, tsorted_filter _ _ h.2.1, tsorted_tupd _ _ _ _ h.2.2⟩

/-! ### Read after write -/

theorem Memory.plainByte_writePlain_out (m : Memory) (a x : Nat) (b : List Byte) (hx : x < a ∨ a + b.length ≤ x) :
    (m.writePlain a b).plainByte x = m.plainByte x := by
  simp [Memory.plainByte, Memory.writePlain, cellGet_puts_out _ _ _ _ hx]

theorem Memory.plainByte_writePlain_in (m : Memory) (a i : Nat) (b : List Byte) (h : m.wf = true) (hi : i < b.length) :
    (m.writePlain a b).plainByte (a + i) = b[i] := by
  simp [Memory.plainByte, Memory.writePlain, cellGet_puts_in _ _ _ _ ((Memory.wf_iff m).1 h).1 hi]

theorem Memory.readPlain_writePlain (m : Memory) (a : Nat) (b : List Byte) (h : m.wf = true) :
    (m.writePlain a b).readPlain a b.length = b := by
  apply List.ext_getElem
  · simp [Memory.readPlain]
  · intro i h1 h2
    simp [Memory.readPlain, Memory.plainByte_writePlain_in m a i b h h2]

/-- A whole sector reads back under the key it was written with, and is not poisoned (R130, R137). -/
theorem Memory.readHbm_writeHbm (m : Memory) (k a : Nat) (b : List Byte) (h : m.wf = true) (ha : a % 32 = 0)
    (hb : b.length = 32) : (m.writeHbm k a b).readHbm k a 32 = b ∧ (m.writeHbm k a b).poisoned a = false := by
  constructor
  · apply List.ext_getElem
    · simp [Memory.readHbm, hb]
    · intro i h1 h2
      have : (a + i) / 32 = a / 32 := by omega
      simp [Memory.readHbm, Memory.writeHbm, ha, hb, Memory.byte, this, Memory.own,
        cellGet_puts_in _ _ _ _ ((Memory.wf_iff m).1 h).1 h2]
  · simp [Memory.writeHbm, ha, hb, Memory.poisoned]

/-- Poison stays until a whole sector is written: a write of a part leaves the sector as it is (R130). -/
theorem Memory.writeHbm_poisoned (m : Memory) (k a : Nat) (b : List Byte) (h : m.poisoned a = true) (hb : b.length ≠ 32) :
    m.writeHbm k a b = m := by
  unfold Memory.poisoned at h
  unfold Memory.writeHbm
  cases hs : tget m.sect (a / 32) with
  | none => simp [hs] at h
  | some s =>
    simp [hs] at h
    simp only [hb, and_false, if_false, hs, h, if_true]

end Sys2Proof.Machine
end

