-- ==== Sys2Proof/Laws/State.lean ====
section
/-! SUPPORT. What the named updates of State leave alone, one lemma per update and field, and what they write. -/

namespace Sys2Proof.Machine

/-! ### `State.setReg` writes `regs` only -/

@[simp] theorem State.setReg_pending (s : State) (r : Reg) (i v : Nat) : (s.setReg r i v).pending = s.pending := rfl
@[simp] theorem State.setReg_free (s : State) (r : Reg) (i v : Nat) : (s.setReg r i v).free = s.free := rfl
@[simp] theorem State.setReg_out (s : State) (r : Reg) (i v : Nat) : (s.setReg r i v).out = s.out := rfl
@[simp] theorem State.setReg_time (s : State) (r : Reg) (i v : Nat) : (s.setReg r i v).time = s.time := rfl
@[simp] theorem State.setReg_fuses (s : State) (r : Reg) (i v : Nat) : (s.setReg r i v).fuses = s.fuses := rfl
@[simp] theorem State.setReg_mem (s : State) (r : Reg) (i v : Nat) : (s.setReg r i v).mem = s.mem := rfl
@[simp] theorem State.setReg_keys (s : State) (r : Reg) (i v : Nat) : (s.setReg r i v).keys = s.keys := rfl
@[simp] theorem State.setReg_keyNext (s : State) (r : Reg) (i v : Nat) : (s.setReg r i v).keyNext = s.keyNext := rfl
@[simp] theorem State.setReg_mwk (s : State) (r : Reg) (i v : Nat) : (s.setReg r i v).mwk = s.mwk := rfl
@[simp] theorem State.setReg_blobs (s : State) (r : Reg) (i v : Nat) : (s.setReg r i v).blobs = s.blobs := rfl
@[simp] theorem State.setReg_hbms (s : State) (r : Reg) (i v : Nat) : (s.setReg r i v).hbms = s.hbms := rfl
@[simp] theorem State.setReg_boots (s : State) (r : Reg) (i v : Nat) : (s.setReg r i v).boots = s.boots := rfl
@[simp] theorem State.setReg_tlbs (s : State) (r : Reg) (i v : Nat) : (s.setReg r i v).tlbs = s.tlbs := rfl
@[simp] theorem State.setReg_walks (s : State) (r : Reg) (i v : Nat) : (s.setReg r i v).walks = s.walks := rfl
@[simp] theorem State.setReg_queues (s : State) (r : Reg) (i v : Nat) : (s.setReg r i v).queues = s.queues := rfl
@[simp] theorem State.setReg_ctxs (s : State) (r : Reg) (i v : Nat) : (s.setReg r i v).ctxs = s.ctxs := rfl
@[simp] theorem State.setReg_funcs (s : State) (r : Reg) (i v : Nat) : (s.setReg r i v).funcs = s.funcs := rfl
@[simp] theorem State.setReg_msix (s : State) (r : Reg) (i v : Nat) : (s.setReg r i v).msix = s.msix := rfl
@[simp] theorem State.setReg_msixPend (s : State) (r : Reg) (i v : Nat) : (s.setReg r i v).msixPend = s.msixPend := rfl
@[simp] theorem State.setReg_cmds (s : State) (r : Reg) (i v : Nat) : (s.setReg r i v).cmds = s.cmds := rfl
@[simp] theorem State.setReg_nextCmd (s : State) (r : Reg) (i v : Nat) : (s.setReg r i v).nextCmd = s.nextCmd := rfl
@[simp] theorem State.setReg_remotes (s : State) (r : Reg) (i v : Nat) : (s.setReg r i v).remotes = s.remotes := rfl
@[simp] theorem State.setReg_nextTag (s : State) (r : Reg) (i v : Nat) : (s.setReg r i v).nextTag = s.nextTag := rfl
@[simp] theorem State.setReg_streams (s : State) (r : Reg) (i v : Nat) : (s.setReg r i v).streams = s.streams := rfl
@[simp] theorem State.setReg_faultLog (s : State) (r : Reg) (i v : Nat) : (s.setReg r i v).faultLog = s.faultLog := rfl
@[simp] theorem State.setReg_fltTail (s : State) (r : Reg) (i v : Nat) : (s.setReg r i v).fltTail = s.fltTail := rfl
@[simp] theorem State.setReg_slices (s : State) (r : Reg) (i v : Nat) : (s.setReg r i v).slices = s.slices := rfl
@[simp] theorem State.setReg_dirs (s : State) (r : Reg) (i v : Nat) : (s.setReg r i v).dirs = s.dirs := rfl
@[simp] theorem State.setReg_dirWait (s : State) (r : Reg) (i v : Nat) : (s.setReg r i v).dirWait = s.dirWait := rfl
@[simp] theorem State.setReg_net (s : State) (r : Reg) (i v : Nat) : (s.setReg r i v).net = s.net := rfl
@[simp] theorem State.setReg_tracker (s : State) (r : Reg) (i v : Nat) : (s.setReg r i v).tracker = s.tracker := rfl
@[simp] theorem State.setReg_skein (s : State) (r : Reg) (i v : Nat) : (s.setReg r i v).skein = s.skein := rfl
@[simp] theorem State.setReg_replays (s : State) (r : Reg) (i v : Nat) : (s.setReg r i v).replays = s.replays := rfl
@[simp] theorem State.setReg_trackers (s : State) (r : Reg) (i v : Nat) : (s.setReg r i v).trackers = s.trackers := rfl
@[simp] theorem State.setReg_leases (s : State) (r : Reg) (i v : Nat) : (s.setReg r i v).leases = s.leases := rfl
@[simp] theorem State.setReg_resvs (s : State) (r : Reg) (i v : Nat) : (s.setReg r i v).resvs = s.resvs := rfl
@[simp] theorem State.setReg_rtags (s : State) (r : Reg) (i v : Nat) : (s.setReg r i v).rtags = s.rtags := rfl
@[simp] theorem State.setReg_panels (s : State) (r : Reg) (i v : Nat) : (s.setReg r i v).panels = s.panels := rfl
@[simp] theorem State.setReg_tiles (s : State) (r : Reg) (i v : Nat) : (s.setReg r i v).tiles = s.tiles := rfl
@[simp] theorem State.setReg_epochs (s : State) (r : Reg) (i v : Nat) : (s.setReg r i v).epochs = s.epochs := rfl
@[simp] theorem State.setReg_committed (s : State) (r : Reg) (i v : Nat) : (s.setReg r i v).committed = s.committed := rfl
@[simp] theorem State.setReg_applied (s : State) (r : Reg) (i v : Nat) : (s.setReg r i v).applied = s.applied := rfl
@[simp] theorem State.setReg_stage (s : State) (r : Reg) (i v : Nat) : (s.setReg r i v).stage = s.stage := rfl
@[simp] theorem State.setReg_toApply (s : State) (r : Reg) (i v : Nat) : (s.setReg r i v).toApply = s.toApply := rfl
@[simp] theorem State.setReg_commitAt (s : State) (r : Reg) (i v : Nat) : (s.setReg r i v).commitAt = s.commitAt := rfl
@[simp] theorem State.setReg_cores (s : State) (r : Reg) (i v : Nat) : (s.setReg r i v).cores = s.cores := rfl
@[simp] theorem State.setReg_launches (s : State) (r : Reg) (i v : Nat) : (s.setReg r i v).launches = s.launches := rfl
@[simp] theorem State.setReg_images (s : State) (r : Reg) (i v : Nat) : (s.setReg r i v).images = s.images := rfl
@[simp] theorem State.setReg_nextImage (s : State) (r : Reg) (i v : Nat) : (s.setReg r i v).nextImage = s.nextImage := rfl
@[simp] theorem State.setReg_links (s : State) (r : Reg) (i v : Nat) : (s.setReg r i v).links = s.links := rfl
@[simp] theorem State.setReg_peers (s : State) (r : Reg) (i v : Nat) : (s.setReg r i v).peers = s.peers := rfl
@[simp] theorem State.setReg_timebase (s : State) (r : Reg) (i v : Nat) : (s.setReg r i v).timebase = s.timebase := rfl
@[simp] theorem State.setReg_routes (s : State) (r : Reg) (i v : Nat) : (s.setReg r i v).routes = s.routes := rfl
@[simp] theorem State.setReg_guestUp (s : State) (r : Reg) (i v : Nat) : (s.setReg r i v).guestUp = s.guestUp := rfl
@[simp] theorem State.setReg_colls (s : State) (r : Reg) (i v : Nat) : (s.setReg r i v).colls = s.colls := rfl
@[simp] theorem State.setReg_mctp (s : State) (r : Reg) (i v : Nat) : (s.setReg r i v).mctp = s.mctp := rfl
@[simp] theorem State.setReg_jobs (s : State) (r : Reg) (i v : Nat) : (s.setReg r i v).jobs = s.jobs := rfl
@[simp] theorem State.setReg_rsqs (s : State) (r : Reg) (i v : Nat) : (s.setReg r i v).rsqs = s.rsqs := rfl
@[simp] theorem State.setReg_marks (s : State) (r : Reg) (i v : Nat) : (s.setReg r i v).marks = s.marks := rfl
@[simp] theorem State.setReg_dumps (s : State) (r : Reg) (i v : Nat) : (s.setReg r i v).dumps = s.dumps := rfl
@[simp] theorem State.setReg_nextDump (s : State) (r : Reg) (i v : Nat) : (s.setReg r i v).nextDump = s.nextDump := rfl
@[simp] theorem State.setReg_smpLost (s : State) (r : Reg) (i v : Nat) : (s.setReg r i v).smpLost = s.smpLost := rfl
@[simp] theorem State.setReg_csmpAt (s : State) (r : Reg) (i v : Nat) : (s.setReg r i v).csmpAt = s.csmpAt := rfl
@[simp] theorem State.setReg_smpAt (s : State) (r : Reg) (i v : Nat) : (s.setReg r i v).smpAt = s.smpAt := rfl
@[simp] theorem State.setReg_bwAt (s : State) (r : Reg) (i v : Nat) : (s.setReg r i v).bwAt = s.bwAt := rfl
@[simp] theorem State.setReg_stepped (s : State) (r : Reg) (i v : Nat) : (s.setReg r i v).stepped = s.stepped := rfl
@[simp] theorem State.setReg_stash (s : State) (r : Reg) (i v : Nat) : (s.setReg r i v).stash = s.stash := rfl
@[simp] theorem State.setReg_switches (s : State) (r : Reg) (i v : Nat) : (s.setReg r i v).switches = s.switches := rfl
@[simp] theorem State.setReg_pwr (s : State) (r : Reg) (i v : Nat) : (s.setReg r i v).pwr = s.pwr := rfl
@[simp] theorem State.setReg_sensors (s : State) (r : Reg) (i v : Nat) : (s.setReg r i v).sensors = s.sensors := rfl
@[simp] theorem State.setReg_resetJob (s : State) (r : Reg) (i v : Nat) : (s.setReg r i v).resetJob = s.resetJob := rfl
@[simp] theorem State.setReg_flash (s : State) (r : Reg) (i v : Nat) : (s.setReg r i v).flash = s.flash := rfl
@[simp] theorem State.setReg_boot (s : State) (r : Reg) (i v : Nat) : (s.setReg r i v).boot = s.boot := rfl
@[simp] theorem State.setReg_written (s : State) (r : Reg) (i v : Nat) : (s.setReg r i v).written = s.written := rfl
@[simp] theorem State.setReg_tap (s : State) (r : Reg) (i v : Nat) : (s.setReg r i v).tap = s.tap := rfl
@[simp] theorem State.setReg_pins (s : State) (r : Reg) (i v : Nat) : (s.setReg r i v).pins = s.pins := rfl
@[simp] theorem State.setReg_bindAt (s : State) (r : Reg) (i v : Nat) : (s.setReg r i v).bindAt = s.bindAt := rfl
@[simp] theorem State.setReg_drainMs (s : State) (r : Reg) (i v : Nat) : (s.setReg r i v).drainMs = s.drainMs := rfl
@[simp] theorem State.setReg_saved (s : State) (r : Reg) (i v : Nat) : (s.setReg r i v).saved = s.saved := rfl

/-! ### `State.setFld` writes `regs` only -/

@[simp] theorem State.setFld_pending (s : State) (f : Fld) (i v : Nat) : (s.setFld f i v).pending = s.pending := rfl
@[simp] theorem State.setFld_free (s : State) (f : Fld) (i v : Nat) : (s.setFld f i v).free = s.free := rfl
@[simp] theorem State.setFld_out (s : State) (f : Fld) (i v : Nat) : (s.setFld f i v).out = s.out := rfl
@[simp] theorem State.setFld_time (s : State) (f : Fld) (i v : Nat) : (s.setFld f i v).time = s.time := rfl
@[simp] theorem State.setFld_fuses (s : State) (f : Fld) (i v : Nat) : (s.setFld f i v).fuses = s.fuses := rfl
@[simp] theorem State.setFld_mem (s : State) (f : Fld) (i v : Nat) : (s.setFld f i v).mem = s.mem := rfl
@[simp] theorem State.setFld_keys (s : State) (f : Fld) (i v : Nat) : (s.setFld f i v).keys = s.keys := rfl
@[simp] theorem State.setFld_keyNext (s : State) (f : Fld) (i v : Nat) : (s.setFld f i v).keyNext = s.keyNext := rfl
@[simp] theorem State.setFld_mwk (s : State) (f : Fld) (i v : Nat) : (s.setFld f i v).mwk = s.mwk := rfl
@[simp] theorem State.setFld_blobs (s : State) (f : Fld) (i v : Nat) : (s.setFld f i v).blobs = s.blobs := rfl
@[simp] theorem State.setFld_hbms (s : State) (f : Fld) (i v : Nat) : (s.setFld f i v).hbms = s.hbms := rfl
@[simp] theorem State.setFld_boots (s : State) (f : Fld) (i v : Nat) : (s.setFld f i v).boots = s.boots := rfl
@[simp] theorem State.setFld_tlbs (s : State) (f : Fld) (i v : Nat) : (s.setFld f i v).tlbs = s.tlbs := rfl
@[simp] theorem State.setFld_walks (s : State) (f : Fld) (i v : Nat) : (s.setFld f i v).walks = s.walks := rfl
@[simp] theorem State.setFld_queues (s : State) (f : Fld) (i v : Nat) : (s.setFld f i v).queues = s.queues := rfl
@[simp] theorem State.setFld_ctxs (s : State) (f : Fld) (i v : Nat) : (s.setFld f i v).ctxs = s.ctxs := rfl
@[simp] theorem State.setFld_funcs (s : State) (f : Fld) (i v : Nat) : (s.setFld f i v).funcs = s.funcs := rfl
@[simp] theorem State.setFld_msix (s : State) (f : Fld) (i v : Nat) : (s.setFld f i v).msix = s.msix := rfl
@[simp] theorem State.setFld_msixPend (s : State) (f : Fld) (i v : Nat) : (s.setFld f i v).msixPend = s.msixPend := rfl
@[simp] theorem State.setFld_cmds (s : State) (f : Fld) (i v : Nat) : (s.setFld f i v).cmds = s.cmds := rfl
@[simp] theorem State.setFld_nextCmd (s : State) (f : Fld) (i v : Nat) : (s.setFld f i v).nextCmd = s.nextCmd := rfl
@[simp] theorem State.setFld_remotes (s : State) (f : Fld) (i v : Nat) : (s.setFld f i v).remotes = s.remotes := rfl
@[simp] theorem State.setFld_nextTag (s : State) (f : Fld) (i v : Nat) : (s.setFld f i v).nextTag = s.nextTag := rfl
@[simp] theorem State.setFld_streams (s : State) (f : Fld) (i v : Nat) : (s.setFld f i v).streams = s.streams := rfl
@[simp] theorem State.setFld_faultLog (s : State) (f : Fld) (i v : Nat) : (s.setFld f i v).faultLog = s.faultLog := rfl
@[simp] theorem State.setFld_fltTail (s : State) (f : Fld) (i v : Nat) : (s.setFld f i v).fltTail = s.fltTail := rfl
@[simp] theorem State.setFld_slices (s : State) (f : Fld) (i v : Nat) : (s.setFld f i v).slices = s.slices := rfl
@[simp] theorem State.setFld_dirs (s : State) (f : Fld) (i v : Nat) : (s.setFld f i v).dirs = s.dirs := rfl
@[simp] theorem State.setFld_dirWait (s : State) (f : Fld) (i v : Nat) : (s.setFld f i v).dirWait = s.dirWait := rfl
@[simp] theorem State.setFld_net (s : State) (f : Fld) (i v : Nat) : (s.setFld f i v).net = s.net := rfl
@[simp] theorem State.setFld_tracker (s : State) (f : Fld) (i v : Nat) : (s.setFld f i v).tracker = s.tracker := rfl
@[simp] theorem State.setFld_skein (s : State) (f : Fld) (i v : Nat) : (s.setFld f i v).skein = s.skein := rfl
@[simp] theorem State.setFld_replays (s : State) (f : Fld) (i v : Nat) : (s.setFld f i v).replays = s.replays := rfl
@[simp] theorem State.setFld_trackers (s : State) (f : Fld) (i v : Nat) : (s.setFld f i v).trackers = s.trackers := rfl
@[simp] theorem State.setFld_leases (s : State) (f : Fld) (i v : Nat) : (s.setFld f i v).leases = s.leases := rfl
@[simp] theorem State.setFld_resvs (s : State) (f : Fld) (i v : Nat) : (s.setFld f i v).resvs = s.resvs := rfl
@[simp] theorem State.setFld_rtags (s : State) (f : Fld) (i v : Nat) : (s.setFld f i v).rtags = s.rtags := rfl
@[simp] theorem State.setFld_panels (s : State) (f : Fld) (i v : Nat) : (s.setFld f i v).panels = s.panels := rfl
@[simp] theorem State.setFld_tiles (s : State) (f : Fld) (i v : Nat) : (s.setFld f i v).tiles = s.tiles := rfl
@[simp] theorem State.setFld_epochs (s : State) (f : Fld) (i v : Nat) : (s.setFld f i v).epochs = s.epochs := rfl
@[simp] theorem State.setFld_committed (s : State) (f : Fld) (i v : Nat) : (s.setFld f i v).committed = s.committed := rfl
@[simp] theorem State.setFld_applied (s : State) (f : Fld) (i v : Nat) : (s.setFld f i v).applied = s.applied := rfl
@[simp] theorem State.setFld_stage (s : State) (f : Fld) (i v : Nat) : (s.setFld f i v).stage = s.stage := rfl
@[simp] theorem State.setFld_toApply (s : State) (f : Fld) (i v : Nat) : (s.setFld f i v).toApply = s.toApply := rfl
@[simp] theorem State.setFld_commitAt (s : State) (f : Fld) (i v : Nat) : (s.setFld f i v).commitAt = s.commitAt := rfl
@[simp] theorem State.setFld_cores (s : State) (f : Fld) (i v : Nat) : (s.setFld f i v).cores = s.cores := rfl
@[simp] theorem State.setFld_launches (s : State) (f : Fld) (i v : Nat) : (s.setFld f i v).launches = s.launches := rfl
@[simp] theorem State.setFld_images (s : State) (f : Fld) (i v : Nat) : (s.setFld f i v).images = s.images := rfl
@[simp] theorem State.setFld_nextImage (s : State) (f : Fld) (i v : Nat) : (s.setFld f i v).nextImage = s.nextImage := rfl
@[simp] theorem State.setFld_links (s : State) (f : Fld) (i v : Nat) : (s.setFld f i v).links = s.links := rfl
@[simp] theorem State.setFld_peers (s : State) (f : Fld) (i v : Nat) : (s.setFld f i v).peers = s.peers := rfl
@[simp] theorem State.setFld_timebase (s : State) (f : Fld) (i v : Nat) : (s.setFld f i v).timebase = s.timebase := rfl
@[simp] theorem State.setFld_routes (s : State) (f : Fld) (i v : Nat) : (s.setFld f i v).routes = s.routes := rfl
@[simp] theorem State.setFld_guestUp (s : State) (f : Fld) (i v : Nat) : (s.setFld f i v).guestUp = s.guestUp := rfl
@[simp] theorem State.setFld_colls (s : State) (f : Fld) (i v : Nat) : (s.setFld f i v).colls = s.colls := rfl
@[simp] theorem State.setFld_mctp (s : State) (f : Fld) (i v : Nat) : (s.setFld f i v).mctp = s.mctp := rfl
@[simp] theorem State.setFld_jobs (s : State) (f : Fld) (i v : Nat) : (s.setFld f i v).jobs = s.jobs := rfl
@[simp] theorem State.setFld_rsqs (s : State) (f : Fld) (i v : Nat) : (s.setFld f i v).rsqs = s.rsqs := rfl
@[simp] theorem State.setFld_marks (s : State) (f : Fld) (i v : Nat) : (s.setFld f i v).marks = s.marks := rfl
@[simp] theorem State.setFld_dumps (s : State) (f : Fld) (i v : Nat) : (s.setFld f i v).dumps = s.dumps := rfl
@[simp] theorem State.setFld_nextDump (s : State) (f : Fld) (i v : Nat) : (s.setFld f i v).nextDump = s.nextDump := rfl
@[simp] theorem State.setFld_smpLost (s : State) (f : Fld) (i v : Nat) : (s.setFld f i v).smpLost = s.smpLost := rfl
@[simp] theorem State.setFld_csmpAt (s : State) (f : Fld) (i v : Nat) : (s.setFld f i v).csmpAt = s.csmpAt := rfl
@[simp] theorem State.setFld_smpAt (s : State) (f : Fld) (i v : Nat) : (s.setFld f i v).smpAt = s.smpAt := rfl
@[simp] theorem State.setFld_bwAt (s : State) (f : Fld) (i v : Nat) : (s.setFld f i v).bwAt = s.bwAt := rfl
@[simp] theorem State.setFld_stepped (s : State) (f : Fld) (i v : Nat) : (s.setFld f i v).stepped = s.stepped := rfl
@[simp] theorem State.setFld_stash (s : State) (f : Fld) (i v : Nat) : (s.setFld f i v).stash = s.stash := rfl
@[simp] theorem State.setFld_switches (s : State) (f : Fld) (i v : Nat) : (s.setFld f i v).switches = s.switches := rfl
@[simp] theorem State.setFld_pwr (s : State) (f : Fld) (i v : Nat) : (s.setFld f i v).pwr = s.pwr := rfl
@[simp] theorem State.setFld_sensors (s : State) (f : Fld) (i v : Nat) : (s.setFld f i v).sensors = s.sensors := rfl
@[simp] theorem State.setFld_resetJob (s : State) (f : Fld) (i v : Nat) : (s.setFld f i v).resetJob = s.resetJob := rfl
@[simp] theorem State.setFld_flash (s : State) (f : Fld) (i v : Nat) : (s.setFld f i v).flash = s.flash := rfl
@[simp] theorem State.setFld_boot (s : State) (f : Fld) (i v : Nat) : (s.setFld f i v).boot = s.boot := rfl
@[simp] theorem State.setFld_written (s : State) (f : Fld) (i v : Nat) : (s.setFld f i v).written = s.written := rfl
@[simp] theorem State.setFld_tap (s : State) (f : Fld) (i v : Nat) : (s.setFld f i v).tap = s.tap := rfl
@[simp] theorem State.setFld_pins (s : State) (f : Fld) (i v : Nat) : (s.setFld f i v).pins = s.pins := rfl
@[simp] theorem State.setFld_bindAt (s : State) (f : Fld) (i v : Nat) : (s.setFld f i v).bindAt = s.bindAt := rfl
@[simp] theorem State.setFld_drainMs (s : State) (f : Fld) (i v : Nat) : (s.setFld f i v).drainMs = s.drainMs := rfl
@[simp] theorem State.setFld_saved (s : State) (f : Fld) (i v : Nat) : (s.setFld f i v).saved = s.saved := rfl

/-! ### `State.resetReg` writes `regs` only -/

@[simp] theorem State.resetReg_pending (s : State) (r : Reg) (i : Nat) : (s.resetReg r i).pending = s.pending := rfl
@[simp] theorem State.resetReg_free (s : State) (r : Reg) (i : Nat) : (s.resetReg r i).free = s.free := rfl
@[simp] theorem State.resetReg_out (s : State) (r : Reg) (i : Nat) : (s.resetReg r i).out = s.out := rfl
@[simp] theorem State.resetReg_time (s : State) (r : Reg) (i : Nat) : (s.resetReg r i).time = s.time := rfl
@[simp] theorem State.resetReg_fuses (s : State) (r : Reg) (i : Nat) : (s.resetReg r i).fuses = s.fuses := rfl
@[simp] theorem State.resetReg_mem (s : State) (r : Reg) (i : Nat) : (s.resetReg r i).mem = s.mem := rfl
@[simp] theorem State.resetReg_keys (s : State) (r : Reg) (i : Nat) : (s.resetReg r i).keys = s.keys := rfl
@[simp] theorem State.resetReg_keyNext (s : State) (r : Reg) (i : Nat) : (s.resetReg r i).keyNext = s.keyNext := rfl
@[simp] theorem State.resetReg_mwk (s : State) (r : Reg) (i : Nat) : (s.resetReg r i).mwk = s.mwk := rfl
@[simp] theorem State.resetReg_blobs (s : State) (r : Reg) (i : Nat) : (s.resetReg r i).blobs = s.blobs := rfl
@[simp] theorem State.resetReg_hbms (s : State) (r : Reg) (i : Nat) : (s.resetReg r i).hbms = s.hbms := rfl
@[simp] theorem State.resetReg_boots (s : State) (r : Reg) (i : Nat) : (s.resetReg r i).boots = s.boots := rfl
@[simp] theorem State.resetReg_tlbs (s : State) (r : Reg) (i : Nat) : (s.resetReg r i).tlbs = s.tlbs := rfl
@[simp] theorem State.resetReg_walks (s : State) (r : Reg) (i : Nat) : (s.resetReg r i).walks = s.walks := rfl
@[simp] theorem State.resetReg_queues (s : State) (r : Reg) (i : Nat) : (s.resetReg r i).queues = s.queues := rfl
@[simp] theorem State.resetReg_ctxs (s : State) (r : Reg) (i : Nat) : (s.resetReg r i).ctxs = s.ctxs := rfl
@[simp] theorem State.resetReg_funcs (s : State) (r : Reg) (i : Nat) : (s.resetReg r i).funcs = s.funcs := rfl
@[simp] theorem State.resetReg_msix (s : State) (r : Reg) (i : Nat) : (s.resetReg r i).msix = s.msix := rfl
@[simp] theorem State.resetReg_msixPend (s : State) (r : Reg) (i : Nat) : (s.resetReg r i).msixPend = s.msixPend := rfl
@[simp] theorem State.resetReg_cmds (s : State) (r : Reg) (i : Nat) : (s.resetReg r i).cmds = s.cmds := rfl
@[simp] theorem State.resetReg_nextCmd (s : State) (r : Reg) (i : Nat) : (s.resetReg r i).nextCmd = s.nextCmd := rfl
@[simp] theorem State.resetReg_remotes (s : State) (r : Reg) (i : Nat) : (s.resetReg r i).remotes = s.remotes := rfl
@[simp] theorem State.resetReg_nextTag (s : State) (r : Reg) (i : Nat) : (s.resetReg r i).nextTag = s.nextTag := rfl
@[simp] theorem State.resetReg_streams (s : State) (r : Reg) (i : Nat) : (s.resetReg r i).streams = s.streams := rfl
@[simp] theorem State.resetReg_faultLog (s : State) (r : Reg) (i : Nat) : (s.resetReg r i).faultLog = s.faultLog := rfl
@[simp] theorem State.resetReg_fltTail (s : State) (r : Reg) (i : Nat) : (s.resetReg r i).fltTail = s.fltTail := rfl
@[simp] theorem State.resetReg_slices (s : State) (r : Reg) (i : Nat) : (s.resetReg r i).slices = s.slices := rfl
@[simp] theorem State.resetReg_dirs (s : State) (r : Reg) (i : Nat) : (s.resetReg r i).dirs = s.dirs := rfl
@[simp] theorem State.resetReg_dirWait (s : State) (r : Reg) (i : Nat) : (s.resetReg r i).dirWait = s.dirWait := rfl
@[simp] theorem State.resetReg_net (s : State) (r : Reg) (i : Nat) : (s.resetReg r i).net = s.net := rfl
@[simp] theorem State.resetReg_tracker (s : State) (r : Reg) (i : Nat) : (s.resetReg r i).tracker = s.tracker := rfl
@[simp] theorem State.resetReg_skein (s : State) (r : Reg) (i : Nat) : (s.resetReg r i).skein = s.skein := rfl
@[simp] theorem State.resetReg_replays (s : State) (r : Reg) (i : Nat) : (s.resetReg r i).replays = s.replays := rfl
@[simp] theorem State.resetReg_trackers (s : State) (r : Reg) (i : Nat) : (s.resetReg r i).trackers = s.trackers := rfl
@[simp] theorem State.resetReg_leases (s : State) (r : Reg) (i : Nat) : (s.resetReg r i).leases = s.leases := rfl
@[simp] theorem State.resetReg_resvs (s : State) (r : Reg) (i : Nat) : (s.resetReg r i).resvs = s.resvs := rfl
@[simp] theorem State.resetReg_rtags (s : State) (r : Reg) (i : Nat) : (s.resetReg r i).rtags = s.rtags := rfl
@[simp] theorem State.resetReg_panels (s : State) (r : Reg) (i : Nat) : (s.resetReg r i).panels = s.panels := rfl
@[simp] theorem State.resetReg_tiles (s : State) (r : Reg) (i : Nat) : (s.resetReg r i).tiles = s.tiles := rfl
@[simp] theorem State.resetReg_epochs (s : State) (r : Reg) (i : Nat) : (s.resetReg r i).epochs = s.epochs := rfl
@[simp] theorem State.resetReg_committed (s : State) (r : Reg) (i : Nat) : (s.resetReg r i).committed = s.committed := rfl
@[simp] theorem State.resetReg_applied (s : State) (r : Reg) (i : Nat) : (s.resetReg r i).applied = s.applied := rfl
@[simp] theorem State.resetReg_stage (s : State) (r : Reg) (i : Nat) : (s.resetReg r i).stage = s.stage := rfl
@[simp] theorem State.resetReg_toApply (s : State) (r : Reg) (i : Nat) : (s.resetReg r i).toApply = s.toApply := rfl
@[simp] theorem State.resetReg_commitAt (s : State) (r : Reg) (i : Nat) : (s.resetReg r i).commitAt = s.commitAt := rfl
@[simp] theorem State.resetReg_cores (s : State) (r : Reg) (i : Nat) : (s.resetReg r i).cores = s.cores := rfl
@[simp] theorem State.resetReg_launches (s : State) (r : Reg) (i : Nat) : (s.resetReg r i).launches = s.launches := rfl
@[simp] theorem State.resetReg_images (s : State) (r : Reg) (i : Nat) : (s.resetReg r i).images = s.images := rfl
@[simp] theorem State.resetReg_nextImage (s : State) (r : Reg) (i : Nat) : (s.resetReg r i).nextImage = s.nextImage := rfl
@[simp] theorem State.resetReg_links (s : State) (r : Reg) (i : Nat) : (s.resetReg r i).links = s.links := rfl
@[simp] theorem State.resetReg_peers (s : State) (r : Reg) (i : Nat) : (s.resetReg r i).peers = s.peers := rfl
@[simp] theorem State.resetReg_timebase (s : State) (r : Reg) (i : Nat) : (s.resetReg r i).timebase = s.timebase := rfl
@[simp] theorem State.resetReg_routes (s : State) (r : Reg) (i : Nat) : (s.resetReg r i).routes = s.routes := rfl
@[simp] theorem State.resetReg_guestUp (s : State) (r : Reg) (i : Nat) : (s.resetReg r i).guestUp = s.guestUp := rfl
@[simp] theorem State.resetReg_colls (s : State) (r : Reg) (i : Nat) : (s.resetReg r i).colls = s.colls := rfl
@[simp] theorem State.resetReg_mctp (s : State) (r : Reg) (i : Nat) : (s.resetReg r i).mctp = s.mctp := rfl
@[simp] theorem State.resetReg_jobs (s : State) (r : Reg) (i : Nat) : (s.resetReg r i).jobs = s.jobs := rfl
@[simp] theorem State.resetReg_rsqs (s : State) (r : Reg) (i : Nat) : (s.resetReg r i).rsqs = s.rsqs := rfl
@[simp] theorem State.resetReg_marks (s : State) (r : Reg) (i : Nat) : (s.resetReg r i).marks = s.marks := rfl
@[simp] theorem State.resetReg_dumps (s : State) (r : Reg) (i : Nat) : (s.resetReg r i).dumps = s.dumps := rfl
@[simp] theorem State.resetReg_nextDump (s : State) (r : Reg) (i : Nat) : (s.resetReg r i).nextDump = s.nextDump := rfl
@[simp] theorem State.resetReg_smpLost (s : State) (r : Reg) (i : Nat) : (s.resetReg r i).smpLost = s.smpLost := rfl
@[simp] theorem State.resetReg_csmpAt (s : State) (r : Reg) (i : Nat) : (s.resetReg r i).csmpAt = s.csmpAt := rfl
@[simp] theorem State.resetReg_smpAt (s : State) (r : Reg) (i : Nat) : (s.resetReg r i).smpAt = s.smpAt := rfl
@[simp] theorem State.resetReg_bwAt (s : State) (r : Reg) (i : Nat) : (s.resetReg r i).bwAt = s.bwAt := rfl
@[simp] theorem State.resetReg_stepped (s : State) (r : Reg) (i : Nat) : (s.resetReg r i).stepped = s.stepped := rfl
@[simp] theorem State.resetReg_stash (s : State) (r : Reg) (i : Nat) : (s.resetReg r i).stash = s.stash := rfl
@[simp] theorem State.resetReg_switches (s : State) (r : Reg) (i : Nat) : (s.resetReg r i).switches = s.switches := rfl
@[simp] theorem State.resetReg_pwr (s : State) (r : Reg) (i : Nat) : (s.resetReg r i).pwr = s.pwr := rfl
@[simp] theorem State.resetReg_sensors (s : State) (r : Reg) (i : Nat) : (s.resetReg r i).sensors = s.sensors := rfl
@[simp] theorem State.resetReg_resetJob (s : State) (r : Reg) (i : Nat) : (s.resetReg r i).resetJob = s.resetJob := rfl
@[simp] theorem State.resetReg_flash (s : State) (r : Reg) (i : Nat) : (s.resetReg r i).flash = s.flash := rfl
@[simp] theorem State.resetReg_boot (s : State) (r : Reg) (i : Nat) : (s.resetReg r i).boot = s.boot := rfl
@[simp] theorem State.resetReg_written (s : State) (r : Reg) (i : Nat) : (s.resetReg r i).written = s.written := rfl
@[simp] theorem State.resetReg_tap (s : State) (r : Reg) (i : Nat) : (s.resetReg r i).tap = s.tap := rfl
@[simp] theorem State.resetReg_pins (s : State) (r : Reg) (i : Nat) : (s.resetReg r i).pins = s.pins := rfl
@[simp] theorem State.resetReg_bindAt (s : State) (r : Reg) (i : Nat) : (s.resetReg r i).bindAt = s.bindAt := rfl
@[simp] theorem State.resetReg_drainMs (s : State) (r : Reg) (i : Nat) : (s.resetReg r i).drainMs = s.drainMs := rfl
@[simp] theorem State.resetReg_saved (s : State) (r : Reg) (i : Nat) : (s.resetReg r i).saved = s.saved := rfl

/-! ### `State.emit` writes `out` only -/

@[simp] theorem State.emit_pending (s : State) (o : Out) : (s.emit o).pending = s.pending := rfl
@[simp] theorem State.emit_free (s : State) (o : Out) : (s.emit o).free = s.free := rfl
@[simp] theorem State.emit_time (s : State) (o : Out) : (s.emit o).time = s.time := rfl
@[simp] theorem State.emit_fuses (s : State) (o : Out) : (s.emit o).fuses = s.fuses := rfl
@[simp] theorem State.emit_regs (s : State) (o : Out) : (s.emit o).regs = s.regs := rfl
@[simp] theorem State.emit_mem (s : State) (o : Out) : (s.emit o).mem = s.mem := rfl
@[simp] theorem State.emit_keys (s : State) (o : Out) : (s.emit o).keys = s.keys := rfl
@[simp] theorem State.emit_keyNext (s : State) (o : Out) : (s.emit o).keyNext = s.keyNext := rfl
@[simp] theorem State.emit_mwk (s : State) (o : Out) : (s.emit o).mwk = s.mwk := rfl
@[simp] theorem State.emit_blobs (s : State) (o : Out) : (s.emit o).blobs = s.blobs := rfl
@[simp] theorem State.emit_hbms (s : State) (o : Out) : (s.emit o).hbms = s.hbms := rfl
@[simp] theorem State.emit_boots (s : State) (o : Out) : (s.emit o).boots = s.boots := rfl
@[simp] theorem State.emit_tlbs (s : State) (o : Out) : (s.emit o).tlbs = s.tlbs := rfl
@[simp] theorem State.emit_walks (s : State) (o : Out) : (s.emit o).walks = s.walks := rfl
@[simp] theorem State.emit_queues (s : State) (o : Out) : (s.emit o).queues = s.queues := rfl
@[simp] theorem State.emit_ctxs (s : State) (o : Out) : (s.emit o).ctxs = s.ctxs := rfl
@[simp] theorem State.emit_funcs (s : State) (o : Out) : (s.emit o).funcs = s.funcs := rfl
@[simp] theorem State.emit_msix (s : State) (o : Out) : (s.emit o).msix = s.msix := rfl
@[simp] theorem State.emit_msixPend (s : State) (o : Out) : (s.emit o).msixPend = s.msixPend := rfl
@[simp] theorem State.emit_cmds (s : State) (o : Out) : (s.emit o).cmds = s.cmds := rfl
@[simp] theorem State.emit_nextCmd (s : State) (o : Out) : (s.emit o).nextCmd = s.nextCmd := rfl
@[simp] theorem State.emit_remotes (s : State) (o : Out) : (s.emit o).remotes = s.remotes := rfl
@[simp] theorem State.emit_nextTag (s : State) (o : Out) : (s.emit o).nextTag = s.nextTag := rfl
@[simp] theorem State.emit_streams (s : State) (o : Out) : (s.emit o).streams = s.streams := rfl
@[simp] theorem State.emit_faultLog (s : State) (o : Out) : (s.emit o).faultLog = s.faultLog := rfl
@[simp] theorem State.emit_fltTail (s : State) (o : Out) : (s.emit o).fltTail = s.fltTail := rfl
@[simp] theorem State.emit_slices (s : State) (o : Out) : (s.emit o).slices = s.slices := rfl
@[simp] theorem State.emit_dirs (s : State) (o : Out) : (s.emit o).dirs = s.dirs := rfl
@[simp] theorem State.emit_dirWait (s : State) (o : Out) : (s.emit o).dirWait = s.dirWait := rfl
@[simp] theorem State.emit_net (s : State) (o : Out) : (s.emit o).net = s.net := rfl
@[simp] theorem State.emit_tracker (s : State) (o : Out) : (s.emit o).tracker = s.tracker := rfl
@[simp] theorem State.emit_skein (s : State) (o : Out) : (s.emit o).skein = s.skein := rfl
@[simp] theorem State.emit_replays (s : State) (o : Out) : (s.emit o).replays = s.replays := rfl
@[simp] theorem State.emit_trackers (s : State) (o : Out) : (s.emit o).trackers = s.trackers := rfl
@[simp] theorem State.emit_leases (s : State) (o : Out) : (s.emit o).leases = s.leases := rfl
@[simp] theorem State.emit_resvs (s : State) (o : Out) : (s.emit o).resvs = s.resvs := rfl
@[simp] theorem State.emit_rtags (s : State) (o : Out) : (s.emit o).rtags = s.rtags := rfl
@[simp] theorem State.emit_panels (s : State) (o : Out) : (s.emit o).panels = s.panels := rfl
@[simp] theorem State.emit_tiles (s : State) (o : Out) : (s.emit o).tiles = s.tiles := rfl
@[simp] theorem State.emit_epochs (s : State) (o : Out) : (s.emit o).epochs = s.epochs := rfl
@[simp] theorem State.emit_committed (s : State) (o : Out) : (s.emit o).committed = s.committed := rfl
@[simp] theorem State.emit_applied (s : State) (o : Out) : (s.emit o).applied = s.applied := rfl
@[simp] theorem State.emit_stage (s : State) (o : Out) : (s.emit o).stage = s.stage := rfl
@[simp] theorem State.emit_toApply (s : State) (o : Out) : (s.emit o).toApply = s.toApply := rfl
@[simp] theorem State.emit_commitAt (s : State) (o : Out) : (s.emit o).commitAt = s.commitAt := rfl
@[simp] theorem State.emit_cores (s : State) (o : Out) : (s.emit o).cores = s.cores := rfl
@[simp] theorem State.emit_launches (s : State) (o : Out) : (s.emit o).launches = s.launches := rfl
@[simp] theorem State.emit_images (s : State) (o : Out) : (s.emit o).images = s.images := rfl
@[simp] theorem State.emit_nextImage (s : State) (o : Out) : (s.emit o).nextImage = s.nextImage := rfl
@[simp] theorem State.emit_links (s : State) (o : Out) : (s.emit o).links = s.links := rfl
@[simp] theorem State.emit_peers (s : State) (o : Out) : (s.emit o).peers = s.peers := rfl
@[simp] theorem State.emit_timebase (s : State) (o : Out) : (s.emit o).timebase = s.timebase := rfl
@[simp] theorem State.emit_routes (s : State) (o : Out) : (s.emit o).routes = s.routes := rfl
@[simp] theorem State.emit_guestUp (s : State) (o : Out) : (s.emit o).guestUp = s.guestUp := rfl
@[simp] theorem State.emit_colls (s : State) (o : Out) : (s.emit o).colls = s.colls := rfl
@[simp] theorem State.emit_mctp (s : State) (o : Out) : (s.emit o).mctp = s.mctp := rfl
@[simp] theorem State.emit_jobs (s : State) (o : Out) : (s.emit o).jobs = s.jobs := rfl
@[simp] theorem State.emit_rsqs (s : State) (o : Out) : (s.emit o).rsqs = s.rsqs := rfl
@[simp] theorem State.emit_marks (s : State) (o : Out) : (s.emit o).marks = s.marks := rfl
@[simp] theorem State.emit_dumps (s : State) (o : Out) : (s.emit o).dumps = s.dumps := rfl
@[simp] theorem State.emit_nextDump (s : State) (o : Out) : (s.emit o).nextDump = s.nextDump := rfl
@[simp] theorem State.emit_smpLost (s : State) (o : Out) : (s.emit o).smpLost = s.smpLost := rfl
@[simp] theorem State.emit_csmpAt (s : State) (o : Out) : (s.emit o).csmpAt = s.csmpAt := rfl
@[simp] theorem State.emit_smpAt (s : State) (o : Out) : (s.emit o).smpAt = s.smpAt := rfl
@[simp] theorem State.emit_bwAt (s : State) (o : Out) : (s.emit o).bwAt = s.bwAt := rfl
@[simp] theorem State.emit_stepped (s : State) (o : Out) : (s.emit o).stepped = s.stepped := rfl
@[simp] theorem State.emit_stash (s : State) (o : Out) : (s.emit o).stash = s.stash := rfl
@[simp] theorem State.emit_switches (s : State) (o : Out) : (s.emit o).switches = s.switches := rfl
@[simp] theorem State.emit_pwr (s : State) (o : Out) : (s.emit o).pwr = s.pwr := rfl
@[simp] theorem State.emit_sensors (s : State) (o : Out) : (s.emit o).sensors = s.sensors := rfl
@[simp] theorem State.emit_resetJob (s : State) (o : Out) : (s.emit o).resetJob = s.resetJob := rfl
@[simp] theorem State.emit_flash (s : State) (o : Out) : (s.emit o).flash = s.flash := rfl
@[simp] theorem State.emit_boot (s : State) (o : Out) : (s.emit o).boot = s.boot := rfl
@[simp] theorem State.emit_written (s : State) (o : Out) : (s.emit o).written = s.written := rfl
@[simp] theorem State.emit_tap (s : State) (o : Out) : (s.emit o).tap = s.tap := rfl
@[simp] theorem State.emit_pins (s : State) (o : Out) : (s.emit o).pins = s.pins := rfl
@[simp] theorem State.emit_bindAt (s : State) (o : Out) : (s.emit o).bindAt = s.bindAt := rfl
@[simp] theorem State.emit_drainMs (s : State) (o : Out) : (s.emit o).drainMs = s.drainMs := rfl
@[simp] theorem State.emit_saved (s : State) (o : Out) : (s.emit o).saved = s.saved := rfl

/-! ### `State.setQueue` writes `queues` only -/

@[simp] theorem State.setQueue_pending (s : State) (q : Nat) (x : Queue) : (s.setQueue q x).pending = s.pending := rfl
@[simp] theorem State.setQueue_free (s : State) (q : Nat) (x : Queue) : (s.setQueue q x).free = s.free := rfl
@[simp] theorem State.setQueue_out (s : State) (q : Nat) (x : Queue) : (s.setQueue q x).out = s.out := rfl
@[simp] theorem State.setQueue_time (s : State) (q : Nat) (x : Queue) : (s.setQueue q x).time = s.time := rfl
@[simp] theorem State.setQueue_fuses (s : State) (q : Nat) (x : Queue) : (s.setQueue q x).fuses = s.fuses := rfl
@[simp] theorem State.setQueue_regs (s : State) (q : Nat) (x : Queue) : (s.setQueue q x).regs = s.regs := rfl
@[simp] theorem State.setQueue_mem (s : State) (q : Nat) (x : Queue) : (s.setQueue q x).mem = s.mem := rfl
@[simp] theorem State.setQueue_keys (s : State) (q : Nat) (x : Queue) : (s.setQueue q x).keys = s.keys := rfl
@[simp] theorem State.setQueue_keyNext (s : State) (q : Nat) (x : Queue) : (s.setQueue q x).keyNext = s.keyNext := rfl
@[simp] theorem State.setQueue_mwk (s : State) (q : Nat) (x : Queue) : (s.setQueue q x).mwk = s.mwk := rfl
@[simp] theorem State.setQueue_blobs (s : State) (q : Nat) (x : Queue) : (s.setQueue q x).blobs = s.blobs := rfl
@[simp] theorem State.setQueue_hbms (s : State) (q : Nat) (x : Queue) : (s.setQueue q x).hbms = s.hbms := rfl
@[simp] theorem State.setQueue_boots (s : State) (q : Nat) (x : Queue) : (s.setQueue q x).boots = s.boots := rfl
@[simp] theorem State.setQueue_tlbs (s : State) (q : Nat) (x : Queue) : (s.setQueue q x).tlbs = s.tlbs := rfl
@[simp] theorem State.setQueue_walks (s : State) (q : Nat) (x : Queue) : (s.setQueue q x).walks = s.walks := rfl
@[simp] theorem State.setQueue_ctxs (s : State) (q : Nat) (x : Queue) : (s.setQueue q x).ctxs = s.ctxs := rfl
@[simp] theorem State.setQueue_funcs (s : State) (q : Nat) (x : Queue) : (s.setQueue q x).funcs = s.funcs := rfl
@[simp] theorem State.setQueue_msix (s : State) (q : Nat) (x : Queue) : (s.setQueue q x).msix = s.msix := rfl
@[simp] theorem State.setQueue_msixPend (s : State) (q : Nat) (x : Queue) : (s.setQueue q x).msixPend = s.msixPend := rfl
@[simp] theorem State.setQueue_cmds (s : State) (q : Nat) (x : Queue) : (s.setQueue q x).cmds = s.cmds := rfl
@[simp] theorem State.setQueue_nextCmd (s : State) (q : Nat) (x : Queue) : (s.setQueue q x).nextCmd = s.nextCmd := rfl
@[simp] theorem State.setQueue_remotes (s : State) (q : Nat) (x : Queue) : (s.setQueue q x).remotes = s.remotes := rfl
@[simp] theorem State.setQueue_nextTag (s : State) (q : Nat) (x : Queue) : (s.setQueue q x).nextTag = s.nextTag := rfl
@[simp] theorem State.setQueue_streams (s : State) (q : Nat) (x : Queue) : (s.setQueue q x).streams = s.streams := rfl
@[simp] theorem State.setQueue_faultLog (s : State) (q : Nat) (x : Queue) : (s.setQueue q x).faultLog = s.faultLog := rfl
@[simp] theorem State.setQueue_fltTail (s : State) (q : Nat) (x : Queue) : (s.setQueue q x).fltTail = s.fltTail := rfl
@[simp] theorem State.setQueue_slices (s : State) (q : Nat) (x : Queue) : (s.setQueue q x).slices = s.slices := rfl
@[simp] theorem State.setQueue_dirs (s : State) (q : Nat) (x : Queue) : (s.setQueue q x).dirs = s.dirs := rfl
@[simp] theorem State.setQueue_dirWait (s : State) (q : Nat) (x : Queue) : (s.setQueue q x).dirWait = s.dirWait := rfl
@[simp] theorem State.setQueue_net (s : State) (q : Nat) (x : Queue) : (s.setQueue q x).net = s.net := rfl
@[simp] theorem State.setQueue_tracker (s : State) (q : Nat) (x : Queue) : (s.setQueue q x).tracker = s.tracker := rfl
@[simp] theorem State.setQueue_skein (s : State) (q : Nat) (x : Queue) : (s.setQueue q x).skein = s.skein := rfl
@[simp] theorem State.setQueue_replays (s : State) (q : Nat) (x : Queue) : (s.setQueue q x).replays = s.replays := rfl
@[simp] theorem State.setQueue_trackers (s : State) (q : Nat) (x : Queue) : (s.setQueue q x).trackers = s.trackers := rfl
@[simp] theorem State.setQueue_leases (s : State) (q : Nat) (x : Queue) : (s.setQueue q x).leases = s.leases := rfl
@[simp] theorem State.setQueue_resvs (s : State) (q : Nat) (x : Queue) : (s.setQueue q x).resvs = s.resvs := rfl
@[simp] theorem State.setQueue_rtags (s : State) (q : Nat) (x : Queue) : (s.setQueue q x).rtags = s.rtags := rfl
@[simp] theorem State.setQueue_panels (s : State) (q : Nat) (x : Queue) : (s.setQueue q x).panels = s.panels := rfl
@[simp] theorem State.setQueue_tiles (s : State) (q : Nat) (x : Queue) : (s.setQueue q x).tiles = s.tiles := rfl
@[simp] theorem State.setQueue_epochs (s : State) (q : Nat) (x : Queue) : (s.setQueue q x).epochs = s.epochs := rfl
@[simp] theorem State.setQueue_committed (s : State) (q : Nat) (x : Queue) : (s.setQueue q x).committed = s.committed := rfl
@[simp] theorem State.setQueue_applied (s : State) (q : Nat) (x : Queue) : (s.setQueue q x).applied = s.applied := rfl
@[simp] theorem State.setQueue_stage (s : State) (q : Nat) (x : Queue) : (s.setQueue q x).stage = s.stage := rfl
@[simp] theorem State.setQueue_toApply (s : State) (q : Nat) (x : Queue) : (s.setQueue q x).toApply = s.toApply := rfl
@[simp] theorem State.setQueue_commitAt (s : State) (q : Nat) (x : Queue) : (s.setQueue q x).commitAt = s.commitAt := rfl
@[simp] theorem State.setQueue_cores (s : State) (q : Nat) (x : Queue) : (s.setQueue q x).cores = s.cores := rfl
@[simp] theorem State.setQueue_launches (s : State) (q : Nat) (x : Queue) : (s.setQueue q x).launches = s.launches := rfl
@[simp] theorem State.setQueue_images (s : State) (q : Nat) (x : Queue) : (s.setQueue q x).images = s.images := rfl
@[simp] theorem State.setQueue_nextImage (s : State) (q : Nat) (x : Queue) : (s.setQueue q x).nextImage = s.nextImage := rfl
@[simp] theorem State.setQueue_links (s : State) (q : Nat) (x : Queue) : (s.setQueue q x).links = s.links := rfl
@[simp] theorem State.setQueue_peers (s : State) (q : Nat) (x : Queue) : (s.setQueue q x).peers = s.peers := rfl
@[simp] theorem State.setQueue_timebase (s : State) (q : Nat) (x : Queue) : (s.setQueue q x).timebase = s.timebase := rfl
@[simp] theorem State.setQueue_routes (s : State) (q : Nat) (x : Queue) : (s.setQueue q x).routes = s.routes := rfl
@[simp] theorem State.setQueue_guestUp (s : State) (q : Nat) (x : Queue) : (s.setQueue q x).guestUp = s.guestUp := rfl
@[simp] theorem State.setQueue_colls (s : State) (q : Nat) (x : Queue) : (s.setQueue q x).colls = s.colls := rfl
@[simp] theorem State.setQueue_mctp (s : State) (q : Nat) (x : Queue) : (s.setQueue q x).mctp = s.mctp := rfl
@[simp] theorem State.setQueue_jobs (s : State) (q : Nat) (x : Queue) : (s.setQueue q x).jobs = s.jobs := rfl
@[simp] theorem State.setQueue_rsqs (s : State) (q : Nat) (x : Queue) : (s.setQueue q x).rsqs = s.rsqs := rfl
@[simp] theorem State.setQueue_marks (s : State) (q : Nat) (x : Queue) : (s.setQueue q x).marks = s.marks := rfl
@[simp] theorem State.setQueue_dumps (s : State) (q : Nat) (x : Queue) : (s.setQueue q x).dumps = s.dumps := rfl
@[simp] theorem State.setQueue_nextDump (s : State) (q : Nat) (x : Queue) : (s.setQueue q x).nextDump = s.nextDump := rfl
@[simp] theorem State.setQueue_smpLost (s : State) (q : Nat) (x : Queue) : (s.setQueue q x).smpLost = s.smpLost := rfl
@[simp] theorem State.setQueue_csmpAt (s : State) (q : Nat) (x : Queue) : (s.setQueue q x).csmpAt = s.csmpAt := rfl
@[simp] theorem State.setQueue_smpAt (s : State) (q : Nat) (x : Queue) : (s.setQueue q x).smpAt = s.smpAt := rfl
@[simp] theorem State.setQueue_bwAt (s : State) (q : Nat) (x : Queue) : (s.setQueue q x).bwAt = s.bwAt := rfl
@[simp] theorem State.setQueue_stepped (s : State) (q : Nat) (x : Queue) : (s.setQueue q x).stepped = s.stepped := rfl
@[simp] theorem State.setQueue_stash (s : State) (q : Nat) (x : Queue) : (s.setQueue q x).stash = s.stash := rfl
@[simp] theorem State.setQueue_switches (s : State) (q : Nat) (x : Queue) : (s.setQueue q x).switches = s.switches := rfl
@[simp] theorem State.setQueue_pwr (s : State) (q : Nat) (x : Queue) : (s.setQueue q x).pwr = s.pwr := rfl
@[simp] theorem State.setQueue_sensors (s : State) (q : Nat) (x : Queue) : (s.setQueue q x).sensors = s.sensors := rfl
@[simp] theorem State.setQueue_resetJob (s : State) (q : Nat) (x : Queue) : (s.setQueue q x).resetJob = s.resetJob := rfl
@[simp] theorem State.setQueue_flash (s : State) (q : Nat) (x : Queue) : (s.setQueue q x).flash = s.flash := rfl
@[simp] theorem State.setQueue_boot (s : State) (q : Nat) (x : Queue) : (s.setQueue q x).boot = s.boot := rfl
@[simp] theorem State.setQueue_written (s : State) (q : Nat) (x : Queue) : (s.setQueue q x).written = s.written := rfl
@[simp] theorem State.setQueue_tap (s : State) (q : Nat) (x : Queue) : (s.setQueue q x).tap = s.tap := rfl
@[simp] theorem State.setQueue_pins (s : State) (q : Nat) (x : Queue) : (s.setQueue q x).pins = s.pins := rfl
@[simp] theorem State.setQueue_bindAt (s : State) (q : Nat) (x : Queue) : (s.setQueue q x).bindAt = s.bindAt := rfl
@[simp] theorem State.setQueue_drainMs (s : State) (q : Nat) (x : Queue) : (s.setQueue q x).drainMs = s.drainMs := rfl
@[simp] theorem State.setQueue_saved (s : State) (q : Nat) (x : Queue) : (s.setQueue q x).saved = s.saved := rfl

/-! ### `State.modQueue` writes `queues` only -/

@[simp] theorem State.modQueue_pending (s : State) (q : Nat) (f : Queue → Queue) : (s.modQueue q f).pending = s.pending := rfl
@[simp] theorem State.modQueue_free (s : State) (q : Nat) (f : Queue → Queue) : (s.modQueue q f).free = s.free := rfl
@[simp] theorem State.modQueue_out (s : State) (q : Nat) (f : Queue → Queue) : (s.modQueue q f).out = s.out := rfl
@[simp] theorem State.modQueue_time (s : State) (q : Nat) (f : Queue → Queue) : (s.modQueue q f).time = s.time := rfl
@[simp] theorem State.modQueue_fuses (s : State) (q : Nat) (f : Queue → Queue) : (s.modQueue q f).fuses = s.fuses := rfl
@[simp] theorem State.modQueue_regs (s : State) (q : Nat) (f : Queue → Queue) : (s.modQueue q f).regs = s.regs := rfl
@[simp] theorem State.modQueue_mem (s : State) (q : Nat) (f : Queue → Queue) : (s.modQueue q f).mem = s.mem := rfl
@[simp] theorem State.modQueue_keys (s : State) (q : Nat) (f : Queue → Queue) : (s.modQueue q f).keys = s.keys := rfl
@[simp] theorem State.modQueue_keyNext (s : State) (q : Nat) (f : Queue → Queue) : (s.modQueue q f).keyNext = s.keyNext := rfl
@[simp] theorem State.modQueue_mwk (s : State) (q : Nat) (f : Queue → Queue) : (s.modQueue q f).mwk = s.mwk := rfl
@[simp] theorem State.modQueue_blobs (s : State) (q : Nat) (f : Queue → Queue) : (s.modQueue q f).blobs = s.blobs := rfl
@[simp] theorem State.modQueue_hbms (s : State) (q : Nat) (f : Queue → Queue) : (s.modQueue q f).hbms = s.hbms := rfl
@[simp] theorem State.modQueue_boots (s : State) (q : Nat) (f : Queue → Queue) : (s.modQueue q f).boots = s.boots := rfl
@[simp] theorem State.modQueue_tlbs (s : State) (q : Nat) (f : Queue → Queue) : (s.modQueue q f).tlbs = s.tlbs := rfl
@[simp] theorem State.modQueue_walks (s : State) (q : Nat) (f : Queue → Queue) : (s.modQueue q f).walks = s.walks := rfl
@[simp] theorem State.modQueue_ctxs (s : State) (q : Nat) (f : Queue → Queue) : (s.modQueue q f).ctxs = s.ctxs := rfl
@[simp] theorem State.modQueue_funcs (s : State) (q : Nat) (f : Queue → Queue) : (s.modQueue q f).funcs = s.funcs := rfl
@[simp] theorem State.modQueue_msix (s : State) (q : Nat) (f : Queue → Queue) : (s.modQueue q f).msix = s.msix := rfl
@[simp] theorem State.modQueue_msixPend (s : State) (q : Nat) (f : Queue → Queue) : (s.modQueue q f).msixPend = s.msixPend := rfl
@[simp] theorem State.modQueue_cmds (s : State) (q : Nat) (f : Queue → Queue) : (s.modQueue q f).cmds = s.cmds := rfl
@[simp] theorem State.modQueue_nextCmd (s : State) (q : Nat) (f : Queue → Queue) : (s.modQueue q f).nextCmd = s.nextCmd := rfl
@[simp] theorem State.modQueue_remotes (s : State) (q : Nat) (f : Queue → Queue) : (s.modQueue q f).remotes = s.remotes := rfl
@[simp] theorem State.modQueue_nextTag (s : State) (q : Nat) (f : Queue → Queue) : (s.modQueue q f).nextTag = s.nextTag := rfl
@[simp] theorem State.modQueue_streams (s : State) (q : Nat) (f : Queue → Queue) : (s.modQueue q f).streams = s.streams := rfl
@[simp] theorem State.modQueue_faultLog (s : State) (q : Nat) (f : Queue → Queue) : (s.modQueue q f).faultLog = s.faultLog := rfl
@[simp] theorem State.modQueue_fltTail (s : State) (q : Nat) (f : Queue → Queue) : (s.modQueue q f).fltTail = s.fltTail := rfl
@[simp] theorem State.modQueue_slices (s : State) (q : Nat) (f : Queue → Queue) : (s.modQueue q f).slices = s.slices := rfl
@[simp] theorem State.modQueue_dirs (s : State) (q : Nat) (f : Queue → Queue) : (s.modQueue q f).dirs = s.dirs := rfl
@[simp] theorem State.modQueue_dirWait (s : State) (q : Nat) (f : Queue → Queue) : (s.modQueue q f).dirWait = s.dirWait := rfl
@[simp] theorem State.modQueue_net (s : State) (q : Nat) (f : Queue → Queue) : (s.modQueue q f).net = s.net := rfl
@[simp] theorem State.modQueue_tracker (s : State) (q : Nat) (f : Queue → Queue) : (s.modQueue q f).tracker = s.tracker := rfl
@[simp] theorem State.modQueue_skein (s : State) (q : Nat) (f : Queue → Queue) : (s.modQueue q f).skein = s.skein := rfl
@[simp] theorem State.modQueue_replays (s : State) (q : Nat) (f : Queue → Queue) : (s.modQueue q f).replays = s.replays := rfl
@[simp] theorem State.modQueue_trackers (s : State) (q : Nat) (f : Queue → Queue) : (s.modQueue q f).trackers = s.trackers := rfl
@[simp] theorem State.modQueue_leases (s : State) (q : Nat) (f : Queue → Queue) : (s.modQueue q f).leases = s.leases := rfl
@[simp] theorem State.modQueue_resvs (s : State) (q : Nat) (f : Queue → Queue) : (s.modQueue q f).resvs = s.resvs := rfl
@[simp] theorem State.modQueue_rtags (s : State) (q : Nat) (f : Queue → Queue) : (s.modQueue q f).rtags = s.rtags := rfl
@[simp] theorem State.modQueue_panels (s : State) (q : Nat) (f : Queue → Queue) : (s.modQueue q f).panels = s.panels := rfl
@[simp] theorem State.modQueue_tiles (s : State) (q : Nat) (f : Queue → Queue) : (s.modQueue q f).tiles = s.tiles := rfl
@[simp] theorem State.modQueue_epochs (s : State) (q : Nat) (f : Queue → Queue) : (s.modQueue q f).epochs = s.epochs := rfl
@[simp] theorem State.modQueue_committed (s : State) (q : Nat) (f : Queue → Queue) : (s.modQueue q f).committed = s.committed := rfl
@[simp] theorem State.modQueue_applied (s : State) (q : Nat) (f : Queue → Queue) : (s.modQueue q f).applied = s.applied := rfl
@[simp] theorem State.modQueue_stage (s : State) (q : Nat) (f : Queue → Queue) : (s.modQueue q f).stage = s.stage := rfl
@[simp] theorem State.modQueue_toApply (s : State) (q : Nat) (f : Queue → Queue) : (s.modQueue q f).toApply = s.toApply := rfl
@[simp] theorem State.modQueue_commitAt (s : State) (q : Nat) (f : Queue → Queue) : (s.modQueue q f).commitAt = s.commitAt := rfl
@[simp] theorem State.modQueue_cores (s : State) (q : Nat) (f : Queue → Queue) : (s.modQueue q f).cores = s.cores := rfl
@[simp] theorem State.modQueue_launches (s : State) (q : Nat) (f : Queue → Queue) : (s.modQueue q f).launches = s.launches := rfl
@[simp] theorem State.modQueue_images (s : State) (q : Nat) (f : Queue → Queue) : (s.modQueue q f).images = s.images := rfl
@[simp] theorem State.modQueue_nextImage (s : State) (q : Nat) (f : Queue → Queue) : (s.modQueue q f).nextImage = s.nextImage := rfl
@[simp] theorem State.modQueue_links (s : State) (q : Nat) (f : Queue → Queue) : (s.modQueue q f).links = s.links := rfl
@[simp] theorem State.modQueue_peers (s : State) (q : Nat) (f : Queue → Queue) : (s.modQueue q f).peers = s.peers := rfl
@[simp] theorem State.modQueue_timebase (s : State) (q : Nat) (f : Queue → Queue) : (s.modQueue q f).timebase = s.timebase := rfl
@[simp] theorem State.modQueue_routes (s : State) (q : Nat) (f : Queue → Queue) : (s.modQueue q f).routes = s.routes := rfl
@[simp] theorem State.modQueue_guestUp (s : State) (q : Nat) (f : Queue → Queue) : (s.modQueue q f).guestUp = s.guestUp := rfl
@[simp] theorem State.modQueue_colls (s : State) (q : Nat) (f : Queue → Queue) : (s.modQueue q f).colls = s.colls := rfl
@[simp] theorem State.modQueue_mctp (s : State) (q : Nat) (f : Queue → Queue) : (s.modQueue q f).mctp = s.mctp := rfl
@[simp] theorem State.modQueue_jobs (s : State) (q : Nat) (f : Queue → Queue) : (s.modQueue q f).jobs = s.jobs := rfl
@[simp] theorem State.modQueue_rsqs (s : State) (q : Nat) (f : Queue → Queue) : (s.modQueue q f).rsqs = s.rsqs := rfl
@[simp] theorem State.modQueue_marks (s : State) (q : Nat) (f : Queue → Queue) : (s.modQueue q f).marks = s.marks := rfl
@[simp] theorem State.modQueue_dumps (s : State) (q : Nat) (f : Queue → Queue) : (s.modQueue q f).dumps = s.dumps := rfl
@[simp] theorem State.modQueue_nextDump (s : State) (q : Nat) (f : Queue → Queue) : (s.modQueue q f).nextDump = s.nextDump := rfl
@[simp] theorem State.modQueue_smpLost (s : State) (q : Nat) (f : Queue → Queue) : (s.modQueue q f).smpLost = s.smpLost := rfl
@[simp] theorem State.modQueue_csmpAt (s : State) (q : Nat) (f : Queue → Queue) : (s.modQueue q f).csmpAt = s.csmpAt := rfl
@[simp] theorem State.modQueue_smpAt (s : State) (q : Nat) (f : Queue → Queue) : (s.modQueue q f).smpAt = s.smpAt := rfl
@[simp] theorem State.modQueue_bwAt (s : State) (q : Nat) (f : Queue → Queue) : (s.modQueue q f).bwAt = s.bwAt := rfl
@[simp] theorem State.modQueue_stepped (s : State) (q : Nat) (f : Queue → Queue) : (s.modQueue q f).stepped = s.stepped := rfl
@[simp] theorem State.modQueue_stash (s : State) (q : Nat) (f : Queue → Queue) : (s.modQueue q f).stash = s.stash := rfl
@[simp] theorem State.modQueue_switches (s : State) (q : Nat) (f : Queue → Queue) : (s.modQueue q f).switches = s.switches := rfl
@[simp] theorem State.modQueue_pwr (s : State) (q : Nat) (f : Queue → Queue) : (s.modQueue q f).pwr = s.pwr := rfl
@[simp] theorem State.modQueue_sensors (s : State) (q : Nat) (f : Queue → Queue) : (s.modQueue q f).sensors = s.sensors := rfl
@[simp] theorem State.modQueue_resetJob (s : State) (q : Nat) (f : Queue → Queue) : (s.modQueue q f).resetJob = s.resetJob := rfl
@[simp] theorem State.modQueue_flash (s : State) (q : Nat) (f : Queue → Queue) : (s.modQueue q f).flash = s.flash := rfl
@[simp] theorem State.modQueue_boot (s : State) (q : Nat) (f : Queue → Queue) : (s.modQueue q f).boot = s.boot := rfl
@[simp] theorem State.modQueue_written (s : State) (q : Nat) (f : Queue → Queue) : (s.modQueue q f).written = s.written := rfl
@[simp] theorem State.modQueue_tap (s : State) (q : Nat) (f : Queue → Queue) : (s.modQueue q f).tap = s.tap := rfl
@[simp] theorem State.modQueue_pins (s : State) (q : Nat) (f : Queue → Queue) : (s.modQueue q f).pins = s.pins := rfl
@[simp] theorem State.modQueue_bindAt (s : State) (q : Nat) (f : Queue → Queue) : (s.modQueue q f).bindAt = s.bindAt := rfl
@[simp] theorem State.modQueue_drainMs (s : State) (q : Nat) (f : Queue → Queue) : (s.modQueue q f).drainMs = s.drainMs := rfl
@[simp] theorem State.modQueue_saved (s : State) (q : Nat) (f : Queue → Queue) : (s.modQueue q f).saved = s.saved := rfl

/-! ### `State.modFunc` writes `funcs` only -/

@[simp] theorem State.modFunc_pending (s : State) (n : Nat) (f : Func → Func) : (s.modFunc n f).pending = s.pending := rfl
@[simp] theorem State.modFunc_free (s : State) (n : Nat) (f : Func → Func) : (s.modFunc n f).free = s.free := rfl
@[simp] theorem State.modFunc_out (s : State) (n : Nat) (f : Func → Func) : (s.modFunc n f).out = s.out := rfl
@[simp] theorem State.modFunc_time (s : State) (n : Nat) (f : Func → Func) : (s.modFunc n f).time = s.time := rfl
@[simp] theorem State.modFunc_fuses (s : State) (n : Nat) (f : Func → Func) : (s.modFunc n f).fuses = s.fuses := rfl
@[simp] theorem State.modFunc_regs (s : State) (n : Nat) (f : Func → Func) : (s.modFunc n f).regs = s.regs := rfl
@[simp] theorem State.modFunc_mem (s : State) (n : Nat) (f : Func → Func) : (s.modFunc n f).mem = s.mem := rfl
@[simp] theorem State.modFunc_keys (s : State) (n : Nat) (f : Func → Func) : (s.modFunc n f).keys = s.keys := rfl
@[simp] theorem State.modFunc_keyNext (s : State) (n : Nat) (f : Func → Func) : (s.modFunc n f).keyNext = s.keyNext := rfl
@[simp] theorem State.modFunc_mwk (s : State) (n : Nat) (f : Func → Func) : (s.modFunc n f).mwk = s.mwk := rfl
@[simp] theorem State.modFunc_blobs (s : State) (n : Nat) (f : Func → Func) : (s.modFunc n f).blobs = s.blobs := rfl
@[simp] theorem State.modFunc_hbms (s : State) (n : Nat) (f : Func → Func) : (s.modFunc n f).hbms = s.hbms := rfl
@[simp] theorem State.modFunc_boots (s : State) (n : Nat) (f : Func → Func) : (s.modFunc n f).boots = s.boots := rfl
@[simp] theorem State.modFunc_tlbs (s : State) (n : Nat) (f : Func → Func) : (s.modFunc n f).tlbs = s.tlbs := rfl
@[simp] theorem State.modFunc_walks (s : State) (n : Nat) (f : Func → Func) : (s.modFunc n f).walks = s.walks := rfl
@[simp] theorem State.modFunc_queues (s : State) (n : Nat) (f : Func → Func) : (s.modFunc n f).queues = s.queues := rfl
@[simp] theorem State.modFunc_ctxs (s : State) (n : Nat) (f : Func → Func) : (s.modFunc n f).ctxs = s.ctxs := rfl
@[simp] theorem State.modFunc_msix (s : State) (n : Nat) (f : Func → Func) : (s.modFunc n f).msix = s.msix := rfl
@[simp] theorem State.modFunc_msixPend (s : State) (n : Nat) (f : Func → Func) : (s.modFunc n f).msixPend = s.msixPend := rfl
@[simp] theorem State.modFunc_cmds (s : State) (n : Nat) (f : Func → Func) : (s.modFunc n f).cmds = s.cmds := rfl
@[simp] theorem State.modFunc_nextCmd (s : State) (n : Nat) (f : Func → Func) : (s.modFunc n f).nextCmd = s.nextCmd := rfl
@[simp] theorem State.modFunc_remotes (s : State) (n : Nat) (f : Func → Func) : (s.modFunc n f).remotes = s.remotes := rfl
@[simp] theorem State.modFunc_nextTag (s : State) (n : Nat) (f : Func → Func) : (s.modFunc n f).nextTag = s.nextTag := rfl
@[simp] theorem State.modFunc_streams (s : State) (n : Nat) (f : Func → Func) : (s.modFunc n f).streams = s.streams := rfl
@[simp] theorem State.modFunc_faultLog (s : State) (n : Nat) (f : Func → Func) : (s.modFunc n f).faultLog = s.faultLog := rfl
@[simp] theorem State.modFunc_fltTail (s : State) (n : Nat) (f : Func → Func) : (s.modFunc n f).fltTail = s.fltTail := rfl
@[simp] theorem State.modFunc_slices (s : State) (n : Nat) (f : Func → Func) : (s.modFunc n f).slices = s.slices := rfl
@[simp] theorem State.modFunc_dirs (s : State) (n : Nat) (f : Func → Func) : (s.modFunc n f).dirs = s.dirs := rfl
@[simp] theorem State.modFunc_dirWait (s : State) (n : Nat) (f : Func → Func) : (s.modFunc n f).dirWait = s.dirWait := rfl
@[simp] theorem State.modFunc_net (s : State) (n : Nat) (f : Func → Func) : (s.modFunc n f).net = s.net := rfl
@[simp] theorem State.modFunc_tracker (s : State) (n : Nat) (f : Func → Func) : (s.modFunc n f).tracker = s.tracker := rfl
@[simp] theorem State.modFunc_skein (s : State) (n : Nat) (f : Func → Func) : (s.modFunc n f).skein = s.skein := rfl
@[simp] theorem State.modFunc_replays (s : State) (n : Nat) (f : Func → Func) : (s.modFunc n f).replays = s.replays := rfl
@[simp] theorem State.modFunc_trackers (s : State) (n : Nat) (f : Func → Func) : (s.modFunc n f).trackers = s.trackers := rfl
@[simp] theorem State.modFunc_leases (s : State) (n : Nat) (f : Func → Func) : (s.modFunc n f).leases = s.leases := rfl
@[simp] theorem State.modFunc_resvs (s : State) (n : Nat) (f : Func → Func) : (s.modFunc n f).resvs = s.resvs := rfl
@[simp] theorem State.modFunc_rtags (s : State) (n : Nat) (f : Func → Func) : (s.modFunc n f).rtags = s.rtags := rfl
@[simp] theorem State.modFunc_panels (s : State) (n : Nat) (f : Func → Func) : (s.modFunc n f).panels = s.panels := rfl
@[simp] theorem State.modFunc_tiles (s : State) (n : Nat) (f : Func → Func) : (s.modFunc n f).tiles = s.tiles := rfl
@[simp] theorem State.modFunc_epochs (s : State) (n : Nat) (f : Func → Func) : (s.modFunc n f).epochs = s.epochs := rfl
@[simp] theorem State.modFunc_committed (s : State) (n : Nat) (f : Func → Func) : (s.modFunc n f).committed = s.committed := rfl
@[simp] theorem State.modFunc_applied (s : State) (n : Nat) (f : Func → Func) : (s.modFunc n f).applied = s.applied := rfl
@[simp] theorem State.modFunc_stage (s : State) (n : Nat) (f : Func → Func) : (s.modFunc n f).stage = s.stage := rfl
@[simp] theorem State.modFunc_toApply (s : State) (n : Nat) (f : Func → Func) : (s.modFunc n f).toApply = s.toApply := rfl
@[simp] theorem State.modFunc_commitAt (s : State) (n : Nat) (f : Func → Func) : (s.modFunc n f).commitAt = s.commitAt := rfl
@[simp] theorem State.modFunc_cores (s : State) (n : Nat) (f : Func → Func) : (s.modFunc n f).cores = s.cores := rfl
@[simp] theorem State.modFunc_launches (s : State) (n : Nat) (f : Func → Func) : (s.modFunc n f).launches = s.launches := rfl
@[simp] theorem State.modFunc_images (s : State) (n : Nat) (f : Func → Func) : (s.modFunc n f).images = s.images := rfl
@[simp] theorem State.modFunc_nextImage (s : State) (n : Nat) (f : Func → Func) : (s.modFunc n f).nextImage = s.nextImage := rfl
@[simp] theorem State.modFunc_links (s : State) (n : Nat) (f : Func → Func) : (s.modFunc n f).links = s.links := rfl
@[simp] theorem State.modFunc_peers (s : State) (n : Nat) (f : Func → Func) : (s.modFunc n f).peers = s.peers := rfl
@[simp] theorem State.modFunc_timebase (s : State) (n : Nat) (f : Func → Func) : (s.modFunc n f).timebase = s.timebase := rfl
@[simp] theorem State.modFunc_routes (s : State) (n : Nat) (f : Func → Func) : (s.modFunc n f).routes = s.routes := rfl
@[simp] theorem State.modFunc_guestUp (s : State) (n : Nat) (f : Func → Func) : (s.modFunc n f).guestUp = s.guestUp := rfl
@[simp] theorem State.modFunc_colls (s : State) (n : Nat) (f : Func → Func) : (s.modFunc n f).colls = s.colls := rfl
@[simp] theorem State.modFunc_mctp (s : State) (n : Nat) (f : Func → Func) : (s.modFunc n f).mctp = s.mctp := rfl
@[simp] theorem State.modFunc_jobs (s : State) (n : Nat) (f : Func → Func) : (s.modFunc n f).jobs = s.jobs := rfl
@[simp] theorem State.modFunc_rsqs (s : State) (n : Nat) (f : Func → Func) : (s.modFunc n f).rsqs = s.rsqs := rfl
@[simp] theorem State.modFunc_marks (s : State) (n : Nat) (f : Func → Func) : (s.modFunc n f).marks = s.marks := rfl
@[simp] theorem State.modFunc_dumps (s : State) (n : Nat) (f : Func → Func) : (s.modFunc n f).dumps = s.dumps := rfl
@[simp] theorem State.modFunc_nextDump (s : State) (n : Nat) (f : Func → Func) : (s.modFunc n f).nextDump = s.nextDump := rfl
@[simp] theorem State.modFunc_smpLost (s : State) (n : Nat) (f : Func → Func) : (s.modFunc n f).smpLost = s.smpLost := rfl
@[simp] theorem State.modFunc_csmpAt (s : State) (n : Nat) (f : Func → Func) : (s.modFunc n f).csmpAt = s.csmpAt := rfl
@[simp] theorem State.modFunc_smpAt (s : State) (n : Nat) (f : Func → Func) : (s.modFunc n f).smpAt = s.smpAt := rfl
@[simp] theorem State.modFunc_bwAt (s : State) (n : Nat) (f : Func → Func) : (s.modFunc n f).bwAt = s.bwAt := rfl
@[simp] theorem State.modFunc_stepped (s : State) (n : Nat) (f : Func → Func) : (s.modFunc n f).stepped = s.stepped := rfl
@[simp] theorem State.modFunc_stash (s : State) (n : Nat) (f : Func → Func) : (s.modFunc n f).stash = s.stash := rfl
@[simp] theorem State.modFunc_switches (s : State) (n : Nat) (f : Func → Func) : (s.modFunc n f).switches = s.switches := rfl
@[simp] theorem State.modFunc_pwr (s : State) (n : Nat) (f : Func → Func) : (s.modFunc n f).pwr = s.pwr := rfl
@[simp] theorem State.modFunc_sensors (s : State) (n : Nat) (f : Func → Func) : (s.modFunc n f).sensors = s.sensors := rfl
@[simp] theorem State.modFunc_resetJob (s : State) (n : Nat) (f : Func → Func) : (s.modFunc n f).resetJob = s.resetJob := rfl
@[simp] theorem State.modFunc_flash (s : State) (n : Nat) (f : Func → Func) : (s.modFunc n f).flash = s.flash := rfl
@[simp] theorem State.modFunc_boot (s : State) (n : Nat) (f : Func → Func) : (s.modFunc n f).boot = s.boot := rfl
@[simp] theorem State.modFunc_written (s : State) (n : Nat) (f : Func → Func) : (s.modFunc n f).written = s.written := rfl
@[simp] theorem State.modFunc_tap (s : State) (n : Nat) (f : Func → Func) : (s.modFunc n f).tap = s.tap := rfl
@[simp] theorem State.modFunc_pins (s : State) (n : Nat) (f : Func → Func) : (s.modFunc n f).pins = s.pins := rfl
@[simp] theorem State.modFunc_bindAt (s : State) (n : Nat) (f : Func → Func) : (s.modFunc n f).bindAt = s.bindAt := rfl
@[simp] theorem State.modFunc_drainMs (s : State) (n : Nat) (f : Func → Func) : (s.modFunc n f).drainMs = s.drainMs := rfl
@[simp] theorem State.modFunc_saved (s : State) (n : Nat) (f : Func → Func) : (s.modFunc n f).saved = s.saved := rfl

/-! ### `State.modCmd` writes `cmds` only -/

@[simp] theorem State.modCmd_pending (s : State) (n : Nat) (f : Cmd → Cmd) : (s.modCmd n f).pending = s.pending := rfl
@[simp] theorem State.modCmd_free (s : State) (n : Nat) (f : Cmd → Cmd) : (s.modCmd n f).free = s.free := rfl
@[simp] theorem State.modCmd_out (s : State) (n : Nat) (f : Cmd → Cmd) : (s.modCmd n f).out = s.out := rfl
@[simp] theorem State.modCmd_time (s : State) (n : Nat) (f : Cmd → Cmd) : (s.modCmd n f).time = s.time := rfl
@[simp] theorem State.modCmd_fuses (s : State) (n : Nat) (f : Cmd → Cmd) : (s.modCmd n f).fuses = s.fuses := rfl
@[simp] theorem State.modCmd_regs (s : State) (n : Nat) (f : Cmd → Cmd) : (s.modCmd n f).regs = s.regs := rfl
@[simp] theorem State.modCmd_mem (s : State) (n : Nat) (f : Cmd → Cmd) : (s.modCmd n f).mem = s.mem := rfl
@[simp] theorem State.modCmd_keys (s : State) (n : Nat) (f : Cmd → Cmd) : (s.modCmd n f).keys = s.keys := rfl
@[simp] theorem State.modCmd_keyNext (s : State) (n : Nat) (f : Cmd → Cmd) : (s.modCmd n f).keyNext = s.keyNext := rfl
@[simp] theorem State.modCmd_mwk (s : State) (n : Nat) (f : Cmd → Cmd) : (s.modCmd n f).mwk = s.mwk := rfl
@[simp] theorem State.modCmd_blobs (s : State) (n : Nat) (f : Cmd → Cmd) : (s.modCmd n f).blobs = s.blobs := rfl
@[simp] theorem State.modCmd_hbms (s : State) (n : Nat) (f : Cmd → Cmd) : (s.modCmd n f).hbms = s.hbms := rfl
@[simp] theorem State.modCmd_boots (s : State) (n : Nat) (f : Cmd → Cmd) : (s.modCmd n f).boots = s.boots := rfl
@[simp] theorem State.modCmd_tlbs (s : State) (n : Nat) (f : Cmd → Cmd) : (s.modCmd n f).tlbs = s.tlbs := rfl
@[simp] theorem State.modCmd_walks (s : State) (n : Nat) (f : Cmd → Cmd) : (s.modCmd n f).walks = s.walks := rfl
@[simp] theorem State.modCmd_queues (s : State) (n : Nat) (f : Cmd → Cmd) : (s.modCmd n f).queues = s.queues := rfl
@[simp] theorem State.modCmd_ctxs (s : State) (n : Nat) (f : Cmd → Cmd) : (s.modCmd n f).ctxs = s.ctxs := rfl
@[simp] theorem State.modCmd_funcs (s : State) (n : Nat) (f : Cmd → Cmd) : (s.modCmd n f).funcs = s.funcs := rfl
@[simp] theorem State.modCmd_msix (s : State) (n : Nat) (f : Cmd → Cmd) : (s.modCmd n f).msix = s.msix := rfl
@[simp] theorem State.modCmd_msixPend (s : State) (n : Nat) (f : Cmd → Cmd) : (s.modCmd n f).msixPend = s.msixPend := rfl
@[simp] theorem State.modCmd_nextCmd (s : State) (n : Nat) (f : Cmd → Cmd) : (s.modCmd n f).nextCmd = s.nextCmd := rfl
@[simp] theorem State.modCmd_remotes (s : State) (n : Nat) (f : Cmd → Cmd) : (s.modCmd n f).remotes = s.remotes := rfl
@[simp] theorem State.modCmd_nextTag (s : State) (n : Nat) (f : Cmd → Cmd) : (s.modCmd n f).nextTag = s.nextTag := rfl
@[simp] theorem State.modCmd_streams (s : State) (n : Nat) (f : Cmd → Cmd) : (s.modCmd n f).streams = s.streams := rfl
@[simp] theorem State.modCmd_faultLog (s : State) (n : Nat) (f : Cmd → Cmd) : (s.modCmd n f).faultLog = s.faultLog := rfl
@[simp] theorem State.modCmd_fltTail (s : State) (n : Nat) (f : Cmd → Cmd) : (s.modCmd n f).fltTail = s.fltTail := rfl
@[simp] theorem State.modCmd_slices (s : State) (n : Nat) (f : Cmd → Cmd) : (s.modCmd n f).slices = s.slices := rfl
@[simp] theorem State.modCmd_dirs (s : State) (n : Nat) (f : Cmd → Cmd) : (s.modCmd n f).dirs = s.dirs := rfl
@[simp] theorem State.modCmd_dirWait (s : State) (n : Nat) (f : Cmd → Cmd) : (s.modCmd n f).dirWait = s.dirWait := rfl
@[simp] theorem State.modCmd_net (s : State) (n : Nat) (f : Cmd → Cmd) : (s.modCmd n f).net = s.net := rfl
@[simp] theorem State.modCmd_tracker (s : State) (n : Nat) (f : Cmd → Cmd) : (s.modCmd n f).tracker = s.tracker := rfl
@[simp] theorem State.modCmd_skein (s : State) (n : Nat) (f : Cmd → Cmd) : (s.modCmd n f).skein = s.skein := rfl
@[simp] theorem State.modCmd_replays (s : State) (n : Nat) (f : Cmd → Cmd) : (s.modCmd n f).replays = s.replays := rfl
@[simp] theorem State.modCmd_trackers (s : State) (n : Nat) (f : Cmd → Cmd) : (s.modCmd n f).trackers = s.trackers := rfl
@[simp] theorem State.modCmd_leases (s : State) (n : Nat) (f : Cmd → Cmd) : (s.modCmd n f).leases = s.leases := rfl
@[simp] theorem State.modCmd_resvs (s : State) (n : Nat) (f : Cmd → Cmd) : (s.modCmd n f).resvs = s.resvs := rfl
@[simp] theorem State.modCmd_rtags (s : State) (n : Nat) (f : Cmd → Cmd) : (s.modCmd n f).rtags = s.rtags := rfl
@[simp] theorem State.modCmd_panels (s : State) (n : Nat) (f : Cmd → Cmd) : (s.modCmd n f).panels = s.panels := rfl
@[simp] theorem State.modCmd_tiles (s : State) (n : Nat) (f : Cmd → Cmd) : (s.modCmd n f).tiles = s.tiles := rfl
@[simp] theorem State.modCmd_epochs (s : State) (n : Nat) (f : Cmd → Cmd) : (s.modCmd n f).epochs = s.epochs := rfl
@[simp] theorem State.modCmd_committed (s : State) (n : Nat) (f : Cmd → Cmd) : (s.modCmd n f).committed = s.committed := rfl
@[simp] theorem State.modCmd_applied (s : State) (n : Nat) (f : Cmd → Cmd) : (s.modCmd n f).applied = s.applied := rfl
@[simp] theorem State.modCmd_stage (s : State) (n : Nat) (f : Cmd → Cmd) : (s.modCmd n f).stage = s.stage := rfl
@[simp] theorem State.modCmd_toApply (s : State) (n : Nat) (f : Cmd → Cmd) : (s.modCmd n f).toApply = s.toApply := rfl
@[simp] theorem State.modCmd_commitAt (s : State) (n : Nat) (f : Cmd → Cmd) : (s.modCmd n f).commitAt = s.commitAt := rfl
@[simp] theorem State.modCmd_cores (s : State) (n : Nat) (f : Cmd → Cmd) : (s.modCmd n f).cores = s.cores := rfl
@[simp] theorem State.modCmd_launches (s : State) (n : Nat) (f : Cmd → Cmd) : (s.modCmd n f).launches = s.launches := rfl
@[simp] theorem State.modCmd_images (s : State) (n : Nat) (f : Cmd → Cmd) : (s.modCmd n f).images = s.images := rfl
@[simp] theorem State.modCmd_nextImage (s : State) (n : Nat) (f : Cmd → Cmd) : (s.modCmd n f).nextImage = s.nextImage := rfl
@[simp] theorem State.modCmd_links (s : State) (n : Nat) (f : Cmd → Cmd) : (s.modCmd n f).links = s.links := rfl
@[simp] theorem State.modCmd_peers (s : State) (n : Nat) (f : Cmd → Cmd) : (s.modCmd n f).peers = s.peers := rfl
@[simp] theorem State.modCmd_timebase (s : State) (n : Nat) (f : Cmd → Cmd) : (s.modCmd n f).timebase = s.timebase := rfl
@[simp] theorem State.modCmd_routes (s : State) (n : Nat) (f : Cmd → Cmd) : (s.modCmd n f).routes = s.routes := rfl
@[simp] theorem State.modCmd_guestUp (s : State) (n : Nat) (f : Cmd → Cmd) : (s.modCmd n f).guestUp = s.guestUp := rfl
@[simp] theorem State.modCmd_colls (s : State) (n : Nat) (f : Cmd → Cmd) : (s.modCmd n f).colls = s.colls := rfl
@[simp] theorem State.modCmd_mctp (s : State) (n : Nat) (f : Cmd → Cmd) : (s.modCmd n f).mctp = s.mctp := rfl
@[simp] theorem State.modCmd_jobs (s : State) (n : Nat) (f : Cmd → Cmd) : (s.modCmd n f).jobs = s.jobs := rfl
@[simp] theorem State.modCmd_rsqs (s : State) (n : Nat) (f : Cmd → Cmd) : (s.modCmd n f).rsqs = s.rsqs := rfl
@[simp] theorem State.modCmd_marks (s : State) (n : Nat) (f : Cmd → Cmd) : (s.modCmd n f).marks = s.marks := rfl
@[simp] theorem State.modCmd_dumps (s : State) (n : Nat) (f : Cmd → Cmd) : (s.modCmd n f).dumps = s.dumps := rfl
@[simp] theorem State.modCmd_nextDump (s : State) (n : Nat) (f : Cmd → Cmd) : (s.modCmd n f).nextDump = s.nextDump := rfl
@[simp] theorem State.modCmd_smpLost (s : State) (n : Nat) (f : Cmd → Cmd) : (s.modCmd n f).smpLost = s.smpLost := rfl
@[simp] theorem State.modCmd_csmpAt (s : State) (n : Nat) (f : Cmd → Cmd) : (s.modCmd n f).csmpAt = s.csmpAt := rfl
@[simp] theorem State.modCmd_smpAt (s : State) (n : Nat) (f : Cmd → Cmd) : (s.modCmd n f).smpAt = s.smpAt := rfl
@[simp] theorem State.modCmd_bwAt (s : State) (n : Nat) (f : Cmd → Cmd) : (s.modCmd n f).bwAt = s.bwAt := rfl
@[simp] theorem State.modCmd_stepped (s : State) (n : Nat) (f : Cmd → Cmd) : (s.modCmd n f).stepped = s.stepped := rfl
@[simp] theorem State.modCmd_stash (s : State) (n : Nat) (f : Cmd → Cmd) : (s.modCmd n f).stash = s.stash := rfl
@[simp] theorem State.modCmd_switches (s : State) (n : Nat) (f : Cmd → Cmd) : (s.modCmd n f).switches = s.switches := rfl
@[simp] theorem State.modCmd_pwr (s : State) (n : Nat) (f : Cmd → Cmd) : (s.modCmd n f).pwr = s.pwr := rfl
@[simp] theorem State.modCmd_sensors (s : State) (n : Nat) (f : Cmd → Cmd) : (s.modCmd n f).sensors = s.sensors := rfl
@[simp] theorem State.modCmd_resetJob (s : State) (n : Nat) (f : Cmd → Cmd) : (s.modCmd n f).resetJob = s.resetJob := rfl
@[simp] theorem State.modCmd_flash (s : State) (n : Nat) (f : Cmd → Cmd) : (s.modCmd n f).flash = s.flash := rfl
@[simp] theorem State.modCmd_boot (s : State) (n : Nat) (f : Cmd → Cmd) : (s.modCmd n f).boot = s.boot := rfl
@[simp] theorem State.modCmd_written (s : State) (n : Nat) (f : Cmd → Cmd) : (s.modCmd n f).written = s.written := rfl
@[simp] theorem State.modCmd_tap (s : State) (n : Nat) (f : Cmd → Cmd) : (s.modCmd n f).tap = s.tap := rfl
@[simp] theorem State.modCmd_pins (s : State) (n : Nat) (f : Cmd → Cmd) : (s.modCmd n f).pins = s.pins := rfl
@[simp] theorem State.modCmd_bindAt (s : State) (n : Nat) (f : Cmd → Cmd) : (s.modCmd n f).bindAt = s.bindAt := rfl
@[simp] theorem State.modCmd_drainMs (s : State) (n : Nat) (f : Cmd → Cmd) : (s.modCmd n f).drainMs = s.drainMs := rfl
@[simp] theorem State.modCmd_saved (s : State) (n : Nat) (f : Cmd → Cmd) : (s.modCmd n f).saved = s.saved := rfl

/-! ### `State.setTile` writes `tiles` only -/

@[simp] theorem State.setTile_pending (s : State) (t : Nat) (x : Tile) : (s.setTile t x).pending = s.pending := rfl
@[simp] theorem State.setTile_free (s : State) (t : Nat) (x : Tile) : (s.setTile t x).free = s.free := rfl
@[simp] theorem State.setTile_out (s : State) (t : Nat) (x : Tile) : (s.setTile t x).out = s.out := rfl
@[simp] theorem State.setTile_time (s : State) (t : Nat) (x : Tile) : (s.setTile t x).time = s.time := rfl
@[simp] theorem State.setTile_fuses (s : State) (t : Nat) (x : Tile) : (s.setTile t x).fuses = s.fuses := rfl
@[simp] theorem State.setTile_regs (s : State) (t : Nat) (x : Tile) : (s.setTile t x).regs = s.regs := rfl
@[simp] theorem State.setTile_mem (s : State) (t : Nat) (x : Tile) : (s.setTile t x).mem = s.mem := rfl
@[simp] theorem State.setTile_keys (s : State) (t : Nat) (x : Tile) : (s.setTile t x).keys = s.keys := rfl
@[simp] theorem State.setTile_keyNext (s : State) (t : Nat) (x : Tile) : (s.setTile t x).keyNext = s.keyNext := rfl
@[simp] theorem State.setTile_mwk (s : State) (t : Nat) (x : Tile) : (s.setTile t x).mwk = s.mwk := rfl
@[simp] theorem State.setTile_blobs (s : State) (t : Nat) (x : Tile) : (s.setTile t x).blobs = s.blobs := rfl
@[simp] theorem State.setTile_hbms (s : State) (t : Nat) (x : Tile) : (s.setTile t x).hbms = s.hbms := rfl
@[simp] theorem State.setTile_boots (s : State) (t : Nat) (x : Tile) : (s.setTile t x).boots = s.boots := rfl
@[simp] theorem State.setTile_tlbs (s : State) (t : Nat) (x : Tile) : (s.setTile t x).tlbs = s.tlbs := rfl
@[simp] theorem State.setTile_walks (s : State) (t : Nat) (x : Tile) : (s.setTile t x).walks = s.walks := rfl
@[simp] theorem State.setTile_queues (s : State) (t : Nat) (x : Tile) : (s.setTile t x).queues = s.queues := rfl
@[simp] theorem State.setTile_ctxs (s : State) (t : Nat) (x : Tile) : (s.setTile t x).ctxs = s.ctxs := rfl
@[simp] theorem State.setTile_funcs (s : State) (t : Nat) (x : Tile) : (s.setTile t x).funcs = s.funcs := rfl
@[simp] theorem State.setTile_msix (s : State) (t : Nat) (x : Tile) : (s.setTile t x).msix = s.msix := rfl
@[simp] theorem State.setTile_msixPend (s : State) (t : Nat) (x : Tile) : (s.setTile t x).msixPend = s.msixPend := rfl
@[simp] theorem State.setTile_cmds (s : State) (t : Nat) (x : Tile) : (s.setTile t x).cmds = s.cmds := rfl
@[simp] theorem State.setTile_nextCmd (s : State) (t : Nat) (x : Tile) : (s.setTile t x).nextCmd = s.nextCmd := rfl
@[simp] theorem State.setTile_remotes (s : State) (t : Nat) (x : Tile) : (s.setTile t x).remotes = s.remotes := rfl
@[simp] theorem State.setTile_nextTag (s : State) (t : Nat) (x : Tile) : (s.setTile t x).nextTag = s.nextTag := rfl
@[simp] theorem State.setTile_streams (s : State) (t : Nat) (x : Tile) : (s.setTile t x).streams = s.streams := rfl
@[simp] theorem State.setTile_faultLog (s : State) (t : Nat) (x : Tile) : (s.setTile t x).faultLog = s.faultLog := rfl
@[simp] theorem State.setTile_fltTail (s : State) (t : Nat) (x : Tile) : (s.setTile t x).fltTail = s.fltTail := rfl
@[simp] theorem State.setTile_slices (s : State) (t : Nat) (x : Tile) : (s.setTile t x).slices = s.slices := rfl
@[simp] theorem State.setTile_dirs (s : State) (t : Nat) (x : Tile) : (s.setTile t x).dirs = s.dirs := rfl
@[simp] theorem State.setTile_dirWait (s : State) (t : Nat) (x : Tile) : (s.setTile t x).dirWait = s.dirWait := rfl
@[simp] theorem State.setTile_net (s : State) (t : Nat) (x : Tile) : (s.setTile t x).net = s.net := rfl
@[simp] theorem State.setTile_tracker (s : State) (t : Nat) (x : Tile) : (s.setTile t x).tracker = s.tracker := rfl
@[simp] theorem State.setTile_skein (s : State) (t : Nat) (x : Tile) : (s.setTile t x).skein = s.skein := rfl
@[simp] theorem State.setTile_replays (s : State) (t : Nat) (x : Tile) : (s.setTile t x).replays = s.replays := rfl
@[simp] theorem State.setTile_trackers (s : State) (t : Nat) (x : Tile) : (s.setTile t x).trackers = s.trackers := rfl
@[simp] theorem State.setTile_leases (s : State) (t : Nat) (x : Tile) : (s.setTile t x).leases = s.leases := rfl
@[simp] theorem State.setTile_resvs (s : State) (t : Nat) (x : Tile) : (s.setTile t x).resvs = s.resvs := rfl
@[simp] theorem State.setTile_rtags (s : State) (t : Nat) (x : Tile) : (s.setTile t x).rtags = s.rtags := rfl
@[simp] theorem State.setTile_panels (s : State) (t : Nat) (x : Tile) : (s.setTile t x).panels = s.panels := rfl
@[simp] theorem State.setTile_epochs (s : State) (t : Nat) (x : Tile) : (s.setTile t x).epochs = s.epochs := rfl
@[simp] theorem State.setTile_committed (s : State) (t : Nat) (x : Tile) : (s.setTile t x).committed = s.committed := rfl
@[simp] theorem State.setTile_applied (s : State) (t : Nat) (x : Tile) : (s.setTile t x).applied = s.applied := rfl
@[simp] theorem State.setTile_stage (s : State) (t : Nat) (x : Tile) : (s.setTile t x).stage = s.stage := rfl
@[simp] theorem State.setTile_toApply (s : State) (t : Nat) (x : Tile) : (s.setTile t x).toApply = s.toApply := rfl
@[simp] theorem State.setTile_commitAt (s : State) (t : Nat) (x : Tile) : (s.setTile t x).commitAt = s.commitAt := rfl
@[simp] theorem State.setTile_cores (s : State) (t : Nat) (x : Tile) : (s.setTile t x).cores = s.cores := rfl
@[simp] theorem State.setTile_launches (s : State) (t : Nat) (x : Tile) : (s.setTile t x).launches = s.launches := rfl
@[simp] theorem State.setTile_images (s : State) (t : Nat) (x : Tile) : (s.setTile t x).images = s.images := rfl
@[simp] theorem State.setTile_nextImage (s : State) (t : Nat) (x : Tile) : (s.setTile t x).nextImage = s.nextImage := rfl
@[simp] theorem State.setTile_links (s : State) (t : Nat) (x : Tile) : (s.setTile t x).links = s.links := rfl
@[simp] theorem State.setTile_peers (s : State) (t : Nat) (x : Tile) : (s.setTile t x).peers = s.peers := rfl
@[simp] theorem State.setTile_timebase (s : State) (t : Nat) (x : Tile) : (s.setTile t x).timebase = s.timebase := rfl
@[simp] theorem State.setTile_routes (s : State) (t : Nat) (x : Tile) : (s.setTile t x).routes = s.routes := rfl
@[simp] theorem State.setTile_guestUp (s : State) (t : Nat) (x : Tile) : (s.setTile t x).guestUp = s.guestUp := rfl
@[simp] theorem State.setTile_colls (s : State) (t : Nat) (x : Tile) : (s.setTile t x).colls = s.colls := rfl
@[simp] theorem State.setTile_mctp (s : State) (t : Nat) (x : Tile) : (s.setTile t x).mctp = s.mctp := rfl
@[simp] theorem State.setTile_jobs (s : State) (t : Nat) (x : Tile) : (s.setTile t x).jobs = s.jobs := rfl
@[simp] theorem State.setTile_rsqs (s : State) (t : Nat) (x : Tile) : (s.setTile t x).rsqs = s.rsqs := rfl
@[simp] theorem State.setTile_marks (s : State) (t : Nat) (x : Tile) : (s.setTile t x).marks = s.marks := rfl
@[simp] theorem State.setTile_dumps (s : State) (t : Nat) (x : Tile) : (s.setTile t x).dumps = s.dumps := rfl
@[simp] theorem State.setTile_nextDump (s : State) (t : Nat) (x : Tile) : (s.setTile t x).nextDump = s.nextDump := rfl
@[simp] theorem State.setTile_smpLost (s : State) (t : Nat) (x : Tile) : (s.setTile t x).smpLost = s.smpLost := rfl
@[simp] theorem State.setTile_csmpAt (s : State) (t : Nat) (x : Tile) : (s.setTile t x).csmpAt = s.csmpAt := rfl
@[simp] theorem State.setTile_smpAt (s : State) (t : Nat) (x : Tile) : (s.setTile t x).smpAt = s.smpAt := rfl
@[simp] theorem State.setTile_bwAt (s : State) (t : Nat) (x : Tile) : (s.setTile t x).bwAt = s.bwAt := rfl
@[simp] theorem State.setTile_stepped (s : State) (t : Nat) (x : Tile) : (s.setTile t x).stepped = s.stepped := rfl
@[simp] theorem State.setTile_stash (s : State) (t : Nat) (x : Tile) : (s.setTile t x).stash = s.stash := rfl
@[simp] theorem State.setTile_switches (s : State) (t : Nat) (x : Tile) : (s.setTile t x).switches = s.switches := rfl
@[simp] theorem State.setTile_pwr (s : State) (t : Nat) (x : Tile) : (s.setTile t x).pwr = s.pwr := rfl
@[simp] theorem State.setTile_sensors (s : State) (t : Nat) (x : Tile) : (s.setTile t x).sensors = s.sensors := rfl
@[simp] theorem State.setTile_resetJob (s : State) (t : Nat) (x : Tile) : (s.setTile t x).resetJob = s.resetJob := rfl
@[simp] theorem State.setTile_flash (s : State) (t : Nat) (x : Tile) : (s.setTile t x).flash = s.flash := rfl
@[simp] theorem State.setTile_boot (s : State) (t : Nat) (x : Tile) : (s.setTile t x).boot = s.boot := rfl
@[simp] theorem State.setTile_written (s : State) (t : Nat) (x : Tile) : (s.setTile t x).written = s.written := rfl
@[simp] theorem State.setTile_tap (s : State) (t : Nat) (x : Tile) : (s.setTile t x).tap = s.tap := rfl
@[simp] theorem State.setTile_pins (s : State) (t : Nat) (x : Tile) : (s.setTile t x).pins = s.pins := rfl
@[simp] theorem State.setTile_bindAt (s : State) (t : Nat) (x : Tile) : (s.setTile t x).bindAt = s.bindAt := rfl
@[simp] theorem State.setTile_drainMs (s : State) (t : Nat) (x : Tile) : (s.setTile t x).drainMs = s.drainMs := rfl
@[simp] theorem State.setTile_saved (s : State) (t : Nat) (x : Tile) : (s.setTile t x).saved = s.saved := rfl

/-! ### `State.modTile` writes `tiles` only -/

@[simp] theorem State.modTile_pending (s : State) (t : Nat) (f : Tile → Tile) : (s.modTile t f).pending = s.pending := rfl
@[simp] theorem State.modTile_free (s : State) (t : Nat) (f : Tile → Tile) : (s.modTile t f).free = s.free := rfl
@[simp] theorem State.modTile_out (s : State) (t : Nat) (f : Tile → Tile) : (s.modTile t f).out = s.out := rfl
@[simp] theorem State.modTile_time (s : State) (t : Nat) (f : Tile → Tile) : (s.modTile t f).time = s.time := rfl
@[simp] theorem State.modTile_fuses (s : State) (t : Nat) (f : Tile → Tile) : (s.modTile t f).fuses = s.fuses := rfl
@[simp] theorem State.modTile_regs (s : State) (t : Nat) (f : Tile → Tile) : (s.modTile t f).regs = s.regs := rfl
@[simp] theorem State.modTile_mem (s : State) (t : Nat) (f : Tile → Tile) : (s.modTile t f).mem = s.mem := rfl
@[simp] theorem State.modTile_keys (s : State) (t : Nat) (f : Tile → Tile) : (s.modTile t f).keys = s.keys := rfl
@[simp] theorem State.modTile_keyNext (s : State) (t : Nat) (f : Tile → Tile) : (s.modTile t f).keyNext = s.keyNext := rfl
@[simp] theorem State.modTile_mwk (s : State) (t : Nat) (f : Tile → Tile) : (s.modTile t f).mwk = s.mwk := rfl
@[simp] theorem State.modTile_blobs (s : State) (t : Nat) (f : Tile → Tile) : (s.modTile t f).blobs = s.blobs := rfl
@[simp] theorem State.modTile_hbms (s : State) (t : Nat) (f : Tile → Tile) : (s.modTile t f).hbms = s.hbms := rfl
@[simp] theorem State.modTile_boots (s : State) (t : Nat) (f : Tile → Tile) : (s.modTile t f).boots = s.boots := rfl
@[simp] theorem State.modTile_tlbs (s : State) (t : Nat) (f : Tile → Tile) : (s.modTile t f).tlbs = s.tlbs := rfl
@[simp] theorem State.modTile_walks (s : State) (t : Nat) (f : Tile → Tile) : (s.modTile t f).walks = s.walks := rfl
@[simp] theorem State.modTile_queues (s : State) (t : Nat) (f : Tile → Tile) : (s.modTile t f).queues = s.queues := rfl
@[simp] theorem State.modTile_ctxs (s : State) (t : Nat) (f : Tile → Tile) : (s.modTile t f).ctxs = s.ctxs := rfl
@[simp] theorem State.modTile_funcs (s : State) (t : Nat) (f : Tile → Tile) : (s.modTile t f).funcs = s.funcs := rfl
@[simp] theorem State.modTile_msix (s : State) (t : Nat) (f : Tile → Tile) : (s.modTile t f).msix = s.msix := rfl
@[simp] theorem State.modTile_msixPend (s : State) (t : Nat) (f : Tile → Tile) : (s.modTile t f).msixPend = s.msixPend := rfl
@[simp] theorem State.modTile_cmds (s : State) (t : Nat) (f : Tile → Tile) : (s.modTile t f).cmds = s.cmds := rfl
@[simp] theorem State.modTile_nextCmd (s : State) (t : Nat) (f : Tile → Tile) : (s.modTile t f).nextCmd = s.nextCmd := rfl
@[simp] theorem State.modTile_remotes (s : State) (t : Nat) (f : Tile → Tile) : (s.modTile t f).remotes = s.remotes := rfl
@[simp] theorem State.modTile_nextTag (s : State) (t : Nat) (f : Tile → Tile) : (s.modTile t f).nextTag = s.nextTag := rfl
@[simp] theorem State.modTile_streams (s : State) (t : Nat) (f : Tile → Tile) : (s.modTile t f).streams = s.streams := rfl
@[simp] theorem State.modTile_faultLog (s : State) (t : Nat) (f : Tile → Tile) : (s.modTile t f).faultLog = s.faultLog := rfl
@[simp] theorem State.modTile_fltTail (s : State) (t : Nat) (f : Tile → Tile) : (s.modTile t f).fltTail = s.fltTail := rfl
@[simp] theorem State.modTile_slices (s : State) (t : Nat) (f : Tile → Tile) : (s.modTile t f).slices = s.slices := rfl
@[simp] theorem State.modTile_dirs (s : State) (t : Nat) (f : Tile → Tile) : (s.modTile t f).dirs = s.dirs := rfl
@[simp] theorem State.modTile_dirWait (s : State) (t : Nat) (f : Tile → Tile) : (s.modTile t f).dirWait = s.dirWait := rfl
@[simp] theorem State.modTile_net (s : State) (t : Nat) (f : Tile → Tile) : (s.modTile t f).net = s.net := rfl
@[simp] theorem State.modTile_tracker (s : State) (t : Nat) (f : Tile → Tile) : (s.modTile t f).tracker = s.tracker := rfl
@[simp] theorem State.modTile_skein (s : State) (t : Nat) (f : Tile → Tile) : (s.modTile t f).skein = s.skein := rfl
@[simp] theorem State.modTile_replays (s : State) (t : Nat) (f : Tile → Tile) : (s.modTile t f).replays = s.replays := rfl
@[simp] theorem State.modTile_trackers (s : State) (t : Nat) (f : Tile → Tile) : (s.modTile t f).trackers = s.trackers := rfl
@[simp] theorem State.modTile_leases (s : State) (t : Nat) (f : Tile → Tile) : (s.modTile t f).leases = s.leases := rfl
@[simp] theorem State.modTile_resvs (s : State) (t : Nat) (f : Tile → Tile) : (s.modTile t f).resvs = s.resvs := rfl
@[simp] theorem State.modTile_rtags (s : State) (t : Nat) (f : Tile → Tile) : (s.modTile t f).rtags = s.rtags := rfl
@[simp] theorem State.modTile_panels (s : State) (t : Nat) (f : Tile → Tile) : (s.modTile t f).panels = s.panels := rfl
@[simp] theorem State.modTile_epochs (s : State) (t : Nat) (f : Tile → Tile) : (s.modTile t f).epochs = s.epochs := rfl
@[simp] theorem State.modTile_committed (s : State) (t : Nat) (f : Tile → Tile) : (s.modTile t f).committed = s.committed := rfl
@[simp] theorem State.modTile_applied (s : State) (t : Nat) (f : Tile → Tile) : (s.modTile t f).applied = s.applied := rfl
@[simp] theorem State.modTile_stage (s : State) (t : Nat) (f : Tile → Tile) : (s.modTile t f).stage = s.stage := rfl
@[simp] theorem State.modTile_toApply (s : State) (t : Nat) (f : Tile → Tile) : (s.modTile t f).toApply = s.toApply := rfl
@[simp] theorem State.modTile_commitAt (s : State) (t : Nat) (f : Tile → Tile) : (s.modTile t f).commitAt = s.commitAt := rfl
@[simp] theorem State.modTile_cores (s : State) (t : Nat) (f : Tile → Tile) : (s.modTile t f).cores = s.cores := rfl
@[simp] theorem State.modTile_launches (s : State) (t : Nat) (f : Tile → Tile) : (s.modTile t f).launches = s.launches := rfl
@[simp] theorem State.modTile_images (s : State) (t : Nat) (f : Tile → Tile) : (s.modTile t f).images = s.images := rfl
@[simp] theorem State.modTile_nextImage (s : State) (t : Nat) (f : Tile → Tile) : (s.modTile t f).nextImage = s.nextImage := rfl
@[simp] theorem State.modTile_links (s : State) (t : Nat) (f : Tile → Tile) : (s.modTile t f).links = s.links := rfl
@[simp] theorem State.modTile_peers (s : State) (t : Nat) (f : Tile → Tile) : (s.modTile t f).peers = s.peers := rfl
@[simp] theorem State.modTile_timebase (s : State) (t : Nat) (f : Tile → Tile) : (s.modTile t f).timebase = s.timebase := rfl
@[simp] theorem State.modTile_routes (s : State) (t : Nat) (f : Tile → Tile) : (s.modTile t f).routes = s.routes := rfl
@[simp] theorem State.modTile_guestUp (s : State) (t : Nat) (f : Tile → Tile) : (s.modTile t f).guestUp = s.guestUp := rfl
@[simp] theorem State.modTile_colls (s : State) (t : Nat) (f : Tile → Tile) : (s.modTile t f).colls = s.colls := rfl
@[simp] theorem State.modTile_mctp (s : State) (t : Nat) (f : Tile → Tile) : (s.modTile t f).mctp = s.mctp := rfl
@[simp] theorem State.modTile_jobs (s : State) (t : Nat) (f : Tile → Tile) : (s.modTile t f).jobs = s.jobs := rfl
@[simp] theorem State.modTile_rsqs (s : State) (t : Nat) (f : Tile → Tile) : (s.modTile t f).rsqs = s.rsqs := rfl
@[simp] theorem State.modTile_marks (s : State) (t : Nat) (f : Tile → Tile) : (s.modTile t f).marks = s.marks := rfl
@[simp] theorem State.modTile_dumps (s : State) (t : Nat) (f : Tile → Tile) : (s.modTile t f).dumps = s.dumps := rfl
@[simp] theorem State.modTile_nextDump (s : State) (t : Nat) (f : Tile → Tile) : (s.modTile t f).nextDump = s.nextDump := rfl
@[simp] theorem State.modTile_smpLost (s : State) (t : Nat) (f : Tile → Tile) : (s.modTile t f).smpLost = s.smpLost := rfl
@[simp] theorem State.modTile_csmpAt (s : State) (t : Nat) (f : Tile → Tile) : (s.modTile t f).csmpAt = s.csmpAt := rfl
@[simp] theorem State.modTile_smpAt (s : State) (t : Nat) (f : Tile → Tile) : (s.modTile t f).smpAt = s.smpAt := rfl
@[simp] theorem State.modTile_bwAt (s : State) (t : Nat) (f : Tile → Tile) : (s.modTile t f).bwAt = s.bwAt := rfl
@[simp] theorem State.modTile_stepped (s : State) (t : Nat) (f : Tile → Tile) : (s.modTile t f).stepped = s.stepped := rfl
@[simp] theorem State.modTile_stash (s : State) (t : Nat) (f : Tile → Tile) : (s.modTile t f).stash = s.stash := rfl
@[simp] theorem State.modTile_switches (s : State) (t : Nat) (f : Tile → Tile) : (s.modTile t f).switches = s.switches := rfl
@[simp] theorem State.modTile_pwr (s : State) (t : Nat) (f : Tile → Tile) : (s.modTile t f).pwr = s.pwr := rfl
@[simp] theorem State.modTile_sensors (s : State) (t : Nat) (f : Tile → Tile) : (s.modTile t f).sensors = s.sensors := rfl
@[simp] theorem State.modTile_resetJob (s : State) (t : Nat) (f : Tile → Tile) : (s.modTile t f).resetJob = s.resetJob := rfl
@[simp] theorem State.modTile_flash (s : State) (t : Nat) (f : Tile → Tile) : (s.modTile t f).flash = s.flash := rfl
@[simp] theorem State.modTile_boot (s : State) (t : Nat) (f : Tile → Tile) : (s.modTile t f).boot = s.boot := rfl
@[simp] theorem State.modTile_written (s : State) (t : Nat) (f : Tile → Tile) : (s.modTile t f).written = s.written := rfl
@[simp] theorem State.modTile_tap (s : State) (t : Nat) (f : Tile → Tile) : (s.modTile t f).tap = s.tap := rfl
@[simp] theorem State.modTile_pins (s : State) (t : Nat) (f : Tile → Tile) : (s.modTile t f).pins = s.pins := rfl
@[simp] theorem State.modTile_bindAt (s : State) (t : Nat) (f : Tile → Tile) : (s.modTile t f).bindAt = s.bindAt := rfl
@[simp] theorem State.modTile_drainMs (s : State) (t : Nat) (f : Tile → Tile) : (s.modTile t f).drainMs = s.drainMs := rfl
@[simp] theorem State.modTile_saved (s : State) (t : Nat) (f : Tile → Tile) : (s.modTile t f).saved = s.saved := rfl

/-! ### `State.setCore` writes `cores` only -/

@[simp] theorem State.setCore_pending (s : State) (k : Nat) (x : Core) : (s.setCore k x).pending = s.pending := rfl
@[simp] theorem State.setCore_free (s : State) (k : Nat) (x : Core) : (s.setCore k x).free = s.free := rfl
@[simp] theorem State.setCore_out (s : State) (k : Nat) (x : Core) : (s.setCore k x).out = s.out := rfl
@[simp] theorem State.setCore_time (s : State) (k : Nat) (x : Core) : (s.setCore k x).time = s.time := rfl
@[simp] theorem State.setCore_fuses (s : State) (k : Nat) (x : Core) : (s.setCore k x).fuses = s.fuses := rfl
@[simp] theorem State.setCore_regs (s : State) (k : Nat) (x : Core) : (s.setCore k x).regs = s.regs := rfl
@[simp] theorem State.setCore_mem (s : State) (k : Nat) (x : Core) : (s.setCore k x).mem = s.mem := rfl
@[simp] theorem State.setCore_keys (s : State) (k : Nat) (x : Core) : (s.setCore k x).keys = s.keys := rfl
@[simp] theorem State.setCore_keyNext (s : State) (k : Nat) (x : Core) : (s.setCore k x).keyNext = s.keyNext := rfl
@[simp] theorem State.setCore_mwk (s : State) (k : Nat) (x : Core) : (s.setCore k x).mwk = s.mwk := rfl
@[simp] theorem State.setCore_blobs (s : State) (k : Nat) (x : Core) : (s.setCore k x).blobs = s.blobs := rfl
@[simp] theorem State.setCore_hbms (s : State) (k : Nat) (x : Core) : (s.setCore k x).hbms = s.hbms := rfl
@[simp] theorem State.setCore_boots (s : State) (k : Nat) (x : Core) : (s.setCore k x).boots = s.boots := rfl
@[simp] theorem State.setCore_tlbs (s : State) (k : Nat) (x : Core) : (s.setCore k x).tlbs = s.tlbs := rfl
@[simp] theorem State.setCore_walks (s : State) (k : Nat) (x : Core) : (s.setCore k x).walks = s.walks := rfl
@[simp] theorem State.setCore_queues (s : State) (k : Nat) (x : Core) : (s.setCore k x).queues = s.queues := rfl
@[simp] theorem State.setCore_ctxs (s : State) (k : Nat) (x : Core) : (s.setCore k x).ctxs = s.ctxs := rfl
@[simp] theorem State.setCore_funcs (s : State) (k : Nat) (x : Core) : (s.setCore k x).funcs = s.funcs := rfl
@[simp] theorem State.setCore_msix (s : State) (k : Nat) (x : Core) : (s.setCore k x).msix = s.msix := rfl
@[simp] theorem State.setCore_msixPend (s : State) (k : Nat) (x : Core) : (s.setCore k x).msixPend = s.msixPend := rfl
@[simp] theorem State.setCore_cmds (s : State) (k : Nat) (x : Core) : (s.setCore k x).cmds = s.cmds := rfl
@[simp] theorem State.setCore_nextCmd (s : State) (k : Nat) (x : Core) : (s.setCore k x).nextCmd = s.nextCmd := rfl
@[simp] theorem State.setCore_remotes (s : State) (k : Nat) (x : Core) : (s.setCore k x).remotes = s.remotes := rfl
@[simp] theorem State.setCore_nextTag (s : State) (k : Nat) (x : Core) : (s.setCore k x).nextTag = s.nextTag := rfl
@[simp] theorem State.setCore_streams (s : State) (k : Nat) (x : Core) : (s.setCore k x).streams = s.streams := rfl
@[simp] theorem State.setCore_faultLog (s : State) (k : Nat) (x : Core) : (s.setCore k x).faultLog = s.faultLog := rfl
@[simp] theorem State.setCore_fltTail (s : State) (k : Nat) (x : Core) : (s.setCore k x).fltTail = s.fltTail := rfl
@[simp] theorem State.setCore_slices (s : State) (k : Nat) (x : Core) : (s.setCore k x).slices = s.slices := rfl
@[simp] theorem State.setCore_dirs (s : State) (k : Nat) (x : Core) : (s.setCore k x).dirs = s.dirs := rfl
@[simp] theorem State.setCore_dirWait (s : State) (k : Nat) (x : Core) : (s.setCore k x).dirWait = s.dirWait := rfl
@[simp] theorem State.setCore_net (s : State) (k : Nat) (x : Core) : (s.setCore k x).net = s.net := rfl
@[simp] theorem State.setCore_tracker (s : State) (k : Nat) (x : Core) : (s.setCore k x).tracker = s.tracker := rfl
@[simp] theorem State.setCore_skein (s : State) (k : Nat) (x : Core) : (s.setCore k x).skein = s.skein := rfl
@[simp] theorem State.setCore_replays (s : State) (k : Nat) (x : Core) : (s.setCore k x).replays = s.replays := rfl
@[simp] theorem State.setCore_trackers (s : State) (k : Nat) (x : Core) : (s.setCore k x).trackers = s.trackers := rfl
@[simp] theorem State.setCore_leases (s : State) (k : Nat) (x : Core) : (s.setCore k x).leases = s.leases := rfl
@[simp] theorem State.setCore_resvs (s : State) (k : Nat) (x : Core) : (s.setCore k x).resvs = s.resvs := rfl
@[simp] theorem State.setCore_rtags (s : State) (k : Nat) (x : Core) : (s.setCore k x).rtags = s.rtags := rfl
@[simp] theorem State.setCore_panels (s : State) (k : Nat) (x : Core) : (s.setCore k x).panels = s.panels := rfl
@[simp] theorem State.setCore_tiles (s : State) (k : Nat) (x : Core) : (s.setCore k x).tiles = s.tiles := rfl
@[simp] theorem State.setCore_epochs (s : State) (k : Nat) (x : Core) : (s.setCore k x).epochs = s.epochs := rfl
@[simp] theorem State.setCore_committed (s : State) (k : Nat) (x : Core) : (s.setCore k x).committed = s.committed := rfl
@[simp] theorem State.setCore_applied (s : State) (k : Nat) (x : Core) : (s.setCore k x).applied = s.applied := rfl
@[simp] theorem State.setCore_stage (s : State) (k : Nat) (x : Core) : (s.setCore k x).stage = s.stage := rfl
@[simp] theorem State.setCore_toApply (s : State) (k : Nat) (x : Core) : (s.setCore k x).toApply = s.toApply := rfl
@[simp] theorem State.setCore_commitAt (s : State) (k : Nat) (x : Core) : (s.setCore k x).commitAt = s.commitAt := rfl
@[simp] theorem State.setCore_launches (s : State) (k : Nat) (x : Core) : (s.setCore k x).launches = s.launches := rfl
@[simp] theorem State.setCore_images (s : State) (k : Nat) (x : Core) : (s.setCore k x).images = s.images := rfl
@[simp] theorem State.setCore_nextImage (s : State) (k : Nat) (x : Core) : (s.setCore k x).nextImage = s.nextImage := rfl
@[simp] theorem State.setCore_links (s : State) (k : Nat) (x : Core) : (s.setCore k x).links = s.links := rfl
@[simp] theorem State.setCore_peers (s : State) (k : Nat) (x : Core) : (s.setCore k x).peers = s.peers := rfl
@[simp] theorem State.setCore_timebase (s : State) (k : Nat) (x : Core) : (s.setCore k x).timebase = s.timebase := rfl
@[simp] theorem State.setCore_routes (s : State) (k : Nat) (x : Core) : (s.setCore k x).routes = s.routes := rfl
@[simp] theorem State.setCore_guestUp (s : State) (k : Nat) (x : Core) : (s.setCore k x).guestUp = s.guestUp := rfl
@[simp] theorem State.setCore_colls (s : State) (k : Nat) (x : Core) : (s.setCore k x).colls = s.colls := rfl
@[simp] theorem State.setCore_mctp (s : State) (k : Nat) (x : Core) : (s.setCore k x).mctp = s.mctp := rfl
@[simp] theorem State.setCore_jobs (s : State) (k : Nat) (x : Core) : (s.setCore k x).jobs = s.jobs := rfl
@[simp] theorem State.setCore_rsqs (s : State) (k : Nat) (x : Core) : (s.setCore k x).rsqs = s.rsqs := rfl
@[simp] theorem State.setCore_marks (s : State) (k : Nat) (x : Core) : (s.setCore k x).marks = s.marks := rfl
@[simp] theorem State.setCore_dumps (s : State) (k : Nat) (x : Core) : (s.setCore k x).dumps = s.dumps := rfl
@[simp] theorem State.setCore_nextDump (s : State) (k : Nat) (x : Core) : (s.setCore k x).nextDump = s.nextDump := rfl
@[simp] theorem State.setCore_smpLost (s : State) (k : Nat) (x : Core) : (s.setCore k x).smpLost = s.smpLost := rfl
@[simp] theorem State.setCore_csmpAt (s : State) (k : Nat) (x : Core) : (s.setCore k x).csmpAt = s.csmpAt := rfl
@[simp] theorem State.setCore_smpAt (s : State) (k : Nat) (x : Core) : (s.setCore k x).smpAt = s.smpAt := rfl
@[simp] theorem State.setCore_bwAt (s : State) (k : Nat) (x : Core) : (s.setCore k x).bwAt = s.bwAt := rfl
@[simp] theorem State.setCore_stepped (s : State) (k : Nat) (x : Core) : (s.setCore k x).stepped = s.stepped := rfl
@[simp] theorem State.setCore_stash (s : State) (k : Nat) (x : Core) : (s.setCore k x).stash = s.stash := rfl
@[simp] theorem State.setCore_switches (s : State) (k : Nat) (x : Core) : (s.setCore k x).switches = s.switches := rfl
@[simp] theorem State.setCore_pwr (s : State) (k : Nat) (x : Core) : (s.setCore k x).pwr = s.pwr := rfl
@[simp] theorem State.setCore_sensors (s : State) (k : Nat) (x : Core) : (s.setCore k x).sensors = s.sensors := rfl
@[simp] theorem State.setCore_resetJob (s : State) (k : Nat) (x : Core) : (s.setCore k x).resetJob = s.resetJob := rfl
@[simp] theorem State.setCore_flash (s : State) (k : Nat) (x : Core) : (s.setCore k x).flash = s.flash := rfl
@[simp] theorem State.setCore_boot (s : State) (k : Nat) (x : Core) : (s.setCore k x).boot = s.boot := rfl
@[simp] theorem State.setCore_written (s : State) (k : Nat) (x : Core) : (s.setCore k x).written = s.written := rfl
@[simp] theorem State.setCore_tap (s : State) (k : Nat) (x : Core) : (s.setCore k x).tap = s.tap := rfl
@[simp] theorem State.setCore_pins (s : State) (k : Nat) (x : Core) : (s.setCore k x).pins = s.pins := rfl
@[simp] theorem State.setCore_bindAt (s : State) (k : Nat) (x : Core) : (s.setCore k x).bindAt = s.bindAt := rfl
@[simp] theorem State.setCore_drainMs (s : State) (k : Nat) (x : Core) : (s.setCore k x).drainMs = s.drainMs := rfl
@[simp] theorem State.setCore_saved (s : State) (k : Nat) (x : Core) : (s.setCore k x).saved = s.saved := rfl

/-! ### `State.setLink` writes `links` only -/

@[simp] theorem State.setLink_pending (s : State) (l : Nat) (x : LinkSt) : (s.setLink l x).pending = s.pending := rfl
@[simp] theorem State.setLink_free (s : State) (l : Nat) (x : LinkSt) : (s.setLink l x).free = s.free := rfl
@[simp] theorem State.setLink_out (s : State) (l : Nat) (x : LinkSt) : (s.setLink l x).out = s.out := rfl
@[simp] theorem State.setLink_time (s : State) (l : Nat) (x : LinkSt) : (s.setLink l x).time = s.time := rfl
@[simp] theorem State.setLink_fuses (s : State) (l : Nat) (x : LinkSt) : (s.setLink l x).fuses = s.fuses := rfl
@[simp] theorem State.setLink_regs (s : State) (l : Nat) (x : LinkSt) : (s.setLink l x).regs = s.regs := rfl
@[simp] theorem State.setLink_mem (s : State) (l : Nat) (x : LinkSt) : (s.setLink l x).mem = s.mem := rfl
@[simp] theorem State.setLink_keys (s : State) (l : Nat) (x : LinkSt) : (s.setLink l x).keys = s.keys := rfl
@[simp] theorem State.setLink_keyNext (s : State) (l : Nat) (x : LinkSt) : (s.setLink l x).keyNext = s.keyNext := rfl
@[simp] theorem State.setLink_mwk (s : State) (l : Nat) (x : LinkSt) : (s.setLink l x).mwk = s.mwk := rfl
@[simp] theorem State.setLink_blobs (s : State) (l : Nat) (x : LinkSt) : (s.setLink l x).blobs = s.blobs := rfl
@[simp] theorem State.setLink_hbms (s : State) (l : Nat) (x : LinkSt) : (s.setLink l x).hbms = s.hbms := rfl
@[simp] theorem State.setLink_boots (s : State) (l : Nat) (x : LinkSt) : (s.setLink l x).boots = s.boots := rfl
@[simp] theorem State.setLink_tlbs (s : State) (l : Nat) (x : LinkSt) : (s.setLink l x).tlbs = s.tlbs := rfl
@[simp] theorem State.setLink_walks (s : State) (l : Nat) (x : LinkSt) : (s.setLink l x).walks = s.walks := rfl
@[simp] theorem State.setLink_queues (s : State) (l : Nat) (x : LinkSt) : (s.setLink l x).queues = s.queues := rfl
@[simp] theorem State.setLink_ctxs (s : State) (l : Nat) (x : LinkSt) : (s.setLink l x).ctxs = s.ctxs := rfl
@[simp] theorem State.setLink_funcs (s : State) (l : Nat) (x : LinkSt) : (s.setLink l x).funcs = s.funcs := rfl
@[simp] theorem State.setLink_msix (s : State) (l : Nat) (x : LinkSt) : (s.setLink l x).msix = s.msix := rfl
@[simp] theorem State.setLink_msixPend (s : State) (l : Nat) (x : LinkSt) : (s.setLink l x).msixPend = s.msixPend := rfl
@[simp] theorem State.setLink_cmds (s : State) (l : Nat) (x : LinkSt) : (s.setLink l x).cmds = s.cmds := rfl
@[simp] theorem State.setLink_nextCmd (s : State) (l : Nat) (x : LinkSt) : (s.setLink l x).nextCmd = s.nextCmd := rfl
@[simp] theorem State.setLink_remotes (s : State) (l : Nat) (x : LinkSt) : (s.setLink l x).remotes = s.remotes := rfl
@[simp] theorem State.setLink_nextTag (s : State) (l : Nat) (x : LinkSt) : (s.setLink l x).nextTag = s.nextTag := rfl
@[simp] theorem State.setLink_streams (s : State) (l : Nat) (x : LinkSt) : (s.setLink l x).streams = s.streams := rfl
@[simp] theorem State.setLink_faultLog (s : State) (l : Nat) (x : LinkSt) : (s.setLink l x).faultLog = s.faultLog := rfl
@[simp] theorem State.setLink_fltTail (s : State) (l : Nat) (x : LinkSt) : (s.setLink l x).fltTail = s.fltTail := rfl
@[simp] theorem State.setLink_slices (s : State) (l : Nat) (x : LinkSt) : (s.setLink l x).slices = s.slices := rfl
@[simp] theorem State.setLink_dirs (s : State) (l : Nat) (x : LinkSt) : (s.setLink l x).dirs = s.dirs := rfl
@[simp] theorem State.setLink_dirWait (s : State) (l : Nat) (x : LinkSt) : (s.setLink l x).dirWait = s.dirWait := rfl
@[simp] theorem State.setLink_net (s : State) (l : Nat) (x : LinkSt) : (s.setLink l x).net = s.net := rfl
@[simp] theorem State.setLink_tracker (s : State) (l : Nat) (x : LinkSt) : (s.setLink l x).tracker = s.tracker := rfl
@[simp] theorem State.setLink_skein (s : State) (l : Nat) (x : LinkSt) : (s.setLink l x).skein = s.skein := rfl
@[simp] theorem State.setLink_replays (s : State) (l : Nat) (x : LinkSt) : (s.setLink l x).replays = s.replays := rfl
@[simp] theorem State.setLink_trackers (s : State) (l : Nat) (x : LinkSt) : (s.setLink l x).trackers = s.trackers := rfl
@[simp] theorem State.setLink_leases (s : State) (l : Nat) (x : LinkSt) : (s.setLink l x).leases = s.leases := rfl
@[simp] theorem State.setLink_resvs (s : State) (l : Nat) (x : LinkSt) : (s.setLink l x).resvs = s.resvs := rfl
@[simp] theorem State.setLink_rtags (s : State) (l : Nat) (x : LinkSt) : (s.setLink l x).rtags = s.rtags := rfl
@[simp] theorem State.setLink_panels (s : State) (l : Nat) (x : LinkSt) : (s.setLink l x).panels = s.panels := rfl
@[simp] theorem State.setLink_tiles (s : State) (l : Nat) (x : LinkSt) : (s.setLink l x).tiles = s.tiles := rfl
@[simp] theorem State.setLink_epochs (s : State) (l : Nat) (x : LinkSt) : (s.setLink l x).epochs = s.epochs := rfl
@[simp] theorem State.setLink_committed (s : State) (l : Nat) (x : LinkSt) : (s.setLink l x).committed = s.committed := rfl
@[simp] theorem State.setLink_applied (s : State) (l : Nat) (x : LinkSt) : (s.setLink l x).applied = s.applied := rfl
@[simp] theorem State.setLink_stage (s : State) (l : Nat) (x : LinkSt) : (s.setLink l x).stage = s.stage := rfl
@[simp] theorem State.setLink_toApply (s : State) (l : Nat) (x : LinkSt) : (s.setLink l x).toApply = s.toApply := rfl
@[simp] theorem State.setLink_commitAt (s : State) (l : Nat) (x : LinkSt) : (s.setLink l x).commitAt = s.commitAt := rfl
@[simp] theorem State.setLink_cores (s : State) (l : Nat) (x : LinkSt) : (s.setLink l x).cores = s.cores := rfl
@[simp] theorem State.setLink_launches (s : State) (l : Nat) (x : LinkSt) : (s.setLink l x).launches = s.launches := rfl
@[simp] theorem State.setLink_images (s : State) (l : Nat) (x : LinkSt) : (s.setLink l x).images = s.images := rfl
@[simp] theorem State.setLink_nextImage (s : State) (l : Nat) (x : LinkSt) : (s.setLink l x).nextImage = s.nextImage := rfl
@[simp] theorem State.setLink_peers (s : State) (l : Nat) (x : LinkSt) : (s.setLink l x).peers = s.peers := rfl
@[simp] theorem State.setLink_timebase (s : State) (l : Nat) (x : LinkSt) : (s.setLink l x).timebase = s.timebase := rfl
@[simp] theorem State.setLink_routes (s : State) (l : Nat) (x : LinkSt) : (s.setLink l x).routes = s.routes := rfl
@[simp] theorem State.setLink_guestUp (s : State) (l : Nat) (x : LinkSt) : (s.setLink l x).guestUp = s.guestUp := rfl
@[simp] theorem State.setLink_colls (s : State) (l : Nat) (x : LinkSt) : (s.setLink l x).colls = s.colls := rfl
@[simp] theorem State.setLink_mctp (s : State) (l : Nat) (x : LinkSt) : (s.setLink l x).mctp = s.mctp := rfl
@[simp] theorem State.setLink_jobs (s : State) (l : Nat) (x : LinkSt) : (s.setLink l x).jobs = s.jobs := rfl
@[simp] theorem State.setLink_rsqs (s : State) (l : Nat) (x : LinkSt) : (s.setLink l x).rsqs = s.rsqs := rfl
@[simp] theorem State.setLink_marks (s : State) (l : Nat) (x : LinkSt) : (s.setLink l x).marks = s.marks := rfl
@[simp] theorem State.setLink_dumps (s : State) (l : Nat) (x : LinkSt) : (s.setLink l x).dumps = s.dumps := rfl
@[simp] theorem State.setLink_nextDump (s : State) (l : Nat) (x : LinkSt) : (s.setLink l x).nextDump = s.nextDump := rfl
@[simp] theorem State.setLink_smpLost (s : State) (l : Nat) (x : LinkSt) : (s.setLink l x).smpLost = s.smpLost := rfl
@[simp] theorem State.setLink_csmpAt (s : State) (l : Nat) (x : LinkSt) : (s.setLink l x).csmpAt = s.csmpAt := rfl
@[simp] theorem State.setLink_smpAt (s : State) (l : Nat) (x : LinkSt) : (s.setLink l x).smpAt = s.smpAt := rfl
@[simp] theorem State.setLink_bwAt (s : State) (l : Nat) (x : LinkSt) : (s.setLink l x).bwAt = s.bwAt := rfl
@[simp] theorem State.setLink_stepped (s : State) (l : Nat) (x : LinkSt) : (s.setLink l x).stepped = s.stepped := rfl
@[simp] theorem State.setLink_stash (s : State) (l : Nat) (x : LinkSt) : (s.setLink l x).stash = s.stash := rfl
@[simp] theorem State.setLink_switches (s : State) (l : Nat) (x : LinkSt) : (s.setLink l x).switches = s.switches := rfl
@[simp] theorem State.setLink_pwr (s : State) (l : Nat) (x : LinkSt) : (s.setLink l x).pwr = s.pwr := rfl
@[simp] theorem State.setLink_sensors (s : State) (l : Nat) (x : LinkSt) : (s.setLink l x).sensors = s.sensors := rfl
@[simp] theorem State.setLink_resetJob (s : State) (l : Nat) (x : LinkSt) : (s.setLink l x).resetJob = s.resetJob := rfl
@[simp] theorem State.setLink_flash (s : State) (l : Nat) (x : LinkSt) : (s.setLink l x).flash = s.flash := rfl
@[simp] theorem State.setLink_boot (s : State) (l : Nat) (x : LinkSt) : (s.setLink l x).boot = s.boot := rfl
@[simp] theorem State.setLink_written (s : State) (l : Nat) (x : LinkSt) : (s.setLink l x).written = s.written := rfl
@[simp] theorem State.setLink_tap (s : State) (l : Nat) (x : LinkSt) : (s.setLink l x).tap = s.tap := rfl
@[simp] theorem State.setLink_pins (s : State) (l : Nat) (x : LinkSt) : (s.setLink l x).pins = s.pins := rfl
@[simp] theorem State.setLink_bindAt (s : State) (l : Nat) (x : LinkSt) : (s.setLink l x).bindAt = s.bindAt := rfl
@[simp] theorem State.setLink_drainMs (s : State) (l : Nat) (x : LinkSt) : (s.setLink l x).drainMs = s.drainMs := rfl
@[simp] theorem State.setLink_saved (s : State) (l : Nat) (x : LinkSt) : (s.setLink l x).saved = s.saved := rfl

/-! ### `State.modPwr` writes `pwr` only -/

@[simp] theorem State.modPwr_pending (s : State) (f : Pwr → Pwr) : (s.modPwr f).pending = s.pending := rfl
@[simp] theorem State.modPwr_free (s : State) (f : Pwr → Pwr) : (s.modPwr f).free = s.free := rfl
@[simp] theorem State.modPwr_out (s : State) (f : Pwr → Pwr) : (s.modPwr f).out = s.out := rfl
@[simp] theorem State.modPwr_time (s : State) (f : Pwr → Pwr) : (s.modPwr f).time = s.time := rfl
@[simp] theorem State.modPwr_fuses (s : State) (f : Pwr → Pwr) : (s.modPwr f).fuses = s.fuses := rfl
@[simp] theorem State.modPwr_regs (s : State) (f : Pwr → Pwr) : (s.modPwr f).regs = s.regs := rfl
@[simp] theorem State.modPwr_mem (s : State) (f : Pwr → Pwr) : (s.modPwr f).mem = s.mem := rfl
@[simp] theorem State.modPwr_keys (s : State) (f : Pwr → Pwr) : (s.modPwr f).keys = s.keys := rfl
@[simp] theorem State.modPwr_keyNext (s : State) (f : Pwr → Pwr) : (s.modPwr f).keyNext = s.keyNext := rfl
@[simp] theorem State.modPwr_mwk (s : State) (f : Pwr → Pwr) : (s.modPwr f).mwk = s.mwk := rfl
@[simp] theorem State.modPwr_blobs (s : State) (f : Pwr → Pwr) : (s.modPwr f).blobs = s.blobs := rfl
@[simp] theorem State.modPwr_hbms (s : State) (f : Pwr → Pwr) : (s.modPwr f).hbms = s.hbms := rfl
@[simp] theorem State.modPwr_boots (s : State) (f : Pwr → Pwr) : (s.modPwr f).boots = s.boots := rfl
@[simp] theorem State.modPwr_tlbs (s : State) (f : Pwr → Pwr) : (s.modPwr f).tlbs = s.tlbs := rfl
@[simp] theorem State.modPwr_walks (s : State) (f : Pwr → Pwr) : (s.modPwr f).walks = s.walks := rfl
@[simp] theorem State.modPwr_queues (s : State) (f : Pwr → Pwr) : (s.modPwr f).queues = s.queues := rfl
@[simp] theorem State.modPwr_ctxs (s : State) (f : Pwr → Pwr) : (s.modPwr f).ctxs = s.ctxs := rfl
@[simp] theorem State.modPwr_funcs (s : State) (f : Pwr → Pwr) : (s.modPwr f).funcs = s.funcs := rfl
@[simp] theorem State.modPwr_msix (s : State) (f : Pwr → Pwr) : (s.modPwr f).msix = s.msix := rfl
@[simp] theorem State.modPwr_msixPend (s : State) (f : Pwr → Pwr) : (s.modPwr f).msixPend = s.msixPend := rfl
@[simp] theorem State.modPwr_cmds (s : State) (f : Pwr → Pwr) : (s.modPwr f).cmds = s.cmds := rfl
@[simp] theorem State.modPwr_nextCmd (s : State) (f : Pwr → Pwr) : (s.modPwr f).nextCmd = s.nextCmd := rfl
@[simp] theorem State.modPwr_remotes (s : State) (f : Pwr → Pwr) : (s.modPwr f).remotes = s.remotes := rfl
@[simp] theorem State.modPwr_nextTag (s : State) (f : Pwr → Pwr) : (s.modPwr f).nextTag = s.nextTag := rfl
@[simp] theorem State.modPwr_streams (s : State) (f : Pwr → Pwr) : (s.modPwr f).streams = s.streams := rfl
@[simp] theorem State.modPwr_faultLog (s : State) (f : Pwr → Pwr) : (s.modPwr f).faultLog = s.faultLog := rfl
@[simp] theorem State.modPwr_fltTail (s : State) (f : Pwr → Pwr) : (s.modPwr f).fltTail = s.fltTail := rfl
@[simp] theorem State.modPwr_slices (s : State) (f : Pwr → Pwr) : (s.modPwr f).slices = s.slices := rfl
@[simp] theorem State.modPwr_dirs (s : State) (f : Pwr → Pwr) : (s.modPwr f).dirs = s.dirs := rfl
@[simp] theorem State.modPwr_dirWait (s : State) (f : Pwr → Pwr) : (s.modPwr f).dirWait = s.dirWait := rfl
@[simp] theorem State.modPwr_net (s : State) (f : Pwr → Pwr) : (s.modPwr f).net = s.net := rfl
@[simp] theorem State.modPwr_tracker (s : State) (f : Pwr → Pwr) : (s.modPwr f).tracker = s.tracker := rfl
@[simp] theorem State.modPwr_skein (s : State) (f : Pwr → Pwr) : (s.modPwr f).skein = s.skein := rfl
@[simp] theorem State.modPwr_replays (s : State) (f : Pwr → Pwr) : (s.modPwr f).replays = s.replays := rfl
@[simp] theorem State.modPwr_trackers (s : State) (f : Pwr → Pwr) : (s.modPwr f).trackers = s.trackers := rfl
@[simp] theorem State.modPwr_leases (s : State) (f : Pwr → Pwr) : (s.modPwr f).leases = s.leases := rfl
@[simp] theorem State.modPwr_resvs (s : State) (f : Pwr → Pwr) : (s.modPwr f).resvs = s.resvs := rfl
@[simp] theorem State.modPwr_rtags (s : State) (f : Pwr → Pwr) : (s.modPwr f).rtags = s.rtags := rfl
@[simp] theorem State.modPwr_panels (s : State) (f : Pwr → Pwr) : (s.modPwr f).panels = s.panels := rfl
@[simp] theorem State.modPwr_tiles (s : State) (f : Pwr → Pwr) : (s.modPwr f).tiles = s.tiles := rfl
@[simp] theorem State.modPwr_epochs (s : State) (f : Pwr → Pwr) : (s.modPwr f).epochs = s.epochs := rfl
@[simp] theorem State.modPwr_committed (s : State) (f : Pwr → Pwr) : (s.modPwr f).committed = s.committed := rfl
@[simp] theorem State.modPwr_applied (s : State) (f : Pwr → Pwr) : (s.modPwr f).applied = s.applied := rfl
@[simp] theorem State.modPwr_stage (s : State) (f : Pwr → Pwr) : (s.modPwr f).stage = s.stage := rfl
@[simp] theorem State.modPwr_toApply (s : State) (f : Pwr → Pwr) : (s.modPwr f).toApply = s.toApply := rfl
@[simp] theorem State.modPwr_commitAt (s : State) (f : Pwr → Pwr) : (s.modPwr f).commitAt = s.commitAt := rfl
@[simp] theorem State.modPwr_cores (s : State) (f : Pwr → Pwr) : (s.modPwr f).cores = s.cores := rfl
@[simp] theorem State.modPwr_launches (s : State) (f : Pwr → Pwr) : (s.modPwr f).launches = s.launches := rfl
@[simp] theorem State.modPwr_images (s : State) (f : Pwr → Pwr) : (s.modPwr f).images = s.images := rfl
@[simp] theorem State.modPwr_nextImage (s : State) (f : Pwr → Pwr) : (s.modPwr f).nextImage = s.nextImage := rfl
@[simp] theorem State.modPwr_links (s : State) (f : Pwr → Pwr) : (s.modPwr f).links = s.links := rfl
@[simp] theorem State.modPwr_peers (s : State) (f : Pwr → Pwr) : (s.modPwr f).peers = s.peers := rfl
@[simp] theorem State.modPwr_timebase (s : State) (f : Pwr → Pwr) : (s.modPwr f).timebase = s.timebase := rfl
@[simp] theorem State.modPwr_routes (s : State) (f : Pwr → Pwr) : (s.modPwr f).routes = s.routes := rfl
@[simp] theorem State.modPwr_guestUp (s : State) (f : Pwr → Pwr) : (s.modPwr f).guestUp = s.guestUp := rfl
@[simp] theorem State.modPwr_colls (s : State) (f : Pwr → Pwr) : (s.modPwr f).colls = s.colls := rfl
@[simp] theorem State.modPwr_mctp (s : State) (f : Pwr → Pwr) : (s.modPwr f).mctp = s.mctp := rfl
@[simp] theorem State.modPwr_jobs (s : State) (f : Pwr → Pwr) : (s.modPwr f).jobs = s.jobs := rfl
@[simp] theorem State.modPwr_rsqs (s : State) (f : Pwr → Pwr) : (s.modPwr f).rsqs = s.rsqs := rfl
@[simp] theorem State.modPwr_marks (s : State) (f : Pwr → Pwr) : (s.modPwr f).marks = s.marks := rfl
@[simp] theorem State.modPwr_dumps (s : State) (f : Pwr → Pwr) : (s.modPwr f).dumps = s.dumps := rfl
@[simp] theorem State.modPwr_nextDump (s : State) (f : Pwr → Pwr) : (s.modPwr f).nextDump = s.nextDump := rfl
@[simp] theorem State.modPwr_smpLost (s : State) (f : Pwr → Pwr) : (s.modPwr f).smpLost = s.smpLost := rfl
@[simp] theorem State.modPwr_csmpAt (s : State) (f : Pwr → Pwr) : (s.modPwr f).csmpAt = s.csmpAt := rfl
@[simp] theorem State.modPwr_smpAt (s : State) (f : Pwr → Pwr) : (s.modPwr f).smpAt = s.smpAt := rfl
@[simp] theorem State.modPwr_bwAt (s : State) (f : Pwr → Pwr) : (s.modPwr f).bwAt = s.bwAt := rfl
@[simp] theorem State.modPwr_stepped (s : State) (f : Pwr → Pwr) : (s.modPwr f).stepped = s.stepped := rfl
@[simp] theorem State.modPwr_stash (s : State) (f : Pwr → Pwr) : (s.modPwr f).stash = s.stash := rfl
@[simp] theorem State.modPwr_switches (s : State) (f : Pwr → Pwr) : (s.modPwr f).switches = s.switches := rfl
@[simp] theorem State.modPwr_sensors (s : State) (f : Pwr → Pwr) : (s.modPwr f).sensors = s.sensors := rfl
@[simp] theorem State.modPwr_resetJob (s : State) (f : Pwr → Pwr) : (s.modPwr f).resetJob = s.resetJob := rfl
@[simp] theorem State.modPwr_flash (s : State) (f : Pwr → Pwr) : (s.modPwr f).flash = s.flash := rfl
@[simp] theorem State.modPwr_boot (s : State) (f : Pwr → Pwr) : (s.modPwr f).boot = s.boot := rfl
@[simp] theorem State.modPwr_written (s : State) (f : Pwr → Pwr) : (s.modPwr f).written = s.written := rfl
@[simp] theorem State.modPwr_tap (s : State) (f : Pwr → Pwr) : (s.modPwr f).tap = s.tap := rfl
@[simp] theorem State.modPwr_pins (s : State) (f : Pwr → Pwr) : (s.modPwr f).pins = s.pins := rfl
@[simp] theorem State.modPwr_bindAt (s : State) (f : Pwr → Pwr) : (s.modPwr f).bindAt = s.bindAt := rfl
@[simp] theorem State.modPwr_drainMs (s : State) (f : Pwr → Pwr) : (s.modPwr f).drainMs = s.drainMs := rfl
@[simp] theorem State.modPwr_saved (s : State) (f : Pwr → Pwr) : (s.modPwr f).saved = s.saved := rfl

/-! ### `State.setStack` writes `hbms` only -/

@[simp] theorem State.setStack_pending (s : State) (h : Nat) (x : Stack) : (s.setStack h x).pending = s.pending := rfl
@[simp] theorem State.setStack_free (s : State) (h : Nat) (x : Stack) : (s.setStack h x).free = s.free := rfl
@[simp] theorem State.setStack_out (s : State) (h : Nat) (x : Stack) : (s.setStack h x).out = s.out := rfl
@[simp] theorem State.setStack_time (s : State) (h : Nat) (x : Stack) : (s.setStack h x).time = s.time := rfl
@[simp] theorem State.setStack_fuses (s : State) (h : Nat) (x : Stack) : (s.setStack h x).fuses = s.fuses := rfl
@[simp] theorem State.setStack_regs (s : State) (h : Nat) (x : Stack) : (s.setStack h x).regs = s.regs := rfl
@[simp] theorem State.setStack_mem (s : State) (h : Nat) (x : Stack) : (s.setStack h x).mem = s.mem := rfl
@[simp] theorem State.setStack_keys (s : State) (h : Nat) (x : Stack) : (s.setStack h x).keys = s.keys := rfl
@[simp] theorem State.setStack_keyNext (s : State) (h : Nat) (x : Stack) : (s.setStack h x).keyNext = s.keyNext := rfl
@[simp] theorem State.setStack_mwk (s : State) (h : Nat) (x : Stack) : (s.setStack h x).mwk = s.mwk := rfl
@[simp] theorem State.setStack_blobs (s : State) (h : Nat) (x : Stack) : (s.setStack h x).blobs = s.blobs := rfl
@[simp] theorem State.setStack_boots (s : State) (h : Nat) (x : Stack) : (s.setStack h x).boots = s.boots := rfl
@[simp] theorem State.setStack_tlbs (s : State) (h : Nat) (x : Stack) : (s.setStack h x).tlbs = s.tlbs := rfl
@[simp] theorem State.setStack_walks (s : State) (h : Nat) (x : Stack) : (s.setStack h x).walks = s.walks := rfl
@[simp] theorem State.setStack_queues (s : State) (h : Nat) (x : Stack) : (s.setStack h x).queues = s.queues := rfl
@[simp] theorem State.setStack_ctxs (s : State) (h : Nat) (x : Stack) : (s.setStack h x).ctxs = s.ctxs := rfl
@[simp] theorem State.setStack_funcs (s : State) (h : Nat) (x : Stack) : (s.setStack h x).funcs = s.funcs := rfl
@[simp] theorem State.setStack_msix (s : State) (h : Nat) (x : Stack) : (s.setStack h x).msix = s.msix := rfl
@[simp] theorem State.setStack_msixPend (s : State) (h : Nat) (x : Stack) : (s.setStack h x).msixPend = s.msixPend := rfl
@[simp] theorem State.setStack_cmds (s : State) (h : Nat) (x : Stack) : (s.setStack h x).cmds = s.cmds := rfl
@[simp] theorem State.setStack_nextCmd (s : State) (h : Nat) (x : Stack) : (s.setStack h x).nextCmd = s.nextCmd := rfl
@[simp] theorem State.setStack_remotes (s : State) (h : Nat) (x : Stack) : (s.setStack h x).remotes = s.remotes := rfl
@[simp] theorem State.setStack_nextTag (s : State) (h : Nat) (x : Stack) : (s.setStack h x).nextTag = s.nextTag := rfl
@[simp] theorem State.setStack_streams (s : State) (h : Nat) (x : Stack) : (s.setStack h x).streams = s.streams := rfl
@[simp] theorem State.setStack_faultLog (s : State) (h : Nat) (x : Stack) : (s.setStack h x).faultLog = s.faultLog := rfl
@[simp] theorem State.setStack_fltTail (s : State) (h : Nat) (x : Stack) : (s.setStack h x).fltTail = s.fltTail := rfl
@[simp] theorem State.setStack_slices (s : State) (h : Nat) (x : Stack) : (s.setStack h x).slices = s.slices := rfl
@[simp] theorem State.setStack_dirs (s : State) (h : Nat) (x : Stack) : (s.setStack h x).dirs = s.dirs := rfl
@[simp] theorem State.setStack_dirWait (s : State) (h : Nat) (x : Stack) : (s.setStack h x).dirWait = s.dirWait := rfl
@[simp] theorem State.setStack_net (s : State) (h : Nat) (x : Stack) : (s.setStack h x).net = s.net := rfl
@[simp] theorem State.setStack_tracker (s : State) (h : Nat) (x : Stack) : (s.setStack h x).tracker = s.tracker := rfl
@[simp] theorem State.setStack_skein (s : State) (h : Nat) (x : Stack) : (s.setStack h x).skein = s.skein := rfl
@[simp] theorem State.setStack_replays (s : State) (h : Nat) (x : Stack) : (s.setStack h x).replays = s.replays := rfl
@[simp] theorem State.setStack_trackers (s : State) (h : Nat) (x : Stack) : (s.setStack h x).trackers = s.trackers := rfl
@[simp] theorem State.setStack_leases (s : State) (h : Nat) (x : Stack) : (s.setStack h x).leases = s.leases := rfl
@[simp] theorem State.setStack_resvs (s : State) (h : Nat) (x : Stack) : (s.setStack h x).resvs = s.resvs := rfl
@[simp] theorem State.setStack_rtags (s : State) (h : Nat) (x : Stack) : (s.setStack h x).rtags = s.rtags := rfl
@[simp] theorem State.setStack_panels (s : State) (h : Nat) (x : Stack) : (s.setStack h x).panels = s.panels := rfl
@[simp] theorem State.setStack_tiles (s : State) (h : Nat) (x : Stack) : (s.setStack h x).tiles = s.tiles := rfl
@[simp] theorem State.setStack_epochs (s : State) (h : Nat) (x : Stack) : (s.setStack h x).epochs = s.epochs := rfl
@[simp] theorem State.setStack_committed (s : State) (h : Nat) (x : Stack) : (s.setStack h x).committed = s.committed := rfl
@[simp] theorem State.setStack_applied (s : State) (h : Nat) (x : Stack) : (s.setStack h x).applied = s.applied := rfl
@[simp] theorem State.setStack_stage (s : State) (h : Nat) (x : Stack) : (s.setStack h x).stage = s.stage := rfl
@[simp] theorem State.setStack_toApply (s : State) (h : Nat) (x : Stack) : (s.setStack h x).toApply = s.toApply := rfl
@[simp] theorem State.setStack_commitAt (s : State) (h : Nat) (x : Stack) : (s.setStack h x).commitAt = s.commitAt := rfl
@[simp] theorem State.setStack_cores (s : State) (h : Nat) (x : Stack) : (s.setStack h x).cores = s.cores := rfl
@[simp] theorem State.setStack_launches (s : State) (h : Nat) (x : Stack) : (s.setStack h x).launches = s.launches := rfl
@[simp] theorem State.setStack_images (s : State) (h : Nat) (x : Stack) : (s.setStack h x).images = s.images := rfl
@[simp] theorem State.setStack_nextImage (s : State) (h : Nat) (x : Stack) : (s.setStack h x).nextImage = s.nextImage := rfl
@[simp] theorem State.setStack_links (s : State) (h : Nat) (x : Stack) : (s.setStack h x).links = s.links := rfl
@[simp] theorem State.setStack_peers (s : State) (h : Nat) (x : Stack) : (s.setStack h x).peers = s.peers := rfl
@[simp] theorem State.setStack_timebase (s : State) (h : Nat) (x : Stack) : (s.setStack h x).timebase = s.timebase := rfl
@[simp] theorem State.setStack_routes (s : State) (h : Nat) (x : Stack) : (s.setStack h x).routes = s.routes := rfl
@[simp] theorem State.setStack_guestUp (s : State) (h : Nat) (x : Stack) : (s.setStack h x).guestUp = s.guestUp := rfl
@[simp] theorem State.setStack_colls (s : State) (h : Nat) (x : Stack) : (s.setStack h x).colls = s.colls := rfl
@[simp] theorem State.setStack_mctp (s : State) (h : Nat) (x : Stack) : (s.setStack h x).mctp = s.mctp := rfl
@[simp] theorem State.setStack_jobs (s : State) (h : Nat) (x : Stack) : (s.setStack h x).jobs = s.jobs := rfl
@[simp] theorem State.setStack_rsqs (s : State) (h : Nat) (x : Stack) : (s.setStack h x).rsqs = s.rsqs := rfl
@[simp] theorem State.setStack_marks (s : State) (h : Nat) (x : Stack) : (s.setStack h x).marks = s.marks := rfl
@[simp] theorem State.setStack_dumps (s : State) (h : Nat) (x : Stack) : (s.setStack h x).dumps = s.dumps := rfl
@[simp] theorem State.setStack_nextDump (s : State) (h : Nat) (x : Stack) : (s.setStack h x).nextDump = s.nextDump := rfl
@[simp] theorem State.setStack_smpLost (s : State) (h : Nat) (x : Stack) : (s.setStack h x).smpLost = s.smpLost := rfl
@[simp] theorem State.setStack_csmpAt (s : State) (h : Nat) (x : Stack) : (s.setStack h x).csmpAt = s.csmpAt := rfl
@[simp] theorem State.setStack_smpAt (s : State) (h : Nat) (x : Stack) : (s.setStack h x).smpAt = s.smpAt := rfl
@[simp] theorem State.setStack_bwAt (s : State) (h : Nat) (x : Stack) : (s.setStack h x).bwAt = s.bwAt := rfl
@[simp] theorem State.setStack_stepped (s : State) (h : Nat) (x : Stack) : (s.setStack h x).stepped = s.stepped := rfl
@[simp] theorem State.setStack_stash (s : State) (h : Nat) (x : Stack) : (s.setStack h x).stash = s.stash := rfl
@[simp] theorem State.setStack_switches (s : State) (h : Nat) (x : Stack) : (s.setStack h x).switches = s.switches := rfl
@[simp] theorem State.setStack_pwr (s : State) (h : Nat) (x : Stack) : (s.setStack h x).pwr = s.pwr := rfl
@[simp] theorem State.setStack_sensors (s : State) (h : Nat) (x : Stack) : (s.setStack h x).sensors = s.sensors := rfl
@[simp] theorem State.setStack_resetJob (s : State) (h : Nat) (x : Stack) : (s.setStack h x).resetJob = s.resetJob := rfl
@[simp] theorem State.setStack_flash (s : State) (h : Nat) (x : Stack) : (s.setStack h x).flash = s.flash := rfl
@[simp] theorem State.setStack_boot (s : State) (h : Nat) (x : Stack) : (s.setStack h x).boot = s.boot := rfl
@[simp] theorem State.setStack_written (s : State) (h : Nat) (x : Stack) : (s.setStack h x).written = s.written := rfl
@[simp] theorem State.setStack_tap (s : State) (h : Nat) (x : Stack) : (s.setStack h x).tap = s.tap := rfl
@[simp] theorem State.setStack_pins (s : State) (h : Nat) (x : Stack) : (s.setStack h x).pins = s.pins := rfl
@[simp] theorem State.setStack_bindAt (s : State) (h : Nat) (x : Stack) : (s.setStack h x).bindAt = s.bindAt := rfl
@[simp] theorem State.setStack_drainMs (s : State) (h : Nat) (x : Stack) : (s.setStack h x).drainMs = s.drainMs := rfl
@[simp] theorem State.setStack_saved (s : State) (h : Nat) (x : Stack) : (s.setStack h x).saved = s.saved := rfl

/-! ### `State.putRsq` writes `rsqs` only -/

@[simp] theorem State.putRsq_pending (s : State) (p : Nat) (x : Rsq) : (s.putRsq p x).pending = s.pending := rfl
@[simp] theorem State.putRsq_free (s : State) (p : Nat) (x : Rsq) : (s.putRsq p x).free = s.free := rfl
@[simp] theorem State.putRsq_out (s : State) (p : Nat) (x : Rsq) : (s.putRsq p x).out = s.out := rfl
@[simp] theorem State.putRsq_time (s : State) (p : Nat) (x : Rsq) : (s.putRsq p x).time = s.time := rfl
@[simp] theorem State.putRsq_fuses (s : State) (p : Nat) (x : Rsq) : (s.putRsq p x).fuses = s.fuses := rfl
@[simp] theorem State.putRsq_regs (s : State) (p : Nat) (x : Rsq) : (s.putRsq p x).regs = s.regs := rfl
@[simp] theorem State.putRsq_mem (s : State) (p : Nat) (x : Rsq) : (s.putRsq p x).mem = s.mem := rfl
@[simp] theorem State.putRsq_keys (s : State) (p : Nat) (x : Rsq) : (s.putRsq p x).keys = s.keys := rfl
@[simp] theorem State.putRsq_keyNext (s : State) (p : Nat) (x : Rsq) : (s.putRsq p x).keyNext = s.keyNext := rfl
@[simp] theorem State.putRsq_mwk (s : State) (p : Nat) (x : Rsq) : (s.putRsq p x).mwk = s.mwk := rfl
@[simp] theorem State.putRsq_blobs (s : State) (p : Nat) (x : Rsq) : (s.putRsq p x).blobs = s.blobs := rfl
@[simp] theorem State.putRsq_hbms (s : State) (p : Nat) (x : Rsq) : (s.putRsq p x).hbms = s.hbms := rfl
@[simp] theorem State.putRsq_boots (s : State) (p : Nat) (x : Rsq) : (s.putRsq p x).boots = s.boots := rfl
@[simp] theorem State.putRsq_tlbs (s : State) (p : Nat) (x : Rsq) : (s.putRsq p x).tlbs = s.tlbs := rfl
@[simp] theorem State.putRsq_walks (s : State) (p : Nat) (x : Rsq) : (s.putRsq p x).walks = s.walks := rfl
@[simp] theorem State.putRsq_queues (s : State) (p : Nat) (x : Rsq) : (s.putRsq p x).queues = s.queues := rfl
@[simp] theorem State.putRsq_ctxs (s : State) (p : Nat) (x : Rsq) : (s.putRsq p x).ctxs = s.ctxs := rfl
@[simp] theorem State.putRsq_funcs (s : State) (p : Nat) (x : Rsq) : (s.putRsq p x).funcs = s.funcs := rfl
@[simp] theorem State.putRsq_msix (s : State) (p : Nat) (x : Rsq) : (s.putRsq p x).msix = s.msix := rfl
@[simp] theorem State.putRsq_msixPend (s : State) (p : Nat) (x : Rsq) : (s.putRsq p x).msixPend = s.msixPend := rfl
@[simp] theorem State.putRsq_cmds (s : State) (p : Nat) (x : Rsq) : (s.putRsq p x).cmds = s.cmds := rfl
@[simp] theorem State.putRsq_nextCmd (s : State) (p : Nat) (x : Rsq) : (s.putRsq p x).nextCmd = s.nextCmd := rfl
@[simp] theorem State.putRsq_remotes (s : State) (p : Nat) (x : Rsq) : (s.putRsq p x).remotes = s.remotes := rfl
@[simp] theorem State.putRsq_nextTag (s : State) (p : Nat) (x : Rsq) : (s.putRsq p x).nextTag = s.nextTag := rfl
@[simp] theorem State.putRsq_streams (s : State) (p : Nat) (x : Rsq) : (s.putRsq p x).streams = s.streams := rfl
@[simp] theorem State.putRsq_faultLog (s : State) (p : Nat) (x : Rsq) : (s.putRsq p x).faultLog = s.faultLog := rfl
@[simp] theorem State.putRsq_fltTail (s : State) (p : Nat) (x : Rsq) : (s.putRsq p x).fltTail = s.fltTail := rfl
@[simp] theorem State.putRsq_slices (s : State) (p : Nat) (x : Rsq) : (s.putRsq p x).slices = s.slices := rfl
@[simp] theorem State.putRsq_dirs (s : State) (p : Nat) (x : Rsq) : (s.putRsq p x).dirs = s.dirs := rfl
@[simp] theorem State.putRsq_dirWait (s : State) (p : Nat) (x : Rsq) : (s.putRsq p x).dirWait = s.dirWait := rfl
@[simp] theorem State.putRsq_net (s : State) (p : Nat) (x : Rsq) : (s.putRsq p x).net = s.net := rfl
@[simp] theorem State.putRsq_tracker (s : State) (p : Nat) (x : Rsq) : (s.putRsq p x).tracker = s.tracker := rfl
@[simp] theorem State.putRsq_skein (s : State) (p : Nat) (x : Rsq) : (s.putRsq p x).skein = s.skein := rfl
@[simp] theorem State.putRsq_replays (s : State) (p : Nat) (x : Rsq) : (s.putRsq p x).replays = s.replays := rfl
@[simp] theorem State.putRsq_trackers (s : State) (p : Nat) (x : Rsq) : (s.putRsq p x).trackers = s.trackers := rfl
@[simp] theorem State.putRsq_leases (s : State) (p : Nat) (x : Rsq) : (s.putRsq p x).leases = s.leases := rfl
@[simp] theorem State.putRsq_resvs (s : State) (p : Nat) (x : Rsq) : (s.putRsq p x).resvs = s.resvs := rfl
@[simp] theorem State.putRsq_rtags (s : State) (p : Nat) (x : Rsq) : (s.putRsq p x).rtags = s.rtags := rfl
@[simp] theorem State.putRsq_panels (s : State) (p : Nat) (x : Rsq) : (s.putRsq p x).panels = s.panels := rfl
@[simp] theorem State.putRsq_tiles (s : State) (p : Nat) (x : Rsq) : (s.putRsq p x).tiles = s.tiles := rfl
@[simp] theorem State.putRsq_epochs (s : State) (p : Nat) (x : Rsq) : (s.putRsq p x).epochs = s.epochs := rfl
@[simp] theorem State.putRsq_committed (s : State) (p : Nat) (x : Rsq) : (s.putRsq p x).committed = s.committed := rfl
@[simp] theorem State.putRsq_applied (s : State) (p : Nat) (x : Rsq) : (s.putRsq p x).applied = s.applied := rfl
@[simp] theorem State.putRsq_stage (s : State) (p : Nat) (x : Rsq) : (s.putRsq p x).stage = s.stage := rfl
@[simp] theorem State.putRsq_toApply (s : State) (p : Nat) (x : Rsq) : (s.putRsq p x).toApply = s.toApply := rfl
@[simp] theorem State.putRsq_commitAt (s : State) (p : Nat) (x : Rsq) : (s.putRsq p x).commitAt = s.commitAt := rfl
@[simp] theorem State.putRsq_cores (s : State) (p : Nat) (x : Rsq) : (s.putRsq p x).cores = s.cores := rfl
@[simp] theorem State.putRsq_launches (s : State) (p : Nat) (x : Rsq) : (s.putRsq p x).launches = s.launches := rfl
@[simp] theorem State.putRsq_images (s : State) (p : Nat) (x : Rsq) : (s.putRsq p x).images = s.images := rfl
@[simp] theorem State.putRsq_nextImage (s : State) (p : Nat) (x : Rsq) : (s.putRsq p x).nextImage = s.nextImage := rfl
@[simp] theorem State.putRsq_links (s : State) (p : Nat) (x : Rsq) : (s.putRsq p x).links = s.links := rfl
@[simp] theorem State.putRsq_peers (s : State) (p : Nat) (x : Rsq) : (s.putRsq p x).peers = s.peers := rfl
@[simp] theorem State.putRsq_timebase (s : State) (p : Nat) (x : Rsq) : (s.putRsq p x).timebase = s.timebase := rfl
@[simp] theorem State.putRsq_routes (s : State) (p : Nat) (x : Rsq) : (s.putRsq p x).routes = s.routes := rfl
@[simp] theorem State.putRsq_guestUp (s : State) (p : Nat) (x : Rsq) : (s.putRsq p x).guestUp = s.guestUp := rfl
@[simp] theorem State.putRsq_colls (s : State) (p : Nat) (x : Rsq) : (s.putRsq p x).colls = s.colls := rfl
@[simp] theorem State.putRsq_mctp (s : State) (p : Nat) (x : Rsq) : (s.putRsq p x).mctp = s.mctp := rfl
@[simp] theorem State.putRsq_jobs (s : State) (p : Nat) (x : Rsq) : (s.putRsq p x).jobs = s.jobs := rfl
@[simp] theorem State.putRsq_marks (s : State) (p : Nat) (x : Rsq) : (s.putRsq p x).marks = s.marks := rfl
@[simp] theorem State.putRsq_dumps (s : State) (p : Nat) (x : Rsq) : (s.putRsq p x).dumps = s.dumps := rfl
@[simp] theorem State.putRsq_nextDump (s : State) (p : Nat) (x : Rsq) : (s.putRsq p x).nextDump = s.nextDump := rfl
@[simp] theorem State.putRsq_smpLost (s : State) (p : Nat) (x : Rsq) : (s.putRsq p x).smpLost = s.smpLost := rfl
@[simp] theorem State.putRsq_csmpAt (s : State) (p : Nat) (x : Rsq) : (s.putRsq p x).csmpAt = s.csmpAt := rfl
@[simp] theorem State.putRsq_smpAt (s : State) (p : Nat) (x : Rsq) : (s.putRsq p x).smpAt = s.smpAt := rfl
@[simp] theorem State.putRsq_bwAt (s : State) (p : Nat) (x : Rsq) : (s.putRsq p x).bwAt = s.bwAt := rfl
@[simp] theorem State.putRsq_stepped (s : State) (p : Nat) (x : Rsq) : (s.putRsq p x).stepped = s.stepped := rfl
@[simp] theorem State.putRsq_stash (s : State) (p : Nat) (x : Rsq) : (s.putRsq p x).stash = s.stash := rfl
@[simp] theorem State.putRsq_switches (s : State) (p : Nat) (x : Rsq) : (s.putRsq p x).switches = s.switches := rfl
@[simp] theorem State.putRsq_pwr (s : State) (p : Nat) (x : Rsq) : (s.putRsq p x).pwr = s.pwr := rfl
@[simp] theorem State.putRsq_sensors (s : State) (p : Nat) (x : Rsq) : (s.putRsq p x).sensors = s.sensors := rfl
@[simp] theorem State.putRsq_resetJob (s : State) (p : Nat) (x : Rsq) : (s.putRsq p x).resetJob = s.resetJob := rfl
@[simp] theorem State.putRsq_flash (s : State) (p : Nat) (x : Rsq) : (s.putRsq p x).flash = s.flash := rfl
@[simp] theorem State.putRsq_boot (s : State) (p : Nat) (x : Rsq) : (s.putRsq p x).boot = s.boot := rfl
@[simp] theorem State.putRsq_written (s : State) (p : Nat) (x : Rsq) : (s.putRsq p x).written = s.written := rfl
@[simp] theorem State.putRsq_tap (s : State) (p : Nat) (x : Rsq) : (s.putRsq p x).tap = s.tap := rfl
@[simp] theorem State.putRsq_pins (s : State) (p : Nat) (x : Rsq) : (s.putRsq p x).pins = s.pins := rfl
@[simp] theorem State.putRsq_bindAt (s : State) (p : Nat) (x : Rsq) : (s.putRsq p x).bindAt = s.bindAt := rfl
@[simp] theorem State.putRsq_drainMs (s : State) (p : Nat) (x : Rsq) : (s.putRsq p x).drainMs = s.drainMs := rfl
@[simp] theorem State.putRsq_saved (s : State) (p : Nat) (x : Rsq) : (s.putRsq p x).saved = s.saved := rfl

/-! ### `State.setSlice` writes `slices` only -/

@[simp] theorem State.setSlice_pending (s : State) (q : Nat) (x : Slice) : (s.setSlice q x).pending = s.pending := rfl
@[simp] theorem State.setSlice_free (s : State) (q : Nat) (x : Slice) : (s.setSlice q x).free = s.free := rfl
@[simp] theorem State.setSlice_out (s : State) (q : Nat) (x : Slice) : (s.setSlice q x).out = s.out := rfl
@[simp] theorem State.setSlice_time (s : State) (q : Nat) (x : Slice) : (s.setSlice q x).time = s.time := rfl
@[simp] theorem State.setSlice_fuses (s : State) (q : Nat) (x : Slice) : (s.setSlice q x).fuses = s.fuses := rfl
@[simp] theorem State.setSlice_regs (s : State) (q : Nat) (x : Slice) : (s.setSlice q x).regs = s.regs := rfl
@[simp] theorem State.setSlice_mem (s : State) (q : Nat) (x : Slice) : (s.setSlice q x).mem = s.mem := rfl
@[simp] theorem State.setSlice_keys (s : State) (q : Nat) (x : Slice) : (s.setSlice q x).keys = s.keys := rfl
@[simp] theorem State.setSlice_keyNext (s : State) (q : Nat) (x : Slice) : (s.setSlice q x).keyNext = s.keyNext := rfl
@[simp] theorem State.setSlice_mwk (s : State) (q : Nat) (x : Slice) : (s.setSlice q x).mwk = s.mwk := rfl
@[simp] theorem State.setSlice_blobs (s : State) (q : Nat) (x : Slice) : (s.setSlice q x).blobs = s.blobs := rfl
@[simp] theorem State.setSlice_hbms (s : State) (q : Nat) (x : Slice) : (s.setSlice q x).hbms = s.hbms := rfl
@[simp] theorem State.setSlice_boots (s : State) (q : Nat) (x : Slice) : (s.setSlice q x).boots = s.boots := rfl
@[simp] theorem State.setSlice_tlbs (s : State) (q : Nat) (x : Slice) : (s.setSlice q x).tlbs = s.tlbs := rfl
@[simp] theorem State.setSlice_walks (s : State) (q : Nat) (x : Slice) : (s.setSlice q x).walks = s.walks := rfl
@[simp] theorem State.setSlice_queues (s : State) (q : Nat) (x : Slice) : (s.setSlice q x).queues = s.queues := rfl
@[simp] theorem State.setSlice_ctxs (s : State) (q : Nat) (x : Slice) : (s.setSlice q x).ctxs = s.ctxs := rfl
@[simp] theorem State.setSlice_funcs (s : State) (q : Nat) (x : Slice) : (s.setSlice q x).funcs = s.funcs := rfl
@[simp] theorem State.setSlice_msix (s : State) (q : Nat) (x : Slice) : (s.setSlice q x).msix = s.msix := rfl
@[simp] theorem State.setSlice_msixPend (s : State) (q : Nat) (x : Slice) : (s.setSlice q x).msixPend = s.msixPend := rfl
@[simp] theorem State.setSlice_cmds (s : State) (q : Nat) (x : Slice) : (s.setSlice q x).cmds = s.cmds := rfl
@[simp] theorem State.setSlice_nextCmd (s : State) (q : Nat) (x : Slice) : (s.setSlice q x).nextCmd = s.nextCmd := rfl
@[simp] theorem State.setSlice_remotes (s : State) (q : Nat) (x : Slice) : (s.setSlice q x).remotes = s.remotes := rfl
@[simp] theorem State.setSlice_nextTag (s : State) (q : Nat) (x : Slice) : (s.setSlice q x).nextTag = s.nextTag := rfl
@[simp] theorem State.setSlice_streams (s : State) (q : Nat) (x : Slice) : (s.setSlice q x).streams = s.streams := rfl
@[simp] theorem State.setSlice_faultLog (s : State) (q : Nat) (x : Slice) : (s.setSlice q x).faultLog = s.faultLog := rfl
@[simp] theorem State.setSlice_fltTail (s : State) (q : Nat) (x : Slice) : (s.setSlice q x).fltTail = s.fltTail := rfl
@[simp] theorem State.setSlice_dirs (s : State) (q : Nat) (x : Slice) : (s.setSlice q x).dirs = s.dirs := rfl
@[simp] theorem State.setSlice_dirWait (s : State) (q : Nat) (x : Slice) : (s.setSlice q x).dirWait = s.dirWait := rfl
@[simp] theorem State.setSlice_net (s : State) (q : Nat) (x : Slice) : (s.setSlice q x).net = s.net := rfl
@[simp] theorem State.setSlice_tracker (s : State) (q : Nat) (x : Slice) : (s.setSlice q x).tracker = s.tracker := rfl
@[simp] theorem State.setSlice_skein (s : State) (q : Nat) (x : Slice) : (s.setSlice q x).skein = s.skein := rfl
@[simp] theorem State.setSlice_replays (s : State) (q : Nat) (x : Slice) : (s.setSlice q x).replays = s.replays := rfl
@[simp] theorem State.setSlice_trackers (s : State) (q : Nat) (x : Slice) : (s.setSlice q x).trackers = s.trackers := rfl
@[simp] theorem State.setSlice_leases (s : State) (q : Nat) (x : Slice) : (s.setSlice q x).leases = s.leases := rfl
@[simp] theorem State.setSlice_resvs (s : State) (q : Nat) (x : Slice) : (s.setSlice q x).resvs = s.resvs := rfl
@[simp] theorem State.setSlice_rtags (s : State) (q : Nat) (x : Slice) : (s.setSlice q x).rtags = s.rtags := rfl
@[simp] theorem State.setSlice_panels (s : State) (q : Nat) (x : Slice) : (s.setSlice q x).panels = s.panels := rfl
@[simp] theorem State.setSlice_tiles (s : State) (q : Nat) (x : Slice) : (s.setSlice q x).tiles = s.tiles := rfl
@[simp] theorem State.setSlice_epochs (s : State) (q : Nat) (x : Slice) : (s.setSlice q x).epochs = s.epochs := rfl
@[simp] theorem State.setSlice_committed (s : State) (q : Nat) (x : Slice) : (s.setSlice q x).committed = s.committed := rfl
@[simp] theorem State.setSlice_applied (s : State) (q : Nat) (x : Slice) : (s.setSlice q x).applied = s.applied := rfl
@[simp] theorem State.setSlice_stage (s : State) (q : Nat) (x : Slice) : (s.setSlice q x).stage = s.stage := rfl
@[simp] theorem State.setSlice_toApply (s : State) (q : Nat) (x : Slice) : (s.setSlice q x).toApply = s.toApply := rfl
@[simp] theorem State.setSlice_commitAt (s : State) (q : Nat) (x : Slice) : (s.setSlice q x).commitAt = s.commitAt := rfl
@[simp] theorem State.setSlice_cores (s : State) (q : Nat) (x : Slice) : (s.setSlice q x).cores = s.cores := rfl
@[simp] theorem State.setSlice_launches (s : State) (q : Nat) (x : Slice) : (s.setSlice q x).launches = s.launches := rfl
@[simp] theorem State.setSlice_images (s : State) (q : Nat) (x : Slice) : (s.setSlice q x).images = s.images := rfl
@[simp] theorem State.setSlice_nextImage (s : State) (q : Nat) (x : Slice) : (s.setSlice q x).nextImage = s.nextImage := rfl
@[simp] theorem State.setSlice_links (s : State) (q : Nat) (x : Slice) : (s.setSlice q x).links = s.links := rfl
@[simp] theorem State.setSlice_peers (s : State) (q : Nat) (x : Slice) : (s.setSlice q x).peers = s.peers := rfl
@[simp] theorem State.setSlice_timebase (s : State) (q : Nat) (x : Slice) : (s.setSlice q x).timebase = s.timebase := rfl
@[simp] theorem State.setSlice_routes (s : State) (q : Nat) (x : Slice) : (s.setSlice q x).routes = s.routes := rfl
@[simp] theorem State.setSlice_guestUp (s : State) (q : Nat) (x : Slice) : (s.setSlice q x).guestUp = s.guestUp := rfl
@[simp] theorem State.setSlice_colls (s : State) (q : Nat) (x : Slice) : (s.setSlice q x).colls = s.colls := rfl
@[simp] theorem State.setSlice_mctp (s : State) (q : Nat) (x : Slice) : (s.setSlice q x).mctp = s.mctp := rfl
@[simp] theorem State.setSlice_jobs (s : State) (q : Nat) (x : Slice) : (s.setSlice q x).jobs = s.jobs := rfl
@[simp] theorem State.setSlice_rsqs (s : State) (q : Nat) (x : Slice) : (s.setSlice q x).rsqs = s.rsqs := rfl
@[simp] theorem State.setSlice_marks (s : State) (q : Nat) (x : Slice) : (s.setSlice q x).marks = s.marks := rfl
@[simp] theorem State.setSlice_dumps (s : State) (q : Nat) (x : Slice) : (s.setSlice q x).dumps = s.dumps := rfl
@[simp] theorem State.setSlice_nextDump (s : State) (q : Nat) (x : Slice) : (s.setSlice q x).nextDump = s.nextDump := rfl
@[simp] theorem State.setSlice_smpLost (s : State) (q : Nat) (x : Slice) : (s.setSlice q x).smpLost = s.smpLost := rfl
@[simp] theorem State.setSlice_csmpAt (s : State) (q : Nat) (x : Slice) : (s.setSlice q x).csmpAt = s.csmpAt := rfl
@[simp] theorem State.setSlice_smpAt (s : State) (q : Nat) (x : Slice) : (s.setSlice q x).smpAt = s.smpAt := rfl
@[simp] theorem State.setSlice_bwAt (s : State) (q : Nat) (x : Slice) : (s.setSlice q x).bwAt = s.bwAt := rfl
@[simp] theorem State.setSlice_stepped (s : State) (q : Nat) (x : Slice) : (s.setSlice q x).stepped = s.stepped := rfl
@[simp] theorem State.setSlice_stash (s : State) (q : Nat) (x : Slice) : (s.setSlice q x).stash = s.stash := rfl
@[simp] theorem State.setSlice_switches (s : State) (q : Nat) (x : Slice) : (s.setSlice q x).switches = s.switches := rfl
@[simp] theorem State.setSlice_pwr (s : State) (q : Nat) (x : Slice) : (s.setSlice q x).pwr = s.pwr := rfl
@[simp] theorem State.setSlice_sensors (s : State) (q : Nat) (x : Slice) : (s.setSlice q x).sensors = s.sensors := rfl
@[simp] theorem State.setSlice_resetJob (s : State) (q : Nat) (x : Slice) : (s.setSlice q x).resetJob = s.resetJob := rfl
@[simp] theorem State.setSlice_flash (s : State) (q : Nat) (x : Slice) : (s.setSlice q x).flash = s.flash := rfl
@[simp] theorem State.setSlice_boot (s : State) (q : Nat) (x : Slice) : (s.setSlice q x).boot = s.boot := rfl
@[simp] theorem State.setSlice_written (s : State) (q : Nat) (x : Slice) : (s.setSlice q x).written = s.written := rfl
@[simp] theorem State.setSlice_tap (s : State) (q : Nat) (x : Slice) : (s.setSlice q x).tap = s.tap := rfl
@[simp] theorem State.setSlice_pins (s : State) (q : Nat) (x : Slice) : (s.setSlice q x).pins = s.pins := rfl
@[simp] theorem State.setSlice_bindAt (s : State) (q : Nat) (x : Slice) : (s.setSlice q x).bindAt = s.bindAt := rfl
@[simp] theorem State.setSlice_drainMs (s : State) (q : Nat) (x : Slice) : (s.setSlice q x).drainMs = s.drainMs := rfl
@[simp] theorem State.setSlice_saved (s : State) (q : Nat) (x : Slice) : (s.setSlice q x).saved = s.saved := rfl

/-! ### `State.send` writes `net` only -/

@[simp] theorem State.send_pending (s : State) (m : Msg) : (s.send m).pending = s.pending := rfl
@[simp] theorem State.send_free (s : State) (m : Msg) : (s.send m).free = s.free := rfl
@[simp] theorem State.send_out (s : State) (m : Msg) : (s.send m).out = s.out := rfl
@[simp] theorem State.send_time (s : State) (m : Msg) : (s.send m).time = s.time := rfl
@[simp] theorem State.send_fuses (s : State) (m : Msg) : (s.send m).fuses = s.fuses := rfl
@[simp] theorem State.send_regs (s : State) (m : Msg) : (s.send m).regs = s.regs := rfl
@[simp] theorem State.send_mem (s : State) (m : Msg) : (s.send m).mem = s.mem := rfl
@[simp] theorem State.send_keys (s : State) (m : Msg) : (s.send m).keys = s.keys := rfl
@[simp] theorem State.send_keyNext (s : State) (m : Msg) : (s.send m).keyNext = s.keyNext := rfl
@[simp] theorem State.send_mwk (s : State) (m : Msg) : (s.send m).mwk = s.mwk := rfl
@[simp] theorem State.send_blobs (s : State) (m : Msg) : (s.send m).blobs = s.blobs := rfl
@[simp] theorem State.send_hbms (s : State) (m : Msg) : (s.send m).hbms = s.hbms := rfl
@[simp] theorem State.send_boots (s : State) (m : Msg) : (s.send m).boots = s.boots := rfl
@[simp] theorem State.send_tlbs (s : State) (m : Msg) : (s.send m).tlbs = s.tlbs := rfl
@[simp] theorem State.send_walks (s : State) (m : Msg) : (s.send m).walks = s.walks := rfl
@[simp] theorem State.send_queues (s : State) (m : Msg) : (s.send m).queues = s.queues := rfl
@[simp] theorem State.send_ctxs (s : State) (m : Msg) : (s.send m).ctxs = s.ctxs := rfl
@[simp] theorem State.send_funcs (s : State) (m : Msg) : (s.send m).funcs = s.funcs := rfl
@[simp] theorem State.send_msix (s : State) (m : Msg) : (s.send m).msix = s.msix := rfl
@[simp] theorem State.send_msixPend (s : State) (m : Msg) : (s.send m).msixPend = s.msixPend := rfl
@[simp] theorem State.send_cmds (s : State) (m : Msg) : (s.send m).cmds = s.cmds := rfl
@[simp] theorem State.send_nextCmd (s : State) (m : Msg) : (s.send m).nextCmd = s.nextCmd := rfl
@[simp] theorem State.send_remotes (s : State) (m : Msg) : (s.send m).remotes = s.remotes := rfl
@[simp] theorem State.send_nextTag (s : State) (m : Msg) : (s.send m).nextTag = s.nextTag := rfl
@[simp] theorem State.send_streams (s : State) (m : Msg) : (s.send m).streams = s.streams := rfl
@[simp] theorem State.send_faultLog (s : State) (m : Msg) : (s.send m).faultLog = s.faultLog := rfl
@[simp] theorem State.send_fltTail (s : State) (m : Msg) : (s.send m).fltTail = s.fltTail := rfl
@[simp] theorem State.send_slices (s : State) (m : Msg) : (s.send m).slices = s.slices := rfl
@[simp] theorem State.send_dirs (s : State) (m : Msg) : (s.send m).dirs = s.dirs := rfl
@[simp] theorem State.send_dirWait (s : State) (m : Msg) : (s.send m).dirWait = s.dirWait := rfl
@[simp] theorem State.send_tracker (s : State) (m : Msg) : (s.send m).tracker = s.tracker := rfl
@[simp] theorem State.send_skein (s : State) (m : Msg) : (s.send m).skein = s.skein := rfl
@[simp] theorem State.send_replays (s : State) (m : Msg) : (s.send m).replays = s.replays := rfl
@[simp] theorem State.send_trackers (s : State) (m : Msg) : (s.send m).trackers = s.trackers := rfl
@[simp] theorem State.send_leases (s : State) (m : Msg) : (s.send m).leases = s.leases := rfl
@[simp] theorem State.send_resvs (s : State) (m : Msg) : (s.send m).resvs = s.resvs := rfl
@[simp] theorem State.send_rtags (s : State) (m : Msg) : (s.send m).rtags = s.rtags := rfl
@[simp] theorem State.send_panels (s : State) (m : Msg) : (s.send m).panels = s.panels := rfl
@[simp] theorem State.send_tiles (s : State) (m : Msg) : (s.send m).tiles = s.tiles := rfl
@[simp] theorem State.send_epochs (s : State) (m : Msg) : (s.send m).epochs = s.epochs := rfl
@[simp] theorem State.send_committed (s : State) (m : Msg) : (s.send m).committed = s.committed := rfl
@[simp] theorem State.send_applied (s : State) (m : Msg) : (s.send m).applied = s.applied := rfl
@[simp] theorem State.send_stage (s : State) (m : Msg) : (s.send m).stage = s.stage := rfl
@[simp] theorem State.send_toApply (s : State) (m : Msg) : (s.send m).toApply = s.toApply := rfl
@[simp] theorem State.send_commitAt (s : State) (m : Msg) : (s.send m).commitAt = s.commitAt := rfl
@[simp] theorem State.send_cores (s : State) (m : Msg) : (s.send m).cores = s.cores := rfl
@[simp] theorem State.send_launches (s : State) (m : Msg) : (s.send m).launches = s.launches := rfl
@[simp] theorem State.send_images (s : State) (m : Msg) : (s.send m).images = s.images := rfl
@[simp] theorem State.send_nextImage (s : State) (m : Msg) : (s.send m).nextImage = s.nextImage := rfl
@[simp] theorem State.send_links (s : State) (m : Msg) : (s.send m).links = s.links := rfl
@[simp] theorem State.send_peers (s : State) (m : Msg) : (s.send m).peers = s.peers := rfl
@[simp] theorem State.send_timebase (s : State) (m : Msg) : (s.send m).timebase = s.timebase := rfl
@[simp] theorem State.send_routes (s : State) (m : Msg) : (s.send m).routes = s.routes := rfl
@[simp] theorem State.send_guestUp (s : State) (m : Msg) : (s.send m).guestUp = s.guestUp := rfl
@[simp] theorem State.send_colls (s : State) (m : Msg) : (s.send m).colls = s.colls := rfl
@[simp] theorem State.send_mctp (s : State) (m : Msg) : (s.send m).mctp = s.mctp := rfl
@[simp] theorem State.send_jobs (s : State) (m : Msg) : (s.send m).jobs = s.jobs := rfl
@[simp] theorem State.send_rsqs (s : State) (m : Msg) : (s.send m).rsqs = s.rsqs := rfl
@[simp] theorem State.send_marks (s : State) (m : Msg) : (s.send m).marks = s.marks := rfl
@[simp] theorem State.send_dumps (s : State) (m : Msg) : (s.send m).dumps = s.dumps := rfl
@[simp] theorem State.send_nextDump (s : State) (m : Msg) : (s.send m).nextDump = s.nextDump := rfl
@[simp] theorem State.send_smpLost (s : State) (m : Msg) : (s.send m).smpLost = s.smpLost := rfl
@[simp] theorem State.send_csmpAt (s : State) (m : Msg) : (s.send m).csmpAt = s.csmpAt := rfl
@[simp] theorem State.send_smpAt (s : State) (m : Msg) : (s.send m).smpAt = s.smpAt := rfl
@[simp] theorem State.send_bwAt (s : State) (m : Msg) : (s.send m).bwAt = s.bwAt := rfl
@[simp] theorem State.send_stepped (s : State) (m : Msg) : (s.send m).stepped = s.stepped := rfl
@[simp] theorem State.send_stash (s : State) (m : Msg) : (s.send m).stash = s.stash := rfl
@[simp] theorem State.send_switches (s : State) (m : Msg) : (s.send m).switches = s.switches := rfl
@[simp] theorem State.send_pwr (s : State) (m : Msg) : (s.send m).pwr = s.pwr := rfl
@[simp] theorem State.send_sensors (s : State) (m : Msg) : (s.send m).sensors = s.sensors := rfl
@[simp] theorem State.send_resetJob (s : State) (m : Msg) : (s.send m).resetJob = s.resetJob := rfl
@[simp] theorem State.send_flash (s : State) (m : Msg) : (s.send m).flash = s.flash := rfl
@[simp] theorem State.send_boot (s : State) (m : Msg) : (s.send m).boot = s.boot := rfl
@[simp] theorem State.send_written (s : State) (m : Msg) : (s.send m).written = s.written := rfl
@[simp] theorem State.send_tap (s : State) (m : Msg) : (s.send m).tap = s.tap := rfl
@[simp] theorem State.send_pins (s : State) (m : Msg) : (s.send m).pins = s.pins := rfl
@[simp] theorem State.send_bindAt (s : State) (m : Msg) : (s.send m).bindAt = s.bindAt := rfl
@[simp] theorem State.send_drainMs (s : State) (m : Msg) : (s.send m).drainMs = s.drainMs := rfl
@[simp] theorem State.send_saved (s : State) (m : Msg) : (s.send m).saved = s.saved := rfl

/-! ### A fresh value advances the counter only -/

@[simp] theorem State.fresh_pending (s : State) : s.fresh.2.pending = s.pending := rfl
@[simp] theorem State.fresh_out (s : State) : s.fresh.2.out = s.out := rfl
@[simp] theorem State.fresh_time (s : State) : s.fresh.2.time = s.time := rfl
@[simp] theorem State.fresh_fuses (s : State) : s.fresh.2.fuses = s.fuses := rfl
@[simp] theorem State.fresh_regs (s : State) : s.fresh.2.regs = s.regs := rfl
@[simp] theorem State.fresh_mem (s : State) : s.fresh.2.mem = s.mem := rfl
@[simp] theorem State.fresh_keys (s : State) : s.fresh.2.keys = s.keys := rfl
@[simp] theorem State.fresh_keyNext (s : State) : s.fresh.2.keyNext = s.keyNext := rfl
@[simp] theorem State.fresh_mwk (s : State) : s.fresh.2.mwk = s.mwk := rfl
@[simp] theorem State.fresh_blobs (s : State) : s.fresh.2.blobs = s.blobs := rfl
@[simp] theorem State.fresh_hbms (s : State) : s.fresh.2.hbms = s.hbms := rfl
@[simp] theorem State.fresh_boots (s : State) : s.fresh.2.boots = s.boots := rfl
@[simp] theorem State.fresh_tlbs (s : State) : s.fresh.2.tlbs = s.tlbs := rfl
@[simp] theorem State.fresh_walks (s : State) : s.fresh.2.walks = s.walks := rfl
@[simp] theorem State.fresh_queues (s : State) : s.fresh.2.queues = s.queues := rfl
@[simp] theorem State.fresh_ctxs (s : State) : s.fresh.2.ctxs = s.ctxs := rfl
@[simp] theorem State.fresh_funcs (s : State) : s.fresh.2.funcs = s.funcs := rfl
@[simp] theorem State.fresh_msix (s : State) : s.fresh.2.msix = s.msix := rfl
@[simp] theorem State.fresh_msixPend (s : State) : s.fresh.2.msixPend = s.msixPend := rfl
@[simp] theorem State.fresh_cmds (s : State) : s.fresh.2.cmds = s.cmds := rfl
@[simp] theorem State.fresh_nextCmd (s : State) : s.fresh.2.nextCmd = s.nextCmd := rfl
@[simp] theorem State.fresh_remotes (s : State) : s.fresh.2.remotes = s.remotes := rfl
@[simp] theorem State.fresh_nextTag (s : State) : s.fresh.2.nextTag = s.nextTag := rfl
@[simp] theorem State.fresh_streams (s : State) : s.fresh.2.streams = s.streams := rfl
@[simp] theorem State.fresh_faultLog (s : State) : s.fresh.2.faultLog = s.faultLog := rfl
@[simp] theorem State.fresh_fltTail (s : State) : s.fresh.2.fltTail = s.fltTail := rfl
@[simp] theorem State.fresh_slices (s : State) : s.fresh.2.slices = s.slices := rfl
@[simp] theorem State.fresh_dirs (s : State) : s.fresh.2.dirs = s.dirs := rfl
@[simp] theorem State.fresh_dirWait (s : State) : s.fresh.2.dirWait = s.dirWait := rfl
@[simp] theorem State.fresh_net (s : State) : s.fresh.2.net = s.net := rfl
@[simp] theorem State.fresh_tracker (s : State) : s.fresh.2.tracker = s.tracker := rfl
@[simp] theorem State.fresh_skein (s : State) : s.fresh.2.skein = s.skein := rfl
@[simp] theorem State.fresh_replays (s : State) : s.fresh.2.replays = s.replays := rfl
@[simp] theorem State.fresh_trackers (s : State) : s.fresh.2.trackers = s.trackers := rfl
@[simp] theorem State.fresh_leases (s : State) : s.fresh.2.leases = s.leases := rfl
@[simp] theorem State.fresh_resvs (s : State) : s.fresh.2.resvs = s.resvs := rfl
@[simp] theorem State.fresh_rtags (s : State) : s.fresh.2.rtags = s.rtags := rfl
@[simp] theorem State.fresh_panels (s : State) : s.fresh.2.panels = s.panels := rfl
@[simp] theorem State.fresh_tiles (s : State) : s.fresh.2.tiles = s.tiles := rfl
@[simp] theorem State.fresh_epochs (s : State) : s.fresh.2.epochs = s.epochs := rfl
@[simp] theorem State.fresh_committed (s : State) : s.fresh.2.committed = s.committed := rfl
@[simp] theorem State.fresh_applied (s : State) : s.fresh.2.applied = s.applied := rfl
@[simp] theorem State.fresh_stage (s : State) : s.fresh.2.stage = s.stage := rfl
@[simp] theorem State.fresh_toApply (s : State) : s.fresh.2.toApply = s.toApply := rfl
@[simp] theorem State.fresh_commitAt (s : State) : s.fresh.2.commitAt = s.commitAt := rfl
@[simp] theorem State.fresh_cores (s : State) : s.fresh.2.cores = s.cores := rfl
@[simp] theorem State.fresh_launches (s : State) : s.fresh.2.launches = s.launches := rfl
@[simp] theorem State.fresh_images (s : State) : s.fresh.2.images = s.images := rfl
@[simp] theorem State.fresh_nextImage (s : State) : s.fresh.2.nextImage = s.nextImage := rfl
@[simp] theorem State.fresh_links (s : State) : s.fresh.2.links = s.links := rfl
@[simp] theorem State.fresh_peers (s : State) : s.fresh.2.peers = s.peers := rfl
@[simp] theorem State.fresh_timebase (s : State) : s.fresh.2.timebase = s.timebase := rfl
@[simp] theorem State.fresh_routes (s : State) : s.fresh.2.routes = s.routes := rfl
@[simp] theorem State.fresh_guestUp (s : State) : s.fresh.2.guestUp = s.guestUp := rfl
@[simp] theorem State.fresh_colls (s : State) : s.fresh.2.colls = s.colls := rfl
@[simp] theorem State.fresh_mctp (s : State) : s.fresh.2.mctp = s.mctp := rfl
@[simp] theorem State.fresh_jobs (s : State) : s.fresh.2.jobs = s.jobs := rfl
@[simp] theorem State.fresh_rsqs (s : State) : s.fresh.2.rsqs = s.rsqs := rfl
@[simp] theorem State.fresh_marks (s : State) : s.fresh.2.marks = s.marks := rfl
@[simp] theorem State.fresh_dumps (s : State) : s.fresh.2.dumps = s.dumps := rfl
@[simp] theorem State.fresh_nextDump (s : State) : s.fresh.2.nextDump = s.nextDump := rfl
@[simp] theorem State.fresh_smpLost (s : State) : s.fresh.2.smpLost = s.smpLost := rfl
@[simp] theorem State.fresh_csmpAt (s : State) : s.fresh.2.csmpAt = s.csmpAt := rfl
@[simp] theorem State.fresh_smpAt (s : State) : s.fresh.2.smpAt = s.smpAt := rfl
@[simp] theorem State.fresh_bwAt (s : State) : s.fresh.2.bwAt = s.bwAt := rfl
@[simp] theorem State.fresh_stepped (s : State) : s.fresh.2.stepped = s.stepped := rfl
@[simp] theorem State.fresh_stash (s : State) : s.fresh.2.stash = s.stash := rfl
@[simp] theorem State.fresh_switches (s : State) : s.fresh.2.switches = s.switches := rfl
@[simp] theorem State.fresh_pwr (s : State) : s.fresh.2.pwr = s.pwr := rfl
@[simp] theorem State.fresh_sensors (s : State) : s.fresh.2.sensors = s.sensors := rfl
@[simp] theorem State.fresh_resetJob (s : State) : s.fresh.2.resetJob = s.resetJob := rfl
@[simp] theorem State.fresh_flash (s : State) : s.fresh.2.flash = s.flash := rfl
@[simp] theorem State.fresh_boot (s : State) : s.fresh.2.boot = s.boot := rfl
@[simp] theorem State.fresh_written (s : State) : s.fresh.2.written = s.written := rfl
@[simp] theorem State.fresh_tap (s : State) : s.fresh.2.tap = s.tap := rfl
@[simp] theorem State.fresh_pins (s : State) : s.fresh.2.pins = s.pins := rfl
@[simp] theorem State.fresh_bindAt (s : State) : s.fresh.2.bindAt = s.bindAt := rfl
@[simp] theorem State.fresh_drainMs (s : State) : s.fresh.2.drainMs = s.drainMs := rfl
@[simp] theorem State.fresh_saved (s : State) : s.fresh.2.saved = s.saved := rfl
@[simp] theorem State.fresh_free (s : State) : s.fresh.2.free = s.free + 1 := rfl
@[simp] theorem State.fresh_fst (s : State) : s.fresh.1 = s.free := rfl

/-! ### What each writes -/

@[simp] theorem State.setReg_regs (s : State) (r : Reg) (i v : Nat) : (s.setReg r i v).regs = tput s.regs (regKey r i) (w64 v) := rfl
@[simp] theorem State.emit_out (s : State) (o : Out) : (s.emit o).out = s.out ++ [o] := rfl
@[simp] theorem State.setQueue_queues (s : State) (q : Nat) (x : Queue) : (s.setQueue q x).queues = tput s.queues q x := rfl
@[simp] theorem State.modQueue_queues (s : State) (q : Nat) (f : Queue → Queue) : (s.modQueue q f).queues = tmod s.queues q f := rfl
@[simp] theorem State.modFunc_funcs (s : State) (n : Nat) (f : Func → Func) : (s.modFunc n f).funcs = tmod s.funcs n f := rfl
@[simp] theorem State.modCmd_cmds (s : State) (n : Nat) (f : Cmd → Cmd) : (s.modCmd n f).cmds = tmod s.cmds n f := rfl
@[simp] theorem State.setTile_tiles (s : State) (t : Nat) (x : Tile) : (s.setTile t x).tiles = tput s.tiles t x := rfl
@[simp] theorem State.setCore_cores (s : State) (k : Nat) (x : Core) : (s.setCore k x).cores = tput s.cores k x := rfl
@[simp] theorem State.setLink_links (s : State) (l : Nat) (x : LinkSt) : (s.setLink l x).links = tput s.links l x := rfl
@[simp] theorem State.modPwr_pwr (s : State) (f : Pwr → Pwr) : (s.modPwr f).pwr = f s.pwr := rfl
@[simp] theorem State.setStack_hbms (s : State) (h : Nat) (x : Stack) : (s.setStack h x).hbms = tput s.hbms h x := rfl
@[simp] theorem State.putRsq_rsqs (s : State) (p : Nat) (x : Rsq) : (s.putRsq p x).rsqs = tput s.rsqs p x := rfl
@[simp] theorem State.setSlice_slices (s : State) (q : Nat) (x : Slice) : (s.setSlice q x).slices = tput s.slices q x := rfl
@[simp] theorem State.send_net (s : State) (m : Msg) : (s.send m).net = s.net ++ [m] := rfl

end Sys2Proof.Machine
end

