-- ==== Sys2Proof/Laws/Ops.lean ====
section
/-! SUPPORT. Laws of the shared operations: registers and their fields, the tables of State, and what each named operation of
Machine/Ops.lean and Machine/Queues.lean does. -/

namespace Sys2Proof.Machine

/-! ### Bit fields -/

theorem bits_lt (n hi lo : Nat) : bits n hi lo < 2 ^ (hi + 1 - lo) := Nat.mod_lt _ (Nat.two_pow_pos _)

theorem bits_testBit (n hi lo i : Nat) : (bits n hi lo).testBit i = (decide (i < hi + 1 - lo) && n.testBit (lo + i)) := by
  simp [bits, Nat.testBit_mod_two_pow, Nat.testBit_shiftRight]

/-- The decomposition of a number around one field. -/
theorem bits_split (n hi lo : Nat) (h : lo ≤ hi) :
    n = (n / 2 ^ (hi + 1)) * 2 ^ (hi + 1) + bits n hi lo * 2 ^ lo + n % 2 ^ lo := by
  have e : 2 ^ (hi + 1) = 2 ^ lo * 2 ^ (hi + 1 - lo) := by rw [← Nat.pow_add]; congr 1; omega
  have h1 := Nat.div_add_mod n (2 ^ lo)
  have h2 := Nat.div_add_mod (n / 2 ^ lo) (2 ^ (hi + 1 - lo))
  unfold bits
  rw [Nat.shiftRight_eq_div_pow, e, ← Nat.div_div_eq_div_mul]
  conv_lhs => rw [← h1, ← h2]
  ring

theorem setBits_eq (n hi lo v : Nat) (h : lo ≤ hi) :
    setBits n hi lo v = (n / 2 ^ (hi + 1)) * 2 ^ (hi + 1) + (v % 2 ^ (hi + 1 - lo)) * 2 ^ lo + n % 2 ^ lo := by
  have := bits_split n hi lo h
  unfold setBits
  omega

theorem setBits_testBit (n hi lo v i : Nat) (h : lo ≤ hi) :
    (setBits n hi lo v).testBit i = if lo ≤ i ∧ i ≤ hi then v.testBit (i - lo) else n.testBit i := by
  have hlt : (v % 2 ^ (hi + 1 - lo)) * 2 ^ lo + n % 2 ^ lo < 2 ^ (hi + 1) := by
    have e : 2 ^ (hi + 1) = 2 ^ (hi + 1 - lo) * 2 ^ lo := by rw [← Nat.pow_add]; congr 1; omega
    have h1 : v % 2 ^ (hi + 1 - lo) < 2 ^ (hi + 1 - lo) := Nat.mod_lt _ (Nat.two_pow_pos _)
    have h2 : n % 2 ^ lo < 2 ^ lo := Nat.mod_lt _ (Nat.two_pow_pos _)
    have h3 : (v % 2 ^ (hi + 1 - lo) + 1) * 2 ^ lo ≤ 2 ^ (hi + 1 - lo) * 2 ^ lo := Nat.mul_le_mul_right _ h1
    rw [e]; rw [Nat.add_mul] at h3; omega
  rw [setBits_eq n hi lo v h, Nat.add_assoc, Nat.mul_comm _ (2 ^ (hi + 1)), Nat.testBit_two_pow_mul_add _ hlt]
  by_cases h1 : i < hi + 1
  · rw [if_pos h1, Nat.mul_comm _ (2 ^ lo), Nat.testBit_two_pow_mul_add _ (Nat.mod_lt _ (Nat.two_pow_pos _))]
    by_cases h2 : i < lo
    · have : ¬ (lo ≤ i ∧ i ≤ hi) := by omega
      rw [if_pos h2, if_neg this, Nat.testBit_mod_two_pow]; simp [h2]
    · have : lo ≤ i ∧ i ≤ hi := by omega
      have h3 : i - lo < hi + 1 - lo := by omega
      rw [if_neg h2, if_pos this, Nat.testBit_mod_two_pow]; simp [h3]
  · have : ¬ (lo ≤ i ∧ i ≤ hi) := by omega
    rw [if_neg h1, if_neg this, Nat.testBit_div_two_pow]; congr 1; omega

theorem setBits_lt (n hi lo v k : Nat) (h : lo ≤ hi) (hk : hi < k) (hn : n < 2 ^ k) : setBits n hi lo v < 2 ^ k := by
  apply Nat.lt_pow_two_of_testBit
  intro i hi'
  rw [setBits_testBit _ _ _ _ _ h, if_neg (by omega)]
  exact Nat.testBit_lt_two_pow (Nat.lt_of_lt_of_le hn (Nat.pow_le_pow_right (by omega) hi'))

theorem bits_setBits_same (n hi lo v : Nat) (h : lo ≤ hi) : bits (setBits n hi lo v) hi lo = v % 2 ^ (hi + 1 - lo) := by
  apply Nat.eq_of_testBit_eq
  intro i
  rw [bits_testBit, setBits_testBit _ _ _ _ _ h, Nat.testBit_mod_two_pow]
  by_cases h1 : i < hi + 1 - lo
  · have : lo ≤ lo + i ∧ lo + i ≤ hi := by omega
    simp [h1, this]
  · simp [h1]

/-- A field that does not meet the written one keeps its value. -/
theorem bits_setBits_ne (n hi lo v hi' lo' : Nat) (h : lo ≤ hi) (hd : hi < lo' ∨ hi' < lo) :
    bits (setBits n hi lo v) hi' lo' = bits n hi' lo' := by
  apply Nat.eq_of_testBit_eq
  intro i
  rw [bits_testBit, bits_testBit, setBits_testBit _ _ _ _ _ h]
  by_cases h1 : i < hi' + 1 - lo'
  · have : ¬ (lo ≤ lo' + i ∧ lo' + i ≤ hi) := by omega
    simp [h1, this]
  · simp [h1]

theorem bits_mod_64 (n hi lo : Nat) (h : hi < 64) : bits (n % 2 ^ 64) hi lo = bits n hi lo := by
  apply Nat.eq_of_testBit_eq
  intro i
  rw [bits_testBit, bits_testBit, Nat.testBit_mod_two_pow]
  by_cases h1 : i < hi + 1 - lo
  · have : lo + i < 64 := by omega
    simp [h1, this]
  · simp [h1]

/-! ### Registers -/

theorem State.reg_setReg_same (s : State) (r : Reg) (i v : Nat) : (s.setReg r i v).reg r i = v % 2 ^ 64 := by
  simp [State.reg, w64]

theorem State.reg_of_key_ne (s : State) (r r' : Reg) (i i' v : Nat) (h : regKey r' i' ≠ regKey r i) :
    (s.setReg r i v).reg r' i' = s.reg r' i' := by
  simp [State.reg, tget_tput_ne _ _ h]

/-- A register write changes no other instance of the same register. -/
theorem State.reg_setReg_idx (s : State) (r : Reg) (i i' v : Nat) (h : i' ≠ i) : (s.setReg r i v).reg r i' = s.reg r i' :=
  s.reg_of_key_ne r r i i' v (by unfold regKey; omega)

/-- A register write changes no other register. -/
theorem State.reg_setReg_ne (s : State) (r r' : Reg) (i i' v : Nat) (h : r'.ctorIdx ≠ r.ctorIdx) (hi : i < 65536)
    (hi' : i' < 65536) : (s.setReg r i v).reg r' i' = s.reg r' i' :=
  s.reg_of_key_ne r r' i i' v (by unfold regKey; omega)

/-- A field that was written holds what was written, cut to its width. -/
theorem State.fld_setFld_same (s : State) (f : Fld) (i v : Nat) (h : f.lo ≤ f.hi) (h64 : f.hi < 64) :
    (s.setFld f i v).fld f i = v % 2 ^ (f.hi + 1 - f.lo) := by
  unfold State.fld State.setFld
  rw [State.reg_setReg_same, bits_mod_64 _ _ _ h64, bits_setBits_same _ _ _ _ h]

/-- A field write changes no field of the same register that does not meet it. -/
theorem State.fld_setFld_disj (s : State) (f g : Fld) (i v : Nat) (hr : g.reg = f.reg) (h : f.lo ≤ f.hi)
    (hg : g.hi < 64) (hd : f.hi < g.lo ∨ g.hi < f.lo) : (s.setFld f i v).fld g i = s.fld g i := by
  unfold State.fld State.setFld
  rw [hr, State.reg_setReg_same, bits_mod_64 _ _ _ hg, bits_setBits_ne _ _ _ _ _ _ h hd]

theorem State.fld_setFld_idx (s : State) (f g : Fld) (i i' v : Nat) (hr : g.reg = f.reg) (h : i' ≠ i) :
    (s.setFld f i v).fld g i' = s.fld g i' := by
  unfold State.fld State.setFld
  rw [hr, State.reg_setReg_idx _ _ _ _ _ h]

theorem State.fld_setFld_ne (s : State) (f g : Fld) (i i' v : Nat) (h : g.reg.ctorIdx ≠ f.reg.ctorIdx) (hi : i < 65536)
    (hi' : i' < 65536) : (s.setFld f i v).fld g i' = s.fld g i' := by
  unfold State.fld State.setFld
  rw [State.reg_setReg_ne _ _ _ _ _ _ h hi hi']

/-! ### The tables of State -/

@[simp] theorem State.queue_setQueue_same (s : State) (q : Nat) (x : Queue) : (s.setQueue q x).queue q = some x := by
  simp [State.queue]

theorem State.queue_setQueue_ne (s : State) {q q' : Nat} (x : Queue) (h : q' ≠ q) : (s.setQueue q x).queue q' = s.queue q' := by
  simp [State.queue, tget_tput_ne _ _ h]

theorem State.queue_modQueue_same (s : State) (q : Nat) (f : Queue → Queue) : (s.modQueue q f).queue q = (s.queue q).map f := by
  simp [State.queue, tget_tmod_same]

theorem State.queue_modQueue_ne (s : State) {q q' : Nat} (f : Queue → Queue) (h : q' ≠ q) :
    (s.modQueue q f).queue q' = s.queue q' := by
  simp [State.queue, tget_tmod_ne _ _ h]

theorem State.cmd_modCmd_same (s : State) (id : Nat) (f : Cmd → Cmd) : (s.modCmd id f).cmd id = (s.cmd id).map f := by
  simp [State.cmd, tget_tmod_same]

theorem State.cmd_modCmd_ne (s : State) {id id' : Nat} (f : Cmd → Cmd) (h : id' ≠ id) : (s.modCmd id f).cmd id' = s.cmd id' := by
  simp [State.cmd, tget_tmod_ne _ _ h]

@[simp] theorem State.tile_setTile_same (s : State) (t : Nat) (x : Tile) : (s.setTile t x).tile t = x := by
  simp [State.tile]

theorem State.tile_setTile_ne (s : State) {t t' : Nat} (x : Tile) (h : t' ≠ t) : (s.setTile t x).tile t' = s.tile t' := by
  simp [State.tile, tgetD_tput_ne _ _ _ h]

/-! ### Running a command -/

/-- Nothing happens where no command of that opcode may begin. -/
theorem State.runCmd_idle (s : State) (id opcode : Nat) (body : State → Cmd → State × Option Nat)
    (h : ∀ c, s.cmd id = some c → ¬ (c.opcode = opcode ∧ s.startable c = true)) : s.runCmd id opcode body = s := by
  unfold State.runCmd
  split
  · rfl
  · rename_i c hc
    simp [h c hc]

/-- A command that may begin begins, and its body answers once more or ends it with a status. -/
theorem State.runCmd_run (s : State) (id opcode : Nat) (body : State → Cmd → State × Option Nat) (c c' : Cmd)
    (hc : s.cmd id = some c) (ho : c.opcode = opcode) (hs : s.startable c = true) (hb : (s.beginCmd c).cmd id = some c') :
    s.runCmd id opcode body =
      match body (s.beginCmd c) c' with
      | (t, none) => t
      | (t, some st) => t.modCmd id fun c => { c with phase := .done, status := worse c.status st } := by
  unfold State.runCmd
  rw [hc]
  simp only [ho, hs, hb, and_self, if_true]
  all_goals (rcases body (s.beginCmd c) c' with ⟨t, _ | st⟩ <;> rfl)

/-- A command that runs already is not begun again. -/
theorem State.beginCmd_running (s : State) (c : Cmd) (h : c.phase ≠ .waiting) : s.beginCmd c = s := by
  simp [State.beginCmd, h]

/-! ### What the shared operations do -/

theorem State.skeinClose_cases (s : State) (e : SkeinEntry) :
    s.skeinClose e = { s with mem := e.writeBack s.mem, skein := s.skein.filter fun x => !(decide (x.line = e.line)) } := rfl

/-- A wake of a stack's interface writes registers only. -/
theorem State.wakeHbm_mem (s : State) (pa : Nat) : (s.wakeHbm pa).mem = s.mem := by
  unfold State.wakeHbm; dsimp only; split <;> rfl

/-- A read of memory changes no byte. -/
theorem State.pread_mem (s : State) (k a n : Nat) : (s.pread k a n).1.mem = s.mem := by
  unfold State.pread
  split
  · dsimp only
    split
    · exact State.wakeHbm_mem s a
    · exact State.wakeHbm_mem s a
  all_goals rfl

/-- A message of a masked vector is noted as pending; another is sent (R392). -/
theorem State.sendMsix_cases (s : State) (f v : Nat) :
    s.sendMsix f v = s ∨ s.sendMsix f v = { s with msixPend := (2048 * f + v) :: s.msixPend } ∨
      s.sendMsix f v = s.emit (.msix f v) := by
  unfold State.sendMsix
  split
  · split <;> simp
  · simp

/-- R221: a doorbell write of a function that does not hold the queue changes the function's count only. -/
theorem State.doorbell_foreign (s : State) (f q : Nat) (index : W32) (arm : Bool)
    (h : ∀ x, s.queue q = some x → x.func ≠ f) :
    s.doorbell f q index arm = s.modFunc f fun g => { g with badDb := sat 32 (g.badDb + 1) } := by
  unfold State.doorbell
  split
  · rfl
  · rename_i x hx
    rw [if_pos (h x hx)]

/-- The status of checks that all pass is 0. -/
theorem checkStatus_pass (l : List (Bool × Nat)) (h : ∀ c ∈ l, c.1 = false) : checkStatus l = 0 := by
  have h1 : l.any (fun c => c.1 && decide (c.2 = 0x0102)) = false := by
    rw [List.any_eq_false]; intro c hc; simp [h c hc]
  have h2 : l.find? (fun c => c.1) = none := by
    rw [List.find?_eq_none]; intro c hc; simp [h c hc]
  simp [checkStatus, h1, h2]

/-! ### Reading consecutive bytes -/

theorem Memory.readHbm_append (m : Memory) (k a i j : Nat) : m.readHbm k a i ++ m.readHbm k (a + i) j = m.readHbm k a (i + j) := by
  simp [Memory.readHbm, List.range_add, Nat.add_assoc]

/-- The sectors of a range, read one after the other, are the range. -/
theorem Memory.readHbm_sectors (m : Memory) (k : Nat) : ∀ fuel a n, n = 0 ∨ n + a % 32 ≤ 32 * fuel →
    (sectorsOf fuel a n).flatMap (fun c => m.readHbm k c.1 c.2) = m.readHbm k a n
  | 0, a, n, h => by have : n = 0 := by omega
                     simp [sectorsOf, this, Memory.readHbm]
  | f + 1, a, n, h => by
    unfold sectorsOf
    split
    · simp_all [Memory.readHbm]
    · have h2 : n - min n (32 - a % 32) = 0 ∨ (n - min n (32 - a % 32)) + (a + min n (32 - a % 32)) % 32 ≤ 32 * f := by omega
      simp only [List.flatMap_cons, readHbm_sectors m k f _ _ h2, Memory.readHbm_append]
      congr 1; omega

/-- Bytes of HBM that a reader may read, powered, in service, without poison and without open sums, read as memory holds them. -/
theorem State.readPhys_hbm (s : State) (w : Who) (slot a n k : Nat) (hk : s.keyOf slot = some k)
    (h : ∀ c ∈ chunks a n, region c.1 = .hbm ∧ s.paOk w c.1 = true ∧ s.domainOn (76 + (s.hbmLoc c.1).1) = true ∧ s.hbmOos c.1 = false ∧
      s.skein.find? (fun e => decide (e.line = c.1 / 128)) = none ∧ s.mem.poisoned c.1 = false) :
    s.readPhys w slot a n = (s, some (s.mem.readHbm k a n)) := by
  have key : ∀ (l : List (Nat × Nat)) (acc : List Byte), (∀ c ∈ l, c ∈ chunks a n) →
      l.foldl (fun (x : State × Option (List Byte)) c =>
        match x.2 with
        | none => x
        | some acc =>
          if x.1.paOk w c.1 then
            match region c.1, x.1.keyOf slot with
            | .hbm, none => (x.1, none)
            | _, k =>
              match x.1.pread (k.getD 0) c.1 c.2 with
              | (s', .ok b false) => (s', some (acc ++ b))
              | (s', _) => (s', none)
          else (x.1, none)) (s, some acc) = (s, some (acc ++ l.flatMap fun c => s.mem.readHbm k c.1 c.2)) := by
    intro l
    induction l with
    | nil => intro acc _; simp
    | cons c l ih =>
      intro acc hl
      obtain ⟨h1, h2, h3, h4, h5, h6⟩ := h c (hl c (List.mem_cons_self ..))
      have hp : s.pread k c.1 c.2 = (s, .ok (s.mem.readHbm k c.1 c.2) false) := by
        simp [State.pread, h1, State.wakeHbm, h3, h4, State.seenMem, h5, h6]
      simp only [List.foldl_cons, h1, h2, hk, if_true, Option.getD_some, hp]
      rw [ih _ (fun x hx => hl x (List.mem_cons_of_mem _ hx))]
      simp
  refine Eq.trans (key (chunks a n) [] fun c hc => hc) ?_
  rw [List.nil_append, chunks, Memory.readHbm_sectors _ _ _ _ _ (by omega)]
end Sys2Proof.Machine
end

