-- ==== Sys2Proof/WellFormed.lean ====
section
/-! DEFINITION. Well-formed commands: every unit number an operand names is one that the package has (Table 00-1, R11). The
meanings take any operands; a command that names a unit that does not exist changes nothing. -/

namespace Sys2Proof

/-- The group of an instruction is one of a core that exists. -/
def Issue.wf (i : Issue) : Bool :=
  decide (i.die < 12) && decide (i.core < 32)

/-- A view of a virtual function is one of VFs 1 to 252. -/
def View.wf : View → Bool
  | .vf n => decide (0 < n) && decide (n < 253)
  | _ => true

/-- R91: the widths of a segment. -/
def segWidth (w : Nat) : Bool := [2, 4, 8, 16, 32].contains w

/-- Bytes that one lane of a load or store moves: whole registers, or a part of one. -/
def memSize (n : Nat) : Bool := [1, 2, 4, 8, 16, 32].contains n

/-- R89, R90: 32- and 64-bit words. -/
def wordSize (n : Nat) : Bool := [4, 8].contains n

def Instr.wf : Instr → Bool
  | .doorbellTail func q _ _ => decide (func < 253) && decide (q < 262144)
  | .doorbellHead func q _ _ => decide (func < 253) && decide (q < 262144)
  | .doorbellArm func q _ => decide (func < 253) && decide (q < 262144)
  | .interruptCoalTimeout q => decide (q < 262144)
  | .commandFetch q => decide (q < 262144)
  | .commandComplete _ => true
  | .copy _ => true
  | .gather _ => true
  | .scatter _ => true
  | .fill _ => true
  | .reduce _ => true
  | .gemm _ _ => true
  | .actTableLoad _ => true
  | .launch _ _ => true
  | .resumeGroup _ => true
  | .workDeclare _ => true
  | .allReduce _ _ => true
  | .reduceScatter _ _ => true
  | .allGather _ _ => true
  | .broadcast _ _ => true
  | .barrier _ => true
  | .collectiveTimeout _ => true
  | .rsqConfig _ => true
  | .rsqStart _ => true
  | .rsqStop _ => true
  | .seqCancel _ => true
  | .poolResize _ => true
  | .seqEntryFetch q slot => decide (q < 262144) && decide (slot < 4096)
  | .rowStageIssue panel => decide (panel < 48)
  | .rowBoundary panel => decide (panel < 48)
  | .rowCommandFault panel _ => decide (panel < 48)
  | .fence _ => true
  | .signal _ => true
  | .wait _ => true
  | .waitRecheck _ => true
  | .waitTimeout _ => true
  | .eventPost _ => true
  | .nop _ => true
  | .capSet _ => true
  | .slewSet _ => true
  | .shedLevelSet _ => true
  | .shed _ => true
  | .restore _ => true
  | .gaugeSet _ => true
  | .domainSwitch _ => true
  | .domainSwitchDone d => decide (d < 103)
  | .reserve _ => true
  | .panelCreate _ => true
  | .panelDestroy _ => true
  | .panelRebind _ => true
  | .configStage _ => true
  | .configCommit _ => true
  | .configApply _ => true
  | .configRollback => true
  | .stagedRegisterWrite off _ _ => decide (off < 67108864)
  | .queueCreate _ => true
  | .queueDestroy _ => true
  | .ctxCreate _ => true
  | .ctxDestroy _ => true
  | .ctxFrog _ => true
  | .engineReset _ => true
  | .panelReset _ => true
  | .packageReset _ _ => true
  | .resetOverrun => true
  | .vfCreate _ => true
  | .vfDestroy _ => true
  | .counterSet _ => true
  | .snapshot _ => true
  | .samplerSet _ => true
  | .stitchSet _ => true
  | .dump _ => true
  | .dumpCopy _ => true
  | .l1Inv _ => true
  | .xlatInv _ => true
  | .migFreeze _ => true
  | .migSave _ => true
  | .migRestore _ => true
  | .attest _ => true
  | .fwStage _ _ => true
  | .fwActivate _ => true
  | .aluOp i _ rd _ _ _ => i.wf && decide (rd < 256)
  | .convert i _ _ _ _ rd _ _ _ => i.wf && decide (rd < 256)
  | .branch i _ _ _ => i.wf
  | .xchPick i w rd _ _ => i.wf && segWidth w && decide (rd < 256)
  | .xchRot i w rd _ _ => i.wf && segWidth w && decide (rd < 256)
  | .xchSwap i w rd _ m => i.wf && segWidth w && decide (rd < 256) && decide (m < w)
  | .xchRev i w rd _ => i.wf && segWidth w && decide (rd < 256)
  | .tallyAny i w rd p => i.wf && segWidth w && decide (rd < 256) && decide (p < 256)
  | .tallyAll i w rd p => i.wf && segWidth w && decide (rd < 256) && decide (p < 256)
  | .tallyMask i w rd p => i.wf && segWidth w && decide (rd < 256) && decide (p < 256)
  | .tallyCount i w rd p => i.wf && segWidth w && decide (rd < 256) && decide (p < 256)
  | .tallyBelow i w rd p => i.wf && segWidth w && decide (rd < 256) && decide (p < 256)
  | .tallyLead i w rd p => i.wf && segWidth w && decide (rd < 256) && decide (p < 256)
  | .meet i w => i.wf && segWidth w
  | .rdvWait i r => i.wf && decide (r < 8)
  | .rdvSignal i r => i.wf && decide (r < 8)
  | .threadExit i => i.wf
  | .load i _ size rd _ _ => i.wf && memSize size && decide (rd < 256)
  | .store i _ size _ _ _ _ => i.wf && memSize size
  | .atomicInstr i _ size rd _ _ _ => i.wf && wordSize size && decide (rd < 256)
  | .ll i size rd _ => i.wf && wordSize size && decide (rd < 256)
  | .sc i size rd _ _ => i.wf && wordSize size && decide (rd < 256)
  | .addToLine i _ _ _ _ _ _ => i.wf
  | .fenceT i => i.wf
  | .fenceP i => i.wf
  | .fenceG i => i.wf
  | .l1wb i _ _ => i.wf
  | .l1inv i _ _ => i.wf
  | .l1wbAll i => i.wf
  | .l1invAll i => i.wf
  | .l1lock i n => i.wf && decide (0 < n) && decide (n < 7)
  | .l1pre i rd _ _ => i.wf && decide (rd < 256)
  | .l1unlock i => i.wf
  | .l1FillReturn die core _ => decide (die < 12) && decide (core < 32)
  | .evictionDrain die core => decide (die < 12) && decide (core < 32)
  | .blockStart _ die core => decide (die < 12) && decide (core < 32)
  | .kernelEnd _ die core => decide (die < 12) && decide (core < 32)
  | .parkTimeout _ _ _ => true
  | .launchOverrun _ die core => decide (die < 12) && decide (core < 32)
  | .haltDeferTimeout die core _ => decide (die < 12) && decide (core < 32)
  | .lcDispatch _ => true
  | .preemptStopDone t => decide (t < 48)
  | .stashDone t _ => decide (t < 48)
  | .preemptAbandon t => decide (t < 48)
  | .beUnitStart t _ => decide (t < 48)
  | .quantumEnd t => decide (t < 48)
  | .unitResume t _ _ => decide (t < 48)
  | .compaction t => decide (t < 48)
  | .respread t => decide (t < 48)
  | .rdShr _ slice _ => decide (slice < 4)
  | .rdOwn _ slice _ _ => decide (slice < 4)
  | .upgrade _ slice _ => decide (slice < 4)
  | .rdOnce _ _ => true
  | .wrLine _ _ _ _ => true
  | .wrPtl _ _ _ _ _ => true
  | .atomic _ _ _ _ _ _ _ => true
  | .addLine _ _ _ _ _ _ _ _ _ => true
  | .snpShr slice _ => decide (slice < 4)
  | .snpInv slice _ => decide (slice < 4)
  | .snpFetch slice _ _ => decide (slice < 4)
  | .invAck slice _ => decide (slice < 4)
  | .wbInFlight slice _ => decide (slice < 4)
  | .complete _ => true
  | .wbAck slice _ => decide (slice < 4)
  | .evictClean slice _ => decide (slice < 4)
  | .dirFree slice _ => decide (slice < 4)
  | .credit slice bank => decide (slice < 4) && decide (bank < 4)
  | .data _ _ => true
  | .wbData slice _ => decide (slice < 4)
  | .holdExpire slice _ => decide (slice < 4)
  | .replayWindowExpire slice _ _ => decide (slice < 4)
  | .requestTimeout _ => true
  | .hbmRefresh h pc _ _ => decide (h < 16) && decide (pc < 64)
  | .hbmRecentre h pc => decide (h < 16) && decide (pc < 64)
  | .hbmTempRead h _ => decide (h < 16)
  | .patrolScrub h _ pc bank row _ => decide (h < 16) && decide (pc < 64) && decide (bank < 16) && decide (row < 65536)
  | .stackOutOfService h => decide (h < 16)
  | .keyGenerate slot => decide (slot < 48)
  | .keyErase slot => decide (slot < 48)
  | .keyImport slot => decide (slot < 48)
  | .keyExport slot => decide (slot < 48)
  | .softPpr h pc bank row => decide (h < 16) && decide (pc < 64) && decide (bank < 16) && decide (row < 65536)
  | .hardPprAdd h pc bank row => decide (h < 16) && decide (pc < 64) && decide (bank < 16) && decide (row < 65536)
  | .hardPprRemove h pc bank row => decide (h < 16) && decide (pc < 64) && decide (bank < 16) && decide (row < 65536)
  | .swatchStart h => decide (h < 16)
  | .swatchStop h => decide (h < 16)
  | .swatchDone h => decide (h < 16)
  | .hbmEccCountRead h _ => decide (h < 16)
  | .hbmEccLogRead h _ => decide (h < 16)
  | .hbmRepairLogRead h _ => decide (h < 16)
  | .hbmRepairLogWrite h => decide (h < 16)
  | .uccSliceErrRead q _ => decide (q < 4)
  | .uccDirStatusRead q _ => decide (q < 4)
  | .uccSkeinStatusRead q _ => decide (q < 4)
  | .xltCountsRead unit _ => decide (unit < 13)
  | .queFnStatusRead v _ => v.wf
  | .rsqCountsRead v p _ => v.wf && decide (p < 48)
  | .pnlCountsRead v p _ => v.wf && decide (p < 48)
  | .pnlDispatchRead v p _ => v.wf && decide (p < 48)
  | .lnkErrRead l _ => decide (l < 32)
  | .lnkFecRead l _ => decide (l < 32)
  | .lnkGStatusRead _ => true
  | .gstErrRead site _ => decide (site < 2)
  | .pwrDroopRead _ => true
  | .hubFltStatusRead _ => true
  | .hubLeaseStatusRead _ => true
  | .obsSmpStatusRead _ => true
  | .obsCsmpStatusRead _ => true
  | .srvInputStatusRead _ => true
  | .registerWrite v off _ _ => v.wf && decide (off < 67108864)
  | .mbxM2tTail f _ => decide (f < 253)
  | .mbxM2tHead f _ => decide (f < 253)
  | .mbxT2mTail f _ => decide (f < 253)
  | .mbxT2mHead f _ => decide (f < 253)
  | .hostApertureAccess f _ _ => decide (f < 253)
  | .guestRequest site _ => decide (site < 2)
  | .flrVf f => decide (f < 253)
  | .flrPf0 => true
  | .hp0PerstAssert _ _ => true
  | .hp1PerstAssert => true
  | .flitReceive l _ => decide (l < 32)
  | .nakResend l => decide (l < 32)
  | .replayTimeout l => decide (l < 32)
  | .linkRecovery l _ => decide (l < 32)
  | .linkRecoveryFail l => decide (l < 32)
  | .linkTrain l _ => decide (l < 32)
  | .linkRetrain l => decide (l < 32)
  | .laserInputLoss e w _ => decide (e < 8) && decide (w < 4)
  | .ctlTrain l _ _ _ _ _ => decide (l < 32)
  | .ctlTime l _ _ _ _ _ _ => decide (l < 32)
  | .timeExchange l => decide (l < 32)
  | .timeRelock => true
  | .timeHoldover => true
  | .ctlRefused _ => true
  | .refusedResend _ => true
  | .ctlColl ctx _ _ _ _ _ => decide (ctx < 4096)
  | .ctlAbort _ => true
  | .ctlMgmt l _ => decide (l < 32)
  | .ctlCap site _ => decide (site < 2)
  | .e2eTimeout _ => true
  | .finalTimeout _ ctx _ => decide (ctx < 4096)
  | .ppsEdge _ => true
  | .guestRetrain site _ => decide (site < 2)
  | .guestCapTimeout site => decide (site < 2)
  | .guestIsolate site _ => decide (site < 2)
  | .guestPowerExceeded site _ _ => decide (site < 2)
  | .controlPeriod _ _ => true
  | .measureWindow _ _ _ _ => true
  | .powerBackstop => true
  | .droopResponse die _ => decide (die < 12)
  | .sensorRead _ => true
  | .thermalTrip _ _ => true
  | .shedNAssert _ => true
  | .shedNDeassert _ => true
  | .clockHoldoverEnter => true
  | .clockHoldoverExit => true
  | .pllLockLoss d => decide (d < 16)
  | .vin48Undervoltage _ => true
  | .vin48Overvoltage _ => true
  | .v3p3Undervoltage _ => true
  | .regulatorFault _ => true
  | .trayRstAssert _ => true
  | .castOn _ => true
  | .vin48InRange _ => true
  | .bindOff v _ => v.wf
  | .bindOffDrainExpire => true
  | .counterFreeze _ _ => true
  | .samplerRecord _ => true
  | .coreSample die core _ _ _ => decide (die < 12) && decide (core < 32)
  | .bwWindow => true
  | .dbgHaltGroup die core _ => decide (die < 12) && decide (core < 32)
  | .dbgHaltCore die core => decide (die < 12) && decide (core < 32)
  | .dbgResumeGroup die core _ => decide (die < 12) && decide (core < 32)
  | .dbgResumeCore die core => decide (die < 12) && decide (core < 32)
  | .dbgStepGroup die core _ => decide (die < 12) && decide (core < 32)
  | .dbgRegAccess _ _ => true
  | .dbgStepGo t => decide (t < 48)
  | .lcHaltEnable _ => true
  | .lcHaltActivate => true
  | .tapExtest => true
  | .tapIdcode => true
  | .tapSamplePreload _ => true
  | .tapClamp => true
  | .tapHighz => true
  | .tapBypass _ => true
  | .tapDap => true
  | .tapReset => true
  | .dapAuthorise _ _ => true
  | .dapAccess _ => true
  | .spdmRequest _ _ => true
  | .fleetKeySet _ _ => true
  | .pldmGetSensor _ => true
  | .pldmFwUpdate _ _ _ => true
  | .droopRecovery die => decide (die < 12)
  | .perstNDeassert port => decide (port < 2)
  | .atsInvalidation f _ _ => decide (f < 253)
  | .pldmSetEffecter _ _ => true
  | .controllerFault c => decide (c < 27)

end Sys2Proof
end

