-- ==== Sys2Proof/Tests/Slice0.lean ====
section
/-! SUPPORT. The model's own tests: a smoke test of WellFormed, and for every statement about states that meet conditions a state and
operands that meet them. -/

open Sys2Proof Sys2Proof.Machine

namespace Sys2Proof.Tests

set_option Elab.async false

/-! ## States for the tests -/

/-- Registers that hold values. -/
def regs (l : List (Reg × Nat × Nat)) : Tab W64 := l.foldl (fun t e => tput t (regKey e.1 e.2.1) (w64 e.2.2)) []

/-- The bytes of a command: its opcode, context 1, and fields as (byte, length, value). -/
def raw (op : Nat) (l : List (Nat × Nat × Nat)) : List Byte :=
  ((0, 1, op / 256) :: (1, 1, op % 256) :: (6, 2, 1) :: l).foldl (fun r e => patch r e.1 (leBytes e.2.1 e.2.2)) (zeros 64)

/-- Command 1, of queue 0, context 1 and panel 0, waiting. -/
def com (op : Nat) (l : List (Nat × Nat × Nat)) : Cmd :=
  { id := 1, q := 0, row := none, raw := raw op l, func := 0, panel := 0, ctx := 1, epoch := 1, tSub := 0, tAdm := 0, tStart := 0,
    twc := none, phase := .waiting, status := 0, vaddr := 0, beats := 0, energy := 0, tiles := 0, step := 0, spans := 0, fenceB := 0,
    fenceA := 0, landed := [] }

/-- A queue of function 0, panel 0 and context 1, empty. -/
def que (t : QType) : Queue :=
  { typ := t, k := 4, lc := false, anyCtx := false, func := 0, panel := 0, key := 63, ring := 0x10000, ctx := 1, cpl := 2, vector := 0,
    coalCount := 1, coalUs := 0, weight := 1, head := 0, tail := 0, armed := false, held := false, faulted := false, dbBad := false,
    lost := false, overflowed := false, evtLost := false, fetched := 0, completed := 0, lastTime := 0, sinceArm := 0, firstAt := none,
    subs := [], dups := [] }

/-- A translation of the first 64 MiB, for context 1, to the same addresses under key slot 0. -/
def tlb : TlbEntry := ⟨1, 0, 0x4000000, 0, 0, true, true, true, false⟩

/-- A package in service: HBM trained, every die present and powered, keys in slots 0 and 63, panel 0 with tiles 0 to 3, context 1 on it,
and queues 0 (CMD), 2 (CPL), 3 (EVT) and 4 (SEQ). -/
def up : State :=
  { State.reset with
    boot := .ready
    regs := regs ([(.GLB_STATUS, 0, 1), (.GLB_DIE_PRESENT, 0, 0xFFFF), (.HBM_G_STATUS, 0, 0xFFFF0001), (.PWR_DOMAIN_ON, 0, 2 ^ 64 - 1),
      (.PWR_DOMAIN_ON, 1, 2 ^ 39 - 1), (.SRV_STATUS, 2, 2)] ++ ((List.range 4).map fun q => (.UCC_SLICE_STATUS, q, 16 * 2 ^ 48)) ++
      (List.range 16).map fun h => (.HBM_TRAIN_RESULT, h, 1))
    keys := [(0, ⟨1, 0, []⟩), (63, ⟨2, 0, []⟩)], keyNext := 3
    ctxs := [(1, ⟨0, 0, some 0x100000, 0, 3, 64, [], 0⟩)]
    queues := [(0, que .cmd), (2, que .cpl), (3, que .evt), (4, que .seq)]
    panels := [(0, ⟨0xF, []⟩)]
    tiles := [(0, { Tile.free with owner := some 0 }), (1, { Tile.free with owner := some 0 }), (2, { Tile.free with owner := some 0 }),
      (3, { Tile.free with owner := some 0 })]
    tlbs := [(384, [tlb]), (396, [tlb])] }

/-- The same, with command 1 in flight. -/
def put (op : Nat) (l : List (Nat × Nat × Nat)) : State := { up with cmds := [(1, com op l)], nextCmd := 2 }

/-- Command 1 of a state may run, and where its body runs a condition holds. -/
def runsB (s : State) (op : Nat) (p : State → Cmd → Bool) : Bool :=
  match s.cmd 1 with
  | none => false
  | some c0 => decide (c0.opcode = op) && s.startable c0 && match (s.beginCmd c0).cmd 1 with
    | some c => p (s.beginCmd c0) c
    | none => false

theorem runs {s : State} {op : Nat} {p : State → Cmd → Bool} (h : runsB s op p = true) :
    ∃ s0 c, State.mayRun s 1 op s0 c ∧ p s0 c = true := by
  unfold runsB at h
  split at h
  · cases h
  · rename_i c0 h0
    simp only [Bool.and_eq_true, decide_eq_true_eq] at h
    obtain ⟨⟨h1, h2⟩, h3⟩ := h
    split at h3
    · rename_i c hc
      exact ⟨_, c, ⟨c0, h0, h1, h2, rfl, hc⟩, h3⟩
    · cases h3

/-- Command 1 of a state may run, and where its body runs a condition holds. -/
def Runs (s : State) (op : Nat) (p : State → Cmd → Bool) : Prop := ∃ s0 c, State.mayRun s 1 op s0 c ∧ p s0 c = true

/-! ## States and operands that meet the statements' conditions -/

theorem witness_CopyFillComplete :
    Runs (put 0x0101 [(24, 8, 0x1000), (32, 8, 64)]) 0x0101 (fun s0 c =>
      let (s1, st) := s0.copyFlagBad c
      let (s2, w) := s1.awaitAll c.id (s1.dmaIssuer c) ((copyRows c.raw).map fun x => (x.1, x.2.2))
      let (s3, l) := s2.readPieces c.id (s1.dmaIssuer c) ((copyRows c.raw).flatMap fun x => piecesOf x.2.1 x.1 x.2.2)
      let (s4, f) := s3.probeAll (s1.dmaIssuer c) .write ((copyRows c.raw).map fun x => (x.2.1, x.2.2))
      decide (c.step ≠ 1) && !c.lost && decide (checkStatus (copyChecks s0 c.raw) = 0) && decide (st = 0) && !(hLc c.raw) && !w &&
        f.isNone && (firstFault l).isNone && !(overlapping ((copyRows c.raw).flatMap fun x => s4.physOf (s1.dmaIssuer c) .read x.1 x.2.2)
          ((copyRows c.raw).flatMap fun x => s4.physOf (s1.dmaIssuer c) .write x.2.1 x.2.2)) && !(l.any fun p => p.2.poison)) ∧
    Runs { put 0x0101 [] with cmds := [(1, { com 0x0101 [(43, 1, 1), (48, 8, 0x2000)] with step := 1 })] } 0x0101 (fun s0 c =>
      match s0.xlate (s0.dmaIssuer c) .write (leAt c.raw 48 8) with
      | (s1, .ok x) => decide (c.step = 1) && decide (c.status ≠ 0x0308) && s1.isLocal x.pa && !(s1.remoteOpen c.id)
      | _ => false) ∧
    Runs (put 0x0104 [(16, 8, 0x1000), (24, 8, 64)]) 0x0104 (fun s0 c =>
      decide (checkStatus (fillChecks s0 c.raw) = 0) && !(hLc c.raw) &&
        (s0.probe (s0.dmaIssuer c) .write (leAt c.raw 16 8) (leAt c.raw 24 8)).2.isNone) :=
  ⟨runs (by decide +kernel), runs (by decide +kernel), runs (by decide +kernel)⟩

theorem witness_QueueControlComplete :
    Runs (put 0x0601 [(16, 1, 2)]) 0x0601 (fun s0 c => decide (checkStatus (fenceChecks s0 c.raw) = 0)) ∧
    Runs (put 0x0604 [(16, 4, 7)]) 0x0604 (fun s0 c => decide (checkStatus (eventPostChecks s0 c.raw) = 0)) ∧
    Runs (put 0x0605 []) 0x0605 (fun s0 c => decide (checkStatus (nopChecks s0 c.raw) = 0)) :=
  ⟨runs (by decide +kernel), runs (by decide +kernel), runs (by decide +kernel)⟩

/-- `put`, with 64 bytes in HBM at 0x3000, encrypted under the key of slot 0. -/
def putMem (op : Nat) (l : List (Nat × Nat × Nat)) (b : List (Nat × Nat × Nat)) : State :=
  let d := b.foldl (fun r e => patch r e.1 (leBytes e.2.1 e.2.2)) (zeros 64)
  { put op l with mem := (Memory.empty.writeHbm 1 0x3000 (d.take 32)).writeHbm 1 0x3020 (d.drop 32) }

theorem witness_ListMovesAndReduce :
    Runs (putMem 0x0102 [(16, 8, 0x3000), (24, 8, 0x5000), (32, 4, 1), (36, 2, 64)] [(0, 8, 0x4000)]) 0x0102 (fun s0 c =>
      let (s1, w) := s0.awaitAll c.id (s0.dmaIssuer c) ((List.range (leAt c.raw 32 4)).map (listEntry c.raw))
      let (s2, as) := s1.elemAddrs c (leAt c.raw 32 4)
      let l := as.filterMap fun p => match p.2 with
        | .ok va => some (p.1, va)
        | .error _ => none
      let (s3, w') := s2.awaitAll c.id (s0.dmaIssuer c) (l.map fun p => ((elemSides c.raw p.1 p.2).1, elemBytes c.raw))
      decide (checkStatus (listChecks s0 c.raw) = 0) && !c.lost && !w && decide (l.length = as.length) && !(hLc c.raw) && !w' &&
        ((freeOrder s3.free (leAt c.raw 32 4)).foldl (fun (x : State × List ElemFault) j =>
          match addrOf (l.map fun p => (p.1, .ok p.2)) j with
          | .error f => (x.1, f :: x.2)
          | .ok va => match x.1.moveElem c j va with
            | (s, none) => (s, x.2)
            | (s, some f) => (s, f :: x.2)) ({ s3 with free := s3.free + leAt c.raw 32 4 }, [])).2.isEmpty) ∧
    Runs (put 0x0105 [(16, 8, 0x3000), (24, 8, 0x4000), (32, 8, 128)]) 0x0105 (fun s0 c =>
      let (s1, w) := s0.await c.id (s0.dmaIssuer c) (leAt c.raw 16 8) (leAt c.raw 32 8)
      let (s2, rs) := (reduceLines c.raw).foldl (fun (a : State × List (Nat × List (Nat × Rd))) x =>
        let (s, l) := a.1.readPieces c.id (s0.dmaIssuer c) (piecesOf x.1 x.2.1 x.2.2)
        (s, a.2 ++ [(x.1, l)])) (s1, [])
      decide (checkStatus (reduceChecks s0 c.raw) = 0) && !c.lost && !(hLc c.raw) && !w &&
        ((reduceLines c.raw).all fun x => !(s1.deviceLine (s0.dmaIssuer c) x.1)) && (rs.all fun x => (firstFault x.2).isNone) &&
        (s2.probe (s0.dmaIssuer c) .atomic (leAt c.raw 24 8) (leAt c.raw 32 8)).2.isNone) :=
  ⟨runs (by decide +kernel), runs (by decide +kernel)⟩

theorem witness_SignalWaitComplete :
    Runs (putMem 0x0602 [(16, 8, 0x3008), (24, 8, 5)] []) 0x0602 (fun s0 c =>
      match s0.xlate (s0.dicIssuer c) .atomic (leAt c.raw 16 8) with
      | (s1, .ok x) => decide (checkStatus (signalChecks s0 c.raw) = 0) && decide (c.step ≠ 1) && s1.isLocal x.pa &&
          atomicRegion (x.pa % 2 ^ 48) && (match ((s1.fenceScope c.ctx (max 2 c.fenceB)).1.atomicAt ((s1.keyOf x.key).getD 0)
            (x.pa % 2 ^ 48) (signalOp c.raw) 8 (leAt c.raw 24 8) 0).2 with
            | .ok _ => true
            | .error _ => false)
      | _ => false) ∧
    Runs (putMem 0x0603 [(16, 8, 0x3008), (24, 8, 5)] [(8, 8, 6)]) 0x0603 (fun s0 c =>
      let u := s0.modCmd c.id (fun c => { c with step := 1 })
      match u.xlate (u.dicIssuer c) .read (leAt c.raw 16 8) with
      | (s1, .ok x) => decide (checkStatus (waitChecks s0 c.raw) = 0) && !c.lost && s1.isLocal x.pa && atomicRegion (x.pa % 2 ^ 48) &&
          (match s1.pread ((s1.keyOf x.key).getD 0) (x.pa % 2 ^ 48) 8 with
          | (_, .ok b false) => waitMeets c.raw (leNat b)
          | _ => false)
      | _ => false) ∧
    (∃ s id c, State.cmd s id = some c ∧ c.opcode = 0x0603 ∧ c.phase = .running ∧ 1000 * waitLimit c.raw ≤ (s.time - c.tStart).toNat) :=
  ⟨runs (by decide +kernel), runs (by decide +kernel),
    { up with cmds := [(1, { com 0x0603 [(36, 4, 10)] with phase := .running })], time := 10000 }, 1, _, rfl, by decide +kernel⟩

theorem witness_MaintenanceComplete :
    Runs (put 0x0A01 [(16, 6, 3)]) 0x0A01 (fun s0 c => decide (checkStatus (l1InvChecks s0 c.raw) = 0)) ∧
    Runs (put 0x0A02 [(16, 8, 0x10000), (24, 8, 0x20000), (32, 2, 1)]) 0x0A02 (fun s0 c =>
      decide (c.step = 0) && decide (checkStatus (xlatInvChecks s0 c.raw) = 0) && !(s0.dumpInto c.raw) &&
        (s0.xlatInvAct c.raw).remotes.all fun r => !((s0.xlatInvAct c.raw).xlatTargets c.raw r.ctx)) ∧
    Runs { put 0x0A02 [] with cmds := [(1, { com 0x0A02 [(32, 2, 1)] with step := 1 })] } 0x0A02 (fun _ c => decide (c.step ≠ 0)) :=
  ⟨runs (by decide +kernel), runs (by decide +kernel), runs (by decide +kernel)⟩

/-- A CMD queue with its ring full but for one entry, and a CPL queue with two entries of which one is released. -/
def bells : State :=
  let c : Queue := { que .cpl with head := 1, tail := 3, armed := true, coalUs := 5, firstAt := some 0, coalCount := 2 }
  { up with queues := [(0, { que .cmd with head := 3, tail := 18 }), (2, c), (3, { que .evt with coalCount := 2 })], time := 5000 }

theorem witness_DoorbellRules :
    (∃ s f q x, State.queue s q = some x ∧ x.func = f ∧ x.typ = .cmd ∧ s.doorbellsOpen = true ∧
      (∃ index : W32, (index - x.head).toNat ≤ 2 ^ x.k ∧ 0 < (index - x.tail).toNat ∧ (index - x.tail).toNat < 2 ^ 31) ∧
      (∃ index : W32, index = x.tail ∨ 2 ^ 31 ≤ (index - x.tail).toNat) ∧
      (∃ index : W32, 2 ^ x.k < (index - x.head).toNat ∧ 0 < (index - x.tail).toNat ∧ (index - x.tail).toNat < 2 ^ 31)) ∧
    (∃ s f q x, State.queue s q = some x ∧ x.func = f ∧ x.typ = .cpl ∧ s.doorbellsOpen = true ∧
      (∃ index : W32, (index - x.head).toNat ≤ x.count ∧ 0 < (index - x.head).toNat ∧ (index - x.head).toNat < 2 ^ 31) ∧
      (∃ index : W32, index = x.head ∨ 2 ^ 31 ≤ (index - x.head).toNat) ∧
      (∃ index : W32, x.count < (index - x.head).toNat ∧ (index - x.head).toNat < 2 ^ 31)) ∧
    (∃ s f q, (∀ x, State.queue s q = some x → x.func ≠ f) ∧ s.doorbellsOpen = true) ∧
    (∃ s, State.doorbellsOpen s = false) :=
  ⟨⟨bells, 0, 0, _, rfl, rfl, rfl, by decide +kernel, ⟨19, by decide⟩, ⟨18, by decide⟩, ⟨20, by decide⟩⟩,
    ⟨bells, 0, 2, _, rfl, rfl, rfl, by decide +kernel, ⟨3, by decide⟩, ⟨1, by decide⟩, ⟨4, by decide⟩⟩,
    ⟨bells, 1, 0, by intro x h; cases h; decide, by decide +kernel⟩,
    ⟨{ up with regs := regs [(.SRV_BIND_OFF, 0, 2 ^ 64 - 1)] }, by decide +kernel⟩⟩

theorem witness_InterruptRules :
    (∃ s f q x, State.queue s q = some x ∧ x.func = f ∧ x.typ = .evt ∧ s.doorbellsOpen = true) ∧
    (∃ s q x t, State.queue s q = some x ∧ x.armed = true ∧ x.firstAt = some t ∧ x.coalUs ≠ 0 ∧ 1000 * x.coalUs ≤ (s.time - t).toNat) ∧
    (∃ s q x, State.queue s q = some x ∧ x.armed = false) ∧
    (∃ s q x, State.queue s q = some x ∧ x.armed = true ∧ x.sinceArm + 1 < x.coalCount) ∧
    (∃ s q x, State.queue s q = some x ∧ x.armed = true ∧ x.coalCount ≤ x.sinceArm + 1 ∧ s.msixMasked x.func x.vector = false) ∧
    (∃ r, hOpcode r = 0x0806 ∧ leAt r 20 1 % 4 = 1 ∧ (if leAt r 21 1 = 0 then 2048 else 64) ≤ leAt r 38 2) :=
  ⟨⟨bells, 0, 3, _, rfl, rfl, rfl, by decide +kernel⟩, ⟨bells, 2, _, _, rfl, rfl, rfl, by decide, by decide +kernel⟩,
    ⟨bells, 3, _, rfl, rfl⟩, ⟨bells, 2, _, rfl, rfl, by decide⟩,
    ⟨{ bells with queues := [(2, { que .cpl with armed := true })], msix := [(1, 0)] }, 2, _, rfl, rfl, by decide, by decide +kernel⟩,
    ⟨raw 0x0806 [(20, 1, 1), (21, 1, 1), (38, 2, 64)], by decide +kernel⟩⟩

/-- Where a command's body runs, its checks pass. -/
abbrev RunsOk (s : State) (op : Nat) (checks : State → List Byte → List (Bool × Nat)) : Prop :=
  Runs s op fun s0 c => decide (checkStatus (checks s0 c.raw) = 0)

/-- A package in service whose CMD queue 0 has one entry to fetch, with these duplicates remembered. -/
def feed (b : List Byte) (d : List Dup) : State :=
  { up with queues := tput up.queues 0 { que .cmd with tail := 1, dups := d }
            mem := (Memory.empty.writeHbm 2 0x10000 (b.take 32)).writeHbm 2 0x10020 (b.drop 32) }

/-- The queue's first entry, and what holds of it when it is fetched. -/
def feeds (s : State) (p : Queue → State → List Byte → Nat → Bool) : Bool :=
  match s.queue 0 with
  | none => false
  | some x => match s.headEntry x with
    | (s1, some r, n) => decide (x.typ = .cmd) && s.fetching && s.eligible 0 x && (x.lc || !(s.lcWaits x.panel)) && decide (n ≠ 0) &&
        p x s1 r n
    | _ => false

theorem witness_FetchAdmits : feeds (feed (raw 0x0605 []) []) (fun x s1 r _ =>
    (x.dups.find? fun d => decide (d.tag = w32 (hTag r))).isNone && (match opInfo (hOpcode r) with
      | some i => (!i.priv || decide (x.func = 0)) && s1.contextOk x (hCtx r) && !(headerRangeBad i r x.head.toNat)
      | none => false) && decide (checkStatus (s1.opChecks r) = 0) && !(hLc r) && s1.placeFree x (hCtx r) false) = true := by
  decide +kernel

theorem witness_FetchRejects :
    (feeds (feed (raw 0x0606 []) []) fun x _ r _ => x.dups.isEmpty && (opInfo (hOpcode r)).isNone) = true ∧
    (feeds { feed (raw 0x0701 []) [] with
        queues := [(0, { que .cmd with tail := 1, func := 1 })], funcs := tput up.funcs 1 Func.new } fun x _ r _ =>
      match opInfo (hOpcode r) with
      | some i => i.priv && decide (x.func ≠ 0)
      | none => false) = true ∧
    (feeds (feed (raw 0x0605 [(6, 2, 2)]) []) fun x s1 r _ => match opInfo (hOpcode r) with
      | some i => !i.priv && !(s1.contextOk x (hCtx r))
      | none => false) = true ∧
    (feeds (feed (raw 0x0605 [(3, 3, 1)]) []) fun x s1 r _ => match opInfo (hOpcode r) with
      | some i => s1.contextOk x (hCtx r) && headerRangeBad i r x.head.toNat
      | none => false) = true ∧
    (feeds (feed (raw 0x0605 [(20, 1, 1)]) []) fun x s1 r _ => match opInfo (hOpcode r) with
      | some i => s1.contextOk x (hCtx r) && !(headerRangeBad i r x.head.toNat) && decide (checkStatus (s1.opChecks r) ≠ 0)
      | none => false) = true ∧
    (feeds (feed (raw 0x0605 [(2, 1, 2), (3, 3, 10)]) []) fun x s1 r _ => match opInfo (hOpcode r) with
      | some i => s1.contextOk x (hCtx r) && !(headerRangeBad i r x.head.toNat) && decide (checkStatus (s1.opChecks r) = 0) && hLc r &&
          (s1.lcFit 0 (s1.cmdPanel x (hCtx r)) r (x.subTime x.head s1.time) (s1.lcWork r)).isNone
      | none => false) = true :=
  ⟨by decide +kernel, by decide +kernel, by decide +kernel, by decide +kernel, by decide +kernel, by decide +kernel⟩

theorem witness_DuplicateFetch :
    (feeds (feed (raw 0x0605 []) [⟨0, some (zeros 32), 0⟩]) fun x _ r _ =>
      match x.dups.find? fun d => decide (d.tag = w32 (hTag r)) with
      | some d => d.record.isSome
      | none => false) = true ∧
    (feeds (feed (raw 0x0605 []) [⟨0, none, 0⟩]) fun x _ r _ => match x.dups.find? fun d => decide (d.tag = w32 (hTag r)) with
      | some d => d.record.isNone
      | none => false) = true := by
  decide +kernel

theorem witness_CompletionEnds : ∃ s id c, State.cmd s id = some c ∧ c.phase = .done ∧ s.remoteOpen id = false :=
  ⟨{ up with cmds := [(1, { com 0x0605 [] with phase := .done })] }, 1, _, rfl, rfl, by decide +kernel⟩

theorem witness_ObjectsComplete :
    RunsOk (put 0x0806 [(16, 4, 9), (20, 1, 16), (24, 8, 0x20000), (32, 2, 1), (34, 4, 2)]) 0x0806 queueCreateChecks ∧
    RunsOk (put 0x0807 [(16, 4, 4)]) 0x0807 queueDestroyChecks ∧
    RunsOk (put 0x0808 [(16, 2, 2), (20, 8, 0x100000), (32, 4, 3)]) 0x0808 ctxCreateChecks ∧
    RunsOk { put 0x0809 [(16, 2, 2)] with ctxs := [(1, ⟨0, 0, some 0x100000, 0, 3, 64, [], 0⟩), (2, ⟨0, 0, some 0x100000, 0, 3, 64, [], 0⟩)] }
      0x0809 ctxDestroyChecks ∧
    RunsOk (put 0x080D [(16, 1, 1), (18, 6, 1), (24, 1, 12), (25, 1, 5), (32, 8, 0x40000), (40, 8, 0x80000)]) 0x080D vfCreateChecks ∧
    RunsOk { put 0x080E [(16, 1, 1)] with funcs := tput up.funcs 1 Func.new } 0x080E vfDestroyChecks ∧
    RunsOk (put 0x0303 [(16, 2, 7), (20, 4, 100), (24, 8, 1000)]) 0x0303 workDeclareChecks :=
  ⟨runs (by decide +kernel), runs (by decide +kernel), runs (by decide +kernel), runs (by decide +kernel), runs (by decide +kernel),
    runs (by decide +kernel), runs (by decide +kernel)⟩

theorem witness_PowerCommandsComplete :
    (∀ op ∈ [0x0701, 0x0702, 0x0703, 0x0706, 0x0707], runsB (put op [(16, 2, 500)]) op (fun _ c => decide (c.step = 0)) = true) ∧
    (∀ op ∈ [0x0704, 0x0705, 0x0708], runsB (put op [(16, 1, 0)]) op (fun _ _ => true) = true) ∧
    (∃ s d on id l, State.switches s = (d, on, id) :: l ∧ s.switchBreaks d on = false) :=
  ⟨by decide +kernel, by decide +kernel, { up with switches := [(0, true, 1)] }, 0, true, 1, [], rfl, by decide +kernel⟩

theorem witness_PowerEvents :
    (∃ s, (State.pwr s).shedN = true ∧ State.pwcRuns s = true ∧ (∃ t, (State.pwr s).shedAt = some t ∧ s.pwr.moved = false ∧
      1500000 ≤ (s.time - t).toNat ∧ s.fld .PWR_STATUS_BACKSTOP 0 ≠ 1) ∧ State.diePresent s 11 = true) :=
  ⟨{ up with pwr := { up.pwr with shedN := true, shedAt := some 0, moved := false }, time := 1500000 },
    rfl, by decide +kernel, ⟨0, rfl, rfl, by decide, by decide +kernel⟩, by decide +kernel⟩

theorem witness_SensorEvents :
    State.pwcRuns up = true ∧ (24 < 25 ∧ 0 < unitSensors 24 ∧ up.calByte (192 + 24) = 0 ∧
      (tgetD up.sensors (tempKey 24 0) Sensor.new).last = none) ∧
    (up.calByte (217 + 15) = 0 ∧ (tgetD up.sensors (25 + 15) Sensor.new).last = none ∧
      (tgetD up.sensors (25 + 15) Sensor.new).failed = false) := by
  decide +kernel

theorem witness_PanelsComplete :
    Runs (put 0x0801 [(16, 1, 1), (18, 6, 0xF0), (32, 4, 100)]) 0x0801 (fun s0 c =>
      decide (checkStatus (panelCreateChecks s0 c.raw) = 0) && !(bit (leAt c.raw 17 1) 0) && thas s0.epochs s0.committed) ∧
    Runs { put 0x0802 [(16, 1, 1)] with panels := [(0, ⟨0xF, []⟩), (1, ⟨0xF0, []⟩)] } 0x0802 (fun s0 c =>
      decide (checkStatus (panelDestroyChecks s0 c.raw) = 0) && thas s0.panels (leAt c.raw 16 1 % 64) && tsorted s0.panels) ∧
    Runs { put 0x0803 [(17, 1, 1), (18, 6, 1)] with panels := [(0, ⟨0xF, []⟩), (1, ⟨0xF0, []⟩)] } 0x0803 (fun s0 c =>
      decide (c.step = 0) && decide (checkStatus (panelRebindChecks s0 c.raw) = 0) &&
        !(s0.lcHolds (maskBits (leAt c.raw 18 6) 48)) && (maskBits (leAt c.raw 18 6) 48).all fun k => decide ((s0.tile k).unit = none)) ∧
    Runs { put 0x0803 [(17, 1, 1), (18, 6, 1)] with
        panels := [(0, ⟨0xF, []⟩), (1, ⟨0xF0, []⟩)]
        tiles := [(0, { Tile.free with owner := some 0, unit := some ⟨9, 1, 1, 0, 0⟩ })] } 0x0803 (fun s0 c =>
      decide (c.step = 0) && decide (checkStatus (panelRebindChecks s0 c.raw) = 0) &&
        (maskBits (leAt c.raw 18 6) 48).any fun k => (s0.tile k).unit.isSome) :=
  ⟨runs (by decide +kernel), runs (by decide +kernel), runs (by decide +kernel), runs (by decide +kernel)⟩

theorem witness_ConfigurationComplete :
    Runs (put 0x0804 [(16, 1, 1), (20, 1, 2), (24, 4, 500)]) 0x0804 (fun s0 c =>
      decide (checkStatus (configStageChecks s0 c.raw) = 0) && decide (leAt c.raw 16 1 = 1) && decide (s0.stage.length < 256)) ∧
    Runs { put 0x0804 [(16, 1, 1), (20, 1, 2), (24, 4, 500)] with stage := List.replicate 256 (.arr 3 0) } 0x0804 (fun s0 c =>
      decide (checkStatus (configStageChecks s0 c.raw) = 0) && decide (leAt c.raw 16 1 = 1) && decide (256 ≤ s0.stage.length)) ∧
    Runs (put 0x0804 [(16, 1, 2), (18, 2, 1)]) 0x0804 (fun s0 c =>
      decide (checkStatus (configStageChecks s0 c.raw) = 0) && decide (leAt c.raw 16 1 = 2) && decide (s0.stage.length < 256) &&
        (s0.stashAreas (leAt c.raw 18 2 % 4096) (classOf c.raw)).2.isSome) ∧
    Runs (put 0x0804 [(16, 1, 3)]) 0x0804 (fun s0 c =>
      decide (checkStatus (configStageChecks s0 c.raw) = 0) && decide (leAt c.raw 16 1 = 3)) ∧
    Runs (put 0x0805 []) 0x0805 (fun s0 c => decide (checkStatus (configCommitChecks s0 c.raw) = 0) && decide (s0.stage = [])) ∧
    Runs { put 0x0805 [] with stage := [.arr 3 0] } 0x0805 (fun s0 c =>
      decide (checkStatus (configCommitChecks s0 c.raw) = 0) && decide (s0.stage ≠ [])) ∧
    (∃ s r, r ∈ State.toApply s ∧ s.quiescent r = true) ∧
    (∃ s, State.toApply s ≠ [] ∧ s.committed = s.applied + 1 ∧
      1000000 * max 1 (min 1000 (s.fld .PNL_CFG_CTL_TIMEOUT_MS 0)) ≤ (s.time - s.commitAt).toNat) :=
  ⟨runs (by decide +kernel), runs (by decide +kernel), runs (by decide +kernel), runs (by decide +kernel), runs (by decide +kernel), runs (by decide +kernel),
    ⟨{ up with toApply := [.panelW 0] }, _, List.mem_singleton.2 rfl, by decide +kernel⟩,
    ⟨{ up with toApply := [.panelW 0], committed := 2, applied := 1, time := 1000000000 }, by decide, by decide, by decide +kernel⟩⟩

/-- A GEMM of context 1 in flight, context 1 being BE with one stash slot on the package's first quadrant, and the stash area's
pages held. -/
def busy : State :=
  { put 0x0201 [] with
    epochs := [(0, { Settings.initial with classes := [(1, ⟨true, false, 1, [0x1000000, 0, 0, 0], [1, 0, 0, 0]⟩)] })]
    committed := 0, applied := 0
    cmds := [(1, { com 0x0201 [] with epoch := 0 })]
    stash := [(4, [⟨1, 0x1000000, 0x4000000, 0, 0, true, true, true, false⟩])] }

/-- The same with the GEMM's unit on tile 0. -/
def busy0 (p : Option PreEmption) : State :=
  { busy with tiles := [(0, { Tile.free with owner := some 0, unit := some ⟨1, 1, 0, 0, 0⟩, pre := p })], time := 1000000 }

theorem witness_TileEvents :
    (∃ s id c, State.cmd s id = some c ∧ hLc c.raw = true ∧ c.row = none ∧ usesTiles c.opcode = true ∧ c.phase = .waiting ∧
      s.startable c = true ∧ maskBits c.tiles 48 ≠ [] ∧ (∀ k ∈ maskBits c.tiles 48, (s.tile k).lc = none ∧ (s.tile k).unit = none)) ∧
    (∃ s id c, State.cmd s id = some c ∧ hLc c.raw = true ∧ c.row = none ∧ usesTiles c.opcode = true ∧ c.phase = .waiting ∧
      s.startable c = true ∧ (∀ k ∈ maskBits c.tiles 48, (s.tile k).lc = none) ∧
      ∃ k u, k ∈ maskBits c.tiles 48 ∧ (s.tile k).unit = some u) ∧
    (∃ s k y, (State.tile s k).pre = some y ∧ y.phase = .requested ∧ s.tileAtomics k = false ∧ (s.tile k).unit.isSome = true ∧
      16000 ≤ (s.time - y.since).toNat) ∧
    (∃ s k u y, (State.tile s k).unit = some u ∧ (s.tile k).pre = some y ∧ y.phase = .stopped ∧
      s.slotReady u.ctx (quadOf k) (s.slotVa u.ctx (quadOf k) u.slot u.epoch) = true ∧ 56000 ≤ (s.time - y.since).toNat) ∧
    (∃ s k id c, State.cmd s id = some c ∧ s.beFits c k = true ∧ s.tileOpen k c.panel c.epoch = true ∧ c.phase ≠ .done ∧
      s.stepBars k id = false) ∧
    (∃ s k u p, (State.tile s k).unit = some u ∧ (s.tile k).owner = some p ∧ (s.tile k).pre = none ∧
      1000 * ((s.settings u.epoch).panel p).quantum ≤ (s.time - u.quantumStart).toNat ∧ s.otherWaits k p u.ctx = true) ∧
    (∃ s k n i c, tget (State.images s) n = some i ∧ s.cmd i.cmd = some c ∧ s.tileOpen k c.panel i.epoch = true ∧
      s.imageFits i k = true ∧ s.beAllowed i.ctx i.epoch = true ∧ c.phase ≠ .recorded ∧ s.unitsBarred c = false ∧
      s.slotPoisoned i.ctx i.quad (s.slotVa i.ctx i.quad i.slot i.epoch) = false ∧ tsorted s.images = true) ∧
    (∃ s k, s.fld .PNL_COMPACT_EN 0 = 1 ∧ s.tilesOffNow < s.fld .PNL_COMPACT_TARGET_OFF 0 ∧ s.nextVacate = some k ∧
      (State.tile s k).unit = none ∧ (s.tile k).owner = some 0) ∧
    (∃ s k, s.fld .PNL_COMPACT_EN 0 = 1 ∧ s.tilesOffNow < s.fld .PNL_COMPACT_TARGET_OFF 0 ∧ s.nextVacate = some k ∧
      (State.tile s k).unit = none ∧ (s.tile k).owner = none) ∧
    (∃ s k p, s.fld .PNL_COMPACT_TARGET_OFF 0 < s.tilesOffNow ∧ s.nextHome = some k ∧ (State.tile s k).home = some p) := by
  let lc : State := { put 0x0201 [] with cmds := [(1, { com 0x0201 [(2, 1, 2), (3, 3, 100)] with tiles := 3 })] }
  let two : State := { busy0 none with
    ctxs := [(1, ⟨0, 0, some 0x100000, 0, 3, 64, [], 0⟩), (2, ⟨0, 0, some 0x100000, 0, 3, 64, [], 0⟩)]
    epochs := [(0, { Settings.initial with classes := [(1, ⟨true, false, 1, [0, 0, 0, 0], [1, 0, 0, 0]⟩), (2, ⟨true, false, 1, [0, 0, 0, 0], [1, 0, 0, 0]⟩)] })]
    cmds := [(1, { com 0x0201 [] with epoch := 0, phase := .running }), (2, { com 0x0201 [(6, 2, 2)] with id := 2, ctx := 2, epoch := 0 })] }
  let img : Image := ⟨1, 1, 0, 0, 0, 0, [], []⟩
  refine ⟨⟨lc, 1, _, rfl, by decide +kernel, rfl, by decide +kernel, rfl, by decide +kernel, by decide +kernel, by decide +kernel⟩,
    ⟨{ lc with tiles := [(0, { Tile.free with owner := some 0, unit := some ⟨9, 2, 0, 0, 0⟩ })] }, 1, _, rfl, by decide +kernel, rfl,
      by decide +kernel, rfl, by decide +kernel, by decide +kernel, 0, ⟨9, 2, 0, 0, 0⟩, by decide +kernel, by decide +kernel⟩,
    ⟨busy0 (some ⟨.requested, 0, true, false, false, false⟩), 0, _, rfl, rfl, by decide +kernel, by decide +kernel, by decide +kernel⟩,
    ⟨busy0 (some ⟨.stopped, 0, true, false, false, false⟩), 0, _, _, rfl, rfl, rfl, by decide +kernel, by decide +kernel⟩,
    ⟨busy, 0, 1, _, rfl, by decide +kernel, by decide +kernel, by decide, by decide +kernel⟩,
    ⟨two, 0, _, _, rfl, rfl, rfl, by decide +kernel, by decide +kernel⟩,
    ⟨{ busy with images := [(7, img)], cmds := [(1, { com 0x0201 [] with epoch := 0, phase := .stashed })] }, 0, 7, img, _, rfl, rfl,
      by decide +kernel, by decide +kernel, by decide +kernel, by decide, by decide +kernel, by decide +kernel, by decide +kernel⟩,
    ⟨((up.setFld .PNL_COMPACT_EN 0 1).setFld .PNL_COMPACT_TARGET_OFF 0 47).setReg .PWR_DOMAIN_ON 0 0x1F, 3, by decide +kernel,
      by decide +kernel, by decide +kernel, by decide +kernel, by decide +kernel⟩,
    ⟨(up.setFld .PNL_COMPACT_EN 0 1).setFld .PNL_COMPACT_TARGET_OFF 0 47, 47, by decide +kernel,
      by decide +kernel, by decide +kernel, by decide +kernel, by decide +kernel⟩,
    ⟨{ (up.setReg .PWR_DOMAIN_ON 0 0) with tiles := [(0, { Tile.free with home := some 0 })] }, 0, 0, by decide +kernel, by decide +kernel,
      by decide +kernel⟩⟩

theorem witness_HbmEvents : State.stackLive up 15 = true ∧ up.domainOn (76 + 15) = true ∧
    State.stackLive (up.setFld .HBM_G_CTL_SCRUB_PERIOD 0 1) 0 = true ∧ (up.setFld .HBM_G_CTL_SCRUB_PERIOD 0 1).fld .HBM_G_CTL_SCRUB_PERIOD 0 ≠ 0 := by
  decide +kernel

/-- A package with a wrapping key, whose wrapped key 9 lies in HBM at 0x3000. -/
def wrap : State :=
  let b := wrapped 9 8
  { up with mwk := 8, blobs := [(b, 9, 8)], regs := tput up.regs (regKey .HBM_KEY_BUF 0) 0x3000
            mem := (Memory.empty.writeHbm 2 0x3000 (b.take 32)).writeHbm 2 0x3020 (b.drop 32) }

theorem witness_KeyOperations :
    (State.blobOk wrap (wrap.fld .HBM_KEY_BUF_ADDR 0) = true ∧ wrap.mwk ≠ 0 ∧ State.keyOf wrap 0 = some 1) ∧
    (wrap.writePhys wrap.hubWho 63 (wrap.fld .HBM_KEY_BUF_ADDR 0) (wrapped 1 wrap.mwk)).2 = true := by
  decide +kernel

theorem witness_RepairAndSwatch :
    State.fld up .HBM_G_CTL_TEST_MODE 0 = 0 ∧ up.bankSpareLeft 15 31 63 ≠ 0 ∧ (up.stack 15).pendingHard.length < 32 ∧
    (∃ s h pc bank, State.fld s .HBM_G_CTL_TEST_MODE 0 = 0 ∧ s.bankSpareLeft h pc bank = 0) ∧
    (∃ s h, State.stackLive s h = true ∧ s.fld .HBM_STK_STATUS_SW_BUSY h = 0 ∧ s.fld .HBM_SW_CTL_OP h = 4) ∧
    (∃ s h, State.fld s .HBM_STK_STATUS_SW_BUSY h = 1 ∧ s.fld .HBM_SW_CTL_OP h = 4) :=
  ⟨by decide +kernel, by decide +kernel, by decide +kernel,
    ⟨up.setStack 3 { up.stack 3 with spareUsed := [(bankKey 0 0, 1)] }, 3, 0, 0, by decide +kernel, by decide +kernel⟩,
    ⟨up.setFld .HBM_SW_CTL_OP 15 4, 15, by decide +kernel, by decide +kernel, by decide +kernel⟩,
    ⟨(up.setFld .HBM_SW_CTL_OP 15 4).setFld .HBM_STK_STATUS_SW_BUSY 15 1, 15, by decide +kernel, by decide +kernel⟩⟩

/-- A package with a guest at site 0. -/
def host0 : State := { up with fuses := { up.fuses with guestPop := 1 } }

theorem witness_ClearingReads : ∀ r ∈ [Reg.HBM_ECC_COUNT, .UCC_SLICE_ERR, .UCC_DIR_STATUS, .UCC_SKEIN_STATUS, .XLT_COUNTS, .LNK_ERR,
    .LNK_FEC, .GST_ERR, .RSQ_COUNTS, .PNL_COUNTS, .PNL_DISPATCH, .LNK_G_STATUS, .PWR_DROOP, .HUB_FLT_STATUS, .HUB_LEASE_STATUS,
    .OBS_SMP_STATUS, .OBS_CSMP_STATUS, .SRV_INPUT_STATUS], State.answers host0 .pf0 r 0 = true := by
  decide +kernel

theorem witness_PoppingReads :
    (∃ s h e l, State.answers s .pf0 .HBM_ECC_LOG h = true ∧ (s.stack h).eccLog = e :: l) ∧
    (State.answers up .pf0 .HBM_ECC_LOG 15 = true ∧ (up.stack 15).eccLog = []) ∧
    (∃ s h, State.answers s .pf0 .HBM_REPAIR_LOG h = true ∧ (s.stack h).repairPos < (s.stack h).repairs.length) ∧
    State.answers up .pf0 .QUE_FN_STATUS 0 = true ∧
    (∃ s n p, 0 < n ∧ State.answers s (.vf n) .PNL_COUNTS p = true ∧ State.answers s (.vf n) .PNL_DISPATCH p = true ∧
      State.answers s (.vf n) .RSQ_COUNTS p = true) :=
  ⟨⟨up.setStack 15 { up.stack 15 with eccLog := [⟨1, 0, 0, 0, 0, 0⟩] }, 15, ⟨1, 0, 0, 0, 0, 0⟩, [], by decide +kernel, by decide +kernel⟩,
    by decide +kernel,
    ⟨up.setStack 15 { up.stack 15 with repairs := [⟨1, 0, 0, 0, 0, 0⟩] }, 15, by decide +kernel, by decide +kernel⟩,
    by decide +kernel,
    ⟨{ up with funcs := tput up.funcs 252 { Func.new with panels := 1 } }, 252, 0, by decide, by decide +kernel, by decide +kernel,
      by decide +kernel⟩⟩

/-- Function 0 of a ring of 16 messages each way, eight in each. -/
def boxes : Func := { Func.new with mbxLog2 := 4, m2tHead := 0, m2tTail := 8, t2mHead := 0, t2mTail := 8 }

theorem witness_MailboxWrites : ∃ (s : State) (f : Nat) (g : Func), tget s.funcs f = some g ∧
    (∃ v : W32, (v - g.m2tHead).toNat ≤ 2 ^ g.mbxLog2 ∧ (g.m2tTail - g.m2tHead).toNat < (v - g.m2tHead).toNat ∧ v ≠ g.m2tTail) ∧
    (∃ v : W32, (v - g.m2tHead).toNat ≤ (g.m2tTail - g.m2tHead).toNat ∧ v ≠ g.m2tHead) ∧
    (∃ v : W32, (v - g.t2mHead).toNat ≤ 2 ^ g.mbxLog2 ∧ (g.t2mTail - g.t2mHead).toNat < (v - g.t2mHead).toNat ∧ v ≠ g.t2mTail) ∧
    (∃ v : W32, (v - g.t2mHead).toNat ≤ (g.t2mTail - g.t2mHead).toNat ∧ v ≠ g.t2mHead) ∧
    (∃ v : W32, 2 ^ g.mbxLog2 < (v - g.m2tHead).toNat ∧ v ≠ g.m2tTail) ∧
    (∃ v : W32, (g.t2mTail - g.t2mHead).toNat < (v - g.t2mHead).toNat ∧ v ≠ g.t2mHead) :=
  ⟨{ up with funcs := [(0, boxes)] }, 0, boxes, rfl, ⟨16, by decide⟩, ⟨8, by decide⟩, ⟨16, by decide⟩, ⟨8, by decide⟩, ⟨17, by decide⟩,
    ⟨9, by decide⟩⟩

theorem witness_RegisterWrites :
    (∃ r i off, State.regAt up .pf0 off = some (r, i, false) ∧ r = .HBM_KEY_BUF ∧ isMsix off = false ∧ isStaged r = false ∧ r.writable = true ∧
      (∀ h, halfMask h % 2 ^ (regInfo r).width ≠ 0)) ∧
    (∃ off, State.regAt up .pf0 off = some (.ARR_CONFIG, 47, false) ∧ isMsix off = false ∧ up.stage = [] ∧
      halfMask .low % 2 ^ (regInfo .ARR_CONFIG).width ≠ 0) :=
  ⟨⟨.HBM_KEY_BUF, 0, (Reg.HBM_KEY_BUF.offset 0).getD 0, by decide +kernel, rfl, by decide +kernel, by decide +kernel, by decide +kernel,
      by intro h; cases h <;> decide +kernel⟩,
    ⟨(Reg.ARR_CONFIG.offset 47).getD 0, by decide +kernel, by decide +kernel, rfl, by decide +kernel⟩⟩

/-- A LAUNCH of one block of 64 threads with 16 registers each and its entry at 0x1000: command 1, running on core 0. -/
def launchRaw : List (Nat × Nat × Nat) := [(16, 8, 0x1000), (32, 4, 2), (36, 2, 64), (38, 1, 16)]

/-- Group 0 of the launch's block, with these paths. -/
def grp (l : List Path) : Group := ⟨0, 0, 0, 2 ^ 32 - 1, l, [], [], none, false, none, false, false⟩

/-- All lanes but lane 0, at the kernel's entry. -/
def path : Path := ⟨2 ^ 32 - 2, 0x1000, [], 0, .none, none⟩

/-- The launch with a group on core 0, its tile's unit, and 64 bytes listed in HBM at 0x3000. -/
def kern (g : Group) : State :=
  { putMem 0x0301 launchRaw [] with
    cmds := [(1, { com 0x0301 launchRaw with phase := .running, epoch := 0 })]
    epochs := busy.epochs, committed := 0, applied := 0
    launches := [(1, ⟨1, 1, 0, [0], [0], [], 0, 0, 0, false, 0⟩)]
    cores := [(0, { Core.idle with launch := some 1, groups := [g], blocks := [⟨0, List.replicate 8 0, []⟩] })]
    tiles := [(0, { Tile.free with owner := some 0, unit := some ⟨1, 1, 0, 0, 0⟩ })]
    tlbs := (0, [tlb]) :: up.tlbs }

/-- An instruction may issue in a state, and a condition holds of what is fetched. -/
def issuesB (s : State) (i : Issue) (src dst : List Nat) (p : State → Iss → Bool) : Bool :=
  match s.issuing i with
  | none => false
  | some x => x.legal src dst && !(x.awaits (src ++ dst)) && match s.xlate x.issuer .exec x.p.pc.toNat with
    | (t, .ok _) => p t x
    | _ => false

/-- An instruction may issue in a state, and a condition holds of what is fetched. -/
def Issues (s : State) (src dst : List Nat) (p : State → Iss → Bool) : Prop :=
  ∃ i t x, State.mayIssue s i src dst t x ∧ p t x = true

theorem issues {s : State} {src dst : List Nat} {p : State → Iss → Bool} (i : Issue) (h : issuesB s i src dst p = true) :
    Issues s src dst p := by
  unfold issuesB at h
  split at h
  · cases h
  · rename_i x hx
    simp only [Bool.and_eq_true, Bool.not_eq_true'] at h
    obtain ⟨⟨h1, h2⟩, h3⟩ := h
    split at h3
    · rename_i t y ht
      exact ⟨i, t, x, ⟨hx, h1, h2, y, ht⟩, h3⟩
    · cases h3

def at0 : Issue := ⟨0, 0, 0, 0x1080⟩

theorem witness_CoreArithmetic :
    Issues (kern (grp [path])) (aluSrcs .iadd (.reg 15) (.imm 1) (.reg 0)) [15] (fun _ x => !(isF64 .iadd) && decide (x.lanes ≠ 0)) ∧
    Issues (kern (grp [path])) (aluSrcs .dfma (.reg 14) (.reg 256) (.imm 0)) [14, 15] (fun _ _ => isF64 .dfma) ∧
    Issues (kern (grp [path])) (srcRegs 1 (.reg 15) ++ if true then srcRegs 1 (.reg 257) ++ srcRegs 1 (.imm 7) else []) [0] (fun _ _ => true) :=
  ⟨issues at0 (by decide +kernel), issues at0 (by decide +kernel), issues at0 (by decide +kernel)⟩

theorem witness_ExchangesAndTallies : Issues (kern (grp [path])) [15, 0] [15] (fun _ _ => true) ∧
    Issues (kern (grp [path])) [15] [0] (fun _ _ => true) :=
  ⟨issues at0 (by decide +kernel), issues at0 (by decide +kernel)⟩

theorem witness_CoreControlFlow : Issues (kern (grp [path])) [15] [] (fun _ _ => true) ∧
    Issues (kern (grp [path, ⟨1, 0x2000, [], 0, .rdv 7 1, none⟩])) [] [] (fun _ x => decide (x.rest ≠ [])) :=
  ⟨issues at0 (by decide +kernel), issues at0 (by decide +kernel)⟩

/-- The group's registers 0 and 1 hold an address for lane 1, its only lane. -/
def lane1 (va : Nat) : Group :=
  { grp [{ path with lanes := 2 }] with live := 2, regs := [(256, w32 va)] }

theorem witness_CoreMemoryAccesses :
    Issues (kern (lane1 0x3000)) (regRun 0 2) (regRun 8 (sizeRegs 32)) (fun t x =>
      match (laneList x.lanes).foldl (fun (y : State × LoadAcc) j => y.1.loadLane x .bypass 32 j (x.addr 0 0 j) y.2)
          (t, ⟨[], false, false, false, none⟩) with
      | (_, a) => a.fault.isNone && !a.hold && !a.new && !a.far) ∧
    Issues (kern (lane1 0x3000)) (regRun 0 2) (regRun 8 (sizeRegs 32)) (fun t x =>
      match (laneList x.lanes).foldl (fun (y : State × LoadAcc) j => y.1.loadLane x .cached 32 j (x.addr 0 0 j) y.2)
          (t, ⟨[], false, false, false, none⟩) with
      | (_, a) => a.fault.isNone && !a.hold && a.new && !a.far && !((t.coreOf x.k).missing x.g.num)) ∧
    Issues (kern (lane1 0x3000)) (regRun 0 2 ++ regRun 8 (sizeRegs 32)) [] (fun t x =>
      !(t.goesFar x .write 32 (x.addr 0 0)) && ((laneList x.lanes).foldl (fun (y : State × Option (Nat × Nat × Nat)) j =>
        y.1.storeLane x .bypass 32 8 0 t.nextTag j (x.addr 0 0 j) y.2) (t, none)).2.isNone) ∧
    Issues (kern (lane1 0x3000)) (regRun 0 2 ++ regRun 8 (sizeRegs 4) ++ if AtomOp.add = .cas then regRun 9 (sizeRegs 4) else [])
      (regRun 10 (sizeRegs 4)) (fun t x => !(t.goesFar x .atomic 4 (x.addr 0 0)) &&
        (t.wordLanes x .atomic 4 10 4 (x.addr 0 0) (atomicLane x .add 4 10 8 9 t.nextTag)).2.isNone) ∧
    Issues (kern (lane1 0x3000)) (regRun 0 2) (regRun 10 (sizeRegs 8)) (fun t x =>
      (t.wordLanes x .read 8 10 8 (x.addr 0 0) (llLane x 8)).2.isNone) ∧
    Issues (kern (lane1 0x3000)) (regRun 0 2 ++ regRun 8 (sizeRegs 8)) [10] (fun t x =>
      (t.wordLanes x .write 8 10 4 (x.addr 0 0) (scLane x 8 8)).2.isNone) ∧
    Issues (kern (lane1 0x3000)) (regRun 0 2 ++ [8]) [] (fun t x =>
      match t.xlate x.issuer .atomic (x.addr 0 0 (lowLane x.lanes) / 128 * 128) with
      | (u, .ok l) => !l.device && decide (region (l.pa % 2 ^ 48) = .hbm) && u.isLocal l.pa
      | _ => false) :=
  ⟨issues at0 (by decide +kernel), issues at0 (by decide +kernel), issues at0 (by decide +kernel), issues at0 (by decide +kernel),
    issues at0 (by decide +kernel), issues at0 (by decide +kernel), issues at0 (by decide +kernel)⟩

theorem witness_FencesAndL1 :
    Issues (kern (grp [path])) [] [] (fun t x => !(t.fenceOpen x 1) && !(t.fenceOpen x 2) && !(t.fenceOpen x 3) &&
      !((t.l1Drop x.k (fun l => !l.locked) fun _ => true).coveredFills x.k (fun _ => true))) ∧
    Issues (kern (lane1 0x3000)) (regRun 0 2 ++ regRun 2 2) [] (fun t x =>
      !((t.l1Drop x.k (fun l => inLines (t.laneLines x 0 2) l.line) (inLines (t.laneLines x 0 2))).coveredFills x.k
        (inLines (t.laneLines x 0 2)))) ∧
    Issues (kern { lane1 0x3000 with regs := [(256, 0x3000), (258, 64)] }) (regRun 0 2 ++ regRun 2 2) [4] (fun t x =>
      ((laneList x.lanes).foldl (fun (y : State × Option (Nat × Nat × Nat)) j =>
        if y.2.isSome then y
        else
          match y.1.l1PreLane x j (x.regN j 0 8) (x.regN j 2 8) with
          | (s, m, none) => (s.modGroup x.k x.g.num fun g => g.land j 4 4 m, none)
          | (s, _, some f) => (s, some f)) (t, none)).2.isNone) ∧
    (∃ s die core line f, (State.coreOf s (32 * die + core)).fills.find? (fun f => decide (f.line = line) && f.ready) = some f) ∧
    (∃ s die core e l, (State.coreOf s (32 * die + core)).evb = e :: l) :=
  ⟨issues at0 (by decide +kernel), issues at0 (by decide +kernel), issues at0 (by decide +kernel),
    ⟨{ up with cores := [(383, { Core.idle with fills := [⟨5, 0, zeros 128, 0, true, false⟩] })] }, 11, 31, 5, _, rfl⟩,
    ⟨{ up with cores := [(383, { Core.idle with evb := [⟨5, zeros 128, 2 ^ 128 - 1, 1, 0, false⟩] })] }, 11, 31, _, [], rfl⟩⟩

theorem witness_LaunchesComplete :
    Runs { kern (grp [path]) with launches := [], cores := [], cmds := [(1, { com 0x0301 launchRaw with epoch := 0 })] } 0x0301 (fun s0 c =>
      decide (s0.heldTiles c ≠ []) && !(thas s0.launches c.id) && decide (checkStatus (launchChecks s0 (s0.settings c.epoch) c.panel c.raw) = 0) &&
        !c.lost && decide (([0, 7].filter fun k => (s0.launchCores c.panel c.raw).contains k) ≠ []) && (match s0.readArgs c with
          | (_, some (.ok _)) => true
          | _ => false)) ∧
    (∃ s id die core c l, State.cmd s id = some c ∧ tget s.launches id = some l ∧ l.stopped = false ∧ l.next < gridOf c.raw ∧
      l.cores.contains (32 * die + core) = true ∧ (s.heldTiles c).contains (coreTile (32 * die + core)) = true ∧
      s.tileStops (32 * die + core) = false ∧ (s.coreOf (32 * die + core)).halted = false ∧
      (s.coreOf (32 * die + core)).launch = some id ∧ s.roomFor (32 * die + core) c.raw = true ∧ c.id = id) ∧
    (∃ s id die core c l, State.cmd s id = some c ∧ tget s.launches id = some l ∧ (s.coreOf (32 * die + core)).launch = some id ∧
      (s.coreOf (32 * die + core)).blocks = [] ∧ s.coreRemotes (32 * die + core) = false) ∧
    (∃ s id block group c k g p, State.cmd s id = some c ∧ s.parkedGroup id block group = some (k, g, p) ∧
      1000 * parkLimit c.raw ≤ (s.time - p.since).toNat) ∧
    (∃ s id die core c l b e, State.cmd s id = some c ∧ tget s.launches id = some l ∧
      ((tget s.ctxs c.ctx).bind fun x => tget x.decls (hOperator c.raw)) = some (b, e) ∧ (s.coreOf (32 * die + core)).launch = some id ∧
      s.isLc c = true ∧ l.stopped = false ∧ 1000 * b ≤ 2100 * (s.time - (s.coreOf (32 * die + core)).started).toNat) ∧
    (∀ late : Bool, ∀ a ∈ [1, 2], Runs { kern { grp [path] with parked := some ⟨1, 0, 0x0301, late⟩ } with
        cmds := [(1, { com 0x0302 [(16, 4, 5), (29, 1, a)] with id := 1 }),
          (2, { com 0x0301 launchRaw with id := 2, q := 5, phase := .running, epoch := 0 })]
        launches := [(2, ⟨2, 1, 0, [0], [0], [], 0, 0, 0, false, 0⟩)]
        cores := [(0, { Core.idle with launch := some 2, groups := [{ grp [path] with parked := some ⟨1, 0, 0x0301, late⟩ }] })] } 0x0302
      (fun s0 c => decide (checkStatus (resumeGroupChecks s0 c.raw) = 0) && decide (bits (leAt c.raw 29 1) 1 0 = a) &&
        (match s0.resumed c.raw with
        | some (_, _, _, p) => decide (p.late = late)
        | none => false))) := by
  let k := kern (grp [path])
  refine ⟨runs (by decide +kernel),
    ⟨k, 1, 0, 0, _, _, rfl, rfl, rfl, by decide +kernel, by decide +kernel, by decide +kernel, by decide +kernel, by decide +kernel,
      by decide +kernel, by decide +kernel, rfl⟩,
    ⟨{ k with cores := [(0, { Core.idle with launch := some 1 })] }, 1, 0, 0, _, _, rfl, rfl, by decide +kernel, by decide +kernel,
      by decide +kernel⟩,
    ⟨{ kern { grp [path] with parked := some ⟨1, 0, 0x0301, false⟩ } with time := 100000000 }, 1, 0, 0, _, 0,
      { grp [path] with parked := some ⟨1, 0, 0x0301, false⟩ }, ⟨1, 0, 0x0301, false⟩, rfl, by decide +kernel, by decide +kernel⟩,
    ⟨{ k with
        time := 1000000, cmds := [(1, { com 0x0301 [(2, 1, 2), (10, 2, 7)] with phase := .running })]
        ctxs := [(1, ⟨0, 0, none, 0, 3, 64, [(7, 1000, 5)], 0⟩)] }, 1, 0, 0, _, _, 1000, 5, rfl, rfl, by decide +kernel, by decide +kernel,
      by decide +kernel, rfl, by decide +kernel⟩, ?_⟩
  intro late a ha
  have h : ∀ late : Bool, ∀ a ∈ [1, 2], runsB { kern { grp [path] with parked := some ⟨1, 0, 0x0301, late⟩ } with
        cmds := [(1, { com 0x0302 [(16, 4, 5), (29, 1, a)] with id := 1 }),
          (2, { com 0x0301 launchRaw with id := 2, q := 5, phase := .running, epoch := 0 })]
        launches := [(2, ⟨2, 1, 0, [0], [0], [], 0, 0, 0, false, 0⟩)]
        cores := [(0, { Core.idle with launch := some 2, groups := [{ grp [path] with parked := some ⟨1, 0, 0x0301, late⟩ }] })] } 0x0302
      (fun s0 c => decide (checkStatus (resumeGroupChecks s0 c.raw) = 0) && decide (bits (leAt c.raw 29 1) 1 0 = a) &&
        (match s0.resumed c.raw with
        | some (_, _, _, p) => decide (p.late = late)
        | none => false)) = true := by decide +kernel
  exact runs (h late a ha)

/-- HBM that lists bytes from an address on, encrypted under a key. -/
def hbm (key a : Nat) (b : List Byte) : Memory :=
  ⟨b.zipIdx.map fun e => (a + e.2, e.1), (List.range (b.length / 32)).map fun i => (a / 32 + i, ⟨key, false⟩), []⟩

/-- Bytes that are zero but for fields as (byte, length, value). -/
def bytes (n : Nat) (l : List (Nat × Nat × Nat)) : List Byte := l.foldl (fun r e => patch r e.1 (leBytes e.2.1 e.2.2)) (zeros n)

/-- A GEMM of one INT8 product into INT32, whose unit is on tile 0. -/
def mat : State :=
  { kern (grp [path]) with
    launches := [], cores := []
    cmds := [(1, { com 0x0201 [(16, 8, 0x3000), (24, 8, 0x3000), (32, 8, 0x3000), (48, 4, 1), (52, 4, 1), (56, 4, 1), (60, 2, 0xECC)] with
      epoch := 0 })]
    mem := hbm 1 0x3000 (bytes 64 [(0, 1, 5)]) }

theorem witness_MatrixComplete :
    Runs mat 0x0201 (fun s0 c =>
      let l := [0]
      let iss := c.arrayIssuer 0
      match s0.readAux c iss with
      | (s1, some (.ok aux)) =>
        let (s2, w) := s1.awaitAll c.id iss (gemmReads c.raw aux)
        let (s3, g) := s2.gemmIn c iss aux
        decide (s0.heldTiles c ≠ []) && !(s0.loadBefore c) && s0.tilesReady c l &&
          decide (checkStatus (gemmChecks s0 (s0.settings c.epoch) c.panel c.raw) = 0) && !c.lost && !(hLc c.raw) && !w &&
          (s3.probeAll iss .write (gemmWrites c.raw aux)).2.isNone && (gemmFirstFault g).isNone
      | _ => false) ∧
    Runs (putMem 0x0202 [(16, 8, 0x3000), (25, 1, 1)] []) 0x0202 (fun s0 c =>
      let iss : Issuer := { s0.dmaIssuer c with source := 3 }
      let (s1, w) := s0.await c.id iss (leAt c.raw 16 8) (32 * leAt c.raw 25 1)
      match s1.cmdRead c.id iss (leAt c.raw 16 8) (32 * leAt c.raw 25 1) with
      | (_, ⟨_, false, none, false⟩) => !(s0.gemmBefore c) && decide (checkStatus (actTableLoadChecks s0 c.raw) = 0) && !c.lost && !w
      | _ => false) :=
  ⟨runs (by decide +kernel), runs (by decide +kernel)⟩

/-- A collective of two members, of which this package has rank 0, and the other's COLL is there with a hash. -/
def pair (op : Nat) (isOpen : Bool) (hash : W32) : State :=
  { put op [(16, 8, 0x3000), (24, 8, 0x3000), (32, 8, 128), (48, 2, 9)] with
    cmds := [(1, { com op (if op = 0x0405 then [(48, 2, 9)] else [(16, 8, 0x3000), (24, 8, 0x3000), (32, 8, 128), (48, 2, 9)]) with
      phase := .running, step := 1 })]
    jobs := [⟨1, 7, isOpen, 1, false, some ⟨1, 1, 0, 5, 0, [0, 1]⟩⟩]
    colls := [⟨1, 7, 1, 0, hash, 1⟩]
    tlbs := up.tlbs ++ [(400, [tlb])]
    mem := hbm 1 0x3000 (zeros 128) }

/-- Every member's COLL is there for the collective of the command's job. -/
def allThere (s0 : State) (c : Cmd) (p : Job → JobCur → Bool) : Bool :=
  match s0.jobOf c.id with
  | some j => match j.cur with
    | some k => (List.range k.members.length).all (fun i => decide (i = k.rank) || (s0.collOf j k i).isSome) && p j k
    | none => false
  | none => false

theorem witness_CollectivesComplete :
    (∀ op ∈ [0x0401, 0x0402, 0x0403, 0x0404], ∀ isOpen : Bool, runsB (pair op isOpen 5) op (fun s0 c =>
      decide (checkStatus (collChecks s0 c.raw) = 0) && !c.lost && decide (c.step ≠ 0) && allThere s0 c fun j k =>
        decide (j.open_ = isOpen) && readsSrc c.raw k.rank && match s0.readWhole c (c.hubIssuer 5) (leAt c.raw 16 8) (kLen c.raw) with
          | (s1, some (.ok own)) => match inputsOf c.raw 2 k.rank own [(1, zeros 128)] with
            | some l => (s1.probe (c.hubIssuer 5) .write (leAt c.raw 24 8) (collResult c.raw 2 k.rank l).1.length).2.isNone
            | none => false
          | _ => false) = true) ∧
    (∀ isOpen : Bool, runsB (pair 0x0405 isOpen 5) 0x0405 (fun s0 c =>
      decide (checkStatus (collChecks s0 c.raw) = 0) && !c.lost && decide (c.step ≠ 0) && allThere s0 c fun _ _ => true) = true) ∧
    Runs (pair 0x0405 false 6) 0x0405 (fun s0 c => decide (checkStatus (collChecks s0 c.raw) = 0) && !c.lost && decide (c.step ≠ 0) &&
      allThere s0 c fun j k => !j.open_ && match s0.collOf j k 1 with
        | some m => decide (m.hash ≠ k.hash)
        | none => false) ∧
    (∀ isOpen : Bool, ∃ s id c j k, State.cmd s id = some c ∧ hCls c.raw = 4 ∧ c.phase = .running ∧
      1000000 * kTimeoutMs c.raw ≤ (s.time - c.tStart).toNat ∧ s.jobOf id = some j ∧ j.cur = some k ∧ j.open_ = isOpen) :=
  ⟨by decide +kernel, by decide +kernel, runs (by decide +kernel), fun o => ⟨{ pair 0x0401 o 5 with time := 2000000000 }, 1, _, _, _, rfl,
    by decide +kernel, rfl, by cases o <;> decide +kernel, rfl, rfl, rfl⟩⟩

/-- A sequencer of panel 0 whose structures stand in HBM at 0x10000, its row buffer at 0x3000 - 64, with one slot and these working copies. -/
def seqr (l : Tab SeqRec) (x : Option RowRun) : Rsq :=
  { cfg := ⟨0x100000, 0x10000, 0x20000, 0x30000, 0x2FC0, 4, 256, 32, 1, 2, 1, 1, 16, 0, false, 1, 64, 0, 100, false⟩, ctx := 1,
    prog := [bytes 256 [(0, 2, 0x0506), (128, 1, 2)], bytes 256 [(128, 1, 3), (129, 1, 32)]], pool := 4, stack := [0, 1, 2, 3], lcOut := 0,
    row := 0, nextAdmit := 5, seqs := l, run := x, stop := [], resize := none, fault := none, byFreeze := false }

/-- A sequence of a prompt of one token that decodes. -/
def seq : SeqRec :=
  ⟨7, 4, .decode, false, 1, 1, 0, [3], 0, 0, 0, 0, 4, 0, 0, bytes 64 [(0, 4, 7), (32, 4, 1), (36, 4, 4), (40, 4, 2)], 1, 0, none, false, false⟩

/-- A row of that sequence, in a stage. -/
def row (stage : Nat) (ended : Bool) : RowRun := ⟨[0], 1, 0, stage, 0, 0, [], [], ended⟩

/-- The panel's sequencer, in a state of Table 08-11. -/
def seqs (t : Nat) (r : Rsq) (op : Nat) (l : List (Nat × Nat × Nat)) : State :=
  { put op l with
    rsqs := [(0, r)], epochs := busy.epochs, committed := 0, applied := 0
    regs := tput up.regs (regKey .RSQ_STATUS 0) (w64 (t * 2 ^ Fld.RSQ_STATUS_STATE.lo)) }

/-- A sequencer's descriptor, and its program of two entries. -/
def desc : List Byte :=
  bytes 256 [(8, 8, 0x10000), (16, 8, 0x20000), (24, 8, 0x30000), (32, 8, 0x40000), (40, 8, 0x5000100), (48, 3, 4), (52, 4, 512), (56, 4, 32),
    (60, 2, 1), (62, 2, 2), (64, 2, 1), (66, 2, 1), (68, 2, 16), (70, 2, 2), (80, 6, 1)]
def prog : List (List Byte) := [bytes 256 [(0, 1, 6), (1, 1, 5), (6, 2, 1), (128, 1, 2)], bytes 256 [(128, 1, 3), (129, 1, 32)]]

/-- RSQ_CONFIG of that descriptor in tile 0's scratchpad, its program after it. -/
def confg : State :=
  { put 0x0501 [(16, 8, 0x5000000)] with
    epochs := [(0, { Settings.initial with arr := [(0, 1)] })], committed := 0
    tlbs := [(396, [⟨1, 0x5000000, 0x100000, scratchBase 0, 0, true, true, true, false⟩])]
    mem := ⟨((desc ++ prog.flatten).zipIdx.filter fun e => decide (e.1 ≠ 0)).map fun e => (scratchBase 0 + e.2, e.1), [], []⟩ }

/-- The bytes that a read gives, where it gives any. -/
def got : Option (Except Nat (List Byte)) → Option (List Byte)
  | some (.ok b) => some b
  | _ => none

def cmdOf (s : State) : Cmd := (s.cmd 1).getD (com 0 [])
def confg0 : State := confg.beginCmd (cmdOf confg)
def confg1 : State × Option (Except Nat (List Byte)) :=
  confg0.readWhole (cmdOf confg0) (confg0.rsqIssuer 0 1) 0x5000000 256
def confg2 : State × Option (Except Nat (List Byte)) :=
  confg1.1.readWhole (cmdOf confg0) (confg0.rsqIssuer 0 1) 0x5000100 512

theorem witness_SequencerCommands_config :
    State.mayRun confg 1 0x0501 confg0 (cmdOf confg0) ∧ checkStatus (rsqConfigChecks confg0 (cmdOf confg0).raw) = 0 ∧
    (cmdOf confg0).lost = false ∧ (cmdOf confg0).panel = 0 ∧ (cmdOf confg0).ctx = 1 ∧ leAt (cmdOf confg0).raw 16 8 = 0x5000000 ∧
    got confg1.2 = some desc ∧ descBad (rsqCfgOf (cmdOf confg0).raw desc) desc = false ∧
    leAt desc 40 8 = 0x5000100 ∧ 256 * leAt desc 70 2 = 512 ∧ got confg2.2 = some prog.flatten ∧
    confg2.1.rsqCfgStatus 0 1 (rsqCfgOf (cmdOf confg0).raw desc) (splitEvery 256 prog.flatten 2) = 0 := by
  refine ⟨⟨_, rfl, by decide +kernel, by decide +kernel, rfl, rfl⟩, ?_⟩
  decide +kernel

/-- RSQ_START with RESUME = 1 from structures in tile 0's scratchpad: one page, which is free, and no sequence. -/
def resum : State :=
  let c := bytes 64 [(0, 4, 1), (4, 4, 1)]
  let b := patch c 40 (leBytes 4 (crc32c (c.take 40)))
  { seqs 1 { seqr [] none with cfg := { (seqr [] none).cfg with ctrl := 0x5000000, table := 0x5000100, lists := 0x5000200 } } 0x0502 [(16, 1, 1)] with
    epochs := [(0, { Settings.initial with arr := [(0, 1)], classes := [(1, ⟨true, false, 1, [0, 0, 0, 0], [1, 0, 0, 0]⟩)] })]
    tlbs := [(396, [⟨1, 0x5000000, 0x100000, scratchBase 0, 0, true, true, true, false⟩])]
    mem := ⟨(b.zipIdx.filter fun e => decide (e.1 ≠ 0)).map fun e => (scratchBase 0 + e.2, e.1), [], []⟩ }

theorem witness_SequencerCommands :
    Runs (seqs 1 (seqr [] none) 0x0502 []) 0x0502 (fun s0 c => match tget s0.rsqs c.panel with
      | some r => decide (checkStatus (rsqStartChecks s0 c.raw) = 0) && !r.cfg.lcEn && !(bit (leAt c.raw 16 1) 0) &&
          decide ((s0.publishRsq c.panel r.emptied).2 = 0)
      | none => false) ∧
    Runs resum 0x0502 (fun s0 c => match tget s0.rsqs c.panel with
      | some r => decide (checkStatus (rsqStartChecks s0 c.raw) = 0) && !r.cfg.lcEn && bit (leAt c.raw 16 1) 0 &&
          (match (s0.loadRsq c.panel r).2 with
          | .ok x => decide (x.stack = [0])
          | .error _ => false)
      | none => false) ∧
    (∀ t ∈ [1, 2], runsB (seqs t (seqr [] none) 0x0503 [(16, 1, 2)]) 0x0503 (fun s0 c =>
      decide (c.step ≠ 1) && decide (checkStatus (rsqStopChecks s0 c.raw) = 0) && (tget s0.rsqs c.panel).isSome &&
        decide (s0.rsqStarted c.panel = decide (t = 2))) = true) ∧
    Runs (seqs 2 (seqr [(0, seq)] none) 0x0504 [(16, 4, 4), (20, 4, 7)]) 0x0504 (fun s0 c =>
      decide (checkStatus (seqCancelChecks s0 c.raw) = 0) && (s0.cancelled c.raw).isSome) ∧
    Runs (seqs 2 (seqr [] none) 0x0505 [(16, 3, 8)]) 0x0505 (fun s0 c => match tget s0.rsqs c.panel with
      | some r => decide (c.step ≠ 1) && decide (checkStatus (poolResizeChecks s0 c.raw) = 0) && r.resize.isNone
      | none => false) :=
  ⟨runs (by decide +kernel), runs (by decide +kernel), by decide +kernel, runs (by decide +kernel), runs (by decide +kernel)⟩

/-- The SEQ queue 4 with one entry to fetch, for the panel's started sequencer. -/
def seqFeed (b : List Byte) : State :=
  { seqs 2 (seqr [] none) 0x0605 [] with
    queues := tput up.queues 4 { que .seq with tail := 1 }
    mem := hbm 2 0x10000 b }

/-- The SEQ queue's entry, and what holds of it when it is fetched. -/
def seqFeeds (s : State) (p : Queue → State → List Byte → Bool) : Bool :=
  match s.queue 4 with
  | none => false
  | some x => match s.headEntry x with
    | (s1, some e, _) => decide (x.typ = .seq) && s.fetching && s.eligible 4 x && !(s.lcWaits x.panel) &&
        (x.dups.find? fun d => decide (d.tag = w32 (leAt e 0 4))).isNone && p x s1 e
    | _ => false

theorem witness_SequencerEvents :
    (seqFeeds (seqFeed (bytes 64 [(32, 4, 1), (36, 4, 4), (40, 4, 2)])) (fun x s1 e => decide (checkStatus (seqChecks s1 x e) = 0) &&
      match s1.feeds x with
      | some r => decide (r.seqs.length < r.cfg.slots) && !(thas r.seqs 1)
      | none => false)) = true ∧
    (seqFeeds (seqFeed (bytes 64 [(32, 4, 0), (36, 4, 4), (40, 4, 2)])) (fun x s1 e => decide (checkStatus (seqChecks s1 x e) ≠ 0))) = true ∧
    (∃ s p r x, tget (State.rsqs s) p = some r ∧ r.run = some x ∧ s.rsqStarted p = true ∧ x.ended = false ∧ r.fault = none ∧ x.failed = [] ∧
      r.toIssue x ≠ []) ∧
    (∀ st ∈ [0, 3], ∃ s p r x, tget (State.rsqs s) p = some r ∧ r.run = some x ∧ s.rsqStarted p = true ∧ x.ended = false ∧ r.fault = none ∧
      x.failed = [] ∧ r.toIssue x = [] ∧ x.issued = [] ∧ (∀ i, i < r.prog.length → x.next ≤ i → eStage (r.prog.getD i []) ≠ x.stage) ∧
      (x.after.isSome ↔ st = 0)) ∧
    (∃ s p r, tget (State.rsqs s) p = some r ∧ s.rsqStarted p = true ∧ s.rowHeld p = false ∧ r.run = none ∧ r.resize = none) ∧
    (∃ s p r x, tget (State.rsqs s) p = some r ∧ s.rsqStarted p = true ∧ s.rowHeld p = false ∧ r.run = some x ∧ r.fault = none ∧
      x.ended = true ∧ (match (s.rowOuts p r x).2 with
        | .ok l => l.length
        | .error _ => 0) = 1) ∧
    (∃ s p r x f, tget (State.rsqs s) p = some r ∧ s.rsqStarted p = true ∧ s.rowHeld p = false ∧ r.run = some x ∧ r.fault = some f ∧
      x.issued = [] ∧ x.failed = []) ∧
    (∃ s p id r x i st, tget (State.rsqs s) p = some r ∧ r.run = some x ∧ x.failed.find? (fun e => decide (e.1 = id)) = some (id, i, st)) := by
  let go (r : Rsq) : State := seqs 2 r 0x0605 []
  let fin : Rsq := seqr [(0, seq)] (some (row 3 true))
  refine ⟨by decide +kernel, by decide +kernel,
    ⟨go (seqr [(0, seq)] (some (row 2 false))), 0, _, _, rfl, rfl, by decide +kernel, rfl, rfl, rfl, by decide +kernel⟩, ?_,
    ⟨go (seqr [] none), 0, _, rfl, by decide +kernel, by decide +kernel, rfl, rfl⟩,
    ⟨{ go { fin with cfg := { fin.cfg with rowBuf := 0x3000 } } with mem := hbm 1 0x3000 (bytes 192 [(108, 1, 1)]) }, 0,
      { fin with cfg := { fin.cfg with rowBuf := 0x3000 } }, row 3 true, rfl, by decide +kernel, by decide +kernel, rfl, rfl, rfl,
      by decide +kernel⟩,
    ⟨go { fin with fault := some (0x0301, 2, 0) }, 0, _, _, _, rfl, by decide +kernel, by decide +kernel, rfl, rfl, rfl, rfl⟩,
    ⟨go (seqr [(0, seq)] (some { row 2 false with failed := [(9, 0, 0x0301)] })), 0, 9, _, _, 0, 0x0301, rfl, rfl, by decide +kernel⟩⟩
  intro st h
  have : st = 0 ∨ st = 3 := by simpa using h
  rcases this with rfl | rfl
  · exact ⟨go (seqr [(0, seq)] (some (row 0 false))), 0, _, _, rfl, rfl, by decide +kernel, rfl, rfl, rfl, by decide +kernel, rfl,
      by decide +kernel, by decide +kernel⟩
  · exact ⟨go (seqr [(0, seq)] (some { row 3 false with next := 2 })), 0, _, _, rfl, rfl, by decide +kernel, rfl, rfl, rfl, by decide +kernel, rfl,
      by decide +kernel, by decide +kernel⟩

/-- A write of HUB_RESET_CMD with its CONFIRM. -/
def resetWord (step kind target : Nat) : W64 := w64 (0x4652 * 2 ^ 48 + step * 2 ^ 20 + kind * 2 ^ 16 + target)

theorem witness_LowerResetsComplete :
    (∀ e ∈ [(0x080A, [(16, 2, 1)]), (0x080B, [(16, 1, 1), (17, 1, 47)]), (0x080C, [])], runsB (put e.1 e.2) e.1 (fun s0 c =>
      decide (c.step = 0) && decide (s0.boot ≠ .bindOff) && s0.targetExists (resetOf c.raw) && decide (s0.resetJob = none)) = true) ∧
    ([resetWord 1 0 1, resetWord 2 1 47, resetWord 2 3 11, resetWord 3 0 0, resetWord 4 0 0].all fun v =>
      State.resetRegOk up false v && State.resetRegOk up true v) = true ∧
    ([resetWord 1 0 2, resetWord 2 0 0, resetWord 3 0 1, resetWord 4 0 0 - 1].any fun v =>
      State.resetRegOk up false v || State.resetRegOk up true v) = false ∧ up.resetJob = none ∧
    (∃ s j, State.resetJob s = some j ∧ j.overran = false) :=
  ⟨by decide +kernel, by decide +kernel, by decide +kernel, rfl, { up with resetJob := some ⟨1, 0, 1, 0, [], false⟩ }, _, rfl, rfl⟩

theorem witness_UpperResetsComplete :
    (∀ side : Bool, State.resetRegOk up side (resetWord 4 0 0) = true ∧ (stepOfReg (resetWord 4 0 0)).step = 4) ∧
    (∃ s id c, State.cmd s id = some c ∧ c.opcode = 0x0F06 ∧ s.startable c = true ∧ bit (leAt c.raw 16 1) 0 = true ∧ s.boot = .ready) ∧
    (∃ s ns, State.boot s = .ready ∧ 100000 ≤ ns) ∧
    (∀ f ∈ [0, 252], ∃ s g, tget (State.funcs s) f = some g ∧ (f = 0 → s.boot = .ready)) :=
  ⟨by decide +kernel, ⟨put 0x0F06 [(16, 1, 1)], 1, _, rfl, by decide +kernel, by decide +kernel, by decide +kernel, rfl⟩,
    ⟨up, 100000, rfl, Nat.le_refl _⟩, by
      intro f h
      have : f = 0 ∨ f = 252 := by simpa using h
      rcases this with rfl | rfl
      · exact ⟨{ up with funcs := [(0, Func.new)] }, _, rfl, fun _ => rfl⟩
      · exact ⟨{ up with funcs := [(252, Func.new)] }, _, rfl, fun _ => rfl⟩⟩

/-- What cast-on meets where everything works. -/
def good : BootInputs := ⟨true, true, false, false, true, List.replicate 12 none, 0, List.replicate 16 none, true⟩

theorem witness_CastOnComplete :
    (State.boot { State.reset with pins := { State.reset.pins with trayRst := true } } = .off ∧ State.reset.flash.a.good = true ∧
      (State.reset.flash.recordOk = true → State.reset.flash.preferB = false) ∧ good.romOk = true ∧ good.flashOk = true ∧ good.copyABad = false) ∧
    (∃ s b, State.boot s = .vinWait ∧ BootInputs.stageOk b = false) :=
  ⟨by decide +kernel, { up with boot := .vinWait }, { good with stageOk := false }, rfl, rfl⟩

theorem witness_SupplyEvents :
    State.boot up ≠ .off ∧ (∃ s u v, u < 41 ∧ tripC u ≤ v ∧ State.boot s ≠ .off ∧ s.pins.thermTrip = false) ∧
    (∃ s, (State.pins s).stage48 = true ∧ State.boot s ≠ .off ∧ s.fld .GLB_STATUS_CLK_HOLDOVER 0 = 0) ∧
    (∃ s, State.fld s .GLB_STATUS_CLK_HOLDOVER 0 = 1) ∧
    (∃ s d, d < 60 ∧ bit (State.reg s .GLB_CLK_STATUS 0) d = true) ∧
    (∃ s, ∃ w : W64, State.boot s = .ready ∧ bits w.toNat 63 48 = 0x424F ∧ bits w.toNat 47 32 = 0) ∧
    (∃ s, State.boot s = .bindOff ∧ 1000000 * s.drainMs ≤ (s.time - s.bindAt).toNat) ∧
    (∃ s c, c < 27 ∧ State.fld s .SRV_STATUS_STATE c = 2) :=
  ⟨by decide, ⟨up, 40, 105, by decide, by decide, by decide, rfl⟩,
    ⟨{ up with pins := { up.pins with stage48 := true } }, rfl, by decide, by decide +kernel⟩,
    ⟨up.setFld .GLB_STATUS_CLK_HOLDOVER 0 1, by decide +kernel⟩, ⟨up.setReg .GLB_CLK_STATUS 0 (2 ^ 60 - 1), 59, by decide, by decide +kernel⟩,
    ⟨up, w64 (0x424F * 2 ^ 48), rfl, by decide, by decide⟩, ⟨{ up with boot := .bindOff, drainMs := 1, time := 1000000 }, rfl, by decide⟩,
    ⟨up, 2, by decide, by decide +kernel⟩⟩

theorem witness_ObservationComplete :
    RunsOk (put 0x0901 [(16, 2, 1), (18, 1, 64), (32, 8, 5)]) 0x0901 counterSetChecks ∧
    (∀ f ∈ [1, 2], runsB (put 0x0902 [(16, 8, 0x4000), (24, 2, 0x40), (26, 1, f)]) 0x0902 (fun s0 c =>
      decide (checkStatus (snapshotChecks s0 c.raw) = 0) && decide (leAt c.raw 26 1 % 4 = f)) = true) ∧
    (∀ b ∈ [2, 3], runsB (put 0x0903 [(16, 1, b), (17, 1, 8), (20, 4, 64), (24, 8, 0x4000)]) 0x0903 (fun s0 c =>
      decide (checkStatus (samplerSetChecks s0 c.raw) = 0) && decide (bit (leAt c.raw 16 1) 0 = decide (b = 3))) = true) ∧
    Runs (put 0x0904 [(16, 1, 1), (32, 8, 0x3000), (40, 8, 0x4000), (48, 4, 64)]) 0x0904 (fun s0 c =>
      decide (checkStatus (stitchSetChecks s0 c.raw) = 0) && decide (leAt c.raw 16 1 % 4 = 1) &&
        match s0.heldPages (hCtx c.raw) (leAt c.raw 40 8) (max 1 (leAt c.raw 18 1) * (64 + ceilDiv (leAt c.raw 48 4) 64 * 64)) with
        | (u, .ok _) => (u.markNumber (hCtx c.raw) (leAt c.raw 17 1 % 16)).isSome
        | _ => false) ∧
    RunsOk (put 0x0904 [(16, 1, 2)]) 0x0904 stitchSetChecks ∧
    (∃ s n d, tget (State.dumps s) n = some d) ∧
    (∀ full : Bool, ∃ s, State.fld s .OBS_SMP_CTL_EN 0 = 1 ∧ s.now % (1000 * s.fld .OBS_SMP_CTL_PERIOD_US 0) = 0 ∧ s.smpAt ≠ some s.time ∧
      decide (2 ^ s.fld .OBS_SMP_CTL_LOG2_ENTRIES 0 ≤ (w32 (s.fld .OBS_SMP_PTRS_TAIL 0) - w32 (s.fld .OBS_SMP_PTRS_HEAD 0)).toNat) = full) ∧
    (∃ s die core, die < 12 ∧ core < 32 ∧ State.fld s .OBS_CSMP_CTL_EN 0 = 1 ∧
      bit (s.fld .OBS_CSMP_TILES_TILES 0) (coreTile (32 * die + core)) = true ∧
      s.fld .OBS_CSMP_CTL_PERIOD 0 ≤ s.reg .GC_ISSUED (32 * die + core) - tgetD s.csmpAt (32 * die + core) 0 ∧
      (s.coreOf (32 * die + core)).groups = []) ∧
    (∃ s, State.now s % (1000 * min 10000 (max 1 (s.fld .OBS_BW_CTL_WINDOW_US 0))) = 0 ∧ s.bwAt ≠ some s.time) := by
  let smp (t : Nat) : State :=
    (((up.setFld .OBS_SMP_CTL_EN 0 1).setFld .OBS_SMP_CTL_PERIOD_US 0 1).setFld .OBS_SMP_CTL_LOG2_ENTRIES 0 4).setFld .OBS_SMP_PTRS_TAIL 0 t
  refine ⟨runs (by decide +kernel), by decide +kernel, by decide +kernel, runs (by decide +kernel), runs (by decide +kernel),
    ⟨{ up with dumps := [(0, ⟨some 0, 1, 0x3000, 0x4000, 64, 0, 0, 0, 0, 0, 0, 0, 0, none, none, []⟩)] }, 0, _, rfl⟩, ?_,
    ⟨(((up.setFld .OBS_CSMP_CTL_EN 0 1).setFld .OBS_CSMP_TILES_TILES 0 (2 ^ 48 - 1)).setFld .OBS_CSMP_CTL_PERIOD 0 64).setReg .GC_ISSUED 383 64,
      11, 31, by decide, by decide, by decide +kernel, by decide +kernel, by decide +kernel, by decide +kernel⟩,
    ⟨up, by decide +kernel, by decide +kernel⟩⟩
  intro full
  cases full
  · exact ⟨smp 15, by decide +kernel, by decide +kernel, by decide +kernel, by decide +kernel⟩
  · exact ⟨smp 16, by decide +kernel, by decide +kernel, by decide +kernel, by decide +kernel⟩

/-- The launch's group 0 with a reservation on its core. -/
def held (g : Group) : State := { kern g with resvs := [⟨0, 0, 1, 0x3000, 4, 4, 0⟩], time := 20000 }

theorem witness_DebugComplete :
    (∃ s die core group g, State.findGroup s (32 * die + core) group = some g ∧ s.lcCore (32 * die + core) = false ∧
      s.groupHalted (32 * die + core) g = false ∧ g.deferred = none ∧ s.groupLocked (32 * die + core) group = false) ∧
    (∃ s die core group g, State.findGroup s (32 * die + core) group = some g ∧ s.lcCore (32 * die + core) = false ∧
      s.groupHalted (32 * die + core) g = false ∧ g.deferred = none ∧ s.groupLocked (32 * die + core) group = true) ∧
    (∃ s die core group g, State.findGroup s (32 * die + core) group = some g ∧ s.lcCore (32 * die + core) = true) ∧
    (∃ s die core group g t0, State.findGroup s (32 * die + core) group = some g ∧ g.deferred = some t0 ∧
      s.groupLocked (32 * die + core) group = true ∧ 10000 ≤ (s.time - t0).toNat) ∧
    (∃ s die core, die < 12 ∧ core < 32 ∧ State.lcCore s (32 * die + core) = false) ∧
    (∃ s, (State.dbgReg s).isSome = true) ∧
    (∃ s t n c, tget (State.stepped s) t = some n ∧ n % 2 = 0 ∧ s.cmd (n / 2) = some c) ∧
    (∃ s, State.fld s .DBG_CTL_LC_HALT_EN 0 = 1 ∧ (∀ e ∈ s.cmds, hLc e.2.raw = true → e.2.row.isSome = true) ∧
      (∀ e ∈ s.rsqs, e.2.cfg.lcEn = true → s.rsqStarted e.1 = false)) :=
  ⟨⟨kern (grp [path]), 0, 0, 0, _, rfl, by decide +kernel, by decide +kernel, rfl, by decide +kernel⟩,
    ⟨held (grp [path]), 0, 0, 0, _, rfl, by decide +kernel, by decide +kernel, rfl, by decide +kernel⟩,
    ⟨{ kern (grp [path]) with cmds := [(1, { com 0x0301 [(2, 1, 2)] with phase := .running })] }, 0, 0, 0, _, rfl, by decide +kernel⟩,
    ⟨held { grp [path] with deferred := some 0 }, 0, 0, 0, _, 0, rfl, rfl, by decide +kernel, by decide⟩,
    ⟨up, 11, 31, by decide, by decide, by decide +kernel⟩, ⟨kern { grp [path] with halted := true }, by decide +kernel⟩,
    ⟨{ put 0x0201 [] with stepped := [(0, 2)] }, 0, 2, _, rfl, rfl, rfl⟩,
    ⟨{ put 0x0201 [] with regs := tput up.regs (regKey .DBG_CTL 0) (w64 (2 ^ Fld.DBG_CTL_LC_HALT_EN.lo)) }, by decide +kernel, by decide +kernel,
      by decide +kernel⟩⟩

theorem witness_FirmwareAndSideband :
    Runs { put 0x0F04 [(16, 8, 0x3000), (24, 4, 32)] with mem := hbm 2 0x3000 (zeros 32) } 0x0F04 (fun s0 c =>
      decide (checkStatus (attestChecks s0 c.raw) = 0) && (s0.readPhys s0.hubWho 63 (leAt c.raw 16 8) (leAt c.raw 24 4)).2.isSome) ∧
    Runs (put 0x0F06 []) 0x0F06 (fun _ c => !(bit (leAt c.raw 16 1) 0)) ∧
    (∃ s id c, State.cmd s id = some c ∧ c.opcode = 0x0F06 ∧ s.startable c = true ∧ checkStatus (fwActivateChecks s c.raw) = 0 ∧
      bit (leAt c.raw 16 1) 0 = true ∧ s.boot = .ready) ∧
    (State.mgcUp up = true ∧ up.boot ≠ .mgmtOnly ∧ up.boot ≠ .bindOff ∧ up.stageBusy = false ∧ (up.pldmSensor 1).isSome = true ∧
      up.resetRegOk true (resetWord 3 0 0) = true ∧ (stepOfReg (resetWord 3 0 0)).step ≠ 4) ∧
    (∃ s, ∃ v : W64, State.mgcUp s = true ∧ checkStatus (capSetChecks s (effecterRaw (v.toNat % 2 ^ 16) 0)) = 0 ∧
      checkStatus (shedLevelSetChecks s (effecterRaw (v.toNat % 2 ^ 15) (bits v.toNat 15 15))) = 0) ∧
    (∀ cert : Bool, ∃ s, State.mgcUp s = true ∧ s.reqCert = cert) ∧
    (∃ f g, tget (State.funcs up) f = some g) ∧ (∃ s, State.boot s = .recovery) :=
  ⟨runs (by decide +kernel), runs (by decide +kernel),
    ⟨{ put 0x0F06 [(16, 1, 1)] with regs := tput up.regs (regKey .SRV_FW_STATUS 0) (w64 (2 ^ Fld.SRV_FW_STATUS_INACTIVE_VALID.lo)) }, 1, _, rfl,
      by decide +kernel, by decide +kernel, by decide +kernel, by decide +kernel, rfl⟩,
    by decide +kernel, ⟨up.setFld .PWR_LIMITS_GRADE_MAX_W 0 1000, 1000, by decide +kernel, by decide +kernel, by decide +kernel⟩,
    fun c => ⟨{ up with flash := { up.flash with inUse := zeros 88 ++ [if c then 1 else 0] } }, rfl, by cases c <;> decide +kernel⟩, ⟨0, _, rfl⟩, ⟨{ up with boot := .recovery }, rfl⟩⟩

theorem witness_TestPorts :
    (∃ code : Byte, tapListed code = false) ∧
    (∃ s, State.mgcUp s = true ∧ s.tap.instr = 0x20 ∧ s.fld .DBG_STATUS_AUTH 0 = 1) ∧
    (∃ s a, State.mgcUp s = true ∧ s.tap.instr = 0x20 ∧ s.fld .DBG_STATUS_AUTH 0 ≠ 1 ∧ s.isDbgId a = false) ∧
    (∃ s serial, State.mgcUp s = true ∧ s.tap.instr = 0x20 ∧ serial = s.fuses.serial) :=
  ⟨⟨0xFF, by decide⟩, ⟨{ up.setFld .DBG_STATUS_AUTH 0 1 with tap := { up.tap with instr := 0x20 } }, by decide, rfl, by decide +kernel⟩,
    ⟨{ up with tap := { up.tap with instr := 0x20 } }, .readReg 0, by decide, rfl, by decide +kernel, by decide +kernel⟩,
    ⟨{ up with tap := { up.tap with instr := 0x20 } }, _, by decide, rfl, rfl⟩⟩

/-- Function 0's aperture on context 1, at the 64 listed bytes of 0x3000. -/
def aper : State := { putMem 0x0605 [] [] with funcs := [(0, { Func.new with apEn := true, apCtx := 1, apBase := 0x3000 })] }

/-- A guest at site 0, active, bound to context 1, with every kind of request declared. -/
def guest0 : State :=
  let s := ((putMem 0x0605 [] []).setFld .GST_STATUS_STATE 0 4).setFld .GST_BIND_VALID 0 1
  (s.setFld .GST_BIND_CTX 0 1).setFld .GST_CAP_TXN_REQ 0 31

/-- The addresses of a guest's request translate in `guest0`, in this package, and a condition holds of the state then. -/
def guestRuns (q : GuestReq) (p : State → Issuer → Bool) : Bool :=
  let (iss, v) := (guest0.bump (unitGuest 0) 2 1 none).outerIssuer 1
  let (w, f) := v.probe iss (reqNeed q) (reqVa q) (reqBytes q)
  decide (guest0.fld .GST_STATUS_STATE 0 = 4) && decide (guest0.fld .GST_BIND_VALID 0 ≠ 0) && bit (guest0.fld .GST_CAP_TXN_REQ 0) (reqTxn q) &&
    decide (guest0.fld .GST_BIND_CTX 0 = 1) && f.isNone && w.guestLocal iss q && p w iss

theorem witness_OutsideAccesses :
    (match (aper.bump (unitHost 0) 4 1 none).outerIssuer 1 with
      | (iss, u) => (u.probe iss (accNeed (.read 32)) 0x3000 32).2.isNone &&
        ((u.probe iss (accNeed (.read 32)) 0x3000 32).1.outerRead iss 0x3000 32).2.isSome &&
        (u.probe iss (accNeed (.write (zeros 32) 0)) 0x3000 32).2.isNone) = true ∧
    (∃ g, tget (State.funcs aper) 0 = some g ∧ g.apEn = true ∧ g.apCtx = 1 ∧ g.apBase = 0x3000 ∧ 2 ^ 36 < 2 ^ 36 - 31 + accBytes (.read 32)) ∧
    guestRuns (.rdOnce 0x3000 32) (fun w iss => (w.outerRead iss 0x3000 32).2.isSome) = true ∧
    guestRuns (.wrPtl 0x3000 (zeros 32) 0) (fun w iss => decide ((w.seqWrite iss 0x3000 (zeros 32)).2 = 0)) = true ∧
    guestRuns (.wrLine 0x3000 (zeros 64) 0) (fun w iss => decide ((w.seqWrite iss 0x3000 (zeros 64)).2 = 0)) = true ∧
    guestRuns (.atomic 0x3008 .add 8 1 0) (fun w iss => match w.xlate iss .atomic 0x3008 with
      | (r, .ok l) => match (r.atomicAt ((r.keyOf l.key).getD 0) (l.pa % 2 ^ 48) .add 8 1 0).2 with
        | .ok _ => true
        | .error _ => false
      | _ => false) = true ∧
    (∃ s site q, site < 2 ∧ State.fld s .GST_STATUS_STATE site = 4 ∧
      (s.fld .GST_BIND_VALID site = 0 ∨ bit (s.fld .GST_CAP_TXN_REQ site) (reqTxn q) = false)) :=
  ⟨by decide +kernel, ⟨_, rfl, rfl, rfl, rfl, by decide⟩, by decide +kernel, by decide +kernel, by decide +kernel, by decide +kernel,
    ⟨up.setFld .GST_STATUS_STATE 1 4, 1, .rdOnce 0 32, by decide, by decide +kernel, .inl (by decide +kernel)⟩⟩

/-- Link 1 in a state, long after its last event, with the PHY powered, and package numbers above this one routed to it. -/
def lnk (n : Nat) : State :=
  { ((up.setFld .LNK_STATUS_STATE 1 n).setFld .LNK_CTL_ADMIN_UP 1 1) with time := 2000000000#64, routes := [(5, 2)] }

def flit0 : Flit := ⟨true, false, 0, 0, false, [], []⟩

def sent0 : SentFlit := ⟨0, ⟨.req, 5, 0, 1, 9, 0, 2, .read 0x1000 64 63⟩⟩

theorem witness_LinkEvents :
    ([1, 2, 3].all fun n => let s := lnk n
      decide (s.linkState 1 = n) && decide ((s.link 1).nak = none) && decide ((s.link 1).waiting = []) &&
      decide (flit0.seq = (s.link 1).expected) && decide ((1 : BitVec 12) ≠ (s.link 1).expected)) = true ∧
    (∃ s t0, (State.link s 1).nak = some t0 ∧ 8000 ≤ (s.time - t0).toNat) ∧
    (∃ s, 2 ≤ State.linkState s 1 ∧ (s.link 1).unacked ≠ [] ∧ 8000 ≤ (s.time - (s.link 1).progress).toNat) ∧
    (([2, 3].all fun n => let s := lnk n
      decide (s.linkState 1 = n) && decide (100000 ≤ (s.time - (s.link 1).lastGood).toNat)) = true ∧ ∃ s, 16 ≤ (State.link s 1).sameReplays) ∧
    (∃ s t0, (State.link s 1).recovery = some t0 ∧ s.linkState 1 = 4 ∧ 10000000 ≤ (s.time - t0).toNat) ∧
    ([0, 4].all fun n => let s := lnk n
      decide (s.fld .LNK_CTL_ADMIN_UP 1 = 1) && s.oeOn 1 && decide (s.linkState 1 = n) && decide ((s.link 1).tryAt.toNat ≤ s.now)) = true ∧
    (lnk 1).linkState 1 = 1 :=
  ⟨by decide +kernel, ⟨(lnk 3).modLink 1 fun x => { x with nak := some 0 }, 0, rfl, by decide +kernel⟩,
    ⟨(lnk 3).modLink 1 fun x => { x with unacked := [sent0] }, by decide +kernel, by decide +kernel, by decide +kernel⟩,
    ⟨by decide +kernel, (lnk 3).modLink 1 fun x => { x with sameReplays := 16 }, by decide +kernel⟩,
    ⟨(lnk 4).modLink 1 fun x => { x with recovery := some 0 }, 0, rfl, by decide +kernel, by decide +kernel⟩, by decide +kernel,
    by decide +kernel⟩

/-- A read of package 5's memory, sent long ago; `r` and `k` say whether it was refused and what it is. -/
def rem (k : RemoteKind) (r : Option W64) : State :=
  { lnk 3 with remotes := [⟨9, k, 5, 1, 0, 0, 0x1000, sent0.msg.body, 0, 0, r, .none, false⟩] }

theorem witness_RemoteAccessEvents :
    ([RemoteKind.read, .write, .final, .atomic, .addLine].all fun k => [none, some 0].all fun t0 => let s := rem k t0
      match s.remotes.find? (fun r => decide (r.tag = 9)) with
      | some r => decide (r.refused = t0) && decide (r.kind = k) && decide (1000 ≤ (s.time - 0).toNat) &&
        !(s.unsent 9) && decide (s.e2eNs ≤ (s.time - r.sentAt).toNat) && decide (r.resends < 3) && (s.inject (s.message r.pkg r.ctx 9 r.msg)).isSome &&
        (((s.modRemote 9 fun x => { x with refused := none, sentAt := s.time }).incFld .LNK_G_STATUS_REFUSED 0 1).inject
          (s.message r.pkg r.ctx 9 r.msg)).isSome
      | none => false) = true ∧
    (∃ s t, State.findTracker s 5 1 0 = some t ∧ ∃ h ∈ t.held, 1000000 ≤ (s.time - h.since).toNat) ∧
    (∃ s, ∀ j ∈ State.jobs s, j.cur = none) :=
  ⟨by decide +kernel, ⟨{ lnk 3 with trackers := [⟨5, 1, 0, [0, 0, 0, 0], [⟨1, 1, 0, 0, 63, 9, 5, 0⟩]⟩] }, _, rfl, _, List.mem_cons_self ..,
    by decide +kernel⟩, ⟨up, by decide +kernel⟩⟩

theorem witness_TimeEvents :
    (lnk 3).linkUp 1 = true ∧
    (∃ s, (State.timebase s).good = some 0 ∧ 10000000 ≤ (s.time - 0).toNat ∧ s.fld .TMB_STATUS_LOCKED 0 = 0) ∧
    (∃ s, (State.timebase s).lost = some 0 ∧ 10000000 ≤ (s.time - 0).toNat ∧ s.timebase.told = false ∧ s.fld .TMB_STATUS_HOLDOVER 0 = 1) ∧
    (∃ s, (State.pins s).lastPps = some 0 ∧ (s.time - 0).toNat < 999000000) ∧
    (∀ e : Bool, ∃ s, (State.pins s).lastPps = some 0 ∧ 999000000 ≤ (s.time - 0).toNat ∧ s.timebase.epochSet = e ∧
      s.isRoot = true ∧ s.fld .TMB_CTL_PPS_EN 0 = 1 ∧ s.now < s.reg .TMB_EPOCH 0 * 1000000000 ∧
      s.reg .TMB_EPOCH 0 * 1000000000 < 2 ^ 64) :=
  ⟨by decide +kernel, ⟨{ lnk 3 with timebase := { Timebase.new with good := some 0 } }, rfl, by decide +kernel, by decide +kernel⟩,
    ⟨{ (lnk 3).setFld .TMB_STATUS_HOLDOVER 0 1 with timebase := { Timebase.new with lost := some 0 } }, rfl, by decide +kernel, rfl,
      by decide +kernel⟩,
    ⟨{ up with pins := { up.pins with lastPps := some 0 } }, rfl, by decide +kernel⟩,
    fun e => ⟨{ ((((lnk 3).setReg .TMB_EPOCH 0 7).setFld .TMB_CTL_ROOT 0 1).setFld .TMB_CTL_PPS_EN 0 1) with
      pins := { up.pins with lastPps := some 0 }, timebase := { Timebase.new with epochSet := e } }, rfl, by cases e <;> decide +kernel, rfl,
      by cases e <;> decide +kernel, by cases e <;> decide +kernel, by cases e <;> decide +kernel, by cases e <;> decide +kernel⟩⟩

/-- A capability block that is accepted: 75 W, every kind of request. -/
def capBlock : List Byte :=
  let b := [(0, 4, 0x4E474342), (4, 1, 1), (5, 1, 31), (12, 2, 75)].foldl (fun r e => patch r e.1 (leBytes e.2.1 e.2.2)) (zeros 60)
  b ++ leBytes 4 (crc32c b)

def site (n : Nat) : State :=
  { (((up.setFld .GST_CTL_ENABLE 0 1).setFld .GST_STATUS_STATE 0 n).setFld .GST_CAP_POWER_W 0 75) with
    fuses := { up.fuses with guestPop := 1 }, time := 2000000000#64 }

theorem witness_GuestSites :
    ((site 0).sitePopulated 0 = true ∧ (site 0).fld .GST_CTL_ENABLE 0 = 1 ∧ (site 0).fld .GST_STATUS_STATE 0 ≠ 4) ∧
    ((site 3).fld .GST_STATUS_STATE 0 = 3 ∧ capCause capBlock = 0 ∧ capCause (zeros 64) ≠ 0 ∧
      10000000 ≤ ((site 3).time - tgetD (site 3).guestUp 0 0).toNat) ∧
    ((site 2).fld .GST_STATUS_STATE 0 = 2 ∧ ((site 4).setFld .GST_CTL_ENABLE 0 0).fld .GST_STATUS_STATE 0 = 4 ∧
      ((site 4).setFld .GST_CTL_ENABLE 0 0).fld .GST_CTL_ENABLE 0 = 0) ∧
    ((site 4).fld .GST_STATUS_STATE 0 = 4 ∧ 11 * (site 4).fld .GST_CAP_POWER_W 0 < 10 * 83) := by decide +kernel

/-- The header of a request of owner 0, context 1, for slice 1, under key slot 0. -/
def req1 : ReqHdr := ⟨7, 1, 0, 1, 0, 1⟩

/-- Requests find room in the tracker unless it is full. -/
theorem full_tracker (x : Tracked) (n p : Nat) (hx : x.port = 0) (hp : p = 0) (hn : 1024 ≤ n) (h : 53760 ≤ n - 1024) :
    ({ up with tracker := List.replicate n x } : State).trackerRoom p = false := by
  simp [State.trackerRoom, List.filter_replicate, hx, hp, List.range, List.range.loop]
  all_goals omega

theorem witness_CoherenceRequests :
    State.takesReq up req1 96 ∧
    (∃ s q, q = State.homeOf s 96 ∧ s.bank q = [] ∧ s.stalled q = []) ∧
    (∃ s, State.trackerRoom s 0 = false) ∧
    ((12296 : Nat) / 128 = 96 ∧ 12296 % 8 = 0 ∧ region (12296 % 2 ^ 48) = .hbm) ∧
    (region (0x800000000008 % 2 ^ 48) ≠ .hbm ∧ ∀ d o, region (0x800000000008 % 2 ^ 48) ≠ .dscr d o) ∧
    region (128 * localLine 0x10000000000) ≠ .hbm :=
  ⟨⟨by decide +kernel, by decide +kernel, by decide +kernel, by decide +kernel⟩, ⟨up, _, rfl, by decide +kernel, by decide +kernel⟩,
    ⟨_, full_tracker ⟨7, 0, 0, 1, 96, 0, 15⟩ 60000 0 rfl rfl (by decide) (by decide)⟩, by decide,
    ⟨by decide, by intro d o; simp [region]⟩, by decide⟩

/-- The line 96 in state M at slice q, its home. -/
def line0 (st : LState) : Line := ⟨96, st, 1, 0, 0, 0, 63⟩

/-- A message of kind k from an agent to an agent about line 96, a slice's contents, and the bank's entry of the line. -/
def netd (k : MKind) (src dst : Nat) (x : Slice) (d : List DirEntry) : State :=
  let q := up.homeOf 96
  { up with
    net := [{ Msg.plain k src dst 96 ReqHdr.hub with tag := 7 }], slices := [(q, x)], dirs := [(q, d)]
    tracker := [⟨7, 1, 0, 1, 96, 0, 15⟩], time := 2000000000#64 }

def q0 : Nat := up.homeOf 96

/-- A snoop that a slice receives and does not block: whether the line is held, buffered and listed. -/
def snoops (k : MKind) (x : Slice) (held buf : Bool) (l : Option Line) : Bool :=
  let s := netd k (bankAgent q0) q0 x []
  !(s.snpBlocked q0 96) && match s.recv k none (some q0) 96 with
    | some (_, t) => decide ((t.slice q0).holding 96 = held) && decide (((t.slice q0).wbuf.any fun l => decide (l.line = 96)) = buf) &&
      decide ((t.slice q0).find 96 = l)
    | none => false

theorem witness_SliceAnswers :
    ([MKind.snpShr, .snpInv].all fun k =>
      snoops k { Slice.new with lines := [line0 .e], holds := [⟨96, 0, 1, 0⟩] } true false (some (line0 .e)) &&
      snoops k Slice.new false false none && snoops k { Slice.new with lines := [line0 .s] } false false (some (line0 .s)) &&
      snoops k { Slice.new with lines := [line0 .m] } false false (some (line0 .m)) &&
      snoops k { Slice.new with wbuf := [line0 .m] } false true none) = true ∧
    (snoops .snpFetch { Slice.new with lines := [line0 .m] } false false (some (line0 .m)) = true ∧
      ∃ s m t, State.recv s .snpFetch none (some q0) 96 = some (m, t) ∧ (t.slice q0).find 96 = none ∧
        t.stackLive (t.hbmLoc (128 * localLine 96)).1 = false) ∧
    (∃ s h, (State.slice s q0).holds.find? (fun h => decide (h.line = 96)) = some h ∧ h.until_ ≤ s.now) ∧
    (∃ s r, State.replay s 1 5 0x100 = some r ∧ 1000000 ≤ (s.time - r.last).toNat) ∧
    ([MKind.wbAck, .dirFree].all fun k => ((netd k (bankAgent q0) q0 { Slice.new with wbuf := [line0 .m] } []).recv k none (some q0) 96).isSome) = true ∧
    ((takeMsg (fun m => decide (m.kind = .credit) && decide (m.dst = q0) && decide (m.src = bankAgent q0))
      (netd .credit (bankAgent q0) q0 Slice.new []).net).isSome = true ∧
      (takeMsg (fun m => decide (m.kind = .complete) && decide (m.tag = 7)) (netd .complete 0x38 0x22 Slice.new []).net).isSome = true) ∧
    ([4, 5, 6, 7].all fun p => let s := { netd .credit 0 0 Slice.new [] with tracker := [⟨7, p, 0, 1, 96, 0, 15⟩] }
      match s.tracker.find? (fun t => decide (t.tag = 7)) with
      | some t0 => decide (t0.port = p) && decide (1000 * max 10 (min 100000 (s.fld .SRV_REQ_TIMEOUT_US 0)) ≤ (s.time - t0.since).toNat)
      | none => false) = true :=
  ⟨by decide +kernel,
    ⟨by decide +kernel, { netd .snpFetch (bankAgent q0) q0 Slice.new [] with regs := [] }, { Msg.plain .snpFetch (bankAgent q0) q0 96 ReqHdr.hub with tag := 7 },
      { netd .snpFetch (bankAgent q0) q0 Slice.new [] with regs := [], net := [] }, by decide +kernel, by decide +kernel, by decide +kernel⟩,
    ⟨netd .credit 0 0 { Slice.new with holds := [⟨96, 0, 1, 0⟩] } [], ⟨96, 0, 1, 0⟩, by decide +kernel, by decide +kernel⟩,
    ⟨{ netd .credit 0 0 Slice.new [] with replays := [⟨1, 5, 0x100, 0, [], [], 0⟩] }, _, rfl, by decide +kernel⟩,
    by decide +kernel, by decide +kernel, by decide +kernel⟩

/-- The bank's entry of line 96, with a transaction of a request and what it waits for. -/
def ent (st : DirState) (x : Option (ReqOp × List Snooped)) : DirEntry :=
  ⟨96, st, 2, 0, x.map fun y => Txn.mk (some (Req.mk req1 96 y.1)) y.2 0 false false, []⟩

/-- A message from slice 1 is at the bank, which has an entry of line 96 that satisfies a condition. -/
def banks (k : MKind) (e : Option DirEntry) (p : State → DirEntry → Bool) : Bool :=
  match (netd k 1 (bankAgent q0) Slice.new e.toList).recv k (some 1) none 96 with
  | some (_, t) => match findDir (t.bank q0) 96 with
    | some x => p t x
    | none => e.isNone
  | none => false

theorem witness_DirectoryAnswers :
    q0 = up.homeOf 96 ∧
    (banks .invAck none (fun _ _ => false) = true ∧
      banks .invAck (some (ent .ds (some (.rdOnce, [⟨1, .snpInv, false, false⟩])))) (fun _ e => match e.busy with
        | some x => !(needsData e x) && !(x.waits.any fun w => decide (w.slice = 1) && decide (w.kind = .snpShr))
        | none => false) = true ∧
      banks .invAck (some (ent .dx (some (.rdOwn false, [⟨1, .snpInv, false, false⟩])))) (fun _ e => match e.busy with
        | some x => needsData e x && x.waits.all fun w => decide (w.kind ≠ .snpFetch)
        | none => false) = true) ∧
    ([true, false].all fun b => banks .wbInFlight (some (ent .dx (some (.rdOnce, [⟨1, .snpInv, false, b⟩])))) fun _ e =>
      match snooped e 1 with
      | some w => decide (w.wbData = b)
      | none => false) = true ∧
    (banks .wbData none (fun _ _ => false) = true ∧ banks .wbData (some (ent .ds none)) (fun _ e => (snooped e 1).isNone) = true ∧
      banks .wbData (some (ent .dx (some (.rdOnce, [⟨1, .snpInv, false, false⟩])))) (fun _ e => match snooped e 1 with
        | some w => !w.wbFlight
        | none => false) = true) ∧
    banks .evictClean (some (ent .ds none)) (fun _ _ => true) = true ∧
    ([(0x11, none), (1, some LState.e), (2, some .m), (0x40, none)].all fun x =>
      let s := netd .data (bankAgent q0) x.1 Slice.new [ent .ds none]
      match ({ s with net := s.net.map fun m : Msg => { m with grant := x.2 } }).recv .data none (some x.1) 96 with
      | some (m, t) => decide (m.grant = x.2) && (decide (4 ≤ x.1) ||
          (t.fill x.1 (t.newLine m.hdr 96 (m.grant.getD .s) (if m.grant = some LState.m then m.dirty else 0))).isSome) &&
          t.tracker.any fun y => decide (y.tag = m.tag)
      | none => false) = true := by
  decide +kernel

/-- An armed marker of context 1, slot 5. -/
def mark : Marker := ⟨true, 1, 5, false, false, 0, 0, 1, 0, 0x3000, 0x4000, 64, 0, 0, 0, []⟩

theorem tget_const {α : Type} (x : α) (n : Nat) : ∀ l : List Nat, n ∈ l → tget (l.map fun i => (i, x)) n = some x
  | a :: l, h => by
    by_cases e : n = a
    · simp [tget, e]
    · simp only [List.mem_cons, e, false_or] at h
      simp [tget, e, tget_const x n l h]

/-- 1,024 armed markers. -/
def fullMarks : Tab Marker := (List.range 1024).map fun i => (i, mark)

theorem tget_fullMarks {i : Nat} (h : i < 1024) : tget fullMarks i = some mark := tget_const mark i _ (List.mem_range.2 h)

theorem witness_MarkerRules :
    Runs (put 0x0904 [(16, 1, 1), (32, 8, 0x3000), (40, 8, 0x4000), (48, 4, 64)]) 0x0904 (fun s0 c =>
      decide (checkStatus (stitchSetChecks s0 c.raw) = 0) && decide (leAt c.raw 16 1 % 4 = 1) &&
        (match (s0.heldPages (hCtx c.raw) (leAt c.raw 40 8) (max 1 (leAt c.raw 18 1) * (64 + ceilDiv (leAt c.raw 48 4) 64 * 64))).2 with
          | .ok _ => true
          | _ => false) && (s0.markNumber (hCtx c.raw) (leAt c.raw 17 1)).isSome) ∧
    Runs { put 0x0904 [(16, 1, 2)] with marks := [(3, { mark with slot := 0 })] } 0x0904 (fun s0 c =>
      decide (checkStatus (stitchSetChecks s0 c.raw) = 0) && decide (leAt c.raw 16 1 % 4 = 2) &&
        decide (s0.slotMark (hCtx c.raw) (leAt c.raw 17 1) = some 3)) ∧
    Runs (put 0x0905 [(16, 8, 0x3000), (24, 8, 0x4000), (32, 4, 64)]) 0x0905 (fun s0 c =>
      decide (checkStatus (dumpChecks s0 c.raw) = 0) &&
        (match (s0.heldPages (hCtx c.raw) (leAt c.raw 24 8) (64 + ceilDiv (leAt c.raw 32 4) 64 * 64)).2 with
          | .ok _ => true
          | _ => false)) :=
  ⟨runs (by decide +kernel), runs (by decide +kernel),
    runs (by decide +kernel)⟩

theorem witness_MarkerRules_full :
    (∀ i, i < 1024 → ∃ m, tget fullMarks i = some m ∧ m.armed = true) ∧
    Runs { put 0x0904 [(16, 1, 1), (40, 8, 0x4000), (48, 4, 64)] with marks := fullMarks } 0x0904 (fun s0 c =>
      decide (checkStatus ((stitchSetChecks s0 c.raw).take 3) = 0) && decide (leAt c.raw 16 1 % 4 = 1) &&
        (s0.slotMark (hCtx c.raw) (leAt c.raw 17 1)).isNone && decide (s0.marks.length = 1024)) :=
  ⟨fun _ h => ⟨mark, tget_fullMarks h, rfl⟩, runs (by decide +kernel)⟩

theorem cellGet_cells (l : List Byte) : ∀ a j i, i < l.length →
    cellGet ((l.zipIdx j).map fun e => (a + e.2, e.1)) (a + j + i) = l[i]? := by
  induction l with
  | nil => intro a j i h; simp at h
  | cons x t ih =>
    intro a j i h
    cases i with
    | zero => simp [cellGet]
    | succ i =>
      have e : a + j + (i + 1) = a + (j + 1) + i := by omega
      have n : ¬ (a + (j + 1) + i = a + j) := by omega
      simp only [List.zipIdx_cons, List.map_cons, cellGet, e, n, if_false]
      rw [ih a (j + 1) i (by simpa using h)]
      simp

theorem tget_shift {α : Type} (x : α) (c n : Nat) : ∀ l : List Nat, n ∈ l → tget (l.map fun i => (c + i, x)) (c + n) = some x
  | a :: l, h => by
    by_cases e : n = a
    · simp [tget, e]
    · simp only [List.mem_cons, e, false_or] at h
      simp [tget, e, tget_shift x c n l h]

/-- What `hbm` lists reads back. -/
theorem readHbm_hbm (k a : Nat) (b : List Byte) (ha : a % 32 = 0) (hb : b.length % 32 = 0) (n : Nat) (hn : n ≤ b.length) :
    (hbm k a b).readHbm k a n = b.take n := by
  apply List.ext_getElem
  · simp [Memory.readHbm, hn]
  · intro i h1 h2
    have hi : i < b.length := by simp [Memory.readHbm] at h1; omega
    have h := tget_shift (⟨k, false⟩ : Sector) (a / 32) (i / 32) (List.range (b.length / 32)) (List.mem_range.2 (by omega))
    have e : (a + i) / 32 = a / 32 + i / 32 := by omega
    have g := cellGet_cells b a 0 i hi
    rw [Nat.add_zero] at g
    simp only [Memory.readHbm, List.getElem_map, List.getElem_range, Memory.byte, hbm, e, h, if_true, Memory.own, g,
      List.getElem?_eq_getElem hi, List.getElem_take]

theorem poisoned_hbm (k a c : Nat) (b : List Byte) : (hbm k a b).poisoned c = false := by
  have : ∀ l : List Nat, (match tget (l.map fun i => (a / 32 + i, (⟨k, false⟩ : Sector))) (c / 32) with
      | none => false
      | some s => s.poison) = false := by
    intro l
    induction l with
    | nil => rfl
    | cons x l ih =>
      simp only [List.map_cons, tget]
      by_cases h : c / 32 = a / 32 + x
      · simp [h]
      · simpa [h] using ih
  exact this _


/-- Function 1 in a state, and context 1 and the queues its own. -/
def fn1 (n op : Nat) (l : List (Nat × Nat × Nat)) : State :=
  { put op l with
    funcs := [(1, { Func.new with state := n, panels := 1 })]
    ctxs := [(1, ⟨0, 1, some 0x100000, 0, 3, 64, [], 0⟩)] }

/-- An image of function 2, which has no panel and nothing else. -/
def image2 : MigImage := ⟨0, 0, 2, { Func.new with state := 3 }, [], [], [], [], [], [], [], [], [], [], [], [], []⟩
def saved2 : SavedMig := ⟨5, [], image2⟩

theorem leBytes_length : ∀ k n, (leBytes k n).length = k
  | 0, _ => rfl
  | k + 1, n => by simp [leBytes, leBytes_length k]

theorem leNat_leBytes : ∀ k n, n < 256 ^ k → leNat (leBytes k n) = n
  | 0, n, h => by simp at h; simp [leBytes, leNat, h]
  | k + 1, n, h => by
    simp only [leBytes, leNat, leNat_leBytes k (n / 256) (by rw [Nat.pow_succ] at h; omega), BitVec.toNat_ofNat]
    omega

theorem migHeader_length (n : Nat) : (migHeader n).length = 256 := by
  simp only [migHeader, List.length_append, List.length_map, List.length_range, leBytes_length]

theorem saved2_length : saved2.bytes.length = 1024 := by
  simp only [SavedMig.bytes, List.length_append, List.length_map, List.length_range, migHeader_length]
  rfl

/-- MIG_RESTORE, running, of the image of function 2 at 0x10000. -/
def restore2 : State :=
  { put 0x0F03 [] with
    cmds := [(1, { com 0x0F03 [(24, 8, 0x10000)] with phase := .running })]
    mem := hbm 2 0x10000 saved2.bytes, saved := [saved2] }

/-- Bytes that `hbm` lists for the manager's key read back in a state that nothing hides them from. -/
theorem read_hbm (s : State) (a n : Nat) (b : List Byte) (hm : s.mem = hbm 2 a b) (hs : s.skein = []) (hk : s.keyOf 63 = some 2)
    (ha : a % 32 = 0) (hb : b.length % 32 = 0) (hn : n ≤ b.length)
    (h : (chunks a n).all (fun c => decide (region c.1 = .hbm) && s.paOk s.hubWho c.1 && s.domainOn (76 + (s.hbmLoc c.1).1) &&
      !(s.hbmOos c.1)) = true) : s.readPhys s.hubWho 63 a n = (s, some (b.take n)) := by
  rw [State.readPhys_hbm _ _ _ _ _ 2 hk]
  · rw [hm, readHbm_hbm _ _ _ ha hb _ hn]
  · intro c hc
    have := List.all_eq_true.1 h c hc
    simp only [Bool.and_eq_true, decide_eq_true_eq, Bool.not_eq_true'] at this
    exact ⟨this.1.1.1, this.1.1.2, this.1.2, this.2, by rw [hs]; rfl, by rw [hm]; exact poisoned_hbm _ _ _ _⟩

theorem restore2_read (n : Nat) (hn : n ≤ 1024) (h : (chunks 0x10000 n).all (fun c => decide (region c.1 = .hbm) && restore2.paOk restore2.hubWho c.1 &&
      restore2.domainOn (76 + (restore2.hbmLoc c.1).1) && !(restore2.hbmOos c.1)) = true) :
    restore2.readPhys restore2.hubWho 63 0x10000 n = (restore2, some (saved2.bytes.take n)) :=
  read_hbm restore2 0x10000 n saved2.bytes rfl rfl (by decide +kernel) rfl (by rw [saved2_length]) (by rw [saved2_length]; exact hn) h

theorem crc32cBit_lt : ∀ k c, c < 2 ^ 32 → crc32cBit k c < 2 ^ 32
  | 0, _, h => h
  | k + 1, c, h => by
    unfold crc32cBit
    apply crc32cBit_lt k
    split
    · exact Nat.xor_lt_two_pow (by rw [Nat.shiftRight_eq_div_pow]; omega) (by decide)
    · rw [Nat.shiftRight_eq_div_pow]; omega

theorem crc32c_lt (l : List Byte) : crc32c l < 2 ^ 32 := by
  have : ∀ (l : List Byte) c, c < 2 ^ 32 → l.foldl (fun c b => crc32cBit 8 (c ^^^ b.toNat)) c < 2 ^ 32 := by
    intro l
    induction l with
    | nil => intro c h; exact h
    | cons b l ih =>
      intro c h
      exact ih _ (crc32cBit_lt 8 _ (Nat.xor_lt_two_pow h (by have := b.isLt; omega)))
  exact Nat.xor_lt_two_pow (this l _ (by decide)) (by decide)

theorem saved2_sum : crc32c ((saved2.bytes.take 256).take 252) = leAt (saved2.bytes.take 256) 252 4 := by
  have e : saved2.bytes.take 256 = migHeader 5 := by
    simp only [SavedMig.bytes, List.append_assoc]
    rw [List.take_append_of_le_length (by rw [migHeader_length])]
    exact List.take_of_length_le (by rw [migHeader_length])
  have l : ((List.range 252).map fun i => Config.undefByte 5 i).length = 252 := by simp only [List.length_map, List.length_range]
  rw [e, migHeader, List.take_left' l, leAt, List.drop_left' l, List.take_of_length_le (by rw [leBytes_length]),
    leNat_leBytes _ _ (crc32c_lt _)]

theorem restore2_image : restore2.readImage 0x10000 = (restore2, .ok image2) := by
  have h1 := restore2_read 256 (by decide) (by decide +kernel)
  have h2 := restore2_read 1024 (by decide) (by decide +kernel)
  have h3 : restore2.holdsImage 0x10000 saved2 = true := by
    have n : saved2.image.length = 1024 := rfl
    rw [State.holdsImage, n, h2, List.take_of_length_le (by rw [saved2_length])]
    exact decide_eq_true rfl
  have h4 : restore2.saved = [saved2] := rfl
  simp only [State.readImage, h1, saved2_sum, h4, List.find?, h3, ne_eq, not_true_eq_false, if_false]
  rfl

theorem witness_MigrationComplete :
    Runs (fn1 4 0x0F01 [(16, 1, 1), (17, 1, 2)]) 0x0F01 (fun s0 c =>
      decide (c.step = 0) && decide (checkStatus (migFreezeChecks s0 c.raw) = 0) && decide (bits (leAt c.raw 17 1) 1 0 = 2)) ∧
    ([true, false].all fun q => runsB { fn1 1 0x0F01 [(16, 1, 1), (17, 1, 1)] with
        rsqs := [(0, seqr [(7, seq)] (some (row 0 false)))], regs := if q then tput up.regs (regKey .RSQ_STATUS 0) (w64 (2 * 2 ^ Fld.RSQ_STATUS_STATE.lo)) else up.regs }
      0x0F01 (fun s0 c => decide (c.step = 0) && decide (checkStatus (migFreezeChecks s0 c.raw) = 0) &&
        decide (bits (leAt c.raw 17 1) 1 0 = 1) &&
        let u := (s0.modCmd c.id fun c => { c with step := 1 }).beginFreeze (vfOf c.raw)
        decide (q = u.rsqs.any fun e => decide (u.ctxFunc e.2.ctx = vfOf c.raw) && u.rsqStarted e.1))) = true ∧
    Runs { put 0x0F02 [(16, 1, 1), (24, 8, 0x10000), (32, 8, 0x1000)] with funcs := [(1, { Func.new with state := 3 })] } 0x0F02 (fun s0 c =>
      decide (checkStatus (migSaveChecks s0 c.raw) = 0) && match tget s0.funcs (vfOf c.raw) with
      | some g => match s0.fresh with
        | (n, u) => decide ((u.migImage (vfOf c.raw) g).length ≤ leAt c.raw 32 8) &&
          (u.writePhys u.hubWho 63 (leAt c.raw 24 8) (SavedMig.bytes ⟨n, u.migKeys n (u.migImage (vfOf c.raw) g), u.migImage (vfOf c.raw) g⟩)).2
      | none => false) ∧
    (∃ s0 c u m, State.mayRun restore2 1 0x0F03 s0 c ∧ checkStatus (migRestoreChecks s0 c.raw) = 0 ∧
      s0.readImage (leAt c.raw 24 8) = (u, .ok m)) :=
  ⟨runs (by decide +kernel), by decide +kernel, runs (by decide +kernel),
    ⟨restore2, _, restore2, image2, ⟨_, rfl, rfl, by decide +kernel, rfl, rfl⟩, by decide +kernel, restore2_image⟩⟩

/-- A configuration image that is accepted, and FW_STAGE of it, running, at one of its two events. -/
def img0 : List Byte := bytes 1020 [(0, 4, 0x4E434647), (4, 2, 1)]
def img1 : List Byte := img0 ++ leBytes 4 (crc32c img0)

theorem img1_ok : imgOk img1 = true := by
  have l : img0.length = 1020 := by decide +kernel
  have h1 : (decide (img1.length = 1024) && decide (leAt img1 0 4 = 0x4E434647) && decide (leAt img1 4 2 = 1) && !(imgReservedBad img1)) = true := by
    decide +kernel
  have h2 : leAt img1 1020 4 = crc32c (img1.take 1020) := by
    rw [img1, List.take_left' l, leAt, List.drop_left' l, List.take_of_length_le (by rw [leBytes_length]), leNat_leBytes _ _ (crc32c_lt _)]
  rw [imgOk, h1, decide_eq_true h2]
  rfl

def stageCmd : Cmd := com 0x0F05 [(16, 8, 0x10000), (24, 4, 1024), (28, 1, 1)]

def stage (n : Nat) : State :=
  { put 0x0F05 [] with
    cmds := [(1, { stageCmd with phase := .running, step := n })]
    mem := hbm 2 0x10000 img1 }

theorem stage_bytes (n : Nat) : (stage n).stageBytes stageCmd.raw = (stage n, .ok img1) := by
  have l : img1.length = 1024 := by decide +kernel
  have k : (stage n).keyOf 63 = some 2 := (by decide +kernel : (stage 0).keyOf 63 = some 2)
  have w : (chunks 0x10000 1024).all (fun c => decide (region c.1 = .hbm) && (stage n).paOk (stage n).hubWho c.1 &&
      (stage n).domainOn (76 + ((stage n).hbmLoc c.1).1) && !((stage n).hbmOos c.1)) = true :=
    (by decide +kernel : (chunks 0x10000 1024).all (fun c => decide (region c.1 = .hbm) && (stage 0).paOk (stage 0).hubWho c.1 &&
      (stage 0).domainOn (76 + ((stage 0).hbmLoc c.1).1) && !((stage 0).hbmOos c.1)) = true)
  have r := read_hbm (stage n) 0x10000 1024 img1 rfl rfl k rfl (by rw [l]) (by rw [l]) w
  have e1 : leAt stageCmd.raw 16 8 = 0x10000 := by decide +kernel
  have e2 : leAt stageCmd.raw 24 4 = 1024 := by decide +kernel
  have e3 : bit (leAt stageCmd.raw 28 1) 0 = true := by decide +kernel
  have e4 : imgOk img1 = true := img1_ok
  rw [List.take_of_length_le (by rw [l])] at r
  simp only [State.stageBytes, e1, e2, r, e3, e4, if_true]

theorem stage_checks : checkStatus (fwStageChecks (stage 0) stageCmd.raw) = 0 := by decide +kernel

theorem stage_bit : bit (leAt stageCmd.raw 28 1) 0 = true := by decide +kernel

/-- The clauses about FW_STAGE of an image. What a bundle's verification answers is free, so that no state shows it. -/
theorem witness_FirmwareAndSideband_stage (n : Nat) :
    ∃ s0 c u b, State.mayRun (stage n) 1 0x0F05 s0 c ∧ s0.stageBytes c.raw = (u, .ok b) ∧ c.step = n ∧
      (n = 0 → checkStatus (fwStageChecks s0 c.raw) = 0) ∧ bit (leAt c.raw 28 1) 0 = true :=
  ⟨stage n, _, stage n, img1, ⟨_, rfl, rfl, (by decide +kernel : (stage 0).startable stageCmd = true),
    rfl, rfl⟩, stage_bytes n, rfl, fun e => by subst e; exact stage_checks, stage_bit⟩

/-! ## Well-formed commands: each check refuses a command whose one operand is out of range -/

theorem test_wf_refuses_0 : ([
  .doorbellTail 253 0 .full 0, .doorbellTail 0 262144 .full 0, .doorbellHead 253 0 .full 0, .doorbellHead 0 262144 .full 0,
  .doorbellArm 253 0 0, .doorbellArm 0 262144 0, .interruptCoalTimeout 262144, .commandFetch 262144, .seqEntryFetch 262144 0,
  .seqEntryFetch 0 4096, .rowStageIssue 48, .rowBoundary 48, .rowCommandFault 48 0, .domainSwitchDone 103,
  .stagedRegisterWrite 67108864 .full 0, .aluOp ⟨12, 0, 0, 0⟩ .iadd 0 (.imm 0) (.imm 0) (.imm 0),
  .aluOp ⟨0, 32, 0, 0⟩ .iadd 0 (.imm 0) (.imm 0) (.imm 0), .aluOp ⟨0, 0, 0, 0⟩ .iadd 256 (.imm 0) (.imm 0) (.imm 0),
  .convert ⟨12, 0, 0, 0⟩ 0 0 false false 0 (.imm 0) (.imm 0) (.imm 0),
  .convert ⟨0, 0, 0, 0⟩ 0 0 false false 256 (.imm 0) (.imm 0) (.imm 0), .branch ⟨12, 0, 0, 0⟩ 0 0 0, .xchPick ⟨12, 0, 0, 0⟩ 4 0 0 0,
  .xchPick ⟨0, 0, 0, 0⟩ 0 0 0 0, .xchPick ⟨0, 0, 0, 0⟩ 4 256 0 0, .xchRot ⟨12, 0, 0, 0⟩ 4 0 0 0, .xchRot ⟨0, 0, 0, 0⟩ 0 0 0 0,
  .xchRot ⟨0, 0, 0, 0⟩ 4 256 0 0, .xchSwap ⟨12, 0, 0, 0⟩ 4 0 0 0, .xchSwap ⟨0, 0, 0, 0⟩ 0 0 0 0, .xchSwap ⟨0, 0, 0, 0⟩ 4 256 0 0,
  .xchSwap ⟨0, 0, 0, 0⟩ 4 0 0 4, .xchRev ⟨12, 0, 0, 0⟩ 4 0 0, .xchRev ⟨0, 0, 0, 0⟩ 0 0 0, .xchRev ⟨0, 0, 0, 0⟩ 4 256 0,
  .tallyAny ⟨12, 0, 0, 0⟩ 4 0 0, .tallyAny ⟨0, 0, 0, 0⟩ 0 0 0, .tallyAny ⟨0, 0, 0, 0⟩ 4 256 0, .tallyAny ⟨0, 0, 0, 0⟩ 4 0 256,
  .tallyAll ⟨12, 0, 0, 0⟩ 4 0 0, .tallyAll ⟨0, 0, 0, 0⟩ 0 0 0, .tallyAll ⟨0, 0, 0, 0⟩ 4 256 0, .tallyAll ⟨0, 0, 0, 0⟩ 4 0 256,
  .tallyMask ⟨12, 0, 0, 0⟩ 4 0 0, .tallyMask ⟨0, 0, 0, 0⟩ 0 0 0, .tallyMask ⟨0, 0, 0, 0⟩ 4 256 0, .tallyMask ⟨0, 0, 0, 0⟩ 4 0 256,
  .tallyCount ⟨12, 0, 0, 0⟩ 4 0 0, .tallyCount ⟨0, 0, 0, 0⟩ 0 0 0, .tallyCount ⟨0, 0, 0, 0⟩ 4 256 0, .tallyCount ⟨0, 0, 0, 0⟩ 4 0 256,
  .tallyBelow ⟨12, 0, 0, 0⟩ 4 0 0, .tallyBelow ⟨0, 0, 0, 0⟩ 0 0 0, .tallyBelow ⟨0, 0, 0, 0⟩ 4 256 0, .tallyBelow ⟨0, 0, 0, 0⟩ 4 0 256,
  .tallyLead ⟨12, 0, 0, 0⟩ 4 0 0, .tallyLead ⟨0, 0, 0, 0⟩ 0 0 0, .tallyLead ⟨0, 0, 0, 0⟩ 4 256 0, .tallyLead ⟨0, 0, 0, 0⟩ 4 0 256,
  .meet ⟨12, 0, 0, 0⟩ 4, .meet ⟨0, 32, 0, 0⟩ 4] : List Instr).all (fun i => !i.wf) = true := by decide +kernel

theorem test_wf_refuses_1 : ([
  .meet ⟨0, 0, 0, 0⟩ 0, .meet ⟨0, 0, 0, 0⟩ 3, .rdvWait ⟨12, 0, 0, 0⟩ 0, .rdvWait ⟨0, 0, 0, 0⟩ 8, .rdvSignal ⟨12, 0, 0, 0⟩ 0,
  .rdvSignal ⟨0, 0, 0, 0⟩ 8, .threadExit ⟨12, 0, 0, 0⟩, .load ⟨12, 0, 0, 0⟩ .cached 4 0 0 0, .load ⟨0, 0, 0, 0⟩ .cached 0 0 0 0,
  .load ⟨0, 0, 0, 0⟩ .cached 3 0 0 0, .load ⟨0, 0, 0, 0⟩ .cached 4 256 0 0, .store ⟨12, 0, 0, 0⟩ .cached 4 0 0 0 0,
  .store ⟨0, 0, 0, 0⟩ .cached 0 0 0 0 0, .atomicInstr ⟨12, 0, 0, 0⟩ .add 4 0 0 0 0, .atomicInstr ⟨0, 0, 0, 0⟩ .add 0 0 0 0 0,
  .atomicInstr ⟨0, 0, 0, 0⟩ .add 4 256 0 0 0, .ll ⟨12, 0, 0, 0⟩ 4 0 0, .ll ⟨0, 0, 0, 0⟩ 0 0 0, .ll ⟨0, 0, 0, 0⟩ 3 0 0,
  .ll ⟨0, 0, 0, 0⟩ 4 256 0, .sc ⟨12, 0, 0, 0⟩ 4 0 0 0, .sc ⟨0, 0, 0, 0⟩ 0 0 0 0, .sc ⟨0, 0, 0, 0⟩ 4 256 0 0,
  .addToLine ⟨12, 0, 0, 0⟩ 0 0 0 0 false 0, .fenceT ⟨12, 0, 0, 0⟩, .fenceP ⟨12, 0, 0, 0⟩, .fenceG ⟨12, 0, 0, 0⟩,
  .l1wb ⟨12, 0, 0, 0⟩ 0 0, .l1inv ⟨12, 0, 0, 0⟩ 0 0, .l1wbAll ⟨12, 0, 0, 0⟩, .l1invAll ⟨12, 0, 0, 0⟩, .l1lock ⟨12, 0, 0, 0⟩ 1,
  .l1lock ⟨0, 0, 0, 0⟩ 0, .l1lock ⟨0, 0, 0, 0⟩ 7, .l1pre ⟨12, 0, 0, 0⟩ 0 0 0, .l1pre ⟨0, 0, 0, 0⟩ 256 0 0, .l1unlock ⟨12, 0, 0, 0⟩,
  .l1FillReturn 12 0 0, .l1FillReturn 0 32 0, .evictionDrain 12 0, .evictionDrain 0 32, .blockStart 0 12 0, .blockStart 0 0 32,
  .kernelEnd 0 12 0, .kernelEnd 0 0 32, .launchOverrun 0 12 0, .launchOverrun 0 0 32, .haltDeferTimeout 12 0 0,
  .haltDeferTimeout 0 32 0, .preemptStopDone 48, .stashDone 48 false, .preemptAbandon 48, .beUnitStart 48 0, .quantumEnd 48,
  .unitResume 48 0 false, .compaction 48, .respread 48, .rdShr ⟨0, 0, 0, 0, 0, 0⟩ 4 0, .rdOwn ⟨0, 0, 0, 0, 0, 0⟩ 4 0 false,
  .upgrade ⟨0, 0, 0, 0, 0, 0⟩ 4 0] : List Instr).all (fun i => !i.wf) = true := by decide +kernel

theorem test_wf_refuses_2 : ([
  .snpShr 4 0, .snpInv 4 0, .snpFetch 4 0 .clean, .invAck 4 0, .wbInFlight 4 0, .wbAck 4 0, .evictClean 4 0, .dirFree 4 0, .credit 4 0,
  .credit 0 4, .wbData 4 0, .holdExpire 4 0, .replayWindowExpire 4 0 0, .hbmRefresh 16 0 false false, .hbmRefresh 0 64 false false,
  .hbmRecentre 16 0, .hbmRecentre 0 64, .hbmTempRead 16 0, .patrolScrub 16 0 0 0 0 .clean, .patrolScrub 0 0 64 0 0 .clean,
  .patrolScrub 0 0 0 16 0 .clean, .patrolScrub 0 0 0 0 65536 .clean, .stackOutOfService 16, .keyGenerate 48, .keyErase 48,
  .keyImport 48, .keyExport 48, .softPpr 16 0 0 0, .softPpr 0 64 0 0, .softPpr 0 0 16 0, .softPpr 0 0 0 65536, .hardPprAdd 16 0 0 0,
  .hardPprAdd 0 64 0 0, .hardPprAdd 0 0 16 0, .hardPprAdd 0 0 0 65536, .hardPprRemove 16 0 0 0, .hardPprRemove 0 64 0 0,
  .hardPprRemove 0 0 16 0, .hardPprRemove 0 0 0 65536, .swatchStart 16, .swatchStop 16, .swatchDone 16, .hbmEccCountRead 16 .full,
  .hbmEccLogRead 16 .full, .hbmRepairLogRead 16 .full, .hbmRepairLogWrite 16, .uccSliceErrRead 4 .full, .uccDirStatusRead 4 .full,
  .uccSkeinStatusRead 4 .full, .xltCountsRead 13 .full, .queFnStatusRead (.vf 0) .full, .rsqCountsRead (.vf 0) 0 .full,
  .rsqCountsRead .pf0 48 .full, .pnlCountsRead (.vf 0) 0 .full, .pnlCountsRead .pf0 48 .full, .pnlDispatchRead (.vf 0) 0 .full,
  .pnlDispatchRead .pf0 48 .full, .lnkErrRead 32 .full, .lnkFecRead 32 .full, .gstErrRead 2 .full] : List Instr).all (fun i => !i.wf) = true := by decide +kernel

theorem test_wf_refuses_3 : ([
  .registerWrite (.vf 0) 0 .full 0, .registerWrite (.vf 253) 0 .full 0, .registerWrite .pf0 67108864 .full 0, .mbxM2tTail 253 0,
  .mbxM2tHead 253 0, .mbxT2mTail 253 0, .mbxT2mHead 253 0, .hostApertureAccess 253 0 (.read 1), .guestRequest 2 (.rdOnce 0 32),
  .flrVf 253, .flitReceive 32 flit0, .nakResend 32, .replayTimeout 32, .linkRecovery 32 false, .linkRecoveryFail 32,
  .linkTrain 32 (.ok 0), .linkRetrain 32, .laserInputLoss 8 0 0, .laserInputLoss 0 4 0, .ctlTrain 32 0 0 0 0 0,
  .ctlTime 32 0 0 0 0 0 0, .timeExchange 32, .ctlColl 4096 0 0 0 0 0, .ctlMgmt 32 [], .ctlCap 2 [], .finalTimeout 0 4096 0,
  .guestRetrain 2 (.ok 0), .guestCapTimeout 2, .guestIsolate 2 false, .guestPowerExceeded 2 0 0, .droopResponse 12 0, .pllLockLoss 16,
  .bindOff (.vf 0) 0, .coreSample 12 0 0 0 false, .coreSample 0 32 0 0 false, .dbgHaltGroup 12 0 0, .dbgHaltGroup 0 32 0,
  .dbgHaltCore 12 0, .dbgHaltCore 0 32, .dbgResumeGroup 12 0 0, .dbgResumeGroup 0 32 0, .dbgResumeCore 12 0, .dbgResumeCore 0 32,
  .dbgStepGroup 12 0 0, .dbgStepGroup 0 32 0, .dbgStepGo 48, .droopRecovery 12, .perstNDeassert 2, .atsInvalidation 253 0 0,
  .controllerFault 27] : List Instr).all (fun i => !i.wf) = true := by decide +kernel

theorem test_wf_takes : ([.doorbellTail 252 262143 .full 0, .seqEntryFetch 262143 4095, .xchSwap at0 32 255 0 31, .l1lock at0 6,
  .patrolScrub 15 0 63 15 65535 .clean, .registerWrite (.vf 252) 67108863 .full 0, .data 0x40 96, .flitReceive 31 flit0] : List Instr).all Instr.wf = true := by
  decide +kernel

/-! ## The rules of the whole block -/

theorem witness_ProtocolFrame : (∃ t, protocolRow (.rdOnce req1 96) = true ∧ exec (.rdOnce req1 96) up = .next t) ∧
    (∃ t, answerRow (.snpInv 0 96) = true ∧ exec (.snpInv 0 96) up = .next t) := ⟨⟨_, rfl, rfl⟩, ⟨_, rfl, rfl⟩⟩

theorem witness_QuietFrame :
    (∃ t, quietRow .bwWindow = true ∧ exec .bwWindow up = .next t) ∧
    (∃ t, readRow (.lnkErrRead 1 .full) = true ∧ exec (.lnkErrRead 1 .full) up = .next t) ∧
    (∃ t, exec (.mbxT2mHead 0 0) up = .next t ∧ 1 ≠ 0) ∧
    (∃ t, exec (.dbgHaltCore 0 0) (kern (grp [path])) = .next t) ∧ (∃ t, exec (.tapBypass 5) up = .next t) :=
  ⟨⟨_, rfl, rfl⟩, ⟨_, rfl, rfl⟩, ⟨_, rfl, by decide⟩, ⟨_, rfl⟩, ⟨_, rfl⟩⟩

theorem witness_CoreRegisterFrame :
    ∃ src dst t x u, regRow (.branch at0 15 0x1000 0x2000) = some (at0, src, dst) ∧ State.mayIssue (kern (grp [path])) at0 src dst t x ∧
      at0.die < 12 ∧ at0.core < 32 ∧ exec (.branch at0 15 0x1000 0x2000) (kern (grp [path])) = .next u := by
  have h : issuesB (kern (grp [path])) at0 [15] [] (fun _ _ => true) = true := by decide +kernel
  unfold issuesB at h
  split at h
  · cases h
  · rename_i x hx
    simp only [Bool.and_eq_true, Bool.not_eq_true'] at h
    obtain ⟨⟨h1, h2⟩, h3⟩ := h
    split at h3
    · rename_i t y hy
      exact ⟨[15], [], t, x, _, rfl, ⟨hx, h1, h2, y, hy⟩, by decide, by decide, rfl⟩
    · cases h3

theorem witness_StoresFrame :
    (State.takesReq up req1 96 ∧ (zeros 128).length = 128 ∧ up.bank (up.homeOf 96) = [] ∧ up.stalled (up.homeOf 96) = [] ∧ up.mem.wf = true ∧
      ∀ i, i < 4 → up.hbmOos (128 * localLine 96 + 32 * i) = false) ∧
    (0x800200000008 % 8 = 0 ∧ region (0x800200000008 % 2 ^ 48) = .dscr 0 8 ∧ (∀ e ∈ up.skein, e.line ≠ 0x800200000008 % 2 ^ 48 / 128) ∧
      up.mem.wf = true) :=
  ⟨⟨witness_CoherenceRequests.1, by decide +kernel, by decide +kernel, by decide +kernel, by decide +kernel, by decide +kernel⟩,
    by decide, by decide, by decide +kernel, by decide +kernel⟩

theorem witness_StepRunsCommand :
    (∃ s c rest, State.pending s = c :: rest) ∧ (∃ s, State.pending s = []) ∧ decodeTableWord 16 0 = none :=
  ⟨⟨{ up with pending := [.bwWindow] }, _, _, rfl⟩, ⟨up, rfl⟩, rfl⟩

theorem witness_StepKeepsMemory : ∃ s t, (State.mem s).wf = true ∧ step s = .next t :=
  ⟨{ putMem 0x0605 [] [(0, 8, 5)] with pending := [.commandComplete 1] }, _, by decide +kernel, rfl⟩

/-! ## The spec's worked examples, and single steps -/

/-- 04.3, the worked example: where pa 0x23_4567_8ABC lies, interleaved and quadrant-local. -/
theorem test_hbm_map : hbmMap false 0x2345678ABC = (11, 0x234567ABC) ∧ hbmMap true 0x2345678ABC = (1, 0x2D159EABC) := by decide +kernel

/-- 02.2, the worked example: a block with group maxima 24, 1.5, 0 and 6 in DS4 and in MXFP4. -/
def ds4Block : List Nat :=
  (List.range 32).map fun i => if i = 0 then 0x41C00000 else if i = 8 then 0x3FC00000 else if i = 24 then 0x40C00000 else 0

theorem test_ds4_block : (match toBlock 11 false (List.replicate 32 none) (fun _ => 0) ds4Block with
    | (codes, entry, note) => decide (entry = 0x437E) && decide (codes.getD 0 0 = 7) && decide (codes.getD 8 0 = 5) &&
      decide (codes.getD 24 0 = 7) && !note) = true := by decide +kernel

theorem test_mxfp4_block : (match toBlock 9 false (List.replicate 32 none) (fun _ => 0) ds4Block with
    | (codes, entry, _) => decide (entry = 129) && decide (codes.getD 8 0 = 1)) = true := by decide +kernel

/-- 02.4, the worked example: an inexact accumulation, and the same product with its sign changed. -/
theorem test_window_inexact : ([true, false].all fun n =>
    let o := accumulate 9 .exact [⟨.fin false 1 0, 10, false, 0⟩, ⟨.fin n 3 (-1), -60, false, 0⟩] [⟨.fin false 1 0, 0, false, 0⟩, ⟨.fin false 3 0, -10, false, 0⟩]
    decide (o.v = 0x44800000) && o.inexact) = true := by decide +kernel

/-- R61: FP32 449 and 465 in E4M3. -/
theorem test_e4m3_overflow : toPlain 3 true none 0x43E08000 = (0x7E, false) ∧ toPlain 3 true none 0x43E88000 = (0x7E, true) ∧
    toPlain 3 false none 0x43E88000 = (0x7F, true) := by decide +kernel

/-- 06.3 (R178, R179), the worked example: four contributions in exact mode, in two orders, and three with non-exact adds. -/
theorem test_skein_exact : ([[0x3F800000, 0x30800000, 0xBF800000, 0x2A400000], [0x2A400000, 0xBF800000, 0x3F800000, 0x30800000]].all fun l =>
    decide (accClose fp32 (-40) (l.foldl (fun a x => (accAdd fp32 (-40) a x).1) (accOpen fp32 0)) = (0x30800000, false))) = true ∧
    (accAdd fp32 (-40) (accOpen fp32 0) 0x2A400000).2 = 1 := by decide +kernel

theorem test_skein_rounded : [0x3F800000, 0x30800000, 0xBF800000].foldl (ropApply 0) 0 = 0 ∧
    [0x3F800000, 0xBF800000, 0x30800000].foldl (ropApply 0) 0 = 0x30800000 := by decide +kernel

/-- 07.12, the worked example: the worst-case time of an LC projection, its tiles lent to BE work. -/
theorem test_worst_case : (let s := { (up.setFld .PWR_PANEL_RESERVED_G 0 1500) with
      time := 4000, epochs := [(1, { Settings.initial with panels := [(0, ⟨1, true, 0, 10000, 0, 0, 0⟩)] })] }
    let t := s.worstCase 0 0 (raw 0x0201 []) [0] 14848 108060800
    t.le (Frac.ofNat 114705) && !(t.le (Frac.ofNat 114704))) = true := by decide +kernel

/-- 11.3, the worked example: the reservation of that panel. -/
theorem test_reservation : resW 12 1500 10000 = 677 := by decide +kernel

/-- The check value of CRC-32C for the text 123456789. -/
theorem test_crc32c : crc32c [0x31, 0x32, 0x33, 0x34, 0x35, 0x36, 0x37, 0x38, 0x39] = 0xE3069283 := by decide +kernel

/-- R84: integer addition wraps at 32 bits, in every active lane. -/
theorem test_iadd_wraps : (match exec (.aluOp at0 .iadd 15 (.imm 0xFFFFFFFF) (.imm 3) (.imm 0)) (kern (grp [path])) with
    | .next t => (t.findGroup 0 0).any fun g => decide (tgetD g.regs (256 * 31 + 15) 0 = 2)
    | _ => false) = true := by decide +kernel

/-- R220, R225: a tail doorbell moves the queue's tail; one by another function is counted and changes nothing. -/
theorem test_doorbell : (match exec (.doorbellTail 0 0 .full 3) up with
    | .next t => (t.queue 0).any fun q => decide (q.tail = 3)
    | _ => false) = true := by decide +kernel

/-- 07.8: COPY moves the bytes. -/
theorem test_copy : (match exec (.copy 1) (putMem 0x0101 [(16, 8, 0x3000), (24, 8, 0x5000), (32, 8, 32)] [(0, 4, 0x11223344)]) with
    | .next t => decide (t.mem.readHbm 1 0x5000 4 = leBytes 4 0x11223344)
    | _ => false) = true := by decide +kernel

end Sys2Proof.Tests
end

section
/-! Register accesses through PF0: the reads that clear (R5, R6, R457), and the writes of registers without an action and of staged
registers (R5, R6, R306). -/

namespace Sys2Proof.Machine

/-! ### Reads that clear -/

/-- The registers whose 8-byte read pops a log or clears a function's counts. -/
def poppingRegs : List Reg := [.HBM_ECC_LOG, .HBM_REPAIR_LOG, .QUE_FN_STATUS]

/-- A register whose 8-byte read clears its RC fields and does nothing else; what it reads is no free measurement. -/
def Reg.clears (r : Reg) : Bool := r.hasRc && !readsFree r && !poppingRegs.contains r

theorem Reg.clears_iff (r : Reg) : r.clears = true ↔ r.hasRc = true ∧ readsFree r = false ∧ r ∉ poppingRegs := by
  simp [Reg.clears, and_assoc]

theorem State.peek_of_not_free (s : State) (f : Nat) {r : Reg} (i : Nat) (hr : readsFree r = false) :
    s.peek f r i = (s, s.regValue f r i 0) := by
  simp [State.peek, hr]

theorem State.readEffect_of_clears (s : State) (f : Nat) {r : Reg} (i : Nat) (hr : r.clears = true) :
    s.readEffect f r i = s.setReg r i (s.reg r i &&& (2 ^ 64 - 1 - rcMask r)) := by
  obtain ⟨hrc, -, hpop⟩ := r.clears_iff.mp hr
  unfold State.readEffect
  split
  case h_4 => exact if_pos hrc
  all_goals exact absurd (by decide) hpop

theorem State.readReg_full_of_clears (s : State) {r : Reg} (i : Nat) (hr : r.clears = true) :
    s.readReg .pf0 r i .full false =
      (s.setReg r i (s.reg r i &&& (2 ^ 64 - 1 - rcMask r)), s.regValue 0 r i 0) := by
  obtain ⟨-, hf, -⟩ := r.clears_iff.mp hr
  simp [State.readReg, State.peek_of_not_free _ _ _ hf, State.readEffect_of_clears _ _ _ hr, State.readsQuietly, viewFn]

theorem State.readReg_half_of_not_free (s : State) (v : View) {r : Reg} (i : Nat) {k : Half} (al : Bool)
    (hr : readsFree r = false) (hk : k ≠ .full) :
    s.readReg v r i k al = (s, halfOf k (s.regValue (viewFn v) r i 0)) := by
  simp [State.readReg, State.peek_of_not_free _ _ _ hr, hk]

theorem State.hostRead_of_answers (s : State) (v : View) (r : Reg) (i : Nat) (h : Half) (ha : s.answers v r i = true) :
    s.hostRead v r i h = (s.readReg v r i h false).1.emit (.regData (w64 (s.readReg v r i h false).2)) := by
  simp [State.hostRead, ha]

/-- A row that reads a clearing register: the 8-byte read returns the value before and clears the RC fields, a 4-byte read returns its
half and changes no register. -/
theorem exec_clearing_read (s : State) (row : Half → Instr) {r : Reg} {i : Nat} (hr : r.clears = true)
    (hrow : ∀ k, exec (row k) s = .next (s.hostRead .pf0 r i k)) (ha : s.answers .pf0 r i = true) :
    exec (row .full) s = .next ((s.setReg r i (s.reg r i &&& (2 ^ 64 - 1 - rcMask r))).emit (.regData (w64 (s.regValue 0 r i 0)))) ∧
      ∀ k, k ≠ .full → exec (row k) s = .next (s.emit (.regData (w64 (halfOf k (s.regValue 0 r i 0))))) := by
  obtain ⟨-, hf, -⟩ := r.clears_iff.mp hr
  refine ⟨?_, fun k hk => ?_⟩
  · rw [hrow, State.hostRead_of_answers _ _ _ _ _ ha, State.readReg_full_of_clears _ _ hr]
  · rw [hrow, State.hostRead_of_answers _ _ _ _ _ ha, State.readReg_half_of_not_free _ _ _ _ hf hk]
    rfl

/-- Settles O22: each of the eighteen rows is a PF0 read of a clearing register. -/
theorem clearingReads : Obligations.ClearingReads := by
  intro s h
  exact ⟨exec_clearing_read s (.hbmEccCountRead h) (by decide) fun _ => rfl,
    exec_clearing_read s (.uccSliceErrRead h) (by decide) fun _ => rfl,
    exec_clearing_read s (.uccDirStatusRead h) (by decide) fun _ => rfl,
    exec_clearing_read s (.uccSkeinStatusRead h) (by decide) fun _ => rfl,
    exec_clearing_read s (.xltCountsRead h) (by decide) fun _ => rfl,
    exec_clearing_read s (.lnkErrRead h) (by decide) fun _ => rfl,
    exec_clearing_read s (.lnkFecRead h) (by decide) fun _ => rfl,
    exec_clearing_read s (.gstErrRead h) (by decide) fun _ => rfl,
    exec_clearing_read s (.rsqCountsRead .pf0 h) (by decide) fun _ => rfl,
    exec_clearing_read s (.pnlCountsRead .pf0 h) (by decide) fun _ => rfl,
    exec_clearing_read s (.pnlDispatchRead .pf0 h) (by decide) fun _ => rfl,
    exec_clearing_read s .lnkGStatusRead (by decide) fun _ => rfl,
    exec_clearing_read s .pwrDroopRead (by decide) fun _ => rfl,
    exec_clearing_read s .hubFltStatusRead (by decide) fun _ => rfl,
    exec_clearing_read s .hubLeaseStatusRead (by decide) fun _ => rfl,
    exec_clearing_read s .obsSmpStatusRead (by decide) fun _ => rfl,
    exec_clearing_read s .obsCsmpStatusRead (by decide) fun _ => rfl,
    exec_clearing_read s .srvInputStatusRead (by decide) fun _ => rfl⟩

/-! ### Writes without an action -/

/-- The registers whose write performs an action of its own. -/
def actionRegs : List Reg :=
  [.HBM_REPAIR_CMD, .HBM_REPAIR_LOG, .HBM_SW_CTL, .HBM_G_CTL, .HBM_KEY_CTL, .QUE_SEL, .QUE_STATUS, .QUE_OVF_PTRS, .LNK_CTL, .LNK_G_ID,
    .LNK_G_ROUTE, .MGT_FN_STATUS, .MGT_MBX_M2T, .MGT_MBX_T2M, .MGT_APERTURE, .HUB_FLT_PTRS, .HUB_RESET_CMD, .OBS_CTL, .OBS_PCTL,
    .OBS_SMP_PTRS, .OBS_CSMP_PTRS, .OBS_FN_CNT, .TMB_EPOCH, .GST_CTL, .DBG_CTL, .DBG_HALT_CMD, .DBG_REG_DATA, .DBG_STEP_GO,
    .SRV_BIND_OFF]

/-- A register outside `actionRegs` goes to the stage or takes the write in its fields. -/
theorem State.writeReg_of_not_action (s : State) (v : View) {r : Reg} (i m val : Nat) (hr : r ∉ actionRegs) :
    s.writeReg v r i m val =
      if isStaged r then s.writeStaged r i m val else if r.writable then s.storeReg r i m val else s := by
  unfold State.writeReg
  dsimp only
  split
  case h_30 => rfl
  all_goals exact absurd (by decide) hr

@[simp] theorem State.noteWritten_reg (s : State) (r r' : Reg) (i i' : Nat) : (s.noteWritten r i).reg r' i' = s.reg r' i' := by
  unfold State.noteWritten
  split <;> rfl

/-- A PF0 write that covers bits of a register is noted and performed. -/
theorem State.writeAt_pf0_of_regAt (s : State) {off : Nat} {h : Half} {r : Reg} {i : Nat} (val : Nat)
    (hat : s.regAt .pf0 off = some (r, i, false)) (hx : isMsix off = false) (hm : halfMask h % 2 ^ (regInfo r).width ≠ 0) :
    s.writeAt .pf0 off h val =
      (s.noteWritten r i).writeReg .pf0 r i (halfMask h % 2 ^ (regInfo r).width) (halfValue h val) := by
  simp [State.writeAt, State.writeHit, hx, hat, hm, viewFn]

/-! ### The stage -/

theorem stageKey_eq_arr_iff (x : StageItem) (t v : Nat) : stageKey x = stageKey (.arr t v) ↔ ∃ w, x = .arr t w := by
  cases x <;> simp [stageKey]

/-- An item of a register that the stage does not hold is appended while there is room. -/
theorem State.stageReg_append (s : State) (x : StageItem) (hnew : ∀ y ∈ s.stage, stageKey y ≠ stageKey x)
    (hroom : s.stage.length < 256) : s.stageReg x = { s with stage := s.stage ++ [x] } := by
  have hany : (s.stage.any fun y => decide (stageKey y = stageKey x)) = false := by
    simpa using hnew
  simp [State.stageReg, hany, Nat.not_le.mpr hroom]

/-- An `ARR_CONFIG` that the stage does not hold is to keep its committed value. -/
theorem State.stagedValue_arrConfig_of_not_staged (s : State) (t : Nat) (hnew : ∀ x ∈ s.stage, ∀ w, x ≠ .arr t w) :
    s.stagedValue .ARR_CONFIG t = s.cfg.arrConfig t := by
  unfold State.stagedValue
  rw [List.findSome?_eq_none_iff.mpr]
  · rfl
  · intro x hx
    cases x with
    | arr u w =>
      have hu : u ≠ t := fun h => hnew _ hx w (h ▸ rfl)
      simp [hu]
    | _ => rfl

theorem State.writeStaged_arrConfig_of_not_staged (s : State) (t m val : Nat) (hnew : ∀ x ∈ s.stage, ∀ w, x ≠ .arr t w)
    (hroom : s.stage.length < 256) :
    s.writeStaged .ARR_CONFIG t m val =
      { s with stage := s.stage ++ [.arr t (writeFields .ARR_CONFIG m val (s.cfg.arrConfig t))] } := by
  have hkey : ∀ v, ∀ y ∈ s.stage, stageKey y ≠ stageKey (.arr t v) := by
    intro v y hy hk
    obtain ⟨w, hw⟩ := (stageKey_eq_arr_iff y t v).mp hk
    exact hnew y hy w hw
  simp only [State.writeStaged, State.stagedValue_arrConfig_of_not_staged s t hnew]
  exact s.stageReg_append _ (hkey _) hroom

/-- A PF0 write that reaches `ARR_CONFIG` is a staged write. -/
theorem State.stagedAt_arrConfig (s : State) {off : Nat} {h : Half} {t : Nat} (val : Nat)
    (hat : s.regAt .pf0 off = some (.ARR_CONFIG, t, false)) (hx : isMsix off = false)
    (hm : halfMask h % 2 ^ (regInfo .ARR_CONFIG).width ≠ 0) :
    s.stagedAt off h val = s.writeStaged .ARR_CONFIG t (halfMask h % 2 ^ (regInfo .ARR_CONFIG).width) (halfValue h val) := by
  have hstaged : s.stagedAt off h val = s.writeAt .pf0 off h val := by
    unfold State.stagedAt
    rw [hat]
    rfl
  rw [hstaged, s.writeAt_pf0_of_regAt val hat hx hm, State.writeReg_of_not_action _ _ _ _ _ (by decide)]
  rfl

/-- Settles O24: a write through PF0 reaches the register's fields, or the stage. -/
theorem registerWrites : Obligations.RegisterWrites := by
  refine ⟨fun s off h v r i hat hx hs hw hm hr => ?_, fun s off h v t hat hx hroom hnew hm => ?_⟩
  · change Host.Outcome.next (s.writeAt .pf0 off h v.toNat) = _
    rw [s.writeAt_pf0_of_regAt _ hat hx hm, State.writeReg_of_not_action _ _ _ _ _ hr]
    simp [hs, hw, State.storeReg]
  · change Host.Outcome.next (s.stagedAt off h v.toNat) = _
    rw [s.stagedAt_arrConfig _ hat hx hm, s.writeStaged_arrConfig_of_not_staged _ _ _ hnew hroom]

end Sys2Proof.Machine
end

section
/-! Memory in its canonical form, kept by every step. A state is `MemOk` when its memory is well-formed. One lemma for each function of
the model that answers a state says that the function keeps `MemOk`; the lemma bears the function's name, so that a proof follows the
function's own text: `hm.setFld.ite hm.logFault` is `if _ then s.setFld … else s.logFault …`. -/

namespace Sys2Proof.Machine

-- The lemmas below cite one another in long chains: each is elaborated when those it cites are done.
set_option Elab.async false

/-! ### Memory -/

theorem Memory.foldl_wf {α : Type} {f : Memory → α → Memory} (hf : ∀ m x, m.wf = true → (f m x).wf = true) {m : Memory}
    (hm : m.wf = true) (l : List α) : (l.foldl f m).wf = true :=
  List.foldlRecOn (motive := fun m => m.wf = true) l f hm fun t ht x _ => hf t x ht

theorem Memory.foldl_poison_wf {α : Type} {m : Memory} (hm : m.wf = true) (l : List α) (k : Nat) (f : α → Nat) :
    (l.foldl (fun m i => m.poison k (f i)) m).wf = true :=
  Memory.foldl_wf (fun m _ hm => m.poison_wf _ _ hm) hm l

theorem Memory.foldl_cellPut_wf {α : Type} {m : Memory} (hm : m.wf = true) (l : List α) (a : α → Nat) (b : α → Byte) :
    ({ m with cells := l.foldl (fun c x => cellPut c (a x) (b x)) m.cells } : Memory).wf = true := by
  obtain ⟨hc, hrest⟩ := m.wf_iff.mp hm
  have hput := List.foldlRecOn (motive := fun c => cellsWf 0 c = true) l _ hc fun c hc x _ => cellsWf_put c (a x) (b x) hc
  exact (Memory.wf_iff _).mpr ⟨hput, hrest⟩

theorem Memory.filter_wf {m : Memory} (hm : m.wf = true) (p : Host.Cell → Bool) (q : Nat × Sector → Bool) {l : Tab Nat}
    (hl : tsorted l = true) : (⟨m.cells.filter p, m.sect.filter q, l⟩ : Memory).wf = true := by
  obtain ⟨hc, hs, -⟩ := m.wf_iff.mp hm
  exact (Memory.wf_iff _).mpr ⟨cellsWf_filter _ p hc, tsorted_filter _ q hs, hl⟩

theorem SkeinEntry.writeBack_wf (e : SkeinEntry) {m : Memory} (hm : m.wf = true) : (e.writeBack m).wf = true := by
  refine Memory.foldl_wf (fun m i hm => ?_) hm _
  extract_lets a m₁
  have h₁ : m₁.wf = true := by
    unfold m₁
    split
    · exact Memory.writeHbm_wf _ _ _ _ hm
    · exact hm
  split
  · exact hm
  · split
    · exact Memory.poison_wf _ _ _ h₁
    · exact h₁

/-! ### States whose memory is well-formed -/

/-- The memory of a state is in its canonical form: the invariant of O60. -/
def State.MemOk (s : State) : Prop := s.mem.wf = true

variable {s : State}

/-- Both branches keep it. The instance is bound implicitly, so that unification takes the one that the model's text has. -/
theorem State.MemOk.ite {c : Prop} {_ : Decidable c} {t : State} (hm : s.MemOk) (ht : t.MemOk) :
    (if c then s else t).MemOk := by
  split
  · exact hm
  · exact ht

/-- For the state that a pattern `(t, b)` names. -/
theorem State.MemOk.of_eq {β : Type} {x : State × β} {t : State} {b : β} (hx : x.1.MemOk) (e : x = (t, b)) : t.MemOk := by
  subst e
  exact hx

/-- For the state that a pattern `(b, t)` names. -/
theorem State.MemOk.of_eq_snd {β : Type} {x : β × State} {t : State} {b : β} (hx : x.2.MemOk) (e : x = (b, t)) : t.MemOk := by
  subst e
  exact hx

theorem State.MemOk.of_some {t : State} (hm : s.MemOk) (e : some s = some t) : t.MemOk := by
  cases e
  exact hm

theorem State.MemOk.of_some_fst {β : Type} {t : State} {b c : β} (hm : s.MemOk) (e : some (s, b) = some (t, c)) : t.MemOk := by
  cases e
  exact hm

theorem State.MemOk.getD {o : Option State} (hm : s.MemOk) (ho : ∀ t, o = some t → t.MemOk) : (o.getD s).MemOk := by
  cases o with
  | none => exact hm
  | some t => exact ho t rfl

theorem State.MemOk.foldl {α : Type} {f : State → α → State} {l : List α} (hm : s.MemOk) (hf : ∀ t a, t.MemOk → (f t a).MemOk) :
    (l.foldl f s).MemOk :=
  List.foldlRecOn l f hm fun t ht x _ => hf t x ht

theorem State.MemOk.foldl_fst {α β : Type} {f : State × β → α → State × β} {l : List α} {x : State × β} (hx : x.1.MemOk)
    (hf : ∀ y a, y.1.MemOk → (f y a).1.MemOk) : (l.foldl f x).1.MemOk :=
  List.foldlRecOn (motive := fun x => x.1.MemOk) l f hx fun t ht x _ => hf t x ht

/-- A record update that leaves the memory as it is. -/
theorem State.MemOk.update {t : State} (hm : s.MemOk) (e : t.mem = s.mem := by with_reducible rfl) : t.MemOk := by
  rw [State.MemOk, e]
  exact hm

/-! ### Named operations over registers, logs, rings, events and interrupts -/

theorem State.MemOk.setReg {r : Reg} {i v : Nat} (hm : s.MemOk) : (s.setReg r i v).MemOk := hm
theorem State.MemOk.setFld {f : Fld} {i v : Nat} (hm : s.MemOk) : (s.setFld f i v).MemOk := hm.setReg
theorem State.MemOk.incFld {f : Fld} {i n : Nat} (hm : s.MemOk) : (s.incFld f i n).MemOk := hm.setFld
theorem State.MemOk.resetReg {r : Reg} {i : Nat} (hm : s.MemOk) : (s.resetReg r i).MemOk := hm
theorem State.MemOk.fresh (hm : s.MemOk) : s.fresh.2.MemOk := hm
theorem State.MemOk.emit {o : Out} (hm : s.MemOk) : (s.emit o).MemOk := hm
theorem State.MemOk.setDomain {d : Nat} {on : Bool} (hm : s.MemOk) : (s.setDomain d on).MemOk := hm.setReg
theorem State.MemOk.setTile {t : Nat} {x : Tile} (hm : s.MemOk) : (s.setTile t x).MemOk := hm
theorem State.MemOk.modTile {t : Nat} {f : Tile → Tile} (hm : s.MemOk) : (s.modTile t f).MemOk := hm.setTile
theorem State.MemOk.wakeHbm {pa : Nat} (hm : s.MemOk) : (s.wakeHbm pa).MemOk := hm.ite hm.setDomain.setFld
theorem State.MemOk.skeinClose {e : SkeinEntry} (hm : s.MemOk) : (s.skeinClose e).MemOk := e.writeBack_wf hm

theorem State.MemOk.skeinCloseLine {line : Nat} (hm : s.MemOk) : (s.skeinCloseLine line).MemOk := by
  unfold Machine.State.skeinCloseLine
  split
  exacts [hm.skeinClose, hm]

theorem State.MemOk.pread {k a n : Nat} (hm : s.MemOk) : (s.pread k a n).1.MemOk := by
  unfold Machine.State.pread
  split
  · extract_lets
    split
    · split
      rename_i e₁
      exact hm.wakeHbm.fresh.of_eq_snd e₁
    · exact hm.wakeHbm
  · split
    rename_i e₁
    exact hm.fresh.of_eq_snd e₁
  · exact hm
  · exact hm
  · exact hm

theorem State.MemOk.breakResv {a : Nat} (hm : s.MemOk) : (s.breakResv a).MemOk := hm

theorem State.MemOk.pwrite {k a : Nat} {b : List Byte} (hm : s.MemOk) : (s.pwrite k a b).1.MemOk := by
  unfold Machine.State.pwrite
  split
  · extract_lets s₁ s₂
    have h₁ : s₁.MemOk := hm.wakeHbm
    split
    · exact h₁
    · exact Memory.writeHbm_wf _ _ _ _ h₁.skeinCloseLine
  · split
    rename_i e₁
    have h₁ := hm.fresh.of_eq_snd e₁
    split <;> exact h₁.emit
  · exact hm
  · exact hm
  · exact Memory.writePlain_wf _ _ _ hm

theorem State.MemOk.readPhys {w : Who} {slot a n : Nat} (hm : s.MemOk) : (s.readPhys w slot a n).1.MemOk := by
  unfold Machine.State.readPhys
  refine hm.foldl_fst fun _ _ hs => ?_
  split
  · exact hs
  · split
    · split
      · exact hs
      · split <;> next e₂ => exact hs.pread.of_eq e₂
    · exact hs

theorem State.MemOk.writePhys {w : Who} {slot a : Nat} {b : List Byte} (hm : s.MemOk) :
    (s.writePhys w slot a b).1.MemOk := by
  unfold Machine.State.writePhys
  refine hm.foldl_fst fun _ _ hs => ?_
  split
  · split
    · exact hs
    · split
      rename_i e₂
      exact hs.pwrite.of_eq e₂
  · exact hs

theorem State.MemOk.addFault {cls detail status owner : Nat} {ctx : Option Nat} {tag addr : Nat} (hm : s.MemOk) :
    (s.addFault cls detail status owner ctx tag addr).MemOk := by
  unfold Machine.State.addFault
  exact hm.update.incFld.ite hm.update

theorem State.MemOk.sendMsix {f v : Nat} (hm : s.MemOk) : (s.sendMsix f v).MemOk := (hm.ite hm.update).ite hm.emit
theorem State.MemOk.setQueue {q : Nat} {x : Queue} (hm : s.MemOk) : (s.setQueue q x).MemOk := hm
theorem State.MemOk.modQueue {q : Nat} {f : Queue → Queue} (hm : s.MemOk) : (s.modQueue q f).MemOk := hm
theorem State.MemOk.modFunc {f : Nat} {g : Func → Func} (hm : s.MemOk) : (s.modFunc f g).MemOk := hm

theorem State.MemOk.interrupt {q : Nat} (hm : s.MemOk) : (s.interrupt q).MemOk := by
  unfold Machine.State.interrupt
  split
  exacts [hm, hm.setQueue.sendMsix]

theorem State.MemOk.noteEntry {q : Nat} (hm : s.MemOk) : (s.noteEntry q).MemOk := by
  unfold Machine.State.noteEntry
  split
  exacts [hm, (hm.setQueue.interrupt.ite hm.setQueue).ite hm]

theorem State.MemOk.ringPut {q : Nat} {entry : List Byte} (hm : s.MemOk) : (s.ringPut q entry).1.MemOk := by
  unfold Machine.State.ringPut
  split
  · exact hm
  · split
    · next e₁ => exact (hm.writePhys.of_eq e₁).modQueue
    · next e₁ => exact hm.writePhys.of_eq e₁

theorem State.MemOk.putEvent {q code info : Nat} (hm : s.MemOk) : (s.putEvent q code info).1.MemOk := by
  unfold Machine.State.putEvent
  split
  · exact hm
  · split
    · exact hm
    · split
      · exact hm.setQueue
      · split
        · next e₁ => exact (hm.ringPut.of_eq e₁).modQueue.noteEntry
        · next e₁ => exact (hm.ringPut.of_eq e₁).modQueue

theorem State.MemOk.postEvent {q code info : Nat} (hm : s.MemOk) : (s.postEvent q code info).MemOk := by
  unfold Machine.State.postEvent
  split
  · next e₁ => exact hm.putEvent.of_eq e₁
  · rename_i e₁
    have h₁ := hm.putEvent.of_eq e₁
    exact h₁.ite h₁.putEvent

theorem State.MemOk.postMgr {code info : Nat} (hm : s.MemOk) : (s.postMgr code info).MemOk := hm.postEvent

theorem State.MemOk.postCtx {ctx code info : Nat} (hm : s.MemOk) : (s.postCtx ctx code info).MemOk := by
  unfold Machine.State.postCtx
  split
  exacts [hm, hm.postEvent]

theorem State.MemOk.postBoth {ctx code info : Nat} (hm : s.MemOk) : (s.postBoth ctx code info).MemOk := by
  unfold Machine.State.postBoth
  split
  exacts [hm.postMgr, hm.postMgr.ite hm.postMgr.postCtx]

theorem State.MemOk.logFault {cls detail status owner : Nat} {ctx : Option Nat} {tag addr : Nat} (hm : s.MemOk) :
    (s.logFault cls detail status owner ctx tag addr).MemOk := hm.addFault.postMgr.ite hm.addFault

theorem State.MemOk.faultQueue {q : Nat} (hm : s.MemOk) : (s.faultQueue q).MemOk := by
  unfold Machine.State.faultQueue
  split
  · exact hm
  · extract_lets
    split
    exacts [hm.setQueue.postBoth, hm.setQueue.postBoth, hm.setQueue.postMgr]

/-! ### Queues (07) -/

theorem State.MemOk.modCmd {id : Nat} {f : Cmd → Cmd} (hm : s.MemOk) : (s.modCmd id f).MemOk := hm

theorem State.MemOk.armQueue {q : Nat} (hm : s.MemOk) : (s.armQueue q).MemOk := by
  unfold Machine.State.armQueue
  split
  exacts [hm, hm.setQueue.interrupt.ite hm.setQueue]

theorem State.MemOk.badDoorbell {q : Nat} {x : Queue} (hm : s.MemOk) : (s.badDoorbell q x).MemOk := by
  unfold Machine.State.badDoorbell
  extract_lets
  split
  exacts [hm.setQueue.postBoth, hm.setQueue.postBoth, hm.setQueue.postMgr]

theorem State.MemOk.doorbell {f q : Nat} {index : W32} {arm : Bool} (hm : s.MemOk) :
    (s.doorbell f q index arm).MemOk := by
  unfold Machine.State.doorbell
  split
  · exact hm.modFunc
  · split
    · exact hm.modFunc
    · split
      · exact hm.ite (hm.setQueue.ite hm.badDoorbell)
      · exact hm.ite (hm.setQueue.ite hm.badDoorbell)
      · exact (hm.armQueue.ite hm).ite ((hm.setQueue.armQueue.ite hm.setQueue).ite hm.badDoorbell)

theorem State.MemOk.dropRecord {cplq func : Nat} (hm : s.MemOk) : (s.dropRecord cplq func).MemOk :=
  hm.modFunc.modQueue.postMgr

theorem State.MemOk.overflowRecord {cplq func : Nat} {r : List Byte} (hm : s.MemOk) :
    (s.overflowRecord cplq func r).MemOk := by
  unfold Machine.State.overflowRecord
  split
  · exact hm.dropRecord
  · split
    · exact hm.dropRecord
    · extract_lets
      split
      · next e₁ => exact (hm.writePhys.of_eq e₁).modFunc
      · next e₁ => exact (hm.writePhys.of_eq e₁).dropRecord

theorem State.MemOk.writeRecord {cplq ctx : Nat} {r : List Byte} (hm : s.MemOk) : (s.writeRecord cplq ctx r).MemOk := by
  unfold Machine.State.writeRecord
  split
  · exact hm
  · split
    · exact hm.dropRecord
    · split
      · exact hm.overflowRecord
      · split
        · exact hm.setQueue.postBoth.overflowRecord
        · split
          · next e₁ => exact (hm.ringPut.of_eq e₁).noteEntry
          · next e₁ => exact (hm.ringPut.of_eq e₁).faultQueue.dropRecord

theorem State.MemOk.writeCopies {cplq ctx : Nat} {r : List Byte} {n : Nat} (hm : s.MemOk) :
    (s.writeCopies cplq ctx r n).MemOk := by
  induction n generalizing s with
  | zero => exact hm
  | succ n ih => exact ih hm.writeRecord

theorem State.MemOk.finishRecord {q ctx tag : Nat} {r : List Byte} (hm : s.MemOk) :
    (s.finishRecord q ctx tag r).MemOk := by
  unfold Machine.State.finishRecord
  split
  exacts [hm, hm.setQueue.writeRecord.writeCopies]

/-! ### Counting (14) -/

theorem State.MemOk.countReg {r : Reg} {i n : Nat} (hm : s.MemOk) : (s.countReg r i n).MemOk := hm.setReg

theorem State.MemOk.bump {u i n : Nat} {a : Option Attr} (hm : s.MemOk) : (s.bump u i n a).MemOk :=
  hm.ite (hm.countReg.foldl fun _ _ hs => hs.countReg.ite hs)

theorem State.MemOk.bumpFn {f i n : Nat} (hm : s.MemOk) : (s.bumpFn f i n).MemOk := hm.ite hm.countReg

theorem State.MemOk.settleP {u j : Nat} (hm : s.MemOk) : (s.settleP u j).MemOk := by
  unfold Machine.State.settleP
  split
  rename_i e₁
  exact (hm.fresh.of_eq_snd e₁).setReg

theorem State.MemOk.clearUnit {u : Nat} (hm : s.MemOk) : (s.clearUnit u).MemOk :=
  (hm.foldl fun _ _ hs => hs.resetReg).foldl fun _ _ hs => hs.resetReg

/-! ### HBM, its repairs and the memory keys (04) -/

theorem State.MemOk.setStack {h : Nat} {x : Stack} (hm : s.MemOk) : (s.setStack h x).MemOk := hm

theorem State.MemOk.hbmRefresh {h _pc : Nat} {_allBank _rfm : Bool} (hm : s.MemOk) :
    (hbmRefresh h _pc _allBank _rfm s).MemOk := hm.bump.ite hm

theorem State.MemOk.hbmRecentre {h _pc : Nat} (hm : s.MemOk) : (hbmRecentre h _pc s).MemOk := hm.bump.ite hm

theorem State.MemOk.useSpare {h pc bank : Nat} (hm : s.MemOk) : (s.useSpare h pc bank).MemOk :=
  hm.setStack.setFld.setFld

theorem State.MemOk.repairResult {h r : Nat} (hm : s.MemOk) : (s.repairResult h r).MemOk := hm.setFld

theorem State.MemOk.softPpr {h pc bank row cause : Nat} (hm : s.MemOk) : (s.softPpr h pc bank row cause).MemOk :=
  hm.repairResult.ite hm.useSpare.setStack.incFld.repairResult

theorem State.MemOk.hardAdd {h pc bank row cause : Nat} (hm : s.MemOk) : (s.hardAdd h pc bank row cause).MemOk := by
  unfold Machine.State.hardAdd
  extract_lets
  split
  exacts [hm.repairResult, hm.repairResult.ite (hm.repairResult.ite hm.setStack.setFld.repairResult)]

theorem State.MemOk.hardRemove {h pc bank row : Nat} (hm : s.MemOk) : (s.hardRemove h pc bank row).MemOk :=
  hm.setStack.setFld.repairResult

theorem State.MemOk.autoRepair {h pc bank row cause : Nat} (hm : s.MemOk) : (s.autoRepair h pc bank row cause).MemOk :=
  hm.softPpr.hardAdd.ite hm

theorem State.MemOk.sectorEvent {h la pc bank row : Nat} {patrol : Bool} {e : EccEvent} (hm : s.MemOk) :
    (s.sectorEvent h la pc bank row patrol e).MemOk := by
  unfold Machine.State.sectorEvent
  extract_lets _ log spoil
  have hlog {t : State} {k : Nat} (ht : t.MemOk) : (log t k).MemOk := ht.setStack
  have hspoil {t : State} (ht : t.MemOk) : (spoil t).MemOk := Memory.poison_wf _ _ _ ht
  split
  · exact (hlog hm).incFld.ite hm
  · exact (hlog hm).incFld.bump.setStack.autoRepair.ite (hlog hm).incFld.bump.setStack
  · exact (hspoil (hlog hm)).incFld.bump.autoRepair
  · exact hm.incFld
  · exact (hspoil (hlog hm)).incFld.incFld.bump.autoRepair

theorem State.MemOk.patrolScrub {h sector pc bank row : Nat} {e : EccEvent} (hm : s.MemOk) :
    (patrolScrub h sector pc bank row e s).MemOk := (hm.setStack.ite hm).setFld.bump.sectorEvent.ite hm

theorem State.MemOk.stackOut {h : Nat} (hm : s.MemOk) : (s.stackOut h).MemOk := hm.setFld.setFld.logFault.postMgr.ite hm
theorem State.MemOk.keyError {e : Bool} (hm : s.MemOk) : (s.keyError e).MemOk := hm.setFld
theorem State.MemOk.sweepGen {slot : Nat} {gen : Byte} (hm : s.MemOk) : (s.sweepGen slot gen).MemOk := hm

theorem State.MemOk.loadSlot {p key : Nat} (hm : s.MemOk) : (s.loadSlot p key).MemOk := by
  unfold Machine.State.loadSlot
  exact (hm.foldl fun _ _ hs => hs.sweepGen).update

theorem State.MemOk.freshKey (hm : s.MemOk) : s.freshKey.2.MemOk := hm

theorem State.MemOk.generate {p : Nat} (hm : s.MemOk) : (s.generate p).MemOk := by
  unfold Machine.State.generate
  split
  rename_i e₁
  exact (hm.freshKey.of_eq_snd e₁).loadSlot

theorem State.MemOk.unwrap {b : List Byte} (hm : s.MemOk) : (s.unwrap b).2.MemOk := by
  unfold Machine.State.unwrap
  split
  · exact hm
  · split
    · exact hm
    · split
      · split
        rename_i e₁
        exact (hm.freshKey.of_eq_snd e₁).update
      · exact hm

theorem State.MemOk.importKey {p a : Nat} (hm : s.MemOk) : (s.importKey p a).1.MemOk := by
  unfold Machine.State.importKey
  split
  · split
    · next e₁ => exact hm.readPhys.of_eq e₁
    · rename_i e₁
      have h₁ := hm.readPhys.of_eq e₁
      split
      · next e₂ => exact h₁.unwrap.of_eq_snd e₂
      · next e₂ => exact (h₁.unwrap.of_eq_snd e₂).loadSlot
  · exact hm

theorem State.MemOk.exportKey {p a : Nat} (hm : s.MemOk) : (s.exportKey p a).1.MemOk := by
  unfold Machine.State.exportKey
  split
  · exact hm
  · split
    · extract_lets
      split
      · rename_i e₁
        have h₁ := hm.writePhys.of_eq e₁
        exact h₁.ite h₁.update
      · next e₁ => exact hm.writePhys.of_eq e₁
    · exact hm

theorem State.MemOk.keyOp {op slot : Nat} (hm : s.MemOk) : (s.keyOp op slot).MemOk := by
  unfold Machine.State.keyOp
  split
  · exact hm
  · split
    · exact hm.keyError
    · extract_lets
      split
      · exact hm.generate.keyError
      · exact hm.loadSlot.keyError
      · split
        rename_i e₁
        exact (hm.importKey.of_eq e₁).keyError
      · split
        rename_i e₁
        exact (hm.exportKey.of_eq e₁).keyError
      · exact hm.keyError

theorem State.MemOk.repairCmd {h op pc bank row : Nat} (hm : s.MemOk) : (s.repairCmd h op pc bank row).MemOk := by
  unfold Machine.State.repairCmd
  split
  · exact hm.repairResult
  · split
    exacts [hm.softPpr, hm.hardAdd, hm.hardRemove, hm]

theorem State.MemOk.swStart {h : Nat} (hm : s.MemOk) : (swStart s h).MemOk := hm.ite (hm.setReg.setFld.ite hm)

theorem State.MemOk.swLose {h lo hi : Nat} (hm : s.MemOk) : (s.swLose h lo hi).MemOk := by
  obtain ⟨-, -, hl⟩ := s.mem.wf_iff.mp hm
  refine Memory.filter_wf hm _ _ (List.foldlRecOn (motive := fun l => tsorted l = true) _ _ hl fun l hl f _ => ?_)
  split
  · exact tsorted_tupd _ _ _ _ hl
  · exact hl

theorem State.MemOk.swDone {h : Nat} (hm : s.MemOk) : (swDone s h).MemOk := by
  unfold Machine.swDone
  split
  · extract_lets
    split
    rename_i e₁
    have h₁ := hm.fresh.of_eq_snd e₁
    extract_lets _ _ _ s₂
    have h₂ : s₂.MemOk := h₁.update.swLose.ite h₁.update
    exact h₂.setFld.setFld.ite h₂.setFld.setFld.setFld.setFld.setFld
  · exact hm

theorem State.MemOk.eccLogPop {h : Nat} (hm : s.MemOk) : (s.eccLogPop h).MemOk := by
  unfold Machine.State.eccLogPop
  extract_lets
  split
  exacts [hm.setStack, hm.setStack.setReg]

theorem State.MemOk.repairLogNext {h : Nat} (hm : s.MemOk) : (s.repairLogNext h).MemOk := hm.setStack.ite hm
theorem State.MemOk.repairLogHome {h : Nat} (hm : s.MemOk) : (s.repairLogHome h).MemOk := hm.setStack

/-! ### Address translation (06) -/

theorem State.MemOk.walkFrom {ctx va n level t last : Nat} {ts : List WalkEntry} (hm : s.MemOk) :
    (s.walkFrom ctx va n level t last ts).1.MemOk := by
  induction n generalizing s level t last ts with
  | zero => exact hm
  | succ n ih =>
    unfold Machine.State.walkFrom
    extract_lets
    split
    · exact hm
    · split
      · exact hm
      · split
        · exact hm
        · split <;> rename_i e₁ <;> have h₁ := hm.pread.of_eq e₁
          · exact h₁
          · exact h₁
          · extract_lets
            split
            · exact h₁
            · split
              · exact h₁
              · split
                · exact h₁
                · split
                  · exact h₁
                  · exact ih h₁

theorem State.MemOk.tlbFill {unit : Nat} {e : TlbEntry} (hm : s.MemOk) : (s.tlbFill unit e).MemOk := by
  unfold Machine.State.tlbFill
  exact hm.update.ite hm.update

theorem State.MemOk.walkFill {unit : Nat} {ts : List WalkEntry} (hm : s.MemOk) : (s.walkFill unit ts).MemOk := hm

theorem State.MemOk.noteXFault {iss : Issuer} {n : Need} {f : XFault} (hm : s.MemOk) : (s.noteXFault iss n f).MemOk :=
  hm.setReg.setReg.setReg.setReg.incFld

theorem State.MemOk.xlate {iss : Issuer} {n : Need} {va : Nat} (hm : s.MemOk) : (s.xlate iss n va).1.MemOk := by
  unfold Machine.State.xlate
  extract_lets
  split
  · exact hm.noteXFault
  · split
    · split
      exacts [hm, hm.noteXFault]
    · split
      · exact hm.noteXFault
      · split
        · exact hm.noteXFault
        · split
          split
          · next e₁ => exact (hm.incFld.walkFrom.of_eq e₁).noteXFault
          · rename_i e₁
            have h₁ := hm.incFld.walkFrom.of_eq e₁
            split
            exacts [h₁.tlbFill.walkFill, h₁.noteXFault]

theorem State.MemOk.xlatDrop {inCtx : Nat → Bool} {lo hi : Nat} (hm : s.MemOk) : (s.xlatDrop inCtx lo hi).MemOk := hm
theorem State.MemOk.flushTileTlbs {t : Nat} (hm : s.MemOk) : (s.flushTileTlbs t).MemOk := hm

/-! ### What the unified cache performs at a line's home (05.9) -/

theorem State.MemOk.earlyClose {e : SkeinEntry} (hm : s.MemOk) : (s.earlyClose e).MemOk := hm.skeinClose.incFld.bump

theorem State.MemOk.skeinTrim {n limit places : Nat} {counts goes : SkeinEntry → Bool} (hm : s.MemOk) :
    (State.skeinTrim n s limit places counts goes).1.MemOk := by
  induction n generalizing s with
  | zero => exact hm
  | succ n ih =>
    unfold Machine.State.skeinTrim
    split
    · split
      · exact ih hm.earlyClose
      · exact hm
    · exact hm

theorem State.MemOk.skeinRoom {bd : Nat} {owner : Option Nat} {places : Nat} (hm : s.MemOk) :
    (s.skeinRoom bd owner places).1.MemOk := by
  unfold Machine.State.skeinRoom
  extract_lets
  split
  rename_i e₁
  split
  rename_i e₂
  exact (hm.skeinTrim.of_eq e₁).skeinTrim.of_eq e₂

theorem State.MemOk.skeinAdd {w : RedWho} {line sectors rop : Nat} {carry : Bool} {anchor : Int} {payload : List Byte}
    {spoil : Nat} (hm : s.MemOk) : (s.skeinAdd w line sectors rop carry anchor payload spoil).1.MemOk := by
  unfold Machine.State.skeinAdd
  extract_lets
  split
  rename_i s₁ _ e₁
  have h₁ : s₁.MemOk := by
    refine State.MemOk.of_eq ?_ e₁
    split
    · split
      exacts [hm, hm.earlyClose]
    · exact hm
  split
  rename_i s₂ _ _ e₂
  have h₂ : s₂.MemOk := by
    refine State.MemOk.of_eq ?_ e₂
    split
    · exact h₁
    · exact h₁.skeinRoom
  split
  extract_lets _ s₃ s₄ s₅
  have h₃ : s₃.MemOk := h₂.update
  have h₅ : s₅.MemOk := (h₃.foldl fun _ _ hs => hs.breakResv).bump
  split
  · exact h₅.earlyClose
  · exact h₅

theorem State.MemOk.reduceLine {w : RedWho} {line sectors rop : Nat} {payload : List Byte} (hm : s.MemOk) :
    (s.reduceLine w line sectors rop payload).MemOk := by
  refine hm.skeinCloseLine.foldl fun _ _ hs => ?_
  dsimp only
  split
  · exact Memory.writeHbm_wf _ _ _ _ hs
  · exact hs

theorem State.MemOk.spoilLine {key line spoil : Nat} (hm : s.MemOk) : (s.spoilLine key line spoil).MemOk :=
  Memory.foldl_poison_wf hm _ _ _

theorem State.MemOk.addLineAt {w : RedWho} {line sectors rop : Nat} {exact carry : Bool} {anchor : Int}
    {payload : List Byte} {spoil : Nat} (hm : s.MemOk) :
    (s.addLineAt w line sectors rop exact carry anchor payload spoil).1.MemOk := by
  unfold Machine.State.addLineAt
  extract_lets s₁
  have h₁ : s₁.MemOk := hm.wakeHbm.bump
  split
  · exact h₁
  · split
    exacts [h₁.skeinAdd, h₁.reduceLine.spoilLine]

theorem State.MemOk.skeinFence {ctx : Nat} (hm : s.MemOk) : (s.skeinFence ctx).1.MemOk :=
  hm.foldl_fst fun _ _ hs => hs.skeinClose.bump

theorem State.MemOk.skeinCloseAll (hm : s.MemOk) : s.skeinCloseAll.MemOk := hm.foldl fun _ _ hs => hs.skeinClose

theorem State.MemOk.atomicAt {key a : Nat} {op : AtomOp} {size x y : Nat} (hm : s.MemOk) :
    (s.atomicAt key a op size x y).1.MemOk := by
  unfold Machine.State.atomicAt
  extract_lets s₁
  have h₁ : s₁.MemOk := hm.skeinCloseLine
  split <;> rename_i e₁ <;> have h₂ := h₁.pread.of_eq e₁
  · exact h₂
  · exact h₂
  · extract_lets
    split <;> next e₂ => exact h₂.pwrite.of_eq e₂

theorem State.MemOk.putReplay {r : Replay} (hm : s.MemOk) : (s.putReplay r).MemOk := hm

theorem State.MemOk.replayFor {slice pkg eng : Nat} {tag : W32} (hm : s.MemOk) {t : State} {y : Replay}
    (e : s.replayFor slice pkg eng tag = some (t, y)) : t.MemOk := by
  unfold Machine.State.replayFor at e
  split at e
  · exact hm.of_some_fst e
  · extract_lets at e
    split at e
    · exact hm.of_some_fst e
    · split at e
      · exact hm.update.of_some_fst e
      · cases e

theorem State.MemOk.nextRTag {eng : Nat} (hm : s.MemOk) : (s.nextRTag eng).2.MemOk := hm

theorem State.MemOk.replayExpire {slice pkg eng : Nat} (hm : s.MemOk) : (replayExpire slice pkg eng s).MemOk := by
  unfold Machine.replayExpire
  split
  exacts [hm.update.ite hm, hm]

theorem State.MemOk.putTracker {t : Tracker} (hm : s.MemOk) : (s.putTracker t).MemOk := by
  unfold Machine.State.putTracker
  exact hm.update.ite hm.update

/-! ### The slices' side of the coherence protocol (05) -/

theorem State.MemOk.send {m : Msg} (hm : s.MemOk) : (s.send m).MemOk := hm

theorem State.MemOk.recv {k : MKind} {src dst : Option Nat} {line : Nat} (hm : s.MemOk) {t : State} {y : Msg}
    (e : s.recv k src dst line = some (y, t)) : t.MemOk := by
  unfold Machine.State.recv at e
  split at e <;> cases e
  exact hm.update

theorem State.MemOk.track {h : ReqHdr} {line sectors : Nat} (hm : s.MemOk) : (s.track h line sectors).MemOk := hm
theorem State.MemOk.untrack {tag : Nat} (hm : s.MemOk) : (s.untrack tag).MemOk := hm
theorem State.MemOk.setSlice {q : Nat} {x : Slice} (hm : s.MemOk) : (s.setSlice q x).MemOk := hm
theorem State.MemOk.modSlice {q : Nat} {f : Slice → Slice} (hm : s.MemOk) : (s.modSlice q f).MemOk := hm.setSlice

theorem State.MemOk.evict {q : Nat} {l : Line} (hm : s.MemOk) {t : State} (e : s.evict q l = some t) : t.MemOk := by
  unfold Machine.State.evict at e
  extract_lets at e
  split at e
  · split at e
    exacts [hm.setSlice.send.of_some e, hm.setSlice.of_some e]
  · split at e
    · cases e
    · split at e
      · split at e
        · cases e
        · exact hm.setSlice.send.of_some e
      · exact hm.setSlice.send.of_some e

theorem State.MemOk.fill {q : Nat} {l : Line} (hm : s.MemOk) {t : State} (e : s.fill q l = some t) : t.MemOk := by
  unfold Machine.State.fill at e
  extract_lets at e
  split at e
  · exact hm.setSlice.of_some e
  · split at e
    · exact hm.setSlice.evict e
    · split at e
      · exact hm.setSlice.of_some e
      · split at e
        · exact hm.setSlice.of_some e
        · split at e
          · cases e
          · next e₁ => exact (hm.evict e₁).modSlice.of_some e

theorem State.MemOk.answerSnoop {q : Nat} {k : MKind} {line tag : Nat} (hm : s.MemOk) :
    (s.answerSnoop q k line tag).MemOk := by
  unfold Machine.State.answerSnoop
  extract_lets _ _ _ _ s₁
  have h₁ : s₁.MemOk := hm.modSlice.ite hm
  split
  · exact h₁.send
  · split
    exacts [h₁.send, (h₁.modSlice.send.ite h₁.modSlice.send).ite h₁.modSlice.send]

theorem State.MemOk.takeSnoop {q : Nat} {k : MKind} {line : Nat} (hm : s.MemOk) : (s.takeSnoop q k line).MemOk := by
  unfold Machine.State.takeSnoop
  split
  · exact hm
  · split
    · exact hm
    · rename_i e₁
      have h₁ := hm.recv e₁
      exact h₁.modSlice.ite h₁.answerSnoop

theorem State.MemOk.snpShr {q line : Nat} (hm : s.MemOk) : (snpShr q line s).MemOk := hm.takeSnoop
theorem State.MemOk.snpInv {q line : Nat} (hm : s.MemOk) : (snpInv q line s).MemOk := hm.takeSnoop

theorem State.MemOk.endHold {q line : Nat} (hm : s.MemOk) : (s.endHold q line).MemOk :=
  hm.modSlice.foldl fun _ _ hs => hs.answerSnoop

theorem State.MemOk.holdExpire {q line : Nat} (hm : s.MemOk) : (holdExpire q line s).MemOk := by
  unfold Machine.holdExpire
  split
  exacts [hm.endHold.ite hm, hm]

theorem State.MemOk.someRow (hm : s.MemOk) : s.someRow.2.MemOk := hm

theorem State.MemOk.snpFetch {q line : Nat} {ecc : EccEvent} (hm : s.MemOk) : (snpFetch q line ecc s).MemOk := by
  unfold Machine.snpFetch
  split
  · exact hm
  · rename_i e₁
    have h₁ := hm.recv e₁
    extract_lets _ _ _ _ s₂
    have h₂ : s₂.MemOk := h₁.ite h₁.modSlice
    split
    · exact h₂.modSlice.send
    · split
      rename_i e₃
      have h₃ := h₂.someRow.of_eq_snd e₃
      exact (h₃.wakeHbm.sectorEvent.ite h₃).send

theorem State.MemOk.wbAck {q line : Nat} (hm : s.MemOk) : (wbAck q line s).MemOk := by
  unfold Machine.wbAck
  split
  · exact hm
  · next e₁ => exact (hm.recv e₁).modSlice

theorem State.MemOk.credit {q bank : Nat} (hm : s.MemOk) : (credit q bank s).MemOk := by
  unfold Machine.credit
  split
  exacts [hm, hm.update.modSlice]

theorem State.MemOk.dirFree {q line : Nat} (hm : s.MemOk) : (dirFree q line s).MemOk := by
  unfold Machine.dirFree
  split
  · exact hm
  · next e₁ => exact (hm.recv e₁).modSlice

/-! ### The directory's side of the coherence protocol (05) -/

theorem State.MemOk.putDir {q : Nat} {e : DirEntry} (hm : s.MemOk) : (s.putDir q e).MemOk := hm
theorem State.MemOk.modDir {q line : Nat} {f : DirEntry → DirEntry} (hm : s.MemOk) : (s.modDir q line f).MemOk := hm
theorem State.MemOk.freeDir {q line : Nat} (hm : s.MemOk) : (s.freeDir q line).MemOk := hm.update.send

theorem State.MemOk.sendSnoop {q line tag : Nat} {x : Nat × MKind} (hm : s.MemOk) : (s.sendSnoop q line tag x).MemOk :=
  hm.send

theorem State.MemOk.begin_ {q : Nat} {e : DirEntry} {fresh : Bool} {r : Req} (hm : s.MemOk) :
    (s.begin_ q e fresh r).MemOk := hm.putDir.foldl fun _ _ hs => hs.sendSnoop

theorem State.MemOk.stall {q : Nat} {r : Req} (hm : s.MemOk) : (s.stall q r).MemOk := hm

theorem State.MemOk.backInvalidate {q line : Nat} (hm : s.MemOk) : (s.backInvalidate q line).MemOk := by
  unfold Machine.State.backInvalidate
  split
  exacts [hm, hm.modDir.incFld.foldl fun _ _ hs => hs.sendSnoop]

theorem State.MemOk.arrive {q : Nat} {r : Req} (hm : s.MemOk) : (s.arrive q r).MemOk := by
  unfold Machine.State.arrive
  split
  exacts [hm.modDir.ite hm.begin_, hm.stall.ite (hm.begin_.ite hm.backInvalidate.stall)]

theorem State.MemOk.writeLine {key line : Nat} {data : List Byte} (hm : s.MemOk) :
    (s.writeLine key line data).1.MemOk := by
  unfold Machine.State.writeLine
  refine hm.foldl_fst fun _ _ hs => ?_
  split
  rename_i e₂
  exact hs.pwrite.of_eq e₂

theorem State.MemOk.writeMasked {key line mask : Nat} {data : List Byte} (hm : s.MemOk) :
    (s.writeMasked key line mask data).1.MemOk := by
  unfold Machine.State.writeMasked
  refine hm.foldl_fst fun _ _ hs => ?_
  split
  rename_i e₂
  exact hs.pwrite.of_eq e₂

theorem State.MemOk.once {slice : Nat} {rt : RTag} {act : State → State × Nat × W64} (hm : s.MemOk)
    (ha : ∀ t, t.MemOk → (act t).1.MemOk) : (s.once slice rt act).1.MemOk := by
  unfold Machine.State.once
  split
  · exact ha _ hm
  · rename_i e₁
    have h₁ := hm.replayFor e₁
    split
    · exact h₁.incFld.putReplay
    · split
      rename_i e₂
      exact ((ha _ h₁).of_eq e₂).putReplay

theorem State.MemOk.perform {q : Nat} {r : Req} (hm : s.MemOk) : (s.perform q r).1.MemOk := by
  unfold Machine.State.perform
  extract_lets
  split
  · split
    rename_i e₁
    exact hm.writeLine.of_eq e₁
  · split
    rename_i e₁
    exact hm.writeMasked.of_eq e₁
  · extract_lets act
    have hact (t : State) (ht : t.MemOk) : (act t).1.MemOk := by
      unfold act
      split <;> next e₁ => exact ht.atomicAt.of_eq e₁
    split
    · exact hm.once hact
    · exact hact s hm
  · refine hm.once fun _ hs => ?_
    split
    rename_i e₁
    exact hs.addLineAt.of_eq e₁
  · exact hm

theorem State.MemOk.lineBytes {key line : Nat} (hm : s.MemOk) : (s.lineBytes key line).1.MemOk := by
  unfold Machine.State.lineBytes
  refine hm.foldl_fst fun _ _ hs => ?_
  split <;> next e₂ => exact hs.pread.of_eq e₂

theorem State.MemOk.grant {q : Nat} {e : DirEntry} {t : Txn} {r : Req} {dest : Nat} {g : LState} {e' : DirEntry}
    (hm : s.MemOk) : (s.grant q e t r dest g e').MemOk := hm.putDir.send

theorem State.MemOk.finish {q : Nat} {e : DirEntry} {t : Txn} (hm : s.MemOk) : (s.finish q e t).MemOk := by
  unfold Machine.State.finish
  split
  · exact hm.modDir
  · extract_lets
    split
    · exact hm.grant.ite hm.grant
    · exact hm.grant
    · exact hm.grant
    · split
      rename_i e₁
      exact (hm.lineBytes.of_eq e₁).putDir.send
    · split
      rename_i e₁
      have h₁ := hm.perform.of_eq e₁
      extract_lets s₂
      have h₂ : s₂.MemOk := by
        unfold s₂
        split
        exacts [h₁.send, h₁.send, h₁.untrack]
      split
      · exact h₂.putDir.send
      · exact h₂.putDir.modSlice.ite h₂.putDir

theorem State.MemOk.settle {q n : Nat} {work : List Nat} (hm : s.MemOk) : (State.settle q n s work).MemOk := by
  induction n generalizing s work with
  | zero => exact hm
  | succ n ih =>
    unfold Machine.State.settle
    split
    · split
      · exact hm
      · exact ih (State.MemOk.arrive hm.update)
    · split
      · exact ih hm
      · split
        · split
          · exact ih hm.finish
          · exact ih hm
        · split
          · exact ih hm.modDir.begin_
          · split
            · exact ih hm.freeDir
            · exact ih hm

theorem State.MemOk.settleAll {q line : Nat} (hm : s.MemOk) : (s.settleAll q line).MemOk := hm.settle

theorem State.MemOk.request {r : Req} {sectors : Nat} (hm : s.MemOk) : (s.request r sectors).MemOk :=
  hm.track.arrive.settleAll.ite hm

theorem State.MemOk.rdShr {h : ReqHdr} {slice line : Nat} (hm : s.MemOk) : (rdShr h slice line s).MemOk := hm.request

theorem State.MemOk.rdOwn {h : ReqHdr} {slice line : Nat} {miss : Bool} (hm : s.MemOk) :
    (rdOwn h slice line miss s).MemOk := hm.request

theorem State.MemOk.upgrade {h : ReqHdr} {slice line : Nat} (hm : s.MemOk) : (upgrade h slice line s).MemOk :=
  hm.request

theorem State.MemOk.rdOnce {h : ReqHdr} {line : Nat} (hm : s.MemOk) : (rdOnce h line s).MemOk := hm.request

theorem State.MemOk.wrLine {h : ReqHdr} {line : Nat} {data : List Byte} {hint : Nat} (hm : s.MemOk) :
    (wrLine h line data hint s).MemOk := hm.request.ite hm

theorem State.MemOk.wrPtl {h : ReqHdr} {line : Nat} {mask : BitVec 128} {data : List Byte} {hint : Nat} (hm : s.MemOk)
    : (wrPtl h line mask data hint s).MemOk := hm.request.ite hm

theorem State.MemOk.refuseReq {h : ReqHdr} {line st : Nat} (hm : s.MemOk) : (s.refuseReq h line st).MemOk := hm.send

theorem State.MemOk.atomicReq {h : ReqHdr} {addr : Nat} {op : AtomOp} {size : Nat} {a b : W64} {rt : Option RTag}
    (hm : s.MemOk) : (atomicReq h addr op size a b rt s).MemOk := by
  unfold Machine.atomicReq
  split
  · split
    · exact hm.request
    · extract_lets act r
      have hact (t : State) (ht : t.MemOk) : (act t).1.MemOk := by
        unfold act
        split <;> next e₁ => exact ht.atomicAt.of_eq e₁
      refine State.MemOk.send ?_
      unfold r
      split
      · exact hm.once hact
      · exact hact s hm
    · exact hm.refuseReq
  · exact hm

theorem State.MemOk.addLineReq {h : ReqHdr} {line : Nat} {sectors : BitVec 4} {rop : Nat} {exact carry : Bool}
    {anchor : Int} {payload : List Byte} {rt : RTag} (hm : s.MemOk) :
    (addLineReq h line sectors rop exact carry anchor payload rt s).MemOk := (hm.request.ite hm.refuseReq).ite hm

theorem State.MemOk.modTxn {q line : Nat} {f : DirEntry → Txn → DirEntry} (hm : s.MemOk) : (s.modTxn q line f).MemOk :=
  hm.modDir

theorem State.MemOk.invAck {slice line : Nat} (hm : s.MemOk) : (invAck slice line s).MemOk := by
  unfold Machine.invAck
  extract_lets
  split
  · exact hm
  · rename_i e₁
    have h₁ := hm.recv e₁
    split
    · exact h₁
    · split
      exacts [h₁, (h₁.modTxn.sendSnoop.ite h₁.modTxn).settleAll]

theorem State.MemOk.snoopData {q : Nat} {m : Msg} (hm : s.MemOk) : (s.snoopData q m).MemOk := by
  unfold Machine.State.snoopData
  split
  · exact hm
  · split
    exacts [hm, (hm.modTxn.sendSnoop.ite hm.modTxn).settleAll]

theorem State.MemOk.crossed {q slice line : Nat} (hm : s.MemOk) : (s.crossed q slice line).MemOk :=
  hm.modTxn.send.settleAll

theorem State.MemOk.wbInFlight {slice line : Nat} (hm : s.MemOk) : (wbInFlight slice line s).MemOk := by
  unfold Machine.wbInFlight
  extract_lets
  split
  · exact hm
  · rename_i e₁
    have h₁ := hm.recv e₁
    split
    exacts [h₁, h₁.crossed.ite h₁.modTxn]

theorem State.MemOk.wbData {slice line : Nat} (hm : s.MemOk) : (wbData slice line s).MemOk := by
  unfold Machine.wbData
  extract_lets
  split
  · exact hm
  · rename_i e₁
    have h₁ := hm.recv e₁
    split
    exacts [h₁.modTxn.crossed.ite h₁.modTxn, h₁.modDir.send.settleAll]

theorem State.MemOk.evictClean {slice line : Nat} (hm : s.MemOk) : (evictClean slice line s).MemOk := by
  unfold Machine.evictClean
  extract_lets
  split
  · exact hm
  · rename_i e₁
    have h₁ := hm.recv e₁
    exact (h₁.ite h₁.send).modDir.settleAll

theorem State.MemOk.granted {q line : Nat} (hm : s.MemOk) : (s.granted q line).MemOk := hm.modTxn.settleAll

theorem State.MemOk.data {dst line : Nat} (hm : s.MemOk) : (data dst line s).MemOk := by
  unfold Machine.data
  split
  · exact hm
  · rename_i e₁
    have h₁ := hm.recv e₁
    split
    · exact h₁.snoopData
    · split
      · extract_lets
        split
        · exact hm
        · rename_i e₂
          have h₂ := h₁.fill e₂
          exact (h₂.modSlice.ite h₂).untrack.granted
      · extract_lets _ _ s₁
        have h₁ : s₁.MemOk := h₁.untrack.modDir
        exact (h₁.ite h₁.emit).settleAll

theorem State.MemOk.complete {tag : Nat} (hm : s.MemOk) : (complete tag s).MemOk := by
  unfold Machine.complete
  split
  · exact hm
  · extract_lets _ s₁
    have h₁ : s₁.MemOk := hm.update.untrack
    exact h₁.emit.ite h₁

theorem State.MemOk.requestTimeout {tag : Nat} (hm : s.MemOk) : (requestTimeout tag s).MemOk := by
  unfold Machine.requestTimeout
  split
  · exact hm
  · split
    · extract_lets
      split
      rename_i e₁
      have h₁ := hm.untrack.fresh.of_eq_snd e₁
      split
      exacts [h₁.emit, h₁.emit, h₁.emit, h₁.emit, h₁]
    · exact hm

theorem State.MemOk.reclaimUcc {p : Tracked → Bool} {h : Hold → Bool} (hm : s.MemOk) : (s.reclaimUcc p h).MemOk :=
  hm.update.foldl fun _ _ hs => hs.foldl fun _ _ ht => ht.endHold

/-! ### The Ahnyx links (10) -/

theorem State.MemOk.setLink {l : Nat} {x : LinkSt} (hm : s.MemOk) : (s.setLink l x).MemOk := hm
theorem State.MemOk.modLink {l : Nat} {f : LinkSt → LinkSt} (hm : s.MemOk) : (s.modLink l f).MemOk := hm.setLink
theorem State.MemOk.noteLeft {m : LinkMsg} (hm : s.MemOk) : (s.noteLeft m).MemOk := hm.update.ite hm

theorem State.MemOk.transmit {l : Nat} {m : LinkMsg} (hm : s.MemOk) : (s.transmit l m).MemOk :=
  hm.bump.noteLeft.setLink.emit

theorem State.MemOk.drainLink {n l : Nat} (hm : s.MemOk) : (State.drainLink n s l).MemOk := by
  induction n generalizing s with
  | zero => exact hm
  | succ n ih =>
    unfold Machine.State.drainLink
    split
    · exact hm
    · exact ih hm.modLink.transmit

theorem State.MemOk.drain {l : Nat} (hm : s.MemOk) : (s.drain l).MemOk := hm.drainLink.ite hm
theorem State.MemOk.enqueue {l rank : Nat} {m : LinkMsg} (hm : s.MemOk) : (s.enqueue l rank m).MemOk := hm.modLink.drain
theorem State.MemOk.routeDrop (hm : s.MemOk) : s.routeDrop.MemOk := hm.incFld

theorem State.MemOk.inject {m : LinkMsg} (hm : s.MemOk) {t : State} (e : s.inject m = some t) : t.MemOk := by
  unfold Machine.State.inject at e
  split at e
  · cases e
  · exact hm.enqueue.of_some e

theorem State.MemOk.answer {m : LinkMsg} (hm : s.MemOk) : (s.answer m).MemOk := hm.routeDrop.getD fun _ => hm.inject

theorem State.MemOk.leaseFill {q ctx line key : Nat} {b : List Byte} {poison : Nat} (hm : s.MemOk) :
    (s.leaseFill q ctx line key b poison).MemOk := hm

theorem State.MemOk.leaseDrop {line : Nat} (hm : s.MemOk) : (s.leaseDrop line).MemOk := hm
theorem State.MemOk.cmdStatus {id st va : Nat} (hm : s.MemOk) : (s.cmdStatus id st va).MemOk := hm.modCmd
theorem State.MemOk.setCore {k : Nat} {x : Core} (hm : s.MemOk) : (s.setCore k x).MemOk := hm
theorem State.MemOk.modCore {k : Nat} {f : Core → Core} (hm : s.MemOk) : (s.modCore k f).MemOk := hm.setCore
theorem State.MemOk.modGroup {k g : Nat} {f : Group → Group} (hm : s.MemOk) : (s.modGroup k g f).MemOk := hm.modCore

theorem State.MemOk.launchStatus {k st : Nat} (hm : s.MemOk) : (s.launchStatus k st).MemOk := by
  unfold Machine.State.launchStatus
  split
  exacts [hm, hm.update]

theorem State.MemOk.fillArrived {k line : Nat} {b : List Byte} {poison : Nat} (hm : s.MemOk) :
    (s.fillArrived k line b poison).MemOk := hm.modCore

theorem State.MemOk.loseRemote {r : Remote} (hm : s.MemOk) : (s.loseRemote r).MemOk := by
  unfold Machine.State.loseRemote
  extract_lets s₁ s₂ s₃ s₄
  have h₁ : s₁.MemOk := hm.update
  have h₃ : s₃.MemOk := h₁.incFld.logFault
  have h₄ : s₄.MemOk := h₃.update
  split
  · exact h₄.cmdStatus
  · exact h₄.cmdStatus
  · extract_lets
    split
    rename_i e₅
    have h₅ := h₄.launchStatus.fresh.of_eq_snd e₅
    exact h₅.fillArrived.ite (h₅.modGroup.ite h₅)
  · exact h₄

theorem State.MemOk.putStream {x : IssStream} (hm : s.MemOk) : (s.putStream x).MemOk := hm

theorem State.MemOk.sendRemote {kind : RemoteKind} {pkg ctx func stream addr : Nat} {b : LinkBody} {w : Waiter}
    (hm : s.MemOk) : (s.sendRemote kind pkg ctx func stream addr b w).MemOk := by
  unfold Machine.State.sendRemote
  extract_lets
  split
  · next e₁ => exact (hm.update.inject e₁).update
  · exact hm.update.update.routeDrop.loseRemote

theorem State.MemOk.remoteRead {ctx func ga key : Nat} {device : Bool} {w : Waiter} (hm : s.MemOk) :
    (s.remoteRead ctx func ga key device w).MemOk := hm.ite (hm.sendRemote.update.ite hm.sendRemote)

theorem State.MemOk.countAccess {pkg ctx stream : Nat} (hm : s.MemOk) : (s.countAccess pkg ctx stream).2.MemOk := by
  unfold Machine.State.countAccess
  split
  exacts [hm, hm.putStream]

theorem State.MemOk.remoteWrite {ctx func ga key stream : Nat} {b : List Byte} {poison : Bool} {w : Waiter}
    (hm : s.MemOk) : (s.remoteWrite ctx func ga key stream b poison w).MemOk := by
  unfold Machine.State.remoteWrite
  split
  rename_i e₁
  exact (hm.countAccess.of_eq_snd e₁).leaseDrop.sendRemote

theorem State.MemOk.remoteAtomic {ctx func ga key stream : Nat} {op : AtomOp} {size : Nat} {x y : W64} {eng : Nat}
    {w : Waiter} (hm : s.MemOk) : (s.remoteAtomic ctx func ga key stream op size x y eng w).MemOk := by
  unfold Machine.State.remoteAtomic
  split
  rename_i e₁
  split
  rename_i e₂
  exact ((hm.countAccess.of_eq_snd e₁).nextRTag.of_eq_snd e₂).leaseDrop.sendRemote

theorem State.MemOk.remoteAddLine {ctx func ga key stream : Nat} {sectors spoil : BitVec 4} {rop : Nat} {exact : Bool}
    {anchor : Int} {payload : List Byte} {eng : Nat} {w : Waiter} (hm : s.MemOk) :
    (s.remoteAddLine ctx func ga key stream sectors spoil rop exact anchor payload eng w).MemOk := by
  unfold Machine.State.remoteAddLine
  split
  rename_i e₁
  split
  rename_i e₂
  exact ((hm.countAccess.of_eq_snd e₁).nextRTag.of_eq_snd e₂).leaseDrop.sendRemote

theorem State.MemOk.remoteFinal {ctx func ga key stream : Nat} {v : W64} {w : Waiter} (hm : s.MemOk) {t : State}
    (e : s.remoteFinal ctx func ga key stream v w = some t) : t.MemOk := by
  unfold Machine.State.remoteFinal at e
  extract_lets at e
  split at e
  · cases e
  · exact hm.putStream.leaseDrop.sendRemote.of_some e

theorem State.MemOk.reply {m : LinkMsg} {b : LinkBody} (hm : s.MemOk) : (s.reply m b).MemOk := hm.answer

theorem State.MemOk.homeWrite {key a : Nat} {b : List Byte} (hm : s.MemOk) : (s.homeWrite key a b).1.MemOk := by
  unfold Machine.State.homeWrite
  refine hm.foldl_fst fun _ _ hs => ?_
  split
  rename_i e₂
  exact hs.pwrite.of_eq e₂

theorem State.MemOk.performFinal {t : Tracker} {h : HeldFinal} (hm : s.MemOk) : (s.performFinal t h).MemOk := by
  unfold Machine.State.performFinal
  extract_lets
  split
  rename_i e₁
  exact (hm.putTracker.homeWrite.of_eq e₁).answer

theorem State.MemOk.releaseFinals {n : Nat} (hm : s.MemOk) : (State.releaseFinals n s).MemOk := by
  induction n generalizing s with
  | zero => exact hm
  | succ n ih =>
    unfold Machine.State.releaseFinals
    split
    · exact hm
    · exact ih hm.performFinal

theorem State.MemOk.releaseAll (hm : s.MemOk) : s.releaseAll.MemOk := hm.releaseFinals

theorem State.MemOk.countLanded {pkg ctx stream span : Nat} (hm : s.MemOk) :
    (s.countLanded pkg ctx stream span).MemOk := by
  unfold Machine.State.countLanded
  split
  · exact hm
  · split
    exacts [hm, hm.putTracker.releaseAll]

theorem State.MemOk.serveRemote {m : LinkMsg} (hm : s.MemOk) : (s.serveRemote m).MemOk := by
  unfold Machine.State.serveRemote
  extract_lets
  split
  · extract_lets
    split
    · refine State.MemOk.reply (State.MemOk.foldl_fst hm fun _ _ hx => ?_)
      split <;> next e₁ => exact hx.pread.of_eq e₁
    · exact hm.reply
  · extract_lets
    split
    · exact hm.reply
    · split
      · split
        rename_i e₁
        have h₁ := hm.homeWrite.of_eq e₁
        extract_lets s₂ s₃
        have h₂ : s₂.MemOk := State.MemOk.ite (Memory.poison_wf _ _ _ h₁) h₁
        exact h₂.reply.countLanded.ite h₂.reply
      · exact hm.reply
  · extract_lets
    split
    · exact hm.reply
    · split
      exacts [hm.putTracker.releaseAll, hm.reply]
  · extract_lets _ _ _ _ r
    have hr : r.1.MemOk := by
      refine hm.once fun _ hs => ?_
      split <;> next e₁ => exact hs.atomicAt.of_eq e₁
    exact hm.reply.ite ((hr.reply.ite hr.reply.countLanded).ite hm.reply)
  · extract_lets _ _ _ _ r
    have hr : r.1.MemOk := by
      refine hm.once fun _ hs => ?_
      split
      rename_i e₁
      exact hs.addLineAt.of_eq e₁
    exact hm.reply.ite ((hr.reply.ite hr.reply.countLanded).ite hm.reply)
  · exact hm

theorem State.MemOk.dropRemote {tag : Nat} (hm : s.MemOk) : (s.dropRemote tag).MemOk := hm

theorem State.MemOk.remoteDone {r : Remote} {st : Nat} {old : W64} (hm : s.MemOk) : (s.remoteDone r st old).MemOk := by
  unfold Machine.State.remoteDone
  extract_lets _ s₂
  have h₂ : s₂.MemOk := hm.dropRemote.update.ite hm.dropRemote
  split
  · exact h₂.cmdStatus
  · exact h₂.cmdStatus
  · extract_lets _ s₃
    have h₃ : s₃.MemOk := h₂.ite h₂.launchStatus
    exact h₃.modGroup.ite h₃
  · exact h₂

theorem State.MemOk.remoteData {r : Remote} {b : List Byte} {poison : Nat} (hm : s.MemOk) :
    (s.remoteData r b poison).MemOk := by
  unfold Machine.State.remoteData
  extract_lets _ s₂
  have h₂ : s₂.MemOk := hm.dropRemote.ite hm.dropRemote.leaseFill
  split
  exacts [h₂.fillArrived, h₂.modCmd, h₂]

theorem State.MemOk.modRemote {tag : Nat} {f : Remote → Remote} (hm : s.MemOk) : (s.modRemote tag f).MemOk := hm

theorem State.MemOk.ctlRefused {tag : Nat} (hm : s.MemOk) : (ctlRefused tag s).MemOk := by
  unfold Machine.ctlRefused
  split
  exacts [hm, hm.modRemote]

theorem State.MemOk.refusedResend {tag : Nat} (hm : s.MemOk) : (refusedResend tag s).MemOk := by
  unfold Machine.refusedResend
  split
  · exact hm
  · split
    · exact hm
    · split
      · extract_lets
        split
        · next e₁ => exact hm.modRemote.incFld.inject e₁
        · exact hm.modRemote.incFld.routeDrop.loseRemote
      · exact hm

theorem State.MemOk.e2eTimeout {tag : Nat} (hm : s.MemOk) : (e2eTimeout tag s).MemOk := by
  unfold Machine.e2eTimeout
  split
  · exact hm
  · split
    · split
      · exact hm.loseRemote
      · split
        · next e₁ => exact (hm.inject e₁).modRemote.incFld
        · exact hm.routeDrop.loseRemote
    · exact hm

theorem State.MemOk.finalTimeout {pkg ctx stream : Nat} (hm : s.MemOk) : (finalTimeout pkg ctx stream s).MemOk := by
  unfold Machine.finalTimeout
  split
  exacts [hm, (hm.update.foldl fun _ _ hs => hs.answer).ite hm]

/-! ### What the outputs of a command are -/

theorem State.MemOk.spoilVa {iss : Issuer} {va n : Nat} (hm : s.MemOk) : (s.spoilVa iss va n).MemOk := by
  unfold Machine.State.spoilVa
  split
  rename_i e₁
  refine (hm.fresh.of_eq_snd e₁).foldl fun _ _ ht => ?_
  split
  exacts [ht, ht.pwrite.ite ht]

theorem State.MemOk.spoilOutputs {c : Cmd} (hm : s.MemOk) : (s.spoilOutputs c).MemOk :=
  hm.foldl fun _ _ hs => hs.spoilVa

/-! ### Link reception, retry and training (10.3) -/

theorem State.MemOk.bumpLink {l i n : Nat} (hm : s.MemOk) : (s.bumpLink l i n).MemOk := hm.bump
theorem State.MemOk.setDownCause {l c : Nat} (hm : s.MemOk) : (s.setDownCause l c).MemOk := hm.ite hm.setFld.logFault

theorem State.MemOk.forward {m : LinkMsg} (hm : s.MemOk) : (s.forward m).MemOk := by
  unfold Machine.State.forward
  split
  · exact hm.routeDrop
  · split
    exacts [hm.routeDrop, hm.bumpLink.enqueue]

theorem State.MemOk.injectAgain {m : LinkMsg} (hm : s.MemOk) : (s.injectAgain m).MemOk := by
  unfold Machine.State.injectAgain
  split
  · next e₁ => exact hm.inject e₁
  · split
    exacts [hm.routeDrop.loseRemote, hm.routeDrop]

theorem State.MemOk.linkDown {l cause : Nat} (hm : s.MemOk) : (s.linkDown l cause).MemOk := by
  unfold Machine.State.linkDown
  extract_lets
  refine hm.setLink.setFld.setFld.setDownCause.foldl fun _ _ hs => ?_
  split
  · exact hs.injectAgain
  · split
    exacts [hs.routeDrop, hs.enqueue]

theorem State.MemOk.replayAll {l : Nat} (hm : s.MemOk) : (s.replayAll l).MemOk :=
  hm.ite (hm.setLink.incFld.bumpLink.foldl fun _ _ hs => hs.emit)

theorem State.MemOk.replayTimeout {l : Nat} (hm : s.MemOk) : (replayTimeout l s).MemOk := hm.replayAll.ite hm

theorem State.MemOk.nakResend {l : Nat} (hm : s.MemOk) : (nakResend l s).MemOk := by
  unfold Machine.nakResend
  split
  exacts [hm, hm.modLink.emit.ite hm]

theorem State.MemOk.takeAck {l : Nat} {ack : BitVec 12} (hm : s.MemOk) : (s.takeAck l ack).MemOk := hm.setLink.ite hm

theorem State.MemOk.takeCredits {l : Nat} {cs : List (LinkClass × Nat × Nat)} (hm : s.MemOk) :
    (s.takeCredits l cs).MemOk := hm.modLink

theorem State.MemOk.ctlTrain {l pkg peerLink vlo vhi compat : Nat} (hm : s.MemOk) :
    (ctlTrain l pkg peerLink vlo vhi compat s).MemOk := by
  unfold Machine.ctlTrain
  split
  · refine hm.setFld.setFld.setFld.linkDown.ite ?_
    exact hm.setFld.setFld.setFld.setFld.setFld.setFld.setFld.modLink.logFault
  · exact hm

theorem State.MemOk.linkTrain {l : Nat} {o : TrainOutcome} (hm : s.MemOk) : (linkTrain l o s).MemOk := by
  unfold Machine.linkTrain
  split
  · split
    · split
      exacts [hm.setFld.modLink.replayAll, hm]
    · split
      · split
        exacts [hm.setLink.setFld.transmit, hm.modLink.setDownCause]
      · exact hm
  · exact hm

theorem State.MemOk.linkRetrain {l : Nat} (hm : s.MemOk) : (linkRetrain l s).MemOk := hm.linkDown.modLink.ite hm

theorem State.MemOk.linkRecovery {l : Nat} {lockLoss : Bool} (hm : s.MemOk) : (linkRecovery l lockLoss s).MemOk :=
  hm.setFld.incFld.setLink.ite hm

theorem State.MemOk.linkRecoveryFail {l : Nat} (hm : s.MemOk) : (linkRecoveryFail l s).MemOk := by
  unfold Machine.linkRecoveryFail
  split
  exacts [hm, hm.linkDown.ite hm]

theorem State.MemOk.laserInputLoss {e w durNs : Nat} (hm : s.MemOk) : (laserInputLoss e w durNs s).MemOk :=
  (hm.foldl fun _ _ hs => hs.setFld.setDownCause.ite hs.setFld.linkDown).ite hm

theorem State.MemOk.ctlMgmt {l : Nat} {b : List Byte} (hm : s.MemOk) : (ctlMgmt l b s).MemOk := hm.update.ite hm

theorem State.MemOk.isolateGuest {site cause : Nat} (hm : s.MemOk) : (s.isolateGuest site cause).MemOk :=
  hm.setFld.setFld.setFld.setFld.setDomain.reclaimUcc.logFault

theorem State.MemOk.guestRetrain {site : Nat} {o : TrainOutcome} (hm : s.MemOk) : (guestRetrain site o s).MemOk := by
  unfold Machine.guestRetrain
  split
  · extract_lets s₁
    have h₁ : s₁.MemOk := hm.setDomain.setFld
    split
    exacts [h₁.setFld.setFld.setFld.update, h₁.isolateGuest]
  · exact hm

theorem State.MemOk.ctlCap {site : Nat} {b : List Byte} (hm : s.MemOk) : (ctlCap site b s).MemOk := by
  unfold Machine.ctlCap
  split
  · split
    · extract_lets _ s₁ s₂
      have h₂ : s₂.MemOk := hm.setReg.foldl fun _ _ hs => hs.setReg
      exact h₂.setFld.emit
    · exact hm.isolateGuest
  · exact hm

theorem State.MemOk.guestCapTimeout {site : Nat} (hm : s.MemOk) : (guestCapTimeout site s).MemOk :=
  hm.isolateGuest.ite hm

theorem State.MemOk.guestIsolate {site : Nat} {linkFailed : Bool} (hm : s.MemOk) :
    (guestIsolate site linkFailed s).MemOk := (hm.isolateGuest.ite (hm.isolateGuest.ite hm)).ite hm

theorem State.MemOk.guestPowerExceeded {site watts durNs : Nat} (hm : s.MemOk) :
    (guestPowerExceeded site watts durNs s).MemOk := hm.isolateGuest.ite hm

/-! ### Functions (12) -/

theorem State.MemOk.vfCreateDo {r : List Byte} (hm : s.MemOk) : (vfCreateDo s r).1.MemOk :=
  hm.writePhys.writePhys.update.foldl fun _ _ hs => hs.resetReg

theorem State.MemOk.vfDestroyDo {r : List Byte} (hm : s.MemOk) : (vfDestroyDo s r).1.MemOk := hm

theorem State.MemOk.mbxWrite {f : Nat} {v : Func → MbxVerdict} {upd : Func → Func} {msg : Func → Option (Nat × Nat)}
    (hm : s.MemOk) : (s.mbxWrite f v upd msg).MemOk := by
  unfold Machine.State.mbxWrite
  split
  · exact hm
  · split
    · exact hm
    · exact hm.modFunc
    · extract_lets
      split
      exacts [hm.modFunc.sendMsix, hm.modFunc]

theorem State.MemOk.m2tTail {f : Nat} {v : W32} (hm : s.MemOk) : (s.m2tTail f v).MemOk := hm.mbxWrite
theorem State.MemOk.m2tHead {f : Nat} {v : W32} (hm : s.MemOk) : (s.m2tHead f v).MemOk := hm.mbxWrite
theorem State.MemOk.t2mTail {f : Nat} {v : W32} (hm : s.MemOk) : (s.t2mTail f v).MemOk := hm.mbxWrite
theorem State.MemOk.t2mHead {f : Nat} {v : W32} (hm : s.MemOk) : (s.t2mHead f v).MemOk := hm.mbxWrite
theorem State.MemOk.queueCreateDo {r : List Byte} (hm : s.MemOk) : (queueCreateDo s r).1.MemOk := hm.setQueue
theorem State.MemOk.ctxCreateDo {r : List Byte} (hm : s.MemOk) : (ctxCreateDo s r).1.MemOk := hm
theorem State.MemOk.workDeclareDo {r : List Byte} (hm : s.MemOk) : (workDeclareDo s r).1.MemOk := hm

/-! ### Gauges, voltages and reservations (11) -/

theorem State.MemOk.updateReservations (hm : s.MemOk) : s.updateReservations.MemOk :=
  (hm.foldl fun _ _ hs => hs.setFld).setFld

/-! ### Fetch and admission (07.11 to 07.13) -/

theorem State.MemOk.headEntry {x : Queue} (hm : s.MemOk) : (s.headEntry x).1.MemOk := by
  unfold Machine.State.headEntry
  split
  · next e₁ => exact hm.readPhys.of_eq e₁
  · rename_i e₁
    have h₁ := hm.readPhys.of_eq e₁
    split
    · split
      · exact h₁
      · split <;> next e₂ => exact h₁.readPhys.of_eq e₂
    · exact h₁

theorem State.MemOk.duplicate {q : Nat} {x : Queue} {ctx : Nat} {d : Dup} (hm : s.MemOk) :
    (s.duplicate q x ctx d).MemOk := by
  unfold Machine.State.duplicate
  split
  exacts [hm.setQueue.writeRecord, hm.setQueue]

theorem State.MemOk.reject {q func : Nat} {r : List Byte} {status : Nat} (hm : s.MemOk) :
    (s.reject q func r status).MemOk := hm.bump.bumpFn.finishRecord

theorem State.MemOk.noteBusy {tiles : List Nat} {busy : Option Frac} (hm : s.MemOk) :
    (s.noteBusy tiles busy).MemOk := by
  unfold Machine.State.noteBusy
  split
  exacts [hm, hm.foldl fun _ _ hs => hs.modTile]

theorem State.MemOk.takeIn {q : Nat} {x : Queue} {r : List Byte} {tSub : W64} {tiles : List Nat} {twc : Option Frac}
    (hm : s.MemOk) : (s.takeIn q x r tSub tiles twc).MemOk := (hm.bump.bump.ite hm.bump).update.noteBusy

theorem State.MemOk.fetchOne {status : State → Queue → List Byte → Nat}
    {work : State → List Byte → List Nat × Nat × Nat} {q : Nat} (hm : s.MemOk) : (s.fetchOne status work q).MemOk := by
  unfold Machine.State.fetchOne
  split
  · exact hm
  · split
    · exact hm
    · split <;> rename_i e₁ <;> have h₁ := hm.headEntry.of_eq e₁
      · exact h₁.faultQueue
      · exact h₁
      · extract_lets
        split
        · exact h₁.duplicate
        · split
          · exact h₁.setQueue.reject
          · split
            · exact h₁.setQueue.reject
            · split
              · exact h₁.setQueue.reject
              · split
                · exact h₁.setQueue.reject
                · split
                  · exact h₁.setQueue.reject
                  · exact h₁.setQueue.reject.ite (h₁.setQueue.ite h₁.setQueue.takeIn)

/-! ### Tiles and power domains -/

theorem State.MemOk.writeBackLine {l : L1Line} (hm : s.MemOk) : (s.writeBackLine l).MemOk := by
  unfold Machine.State.writeBackLine
  split
  · exact hm
  · extract_lets
    split
    · next e₁ => exact hm.writeMasked.of_eq e₁
    · next e₁ => exact (hm.writeMasked.of_eq e₁).logFault

theorem State.MemOk.cleanCore {k : Nat} (hm : s.MemOk) : (s.cleanCore k).MemOk :=
  (hm.foldl fun _ _ hs => hs.writeBackLine).modCore

theorem State.MemOk.invCore {k : Nat} (hm : s.MemOk) : (s.invCore k).MemOk := hm.cleanCore.modCore
theorem State.MemOk.clearScratch {t : Nat} (hm : s.MemOk) : (s.clearScratch t).MemOk := Memory.clearWindow_wf _ _ _ hm

theorem State.MemOk.dropCores {ks : List Nat} (hm : s.MemOk) : (s.dropCores ks).MemOk :=
  hm.foldl fun _ _ hs => hs.setCore

theorem State.MemOk.leaveTile {t : Nat} (hm : s.MemOk) : (s.leaveTile t).MemOk := by
  unfold Machine.State.leaveTile
  split
  exacts [hm.clearScratch.ite hm, hm]

theorem State.MemOk.resetTileRegs {t : Nat} (hm : s.MemOk) : (s.resetTileRegs t).MemOk :=
  hm.resetReg.resetReg.clearUnit.foldl fun _ _ hs => hs.resetReg.resetReg.clearUnit

theorem State.MemOk.unloadSlots {t : Nat} (hm : s.MemOk) : (s.unloadSlots t).MemOk := hm.foldl fun _ _ hs => hs.resetReg

theorem State.MemOk.scrubTile {t : Nat} (hm : s.MemOk) : (s.scrubTile t).MemOk :=
  (hm.foldl fun _ _ hs => hs.cleanCore).clearScratch.dropCores.unloadSlots

theorem State.MemOk.giveSlots {t p : Nat} (hm : s.MemOk) : (s.giveSlots t p).MemOk := by
  unfold Machine.State.giveSlots
  split
  exacts [hm, hm.foldl fun _ _ hs => hs.setReg]

theorem State.MemOk.tileOff {t : Nat} (hm : s.MemOk) : (s.tileOff t).MemOk :=
  hm.setDomain.clearScratch.dropCores.unloadSlots.resetTileRegs.flushTileTlbs

theorem State.MemOk.tileOnDo {t : Nat} (hm : s.MemOk) : (s.tileOnDo t).MemOk := hm.setDomain.setDomain

theorem State.MemOk.quarterOff {q i : Nat} (hm : s.MemOk) : (s.quarterOff q i).MemOk := by
  unfold Machine.State.quarterOff
  extract_lets s₁ _ s₂
  have h₂ : s₂.MemOk := hm.setDomain.setFld
  exact h₂.foldl fun _ _ hs => hs.modSlice.getD fun _ => hs.evict

theorem State.MemOk.quarterOn {q i : Nat} (hm : s.MemOk) : (s.quarterOn q i).MemOk := hm.setDomain.setFld

theorem State.MemOk.switchDo {d : Nat} {on : Bool} (hm : s.MemOk) : (s.switchDo d on).MemOk := by
  unfold Machine.State.switchDo
  split
  · exact hm
  · split
    · split
      · exact hm.setDomain.ite (Memory.clearWindow_wf _ _ _ hm.setDomain)
      · exact hm.setDomain.ite hm.tileOff
    · split
      · exact hm.quarterOn.ite hm.quarterOff
      · split
        · exact hm.setDomain.setFld
        · split
          · exact hm.setDomain.ite (hm.setDomain.foldl fun _ _ hs => hs.setDownCause.ite hs.linkDown)
          · exact hm.setDomain

theorem State.MemOk.scrubSeg {die seg : Nat} (hm : s.MemOk) : (s.scrubSeg die seg).MemOk :=
  Memory.clearWindow_wf _ _ _ hm

/-! ### Stitch markers (14.5) -/

theorem State.MemOk.heldWrite {held : List TlbEntry} {va : Nat} {b : List Byte} (hm : s.MemOk) :
    (s.heldWrite held va b).MemOk := by
  unfold Machine.State.heldWrite
  refine hm.foldl fun _ _ hs => ?_
  split
  exacts [hs, hs.writePhys]

theorem State.MemOk.heldPoison {held : List TlbEntry} {va : Nat} (hm : s.MemOk) : (s.heldPoison held va).MemOk := by
  unfold Machine.State.heldPoison
  split
  · exact State.MemOk.ite (Memory.poison_wf _ _ _ hm) hm
  · exact hm

theorem State.MemOk.endDump {d : Dump} {status : Nat} (hm : s.MemOk) : (s.endDump d status).MemOk := by
  unfold Machine.State.endDump
  extract_lets
  split
  exacts [hm.heldWrite, hm.heldWrite.update]

theorem State.MemOk.stopDumps {ctx : Nat} (hm : s.MemOk) : (s.stopDumps ctx).MemOk :=
  hm.update.foldl fun _ _ hs => hs.endDump

theorem State.MemOk.fireMark {n : Nat} {m : Marker} {c : Cmd} {status : Nat} (hm : s.MemOk) :
    (s.fireMark n m c status).MemOk := by
  unfold Machine.State.fireMark
  extract_lets skip _ _ s₁
  have hskip {t : State} (ht : t.MemOk) : (skip t).MemOk := ht.update
  have h₁ : s₁.MemOk := hm.update
  split
  · exact hskip hm
  · split
    · exact h₁.endDump
    · split
      · exact hskip h₁.endDump
      · exact h₁.update

theorem State.MemOk.fireMarkers {c : Cmd} {status : Nat} (hm : s.MemOk) : (s.fireMarkers c status).MemOk := by
  unfold Machine.State.fireMarkers
  refine hm.foldl fun _ _ hs => ?_
  split
  exacts [hs.fireMark, hs]

/-! ### Commands in flight -/

theorem State.MemOk.fenceScope {ctx scope : Nat} (hm : s.MemOk) : (s.fenceScope ctx scope).1.MemOk := by
  unfold Machine.State.fenceScope
  split
  · exact hm
  · split
    rename_i e₁
    have h₁ := hm.skeinFence.of_eq e₁
    exact h₁.update.ite h₁

theorem State.MemOk.beginCmd {c : Cmd} (hm : s.MemOk) : (s.beginCmd c).MemOk := by
  unfold Machine.State.beginCmd
  split
  · split
    rename_i e₁
    exact (hm.fenceScope.of_eq e₁).modCmd
  · exact hm

theorem State.MemOk.runCmd {id opcode : Nat} {body : State → Cmd → State × Option Nat} (hm : s.MemOk)
    (hb : ∀ t a, t.MemOk → (body t a).1.MemOk) : (s.runCmd id opcode body).MemOk := by
  unfold Machine.State.runCmd
  split
  · exact hm
  · split
    · extract_lets s₁
      have h₁ : s₁.MemOk := hm.beginCmd
      split
      · exact h₁
      · split <;> rename_i e₂ <;> have h₂ := (hb _ _ h₁).of_eq e₂
        · exact h₂
        · exact h₂.modCmd
    · exact hm

theorem State.MemOk.releaseTiles {id : Nat} (hm : s.MemOk) : (s.releaseTiles id).MemOk :=
  hm.foldl fun _ _ hs => hs.leaveTile.setFld.setTile.ite hs.leaveTile.setFld.setTile.setFld

theorem State.MemOk.dropWork {id : Nat} (hm : s.MemOk) : (s.dropWork id).MemOk := by
  unfold Machine.State.dropWork
  exact (hm.foldl fun _ _ hs => hs.modCore.setFld).update

theorem State.MemOk.dropRemotesOf {p : Remote → Bool} (hm : s.MemOk) : (s.dropRemotesOf p).MemOk := hm

theorem State.MemOk.logStatus {c : Cmd} {st : Nat} (hm : s.MemOk) : (s.logStatus c st).MemOk :=
  (hm.ite hm.logFault).ite (hm.logFault.ite hm)

theorem State.MemOk.countDone {c : Cmd} {st : Nat} (hm : s.MemOk) : (s.countDone c st).MemOk := by
  unfold Machine.State.countDone
  extract_lets _ s₂
  have h₂ : s₂.MemOk := hm.bumpFn.bumpFn.ite hm.bumpFn
  exact (h₂.bumpFn.ite h₂).bumpFn.bumpFn

theorem State.MemOk.meterCmd {c : Cmd} (hm : s.MemOk) : (s.meterCmd c).1.MemOk := by
  unfold Machine.State.meterCmd
  split
  · exact hm
  · split
    rename_i e₁
    exact hm.fresh.of_eq_snd e₁

theorem State.MemOk.finishCmd {id status : Nat} (hm : s.MemOk) : (s.finishCmd id status).MemOk := by
  unfold Machine.State.finishCmd
  split
  · exact hm
  · split
    rename_i e₁
    have h₁ := hm.meterCmd.of_eq e₁
    extract_lets _ _ s₂ s₃ s₄ s₅ u v
    have h₂ : s₂.MemOk := h₁.foldl fun _ _ hs => hs.setReg
    have h₅ : s₅.MemOk := h₂.releaseTiles.dropWork.logStatus.fireMarkers
    have hu : u.MemOk := h₅.countDone
    have hv : v.MemOk := hu.update
    split
    · exact h₅.update
    · exact hv.finishRecord

theorem State.MemOk.cancelCmd {id status : Nat} (hm : s.MemOk) : (s.cancelCmd id status).MemOk := by
  unfold Machine.State.cancelCmd
  extract_lets s₁
  have h₁ : s₁.MemOk := by
    unfold s₁
    split
    exacts [hm.spoilOutputs, hm]
  exact h₁.dropRemotesOf.modCmd.finishCmd

theorem State.MemOk.commandComplete {id : Nat} (hm : s.MemOk) : (commandComplete id s).MemOk := by
  unfold Machine.commandComplete
  split
  · exact hm
  · split
    · split
      rename_i e₁
      exact (hm.fenceScope.of_eq e₁).finishCmd
    · exact hm

/-! ### Frogging (13.4) -/

theorem State.MemOk.cutEntry {q status : Nat} {x : Queue} {r : List Byte} {n : Nat} (hm : s.MemOk) :
    (s.cutEntry q status x r n).MemOk := hm.setQueue.finishRecord

theorem State.MemOk.cutQueue {q status n : Nat} (hm : s.MemOk) : (State.cutQueue q status n s).MemOk := by
  induction n generalizing s with
  | zero => exact hm
  | succ n ih =>
    unfold Machine.State.cutQueue
    split
    · exact hm
    · split
      · exact hm
      · split
        · next e₁ => exact (hm.headEntry.of_eq e₁).faultQueue
        · next e₁ => exact ih (hm.headEntry.of_eq e₁).cutEntry

theorem State.MemOk.cutOff {ctx status : Nat} (hm : s.MemOk) : (s.cutOff ctx status).MemOk :=
  hm.foldl fun _ _ hs => hs.cutQueue

theorem State.MemOk.seqRecord {ctx : Nat} {x : SeqRec} {status : Nat} (hm : s.MemOk) :
    (s.seqRecord ctx x status).MemOk := by
  unfold Machine.State.seqRecord
  split
  rename_i e₁
  have h₁ := hm.fresh.of_eq_snd e₁
  extract_lets _ s₂
  have h₂ : s₂.MemOk := by
    unfold s₂
    split
    exacts [h₁.bumpFn, h₁]
  exact h₂.finishRecord

theorem State.MemOk.releaseSeqTiles {p : Nat} (hm : s.MemOk) : (s.releaseSeqTiles p).MemOk :=
  hm.foldl fun _ _ hs => hs.leaveTile.modTile.ite hs

theorem State.MemOk.endCmd {id status : Nat} (hm : s.MemOk) : (s.endCmd id status).MemOk := hm.modCmd

theorem State.MemOk.frogRsq {p status : Nat} {r : Rsq} (hm : s.MemOk) : (s.frogRsq p status r).MemOk := by
  unfold Machine.State.frogRsq
  split
  · exact hm
  · extract_lets s₁ s₂ s₃ _ s₄ s₅ s₆
    have h₃ : s₃.MemOk := hm.setFld.setFld.setFld.foldl fun _ _ hs => hs.seqRecord
    have h₅ : s₅.MemOk := h₃.releaseSeqTiles.foldl fun _ _ hs => hs.endCmd
    have h₆ : s₆.MemOk := by
      unfold s₆
      split
      exacts [h₅.endCmd, h₅]
    exact h₆.update

theorem State.MemOk.reclaim {p : Nat → Nat → Bool} (hm : s.MemOk) : (s.reclaim p).MemOk := by
  unfold Machine.State.reclaim
  extract_lets _ _ _ s₃
  have h₃ : s₃.MemOk := hm.reclaimUcc.update.foldl fun _ _ hs => hs.modCore
  exact h₃.ite (h₃.incFld.bump.foldl fun _ _ hs => hs.logFault)

theorem State.MemOk.thawCmds {f : Nat} (hm : s.MemOk) : (s.thawCmds f).MemOk := hm

theorem State.MemOk.abandonOps {f op : Nat} (hm : s.MemOk) : (s.abandonOps f op).MemOk :=
  hm.foldl fun _ _ hs => hs.cancelCmd

theorem State.MemOk.abandonFreeze {f : Nat} (hm : s.MemOk) : (s.abandonFreeze f).MemOk := by
  unfold Machine.State.abandonFreeze
  extract_lets
  split
  exacts [hm.abandonOps, hm.abandonOps.ite hm.abandonOps.modFunc.thawCmds.update.abandonOps]

theorem State.MemOk.frogCmd {status id : Nat} (hm : s.MemOk) : (s.frogCmd status id).MemOk := hm.cancelCmd

theorem State.MemOk.frog {ctx status : Nat} (hm : s.MemOk) : (s.frog ctx status).MemOk := by
  unfold Machine.State.frog
  extract_lets s₁ s₂ s₃ _ s₄ s₅ s₆ s₇ s₈ s₉ s₁₀
  have h₂ : s₂.MemOk := by
    unfold s₂
    split
    exacts [hm.bump.bumpFn.abandonFreeze, hm.bump]
  have h₃ : s₃.MemOk := h₂.cutOff
  have h₄ : s₄.MemOk := h₃.reclaim
  have h₆ : s₆.MemOk := h₄.dropCores.xlatDrop
  have h₇ : s₇.MemOk := h₆.foldl fun _ _ hs => hs.frogRsq
  have h₈ : s₈.MemOk := h₇.foldl fun _ _ hs => hs.frogCmd
  have h₉ : s₉.MemOk := h₈.stopDumps
  have h₁₀ : s₁₀.MemOk := h₉.update
  exact h₁₀.dropRemotesOf

theorem State.MemOk.frogAll {l : List Nat} {status : Nat} (hm : s.MemOk) : (s.frogAll l status).MemOk :=
  hm.foldl fun _ _ hs => hs.frog

/-! ### Jobs that span packages (10.8) -/

theorem State.MemOk.putJob {j : Job} (hm : s.MemOk) : (s.putJob j).MemOk := hm

theorem State.MemOk.failColl {id status : Nat} (hm : s.MemOk) : (s.failColl id status).MemOk := by
  unfold Machine.State.failColl
  split
  exacts [hm, hm.spoilOutputs.dropRemotesOf.endCmd]

theorem State.MemOk.fenceJob {j : Job} (hm : s.MemOk) : (s.fenceJob j).MemOk := by
  unfold Machine.State.fenceJob
  extract_lets s₁
  have h₁ : s₁.MemOk := by
    unfold s₁
    split
    exacts [hm.failColl, hm]
  exact h₁.putJob

theorem State.MemOk.tellMembers {ctx : Nat} {c : JobCur} {b : LinkBody} {here : State → State} (hm : s.MemOk)
    (hh : ∀ t, t.MemOk → (here t).MemOk) : (s.tellMembers ctx c b here).MemOk := by
  unfold Machine.State.tellMembers
  extract_lets _ s₁
  have h₁ : s₁.MemOk := hm.foldl fun _ _ hs => hs.answer
  exact (hh _ h₁).ite h₁

theorem State.MemOk.ctlAbort {epoch : W64} (hm : s.MemOk) : (ctlAbort epoch s).MemOk :=
  hm.foldl fun _ _ hs => hs.fenceJob

theorem State.MemOk.abortJob {j : Job} (hm : s.MemOk) : (s.abortJob j).MemOk := by
  unfold Machine.State.abortJob
  extract_lets s₁
  have h₁ : s₁.MemOk := by
    unfold s₁
    split
    · exact hm.tellMembers fun _ ht => ht
    · exact hm
  exact h₁.fenceJob.ctlAbort

theorem State.MemOk.checkJob {ctx : Nat} {epoch : W64} (hm : s.MemOk) : (s.checkJob ctx epoch).MemOk := by
  unfold Machine.State.checkJob
  split
  · exact hm
  · split
    exacts [hm, hm.abortJob.ite hm]

theorem State.MemOk.ctlColl {ctx : Nat} {epoch : W64} {number : Nat} {digest hash : W32} {rank : Nat} (hm : s.MemOk) :
    (ctlColl ctx epoch number digest hash rank s).MemOk := hm.update.foldl fun _ _ hs => hs.checkJob

/-! ### Package time (10.7) -/

theorem State.MemOk.modPeer {l : Nat} {f : TimePeer → TimePeer} (hm : s.MemOk) : (s.modPeer l f).MemOk := hm
theorem State.MemOk.timeUnlock {info : Nat} (hm : s.MemOk) : (s.timeUnlock info).MemOk := hm.setFld.setFld.postMgr

theorem State.MemOk.follow {l : Nat} (hm : s.MemOk) : (s.follow l).MemOk := by
  unfold Machine.State.follow
  extract_lets
  split
  · exact hm.setFld.update.setFld.timeUnlock.ite hm.setFld.update.setFld
  · split
    · exact hm.setFld.update.timeUnlock.ite hm.setFld.update
    · split
      rename_i e₁
      exact (hm.setFld.fresh.of_eq_snd e₁).update

theorem State.MemOk.chooseParent (hm : s.MemOk) : s.chooseParent.MemOk := by
  unfold Machine.State.chooseParent
  extract_lets _ s₁ s₂ s₃ u₃ _ s₄
  have h₂ : s₂.MemOk := (hm.setFld.ite hm).setFld
  split
  · have h₃ : u₃.MemOk := h₂.setFld.setFld.setFld
    exact h₃.update
  · split
    · have h₄ : s₄.MemOk := h₂.setFld.setFld.setFld
      exact h₄.update
    · extract_lets s₅
      have h₅ : s₅.MemOk := h₂.setFld.setFld.setFld
      exact h₅.update

theorem State.MemOk.ctlTime {l t1 t2 t3 t4 root depth : Nat} (hm : s.MemOk) :
    (ctlTime l t1 t2 t3 t4 root depth s).MemOk := by
  unfold Machine.ctlTime
  split
  · extract_lets _ _ _ _ s₃
    have h₃ : s₃.MemOk := hm.modPeer.setFld.setFld.chooseParent
    exact h₃.follow.ite h₃
  · exact hm

theorem State.MemOk.timeMessage {l depart echo echoArr root depth : Nat} (hm : s.MemOk) :
    (s.timeMessage l depart echo echoArr root depth).MemOk := hm.modPeer.modPeer.chooseParent.ite hm.modPeer.ctlTime

theorem State.MemOk.timeExchange {l : Nat} (hm : s.MemOk) : (timeExchange l s).MemOk := hm.chooseParent.enqueue.ite hm

theorem State.MemOk.timeRelock (hm : s.MemOk) : (timeRelock s).MemOk := by
  unfold Machine.timeRelock
  split
  exacts [hm.setFld.setFld.ite hm, hm]

theorem State.MemOk.timeHoldover (hm : s.MemOk) : (timeHoldover s).MemOk := by
  unfold Machine.timeHoldover
  split
  exacts [hm.timeUnlock.update.ite hm, hm]

theorem State.MemOk.ppsEdge {highNs : Nat} (hm : s.MemOk) : (ppsEdge highNs s).MemOk := by
  unfold Machine.ppsEdge
  extract_lets _ _ _ s₁ s₂ u
  split
  · exact hm.incFld
  · have h₁ : s₁.MemOk := hm.update
    have h₂ : s₂.MemOk := (h₁.update.ite h₁).ite hm
    have h₃ : u.MemOk := h₂.setReg
    exact h₃.update

theorem State.MemOk.deliver {l : Nat} {m : LinkMsg} (hm : s.MemOk) : (s.deliver l m).MemOk := by
  unfold Machine.State.deliver
  extract_lets
  split
  · exact hm.ctlTrain
  · exact hm.ctlMgmt
  · exact hm.ite hm.timeMessage
  · exact hm
  · exact hm.ite (hm.ctlColl.ite hm.forward)
  · exact hm.ite (hm.ctlAbort.ite hm.forward)
  · exact hm.ite (hm.ctlRefused.ite hm.forward)
  · split
    · exact hm
    · split
      · split
        exacts [hm.remoteDone, hm]
      · exact hm.forward
  · split
    · exact hm
    · split
      · split
        exacts [hm.remoteData, hm]
      · exact hm.forward
  · exact hm.ite (hm.serveRemote.ite hm.forward)
  · exact hm.ite (hm.serveRemote.ite hm.forward)
  · exact hm.ite (hm.serveRemote.ite hm.forward)
  · exact hm.ite (hm.serveRemote.ite hm.forward)
  · exact hm.ite (hm.serveRemote.ite hm.forward)

theorem State.MemOk.creditBack {l : Nat} {m : LinkMsg} (hm : s.MemOk) : (s.creditBack l m).MemOk := hm.emit

theorem State.MemOk.flitReceive {l : Nat} {f : Flit} (hm : s.MemOk) : (flitReceive l f s).MemOk := by
  unfold Machine.flitReceive
  extract_lets _ s₁ s₂ s₃ s₄ s₅ _ s₆
  have h₁ : s₁.MemOk := hm.incFld.bumpLink
  have h₃ : s₃.MemOk := hm.modLink.takeAck.takeCredits
  have h₄ : s₄.MemOk := h₃.replayAll.ite h₃
  have h₅ : s₅.MemOk := h₄.drain
  have h₆ : s₆.MemOk := h₅.setLink.emit
  split
  · exact hm
  · split
    · exact h₁.ite h₁.modLink.emit
    · split
      · exact h₅
      · split
        · exact h₆.foldl fun _ _ hs => hs.creditBack.bumpLink.deliver
        · exact h₅.ite h₅.incFld.bumpLink.emit

/-! ### The power controller (11) -/

theorem State.MemOk.modPwr {f : Pwr → Pwr} (hm : s.MemOk) : (s.modPwr f).MemOk := hm

theorem State.MemOk.setAlert {f : Fld} {on : Bool} (hm : s.MemOk) : (s.setAlert f on).MemOk := by
  unfold Machine.State.setAlert
  exact hm.setFld.ite hm.setFld.setFld.emit.update

theorem State.MemOk.updateShed (hm : s.MemOk) : s.updateShed.MemOk :=
  hm.setFld.setFld.modPwr.bump.ite (hm.setFld.setFld.modPwr.ite hm.setFld.setFld)

theorem State.MemOk.updateBelow (hm : s.MemOk) : s.updateBelow.MemOk := hm.setFld

theorem State.MemOk.shedNAssert {stableNs : Nat} (hm : s.MemOk) : (shedNAssert stableNs s).MemOk :=
  hm.incFld.ite hm.modPwr.setFld.updateShed

theorem State.MemOk.shedNDeassert {stableNs : Nat} (hm : s.MemOk) : (shedNDeassert stableNs s).MemOk :=
  hm.incFld.ite ((hm.modPwr.setFld.updateShed.ite hm.modPwr.modPwr).ite hm)

theorem State.MemOk.postPanel {p code info : Nat} (hm : s.MemOk) : (s.postPanel p code info).MemOk :=
  hm.foldl fun _ _ hs => hs.postEvent

theorem State.MemOk.applyCut {mw : Nat} (hm : s.MemOk) : (s.applyCut mw).MemOk :=
  ((hm.foldl fun _ _ hs => hs.postPanel.ite hs).foldl fun _ _ hs => hs.setFld).setFld.modPwr

theorem State.MemOk.grantGauge {slew : Bool} {p g : Nat} (hm : s.MemOk) : (s.grantGauge slew p g).MemOk := by
  unfold Machine.State.grantGauge
  extract_lets _ s₁
  have h₁ : s₁.MemOk := hm.postPanel.setFld.ite hm
  exact (h₁.bump.ite h₁).setFld.setFld

theorem State.MemOk.paceDie {n : Nat} (hm : s.MemOk) : (s.paceDie n).MemOk := (hm.ite hm.bump).setFld.setFld.setFld
theorem State.MemOk.paceDies (hm : s.MemOk) : s.paceDies.MemOk := hm.foldl fun _ _ hs => hs.paceDie

theorem State.MemOk.droopResponse {die lateBeats : Nat} (hm : s.MemOk) : (droopResponse die lateBeats s).MemOk :=
  hm.incFld.incFld.bump.bump.modPwr.ite hm

theorem State.MemOk.droopRecovery {die : Nat} (hm : s.MemOk) : (droopRecovery die s).MemOk := hm.modPwr

theorem State.MemOk.droopCaps (hm : s.MemOk) : s.droopCaps.MemOk := by
  unfold Machine.State.droopCaps
  refine State.MemOk.modPwr (hm.foldl fun _ _ hs => ?_)
  extract_lets
  exact hs.modPwr.ite (hs.modPwr.ite hs)

theorem State.MemOk.fillStep {fastMw avgMw : Nat} (hm : s.MemOk) : (s.fillStep fastMw avgMw).MemOk := by
  unfold Machine.State.fillStep
  extract_lets
  split
  rename_i e₁
  have h₁ := hm.fresh.of_eq_snd e₁
  exact (h₁.ite h₁.bump).modPwr.setFld

theorem State.MemOk.stopFiller {t : Nat} (hm : s.MemOk) : (s.stopFiller t).MemOk := hm.modPwr
theorem State.MemOk.endPowerCmds (hm : s.MemOk) : s.endPowerCmds.MemOk := hm.foldl fun _ _ hs => hs.endCmd

theorem State.MemOk.controlPeriod {fastMw : Nat} {load : List Nat} (hm : s.MemOk) :
    (controlPeriod fastMw load s).MemOk := by
  unfold Machine.controlPeriod
  split
  · exact hm
  · extract_lets
    split
    extract_lets _ s₂ _ s₄
    have h₂ : s₂.MemOk := hm.modPwr.setFld.setFld
    have h₄ : s₄.MemOk := (h₂.bump.ite h₂).updateBelow.droopCaps
    split
    extract_lets _ _ s₅ s₆ _ _ s₇ _ _ _ s₈
    have h₆ : s₆.MemOk := h₄.applyCut.ite h₄.applyCut.bump
    have h₈ : s₈.MemOk := h₆.setFld.foldl fun _ _ hs => hs.grantGauge
    exact h₈.paceDies.modPwr.fillStep.endPowerCmds

theorem State.MemOk.powerBackstop (hm : s.MemOk) : (powerBackstop s).MemOk := by
  unfold Machine.powerBackstop
  split
  · exact hm
  · split
    · exact hm
    · extract_lets s₁ s₂ s₃ s₄
      have h₁ : s₁.MemOk := hm.setFld.logFault
      have h₂ : s₂.MemOk := h₁.foldl fun _ _ hs => hs.postPanel
      have h₃ : s₃.MemOk := h₂.foldl fun _ _ hs => hs.postPanel
      have h₄ : s₄.MemOk := h₃.foldl fun _ _ hs => hs.setFld.setFld
      exact h₄.modPwr.setFld

theorem State.MemOk.showFailed (hm : s.MemOk) : s.showFailed.MemOk := hm.setFld.setAlert

theorem State.MemOk.takeReading {k : Nat} {v lo hi : Int} {rate : Option Int} (hm : s.MemOk) :
    (s.takeReading k v lo hi rate).1.MemOk := by
  unfold Machine.State.takeReading
  extract_lets
  split
  exacts [hm.update.incFld.showFailed, hm.update.showFailed]

theorem State.MemOk.attribute_ {nJ : Nat} (hm : s.MemOk) : (s.attribute_ nJ).MemOk := by
  unfold Machine.State.attribute_
  extract_lets
  split
  rename_i e₁
  exact (hm.fresh.of_eq_snd e₁).modPwr

theorem State.MemOk.capWindow {mW : Nat} (hm : s.MemOk) : (s.capWindow mW).MemOk :=
  hm.modPwr.setFld.setAlert.logFault.ite (hm.modPwr.setFld.setAlert.ite (hm.modPwr.setFld.ite hm.modPwr))

theorem State.MemOk.measureWindow {nJ vin10mV iin100mA baseW : Nat} (hm : s.MemOk) :
    (measureWindow nJ vin10mV iin100mA baseW s).MemOk := by
  unfold Machine.measureWindow
  split
  · exact hm
  · extract_lets
    split
    rename_i e₁
    have h₁ := hm.takeReading.of_eq e₁
    split
    rename_i e₂
    have h₂ := h₁.takeReading.of_eq e₂
    extract_lets _ s₃ s₄
    have h₃ : s₃.MemOk := h₂.setFld.setFld.ite h₂.setFld
    have h₄ : s₄.MemOk := h₃.setFld.ite h₃
    split
    rename_i e₅
    have h₅ := h₄.modPwr.setReg.setFld.fresh.of_eq_snd e₅
    exact h₅.setFld.setFld.update.attribute_.capWindow.updateBelow

theorem State.MemOk.capStep {k hi lo step : Nat} {temp : Int} (hm : s.MemOk) : (s.capStep k hi lo step temp).MemOk :=
  hm.modPwr.ite (hm.modPwr.ite (hm.modPwr.ite (hm.modPwr.ite hm)))

theorem State.MemOk.thermalUnit {u : Nat} {temp : Int} {tenth : Bool} (hm : s.MemOk) :
    (s.thermalUnit u temp tenth).MemOk :=
  hm.capStep.setFld.ite ((hm.foldl fun _ _ hs => hs.capStep).capStep.ite hm.capStep)

theorem State.MemOk.thermalStatus (hm : s.MemOk) : s.thermalStatus.MemOk := by
  unfold Machine.State.thermalStatus
  extract_lets _ hot s₁ _ _ _ s₂
  have h₁ : s₁.MemOk := by
    unfold s₁
    generalize hot = o
    split
    exacts [hm, hm.setFld.setFld]
  have h₂ : s₂.MemOk := h₁.setFld.setAlert
  exact h₂.logFault.ite h₂

theorem State.MemOk.sensorRead {rs : List Reading} (hm : s.MemOk) : (sensorRead rs s).MemOk := by
  unfold Machine.sensorRead
  extract_lets s₁ _ s₂
  have h₁ : s₁.MemOk := hm.foldl fun _ _ hs => hs.takeReading.ite hs
  have h₂ : s₂.MemOk := by
    refine h₁.foldl fun _ _ hs => ?_
    split
    exacts [hs.thermalUnit, hs]
  exact h₂.thermalStatus

theorem State.MemOk.hbmTempRead {h : Nat} {celsius : Int} (hm : s.MemOk) : (hbmTempRead h celsius s).MemOk := by
  unfold Machine.hbmTempRead
  split
  · extract_lets
    split
    rename_i e₁
    exact (hm.takeReading.of_eq e₁).setFld.modPwr.setFld.setFld.thermalStatus
  · exact hm

theorem State.MemOk.capSetDo {r : List Byte} (hm : s.MemOk) : (capSetDo s r).MemOk := hm.setFld.updateShed
theorem State.MemOk.slewSetDo {r : List Byte} (hm : s.MemOk) : (slewSetDo s r).MemOk := hm.setFld

theorem State.MemOk.shedLevelSetDo {r : List Byte} (hm : s.MemOk) : (shedLevelSetDo s r).MemOk :=
  hm.setFld.updateBelow.updateShed

theorem State.MemOk.shedDo (hm : s.MemOk) : (shedDo s).MemOk := hm.setFld.updateShed
theorem State.MemOk.restoreDo (hm : s.MemOk) : (restoreDo s).MemOk := (hm.setFld.ite hm.setFld.setFld.modPwr).updateShed
theorem State.MemOk.gaugeSetDo {r : List Byte} (hm : s.MemOk) : (gaugeSetDo s r).MemOk := hm.setFld.setFld

theorem State.MemOk.reserveDo {r : List Byte} (hm : s.MemOk) : (reserveDo s r).1.MemOk :=
  (hm.setFld.setFld.ite hm.setFld).updateReservations.updateBelow

theorem State.MemOk.onceThen {act : State → List Byte → State} {c : Cmd} (hm : s.MemOk)
    (ha : ∀ t a, t.MemOk → (act t a).MemOk) : (onceThen act s c).1.MemOk := by
  unfold Machine.onceThen
  split
  · exact (ha _ _ hm).modCmd
  · exact hm

theorem State.MemOk.domainSwitchDo {c : Cmd} (hm : s.MemOk) : (domainSwitchDo s c).1.MemOk := by
  unfold Machine.domainSwitchDo
  split
  exacts [(hm.update.stopFiller.ite hm.update).modCmd, hm]

theorem State.MemOk.domainSwitchDone {d : Nat} (hm : s.MemOk) : (domainSwitchDone d s).MemOk := by
  unfold Machine.domainSwitchDone
  split
  exacts [hm, hm.update.endCmd.ite hm.update.switchDo.endCmd]

/-! ### Tiles and units (09.2 to 09.4) -/

theorem State.MemOk.requestStop {t : Nat} {lc quantum rebind freeze : Bool} (hm : s.MemOk) :
    (s.requestStop t lc quantum rebind freeze).MemOk := by
  unfold Machine.State.requestStop
  extract_lets
  split
  exacts [hm, hm.setTile, hm.setTile.setFld]

theorem State.MemOk.preemptStopDone {t : Nat} (hm : s.MemOk) : (preemptStopDone t s).MemOk := by
  unfold Machine.preemptStopDone
  extract_lets
  split
  exacts [hm.setTile.ite hm, hm]

theorem State.MemOk.noteStashed {id : Nat} (hm : s.MemOk) : (s.noteStashed id).MemOk := hm.modCmd.ite hm

/-- What stashing an image changes beside the memory. (As a lemma about any state: on the state that `stashUnit` has there, the kernel
would evaluate the stash itself to compare the two memories.) -/
theorem State.MemOk.withImages {images : Tab Image} {nextImage : Nat} {resvs : List Resv} (hm : s.MemOk) :
    { s with images := images, nextImage := nextImage, resvs := resvs }.MemOk := hm.update

theorem State.MemOk.stashUnit {t : Nat} {u : TileUnit} (hm : s.MemOk) : (s.stashUnit t u).MemOk := by
  unfold Machine.State.stashUnit
  extract_lets _ _ s₁
  have h₁ : s₁.MemOk := hm.foldl fun _ _ hs => hs.cleanCore
  split
  rename_i e₂
  have h₂ := h₁.fresh.of_eq_snd e₂
  extract_lets _ _ s₃ s₄ s₅ s₆ s₇ s₈ _ s₉
  have h₅ : s₅.MemOk := h₂.heldWrite.dropCores.withImages
  have h₈ : s₈.MemOk := h₅.leaveTile.modTile.setFld.setFld.incFld.setReg
  exact h₈.bump.bump.bumpFn.noteStashed

theorem State.MemOk.abandonPre {t : Nat} {u : TileUnit} (hm : s.MemOk) : (s.abandonPre t u).MemOk :=
  hm.setFld.incFld.frog

theorem State.MemOk.stashDone {t : Nat} {accepted : Bool} (hm : s.MemOk) : (stashDone t accepted s).MemOk := by
  unfold Machine.stashDone
  extract_lets
  split
  exacts [(hm.stashUnit.ite hm.abandonPre).ite hm, hm]

theorem State.MemOk.preemptAbandon {t : Nat} (hm : s.MemOk) : (preemptAbandon t s).MemOk := by
  unfold Machine.preemptAbandon
  extract_lets
  split
  exacts [hm.abandonPre.ite hm, hm]

theorem State.MemOk.beUnitStart {t id : Nat} (hm : s.MemOk) : (beUnitStart t id s).MemOk := by
  unfold Machine.beUnitStart
  split
  exacts [hm, (hm.update.ite hm).ite (hm.beginCmd.stopFiller.modTile.bump.ite hm)]

theorem State.MemOk.quantumEnd {t : Nat} (hm : s.MemOk) : (quantumEnd t s).MemOk := by
  unfold Machine.quantumEnd
  extract_lets
  split
  exacts [hm.requestStop.ite hm, hm]

theorem State.MemOk.loadCore {k old : Nat} {c : Core} (hm : s.MemOk) : (s.loadCore k old c).MemOk := by
  unfold Machine.State.loadCore
  extract_lets
  split
  · exact hm.setCore
  · extract_lets
    split
    exacts [hm.setCore.update, hm.setCore.update.foldl fun _ _ hs => hs.remoteRead]

theorem State.MemOk.unitResume {t image : Nat} {crcOk : Bool} (hm : s.MemOk) : (unitResume t image crcOk s).MemOk := by
  unfold Machine.unitResume
  split
  · exact hm
  · split
    · exact hm
    · split
      · extract_lets _ _ s₁ s₂ _ s₃ s₄ s₅ s₆
        split
        · exact hm.update.endCmd
        · split
          · exact hm.frog
          · have h₁ : s₁.MemOk := hm.update
            have h₂ : s₂.MemOk := h₁.clearScratch
            have h₃ : s₃.MemOk := Memory.foldl_cellPut_wf h₂ _ _ _
            have h₄ : s₄.MemOk := h₃.foldl fun _ _ hs => hs.loadCore
            have h₅ : s₅.MemOk := h₄.stopFiller.modTile
            exact h₅.modCmd.bump.bump
      · exact hm

theorem State.MemOk.stopForLc {l : List Nat} (hm : s.MemOk) : (s.stopForLc l).MemOk :=
  hm.foldl fun _ _ hs => hs.requestStop

theorem State.MemOk.ownTiles {l : List Nat} {o : LcOwner} (hm : s.MemOk) : (s.ownTiles l o).MemOk :=
  hm.foldl fun _ _ hs => hs.stopFiller.modTile

theorem State.MemOk.lcDispatch {id : Nat} (hm : s.MemOk) : (lcDispatch id s).MemOk := by
  unfold Machine.lcDispatch
  split
  · exact hm
  · extract_lets
    split
    exacts [hm.ite (hm.stopForLc.ite (hm.beginCmd.ownTiles.setFld.setFld.foldl fun _ _ hs => hs.bump)), hm]

/-! ### Halts and stepping (14.8) -/

theorem State.MemOk.refuseDebug (hm : s.MemOk) : s.refuseDebug.MemOk := hm.setFld

theorem State.MemOk.haltOne {k : Nat} {g : Group} (hm : s.MemOk) : (s.haltOne k g).MemOk :=
  hm.ite (hm.modGroup.ite hm.modGroup)

theorem State.MemOk.dbgHaltGroup {die core group : Nat} (hm : s.MemOk) : (dbgHaltGroup die core group s).MemOk := by
  unfold Machine.dbgHaltGroup
  extract_lets
  split
  exacts [hm.refuseDebug, hm.refuseDebug.ite hm.haltOne]

theorem State.MemOk.dbgHaltCore {die core : Nat} (hm : s.MemOk) : (dbgHaltCore die core s).MemOk :=
  hm.refuseDebug.ite (hm.foldl fun _ _ hs => hs.haltOne).modCore

theorem State.MemOk.dbgResumeGroup {die core group : Nat} (hm : s.MemOk) : (dbgResumeGroup die core group s).MemOk := by
  unfold Machine.dbgResumeGroup
  extract_lets
  split
  exacts [hm.refuseDebug, hm.modGroup]

theorem State.MemOk.dbgResumeCore {die core : Nat} (hm : s.MemOk) : (dbgResumeCore die core s).MemOk :=
  hm.modCore.ite hm.refuseDebug

theorem State.MemOk.dbgStepGroup {die core group : Nat} (hm : s.MemOk) : (dbgStepGroup die core group s).MemOk := by
  unfold Machine.dbgStepGroup
  extract_lets
  split
  exacts [hm.refuseDebug, hm.refuseDebug.ite hm.modGroup]

theorem State.MemOk.haltDeferTimeout {die core group : Nat} (hm : s.MemOk) :
    (haltDeferTimeout die core group s).MemOk := by
  unfold Machine.haltDeferTimeout
  extract_lets
  split
  · exact hm
  · split
    exacts [hm, hm.update.setFld.modGroup.ite hm]

theorem State.MemOk.dbgRegRead (hm : s.MemOk) : s.dbgRegRead.2.MemOk := by
  unfold Machine.State.dbgRegRead
  split
  · exact hm
  · split
    rename_i e₁
    exact hm.fresh.of_eq_snd e₁

theorem State.MemOk.dbgRegWrite {v : W32} (hm : s.MemOk) : (s.dbgRegWrite v).MemOk := by
  unfold Machine.State.dbgRegWrite
  split
  exacts [hm.modGroup, hm.refuseDebug]

theorem State.MemOk.dbgRegAccess {wr : Bool} {v : W32} (hm : s.MemOk) : (dbgRegAccess wr v s).MemOk := by
  unfold Machine.dbgRegAccess
  split
  · exact hm.dbgRegWrite
  · split
    rename_i e₁
    exact (hm.dbgRegRead.of_eq_snd e₁).emit

theorem State.MemOk.dbgStepGo {t : Nat} (hm : s.MemOk) : (dbgStepGo t s).MemOk := by
  unfold Machine.dbgStepGo
  split
  exacts [hm.update.ite hm, hm]

theorem State.MemOk.lcHaltEnable {on : Bool} (hm : s.MemOk) : (lcHaltEnable on s).MemOk :=
  hm.setFld.ite hm.setFld.setFld

theorem State.MemOk.lcHaltActivate (hm : s.MemOk) : (lcHaltActivate s).MemOk := hm.setFld.ite hm

theorem State.MemOk.haltCmd {v : Nat} (hm : s.MemOk) : (s.haltCmd v).MemOk := by
  unfold Machine.State.haltCmd
  extract_lets
  split
  exacts [hm.dbgHaltGroup, hm.dbgHaltCore, hm.dbgResumeGroup, hm.dbgResumeCore, hm.dbgStepGroup, hm]

/-! ### Bodies that check again as they run -/

theorem State.MemOk.checkedBody {checks : State → List Byte → List (Bool × Nat)}
    {act : State → List Byte → State × Nat} {c : Cmd} (hm : s.MemOk) (ha : ∀ t a, t.MemOk → (act t a).1.MemOk) :
    (checkedBody checks act s c).1.MemOk := by
  unfold Machine.checkedBody
  extract_lets
  split
  · exact hm
  · split
    rename_i e₁
    exact (ha _ _ hm).of_eq e₁

/-! ### Panels, configuration and epochs (09) -/

theorem State.MemOk.modCfg {f : Settings → Settings} (hm : s.MemOk) : (s.modCfg f).MemOk := hm
theorem State.MemOk.modEpochs {f : Settings → Settings} (hm : s.MemOk) : (s.modEpochs f).MemOk := hm

theorem State.MemOk.takeTile {p t : Nat} (hm : s.MemOk) : (s.takeTile p t).MemOk :=
  (hm.ite hm.tileOnDo).stopFiller.dropCores.clearScratch.unloadSlots.flushTileTlbs.resetTileRegs.modTile

theorem State.MemOk.freshPanelRegs {p : Nat} (hm : s.MemOk) : (s.freshPanelRegs p).MemOk :=
  hm.foldl fun _ _ hs => hs.resetReg

theorem State.MemOk.panelCreateDo {r : List Byte} (hm : s.MemOk) : (panelCreateDo s r).1.MemOk := by
  unfold Machine.panelCreateDo
  extract_lets
  split
  rename_i s₁ _ e₁
  have h₁ : s₁.MemOk := by
    refine State.MemOk.of_eq ?_ e₁
    split
    exacts [hm.importKey, hm.generate]
  extract_lets s₂ s₃ s₄ _ s₅
  split
  · exact h₁
  · have h₂ : s₂.MemOk := h₁.update
    have h₄ : s₄.MemOk := h₂.modEpochs.freshPanelRegs.setFld.foldl fun _ _ hs => hs.takeTile
    have h₅ : s₅.MemOk := h₄.update
    exact h₅.clearUnit.updateReservations.paceDies

theorem State.MemOk.rebindTile {t : Nat} {dst : Option Nat} {off : Bool} (hm : s.MemOk) :
    (s.rebindTile t dst off).MemOk := by
  unfold Machine.State.rebindTile
  extract_lets src s₁ s₂ s₃ s₄
  have h₂ : s₂.MemOk := hm.stopFiller.modTile
  have h₃ : s₃.MemOk := h₂.tileOff.ite ((h₂.tileOnDo.ite h₂).ite h₂.scrubTile.flushTileTlbs.resetTileRegs)
  have h₄ : s₄.MemOk := by
    unfold s₄
    generalize src = o
    split
    · exact h₃.update.incFld
    · exact h₃
  split
  · exact h₄.update.modTile.giveSlots.incFld
  · exact h₄

theorem State.MemOk.panelDestroyDo {r : List Byte} (hm : s.MemOk) : (panelDestroyDo s r).1.MemOk := by
  unfold Machine.panelDestroyDo
  extract_lets
  split
  · exact hm
  · extract_lets s₁ s₂ s₃ s₄ s₅ s₆
    have h₁ : s₁.MemOk := hm.foldl fun _ _ hs => hs.rebindTile
    have h₃ : s₃.MemOk := h₁.keyOp.foldl fun _ _ hs => hs.modTile.ite hs
    have h₄ : s₄.MemOk := h₃.update
    have h₅ : s₅.MemOk := h₄.modEpochs.freshPanelRegs
    have h₆ : s₆.MemOk := h₅.update
    exact h₆.updateReservations.updateBelow.paceDies

theorem State.MemOk.panelRebindBody {c : Cmd} (hm : s.MemOk) : (panelRebindBody s c).1.MemOk := by
  unfold Machine.panelRebindBody
  extract_lets _ _ _ s₁ _ s₂ s₃
  have h₁ : s₁.MemOk := hm.modCmd
  have h₂ : s₂.MemOk := h₁.foldl fun _ _ hs => hs.rebindTile.modTile
  have h₃ : s₃.MemOk := h₂.modCfg.ite h₂
  split
  · exact hm
  · split
    · exact h₁.foldl fun _ _ hs => hs.requestStop
    · split
      · exact h₁
      · exact h₃.updateReservations.updateBelow.paceDies

theorem State.MemOk.stashPage {ctx q va : Nat} (hm : s.MemOk) : (s.stashPage ctx q va).1.MemOk := by
  unfold Machine.State.stashPage
  extract_lets
  split
  · next e₁ => exact hm.xlate.of_eq e₁
  · rename_i e₁
    have h₁ := hm.xlate.of_eq e₁
    split
    · next e₂ => exact h₁.xlate.of_eq e₂
    · rename_i e₂
      have h₂ := h₁.xlate.of_eq e₂
      extract_lets
      split <;> exact h₂

theorem State.MemOk.stashArea {ctx q va slots : Nat} (hm : s.MemOk) : (s.stashArea ctx q va slots).1.MemOk := by
  unfold Machine.State.stashArea
  refine hm.foldl_fst fun _ _ hs => ?_
  split
  · exact hs
  · split <;> next e₂ => exact hs.stashPage.of_eq e₂

theorem State.MemOk.stashAreas {ctx : Nat} {k : CtxClass} (hm : s.MemOk) : (s.stashAreas ctx k).1.MemOk := by
  unfold Machine.State.stashAreas
  refine hm.foldl_fst fun _ _ hs => ?_
  split
  · exact hs
  · split <;> next e₂ => exact hs.stashArea.of_eq e₂

theorem State.MemOk.configStageDo {r : List Byte} (hm : s.MemOk) : (configStageDo s r).1.MemOk := by
  unfold Machine.configStageDo
  split
  · split
    exacts [hm.setFld, hm.update]
  · split
    · exact hm.setFld
    · split
      · next e₁ => exact (hm.stashAreas.of_eq e₁).update
      · next e₁ => exact hm.stashAreas.of_eq e₁
  · exact hm

theorem State.MemOk.changeFrames {old : List Bool} (hm : s.MemOk) : (s.changeFrames old).MemOk := by
  refine hm.foldl fun _ _ hs => ?_
  split
  · exact hs
  · exact Memory.loseFrame_wf _ _ hs

theorem State.MemOk.commitAs {c : Settings} {todo : List CfgResource} (hm : s.MemOk) : (s.commitAs c todo).MemOk :=
  hm.update.changeFrames.updateReservations.updateBelow

theorem State.MemOk.pruneEpochs (hm : s.MemOk) : s.pruneEpochs.MemOk := hm
theorem State.MemOk.checkApplied (hm : s.MemOk) : s.checkApplied.MemOk := hm.update.postMgr.pruneEpochs.ite hm

theorem State.MemOk.configCommitDo (hm : s.MemOk) : (configCommitDo s).1.MemOk := by
  unfold Machine.configCommitDo
  split
  · exact hm
  · split
    · exact hm
    · split
      exacts [hm, hm.update.commitAs.checkApplied]

theorem State.MemOk.applyResource {r : CfgResource} (hm : s.MemOk) : (s.applyResource r).MemOk := by
  unfold Machine.State.applyResource
  split
  · exact hm.scrubSeg
  · split <;> next e₁ => exact (hm.stashAreas.of_eq e₁).update
  · exact hm

theorem State.MemOk.configApply {r : CfgResource} (hm : s.MemOk) : (configApply r s).MemOk :=
  hm.update.applyResource.checkApplied.ite hm

theorem State.MemOk.configRollback (hm : s.MemOk) : (configRollback s).MemOk :=
  hm.commitAs.setFld.postMgr.checkApplied.ite hm

theorem State.MemOk.compaction {t : Nat} (hm : s.MemOk) : (compaction t s).MemOk := by
  unfold Machine.compaction
  split
  · split
    · exact hm.requestStop
    · extract_lets src s₁
      have h₁ : s₁.MemOk := by
        unfold s₁
        generalize src = o
        split
        exacts [hm.tileOff, hm.rebindTile.modTile]
      exact h₁.updateReservations.paceDies
  · exact hm

theorem State.MemOk.respread {t : Nat} (hm : s.MemOk) : (respread t s).MemOk :=
  hm.rebindTile.modTile.updateReservations.paceDies.ite hm

/-! ### Observation (14) -/

theorem State.MemOk.freezeAs {on : Bool} (hm : s.MemOk) : (freezeAs s on).MemOk := hm.setFld.setFld

theorem State.MemOk.counterFreeze {on : Bool} {skewNs : Nat} (hm : s.MemOk) : (counterFreeze on skewNs s).MemOk :=
  hm.freezeAs.setFld

theorem State.MemOk.snapRecord {kinds skew : Nat} {lost frozen : Bool} (hm : s.MemOk) :
    (s.snapRecord kinds skew lost frozen).2.MemOk := by
  unfold Machine.State.snapRecord
  extract_lets
  split
  rename_i e₁
  exact (hm.fresh.of_eq_snd e₁).setFld.setFld

theorem State.MemOk.writePhysSt {slot a : Nat} {b : List Byte} (hm : s.MemOk) : (s.writePhysSt slot a b).1.MemOk := by
  unfold Machine.State.writePhysSt
  split
  · exact hm
  · split <;> next e₁ => exact hm.writePhys.of_eq e₁

theorem State.MemOk.snapshotDo {r : List Byte} (hm : s.MemOk) : (snapshotDo s r).1.MemOk := by
  unfold Machine.snapshotDo
  split
  rename_i e₁
  have h₁ := hm.fresh.of_eq_snd e₁
  extract_lets
  split
  rename_i e₂
  split
  rename_i e₃
  have h₃ := ((h₁.freezeAs.ite h₁).snapRecord.of_eq_snd e₂).writePhysSt.of_eq e₃
  exact h₃.freezeAs.ite h₃

theorem State.MemOk.counterSetDo {r : List Byte} (hm : s.MemOk) : (counterSetDo s r).1.MemOk := by
  unfold Machine.counterSetDo
  extract_lets _ s₁
  have h₁ : s₁.MemOk := hm.settleP.setReg
  exact h₁.setReg.ite h₁

theorem State.MemOk.samplerSetDo {r : List Byte} (hm : s.MemOk) : (samplerSetDo s r).1.MemOk := by
  unfold Machine.samplerSetDo
  extract_lets _ _ _ s₁ s₂ u _ s₃ s₄ w
  have hu : u.MemOk := hm.setReg.setReg.setReg.setReg
  have hw : w.MemOk := hm.setReg.setReg.setReg
  split <;> dsimp only
  · exact hu.update
  · exact hw.update

theorem State.MemOk.samplerRecord {skewNs : Nat} (hm : s.MemOk) : (samplerRecord skewNs s).MemOk := by
  unfold Machine.samplerRecord
  extract_lets _ s₁ _ _ drop
  have h₁ : s₁.MemOk := hm.update
  have hdrop {t : State} (ht : t.MemOk) : (drop t).MemOk := by
    unfold drop
    extract_lets u
    have hu : u.MemOk := ht.incFld
    exact hu.update
  split
  · split
    · exact hdrop h₁
    · split
      rename_i e₂
      have h₂ := h₁.snapRecord.of_eq_snd e₂
      extract_lets
      split <;> rename_i e₃ <;> have h₃ := h₂.writePhysSt.of_eq e₃
      · extract_lets u
        have hu : u.MemOk := h₃.setFld
        exact hu.update
      · exact hdrop h₃
  · exact hm

theorem State.MemOk.coreSample {die core group skid : Nat} {stalled : Bool} (hm : s.MemOk) :
    (coreSample die core group skid stalled s).MemOk := by
  unfold Machine.coreSample
  extract_lets _ _ _ trigger
  have htrigger {t : State} {a : Option Attr} (ht : t.MemOk) : (trigger t a).MemOk := ht.update.bump
  split
  · split
    · exact (htrigger hm).incFld.ite hm
    · split
      · exact (htrigger hm).incFld
      · split <;> rename_i e₂ <;> have h₂ := (htrigger hm).writePhysSt.of_eq e₂
        · exact h₂.setFld
        · exact h₂.incFld
  · exact hm

theorem State.MemOk.bwWindow (hm : s.MemOk) : (bwWindow s).MemOk := by
  unfold Machine.bwWindow
  extract_lets
  split
  · refine hm.update.foldl fun _ _ hs => ?_
    split
    rename_i e₂
    exact (hs.fresh.of_eq_snd e₂).setReg
  · exact hm

theorem State.MemOk.heldPage {ctx va : Nat} (hm : s.MemOk) : (s.heldPage ctx va).1.MemOk := by
  unfold Machine.State.heldPage
  split
  · next e₁ => exact hm.xlate.of_eq e₁
  · rename_i e₁
    have h₁ := hm.xlate.of_eq e₁
    split <;> exact h₁

theorem State.MemOk.heldPages {ctx va n : Nat} (hm : s.MemOk) : (s.heldPages ctx va n).1.MemOk := by
  unfold Machine.State.heldPages
  extract_lets
  refine hm.foldl_fst fun _ _ hs => ?_
  split
  · exact hs
  · split <;> next e₂ => exact hs.heldPage.of_eq e₂

theorem State.MemOk.stitchSetDo {r : List Byte} (hm : s.MemOk) : (stitchSetDo s r).1.MemOk := by
  unfold Machine.stitchSetDo
  extract_lets _ _ disarm
  have hdisarm {t : State} (ht : t.MemOk) : (disarm t).MemOk := by
    unfold disarm
    split
    · exact ht.update
    · exact ht
  split
  · exact hdisarm hm
  · split <;> rename_i e₁ <;> have h₁ := hm.heldPages.of_eq e₁
    · exact hdisarm h₁
    · split
      · exact h₁.update
      · exact h₁

theorem State.MemOk.dumpSourceOk {ctx src len : Nat} (hm : s.MemOk) : (s.dumpSourceOk ctx src len).1.MemOk := by
  unfold Machine.State.dumpSourceOk
  refine hm.foldl_fst fun _ _ hs => ?_
  split
  · split <;> next e₂ => exact hs.xlate.of_eq e₂
  · exact hs

theorem State.MemOk.dumpData {d : Dump} (hm : s.MemOk) : (s.dumpData d).1.MemOk := by
  unfold Machine.State.dumpData
  split
  rename_i e₁
  have h₁ := hm.dumpSourceOk.of_eq e₁
  split
  · exact h₁
  · refine h₁.foldl_fst fun _ _ ht => ?_
    split
    · next e₃ => exact ht.xlate.of_eq e₃
    · rename_i e₃
      have h₃ := ht.xlate.of_eq e₃
      split
      · next e₄ => exact h₃.pread.of_eq e₄
      · rename_i e₄
        have h₄ := h₃.pread.of_eq e₄
        extract_lets
        split
        exacts [h₄.heldWrite.heldPoison.heldPoison, h₄.heldWrite]

theorem State.MemOk.dumpCopy {n : Nat} (hm : s.MemOk) : (dumpCopy n s).MemOk := by
  unfold Machine.dumpCopy
  split
  · exact hm
  · split
    rename_i e₁
    exact (hm.dumpData.of_eq e₁).update.endDump

theorem State.MemOk.dumpDo {r : List Byte} (hm : s.MemOk) : (dumpDo s r).1.MemOk := by
  unfold Machine.dumpDo
  split <;> rename_i e₁ <;> have h₁ := hm.heldPages.of_eq e₁
  · exact h₁
  · extract_lets
    split
    rename_i e₂
    have h₂ := h₁.dumpData.of_eq e₂
    dsimp only
    exact h₂.endDump

/-! ### Reads with a side effect -/

theorem State.MemOk.peek {f : Nat} {r : Reg} {i : Nat} (hm : s.MemOk) : (s.peek f r i).1.MemOk := by
  unfold Machine.State.peek
  split
  · split
    rename_i e₁
    exact hm.fresh.of_eq_snd e₁
  · exact hm

/-! ### Cast-on (15) -/

theorem State.MemOk.loadC {power : Bool} {r : Reg} {i : Nat} {f : State → State} (hm : s.MemOk)
    (hf : ∀ t, t.MemOk → (f t).MemOk) : (s.loadC power r i f).MemOk := by
  unfold Machine.State.loadC
  split
  · exact hf _ hm
  · exact hm

theorem State.MemOk.takeModes {power : Bool} {fm : Nat} (hm : s.MemOk) : (s.takeModes power fm).MemOk := by
  unfold Machine.State.takeModes
  extract_lets _ _ s₁
  have h₁ : s₁.MemOk := hm.update
  split
  · exact h₁
  · exact h₁.foldl fun _ _ hs => hs.ite (Memory.loseFrame_wf _ _ hs)

theorem State.MemOk.loadConfig {power : Bool} (hm : s.MemOk) : (s.loadConfig power).MemOk := by
  unfold Machine.State.loadConfig
  extract_lets _ _ _ _ _ _ s₁ s₂ s₃ s₄ s₅ s₆ s₇ s₈ s₉ s₁₀ s₁₁ s₁₂ s₁₃
  have h₁ : s₁.MemOk := hm.update
  have h₄ : s₄.MemOk := h₁.setFld.setFld.setFld.setFld.setFld.setFld
  have h₅ : s₅.MemOk := h₄.loadC fun _ hs => hs.setFld
  have h₆ : s₆.MemOk := h₅.loadC fun _ hs => hs.setReg
  have h₇ : s₇.MemOk := h₆.loadC fun _ hs => hs.setFld
  have h₁₁ : s₁₁.MemOk := h₇.setFld.setFld.setFld.setFld
  have h₁₂ : s₁₂.MemOk := h₁₁.foldl fun _ _ hs => hs.loadC fun _ ht => ht.setFld
  have h₁₃ : s₁₃.MemOk := h₁₂.foldl fun _ _ hs => hs.loadC fun _ ht => ht.setFld
  exact h₁₃.takeModes

theorem State.MemOk.runCopy {b : Bool} (hm : s.MemOk) : (s.runCopy b).MemOk :=
  (hm.foldl fun _ _ hs => hs.setReg).update.setFld.setFld.setReg

theorem State.MemOk.checkDies {b : BootInputs} (hm : s.MemOk) : (s.checkDies b).1.MemOk :=
  (hm.foldl fun _ _ hs => hs.setReg).setReg.setReg.setFld.setFld.setFld.setFld.setFld

theorem State.MemOk.negotiate {b : BootInputs} (hm : s.MemOk) : (s.negotiate b).MemOk := by
  unfold Machine.State.negotiate
  extract_lets _ _ _ _ _ s₁
  have h₁ : s₁.MemOk := hm.foldl fun _ _ hs => hs.setReg
  exact (h₁.setFld.ite h₁.setFld.setFld).setFld.setFld.setFld.setFld

theorem State.MemOk.showDics (hm : s.MemOk) : s.showDics.MemOk := hm.foldl fun _ _ hs => hs.ite hs.setFld

theorem State.MemOk.hardRepairs {ok : Bool} (hm : s.MemOk) : (s.hardRepairs ok).MemOk :=
  hm.foldl fun _ _ hs => ((hs.foldl fun _ _ ht => ht.useSpare.setStack).ite hs).setStack

theorem State.MemOk.trainHbm {power : Bool} {b : BootInputs} {was : List Bool} (hm : s.MemOk) :
    (s.trainHbm power b was).1.MemOk := by
  unfold Machine.State.trainHbm
  extract_lets
  split
  rename_i s₁ e₁
  have h₁ : s₁.MemOk := hm.fresh.of_eq_snd e₁
  extract_lets s₂ s₃ s₄ s₅ s₆ s₇ s₈ s₉
  have h₂ : s₂.MemOk := by
    refine h₁.foldl fun _ _ hs => ?_
    extract_lets u
    split
    · exact hs.setFld.setReg.setFld
    · exact hs.setFld.setReg.setFld.setFld.setFld.setFld.setFld.setFld.setFld
  have h₃ : s₃.MemOk := h₂.update
  have h₆ : s₆.MemOk := h₃.setFld.setFld.setFld.setFld.setFld
  have h₇ : s₇.MemOk := h₆.logFault.ite h₆
  have h₈ : s₈.MemOk := h₇.foldl fun _ _ hs => hs.ite (Memory.loseFrame_wf _ _ hs)
  exact h₇.ite (h₈.foldl fun _ _ hs => hs.swLose)

theorem State.MemOk.bootstrap {power : Bool} (hm : s.MemOk) : (s.bootstrap power).1.MemOk := by
  unfold Machine.State.bootstrap
  extract_lets
  split
  split
  extract_lets s₁ s₂
  have h₁ : s₁.MemOk := hm.update
  have h₂ : s₂.MemOk := h₁.loadC fun _ hs => hs.setFld
  split
  rename_i e₃
  split
  rename_i e₄
  exact (h₂.writePhys.of_eq e₃).writePhys.of_eq e₄

theorem State.MemOk.commitSvn (hm : s.MemOk) : s.commitSvn.MemOk :=
  (hm.update.update.setFld.setFld.setFld.setFld.ite hm.update.setFld).ite hm

theorem State.MemOk.bootStep {n : Nat} (hm : s.MemOk) : (s.bootStep n).MemOk := hm.setFld

theorem State.MemOk.bootFail {step cause : Nat} {b : Boot} (hm : s.MemOk) : (s.bootFail step cause b).MemOk := by
  unfold Machine.State.bootFail
  exact hm.setFld.setFld.update

theorem State.MemOk.bootDomains (hm : s.MemOk) : s.bootDomains.MemOk := hm.foldl fun _ _ hs => hs.setDomain

theorem State.MemOk.bootRest {power : Bool} {b : BootInputs} {was : List Bool} (hm : s.MemOk) :
    (s.bootRest power b was).MemOk := by
  unfold Machine.State.bootRest
  extract_lets s₁ _ s₂ s₃ s₄
  have h₂ : s₂.MemOk := hm.setFld.update
  have h₄ : s₄.MemOk := (h₂.emit.ite h₂).setReg
  split
  · exact hm.setFld.bootFail
  · split <;> rename_i e₅ <;> have h₅ := h₄.checkDies.of_eq e₅
    · exact h₅.bootFail
    · extract_lets s₆ s₇
      have h₆ : s₆.MemOk := h₅.bootStep.negotiate.showDics.bootDomains.bootStep
      have h₇ : s₇.MemOk := h₆.hardRepairs.ite h₆
      split <;> rename_i e₈ <;> have h₈ := h₇.trainHbm.of_eq e₈
      · exact h₈.bootFail
      · extract_lets s₉ s₁₀
        have h₁₀ : s₁₀.MemOk := h₈.bootStep.emit.bootStep
        split <;> rename_i e₁₁ <;> have h₁₁ := h₁₀.bootstrap.of_eq e₁₁
        · exact h₁₁.bootFail
        · extract_lets u s₁₂ s₁₃ s₁₄
          have hu : u.MemOk := h₁₁.bootStep.setFld
          have h₁₂ : s₁₂.MemOk := hu.update
          have h₁₃ : s₁₃.MemOk := h₁₂.commitSvn.updateShed.updateBelow.paceDies
          exact (h₁₃.postMgr.ite h₁₃).foldl fun _ _ hs => hs.postMgr.ite hs

theorem State.MemOk.bootLoad {power : Bool} {b : BootInputs} (hm : s.MemOk) : (s.bootLoad power b).1.MemOk := by
  unfold Machine.State.bootLoad
  split
  · exact hm.bootFail.setFld
  · extract_lets
    split
    exacts [hm.setFld.setFld.bootFail.setFld, hm.setFld.setFld.runCopy.bootStep.loadConfig.bootStep]

theorem State.MemOk.loadFuses (hm : s.MemOk) : s.loadFuses.MemOk :=
  hm.setReg.setFld.setFld.foldl fun _ _ hs => hs.setReg

theorem State.MemOk.keepShed {shedN : Bool} (hm : s.MemOk) : (s.keepShed shedN).MemOk := hm.modPwr.setFld.ite hm
theorem State.MemOk.powerUp (_hm : s.MemOk) : s.powerUp.MemOk := State.MemOk.keepShed (Memory.fresh_wf _)

theorem State.MemOk.loadKeys (hm : s.MemOk) : s.loadKeys.MemOk := by
  unfold Machine.State.loadKeys
  split
  rename_i e₁
  extract_lets
  split
  rename_i e₂
  exact ((hm.freshKey.of_eq_snd e₁).loadSlot.freshKey.of_eq_snd e₂).update.setFld.setFld

theorem State.MemOk.castOn {b : BootInputs} (hm : s.MemOk) : (castOn b s).MemOk := by
  unfold Machine.castOn
  split
  · exact hm
  · extract_lets s₁
    have h₁ : s₁.MemOk := hm.powerUp.setFld.bootStep
    split
    · exact h₁.bootFail
    · split
      · next e₁ => exact h₁.loadFuses.loadKeys.bootStep.bootLoad.of_eq e₁
      · next e₁ => exact (h₁.loadFuses.loadKeys.bootStep.bootLoad.of_eq e₁).setFld.update

theorem State.MemOk.vin48InRange {b : BootInputs} (hm : s.MemOk) : (vin48InRange b s).MemOk := hm.bootRest.ite hm

/-! ### The reset ladder (13) -/

theorem State.MemOk.clearTile {t : Nat} (hm : s.MemOk) : (s.clearTile t).MemOk := by
  unfold Machine.State.clearTile
  exact hm.stopFiller.scrubTile.flushTileTlbs.resetTileRegs

theorem State.MemOk.resetTile {t : Nat} (hm : s.MemOk) : (s.resetTile t).MemOk := by
  unfold Machine.State.resetTile
  exact hm.frogAll.reclaim.clearTile

theorem State.MemOk.resetCores {n : Nat} (hm : s.MemOk) : (s.resetCores n).MemOk := by
  unfold Machine.State.resetCores
  extract_lets _ s₁ s₂ s₃
  have h₂ : s₂.MemOk := hm.frogAll.reclaim
  have h₃ : s₃.MemOk := (h₂.foldl fun _ _ hs => hs.cleanCore).dropCores.foldl fun _ _ hs => hs.flushTileTlbs
  exact h₃.foldl fun _ _ hs => hs.resetReg.resetReg.clearUnit

theorem State.MemOk.resetDma {n : Nat} (hm : s.MemOk) : (s.resetDma n).MemOk := hm.frogAll.reclaim.setFld.setReg

theorem State.MemOk.engineReset {kind target : Nat} (hm : s.MemOk) : (s.engineReset kind target).MemOk := by
  unfold Machine.State.engineReset
  split
  · extract_lets
    split
    exacts [hm.resetTile.giveSlots, hm.resetTile]
  · exact hm.resetCores
  · exact hm.resetDma

theorem State.MemOk.panelReset {p : Nat} (hm : s.MemOk) : (s.panelReset p).MemOk := by
  unfold Machine.State.panelReset
  extract_lets _ _ _ _ _ s₄
  have h₄ : s₄.MemOk := (hm.frogAll.foldl fun _ _ hs => hs.resetTile).update.foldl fun _ _ hs => hs.scrubSeg
  exact h₄.resetReg.resetReg.setFld.ite h₄

theorem State.MemOk.doStep {r : RStep} (hm : s.MemOk) : (s.doStep r).MemOk := by
  unfold Machine.State.doStep
  split
  exacts [hm.frog, hm.engineReset, hm.panelReset]

theorem State.MemOk.lastReset {r : RStep} {result : Nat} (hm : s.MemOk) : (s.lastReset r result).MemOk :=
  hm.setFld.setFld.setFld.setFld

theorem State.MemOk.finishReset (hm : s.MemOk) : s.finishReset.MemOk := by
  unfold Machine.State.finishReset
  split
  exacts [hm, hm.update.lastReset.setFld.setReg.bump.logFault.foldl fun _ _ hs => hs.endCmd]

theorem State.MemOk.subsume {j : ResetJob} (hm : s.MemOk) : (s.subsume j).MemOk := hm.update.lastReset.logFault

theorem State.MemOk.startReset {r : RStep} {cmds : List Nat} (hm : s.MemOk) : (s.startReset r cmds).MemOk := by
  unfold Machine.State.startReset
  exact hm.doStep.setFld.update

theorem State.MemOk.acceptReset {r : RStep} {cmd : Option Nat} (hm : s.MemOk) : (s.acceptReset r cmd).MemOk := by
  unfold Machine.State.acceptReset
  split
  exacts [hm.startReset, hm.update.ite (hm.subsume.startReset.ite hm.finishReset.startReset)]

theorem State.MemOk.resetBody {c : Cmd} (hm : s.MemOk) : (resetBody s c).1.MemOk := by
  unfold Machine.resetBody
  split
  · exact hm
  · split
    exacts [hm, hm.modCmd.acceptReset]

theorem State.MemOk.refuseReset (hm : s.MemOk) : s.refuseReset.MemOk := hm.setFld.setFld

theorem State.MemOk.resetByReg {sideband : Bool} {v : W64} (hm : s.MemOk) : (s.resetByReg sideband v).MemOk :=
  hm.acceptReset.ite hm.refuseReset

theorem State.MemOk.resetRow {step opcode : Nat} {req : ResetReq} (hm : s.MemOk) :
    (resetRow step opcode req s).MemOk := by
  unfold Machine.resetRow
  split
  exacts [hm.runCmd fun _ _ hs => hs.resetBody, hm.resetByReg.ite hm, hm.resetByReg.ite hm]

theorem State.MemOk.resetOverrun (hm : s.MemOk) : (resetOverrun s).MemOk := by
  unfold Machine.resetOverrun
  split
  exacts [hm, hm.ite hm.update.lastReset.logFault]

theorem State.MemOk.cleanSlices (hm : s.MemOk) : s.cleanSlices.MemOk := by
  unfold Machine.State.cleanSlices
  extract_lets s₁ _ s₂
  have h₁ : s₁.MemOk := hm.skeinCloseAll
  have h₂ : s₂.MemOk := by
    refine h₁.foldl fun _ x hs => ?_
    extract_lets a lose
    have hlose {t : State} (ht : t.MemOk) : (lose t).MemOk := ht.logFault.incFld
    exact (hlose hs).ite (hs.ite (hlose (Memory.foldl_poison_wf hs _ _ _)))
  exact h₂.update

theorem State.MemOk.packageDown (hm : s.MemOk) : s.packageDown.MemOk := by
  unfold Machine.State.packageDown
  extract_lets s₁ m _ u _ s₂
  have h₁ : s₁.MemOk := hm.reclaim.cleanSlices
  have hm : m.wf = true := Memory.clearWindow_wf _ _ _ (Memory.clearWindow_wf _ _ _ h₁)
  clear_value u
  have h₂ : s₂.MemOk := hm
  exact h₂.keepShed

theorem State.MemOk.packageReset {b : BootInputs} (hm : s.MemOk) : (s.packageReset b).MemOk := by
  unfold Machine.State.packageReset
  extract_lets _ s₁ s₂ s₃ s₄ s₅ s₆
  have h₁ : s₁.MemOk := by
    unfold s₁
    split
    exacts [hm.subsume, hm]
  have h₂ : s₂.MemOk := h₁.packageDown
  have h₃ : s₃.MemOk := by
    unfold s₃
    split <;> rename_i e <;> have h := h₂.bootLoad.of_eq e
    exacts [h, h.bootRest]
  exact h₃.setFld.lastReset.setFld.setReg.bump.logFault

theorem State.MemOk.preferOther {r : List Byte} (hm : s.MemOk) : (s.preferOther r).MemOk := hm.update.setFld.setFld

theorem State.MemOk.packageResetRow {req : ResetReq} {b : BootInputs} (hm : s.MemOk) :
    (Machine.packageReset req b s).MemOk := by
  unfold Machine.packageReset
  split
  · split
    exacts [hm.preferOther.packageReset.ite hm, hm]
  · exact hm.ite (hm.packageReset.ite hm.refuseReset)
  · exact hm.ite (hm.packageReset.ite hm.refuseReset)

theorem State.MemOk.flr {f : Nat} (hm : s.MemOk) : (s.flr f).MemOk := by
  unfold Machine.State.flr
  split
  exacts [hm, hm.abandonFreeze.frogAll.update.modFunc]

theorem State.MemOk.flrVf {f : Nat} (hm : s.MemOk) : (flrVf f s).MemOk := hm.flr.ite hm
theorem State.MemOk.flrPf0 (hm : s.MemOk) : (flrPf0 s).MemOk := hm.flr.ite hm
theorem State.MemOk.setHpReset {port : Nat} {on : Bool} (hm : s.MemOk) : (s.setHpReset port on).MemOk := hm

theorem State.MemOk.hp0PerstAssert {durNs : Nat} {b : BootInputs} (hm : s.MemOk) :
    (hp0PerstAssert durNs b s).MemOk := by
  unfold Machine.hp0PerstAssert
  extract_lets s₁
  have h₁ : s₁.MemOk := hm.setHpReset.emit
  exact h₁.packageReset.ite h₁

theorem State.MemOk.hp1PerstAssert (hm : s.MemOk) : (hp1PerstAssert s).MemOk := by
  unfold Machine.hp1PerstAssert
  exact hm.setHpReset.emit.reclaim

theorem State.MemOk.perstNDeassert {port : Nat} (hm : s.MemOk) : (perstNDeassert port s).MemOk :=
  hm.ite (hm.setHpReset.emit.ite hm.setHpReset)

theorem State.MemOk.loseStage {b : Boot} (_hm : s.MemOk) : (s.loseStage b).MemOk := by
  unfold Machine.State.loseStage
  refine State.MemOk.setReg ?_
  exact Memory.fresh_wf _

theorem State.MemOk.supplyFault (hm : s.MemOk) : s.supplyFault.MemOk := hm.loseStage.setAlert.ite hm

theorem State.MemOk.vin48Undervoltage {durNs : Nat} (hm : s.MemOk) : (vin48Undervoltage durNs s).MemOk :=
  hm.supplyFault.ite hm

theorem State.MemOk.vin48Overvoltage {durNs : Nat} (hm : s.MemOk) : (vin48Overvoltage durNs s).MemOk :=
  hm.supplyFault.ite hm

theorem State.MemOk.regulatorFault {durNs : Nat} (hm : s.MemOk) : (regulatorFault durNs s).MemOk :=
  hm.supplyFault.ite hm

theorem State.MemOk.powerDown {tray : Bool} (hm : s.MemOk) : (s.powerDown tray).MemOk := by
  unfold Machine.State.powerDown
  exact hm.powerUp.update

theorem State.MemOk.v3p3Undervoltage {durNs : Nat} (hm : s.MemOk) : (v3p3Undervoltage durNs s).MemOk :=
  hm.powerDown.ite hm

theorem State.MemOk.trayRstAssert {stableNs : Nat} (hm : s.MemOk) : (trayRstAssert stableNs s).MemOk :=
  (hm.ite hm.incFld).ite hm.powerDown

theorem State.MemOk.thermalTrip {unit : Nat} {celsius : Int} (hm : s.MemOk) : (thermalTrip unit celsius s).MemOk :=
  hm.loseStage.emit.update.ite hm

theorem State.MemOk.clockHoldoverEnter (hm : s.MemOk) : (clockHoldoverEnter s).MemOk :=
  hm.ite hm.setFld.update.setAlert.postMgr

theorem State.MemOk.clockHoldoverExit (hm : s.MemOk) : (clockHoldoverExit s).MemOk := hm.setFld.update.setAlert.ite hm

theorem State.MemOk.pllLockLoss {d : Nat} (hm : s.MemOk) : (pllLockLoss d s).MemOk := by
  unfold Machine.pllLockLoss
  split
  · exact hm
  · extract_lets
    split
    · exact hm.setReg.stackOut
    · split
      · exact hm.setReg.ite hm.setReg.linkDown
      · exact hm.setReg.ite (hm.setReg.emit.reclaim.ite (hm.setReg.guestIsolate.ite hm.setReg))

theorem State.MemOk.controllerFault {c : Nat} (hm : s.MemOk) : (controllerFault c s).MemOk := hm.setFld.logFault.ite hm

theorem State.MemOk.bindOff {v : View} {value : W64} (hm : s.MemOk) : (bindOff v value s).MemOk :=
  (hm.foldl fun _ _ hs => hs.cancelCmd).setFld.update.ite hm

theorem State.MemOk.bindOffDrainExpire (hm : s.MemOk) : (bindOffDrainExpire s).MemOk := hm.frogAll.ite hm

theorem State.MemOk.bindOffEnd (hm : s.MemOk) : s.bindOffEnd.MemOk := by
  unfold Machine.State.bindOffEnd
  extract_lets s₁ s₂ s₃ s₄ s₅ s₆
  have h₁ : s₁.MemOk := hm.cleanSlices
  have h₂ : s₂.MemOk := h₁.foldl fun _ _ hs => hs.ite hs.linkDown
  have h₃ : s₃.MemOk := h₂.foldl fun _ _ hs => hs.isolateGuest.ite hs
  have h₄ : s₄.MemOk := h₃.emit.foldl fun _ _ hs => hs.setDomain
  have h₅ : s₅.MemOk := h₄.foldl fun _ _ hs => hs.setFld
  have h₆ : s₆.MemOk := h₅.setFld.setFld
  exact h₆.update

theorem State.MemOk.tick (hm : s.MemOk) : s.tick.MemOk :=
  hm.ite (hm.update.finishReset.bindOffEnd.ite hm.update.finishReset)

/-! ### Register accesses -/

theorem State.MemOk.writeMsix {f off m val : Nat} (hm : s.MemOk) : (s.writeMsix f off m val).MemOk :=
  (hm.update.update.emit.ite hm.update).ite hm

theorem State.MemOk.readEffect {f : Nat} {r : Reg} {i : Nat} (hm : s.MemOk) : (s.readEffect f r i).MemOk := by
  unfold Machine.State.readEffect
  split
  exacts [hm.eccLogPop, hm.repairLogNext, hm.modFunc, hm.setReg.ite hm]

theorem State.MemOk.readReg {v : View} {r : Reg} {i : Nat} {h : Half} {al : Bool} (hm : s.MemOk) :
    (s.readReg v r i h al).1.MemOk := by
  unfold Machine.State.readReg
  split
  rename_i e₁
  have h₁ := hm.peek.of_eq e₁
  split
  exacts [h₁.readEffect, h₁]

theorem State.MemOk.readHit {v : View} {h : Half} {hit : Option (Reg × Nat × Bool)} (hm : s.MemOk) :
    (s.readHit v h hit).1.MemOk := by
  unfold Machine.State.readHit
  split
  exacts [hm, hm.readReg]

theorem State.MemOk.readAt {v : View} {off : Nat} {h : Half} (hm : s.MemOk) : (s.readAt v off h).1.MemOk := by
  unfold Machine.State.readAt
  split
  exacts [hm, hm.readHit]

theorem State.MemOk.readPf {v : View} {off : Nat} {h : Half} (hm : s.MemOk) : (s.readPf v off h).1.MemOk := by
  unfold Machine.State.readPf
  split
  exacts [hm, hm.readHit]

theorem State.MemOk.hostRead {v : View} {r : Reg} {i : Nat} {h : Half} (hm : s.MemOk) : (s.hostRead v r i h).MemOk := by
  unfold Machine.State.hostRead
  split
  · split
    rename_i e₁
    exact (hm.readReg.of_eq e₁).emit
  · exact hm.emit

theorem State.MemOk.noteWritten {r : Reg} {i : Nat} (hm : s.MemOk) : (s.noteWritten r i).MemOk := hm.update.ite hm
theorem State.MemOk.storeReg {r : Reg} {i m val : Nat} (hm : s.MemOk) : (s.storeReg r i m val).MemOk := hm.setReg

theorem State.MemOk.writeHead {f : Fld} {tail : W32} {m val : Nat} (hm : s.MemOk) : (s.writeHead f tail m val).MemOk :=
  hm.setFld.ite hm

theorem State.MemOk.stageReg {x : StageItem} (hm : s.MemOk) : (s.stageReg x).MemOk :=
  hm.update.ite (hm.setFld.ite hm.update)

theorem State.MemOk.writeStaged {r : Reg} {i m val : Nat} (hm : s.MemOk) : (s.writeStaged r i m val).MemOk := by
  unfold Machine.State.writeStaged
  extract_lets
  split <;> exact hm.stageReg

theorem State.MemOk.writeSwCtl {h m val : Nat} (hm : s.MemOk) : (s.writeSwCtl h m val).MemOk :=
  hm.storeReg.swDone.ite (hm.storeReg.swStart.ite hm.storeReg)

theorem State.MemOk.writeHbmCtl {m val : Nat} (hm : s.MemOk) : (s.writeHbmCtl m val).MemOk :=
  hm.storeReg.setFld.ite hm.storeReg

theorem State.MemOk.writeQueStatus {f val : Nat} (hm : s.MemOk) : (s.writeQueStatus f val).MemOk := by
  unfold Machine.State.writeQueStatus
  split
  exacts [hm, hm.setQueue]

theorem State.MemOk.writeOvfHead {f m val : Nat} (hm : s.MemOk) : (s.writeOvfHead f m val).MemOk := hm.modFunc

theorem State.MemOk.writeMbx {f : Nat} {r : Reg} {m val : Nat} (hm : s.MemOk) : (s.writeMbx f r m val).MemOk := by
  unfold Machine.State.writeMbx
  extract_lets
  split
  exacts [(hm.m2tHead.ite hm).ite (hm.m2tTail.ite hm), (hm.t2mTail.ite hm).ite (hm.t2mHead.ite hm)]

theorem State.MemOk.writeAperture {m val : Nat} (hm : s.MemOk) : (s.writeAperture m val).MemOk := hm.modFunc

theorem State.MemOk.writeGstCtl {g m val : Nat} (hm : s.MemOk) : (s.writeGstCtl g m val).MemOk := by
  unfold Machine.State.writeGstCtl
  extract_lets s₁
  have h₁ : s₁.MemOk := hm.storeReg.guestIsolate
  exact h₁.setDomain.setFld.setFld.ite h₁

theorem State.MemOk.writeLnkCtl {l m val : Nat} (hm : s.MemOk) : (s.writeLnkCtl l m val).MemOk := by
  unfold Machine.State.writeLnkCtl
  extract_lets _ _ s₂
  have h₂ : s₂.MemOk := hm.storeReg.linkDown.ite (hm.storeReg.modLink.ite hm.storeReg)
  exact h₂.linkRetrain.ite h₂

theorem State.MemOk.writeRoute {val : Nat} (hm : s.MemOk) : (s.writeRoute val).MemOk := by
  unfold Machine.State.writeRoute
  exact hm.ite hm.update

theorem State.MemOk.writeReg {v : View} {r : Reg} {i m val : Nat} (hm : s.MemOk) : (s.writeReg v r i m val).MemOk := by
  unfold Machine.State.writeReg
  extract_lets
  split
  · exact hm.repairCmd
  · exact hm.repairLogHome
  · exact hm.writeSwCtl
  · exact hm.writeHbmCtl
  · exact hm.keyOp
  · exact hm.storeReg
  · exact hm.writeQueStatus
  · exact hm.writeOvfHead
  · exact hm.writeLnkCtl
  · exact hm.ite hm.storeReg
  · exact hm.writeRoute.ite hm
  · exact hm.modFunc.ite hm
  · exact hm.writeMbx
  · exact hm.writeMbx
  · exact hm.writeAperture
  · exact hm.writeHead
  · exact hm.resetByReg
  · split
    · split
      rename_i e₁
      exact (hm.fresh.of_eq_snd e₁).counterFreeze
    · exact hm
  · exact hm.settleP.storeReg
  · exact hm.writeHead
  · exact hm.writeHead
  · exact hm.storeReg
  · exact hm.storeReg.update
  · exact hm.writeGstCtl
  · exact hm.storeReg.lcHaltEnable.ite hm.storeReg
  · exact hm.haltCmd
  · exact hm.dbgRegWrite.ite hm
  · exact hm.dbgStepGo
  · exact hm.bindOff
  · exact hm.writeStaged.ite (hm.storeReg.ite hm)

theorem State.MemOk.writeHit {v : View} {h : Half} {val : Nat} {hit : Option (Reg × Nat × Bool)} (hm : s.MemOk) :
    (s.writeHit v h val hit).MemOk := by
  unfold Machine.State.writeHit
  split
  exacts [hm.ite hm.noteWritten.writeReg, hm]

theorem State.MemOk.writeAt {v : View} {off : Nat} {h : Half} {val : Nat} (hm : s.MemOk) :
    (s.writeAt v off h val).MemOk := hm.writeMsix.ite hm.writeHit

theorem State.MemOk.writePf {v : View} {off : Nat} {h : Half} {val : Nat} (hm : s.MemOk) :
    (s.writePf v off h val).MemOk := hm.writeMsix.ite hm.writeHit

theorem State.MemOk.hostWrite {r : Reg} {i val : Nat} (hm : s.MemOk) : (s.hostWrite r i val).MemOk :=
  hm.noteWritten.writeReg.ite hm

theorem State.MemOk.stagedAt {off : Nat} {h : Half} {val : Nat} (hm : s.MemOk) : (s.stagedAt off h val).MemOk := by
  unfold Machine.State.stagedAt
  split
  exacts [hm.writeAt.ite hm, hm]

/-! ### Accesses at virtual addresses -/

theorem State.MemOk.regsRead {v : View} {off n : Nat} (hm : s.MemOk) : (s.regsRead v off n).1.MemOk := by
  refine hm.foldl_fst fun _ _ hs => ?_
  extract_lets
  split
  · exact hs
  · split
    · split
      rename_i e₁
      exact hs.readPf.of_eq e₁
    · split
      rename_i s₁ _ e₁
      have h₁ : s₁.MemOk := by
        refine State.MemOk.of_eq ?_ e₁
        split
        exacts [hs.readPf, hs]
      split
      rename_i e₂
      refine State.MemOk.of_eq ?_ e₂
      split
      exacts [h₁.readPf, h₁]

theorem State.MemOk.regsWrite {v : View} {off : Nat} {b : List Byte} (hm : s.MemOk) : (s.regsWrite v off b).MemOk :=
  hm.foldl fun _ _ hs => hs.writePf.ite (hs.writePf.ite (hs.writePf.ite hs))

theorem State.MemOk.localRead {w : Who} {key a n : Nat} (hm : s.MemOk) : (s.localRead w key a n).1.MemOk := by
  unfold Machine.State.localRead
  split
  · split
    rename_i e₁
    exact hm.regsRead.of_eq e₁
  · exact hm.pread

theorem State.MemOk.localWrite {w : Who} {key a : Nat} {b : List Byte} {poison : Bool} (hm : s.MemOk) :
    (s.localWrite w key a b poison).1.MemOk := by
  unfold Machine.State.localWrite
  split
  · exact hm.regsWrite
  · split
    rename_i e₁
    have h₁ := hm.pwrite.of_eq e₁
    exact State.MemOk.ite (Memory.poison_wf _ _ _ h₁) h₁

theorem State.MemOk.cmdRead1 {id : Nat} {iss : Issuer} {va n : Nat} {acc : Rd} (hm : s.MemOk) :
    (s.cmdRead1 id iss va n acc).1.MemOk := by
  unfold Machine.State.cmdRead1
  split
  · next e₁ => exact hm.xlate.of_eq e₁
  · rename_i e₁
    have h₁ := hm.xlate.of_eq e₁
    split
    · split <;> next e₂ => exact h₁.localRead.of_eq e₂
    · split
      exacts [h₁, h₁.remoteRead]

theorem State.MemOk.cmdRead {id : Nat} {iss : Issuer} {va n : Nat} (hm : s.MemOk) : (s.cmdRead id iss va n).1.MemOk :=
  hm.foldl_fst fun _ _ hs => hs.cmdRead1

theorem State.MemOk.probe {iss : Issuer} {need : Need} {va n : Nat} (hm : s.MemOk) :
    (s.probe iss need va n).1.MemOk := by
  unfold Machine.State.probe
  refine hm.foldl_fst fun _ _ hs => ?_
  split
  · exact hs
  · split <;> next e₂ => exact hs.xlate.of_eq e₂

theorem State.MemOk.cmdWrite1 {id : Nat} {iss : Issuer} {stream va : Nat} {b : List Byte} {poison : Bool} {st : Nat}
    (hm : s.MemOk) : (s.cmdWrite1 id iss stream va b poison st).1.MemOk := by
  unfold Machine.State.cmdWrite1
  split
  · next e₁ => exact hm.xlate.of_eq e₁
  · rename_i e₁
    have h₁ := hm.xlate.of_eq e₁
    split
    · split
      rename_i e₂
      exact h₁.localWrite.of_eq e₂
    · exact h₁.remoteWrite

theorem State.MemOk.cmdWrite {id : Nat} {iss : Issuer} {stream va : Nat} {b : List Byte} (hm : s.MemOk) :
    (s.cmdWrite id iss stream va b).1.MemOk := hm.foldl_fst fun _ _ hs => hs.cmdWrite1

/-! ### General cores (03) -/

theorem State.MemOk.pathStall {x : Iss} (hm : s.MemOk) : (s.pathStall x).MemOk := hm.ite hm.modGroup

theorem State.MemOk.countIssue {x : Iss} (hm : s.MemOk) : (s.countIssue x).MemOk := by
  unfold Machine.State.countIssue
  exact hm.setReg.bump.bump.update

theorem State.MemOk.retire {x : Iss} {g : Group → Group} (hm : s.MemOk) : (s.retire x g).MemOk := hm.countIssue.modGroup
theorem State.MemOk.next {x : Iss} {g : Group → Group} (hm : s.MemOk) : (s.next x g).MemOk := hm.retire

theorem State.MemOk.coreWrite {k : Nat} {c : Cmd} {va : Nat} {b : List Byte} (hm : s.MemOk) :
    (s.coreWrite k c va b).MemOk := hm.cmdWrite

theorem State.MemOk.faultRegs {k : Nat} {f : CoreFault} (hm : s.MemOk) : (s.faultRegs k f).MemOk := by
  unfold Machine.State.faultRegs
  extract_lets _ s₂
  have h₂ : s₂.MemOk := hm.setReg.setReg.setReg
  exact h₂.setFld.setFld.ite h₂.setFld

theorem State.MemOk.stopLaunch {id st : Nat} (hm : s.MemOk) : (s.stopLaunch id st).MemOk := hm

theorem State.MemOk.coreFault {k : Nat} {g : Group} {c : Cmd} {l : Launch} {f : CoreFault} {late : Bool}
    (hm : s.MemOk) : (s.coreFault k g c l f late).MemOk := by
  unfold Machine.State.coreFault
  extract_lets _ s₁ s₂ s₃ s₄
  have h₂ : s₂.MemOk := hm.faultRegs.logFault
  have h₃ : s₃.MemOk := h₂.update
  have h₄ : s₄.MemOk := h₃.ite h₃.coreWrite
  split
  · exact h₃.ite h₃.coreWrite
  · exact h₄.modGroup.postCtx.ite h₄.stopLaunch

theorem State.MemOk.laneFault {x : Iss} {f st kind : Nat} {bypass : Bool} {va : Nat} (hm : s.MemOk) :
    (s.laneFault x f st kind bypass va).MemOk := hm.retire.coreFault

theorem State.MemOk.issue {i : Issue} {src dst : List Nat} {body : State → Iss → State} (hm : s.MemOk)
    (hb : ∀ t a, t.MemOk → (body t a).MemOk) : (s.issue i src dst body).MemOk := by
  unfold Machine.State.issue
  split
  · exact hm
  · split
    · exact hm
    · split
      · exact hm.pathStall
      · split <;> rename_i e₁ <;> have h₁ := hm.xlate.of_eq e₁
        · split
          rename_i e₂
          exact (h₁.fresh.of_eq_snd e₂).laneFault
        · exact hb _ _ h₁

/-! ### The cores' arithmetic (03.1) -/

theorem State.MemOk.aluOp {i : Issue} {op : AluOp} {rd : Nat} {a b c : Src} (hm : s.MemOk) :
    (aluOp i op rd a b c s).MemOk := hm.issue fun _ _ hs => hs.next

theorem State.MemOk.convert {i : Issue} {from_ dest : Nat} {sat stoch : Bool} {rd : Nat} {a index tensor : Src}
    (hm : s.MemOk) : (convert i from_ dest sat stoch rd a index tensor s).MemOk :=
  hm.ite (hm.issue fun _ _ hs => hs.update.next)

/-! ### The cores' control flow (03.3, 03.4) -/

theorem State.MemOk.branch {i : Issue} {cond : Nat} {target marker : W64} (hm : s.MemOk) :
    (branch i cond target marker s).MemOk := hm.issue fun _ _ hs => hs.retire

theorem State.MemOk.exchange {i : Issue} {srcs : List Nat} {rd v : Nat} {lane : Iss → Nat → Nat} (hm : s.MemOk) :
    (exchange i srcs rd v lane s).MemOk := hm.issue fun _ _ hs => hs.next

theorem State.MemOk.xchPick {i : Issue} {w rd v r : Nat} (hm : s.MemOk) : (xchPick i w rd v r s).MemOk := hm.exchange
theorem State.MemOk.xchRot {i : Issue} {w rd v d : Nat} (hm : s.MemOk) : (xchRot i w rd v d s).MemOk := hm.exchange

theorem State.MemOk.xchSwap {i : Issue} {w rd v m : Nat} (hm : s.MemOk) : (xchSwap i w rd v m s).MemOk :=
  hm.exchange.ite hm

theorem State.MemOk.xchRev {i : Issue} {w rd v : Nat} (hm : s.MemOk) : (xchRev i w rd v s).MemOk := hm.exchange

theorem State.MemOk.tally {i : Issue} {rd p : Nat} {f : Iss → Nat → Nat} (hm : s.MemOk) : (tally i rd p f s).MemOk :=
  hm.issue fun _ _ hs => hs.next

theorem State.MemOk.tallyAny {i : Issue} {w rd p : Nat} (hm : s.MemOk) : (tallyAny i w rd p s).MemOk := hm.tally
theorem State.MemOk.tallyAll {i : Issue} {w rd p : Nat} (hm : s.MemOk) : (tallyAll i w rd p s).MemOk := hm.tally
theorem State.MemOk.tallyMask {i : Issue} {w rd p : Nat} (hm : s.MemOk) : (tallyMask i w rd p s).MemOk := hm.tally
theorem State.MemOk.tallyCount {i : Issue} {w rd p : Nat} (hm : s.MemOk) : (tallyCount i w rd p s).MemOk := hm.tally
theorem State.MemOk.tallyBelow {i : Issue} {w rd p : Nat} (hm : s.MemOk) : (tallyBelow i w rd p s).MemOk := hm.tally
theorem State.MemOk.tallyLead {i : Issue} {w rd p : Nat} (hm : s.MemOk) : (tallyLead i w rd p s).MemOk := hm.tally
theorem State.MemOk.endBlock {k b id : Nat} (hm : s.MemOk) : (s.endBlock k b id).MemOk := hm.setCore.update.ite hm

theorem State.MemOk.settleBlock {x : Iss} (hm : s.MemOk) : (s.settleBlock x).MemOk := by
  unfold Machine.State.settleBlock
  extract_lets s₁
  have h₁ : s₁.MemOk := hm.modGroup.modCore
  split
  · split
    exact h₁.coreFault
  · exact h₁

theorem State.MemOk.meet {i : Issue} {w : Nat} (hm : s.MemOk) : (meet i w s).MemOk :=
  hm.issue fun _ _ hs => hs.retire.settleBlock

theorem State.MemOk.arriveAt {x : Iss} {r : Nat} (hm : s.MemOk) : (s.arriveAt x r).MemOk := hm.modCore

theorem State.MemOk.rdvWait {i : Issue} {r : Nat} (hm : s.MemOk) : (rdvWait i r s).MemOk :=
  hm.ite (hm.issue fun _ _ hs => hs.arriveAt.retire.settleBlock)

theorem State.MemOk.rdvSignal {i : Issue} {r : Nat} (hm : s.MemOk) : (rdvSignal i r s).MemOk :=
  hm.ite (hm.issue fun _ _ hs => hs.arriveAt.next.settleBlock)

theorem State.MemOk.threadExit {i : Issue} (hm : s.MemOk) : (threadExit i s).MemOk :=
  hm.issue fun _ _ hs => hs.retire.settleBlock.endBlock

/-! ### Memory movement (07.8) -/

theorem State.MemOk.noteVa {id va : Nat} (hm : s.MemOk) : (s.noteVa id va).MemOk := hm.modCmd

theorem State.MemOk.await {id : Nat} {iss : Issuer} {va n : Nat} (hm : s.MemOk) : (s.await id iss va n).1.MemOk := by
  unfold Machine.State.await
  refine hm.foldl_fst fun _ _ hs => ?_
  split
  · exact hs
  · split
    exacts [hs, hs.remoteRead]

theorem State.MemOk.awaitAll {id : Nat} {iss : Issuer} {l : List (Nat × Nat)} (hm : s.MemOk) :
    (s.awaitAll id iss l).1.MemOk := by
  unfold Machine.State.awaitAll
  refine hm.foldl_fst fun _ _ hs => ?_
  split
  rename_i e₂
  exact hs.await.of_eq e₂

theorem State.MemOk.readWhole {c : Cmd} {iss : Issuer} {va n : Nat} (hm : s.MemOk) :
    (s.readWhole c iss va n).1.MemOk := by
  unfold Machine.State.readWhole
  split
  · next e₁ => exact hm.await.of_eq e₁
  · rename_i e₁
    split
    rename_i e₂
    have h₂ := (hm.await.of_eq e₁).cmdRead.of_eq e₂
    split
    · exact h₂.noteVa
    · split
      exacts [h₂.noteVa, h₂]

theorem State.MemOk.readPieces {id : Nat} {iss : Issuer} {l : List (Nat × Nat × Nat)} (hm : s.MemOk) :
    (s.readPieces id iss l).1.MemOk := by
  unfold Machine.State.readPieces
  refine hm.foldl_fst fun _ _ hs => ?_
  split
  rename_i e₂
  exact hs.cmdRead.of_eq e₂

theorem State.MemOk.writePieces {id : Nat} {iss : Issuer} {stream : Nat} {l : List (Nat × Rd)} (hm : s.MemOk) :
    (s.writePieces id iss stream l).1.MemOk := hm.foldl_fst fun _ _ hs => hs.cmdWrite1

theorem State.MemOk.probeAll {iss : Issuer} {need : Need} {l : List (Nat × Nat)} (hm : s.MemOk) :
    (s.probeAll iss need l).1.MemOk := by
  unfold Machine.State.probeAll
  refine hm.foldl_fst fun _ _ hs => ?_
  split
  exacts [hs, hs.probe]

theorem State.MemOk.endFault {c : Cmd} {f : XFault} (hm : s.MemOk) : (s.endFault c f).1.MemOk := hm.spoilOutputs.noteVa

theorem State.MemOk.copyFlag {c : Cmd} (hm : s.MemOk) : (s.copyFlag c).1.MemOk := by
  unfold Machine.State.copyFlag
  extract_lets
  split
  · next e₁ => exact (hm.xlate.of_eq e₁).noteVa
  · rename_i e₁
    have h₁ := hm.xlate.of_eq e₁
    split
    · split
      · exact h₁
      · split
        · exact h₁
        · split
          rename_i e₂
          exact h₁.cmdWrite.of_eq e₂
    · split
      · exact h₁
      · next e₂ => exact h₁.remoteFinal e₂

theorem State.MemOk.copyData {c : Cmd} (hm : s.MemOk) : (s.copyData c).1.MemOk := by
  unfold Machine.State.copyData
  extract_lets
  split
  · next e₁ => exact hm.awaitAll.of_eq e₁
  · rename_i e₁
    split
    rename_i e₂
    split
    rename_i e₃
    have h₃ := ((hm.awaitAll.of_eq e₁).readPieces.of_eq e₂).probeAll.of_eq e₃
    split
    · exact h₃
    · exact h₃
    · extract_lets
      split
      rename_i e₄
      have h₄ := h₃.writePieces.of_eq e₄
      exact h₄.spoilOutputs.ite h₄

theorem State.MemOk.copyFlagBad {c : Cmd} (hm : s.MemOk) : (s.copyFlagBad c).1.MemOk := by
  unfold Machine.State.copyFlagBad
  split
  · split
    · next e₁ => exact (hm.xlate.of_eq e₁).noteVa
    · next e₁ => exact hm.xlate.of_eq e₁
  · exact hm

theorem State.MemOk.copyBody {c : Cmd} (hm : s.MemOk) : (copyBody s c).1.MemOk := by
  unfold Machine.copyBody
  extract_lets
  split
  · exact hm.copyFlag
  · split
    · exact hm
    · split
      · exact hm.spoilOutputs
      · split
        · rename_i e₁
          have h₁ := hm.copyFlagBad.of_eq e₁
          extract_lets
          split
          · exact h₁
          · split
            · next e₂ => exact h₁.copyData.of_eq e₂
            · next e₂ => exact (h₁.copyData.of_eq e₂).endFault
            · rename_i e₂
              have h₂ := h₁.copyData.of_eq e₂
              split
              exacts [h₂.cmdStatus.modCmd.copyFlag, h₂]
        · next e₁ => exact hm.copyFlagBad.of_eq e₁

theorem State.MemOk.elemAddr {c : Cmd} {j : Nat} (hm : s.MemOk) : (s.elemAddr c j).1.MemOk := by
  unfold Machine.State.elemAddr
  extract_lets
  split
  rename_i e₁
  have h₁ := hm.cmdRead.of_eq e₁
  split
  · exact h₁
  · split <;> exact h₁

theorem State.MemOk.moveElem {c : Cmd} {j va : Nat} (hm : s.MemOk) : (s.moveElem c j va).1.MemOk := by
  unfold Machine.State.moveElem
  extract_lets
  split
  split
  · next e₁ => exact hm.probe.of_eq e₁
  · rename_i e₁
    have h₁ := hm.probe.of_eq e₁
    split
    · next e₂ => exact h₁.probe.of_eq e₂
    · rename_i e₂
      split
      rename_i e₃
      have h₃ := (h₁.probe.of_eq e₂).readPieces.of_eq e₃
      split
      · exact h₃
      · split
        rename_i e₄
        have h₄ := h₃.writePieces.of_eq e₄
        split <;> exact h₄

theorem State.MemOk.putFaultList {c : Cmd} {status : Nat} {fs : List ElemFault} (hm : s.MemOk) :
    (s.putFaultList c status fs).MemOk := by
  unfold Machine.State.putFaultList
  extract_lets
  split
  · exact hm
  · split
    · next e₁ => exact hm.probe.of_eq e₁
    · rename_i e₁
      have h₁ := hm.probe.of_eq e₁
      split
      · exact h₁
      · split
        rename_i e₂
        exact (h₁.fresh.of_eq_snd e₂).cmdWrite

theorem State.MemOk.elemAddrs {c : Cmd} {n : Nat} (hm : s.MemOk) : (s.elemAddrs c n).1.MemOk := by
  unfold Machine.State.elemAddrs
  refine hm.foldl_fst fun _ _ hs => ?_
  split
  rename_i e₂
  exact hs.elemAddr.of_eq e₂

theorem State.MemOk.listBody {c : Cmd} (hm : s.MemOk) : (listBody s c).1.MemOk := by
  unfold Machine.listBody
  extract_lets
  split
  · exact hm
  · split
    · exact hm.spoilOutputs
    · split <;> rename_i e₁ <;> have h₁ := hm.awaitAll.of_eq e₁
      · exact h₁.dropRemotesOf.ite h₁
      · split
        rename_i e₂
        have h₂ := h₁.elemAddrs.of_eq e₂
        extract_lets
        split
        · exact h₂
        · split <;> rename_i e₃ <;> have h₃ := h₂.awaitAll.of_eq e₃
          · exact h₃
          · extract_lets _ s₄
            have h₄ : s₄.MemOk := h₃.update
            split
            rename_i s₅ _ e₅
            have h₅ : s₅.MemOk := by
              refine State.MemOk.of_eq (h₄.foldl_fst fun _ _ hs => ?_) e₅
              split
              · exact hs
              · split <;> next e₆ => exact hs.moveElem.of_eq e₆
            extract_lets _ _ s₇
            have h₇ : s₇.MemOk := h₅.ite h₅.putFaultList
            dsimp only
            split
            · exact h₇.noteVa
            · exact h₇

theorem State.MemOk.fillBody {c : Cmd} (hm : s.MemOk) : (fillBody s c).1.MemOk := by
  unfold Machine.fillBody
  extract_lets
  split
  split
  · exact hm
  · split
    · exact hm
    · split <;> rename_i e₁ <;> have h₁ := hm.probe.of_eq e₁
      · exact h₁.endFault
      · split
        rename_i e₂
        refine State.MemOk.of_eq (State.MemOk.foldl_fst h₁ fun _ _ hs => ?_) e₂
        exact hs.cmdWrite1

theorem State.MemOk.engineAdd {id : Nat} {w : Who} {eng stream va : Nat} {x : Xl} {sectors spoil rop : Nat}
    {exact : Bool} {anchor : Int} {payload : List Byte} {splitK : Bool} (hm : s.MemOk) :
    (s.engineAdd id w eng stream va x sectors spoil rop exact anchor payload splitK).1.MemOk := by
  unfold Machine.State.engineAdd
  extract_lets
  split
  · split
    rename_i e₁
    have h₁ := hm.nextRTag.of_eq_snd e₁
    split
    rename_i e₂
    refine State.MemOk.of_eq (h₁.once fun _ hs => ?_) e₂
    split
    rename_i e₃
    exact hs.addLineAt.of_eq e₃
  · exact hm.remoteAddLine

theorem State.MemOk.reduceOne {c : Cmd} {rop : Nat} {exact : Bool} {anchor : Int} {dst : Nat} {l : List (Nat × Rd)}
    (hm : s.MemOk) : (s.reduceOne c rop exact anchor dst l).1.MemOk := by
  unfold Machine.State.reduceOne
  extract_lets
  split <;> rename_i e₁ <;> have h₁ := hm.xlate.of_eq e₁
  · exact h₁
  · split
    rename_i e₂
    exact h₁.engineAdd.of_eq e₂

theorem State.MemOk.reduceBody {c : Cmd} (hm : s.MemOk) : (reduceBody s c).1.MemOk := by
  unfold Machine.reduceBody
  extract_lets
  split
  split
  · exact hm
  · split
    · exact hm.spoilOutputs
    · split
      · exact hm
      · split <;> rename_i e₁ <;> have h₁ := hm.await.of_eq e₁
        · exact h₁
        · split
          · exact State.MemOk.noteVa (h₁.foldl fun _ _ hs => hs.spoilVa)
          · split
            rename_i s₂ _ e₂
            have h₂ : s₂.MemOk := by
              refine State.MemOk.of_eq (State.MemOk.foldl_fst h₁ fun _ _ hs => ?_) e₂
              split
              rename_i e₃
              exact hs.readPieces.of_eq e₃
            split
            rename_i e₄
            have h₄ := h₂.probe.of_eq e₄
            split
            · exact h₄.endFault
            · exact h₄.endFault
            · split
              rename_i e₅
              refine State.MemOk.of_eq (State.MemOk.foldl_fst h₄ fun _ _ hs => ?_) e₅
              split
              rename_i e₆
              exact hs.reduceOne.of_eq e₆

/-! ### Queue control and maintenance (07.10) -/

theorem State.MemOk.fenceBody {c : Cmd} (hm : s.MemOk) : (fenceBody s c).1.MemOk := by
  unfold Machine.fenceBody
  extract_lets
  split
  · exact hm
  · split
    rename_i e₁
    exact hm.fenceScope.of_eq e₁

theorem State.MemOk.eventPostDo {r : List Byte} (hm : s.MemOk) : (eventPostDo s r).1.MemOk := hm.postCtx
theorem State.MemOk.nopDo {r : List Byte} (hm : s.MemOk) : (nopDo s r).1.MemOk := hm

theorem State.MemOk.signalBody {c : Cmd} (hm : s.MemOk) : (signalBody s c).1.MemOk := by
  unfold Machine.signalBody
  extract_lets
  split
  · exact hm
  · split
    · exact hm
    · split
      · next e₁ => exact (hm.xlate.of_eq e₁).noteVa
      · rename_i e₁
        have h₁ := hm.xlate.of_eq e₁
        split
        rename_i e₂
        have h₂ := h₁.fenceScope.of_eq e₂
        split
        · split
          · split
            · next e₃ => exact h₂.atomicAt.of_eq e₃
            · next e₃ => exact (h₂.atomicAt.of_eq e₃).noteVa
          · exact h₁.noteVa
        · split
          exacts [h₁, h₂.cmdStatus.remoteAtomic.modCmd]

theorem State.MemOk.waitLook {c : Cmd} (hm : s.MemOk) : (waitLook s c).1.MemOk := by
  unfold Machine.waitLook
  extract_lets
  split
  · next e₁ => exact (hm.xlate.of_eq e₁).noteVa
  · rename_i e₁
    have h₁ := hm.xlate.of_eq e₁
    split
    · split
      · split
        · next e₂ => exact (h₁.pread.of_eq e₂).noteVa
        · next e₂ => exact (h₁.pread.of_eq e₂).noteVa
        · next e₂ => exact h₁.pread.of_eq e₂
      · exact h₁.noteVa
    · split
      · exact h₁.remoteRead
      · extract_lets
        split
        · exact h₁.modCmd.noteVa
        · split <;> exact h₁.modCmd

theorem State.MemOk.waitBody {c : Cmd} (hm : s.MemOk) : (waitBody s c).1.MemOk := by
  unfold Machine.waitBody
  extract_lets
  split
  · exact hm
  · split
    exacts [hm, hm.modCmd.waitLook]

theorem State.MemOk.waitRecheck {id : Nat} (hm : s.MemOk) : (waitRecheck id s).MemOk := by
  unfold Machine.waitRecheck
  split
  exacts [(hm.runCmd fun _ _ hs => hs.waitBody).ite hm, hm]

theorem State.MemOk.waitTimeout {id : Nat} (hm : s.MemOk) : (waitTimeout id s).MemOk := by
  unfold Machine.waitTimeout
  split
  exacts [hm.dropRemotesOf.modCmd.ite hm, hm]

theorem State.MemOk.l1InvDo {r : List Byte} (hm : s.MemOk) : (l1InvDo s r).1.MemOk :=
  hm.foldl fun _ _ hs => hs.foldl fun _ _ ht => ht.invCore

theorem State.MemOk.xlatInvAct {r : List Byte} (hm : s.MemOk) : (s.xlatInvAct r).MemOk := by
  unfold Machine.State.xlatInvAct
  split
  exact (hm.xlatDrop.update.foldl fun _ _ hs => hs.foldl fun _ _ ht => ht.invCore).ite hm.xlatDrop.update

theorem State.MemOk.xlatInvBody {c : Cmd} (hm : s.MemOk) : (xlatInvBody s c).1.MemOk := by
  unfold Machine.xlatInvBody
  extract_lets
  split
  · split
    · exact hm
    · split
      exacts [hm, hm.xlatInvAct.modCmd]
  · exact hm

/-! ### The L1 of a general core (03.6) -/

theorem State.MemOk.drainEntry {k : Nat} {e : L1Line} (hm : s.MemOk) : (s.drainEntry k e).MemOk :=
  hm.writeBackLine.modCore

theorem State.MemOk.drainOldest {k : Nat} (hm : s.MemOk) : (s.drainOldest k).MemOk := by
  unfold Machine.State.drainOldest
  split
  exacts [hm, hm.drainEntry]

theorem State.MemOk.drainLine {k line : Nat} (hm : s.MemOk) : (s.drainLine k line).MemOk :=
  hm.foldl fun _ _ hs => hs.drainEntry

theorem State.MemOk.pushEvb {k : Nat} {l : L1Line} (hm : s.MemOk) : (s.pushEvb k l).MemOk :=
  hm.ite (hm.drainLine.drainOldest.ite hm.drainLine).modCore

theorem State.MemOk.l1Install {k : Nat} {l : L1Line} (hm : s.MemOk) : (s.l1Install k l).MemOk := by
  unfold Machine.State.l1Install
  extract_lets _ _ s₁
  have h₁ : s₁.MemOk := by
    unfold s₁
    split
    · exact hm
    · split
      · exact hm.modCore.pushEvb
      · exact hm
  exact h₁.modCore

theorem State.MemOk.l1Flush {k line : Nat} (hm : s.MemOk) : (s.l1Flush k line).MemOk := by
  unfold Machine.State.l1Flush
  extract_lets
  split
  exacts [hm.drainLine, hm.drainLine.writeBackLine.modCore]

theorem State.MemOk.l1Refresh {k line mask : Nat} (hm : s.MemOk) : (s.l1Refresh k line mask).MemOk := hm.modCore

theorem State.MemOk.l1Rekey {k line key : Nat} (hm : s.MemOk) : (s.l1Rekey k line key).MemOk :=
  hm.l1Flush.modCore.ite hm

theorem State.MemOk.l1Read {k line key off n : Nat} (hm : s.MemOk) : (s.l1Read k line key off n).1.MemOk := by
  unfold Machine.State.l1Read
  extract_lets s₁ _ _ s₂
  have h₁ : s₁.MemOk := hm.l1Rekey
  have h₂ : s₂.MemOk := h₁.drainLine.wakeHbm
  split
  · dsimp only
    split
    · exact h₁.modCore
    · exact h₁
  · split
    · split <;> exact h₁
    · split
      · exact h₂
      · exact h₂.modCore

theorem State.MemOk.l1Store {k line key off : Nat} {b : List Byte} (hm : s.MemOk) :
    (s.l1Store k line key off b).MemOk := by
  unfold Machine.State.l1Store
  extract_lets
  split
  · exact hm.l1Rekey.breakResv.writeMasked.modCore.ite hm.l1Rekey.breakResv.modCore
  · split
    exacts [hm.l1Rekey.breakResv.modCore, hm.l1Rekey.breakResv.l1Install]

theorem State.MemOk.l1Fill {k : Nat} {f : Fill} (hm : s.MemOk) : (s.l1Fill k f).MemOk := by
  unfold Machine.State.l1Fill
  extract_lets
  split
  · exact hm.modCore
  · split <;> exact hm.l1Install

theorem State.MemOk.l1Clean {k : Nat} {p : Nat → Bool} (hm : s.MemOk) : (s.l1Clean k p).MemOk :=
  hm.foldl fun _ _ hs => hs.l1Flush

theorem State.MemOk.l1Drop {k : Nat} {p : L1Line → Bool} {q : Nat → Bool} (hm : s.MemOk) : (s.l1Drop k p q).MemOk :=
  hm.l1Clean.modCore

theorem State.MemOk.l1LockDo {k n ctx : Nat} (hm : s.MemOk) : (s.l1LockDo k n ctx).MemOk :=
  (hm.foldl fun _ _ hs => hs.writeBackLine).modCore

theorem State.MemOk.l1PreLine {k line key : Nat} (hm : s.MemOk) : (s.l1PreLine k line key).1.MemOk := by
  unfold Machine.State.l1PreLine
  extract_lets
  split
  · exact hm
  · split
    exacts [hm, hm.l1Flush.wakeHbm.modCore]

/-! ### The cores' memory accesses (03.5) -/

theorem State.MemOk.landLanes {k : Nat} {l : CoreLoad} {ys : List LaneLoad} (hm : s.MemOk) :
    (s.landLanes k l ys).MemOk := hm.foldl fun _ _ hs => hs.modGroup

theorem State.MemOk.landLoad {k : Nat} {l : CoreLoad} (hm : s.MemOk) : (s.landLoad k l).MemOk := by
  unfold Machine.State.landLoad
  split
  · split
    · extract_lets
      split
      exacts [hm.modCore.landLanes.modCore.coreFault, hm.modCore.landLanes]
    · exact hm
  · exact hm.modCore

theorem State.MemOk.landLoads {k : Nat} (hm : s.MemOk) : (s.landLoads k).MemOk := hm.foldl fun _ _ hs => hs.landLoad

theorem State.MemOk.l1FillReturn {die core line : Nat} (hm : s.MemOk) : (l1FillReturn die core line s).MemOk := by
  unfold Machine.l1FillReturn
  extract_lets
  split
  exacts [hm, (hm.modCore.ite hm.modCore.l1Fill).landLoads]

theorem State.MemOk.evictionDrain {die core : Nat} (hm : s.MemOk) : (evictionDrain die core s).MemOk := hm.drainOldest
theorem State.MemOk.farFill {x : Iss} {l : Xl} (hm : s.MemOk) : (s.farFill x l).MemOk := hm.ite hm.modCore.remoteRead

theorem State.MemOk.askAgain {k g : Nat} {x : Cmd} (hm : s.MemOk) : (s.askAgain k g x).MemOk :=
  hm.foldl fun _ _ hs => hs.foldl fun _ _ ht => ht.ite ht.modCore.remoteRead

theorem State.MemOk.loadPart {x : Iss} {mark : MemMark} {va n : Nat} (hm : s.MemOk) :
    (s.loadPart x mark va n).1.MemOk := by
  unfold Machine.State.loadPart
  split
  · next e₁ => exact hm.xlate.of_eq e₁
  · rename_i e₁
    have h₁ := hm.xlate.of_eq e₁
    split
    · split
      rename_i e₂
      exact h₁.l1Read.of_eq e₂
    · split
      · extract_lets s₁
        have h₁ : s₁.MemOk := h₁.l1Flush.ite h₁
        split <;> next e₂ => exact h₁.localRead.of_eq e₂
      · split
        · split <;> exact h₁
        · exact h₁.farFill

theorem State.MemOk.loadLane {x : Iss} {mark : MemMark} {size lane va : Nat} {a : LoadAcc} (hm : s.MemOk) :
    (s.loadLane x mark size lane va a).1.MemOk := by
  unfold Machine.State.loadLane
  split
  · exact hm
  · split
    rename_i e₁
    refine State.MemOk.of_eq (hm.foldl_fst fun _ _ hs => ?_) e₁
    split
    · exact hs
    · split
      rename_i e₂
      exact hs.loadPart.of_eq e₂

theorem State.MemOk.keepLoad {x : Iss} {l : CoreLoad} (hm : s.MemOk) : (s.keepLoad x l).MemOk := hm.modCore.modGroup

theorem State.MemOk.load {i : Issue} {mark : MemMark} {size rd ra : Nat} {off : W64} (hm : s.MemOk) :
    (load i mark size rd ra off s).MemOk := by
  unfold Machine.load
  refine hm.issue fun _ _ hs => ?_
  extract_lets
  split
  rename_i e₁
  have h₁ := State.MemOk.of_eq (State.MemOk.foldl_fst hs fun _ _ ht => ht.loadLane) e₁
  split
  · exact hs.pathStall
  · extract_lets _ s₂
    have h₂ : s₂.MemOk := h₁.landLanes.ite h₁.keepLoad
    split
    exacts [h₂.laneFault, h₂.next]

theorem State.MemOk.storeParts {x : Iss} {need : Need} {va n : Nat} (hm : s.MemOk) :
    (s.storeParts x need va n).1.MemOk := by
  unfold Machine.State.storeParts
  refine hm.foldl_fst fun _ _ hs => ?_
  split
  · exact hs
  · split
    · next e₂ => exact hs.xlate.of_eq e₂
    · rename_i e₂
      have h₂ := hs.xlate.of_eq e₂
      split <;> exact h₂

theorem State.MemOk.storePart {x : Iss} {mark : MemMark} {stream lane instr : Nat} {l : Xl} {b : List Byte}
    (hm : s.MemOk) : (s.storePart x mark stream lane instr l b).1.MemOk := by
  unfold Machine.State.storePart
  split
  · exact hm.l1Store
  · split
    · extract_lets
      split
      rename_i e₁
      have h₁ := (hm.l1Flush.ite hm).localWrite.of_eq e₁
      exact h₁.l1Refresh.ite h₁
    · exact hm.remoteWrite

theorem State.MemOk.endResv {x : Iss} {lane : Nat} (hm : s.MemOk) : (s.endResv x lane).MemOk := hm

theorem State.MemOk.storeLane {x : Iss} {mark : MemMark} {size rv stream instr lane va : Nat}
    {a : Option (Nat × Nat × Nat)} (hm : s.MemOk) : (s.storeLane x mark size rv stream instr lane va a).1.MemOk := by
  unfold Machine.State.storeLane
  split
  · exact hm
  · split
    · next e₁ => exact hm.storeParts.of_eq e₁
    · rename_i e₁
      extract_lets
      refine (hm.storeParts.of_eq e₁).endResv.foldl_fst fun _ _ ht => ?_
      split
      rename_i e₃
      exact ht.storePart.of_eq e₃

theorem State.MemOk.store {i : Issue} {mark : MemMark} {size rv ra : Nat} {off : W64} {stream : Nat} (hm : s.MemOk) :
    (store i mark size rv ra off stream s).MemOk := by
  unfold Machine.store
  refine hm.issue fun _ _ hs => ?_
  extract_lets
  split
  · exact hs.pathStall
  · split
    rename_i e₁
    have h₁ := (hs.foldl_fst fun _ _ ht => ht.storeLane).of_eq e₁
    split
    · exact h₁.laneFault
    · exact h₁.next

theorem State.MemOk.wordAt {x : Iss} {need : Need} {size va : Nat} (hm : s.MemOk) :
    (s.wordAt x need size va).1.MemOk := by
  unfold Machine.State.wordAt
  split <;> next e₁ => exact hm.storeParts.of_eq e₁

theorem State.MemOk.onWord {x : Iss} {l : Xl} {n : Nat} {act : State → State × Except Nat Nat} (hm : s.MemOk)
    (ha : ∀ t, t.MemOk → (act t).1.MemOk) : (s.onWord x l n act).1.MemOk := by
  unfold Machine.State.onWord
  split
  · split
    rename_i e₁
    exact ((ha _ hm.l1Flush).of_eq e₁).l1Refresh
  · exact ha _ hm

theorem State.MemOk.wordLanes {x : Iss} {need : Need} {size rd rsize : Nat} {va : Nat → Nat}
    {act : State → Nat → Xl → State × Except Nat (Option Nat)} (hm : s.MemOk)
    (ha : ∀ t a b, t.MemOk → (act t a b).1.MemOk) : (s.wordLanes x need size rd rsize va act).1.MemOk := by
  refine hm.foldl_fst fun _ _ hs => ?_
  split
  · exact hs
  · split <;> rename_i e₁ <;> have h₁ := hs.wordAt.of_eq e₁
    · exact h₁
    · split <;> rename_i e₂ <;> have h₂ := (ha _ _ _ h₁).of_eq e₂
      · exact h₂
      · exact h₂.modGroup
      · exact h₂

theorem State.MemOk.wordEnd {r : State × Option (Nat × Nat × Nat)} {x : Iss} {kind : Nat} (hm : r.1.MemOk) :
    (State.wordEnd r x kind).MemOk := by
  unfold Machine.State.wordEnd
  split
  · exact hm.laneFault
  · exact hm.next

theorem State.MemOk.atomicLane {x : Iss} {op : AtomOp} {size rd rb rc n j : Nat} {l : Xl} (hm : s.MemOk) :
    (atomicLane x op size rd rb rc n s j l).1.MemOk := by
  unfold Machine.atomicLane
  extract_lets _ _ s₁ s₂
  have h₁ : s₁.MemOk := hm.endResv
  split
  · split <;> next e₂ =>
      refine State.MemOk.of_eq (h₁.onWord fun _ hs => ?_) e₂
      exact hs.atomicAt
  · exact h₁.remoteAtomic.modGroup

theorem State.MemOk.atomicInstr {i : Issue} {op : AtomOp} {size rd ra rb rc : Nat} (hm : s.MemOk) :
    (atomicInstr i op size rd ra rb rc s).MemOk := by
  unfold Machine.atomicInstr
  split
  exacts [hm, hm.issue fun _ _ hs => hs.pathStall.ite (hs.wordLanes fun _ _ _ ht => ht.atomicLane).wordEnd]

theorem State.MemOk.llLane {x : Iss} {size j : Nat} {l : Xl} (hm : s.MemOk) : (llLane x size s j l).1.MemOk := by
  unfold Machine.llLane
  split
  · extract_lets a read
    have hread (t : State) (ht : t.MemOk) : (read t).1.MemOk := by
      unfold read
      split <;> next e₁ => exact ht.pread.of_eq e₁
    split <;> rename_i e₂ <;> have h₂ := (hm.onWord hread).of_eq e₂
    · extract_lets s₃
      have h₃ : s₃.MemOk := h₂.endResv
      exact h₃.update
    · exact h₂
  · exact hm

theorem State.MemOk.ll {i : Issue} {size rd ra : Nat} (hm : s.MemOk) : (ll i size rd ra s).MemOk := by
  unfold Machine.ll
  exact hm.issue fun _ _ hs => (hs.wordLanes fun _ _ _ ht => ht.llLane).wordEnd.update

theorem State.MemOk.scLane {x : Iss} {size rv j : Nat} {l : Xl} (hm : s.MemOk) : (scLane x size rv s j l).1.MemOk := by
  unfold Machine.scLane
  extract_lets a write
  have hwrite (t : State) (ht : t.MemOk) : (write t).1.MemOk := by
    unfold write
    split <;> next e₁ => exact ht.pwrite.of_eq e₁
  split
  · split
    · split <;> next e₂ => exact (hm.endResv.onWord hwrite).of_eq e₂
    · exact hm.endResv
  · exact hm

theorem State.MemOk.sc {i : Issue} {size rd ra rv : Nat} (hm : s.MemOk) : (sc i size rd ra rv s).MemOk :=
  hm.issue fun _ _ hs => (hs.wordLanes fun _ _ _ ht => ht.scLane).wordEnd

theorem State.MemOk.addToLine {i : Issue} {ra rp : Nat} {sectors : BitVec 4} {rop : Nat} {exact : Bool} {anchor : Int}
    (hm : s.MemOk) : (addToLine i ra rp sectors rop exact anchor s).MemOk := by
  unfold Machine.addToLine
  split
  · exact hm
  · refine hm.issue fun _ _ hs => ?_
    extract_lets -underBinder f va w
    split <;> rename_i e₁ <;> have h₁ := hs.xlate.of_eq e₁
    · exact h₁.laneFault
    · extract_lets -underBinder
      split
      · exact h₁.laneFault
      · split
        · split
          rename_i e₂
          have h₂ := h₁.l1Flush.nextRTag.of_eq_snd e₂
          split
          rename_i s₃ _ _ e₃
          have h₃ : s₃.MemOk := by
            refine State.MemOk.of_eq (h₂.once fun _ ht => ?_) e₃
            split
            rename_i e₄
            exact ht.addLineAt.of_eq e₄
          extract_lets s₄
          have h₄ : s₄.MemOk := h₃.l1Refresh.launchStatus
          exact State.MemOk.next (h₄.foldl fun _ _ ht => ht.endResv)
        · split
          · exact h₁.pathStall
          · exact h₁.remoteAddLine.next

theorem State.MemOk.fenceInstr {i : Issue} {scope : Nat} (hm : s.MemOk) : (fenceInstr i scope s).MemOk := by
  unfold Machine.fenceInstr
  refine hm.issue fun _ _ hs => ?_
  split
  · exact hs.pathStall
  · split
    rename_i e₂
    exact (hs.fenceScope.of_eq e₂).launchStatus.next

theorem State.MemOk.fenceT {i : Issue} (hm : s.MemOk) : (fenceT i s).MemOk := hm.fenceInstr
theorem State.MemOk.fenceP {i : Issue} (hm : s.MemOk) : (fenceP i s).MemOk := hm.fenceInstr
theorem State.MemOk.fenceG {i : Issue} (hm : s.MemOk) : (fenceG i s).MemOk := hm.fenceInstr

theorem State.MemOk.l1wb {i : Issue} {ra rl : Nat} (hm : s.MemOk) : (l1wb i ra rl s).MemOk :=
  hm.issue fun _ _ hs => hs.l1Clean.next

theorem State.MemOk.invDone {x : Iss} {q : Nat → Bool} (hm : s.MemOk) : (s.invDone x q).MemOk :=
  hm.pathStall.ite hm.next

theorem State.MemOk.l1inv {i : Issue} {ra rl : Nat} (hm : s.MemOk) : (l1inv i ra rl s).MemOk :=
  hm.issue fun _ _ hs => hs.l1Drop.invDone

theorem State.MemOk.l1wbAll {i : Issue} (hm : s.MemOk) : (l1wbAll i s).MemOk := hm.issue fun _ _ hs => hs.l1Clean.next

theorem State.MemOk.l1invAll {i : Issue} (hm : s.MemOk) : (l1invAll i s).MemOk :=
  hm.issue fun _ _ hs => hs.l1Drop.invDone

theorem State.MemOk.l1lock {i : Issue} {n : Nat} (hm : s.MemOk) : (l1lock i n s).MemOk :=
  hm.ite (hm.issue fun _ _ hs => hs.l1LockDo.next)

theorem State.MemOk.l1PreLane {x : Iss} {lane va n : Nat} (hm : s.MemOk) : (s.l1PreLane x lane va n).1.MemOk := by
  unfold Machine.State.l1PreLane
  refine hm.foldl_fst fun _ _ hs => ?_
  split
  · exact hs
  · extract_lets
    split
    · next e₂ => exact hs.xlate.of_eq e₂
    · rename_i e₂
      have h₂ := hs.xlate.of_eq e₂
      split
      · split
        rename_i e₃
        exact h₂.l1PreLine.of_eq e₃
      · exact h₂

theorem State.MemOk.l1pre {i : Issue} {rd ra rl : Nat} (hm : s.MemOk) : (l1pre i rd ra rl s).MemOk := by
  unfold Machine.l1pre
  refine hm.issue fun _ _ hs => ?_
  split
  rename_i s₁ _ e₁
  have h₁ : s₁.MemOk := by
    refine State.MemOk.of_eq (hs.foldl_fst fun _ _ ht => ?_) e₁
    split
    · exact ht
    · split <;> rename_i e₂ <;> have h₂ := ht.l1PreLane.of_eq e₂
      · exact h₂.modGroup
      · exact h₂
  split
  · exact h₁.laneFault
  · exact h₁.next

theorem State.MemOk.l1unlock {i : Issue} (hm : s.MemOk) : (l1unlock i s).MemOk := hm.issue fun _ _ hs => hs.modCore.next

/-! ### Matrix commands (02) -/

theorem State.MemOk.readOperand {id : Nat} {iss : Issuer} {base pitch k c scale n : Nat} (hm : s.MemOk) :
    (s.readOperand id iss base pitch k c scale n).1.MemOk := by
  unfold Machine.State.readOperand
  refine hm.foldl_fst fun _ _ hs => ?_
  extract_lets
  split
  rename_i e₂
  split
  rename_i e₃
  split
  exact (hs.cmdRead.of_eq e₂).cmdRead.of_eq e₃

theorem State.MemOk.readSides {id : Nat} {iss : Issuer} {on : Bool} {base c n : Nat} (hm : s.MemOk) :
    (s.readSides id iss on base c n).1.MemOk := by
  unfold Machine.State.readSides
  split
  · extract_lets
    refine hm.foldl_fst fun _ _ hs => ?_
    split
    rename_i e₂
    exact hs.cmdRead.of_eq e₂
  · exact hm

theorem State.MemOk.stickyOn {f : Fld} {l : List Nat} (hm : s.MemOk) : (s.stickyOn f l).MemOk := by
  unfold Machine.State.stickyOn
  split
  rename_i e₁
  exact (hm.fresh.of_eq_snd e₁).foldl fun _ _ hs => hs.setFld.ite hs

theorem State.MemOk.stickyIf {b : Bool} {f : Fld} {l : List Nat} (hm : s.MemOk) : (s.stickyIf b f l).MemOk :=
  hm.stickyOn.ite hm

theorem State.MemOk.arrFault {c : Cmd} {l : List Nat} {st : Nat} (hm : s.MemOk) : (s.arrFault c l st).MemOk :=
  hm.foldl fun _ _ hs => hs.setReg

theorem State.MemOk.gemmFault {c : Cmd} {l : List Nat} {f : XFault} (hm : s.MemOk) : (s.gemmFault c l f).1.MemOk :=
  hm.spoilOutputs.noteVa.arrFault

theorem State.MemOk.gemmRow1 {c : Cmd} {iss : Issuer} {aux : List Byte} {g : GemmIn} {i : Nat} {a : OpRow}
    {x : GemmSum} (hm : s.MemOk) : (s.gemmRow1 c iss aux g i a x).1.MemOk := by
  unfold Machine.State.gemmRow1
  extract_lets
  split
  rename_i e₁
  exact hm.update.writePieces.of_eq e₁

theorem State.MemOk.gemmIn {c : Cmd} {iss : Issuer} {aux : List Byte} (hm : s.MemOk) :
    (s.gemmIn c iss aux).1.MemOk := by
  unfold Machine.State.gemmIn
  extract_lets
  split
  rename_i e₁
  have h₁ := hm.readOperand.of_eq e₁
  split
  rename_i e₂
  have h₂ := h₁.readOperand.of_eq e₂
  split
  rename_i e₃
  have h₃ := h₂.readSides.of_eq e₃
  split
  rename_i e₄
  have h₄ := h₃.readSides.of_eq e₄
  split
  rename_i e₅
  have h₅ := h₄.readSides.of_eq e₅
  split
  rename_i e₆
  exact h₅.readSides.of_eq e₆

theorem State.MemOk.gemmEnd {c : Cmd} {l : List Nat} {x : GemmSum} (hm : s.MemOk) : (s.gemmEnd c l x).1.MemOk := by
  unfold Machine.State.gemmEnd
  extract_lets
  split
  rename_i e₁
  extract_lets _ _ s₂
  have h₂ : s₂.MemOk := (hm.fresh.of_eq_snd e₁).modCmd.stickyIf.stickyIf.stickyIf.stickyIf
  exact h₂.arrFault.ite h₂

theorem State.MemOk.gemmRun {c : Cmd} {l : List Nat} {iss : Issuer} {aux : List Byte} (hm : s.MemOk) :
    (s.gemmRun c l iss aux).1.MemOk := by
  unfold Machine.State.gemmRun
  split
  rename_i e₁
  split
  rename_i e₂
  have h₂ := (hm.gemmIn.of_eq e₁).probeAll.of_eq e₂
  split
  · exact h₂.gemmFault
  · exact h₂.gemmFault
  · split
    rename_i e₃
    refine State.MemOk.gemmEnd (State.MemOk.of_eq (State.MemOk.foldl_fst h₂ fun _ _ hs => ?_) e₃)
    exact hs.gemmRow1

theorem State.MemOk.readAux {c : Cmd} {iss : Issuer} (hm : s.MemOk) : (s.readAux c iss).1.MemOk := by
  unfold Machine.State.readAux
  extract_lets
  split
  · exact hm
  · split
    · next e₁ => exact hm.await.of_eq e₁
    · rename_i e₁
      split
      rename_i e₂
      have h₂ := (hm.await.of_eq e₁).cmdRead.of_eq e₂
      split
      · exact h₂
      · split
        · exact h₂
        · split <;> exact h₂

theorem State.MemOk.gemmBody {tiles : TileMask} {c : Cmd} (hm : s.MemOk) : (gemmBody tiles s c).1.MemOk := by
  unfold Machine.gemmBody
  extract_lets
  split
  · exact hm
  · split
    · exact hm
    · split
      · exact hm.spoilOutputs
      · split
        · next e₁ => exact hm.readAux.of_eq e₁
        · rename_i e₁
          have h₁ := hm.readAux.of_eq e₁
          exact h₁.noteVa.arrFault.stickyIf.ite h₁
        · rename_i e₁
          have h₁ := hm.readAux.of_eq e₁
          split
          · exact h₁
          · split
            · next e₂ => exact h₁.awaitAll.of_eq e₂
            · next e₂ => exact (h₁.awaitAll.of_eq e₂).gemmRun

theorem State.MemOk.fillSlot {p slot : Nat} {b : List Byte} (hm : s.MemOk) : (s.fillSlot p slot b).MemOk :=
  hm.update.foldl fun _ _ hs => hs.setReg

theorem State.MemOk.actTableLoadBody {c : Cmd} (hm : s.MemOk) : (actTableLoadBody s c).1.MemOk := by
  unfold Machine.actTableLoadBody
  extract_lets
  split
  · exact hm
  · split
    · exact hm
    · split
      · exact hm
      · split
        · next e₁ => exact hm.await.of_eq e₁
        · rename_i e₁
          split
          rename_i e₂
          have h₂ := (hm.await.of_eq e₁).cmdRead.of_eq e₂
          split
          · exact h₂.noteVa
          · split
            · exact h₂.noteVa
            · split
              exacts [h₂.fillSlot, h₂]

/-! ### Kernel launches (03.8) -/

theorem State.MemOk.runTiled {id opcode : Nat} {body : State → Cmd → State × Option Nat} (hm : s.MemOk)
    (hb : ∀ t a, t.MemOk → (body t a).1.MemOk) : (s.runTiled id opcode body).MemOk := by
  unfold Machine.State.runTiled
  split
  · exact hm
  · exact hm.ite (hm.runCmd hb)

theorem State.MemOk.readArgs {c : Cmd} (hm : s.MemOk) : (s.readArgs c).1.MemOk := by
  unfold Machine.State.readArgs
  extract_lets
  split
  split
  · exact hm
  · split
    · exact hm
    · split
      · next e₁ => exact hm.await.of_eq e₁
      · rename_i e₁
        split
        rename_i e₂
        have h₂ := (hm.await.of_eq e₁).cmdRead.of_eq e₂
        split
        · exact h₂.noteVa
        · split
          exacts [h₂.noteVa, h₂]

theorem State.MemOk.launchBody {cores : List Nat} {c : Cmd} (hm : s.MemOk) : (launchBody cores s c).1.MemOk := by
  unfold Machine.launchBody
  extract_lets
  split
  · exact hm
  · split
    · exact hm
    · split
      · exact hm
      · split
        · exact hm
        · split
          · next e₁ => exact hm.readArgs.of_eq e₁
          · next e₁ => exact hm.readArgs.of_eq e₁
          · next e₁ => exact (hm.readArgs.of_eq e₁).update

theorem State.MemOk.kernelStart {k : Nat} {c : Cmd} (hm : s.MemOk) : (s.kernelStart k c).MemOk :=
  hm.modCore.update.setFld

theorem State.MemOk.placeBlock {k : Nat} {c : Cmd} {b : Nat} (hm : s.MemOk) : (s.placeBlock k c b).MemOk := by
  unfold Machine.State.placeBlock
  exact hm.modCore.update

theorem State.MemOk.blockStart {id die core : Nat} (hm : s.MemOk) : (blockStart id die core s).MemOk := by
  unfold Machine.blockStart
  extract_lets
  split
  exacts [(hm.kernelStart.ite hm).placeBlock.ite hm, hm]

theorem State.MemOk.launchOver {id : Nat} {c : Cmd} (hm : s.MemOk) : (s.launchOver id c).MemOk := by
  unfold Machine.State.launchOver
  split
  exacts [hm.endCmd.ite hm, hm]

theorem State.MemOk.kernelEnd {id die core : Nat} (hm : s.MemOk) : (kernelEnd id die core s).MemOk := by
  unfold Machine.kernelEnd
  extract_lets
  split
  exacts [hm.cleanCore.modCore.dropRemotesOf.update.setReg.setFld.launchOver.ite hm, hm]

theorem State.MemOk.parkTimeout {id block group : Nat} (hm : s.MemOk) : (parkTimeout id block group s).MemOk := by
  unfold Machine.parkTimeout
  split
  exacts [hm.stopLaunch.ite hm, hm]

theorem State.MemOk.resumeGroupDo {r : List Byte} (hm : s.MemOk) : (resumeGroupDo s r).1.MemOk := by
  unfold Machine.resumeGroupDo
  split
  · exact hm
  · split
    · exact hm.stopLaunch
    · split
      exacts [hm.modGroup.askAgain.landLoads, hm.modGroup]

theorem State.MemOk.launchOverrun {id die core : Nat} (hm : s.MemOk) : (launchOverrun id die core s).MemOk := by
  unfold Machine.launchOverrun
  extract_lets
  split
  · split
    exacts [hm.stopLaunch.ite hm, hm]
  · exact hm

/-! ### Collectives (07.9) -/

theorem State.MemOk.dropJob {j : Job} (hm : s.MemOk) : (s.dropJob j).MemOk := hm

theorem State.MemOk.closeColl {j : Job} {number : Nat} (hm : s.MemOk) : (s.closeColl j number).MemOk := by
  unfold Machine.State.closeColl
  exact hm.putJob.update

theorem State.MemOk.issueColl {c : Cmd} {g : Group16} {members : List Nat} (hm : s.MemOk) :
    (s.issueColl c g members).MemOk := (hm.putJob.modCmd.tellMembers fun _ hs => hs.ctlColl).checkJob

theorem State.MemOk.collOpen {c : Cmd} (hm : s.MemOk) : (collOpen s c).1.MemOk := by
  unfold Machine.collOpen
  extract_lets
  split
  · next e₁ => exact hm.readWhole.of_eq e₁
  · next e₁ => exact hm.readWhole.of_eq e₁
  · rename_i e₁
    have h₁ := hm.readWhole.of_eq e₁
    extract_lets
    split
    · exact h₁
    · split
      · next e₂ => exact h₁.readWhole.of_eq e₂
      · next e₂ => exact h₁.readWhole.of_eq e₂
      · rename_i e₂
        have h₂ := h₁.readWhole.of_eq e₂
        split
        · split
          · exact h₂
          · split
            exacts [h₂, h₂.issueColl]
        · exact h₂.issueColl

theorem State.MemOk.collFinish {c : Cmd} {j : Job} {k : JobCur} {ins : List (List Byte)} (hm : s.MemOk) :
    (s.collFinish c j k ins).1.MemOk := by
  unfold Machine.State.collFinish
  extract_lets
  split
  split
  · next e₁ => exact (hm.probe.of_eq e₁).closeColl.endFault
  · rename_i e₁
    split
    rename_i e₂
    exact ((hm.probe.of_eq e₁).cmdWrite.of_eq e₂).closeColl

theorem State.MemOk.collData {others : List (Nat × List Byte)} {c : Cmd} {j : Job} {k : JobCur} (hm : s.MemOk) :
    (collData others s c j k).1.MemOk := by
  unfold Machine.collData
  extract_lets
  split
  · exact hm.closeColl
  · split
    · split
      · next e₁ => exact hm.readWhole.of_eq e₁
      · next e₁ => exact (hm.readWhole.of_eq e₁).closeColl.spoilOutputs
      · rename_i e₁
        have h₁ := hm.readWhole.of_eq e₁
        split
        exacts [h₁, h₁.collFinish]
    · split
      exacts [hm, hm.collFinish]

theorem State.MemOk.collStep {others : List (Nat × List Byte)} {c : Cmd} (hm : s.MemOk) :
    (collStep others s c).1.MemOk := by
  unfold Machine.collStep
  split
  · exact hm
  · split
    · exact hm
    · extract_lets
      split
      · exact hm
      · split
        · exact hm.collData
        · split
          exacts [hm.closeColl.dropJob, hm.putJob.collData]

theorem State.MemOk.collBody {others : List (Nat × List Byte)} {c : Cmd} (hm : s.MemOk) :
    (collBody others s c).1.MemOk := by
  unfold Machine.collBody
  extract_lets
  split
  · exact hm
  · split
    · exact hm.spoilOutputs
    · split
      · split
        · next e₁ =>
          have h₁ := hm.collOpen.of_eq e₁
          split
          · split
            · exact h₁.collStep
            · exact h₁
          · exact h₁
        · exact hm.collOpen
      · exact hm.collStep

theorem State.MemOk.collectiveTimeout {id : Nat} (hm : s.MemOk) : (collectiveTimeout id s).MemOk := by
  unfold Machine.collectiveTimeout
  split
  · exact hm
  · split
    · split
      exacts [hm.closeColl.failColl.ite hm.closeColl.dropJob.dropRemotesOf.endCmd, hm.failColl]
    · exact hm

/-! ### The row sequencer's memory (08.3) -/

theorem State.MemOk.setRsqState {p n : Nat} (hm : s.MemOk) : (s.setRsqState p n).MemOk := hm.setFld
theorem State.MemOk.putRsq {p : Nat} {r : Rsq} (hm : s.MemOk) : (s.putRsq p r).MemOk := hm

theorem State.MemOk.seqRead {iss : Issuer} {va n : Nat} (hm : s.MemOk) : (s.seqRead iss va n).1.MemOk := by
  unfold Machine.State.seqRead
  refine hm.foldl_fst fun _ _ hs => ?_
  split
  · exact hs
  · split
    · next e₂ => exact hs.xlate.of_eq e₂
    · rename_i e₂
      have h₂ := hs.xlate.of_eq e₂
      split
      · split <;> next e₃ => exact h₂.localRead.of_eq e₃
      · extract_lets
        split
        rename_i e₃
        exact h₂.remoteRead.fresh.of_eq_snd e₃

theorem State.MemOk.seqWrite {iss : Issuer} {va : Nat} {b : List Byte} (hm : s.MemOk) :
    (s.seqWrite iss va b).1.MemOk := by
  refine hm.foldl_fst fun _ _ hs => ?_
  extract_lets
  split <;> rename_i e₁ <;> have h₁ := hs.xlate.of_eq e₁
  · exact h₁
  · split
    · split
      rename_i e₂
      exact h₁.localWrite.of_eq e₂
    · dsimp only
      exact h₁.remoteWrite

theorem State.MemOk.publishRsq {p : Nat} {r : Rsq} (hm : s.MemOk) : (s.publishRsq p r).1.MemOk := by
  unfold Machine.State.publishRsq
  extract_lets
  split
  rename_i e₁
  split
  rename_i e₂
  split
  rename_i e₃
  split
  rename_i e₄
  split
  rename_i e₅
  exact (((((hm.fresh.of_eq_snd e₁).seqWrite.of_eq e₂).seqWrite.of_eq e₃).seqWrite.of_eq e₄).seqWrite.of_eq e₅).setReg

theorem State.MemOk.loadRsq {p : Nat} {r : Rsq} (hm : s.MemOk) : (s.loadRsq p r).1.MemOk := by
  unfold Machine.State.loadRsq
  extract_lets
  split
  · next e₁ => exact hm.seqRead.of_eq e₁
  · rename_i e₁
    have h₁ := hm.seqRead.of_eq e₁
    split
    · exact h₁
    · split
      · next e₂ => exact h₁.seqRead.of_eq e₂
      · rename_i e₂
        have h₂ := h₁.seqRead.of_eq e₂
        split
        · next e₃ => exact h₂.seqRead.of_eq e₃
        · rename_i e₃
          have h₃ := h₂.seqRead.of_eq e₃
          split
          · next e₄ => exact h₃.seqRead.of_eq e₄
          · rename_i e₄
            have h₄ := h₃.seqRead.of_eq e₄
            split
            exacts [h₄, h₄.setRsqState.setFld.ite h₄]

/-! ### Accesses from outside the package -/

theorem State.MemOk.outerIssuer {ctx : Nat} (hm : s.MemOk) : (s.outerIssuer ctx).2.MemOk := by
  unfold Machine.State.outerIssuer
  split
  rename_i e₁
  exact hm.fresh.of_eq_snd e₁

theorem State.MemOk.outerRead {iss : Issuer} {va n : Nat} (hm : s.MemOk) : (s.outerRead iss va n).1.MemOk := by
  unfold Machine.State.outerRead
  refine hm.foldl_fst fun _ _ hs => ?_
  split
  · exact hs
  · split
    · next e₂ => exact hs.xlate.of_eq e₂
    · rename_i e₂
      have h₂ := hs.xlate.of_eq e₂
      split
      · split <;> next e₃ => exact h₂.localRead.of_eq e₃
      · extract_lets
        split
        rename_i e₃
        exact h₂.remoteRead.fresh.of_eq_snd e₃

theorem State.MemOk.apertureFail {f : Nat} {read : Bool} (hm : s.MemOk) : (s.apertureFail f read).MemOk :=
  hm.modFunc.bump.emit.ite hm.modFunc

theorem State.MemOk.hostApertureAccess {f off : Nat} {acc : HostAcc} (hm : s.MemOk) :
    (hostApertureAccess f off acc s).MemOk := by
  unfold Machine.hostApertureAccess
  extract_lets
  split
  · exact hm.bump.emit.ite hm.bump
  · split
    · exact hm.bump.apertureFail
    · split
      rename_i e₁
      have h₁ := hm.bump.outerIssuer.of_eq_snd e₁
      split
      · next e₂ => exact (h₁.probe.of_eq e₂).apertureFail
      · rename_i e₂
        have h₂ := h₁.probe.of_eq e₂
        split
        · split
          · next e₃ => exact (h₂.outerRead.of_eq e₃).emit
          · next e₃ => exact (h₂.outerRead.of_eq e₃).apertureFail
        · exact h₂.seqWrite

theorem State.MemOk.guestRefuse {site st : Nat} (hm : s.MemOk) : (s.guestRefuse site st).MemOk := hm.incFld.bump.emit

theorem State.MemOk.guestDo {site : Nat} {iss : Issuer} {q : GuestReq} (hm : s.MemOk) :
    (s.guestDo site iss q).MemOk := by
  unfold Machine.State.guestDo
  split
  · split
    · next e₁ => exact (hm.outerRead.of_eq e₁).emit
    · next e₁ => exact (hm.outerRead.of_eq e₁).guestRefuse
  · split
    · next e₁ => exact (hm.seqWrite.of_eq e₁).emit
    · next e₁ => exact (hm.seqWrite.of_eq e₁).guestRefuse
  · split
    · next e₁ => exact (hm.seqWrite.of_eq e₁).emit
    · next e₁ => exact (hm.seqWrite.of_eq e₁).guestRefuse
  · split
    · next e₁ => exact (hm.xlate.of_eq e₁).guestRefuse
    · rename_i e₁
      have h₁ := hm.xlate.of_eq e₁
      split
      · next e₂ => exact (h₁.atomicAt.of_eq e₂).emit
      · next e₂ => exact (h₁.atomicAt.of_eq e₂).guestRefuse
  · split
    · next e₁ => exact (hm.xlate.of_eq e₁).guestRefuse
    · rename_i e₁
      have h₁ := hm.xlate.of_eq e₁
      split
      · exact h₁.guestRefuse
      · extract_lets
        split
        rename_i e₂
        exact (h₁.addLineAt.of_eq e₂).emit

theorem State.MemOk.guestRequest {site : Nat} {q : GuestReq} (hm : s.MemOk) : (guestRequest site q s).MemOk := by
  unfold Machine.guestRequest
  split
  · exact hm
  · extract_lets
    split
    · exact hm.bump.guestRefuse
    · split
      rename_i e₁
      have h₁ := hm.bump.outerIssuer.of_eq_snd e₁
      split
      · next e₂ => exact (h₁.probe.of_eq e₂).guestRefuse
      · rename_i e₂
        have h₂ := h₁.probe.of_eq e₂
        exact h₂.guestDo.ite h₂.guestRefuse

/-! ### What the MGC does -/

theorem State.MemOk.stageBytes {r : List Byte} (hm : s.MemOk) : (s.stageBytes r).1.MemOk := by
  unfold Machine.State.stageBytes
  split
  · next e₁ => exact hm.readPhys.of_eq e₁
  · rename_i e₁
    have h₁ := hm.readPhys.of_eq e₁
    split
    · split <;> exact h₁
    · split
      · exact h₁
      · split <;> exact h₁

theorem State.MemOk.setOther {x : FwCopy} (hm : s.MemOk) : (s.setOther x).MemOk := hm.update.setFld.setFld
theorem State.MemOk.eraseOther {image : Bool} (hm : s.MemOk) : (s.eraseOther image).MemOk := hm.update.ite hm.setOther

theorem State.MemOk.writeFlash {image : Bool} {b : List Byte} {flashOk : Bool} (hm : s.MemOk) :
    (s.writeFlash image b flashOk).1.MemOk := by
  unfold Machine.State.writeFlash
  split
  · exact hm.eraseOther
  · split
    · exact hm
    · split
      exacts [hm.eraseOther, hm.setOther]

theorem State.MemOk.fwStageBody {flashOk : Bool} {c : Cmd} (hm : s.MemOk) : (fwStageBody flashOk s c).1.MemOk := by
  unfold Machine.fwStageBody
  extract_lets
  split
  · split
    · exact hm
    · split
      · next e₁ => exact hm.stageBytes.of_eq e₁
      · next e₁ => exact (hm.stageBytes.of_eq e₁).modCmd.eraseOther
  · split
    · next e₁ => exact hm.stageBytes.of_eq e₁
    · rename_i e₁
      split
      rename_i e₂
      exact (hm.stageBytes.of_eq e₁).writeFlash.of_eq e₂

theorem State.MemOk.fwActivate {id : Nat} (hm : s.MemOk) : (fwActivate id s).MemOk := by
  unfold Machine.fwActivate
  split
  · exact hm
  · split
    · split
      rename_i e₁
      exact (hm.fresh.of_eq_snd e₁).preferOther.packageReset
    · refine hm.runCmd fun _ _ hs => ?_
      extract_lets
      split
      · exact hs
      · split
        exacts [hs, hs.preferOther]

theorem State.MemOk.attestDo {r : List Byte} (hm : s.MemOk) : (attestDo s r).1.MemOk := by
  unfold Machine.attestDo
  split
  · next e₁ => exact hm.readPhys.of_eq e₁
  · rename_i e₁
    split
    rename_i e₂
    have h₂ := (hm.readPhys.of_eq e₁).fresh.of_eq_snd e₂
    extract_lets
    split
    · exact h₂
    · split <;> next e₃ => exact h₂.writePhys.of_eq e₃

theorem State.MemOk.spdmRequest {bytes : List Byte} {_known : Bool} (hm : s.MemOk) :
    (spdmRequest bytes _known s).MemOk := by
  unfold Machine.spdmRequest
  split
  · split
    rename_i e₁
    exact (hm.fresh.of_eq_snd e₁).emit
  · exact hm

theorem State.MemOk.fleetKeySet {key : BitVec 256} {sessionOk : Bool} (hm : s.MemOk) :
    (fleetKeySet key sessionOk s).MemOk := by
  unfold Machine.fleetKeySet
  split
  · extract_lets
    split
    rename_i e₁
    exact (hm.update.setFld.setFld.fresh.of_eq_snd e₁).emit
  · split
    rename_i e₁
    have h₁ := hm.fresh.of_eq_snd e₁
    exact h₁.emit.ite h₁

theorem State.MemOk.pldmGetSensor {sid : Nat} (hm : s.MemOk) : (pldmGetSensor sid s).MemOk := by
  unfold Machine.pldmGetSensor
  split
  · split
    · exact hm.emit
    · split
      rename_i e₁
      exact (hm.fresh.of_eq_snd e₁).emit
  · exact hm

theorem State.MemOk.pldmOk (hm : s.MemOk) : s.pldmOk.MemOk := hm.emit

theorem State.MemOk.pldmSetEffecter {eid : Nat} {value : W64} (hm : s.MemOk) : (pldmSetEffecter eid value s).MemOk := by
  unfold Machine.pldmSetEffecter
  extract_lets v refuse
  have hrefuse : refuse.MemOk := hm.emit
  split
  · exact hm
  · split
    · exact hrefuse.ite hm.capSetDo.pldmOk
    · exact hrefuse.ite hm.shedLevelSetDo.pldmOk
    · refine hrefuse.ite ?_
      generalize v = n
      split
      · exact hm.shedDo.pldmOk
      · exact hm.restoreDo.pldmOk
      · exact hrefuse
    · split
      · exact hrefuse
      · split
        · split
          rename_i e₁
          exact (hm.fresh.of_eq_snd e₁).packageReset.pldmOk
        · exact hm.acceptReset.pldmOk
    · exact hm.bindOff.pldmOk.ite hrefuse
    · exact hrefuse

theorem State.MemOk.pldmCopy (hm : s.MemOk) : s.pldmCopy.1.MemOk := by
  unfold Machine.State.pldmCopy
  split
  rename_i e₁
  exact hm.fresh.of_eq_snd e₁

theorem State.MemOk.castAgain {b : BootInputs} (hm : s.MemOk) : (s.castAgain b).MemOk := by
  unfold Machine.State.castAgain
  extract_lets s₁
  have h₁ : s₁.MemOk := hm.setFld.setFld.setFld
  split
  · exact h₁.bootFail
  · split <;> rename_i e₂ <;> have h₂ := h₁.bootStep.bootLoad.of_eq e₂
    · exact h₂
    · exact h₂.bootRest.ite h₂.setFld.update

theorem State.MemOk.pldmFwUpdate {image : List Byte} {bundleOk : Bool} {b : BootInputs} (hm : s.MemOk) :
    (pldmFwUpdate image bundleOk b s).MemOk := by
  unfold Machine.pldmFwUpdate
  split
  · split
    · exact hm.emit
    · split
      rename_i e₁
      exact (hm.pldmCopy.of_eq e₁).update.castAgain.pldmOk
  · split
    · exact hm
    · split
      · exact hm.emit
      · split
        · exact hm.update.pldmOk
        · split
          rename_i e₁
          have h₁ := hm.pldmCopy.of_eq e₁
          exact h₁.emit.ite h₁.setOther.pldmOk

theorem State.MemOk.tapShift {code : Nat} (hm : s.MemOk) : (s.tapShift code).1.MemOk := by
  unfold Machine.State.tapShift
  split
  · exact hm
  · split
    rename_i e₁
    exact hm.fresh.of_eq_snd e₁
  · split
    rename_i e₁
    exact hm.fresh.of_eq_snd e₁
  · exact hm

theorem State.MemOk.tapLoad {code : Byte} (hm : s.MemOk) : (s.tapLoad code).MemOk := by
  unfold Machine.State.tapLoad
  split
  rename_i e₁
  exact (hm.tapShift.of_eq e₁).update.emit

theorem State.MemOk.tapPins {code : Byte} (hm : s.MemOk) : (s.tapPins code).MemOk := hm.tapLoad.ite hm.update.emit
theorem State.MemOk.tapExtest (hm : s.MemOk) : (tapExtest s).MemOk := hm.tapPins
theorem State.MemOk.tapIdcode (hm : s.MemOk) : (tapIdcode s).MemOk := hm.tapLoad

theorem State.MemOk.tapSamplePreload {v : W64} (hm : s.MemOk) : (tapSamplePreload v s).MemOk := by
  unfold Machine.tapSamplePreload
  exact hm.tapLoad.update

theorem State.MemOk.tapClamp (hm : s.MemOk) : (tapClamp s).MemOk := hm.tapPins
theorem State.MemOk.tapHighz (hm : s.MemOk) : (tapHighz s).MemOk := hm.tapPins
theorem State.MemOk.tapDap (hm : s.MemOk) : (tapDap s).MemOk := hm.tapLoad
theorem State.MemOk.tapReset (hm : s.MemOk) : (tapReset s).MemOk := hm.tapLoad
theorem State.MemOk.tapBypass {code : Byte} (hm : s.MemOk) : (tapBypass code s).MemOk := hm.ite hm.tapLoad

theorem State.MemOk.dapAuthorise {serial : W32} {signatureOk : Bool} (hm : s.MemOk) :
    (dapAuthorise serial signatureOk s).MemOk := hm.setFld.ite hm

theorem State.MemOk.dapRefuse {a : DapAcc} (hm : s.MemOk) : (s.dapRefuse a).MemOk := by
  unfold Machine.State.dapRefuse
  split
  exacts [hm.refuseDebug.emit, hm.refuseDebug.emit, hm.refuseDebug]

theorem State.MemOk.dapDo {a : DapAcc} (hm : s.MemOk) : (s.dapDo a).MemOk := by
  unfold Machine.State.dapDo
  split
  · split
    rename_i e₁
    exact (hm.readAt.of_eq e₁).emit
  · exact hm.writeAt
  · split <;> next e₁ => exact (hm.readPhys.of_eq e₁).emit
  · exact hm.writePhys

theorem State.MemOk.dapAccess {a : DapAcc} (hm : s.MemOk) : (dapAccess a s).MemOk := hm.ite (hm.dapDo.ite hm.dapRefuse)

theorem State.MemOk.atsInvalidation {f : Nat} {_va : W64} {_len : Nat} (hm : s.MemOk) :
    (atsInvalidation f _va _len s).MemOk := by
  unfold Machine.atsInvalidation
  split
  exacts [hm.emit.ite hm, hm]

/-! ### The sequencer commands (08.2, 08.9) -/

theorem State.MemOk.configureRsq {p ctx : Nat} {c : RsqCfg} {prog : List (List Byte)} (hm : s.MemOk) :
    (s.configureRsq p ctx c prog).MemOk := (hm.foldl fun _ _ hs => hs.resetReg).setReg.setRsqState.putRsq

theorem State.MemOk.rsqConfigBody {c : Cmd} (hm : s.MemOk) : (rsqConfigBody s c).1.MemOk := by
  unfold Machine.rsqConfigBody
  extract_lets
  split
  · exact hm
  · split
    · exact hm
    · split
      · next e₁ => exact hm.readWhole.of_eq e₁
      · next e₁ => exact hm.readWhole.of_eq e₁
      · rename_i e₁
        have h₁ := hm.readWhole.of_eq e₁
        extract_lets
        split
        · exact h₁
        · split
          · next e₂ => exact h₁.readWhole.of_eq e₂
          · next e₂ => exact h₁.readWhole.of_eq e₂
          · rename_i e₂
            have h₂ := h₁.readWhole.of_eq e₂
            extract_lets
            split
            exacts [h₂, h₂.configureRsq]

theorem State.MemOk.beginRsq {p : Nat} {r : Rsq} (hm : s.MemOk) : (s.beginRsq p r).1.MemOk := hm.setRsqState.putRsq

theorem State.MemOk.rsqStartBody {c : Cmd} (hm : s.MemOk) : (rsqStartBody s c).1.MemOk := by
  unfold Machine.rsqStartBody
  extract_lets
  split
  · exact hm
  · split
    · exact hm
    · extract_lets
      split
      · exact hm
      · split
        · exact hm.stopForLc
        · split
          · split
            · next e₁ => exact hm.loadRsq.of_eq e₁
            · next e₁ => exact (hm.loadRsq.of_eq e₁).ownTiles.beginRsq
          · split
            · next e₁ => exact (hm.publishRsq.of_eq e₁).ownTiles.beginRsq
            · next e₁ => exact hm.publishRsq.of_eq e₁

theorem State.MemOk.rsqStopBody {c : Cmd} (hm : s.MemOk) : (rsqStopBody s c).1.MemOk := by
  unfold Machine.rsqStopBody
  extract_lets _ _ s₁
  have h₁ : s₁.MemOk := hm.setRsqState.ite hm
  split
  · exact hm
  · split
    · exact hm
    · split <;> dsimp only
      · exact hm.releaseSeqTiles
      · refine State.MemOk.modCmd ?_
        exact h₁.update

theorem State.MemOk.seqCancelDo {r : List Byte} (hm : s.MemOk) : (seqCancelDo s r).1.MemOk := by
  unfold Machine.seqCancelDo
  split
  exacts [hm, hm.update]

theorem State.MemOk.poolResizeBody {c : Cmd} (hm : s.MemOk) : (poolResizeBody s c).1.MemOk := by
  unfold Machine.poolResizeBody
  extract_lets
  split
  · exact hm
  · split
    · exact hm
    · split
      exacts [hm, hm.update.modCmd]

/-! ### SEQ entries (08.4) -/

theorem State.MemOk.rejectSeq {q ctx func tag status : Nat} (hm : s.MemOk) :
    (s.rejectSeq q ctx func tag status).MemOk := hm.bumpFn.finishRecord

theorem State.MemOk.seqEntryFetch {q slot : Nat} (hm : s.MemOk) : (seqEntryFetch q slot s).MemOk := by
  unfold Machine.seqEntryFetch
  split
  · exact hm
  · split
    · exact hm
    · split <;> rename_i e₁ <;> have h₁ := hm.headEntry.of_eq e₁
      · exact h₁.faultQueue
      · extract_lets
        split
        · exact h₁.duplicate
        · split
          · exact h₁.setQueue.rejectSeq
          · split
            · exact h₁
            · exact h₁.setQueue.ite (h₁.ite h₁.setQueue.putRsq)

/-! ### The accept kernel (08.6, 08.7) -/

theorem State.MemOk.acceptSeq {iss : Issuer} {r : Rsq} {x : RowRun} {i : Nat} (hm : s.MemOk) :
    (s.acceptSeq iss r x i).1.MemOk := by
  unfold Machine.State.acceptSeq
  extract_lets
  split
  · next e₁ => exact hm.seqRead.of_eq e₁
  · rename_i e₁
    have h₁ := hm.seqRead.of_eq e₁
    extract_lets
    split
    · next e₂ => exact h₁.seqRead.of_eq e₂
    · rename_i e₂
      have h₂ := h₁.seqRead.of_eq e₂
      split
      · next e₃ => exact h₂.seqRead.of_eq e₃
      · rename_i e₃
        split
        rename_i e₄
        split
        split
        rename_i e₅
        split
        rename_i e₆
        exact (((h₂.seqRead.of_eq e₃).fresh.of_eq_snd e₄).seqWrite.of_eq e₅).seqWrite.of_eq e₆

theorem State.MemOk.builtinAccept {p : Nat} {r : Rsq} {x : RowRun} (hm : s.MemOk) :
    (s.builtinAccept p r x).1.MemOk := by
  unfold Machine.State.builtinAccept
  extract_lets
  refine hm.foldl_fst fun _ _ hs => ?_
  split
  rename_i e₂
  exact hs.acceptSeq.of_eq e₂

theorem State.MemOk.issueEntry {p i : Nat} (hm : s.MemOk) : (s.issueEntry p i).MemOk := by
  unfold Machine.State.issueEntry
  split
  · exact hm
  · split
    · exact hm
    · extract_lets
      split
      · split
        rename_i e₁
        exact (hm.builtinAccept.of_eq e₁).putRsq
      · exact hm.putRsq.update

theorem State.MemOk.issueStage {p : Nat} (hm : s.MemOk) : (s.issueStage p).MemOk := by
  unfold Machine.State.issueStage
  split
  · exact hm
  · split
    exacts [hm, hm.foldl fun _ _ hs => hs.issueEntry]

theorem State.MemOk.rowStageIssue {p : Nat} (hm : s.MemOk) : (rowStageIssue p s).MemOk := by
  unfold Machine.rowStageIssue
  split
  · exact hm
  · split
    · exact hm
    · split
      · exact hm
      · split
        · exact hm.issueStage
        · split
          · exact hm
          · split
            rename_i e₁
            have h₁ := hm.fenceScope.of_eq e₁
            split
            exacts [h₁.putRsq, h₁.putRsq.issueStage]

theorem State.MemOk.rowCommandFault {p id : Nat} (hm : s.MemOk) : (rowCommandFault p id s).MemOk := by
  unfold Machine.rowCommandFault
  split
  · exact hm
  · split
    · exact hm
    · split
      exacts [hm, hm.putRsq]

/-! ### The row boundary (08.5 to 08.8) -/

theorem State.MemOk.rowOuts {p : Nat} {r : Rsq} {x : RowRun} (hm : s.MemOk) : (s.rowOuts p r x).1.MemOk := by
  unfold Machine.State.rowOuts
  extract_lets
  refine hm.foldl_fst fun _ _ hs => ?_
  split
  · split
    · next e₂ => exact hs.seqRead.of_eq e₂
    · rename_i e₂
      split
      rename_i e₃
      have h₃ := (hs.seqRead.of_eq e₂).fresh.of_eq_snd e₃
      extract_lets
      split <;> next e₄ => exact h₃.seqRead.of_eq e₄
  · exact hs

theorem State.MemOk.deliverTokens {ctx : Nat} {x : SeqRec} {end_ stop : Bool} {n index : Nat} {l : List Nat}
    (hm : s.MemOk) : (s.deliverTokens ctx x end_ stop n index l).MemOk := by
  induction n generalizing s index l with
  | zero => exact hm
  | succ n ih => exact hm.ite (ih hm.writeRecord)

theorem State.MemOk.countRsq {p i n ctx : Nat} (hm : s.MemOk) : (s.countRsq p i n ctx).MemOk := hm.bump

theorem State.MemOk.commitSeq {p : Nat} {o : RowOut} (hm : s.MemOk) : (s.commitSeq p o).MemOk := by
  unfold Machine.State.commitSeq
  split
  · exact hm
  · split
    · exact hm
    · extract_lets _ _ _ _ _ _ s₂ s₃
      have h₂ : s₂.MemOk := (hm.ite hm.deliverTokens).countRsq.countRsq
      have h₃ : s₃.MemOk := h₂.ite h₂.countRsq
      exact (h₃.bumpFn.ite h₃.bumpFn.incFld).putRsq

theorem State.MemOk.leaveSeq {p slot status : Nat} {x : SeqRec} (hm : s.MemOk) :
    (s.leaveSeq p slot status x).MemOk := by
  unfold Machine.State.leaveSeq
  split
  exacts [hm, (hm.putRsq.countRsq.countRsq.incFld.setFld.ite hm.putRsq.countRsq).seqRecord]

theorem State.MemOk.leaveAll {p : Nat} (hm : s.MemOk) : (s.leaveAll p).MemOk := by
  unfold Machine.State.leaveAll
  split
  · exact hm
  · refine hm.foldl fun _ _ hs => ?_
    split
    exacts [hs.leaveSeq, hs]

theorem State.MemOk.inputOf {iss : Issuer} {x : SeqRec} (hm : s.MemOk) : (s.inputOf iss x).1.MemOk := by
  unfold Machine.State.inputOf
  split
  exacts [hm, hm.seqRead]

theorem State.MemOk.writeRow {p : Nat} {r : Rsq} {x : RowRun} {l : List (Nat × SeqRec)} (hm : s.MemOk) :
    (s.writeRow p r x l).1.MemOk := by
  unfold Machine.State.writeRow
  extract_lets
  split
  rename_i e₁
  refine (hm.seqWrite.of_eq e₁).foldl_fst fun _ _ ht => ?_
  split
  · next e₃ => exact ht.inputOf.of_eq e₃
  · rename_i e₃
    split
    rename_i e₄
    exact (ht.inputOf.of_eq e₃).seqWrite.of_eq e₄

theorem State.MemOk.endStops {p : Nat} (hm : s.MemOk) : (s.endStops p).MemOk := by
  unfold Machine.State.endStops
  split
  exacts [hm, (hm.releaseSeqTiles.foldl fun _ _ hs => hs.endCmd).putRsq]

theorem State.MemOk.haltRsq {p status stage entry : Nat} (hm : s.MemOk) : (s.haltRsq p status stage entry).MemOk := by
  unfold Machine.State.haltRsq
  split
  · exact hm
  · extract_lets s₁ s₂ s₃ s₄
    have h₁ : s₁.MemOk := by
      unfold s₁
      split
      exacts [hm.endCmd, hm]
    have h₄ : s₄.MemOk := h₁.putRsq.setRsqState.setFld.setFld.setFld.setFld
    exact h₄.publishRsq.endStops

theorem State.MemOk.stopAt {p n : Nat} (hm : s.MemOk) : (s.stopAt p n).MemOk := by
  unfold Machine.State.stopAt
  split
  · exact hm
  · split
    · next e₁ => exact (hm.publishRsq.of_eq e₁).setRsqState.endStops
    · next e₁ => exact (hm.publishRsq.of_eq e₁).haltRsq

theorem State.MemOk.startRow {p : Nat} (hm : s.MemOk) : (s.startRow p).MemOk := by
  unfold Machine.State.startRow
  split
  · exact hm
  · extract_lets _ _ _ _ _ s₁ s₂ s₃
    have h₁ : s₁.MemOk := hm.countRsq.countRsq.incFld
    have h₂ : s₂.MemOk := h₁.ite h₁.setFld
    have h₃ : s₃.MemOk := h₂.putRsq
    split
    rename_i s₄ _ e₄
    have h₄ : s₄.MemOk := by
      refine State.MemOk.of_eq ?_ e₄
      split
      exacts [h₃, h₃.writeRow]
    split
    · exact h₄.haltRsq
    · split <;> rename_i e₅ <;> have h₅ := h₄.publishRsq.of_eq e₅
      · exact h₅.ite h₅.countRsq.putRsq.issueStage
      · exact h₅.haltRsq

theorem State.MemOk.resizeRsq {p : Nat} (hm : s.MemOk) : (s.resizeRsq p).1.MemOk := by
  unfold Machine.State.resizeRsq
  split
  · exact hm
  · split
    · exact hm
    · split
      exacts [hm.putRsq, hm.putRsq.endCmd]

theorem State.MemOk.commitRow {p : Nat} {outs : List RowOut} (hm : s.MemOk) : (s.commitRow p outs).MemOk := by
  unfold Machine.State.commitRow
  extract_lets s₁
  have h₁ : s₁.MemOk := by
    refine hm.foldl fun _ _ hs => ?_
    split
    exacts [hs.commitSeq, hs]
  exact h₁.update

theorem State.MemOk.boundary {p : Nat} {outs : Option (List RowOut)} (hm : s.MemOk) : (s.boundary p outs).MemOk := by
  unfold Machine.State.boundary
  split
  rename_i e₁
  have h₁ := hm.resizeRsq.of_eq e₁
  extract_lets s₂ s₃ s₄
  have h₂ : s₂.MemOk := by
    unfold s₂
    split
    exacts [h₁.commitRow, h₁]
  have h₃ : s₃.MemOk := h₂.leaveAll
  have h₄ : s₄.MemOk := by
    unfold s₄
    split
    · exact h₃
    · exact h₃.stopAt.ite (h₃.stopAt.ite h₃.startRow)
  split
  · exact h₄.endCmd
  · exact h₄

theorem State.MemOk.resumeRsq {p : Nat} {r : Rsq} (hm : s.MemOk) : (s.resumeRsq p r).MemOk := by
  unfold Machine.State.resumeRsq
  split
  · extract_lets
    split
    · split
      · next e₁ => exact hm.putRsq.loadRsq.of_eq e₁
      · next e₁ => exact (hm.putRsq.loadRsq.of_eq e₁).beginRsq
    · exact hm.putRsq
  · exact hm

theorem State.MemOk.rowBoundary {p : Nat} (hm : s.MemOk) : (rowBoundary p s).MemOk := by
  unfold Machine.rowBoundary
  split
  · exact hm
  · split
    · exact hm.resumeRsq
    · split
      · exact hm
      · split
        · exact hm.haltRsq.ite hm
        · split
          · split
            · next e₁ => exact (hm.rowOuts.of_eq e₁).haltRsq
            · next e₁ => exact (hm.rowOuts.of_eq e₁).boundary
          · exact hm
        · exact hm.boundary

/-! ### Migration (12.6) -/

theorem State.MemOk.setFnState {f n : Nat} (hm : s.MemOk) : (s.setFnState f n).MemOk := hm.modFunc
theorem State.MemOk.holdCmds {f : Nat} (hm : s.MemOk) : (s.holdCmds f).MemOk := hm

theorem State.MemOk.beginFreeze {f : Nat} (hm : s.MemOk) : (s.beginFreeze f).MemOk :=
  hm.setFnState.update.update.holdCmds

theorem State.MemOk.fenceFn {f : Nat} (hm : s.MemOk) : (s.fenceFn f).MemOk := hm.foldl fun _ _ hs => hs.fenceScope

theorem State.MemOk.freezeOn {f : Nat} (hm : s.MemOk) : (s.freezeOn f).1.MemOk := by
  unfold Machine.State.freezeOn
  split
  · exact hm
  · extract_lets s₁
    have h₁ : s₁.MemOk := (hm.foldl fun _ _ hs => hs.requestStop).holdCmds
    split
    exacts [h₁.fenceFn.setFnState, h₁]

theorem State.MemOk.thaw {f : Nat} (hm : s.MemOk) : (s.thaw f).MemOk :=
  hm.setFnState.thawCmds.foldl fun _ _ hs => hs.resumeRsq.ite hs

theorem State.MemOk.migFreezeBody {c : Cmd} (hm : s.MemOk) : (migFreezeBody s c).1.MemOk := by
  unfold Machine.migFreezeBody
  extract_lets
  split
  · exact hm.freezeOn
  · split
    · exact hm
    · split
      exacts [hm.thaw, hm.modCmd.beginFreeze.freezeOn]

theorem State.MemOk.noteBlobs {m : MigImage} (hm : s.MemOk) : (s.noteBlobs m).MemOk := by
  unfold Machine.State.noteBlobs
  exact hm.foldl fun _ _ hs => hs.ite hs.update

theorem State.MemOk.migSaveDo {r : List Byte} (hm : s.MemOk) : (migSaveDo s r).1.MemOk := by
  unfold Machine.migSaveDo
  extract_lets
  split
  · exact hm
  · split
    rename_i e₁
    have h₁ := hm.fresh.of_eq_snd e₁
    extract_lets
    split
    · split <;> next e₂ => exact h₁.writePhys.of_eq e₂
    · split
      · next e₂ => exact (h₁.writePhys.of_eq e₂).noteBlobs.update.setFnState
      · next e₂ => exact h₁.writePhys.of_eq e₂

theorem State.MemOk.readImage {a : Nat} (hm : s.MemOk) : (s.readImage a).1.MemOk := by
  unfold Machine.State.readImage
  split
  · next e₁ => exact hm.readPhys.of_eq e₁
  · rename_i e₁
    have h₁ := hm.readPhys.of_eq e₁
    split
    · exact h₁
    · split
      · exact h₁
      · split
        · next e₂ => exact h₁.readPhys.of_eq e₂
        · rename_i e₂
          have h₂ := h₁.readPhys.of_eq e₂
          split <;> exact h₂

theorem State.MemOk.enterCmd {m : MigImage} {x : Cmd × W64} (hm : s.MemOk) : (s.enterCmd m x).MemOk := by
  unfold Machine.State.enterCmd
  extract_lets _ _ _ _ s₁ s₂
  have h₁ : s₁.MemOk := hm.update
  have h₂ : s₂.MemOk := by
    unfold s₂
    split
    exacts [h₁.update, h₁]
  exact h₂.foldl fun _ _ hs => hs.update

theorem State.MemOk.putStash {i : Image} (hm : s.MemOk) : (s.putStash i).MemOk := by
  unfold Machine.State.putStash
  split
  rename_i e₁
  exact (hm.fresh.of_eq_snd e₁).heldWrite

theorem State.MemOk.restorePanel {p : MigPanel} (hm : s.MemOk) : (s.restorePanel p).MemOk :=
  hm.setFld.setFld.setFld.update.foldl fun _ _ hs => hs.giveSlots

theorem State.MemOk.restoreSeq {e : Nat × Nat × Rsq} (hm : s.MemOk) : (s.restoreSeq e).MemOk :=
  hm.configureRsq.setRsqState.putRsq

theorem State.MemOk.restoreImage {m : MigImage} (hm : s.MemOk) : (s.restoreImage m).MemOk := by
  unfold Machine.State.restoreImage
  extract_lets _ _ s₁ _ s₂ s₃ s₄ s₅ s₆ s₇
  have h₁ : s₁.MemOk := hm.update
  have h₃ : s₃.MemOk := h₁.commitAs.checkApplied.foldl fun _ _ hs => hs.configApply
  have h₄ : s₄.MemOk := h₃.foldl fun _ _ hs => hs.restorePanel
  have h₅ : s₅.MemOk := h₄.foldl fun _ _ hs => hs.enterCmd
  have h₆ : s₆.MemOk := h₅.foldl fun _ _ hs => hs.putStash
  have h₇ : s₇.MemOk := h₆.foldl fun _ _ hs => hs.restoreSeq
  exact h₇.updateReservations.updateBelow.paceDies

theorem State.MemOk.migRestoreDo {r : List Byte} (hm : s.MemOk) : (migRestoreDo s r).1.MemOk := by
  unfold Machine.migRestoreDo
  split
  · next e₁ => exact hm.readImage.of_eq e₁
  · rename_i e₁
    have h₁ := hm.readImage.of_eq e₁
    extract_lets
    split
    exacts [h₁, h₁.restoreImage]

/-! ### Doorbells, and the creation and removal of queues and contexts -/

theorem State.MemOk.commandFetch {q : Nat} (hm : s.MemOk) : (commandFetch q s).MemOk := hm.fetchOne

theorem State.MemOk.doorbellIndex {f q : Nat} {half : Half} {index : W32} (hm : s.MemOk) :
    (doorbellIndex f q half index s).MemOk := hm.ite hm.doorbell

theorem State.MemOk.doorbellTail {f q : Nat} {half : Half} {index : W32} (hm : s.MemOk) :
    (doorbellTail f q half index s).MemOk := hm.doorbellIndex

theorem State.MemOk.doorbellHead {f q : Nat} {half : Half} {index : W32} (hm : s.MemOk) :
    (doorbellHead f q half index s).MemOk := hm.doorbellIndex

theorem State.MemOk.doorbellArm {f q : Nat} {index : W32} (hm : s.MemOk) : (doorbellArm f q index s).MemOk :=
  hm.doorbell.ite hm

theorem State.MemOk.interruptCoalTimeout {q : Nat} (hm : s.MemOk) : (interruptCoalTimeout q s).MemOk := by
  unfold Machine.interruptCoalTimeout
  split
  · exact hm
  · split
    exacts [hm, hm.interrupt.ite hm]

theorem State.MemOk.dropSeqsOf {q status : Nat} (hm : s.MemOk) : (s.dropSeqsOf q status).MemOk :=
  hm.foldl fun _ _ hs => hs.foldl fun _ _ ht => ht.leaveSeq

theorem State.MemOk.queueDestroyDo {r : List Byte} (hm : s.MemOk) : (queueDestroyDo s r).1.MemOk := by
  unfold Machine.queueDestroyDo
  exact (hm.foldl fun _ _ hs => hs.cancelCmd).dropSeqsOf.update

theorem State.MemOk.discardRecorded {ctx : Nat} (hm : s.MemOk) : (s.discardRecorded ctx).MemOk := hm.update.ite hm

theorem State.MemOk.ctxDestroyDo {r : List Byte} (hm : s.MemOk) : (ctxDestroyDo s r).1.MemOk := by
  unfold Machine.ctxDestroyDo
  extract_lets _ s₁ _ s₂
  have h₁ : s₁.MemOk := hm.discardRecorded.frog
  have h₂ : s₂.MemOk := h₁.foldl fun _ _ hs => hs.setRsqState
  dsimp only
  exact h₂.update.checkApplied

/-! ### Every command, and every step -/

theorem State.MemOk.of_next {F R : Type} {t : State} (hm : s.MemOk) (e : (.next s : Host.Outcome State F R) = .next t) : t.MemOk := by
  cases e
  exact hm

/-- Every command keeps the memory in its canonical form: the arms are those of `exec`, and each command's meaning is one of the
functions above. -/
theorem State.MemOk.exec {i : Instr} {t : State} (hm : s.MemOk) (e : exec i s = .next t) : t.MemOk := by
  cases i with
  | doorbellTail => exact hm.doorbellTail.of_next e
  | doorbellHead => exact hm.doorbellHead.of_next e
  | doorbellArm => exact hm.doorbellArm.of_next e
  | interruptCoalTimeout => exact hm.interruptCoalTimeout.of_next e
  | commandFetch => exact hm.commandFetch.of_next e
  | commandComplete => exact hm.commandComplete.of_next e
  | copy => exact (hm.runCmd fun _ _ ht => ht.copyBody).of_next e
  | gather | scatter => exact (hm.runCmd fun _ _ ht => ht.listBody).of_next e
  | fill => exact (hm.runCmd fun _ _ ht => ht.fillBody).of_next e
  | reduce => exact (hm.runCmd fun _ _ ht => ht.reduceBody).of_next e
  | gemm => exact (hm.runTiled fun _ _ ht => ht.gemmBody).of_next e
  | actTableLoad => exact (hm.runCmd fun _ _ ht => ht.actTableLoadBody).of_next e
  | launch => exact (hm.runTiled fun _ _ ht => ht.launchBody).of_next e
  | resumeGroup => exact (hm.runCmd fun _ _ ht => ht.checkedBody fun _ _ hu => hu.resumeGroupDo).of_next e
  | workDeclare => exact (hm.runCmd fun _ _ ht => ht.checkedBody fun _ _ hu => hu.workDeclareDo).of_next e
  | allReduce | reduceScatter | allGather | broadcast | barrier => exact (hm.runCmd fun _ _ ht => ht.collBody).of_next e
  | collectiveTimeout => exact hm.collectiveTimeout.of_next e
  | rsqConfig => exact (hm.runCmd fun _ _ ht => ht.rsqConfigBody).of_next e
  | rsqStart => exact (hm.runCmd fun _ _ ht => ht.rsqStartBody).of_next e
  | rsqStop => exact (hm.runCmd fun _ _ ht => ht.rsqStopBody).of_next e
  | seqCancel => exact (hm.runCmd fun _ _ ht => ht.checkedBody fun _ _ hu => hu.seqCancelDo).of_next e
  | poolResize => exact (hm.runCmd fun _ _ ht => ht.poolResizeBody).of_next e
  | seqEntryFetch => exact hm.seqEntryFetch.of_next e
  | rowStageIssue => exact hm.rowStageIssue.of_next e
  | rowBoundary => exact hm.rowBoundary.of_next e
  | rowCommandFault => exact hm.rowCommandFault.of_next e
  | fence => exact (hm.runCmd fun _ _ ht => ht.fenceBody).of_next e
  | signal => exact (hm.runCmd fun _ _ ht => ht.signalBody).of_next e
  | wait => exact (hm.runCmd fun _ _ ht => ht.waitBody).of_next e
  | waitRecheck => exact hm.waitRecheck.of_next e
  | waitTimeout => exact hm.waitTimeout.of_next e
  | eventPost => exact (hm.runCmd fun _ _ ht => ht.checkedBody fun _ _ hu => hu.eventPostDo).of_next e
  | nop => exact (hm.runCmd fun _ _ ht => ht.checkedBody fun _ _ hu => hu.nopDo).of_next e
  | capSet => exact (hm.runCmd fun _ _ ht => ht.onceThen fun _ _ hu => hu.capSetDo).of_next e
  | slewSet => exact (hm.runCmd fun _ _ ht => ht.onceThen fun _ _ hu => hu.slewSetDo).of_next e
  | shedLevelSet => exact (hm.runCmd fun _ _ ht => ht.onceThen fun _ _ hu => hu.shedLevelSetDo).of_next e
  | shed => exact (hm.runCmd fun _ _ ht => ht.shedDo).of_next e
  | restore => exact (hm.runCmd fun _ _ ht => ht.restoreDo).of_next e
  | gaugeSet => exact (hm.runCmd fun _ _ ht => ht.onceThen fun _ _ hu => hu.gaugeSetDo).of_next e
  | domainSwitch => exact (hm.runCmd fun _ _ ht => ht.domainSwitchDo).of_next e
  | domainSwitchDone => exact hm.domainSwitchDone.of_next e
  | reserve => exact (hm.runCmd fun _ _ ht => ht.reserveDo).of_next e
  | panelCreate => exact (hm.runCmd fun _ _ ht => ht.checkedBody fun _ _ hu => hu.panelCreateDo).of_next e
  | panelDestroy => exact (hm.runCmd fun _ _ ht => ht.checkedBody fun _ _ hu => hu.panelDestroyDo).of_next e
  | panelRebind => exact (hm.runCmd fun _ _ ht => ht.panelRebindBody).of_next e
  | configStage => exact (hm.runCmd fun _ _ ht => ht.checkedBody fun _ _ hu => hu.configStageDo).of_next e
  | configCommit => exact (hm.runCmd fun _ _ ht => ht.checkedBody fun _ _ hu => hu.configCommitDo).of_next e
  | configApply => exact hm.configApply.of_next e
  | configRollback => exact hm.configRollback.of_next e
  | stagedRegisterWrite => exact hm.stagedAt.of_next e
  | queueCreate => exact (hm.runCmd fun _ _ ht => ht.checkedBody fun _ _ hu => hu.queueCreateDo).of_next e
  | queueDestroy => exact (hm.runCmd fun _ _ ht => ht.checkedBody fun _ _ hu => hu.queueDestroyDo).of_next e
  | ctxCreate => exact (hm.runCmd fun _ _ ht => ht.checkedBody fun _ _ hu => hu.ctxCreateDo).of_next e
  | ctxDestroy => exact (hm.runCmd fun _ _ ht => ht.checkedBody fun _ _ hu => hu.ctxDestroyDo).of_next e
  | ctxFrog | engineReset | panelReset => exact hm.resetRow.of_next e
  | packageReset => exact hm.packageResetRow.of_next e
  | resetOverrun => exact hm.resetOverrun.of_next e
  | vfCreate => exact (hm.runCmd fun _ _ ht => ht.checkedBody fun _ _ hu => hu.vfCreateDo).of_next e
  | vfDestroy => exact (hm.runCmd fun _ _ ht => ht.checkedBody fun _ _ hu => hu.vfDestroyDo).of_next e
  | counterSet => exact (hm.runCmd fun _ _ ht => ht.checkedBody fun _ _ hu => hu.counterSetDo).of_next e
  | snapshot => exact (hm.runCmd fun _ _ ht => ht.checkedBody fun _ _ hu => hu.snapshotDo).of_next e
  | samplerSet => exact (hm.runCmd fun _ _ ht => ht.checkedBody fun _ _ hu => hu.samplerSetDo).of_next e
  | stitchSet => exact (hm.runCmd fun _ _ ht => ht.checkedBody fun _ _ hu => hu.stitchSetDo).of_next e
  | dump => exact (hm.runCmd fun _ _ ht => ht.checkedBody fun _ _ hu => hu.dumpDo).of_next e
  | dumpCopy => exact hm.dumpCopy.of_next e
  | l1Inv => exact (hm.runCmd fun _ _ ht => ht.checkedBody fun _ _ hu => hu.l1InvDo).of_next e
  | xlatInv => exact (hm.runCmd fun _ _ ht => ht.xlatInvBody).of_next e
  | migFreeze => exact (hm.runCmd fun _ _ ht => ht.migFreezeBody).of_next e
  | migSave => exact (hm.runCmd fun _ _ ht => ht.checkedBody fun _ _ hu => hu.migSaveDo).of_next e
  | migRestore => exact (hm.runCmd fun _ _ ht => ht.checkedBody fun _ _ hu => hu.migRestoreDo).of_next e
  | attest => exact (hm.runCmd fun _ _ ht => ht.checkedBody fun _ _ hu => hu.attestDo).of_next e
  | fwStage => exact (hm.runCmd fun _ _ ht => ht.fwStageBody).of_next e
  | fwActivate => exact hm.fwActivate.of_next e
  | aluOp => exact hm.aluOp.of_next e
  | convert => exact hm.convert.of_next e
  | branch => exact hm.branch.of_next e
  | xchPick => exact hm.xchPick.of_next e
  | xchRot => exact hm.xchRot.of_next e
  | xchSwap => exact hm.xchSwap.of_next e
  | xchRev => exact hm.xchRev.of_next e
  | tallyAny => exact hm.tallyAny.of_next e
  | tallyAll => exact hm.tallyAll.of_next e
  | tallyMask => exact hm.tallyMask.of_next e
  | tallyCount => exact hm.tallyCount.of_next e
  | tallyBelow => exact hm.tallyBelow.of_next e
  | tallyLead => exact hm.tallyLead.of_next e
  | meet => exact hm.meet.of_next e
  | rdvWait => exact hm.rdvWait.of_next e
  | rdvSignal => exact hm.rdvSignal.of_next e
  | threadExit => exact hm.threadExit.of_next e
  | load => exact hm.load.of_next e
  | store => exact hm.store.of_next e
  | atomicInstr => exact hm.atomicInstr.of_next e
  | ll => exact hm.ll.of_next e
  | sc => exact hm.sc.of_next e
  | addToLine => exact hm.addToLine.of_next e
  | fenceT => exact hm.fenceT.of_next e
  | fenceP => exact hm.fenceP.of_next e
  | fenceG => exact hm.fenceG.of_next e
  | l1wb => exact hm.l1wb.of_next e
  | l1inv => exact hm.l1inv.of_next e
  | l1wbAll => exact hm.l1wbAll.of_next e
  | l1invAll => exact hm.l1invAll.of_next e
  | l1lock => exact hm.l1lock.of_next e
  | l1pre => exact hm.l1pre.of_next e
  | l1unlock => exact hm.l1unlock.of_next e
  | l1FillReturn => exact hm.l1FillReturn.of_next e
  | evictionDrain => exact hm.evictionDrain.of_next e
  | blockStart => exact hm.blockStart.of_next e
  | kernelEnd => exact hm.kernelEnd.of_next e
  | parkTimeout => exact hm.parkTimeout.of_next e
  | launchOverrun => exact hm.launchOverrun.of_next e
  | haltDeferTimeout => exact hm.haltDeferTimeout.of_next e
  | lcDispatch => exact hm.lcDispatch.of_next e
  | preemptStopDone => exact hm.preemptStopDone.of_next e
  | stashDone => exact hm.stashDone.of_next e
  | preemptAbandon => exact hm.preemptAbandon.of_next e
  | beUnitStart => exact hm.beUnitStart.of_next e
  | quantumEnd => exact hm.quantumEnd.of_next e
  | unitResume => exact hm.unitResume.of_next e
  | compaction => exact hm.compaction.of_next e
  | respread => exact hm.respread.of_next e
  | rdShr => exact hm.rdShr.of_next e
  | rdOwn => exact hm.rdOwn.of_next e
  | upgrade => exact hm.upgrade.of_next e
  | rdOnce => exact hm.rdOnce.of_next e
  | wrLine => exact hm.wrLine.of_next e
  | wrPtl => exact hm.wrPtl.of_next e
  | atomic => exact hm.atomicReq.of_next e
  | addLine => exact hm.addLineReq.of_next e
  | snpShr => exact hm.snpShr.of_next e
  | snpInv => exact hm.snpInv.of_next e
  | snpFetch => exact hm.snpFetch.of_next e
  | invAck => exact hm.invAck.of_next e
  | wbInFlight => exact hm.wbInFlight.of_next e
  | complete => exact hm.complete.of_next e
  | wbAck => exact hm.wbAck.of_next e
  | evictClean => exact hm.evictClean.of_next e
  | dirFree => exact hm.dirFree.of_next e
  | credit => exact hm.credit.of_next e
  | data => exact hm.data.of_next e
  | wbData => exact hm.wbData.of_next e
  | holdExpire => exact hm.holdExpire.of_next e
  | replayWindowExpire => exact hm.replayExpire.of_next e
  | requestTimeout => exact hm.requestTimeout.of_next e
  | hbmRefresh => exact hm.hbmRefresh.of_next e
  | hbmRecentre => exact hm.hbmRecentre.of_next e
  | hbmTempRead => exact hm.hbmTempRead.of_next e
  | patrolScrub => exact hm.patrolScrub.of_next e
  | stackOutOfService => exact hm.stackOut.of_next e
  | keyGenerate | keyErase | keyImport | keyExport => exact hm.keyOp.of_next e
  | softPpr | hardPprAdd | hardPprRemove => exact hm.repairCmd.of_next e
  | swatchStart => exact hm.swStart.of_next e
  | swatchStop | swatchDone => exact hm.swDone.of_next e
  | hbmEccCountRead | hbmEccLogRead | hbmRepairLogRead | uccSliceErrRead | uccDirStatusRead | uccSkeinStatusRead
  | xltCountsRead | queFnStatusRead | rsqCountsRead | pnlCountsRead | pnlDispatchRead | lnkErrRead | lnkFecRead
  | lnkGStatusRead | gstErrRead | pwrDroopRead | hubFltStatusRead | hubLeaseStatusRead | obsSmpStatusRead
  | obsCsmpStatusRead | srvInputStatusRead => exact hm.hostRead.of_next e
  | hbmRepairLogWrite => exact hm.hostWrite.of_next e
  | registerWrite => exact hm.writeAt.of_next e
  | mbxM2tTail => exact hm.m2tTail.of_next e
  | mbxM2tHead => exact hm.m2tHead.of_next e
  | mbxT2mTail => exact hm.t2mTail.of_next e
  | mbxT2mHead => exact hm.t2mHead.of_next e
  | hostApertureAccess => exact hm.hostApertureAccess.of_next e
  | guestRequest => exact hm.guestRequest.of_next e
  | flrVf => exact hm.flrVf.of_next e
  | flrPf0 => exact hm.flrPf0.of_next e
  | hp0PerstAssert => exact hm.hp0PerstAssert.of_next e
  | hp1PerstAssert => exact hm.hp1PerstAssert.of_next e
  | flitReceive => exact hm.flitReceive.of_next e
  | nakResend => exact hm.nakResend.of_next e
  | replayTimeout => exact hm.replayTimeout.of_next e
  | linkRecovery => exact hm.linkRecovery.of_next e
  | linkRecoveryFail => exact hm.linkRecoveryFail.of_next e
  | linkTrain => exact hm.linkTrain.of_next e
  | linkRetrain => exact hm.linkRetrain.of_next e
  | laserInputLoss => exact hm.laserInputLoss.of_next e
  | ctlTrain => exact hm.ctlTrain.of_next e
  | ctlTime => exact hm.ctlTime.of_next e
  | timeExchange => exact hm.timeExchange.of_next e
  | timeRelock => exact hm.timeRelock.of_next e
  | timeHoldover => exact hm.timeHoldover.of_next e
  | ctlRefused => exact hm.ctlRefused.of_next e
  | refusedResend => exact hm.refusedResend.of_next e
  | ctlColl => exact hm.ctlColl.of_next e
  | ctlAbort => exact hm.ctlAbort.of_next e
  | ctlMgmt => exact hm.ctlMgmt.of_next e
  | ctlCap => exact hm.ctlCap.of_next e
  | e2eTimeout => exact hm.e2eTimeout.of_next e
  | finalTimeout => exact hm.finalTimeout.of_next e
  | ppsEdge => exact hm.ppsEdge.of_next e
  | guestRetrain => exact hm.guestRetrain.of_next e
  | guestCapTimeout => exact hm.guestCapTimeout.of_next e
  | guestIsolate => exact hm.guestIsolate.of_next e
  | guestPowerExceeded => exact hm.guestPowerExceeded.of_next e
  | controlPeriod => exact hm.controlPeriod.of_next e
  | measureWindow => exact hm.measureWindow.of_next e
  | powerBackstop => exact hm.powerBackstop.of_next e
  | droopResponse => exact hm.droopResponse.of_next e
  | sensorRead => exact hm.sensorRead.of_next e
  | thermalTrip => exact hm.thermalTrip.of_next e
  | shedNAssert => exact hm.shedNAssert.of_next e
  | shedNDeassert => exact hm.shedNDeassert.of_next e
  | clockHoldoverEnter => exact hm.clockHoldoverEnter.of_next e
  | clockHoldoverExit => exact hm.clockHoldoverExit.of_next e
  | pllLockLoss => exact hm.pllLockLoss.of_next e
  | vin48Undervoltage => exact hm.vin48Undervoltage.of_next e
  | vin48Overvoltage => exact hm.vin48Overvoltage.of_next e
  | v3p3Undervoltage => exact hm.v3p3Undervoltage.of_next e
  | regulatorFault => exact hm.regulatorFault.of_next e
  | trayRstAssert => exact hm.trayRstAssert.of_next e
  | castOn => exact hm.castOn.of_next e
  | vin48InRange => exact hm.vin48InRange.of_next e
  | bindOff => exact hm.bindOff.of_next e
  | bindOffDrainExpire => exact hm.bindOffDrainExpire.of_next e
  | counterFreeze => exact hm.counterFreeze.of_next e
  | samplerRecord => exact hm.samplerRecord.of_next e
  | coreSample => exact hm.coreSample.of_next e
  | bwWindow => exact hm.bwWindow.of_next e
  | dbgHaltGroup => exact hm.dbgHaltGroup.of_next e
  | dbgHaltCore => exact hm.dbgHaltCore.of_next e
  | dbgResumeGroup => exact hm.dbgResumeGroup.of_next e
  | dbgResumeCore => exact hm.dbgResumeCore.of_next e
  | dbgStepGroup => exact hm.dbgStepGroup.of_next e
  | dbgRegAccess => exact hm.dbgRegAccess.of_next e
  | dbgStepGo => exact hm.dbgStepGo.of_next e
  | lcHaltEnable => exact hm.lcHaltEnable.of_next e
  | lcHaltActivate => exact hm.lcHaltActivate.of_next e
  | tapExtest => exact hm.tapExtest.of_next e
  | tapIdcode => exact hm.tapIdcode.of_next e
  | tapSamplePreload => exact hm.tapSamplePreload.of_next e
  | tapClamp => exact hm.tapClamp.of_next e
  | tapHighz => exact hm.tapHighz.of_next e
  | tapBypass => exact hm.tapBypass.of_next e
  | tapDap => exact hm.tapDap.of_next e
  | tapReset => exact hm.tapReset.of_next e
  | dapAuthorise => exact hm.dapAuthorise.of_next e
  | dapAccess => exact hm.dapAccess.of_next e
  | spdmRequest => exact hm.spdmRequest.of_next e
  | fleetKeySet => exact hm.fleetKeySet.of_next e
  | pldmGetSensor => exact hm.pldmGetSensor.of_next e
  | pldmFwUpdate => exact hm.pldmFwUpdate.of_next e
  | droopRecovery => exact hm.droopRecovery.of_next e
  | perstNDeassert => exact hm.perstNDeassert.of_next e
  | atsInvalidation => exact hm.atsInvalidation.of_next e
  | pldmSetEffecter => exact hm.pldmSetEffecter.of_next e
  | controllerFault => exact hm.controllerFault.of_next e

/-- Settles O60: a step is a tick of the clock or one command run with the rest of the queue, and each keeps the canonical form. -/
theorem stepKeepsMemory : Obligations.StepKeepsMemory := by
  intro s t hwf hstep
  have hm : s.MemOk := hwf
  unfold step at hstep
  split at hstep
  · exact hm.tick.of_next hstep
  · exact hm.update.exec hstep

end Sys2Proof.Machine
end

section
/-! Refutation of O32's poison clause (R45 to R79): a GEMM whose own results end its right to write. Its row goes to two sectors of the
register space of this package, and the first of them holds `LNK_G_ID`, which then numbers the package anew. The second sector, though
every result translated before the first write, is now a register of another package, so its write faults with 0x0301 (R332). The fault
stands above the poison of the operands: the command ends with 0x0301, which is below 0x0302. -/

namespace Sys2Proof.Machine

/-! ### Arrays -/

/-- A GEMM without an auxiliary descriptor starts with one that is zero (R70). -/
theorem State.readAux_none {s : State} {c : Cmd} (iss : Issuer) (h : leAt c.raw 40 8 = 0) :
    s.readAux c iss = (s, some (.ok (zeros 128))) := by
  simp [State.readAux, h]

/-- What a GEMM ends with: poison counts as 0x0302 beside what its writes met (R73). -/
theorem State.gemmEnd_status (s : State) (c : Cmd) (l : List Nat) (x : GemmSum) :
    (s.gemmEnd c l x).2 = some (worse x.st
      (if x.poison then 0x0302 else b2n x.inexact * noteInexact + b2n x.overflow * noteOverflow)) := rfl

/-- A translation fault that the writes met stands, though poison reached the results. -/
theorem State.gemmEnd_status_of_fault (s : State) (c : Cmd) (l : List Nat) {x : GemmSum} (hst : x.st = 0x0301)
    (hp : x.poison = true) : (s.gemmEnd c l x).2 = some 0x0301 := by
  rw [s.gemmEnd_status, hst, hp]
  rfl

/-! ### The GEMM that numbers its package anew -/

/-- C is INT32 and holds the nine products of a row of one INT8 element and nine such rows: 36 bytes, from the virtual address of
`LNK_G_ID` on. -/
def renumberingRaw : List Byte :=
  [(0, 1, 2), (1, 1, 1), (6, 2, 1), (16, 8, 0x3000), (24, 8, 0x3000), (32, 8, 0x4204000), (48, 4, 1), (52, 4, 9), (56, 4, 1),
    (60, 2, 0xECC)].foldl (fun r (e : Nat × Nat × Nat) => patch r e.1 (leBytes e.2.1 e.2.2)) (zeros 64)

/-- The command, running as the manager's function. -/
def renumberingCmd : Cmd :=
  { id := 1, q := 0, row := none, raw := renumberingRaw, func := 0, panel := 0, ctx := 1, epoch := 1, tSub := 0, tAdm := 0, tStart := 0,
    twc := none, phase := .running, status := 0, vaddr := 0, beats := 0, energy := 0, tiles := 1, step := 0, spans := 0, fenceB := 0,
    fenceA := 0, landed := [] }

/-- Package 0 in service with the command on tile 0. Its context's translations reach HBM at 0 and the register space at 64 MiB; the
operands' sector of HBM begins with a 5 and is poisoned. -/
def renumberingState : State :=
  { (State.reset.setReg .GLB_DIE_PRESENT 0 0xFFF).setReg .HBM_G_STATUS 0 1 with
    boot := .ready
    keys := [(0, ⟨1, 0, []⟩)], keyNext := 2
    mem := (Memory.empty.writeHbm 1 0x3000 (5 :: zeros 31)).poison 1 0x3000
    ctxs := [(1, ⟨0, 0, none, 0, 3, 64, [], 0⟩)]
    panels := [(0, ⟨1, []⟩)]
    tiles := [(0, { Tile.free with owner := some 0, unit := some ⟨1, 1, 1, 0, 0⟩ })]
    tlbs := [(384, [⟨1, 0, 0x4000000, 0, 0, true, true, false, false⟩,
      ⟨1, 0x4000000, 0x4000000, 0x800000000000, 0, true, true, false, true⟩])]
    cmds := [(1, renumberingCmd)], nextCmd := 2 }

/-- The array of tile 0 translates for it. -/
def renumberingIssuer : Issuer := renumberingCmd.arrayIssuer 0

def renumberingAwait : State × Bool :=
  renumberingState.awaitAll 1 renumberingIssuer (gemmReads renumberingRaw (zeros 128))

def renumberingIn : State × GemmIn := renumberingAwait.1.gemmIn renumberingCmd renumberingIssuer (zeros 128)

def renumberingProbe : State × Option XFault :=
  renumberingIn.1.probeAll renumberingIssuer .write (gemmWrites renumberingRaw (zeros 128))

/-- Every row computed and written. -/
def renumberingRows : State × GemmSum :=
  renumberingIn.2.a.zipIdx.foldl
    (fun (y : State × GemmSum) a => y.1.gemmRow1 renumberingCmd renumberingIssuer (zeros 128) renumberingIn.2 a.2 a.1 y.2)
    (renumberingProbe.1, ⟨0, false, false, false, false⟩)

theorem renumberingState_mayRun : renumberingState.mayRun 1 0x0201 renumberingState renumberingCmd :=
  ⟨renumberingCmd, rfl, by decide +kernel, by decide +kernel, (State.beginCmd_running _ _ (by decide)).symm, rfl⟩

theorem renumberingRows_poison : renumberingRows.2.poison = true := by decide +kernel

/-- The write of the row's second sector faults. -/
theorem renumberingRows_st : renumberingRows.2.st = 0x0301 := by decide +kernel

/-- Refutes O32, by its clause on poison: the GEMM above has read poison, and its second write, no longer to this package, ends it with
0x0301. -/
theorem not_matrixComplete : ¬ Obligations.MatrixComplete := by
  intro h
  obtain ⟨hgemm, -⟩ := h
  have hawait : renumberingAwait = (renumberingAwait.1, false) := Prod.snd_eq_iff.mp (by decide +kernel)
  have hprobe : renumberingProbe = (renumberingProbe.1, none) := Prod.snd_eq_iff.mp (by decide +kernel)
  obtain ⟨t, st, hend, -, hpoison⟩ := hgemm renumberingState 1 1 renumberingState renumberingCmd [0] renumberingIssuer renumberingState
    (zeros 128) renumberingAwait.1 renumberingIn.1 renumberingIn.2 renumberingProbe.1 renumberingRows.1 renumberingRows.2
    ⟨renumberingCmd, rfl, by decide +kernel⟩ renumberingState_mayRun (by decide) (by decide +kernel) (by decide +kernel)
    (by decide +kernel) rfl rfl (State.readAux_none _ (by decide +kernel)) (fun hlc => absurd hlc (by decide +kernel))
    hawait (Prod.mk.eta (p := renumberingIn)).symm hprobe (by decide +kernel) (Prod.mk.eta (p := renumberingRows)).symm
  have hst := renumberingRows.1.gemmEnd_status_of_fault renumberingCmd [0] renumberingRows_st renumberingRows_poison
  obtain rfl : st = 0x0301 := by simpa [hend] using hst
  exact absurd (hpoison renumberingRows_poison) (by decide)

end Sys2Proof.Machine
end

section
/-! The general cores' state (03.1, 03.2): what a change of a core, of a group or of a lane's register gives and leaves alone, and what
the fetch and the issue of an instruction may change. -/

namespace Sys2Proof.Machine

variable {s t : State} {x : Iss}

/-! ### Cores and groups -/

@[simp] theorem State.coreOf_modCore_same (s : State) (k : Nat) (f : Core → Core) : (s.modCore k f).coreOf k = f (s.coreOf k) := by
  simp [State.coreOf, State.modCore]

theorem State.coreOf_modCore_ne (s : State) {k k' : Nat} (f : Core → Core) (h : k' ≠ k) :
    (s.modCore k f).coreOf k' = s.coreOf k' := by
  simp [State.coreOf, State.modCore, tgetD_tput_ne _ _ _ h]

theorem State.coreOf_modGroup_ne (s : State) {k k' : Nat} (n : Nat) (f : Group → Group) (h : k' ≠ k) :
    (s.modGroup k n f).coreOf k' = s.coreOf k' :=
  s.coreOf_modCore_ne _ h

theorem State.findGroup_num {k n : Nat} {g : Group} (h : s.findGroup k n = some g) : g.num = n := by
  simpa using List.find?_some h

/-- Groups are found by their numbers, so a change that keeps the number changes what is found and not where. -/
theorem State.findGroup_modGroup (s : State) (k n m : Nat) {f : Group → Group} (hf : ∀ g, (f g).num = g.num) :
    (s.modGroup k n f).findGroup k m = (s.findGroup k m).map fun g => if g.num = n then f g else g := by
  have hnum : ∀ g : Group, (if g.num = n then f g else g).num = g.num := fun g => by split <;> simp [hf]
  simp [State.findGroup, State.modGroup, List.find?_map, hnum]

theorem State.findGroup_modGroup_same {k n : Nat} {g : Group} {f : Group → Group} (h : s.findGroup k n = some g)
    (hf : ∀ g, (f g).num = g.num) : (s.modGroup k n f).findGroup k n = some (f g) := by
  simp [s.findGroup_modGroup k n n hf, h, State.findGroup_num h]

theorem State.findGroup_modGroup_ne (s : State) {k n m : Nat} {f : Group → Group} (hm : m ≠ n) (hf : ∀ g, (f g).num = g.num) :
    (s.modGroup k n f).findGroup k m = s.findGroup k m := by
  rw [s.findGroup_modGroup k n m hf]
  cases h : s.findGroup k m with
  | none => rfl
  | some g => simp [State.findGroup_num h, hm]

/-! ### Lanes' registers -/

theorem mem_laneList {m j : Nat} : j ∈ laneList m ↔ j < 32 ∧ bit m j = true := by
  simp [laneList, maskBits, bit]

theorem foldl_setLaneReg_of_ne (l : List Nat) (r : Nat) (f : Nat → Nat) (t : Tab W32) {n : Nat} (h : ∀ j ∈ l, n ≠ 256 * j + r) :
    tgetD (l.foldl (fun t i => setLaneReg t i r (f i)) t) n 0 = tgetD t n 0 := by
  induction l generalizing t with
  | nil => rfl
  | cons i l ih =>
    have hi : n ≠ 256 * i + r := h i List.mem_cons_self
    rw [List.foldl_cons, ih _ fun j hj => h j (List.mem_cons_of_mem _ hj), setLaneReg, tgetD_tput_ne _ _ _ hi]

theorem foldl_setLaneReg_of_mem (l : List Nat) (r : Nat) (f : Nat → Nat) (t : Tab W32) {j : Nat} (h : j ∈ l) :
    tgetD (l.foldl (fun t i => setLaneReg t i r (f i)) t) (256 * j + r) 0 = w32 (f j) := by
  induction l generalizing t with
  | nil => cases h
  | cons i l ih =>
    rw [List.foldl_cons]
    by_cases hj : j ∈ l
    · exact ih _ hj
    · obtain rfl : j = i := by simpa [hj] using h
      have hne : ∀ i ∈ l, 256 * j + r ≠ 256 * i + r := by
        intro i hi heq
        obtain rfl : j = i := by omega
        exact hj hi
      rw [foldl_setLaneReg_of_ne l r f _ hne, setLaneReg, tgetD_tput_same]

/-- An active lane's register holds what was written for the lane. -/
theorem Group.setLanes_regs_active (g : Group) {m j : Nat} (r : Nat) (f : Nat → Nat) (hj : j < 32) (hb : bit m j = true) :
    tgetD (g.setLanes m r f).regs (256 * j + r) 0 = w32 (f j) :=
  foldl_setLaneReg_of_mem _ r f _ (mem_laneList.mpr ⟨hj, hb⟩)

/-- Every other register holds what it held. -/
theorem Group.setLanes_regs_other (g : Group) {m n : Nat} (r : Nat) (f : Nat → Nat)
    (h : ∀ j, j < 32 → bit m j = true → n ≠ 256 * j + r) : tgetD (g.setLanes m r f).regs n 0 = tgetD g.regs n 0 :=
  foldl_setLaneReg_of_ne _ r f _ fun j hj => h j (mem_laneList.mp hj).1 (mem_laneList.mp hj).2

/-! ### What counting an event and translating an address may change -/

theorem State.countReg_eq (s : State) (r : Reg) (i n : Nat) : ∃ rs, s.countReg r i n = { s with regs := rs } := ⟨_, rfl⟩

/-- A counted event writes registers only. -/
theorem State.bump_eq (s : State) (v i n : Nat) (a : Option Attr) : ∃ rs, s.bump v i n a = { s with regs := rs } := by
  unfold State.bump
  split
  · exact ⟨_, rfl⟩
  · refine List.foldlRecOn (motive := fun t => ∃ rs, t = { s with regs := rs }) _ _ (s.countReg_eq _ _ _) ?_
    rintro _ ⟨rs, rfl⟩ j -
    dsimp only
    split
    · exact ⟨_, rfl⟩
    · exact ⟨_, rfl⟩

/-- A wake of a stack's interface writes registers only. -/
theorem State.wakeHbm_eq (s : State) (a : Nat) : ∃ rs, s.wakeHbm a = { s with regs := rs } := by
  unfold State.wakeHbm
  dsimp only
  split
  · exact ⟨_, rfl⟩
  · exact ⟨_, rfl⟩

/-- A read of memory writes registers and draws free values. -/
theorem State.pread_eq (s : State) (k a n : Nat) : ∃ fr rs, (s.pread k a n).1 = { s with free := fr, regs := rs } := by
  obtain ⟨rs, hw⟩ := s.wakeHbm_eq a
  unfold State.pread
  split
  · dsimp only
    rw [hw]
    split
    · exact ⟨_, _, rfl⟩
    · exact ⟨_, _, rfl⟩
  all_goals exact ⟨_, _, rfl⟩

/-- A walk of the tables changes a state by its reads only: it keeps every property that a read of memory keeps. -/
theorem State.walkFrom_keeps {P : State → Prop} (hread : ∀ s k a n, P s → P (s.pread k a n).1) {ctx va fuel level a last : Nat}
    {ts : List WalkEntry} (hs : P s) : P (s.walkFrom ctx va fuel level a last ts).1 := by
  induction fuel generalizing s level a last ts with
  | zero => exact hs
  | succ fuel ih =>
    unfold State.walkFrom
    extract_lets
    split
    · exact hs
    · split
      · exact hs
      · split
        · exact hs
        · rename_i k _
          have hr := hread s k (a + 8 * levelIndex va level) 8 hs
          split <;> rename_i hp <;> rw [hp] at hr
          · exact hr
          · exact hr
          · extract_lets
            split
            · exact hr
            · split
              · exact hr
              · split
                · exact hr
                · split
                  · exact hr
                  · exact ih hr

/-- A translation that succeeds hits, or walks the tables and fills the caches from what it finds. -/
theorem State.xlate_ok_cases {iss : Issuer} {need : Need} {va : Nat} {y : Xl} (h : s.xlate iss need va = (t, .ok y)) :
    t = s ∨ ∃ ctx fuel level a last ts e v fs,
      t = (((s.incFld .XLT_COUNTS_WALKS (xltSet iss.unit) 1).walkFrom ctx va fuel level a last ts).1.tlbFill iss.unit e).walkFill v fs := by
  unfold State.xlate at h
  extract_lets at h
  split at h
  · cases h
  · split at h
    · split at h
      · cases h
        exact .inl rfl
      · cases h
    · split at h
      · cases h
      · split at h
        · cases h
        · split at h
          split at h
          · cases h
          · rename_i hw
            split at h
            · cases h
              exact .inr ⟨_, _, _, _, _, _, _, _, _, by rw [hw]⟩
            · cases h

/-- A translation that succeeds draws free values, writes registers and fills the TLBs and walk caches, and changes nothing else. -/
theorem State.xlate_ok_eq {iss : Issuer} {need : Need} {va : Nat} {y : Xl} (h : s.xlate iss need va = (t, .ok y)) :
    ∃ fr rs tl wk, t = { s with free := fr, regs := rs, tlbs := tl, walks := wk } := by
  obtain rfl | ⟨ctx, fuel, level, a, last, ts, e, v, fs, rfl⟩ := State.xlate_ok_cases h
  · exact ⟨_, _, _, _, rfl⟩
  · have hwalk := State.walkFrom_keeps (P := fun t => ∃ fr rs, t = { s with free := fr, regs := rs })
      (s := s.incFld .XLT_COUNTS_WALKS (xltSet iss.unit) 1) (ctx := ctx) (va := va) (fuel := fuel) (level := level) (a := a)
      (last := last) (ts := ts) (by rintro _ k a n ⟨fr, rs, rfl⟩; exact State.pread_eq _ k a n) ⟨_, _, rfl⟩
    obtain ⟨fr, rs, hwalk⟩ := hwalk
    rw [hwalk]
    unfold State.tlbFill
    dsimp only
    split
    · exact ⟨_, _, _, _, rfl⟩
    · exact ⟨_, _, _, _, rfl⟩

/-! ### Issue -/

theorem State.issuing_spec {i : Issue} (h : s.issuing i = some x) :
    x.k = 32 * i.die + i.core ∧ s.findGroup x.k x.g.num = some x.g := by
  unfold State.issuing at h
  extract_lets k at h
  split at h
  · rename_i hg _
    split at h
    · split at h
      · cases h
      · cases h
        exact ⟨rfl, by rw [State.findGroup_num hg]; exact hg⟩
    · cases h
  · cases h

/-- An instruction that may issue does what its body does in the state after its fetch. -/
theorem State.mayIssue.issue_eq {i : Issue} {src dst : List Nat} (h : s.mayIssue i src dst t x) (body : State → Iss → State) :
    s.issue i src dst body = body t x := by
  obtain ⟨hi, hlegal, hready, y, hx⟩ := h
  simp [State.issue, hi, hlegal, hready, hx]

/-- The fetch leaves the cores as they are. -/
theorem State.mayIssue.cores {i : Issue} {src dst : List Nat} (h : s.mayIssue i src dst t x) : t.cores = s.cores := by
  obtain ⟨-, -, -, y, hx⟩ := h
  obtain ⟨fr, rs, tl, wk, rfl⟩ := State.xlate_ok_eq hx
  rfl

theorem State.coreOf_congr (h : t.cores = s.cores) (k : Nat) : t.coreOf k = s.coreOf k := by rw [State.coreOf, h, State.coreOf]

theorem State.findGroup_congr (h : t.cores = s.cores) (k n : Nat) : t.findGroup k n = s.findGroup k n := by
  rw [State.findGroup, State.coreOf_congr h, State.findGroup]

theorem State.mayIssue.findGroup {i : Issue} {src dst : List Nat} (h : s.mayIssue i src dst t x) :
    t.findGroup x.k x.g.num = some x.g := by
  rw [State.findGroup_congr h.cores]
  exact (State.issuing_spec h.1).2

theorem State.countIssue_eq (s : State) (x : Iss) :
    ∃ rs ls vs, s.countIssue x = { s with regs := rs, launches := ls, resvs := vs } := by
  unfold State.countIssue
  extract_lets s₁ a s₂
  have hb : ∃ rs, s₂ = { s with regs := rs } := by
    obtain ⟨rs, h₁⟩ := s₁.bump_eq (unitCore (x.k / 32) (x.k % 32)) 0 1 a
    obtain ⟨rs', h₂⟩ := (s₁.bump (unitCore (x.k / 32) (x.k % 32)) 0 1 a).bump_eq (unitCore (x.k / 32) (x.k % 32)) 1
      (laneList x.lanes).length a
    exact ⟨rs', h₂.trans (by rw [h₁]; rfl)⟩
  obtain ⟨rs, hb⟩ := hb
  clear_value s₂
  subst hb
  exact ⟨rs, _, _, rfl⟩

theorem State.countIssue_cores (s : State) (x : Iss) : (s.countIssue x).cores = s.cores := by
  obtain ⟨rs, ls, vs, h⟩ := s.countIssue_eq x
  rw [h]

theorem State.coreOf_retire_ne (s : State) (f : Group → Group) {k : Nat} (hk : k ≠ x.k) : (s.retire x f).coreOf k = s.coreOf k := by
  rw [State.retire, State.coreOf_modGroup_ne _ _ _ hk, State.coreOf_congr (s.countIssue_cores x)]

theorem State.findGroup_retire_same {f : Group → Group} (h : s.findGroup x.k x.g.num = some x.g) (hf : ∀ g, (f g).num = g.num) :
    (s.retire x f).findGroup x.k x.g.num = some { f x.g with step := false } :=
  State.findGroup_modGroup_same (by rw [State.findGroup_congr (s.countIssue_cores x), h]) hf

theorem State.findGroup_retire_ne (s : State) {f : Group → Group} {n : Nat} (hn : n ≠ x.g.num) (hf : ∀ g, (f g).num = g.num) :
    (s.retire x f).findGroup x.k n = s.findGroup x.k n :=
  ((s.countIssue x).findGroup_modGroup_ne (f := fun g => { f g with step := false }) hn hf).trans
    (State.findGroup_congr (s.countIssue_cores x) _ _)

theorem State.findGroup_next_same {f : Group → Group} (h : s.findGroup x.k x.g.num = some x.g) (hf : ∀ g, (f g).num = g.num) :
    (s.next x f).findGroup x.k x.g.num = some { f x.g with paths := settlePaths (x.p.goto x.npc) x.rest, step := false } :=
  State.findGroup_retire_same h hf

/-- Of an instruction that writes one register of its lanes. -/
theorem State.laneResult_next_setLanes (h : s.findGroup x.k x.g.num = some x.g) (rd : Nat) (f : Nat → Nat) :
    (s.next x fun g => g.setLanes x.lanes rd f).laneResult x rd f :=
  ⟨_, State.findGroup_next_same h fun _ => rfl, fun _ hj hb => x.g.setLanes_regs_active rd f hj hb,
    fun _ hn => x.g.setLanes_regs_other rd f hn⟩

end Sys2Proof.Machine
end

section
/-! Arithmetic, conversion, exchanges and tallies of the general cores (03.1, 03.4). -/

namespace Sys2Proof.Machine

variable {s t : State} {x : Iss} {i : Issue}

/-! ### Arithmetic and conversion (R84) -/

/-- An operation that is not FP64 writes one register of each lane. -/
theorem aluGroup_single (x : Iss) {op : AluOp} (rd : Nat) (a b c : Src) (hop : isF64 op = false) :
    aluGroup x op rd a b c = fun g => g.setLanes x.lanes rd fun j => alu32 op (x.src j a) (x.src j b) (x.src j c) := by
  funext g
  simp [aluGroup, hop]

/-- An FP64 operation writes a pair. -/
theorem aluGroup_pair (x : Iss) {op : AluOp} (rd : Nat) (a b c : Src) (hop : isF64 op = true) :
    aluGroup x op rd a b c = fun g =>
      (g.setLanes x.lanes rd fun j => alu64 op (x.src64 j a) (x.src64 j b) (x.src64 j c)).setLanes x.lanes (rd + 1) fun j =>
        alu64 op (x.src64 j a) (x.src64 j b) (x.src64 j c) / 2 ^ 32 := by
  funext g
  simp [aluGroup, hop]

theorem aluOp_eq_next {op : AluOp} {rd : Nat} {a b c : Src}
    (h : s.mayIssue i (aluSrcs op a b c) (regRun rd (if isF64 op then 2 else 1)) t x) :
    aluOp i op rd a b c s = t.next x (aluGroup x op rd a b c) :=
  h.issue_eq _

theorem convert_eq_next {from_ dest rd : Nat} {sat stoch : Bool} {a index tensor : Src} (hf : from_ < 15) (hd : dest < 15)
    (h : s.mayIssue i (srcRegs 1 a ++ if stoch then srcRegs 1 index ++ srcRegs 1 tensor else []) [rd] t x) :
    convert i from_ dest sat stoch rd a index tensor s =
      ({ t with free := t.free + 64 }).next x fun g => g.setLanes x.lanes rd (t.convLanes x from_ dest sat stoch a index tensor) := by
  have hformats : ¬ (15 ≤ from_ ∨ 15 ≤ dest) := by omega
  rw [convert, if_neg hformats]
  exact h.issue_eq _

/-- A pair of registers written one after the other: the second write leaves the first register of every lane. -/
theorem Group.setLanes_pair_fst (g : Group) {m j : Nat} (r : Nat) (f f' : Nat → Nat) (hj : j < 32) (hb : bit m j = true) :
    tgetD ((g.setLanes m r f).setLanes m (r + 1) f').regs (256 * j + r) 0 = w32 (f j) := by
  rw [Group.setLanes_regs_other _ _ _ fun k _ _ => by omega, g.setLanes_regs_active r f hj hb]

theorem Group.setLanes_pair_other (g : Group) {m n : Nat} (r : Nat) (f f' : Nat → Nat)
    (h : ∀ j, j < 32 → bit m j = true → n ≠ 256 * j + r ∧ n ≠ 256 * j + r + 1) :
    tgetD ((g.setLanes m r f).setLanes m (r + 1) f').regs n 0 = tgetD g.regs n 0 := by
  rw [Group.setLanes_regs_other _ _ _ fun j hj hb => (h j hj hb).2, Group.setLanes_regs_other _ _ _ fun j hj hb => (h j hj hb).1]

/-- Settles O26: each instruction writes the registers of its lanes and goes on. -/
theorem coreArithmetic : Obligations.CoreArithmetic := by
  refine ⟨fun s i op rd a b c t x h hop => ?_, fun s i op rd a b c t x h hop => ?_,
    fun s i from_ dest sat stoch rd a index tensor t x hf hd h => ?_⟩
  · have hrun : aluOp i op rd a b c s = t.next x (aluGroup x op rd a b c) := aluOp_eq_next (by rw [hop]; exact h)
    rw [aluGroup_single x rd a b c hop] at hrun
    exact ⟨_, congrArg Host.Outcome.next hrun, State.laneResult_next_setLanes h.findGroup rd _⟩
  · have hrun : aluOp i op rd a b c s = t.next x (aluGroup x op rd a b c) := aluOp_eq_next (by rw [hop]; exact h)
    rw [aluGroup_pair x rd a b c hop] at hrun
    exact ⟨_, _, congrArg Host.Outcome.next hrun, State.findGroup_next_same h.findGroup fun _ => rfl,
      fun j hj hb => ⟨x.g.setLanes_pair_fst rd _ _ hj hb, Group.setLanes_regs_active _ (rd + 1) _ hj hb⟩,
      fun n hn => x.g.setLanes_pair_other rd _ _ hn⟩
  · exact ⟨_, congrArg Host.Outcome.next (convert_eq_next hf hd h),
      State.laneResult_next_setLanes (s := { t with free := t.free + 64 }) h.findGroup rd _⟩

/-! ### Exchanges and tallies (Table 03-3, R91) -/

theorem segWidth_eq_two_pow {w : Nat} (hw : w ∈ [2, 4, 8, 16, 32]) : ∃ n, w = 2 ^ n := by
  simp only [List.mem_cons, List.not_mem_nil, or_false] at hw
  obtain rfl | rfl | rfl | rfl | rfl := hw
  exacts [⟨1, rfl⟩, ⟨2, rfl⟩, ⟨3, rfl⟩, ⟨4, rfl⟩, ⟨5, rfl⟩]

theorem segWidth_pos {w : Nat} (hw : w ∈ [2, 4, 8, 16, 32]) : 0 < w := by
  obtain ⟨n, rfl⟩ := segWidth_eq_two_pow hw
  exact Nat.two_pow_pos n

/-- Flipping low bits of a lane's number stays in its segment. -/
theorem xor_eq_segStart_add (j : Nat) {n m : Nat} (hm : m < 2 ^ n) : j ^^^ m = segStart (2 ^ n) j + (j % 2 ^ n ^^^ m) := by
  have hlow : j % 2 ^ n ^^^ m < 2 ^ n := Nat.xor_lt_two_pow (Nat.mod_lt _ (Nat.two_pow_pos n)) hm
  apply Nat.eq_of_testBit_eq
  intro k
  rw [segStart, Nat.mul_comm, Nat.testBit_two_pow_mul_add _ hlow]
  by_cases hk : k < n
  · simp [hk, Nat.testBit_mod_two_pow]
  · have hbit : m.testBit k = false := Nat.testBit_lt_two_pow (Nat.lt_of_lt_of_le hm (Nat.pow_le_pow_right (by omega) (by omega)))
    have hsum : k - n + n = k := by omega
    simp [hk, hbit, Nat.testBit_div_two_pow, hsum]

theorem segStart_eq_iff {w : Nat} (hw : 0 < w) (j k : Nat) : segStart w k = segStart w j ↔ k / w = j / w :=
  Nat.mul_left_inj (Nat.ne_of_gt hw)

/-- The lane that an exchange names, as any equal function names it. -/
theorem exchange_laneResult {srcs : List Nat} {rd v : Nat} {lane : Iss → Nat → Nat} {f : Nat → Nat}
    (h : s.mayIssue i srcs [rd] t x) (hf : ∀ j, lane x j = f j) :
    (exchange i srcs rd v lane s).laneResult x rd fun j => xchValue x v j (f j) := by
  obtain rfl : lane x = f := funext hf
  rw [exchange, h.issue_eq]
  exact State.laneResult_next_setLanes h.findGroup rd _

theorem tally_laneResult {rd p : Nat} {f : Iss → Nat → Nat} {f' : Nat → Nat} (h : s.mayIssue i [p] [rd] t x)
    (hf : ∀ j, f x j = f' j) : (tally i rd p f s).laneResult x rd f' := by
  obtain rfl : f x = f' := funext hf
  rw [tally, h.issue_eq]
  exact State.laneResult_next_setLanes h.findGroup rd _

theorem segLanes_eq_filter (x : Iss) {w : Nat} (hw : 0 < w) (j : Nat) :
    segLanes x w j = (List.range 32).filter fun k => bit x.lanes k && decide (k / w = j / w) := by
  simp [segLanes, laneList, maskBits, bit, List.filter_filter, segStart_eq_iff hw, Bool.and_comm]

theorem tallied_eq_filter_segLanes (x : Iss) (w p j : Nat) :
    tallied x w p j = (segLanes x w j).filter fun k => decide (x.reg k p ≠ 0) := by
  simp [tallied, segLanes, List.filter_filter, Bool.and_comm]

theorem tallied_eq_filter (x : Iss) {w : Nat} (hw : 0 < w) (p j : Nat) :
    tallied x w p j =
      (List.range 32).filter fun k => bit x.lanes k && decide (k / w = j / w) && decide (x.reg k p ≠ 0) := by
  rw [tallied_eq_filter_segLanes, segLanes_eq_filter x hw, List.filter_filter]
  congr 1
  funext k
  rw [Bool.and_comm]

/-- All of a segment's participants are tallied when as many are. -/
theorem tallied_length_eq_iff (x : Iss) (w p j : Nat) :
    (tallied x w p j).length = (segLanes x w j).length ↔ tallied x w p j = segLanes x w j := by
  have hsub : (tallied x w p j).Sublist (segLanes x w j) := by
    rw [tallied_eq_filter_segLanes]
    exact List.filter_sublist
  exact hsub.length_eq

theorem xchSwap_eq_exchange {w rd v m : Nat} (hm : m < w) (s : State) :
    xchSwap i w rd v m s = exchange i [v] rd v (fun _ j => j ^^^ m) s :=
  if_pos hm

/-- Settles O27: every exchange and every tally writes one register of its lanes; which lane an exchange reads, and whom a tally
counts, is arithmetic on the lanes' numbers. -/
theorem exchangesAndTallies : Obligations.ExchangesAndTallies := by
  refine ⟨fun s i w rd v r t x hw h => ?_, fun s i w rd v d t x hw h => ?_, fun s i w rd v m t x hw hm h => ?_,
    fun s i w rd v t x hw h => ?_, fun s i w rd p t x hw h => ?_⟩
  · exact ⟨_, rfl, exchange_laneResult h fun _ => rfl⟩
  · exact ⟨_, rfl, exchange_laneResult h fun _ => rfl⟩
  · obtain ⟨n, rfl⟩ := segWidth_eq_two_pow hw
    exact ⟨_, congrArg Host.Outcome.next (xchSwap_eq_exchange hm s), exchange_laneResult h fun j => xor_eq_segStart_add j hm⟩
  · have hpos := segWidth_pos hw
    refine ⟨_, rfl, exchange_laneResult h fun j => ?_⟩
    have hmod : j % w < w := Nat.mod_lt j hpos
    unfold segStart
    omega
  · intro yes part
    have hpos := segWidth_pos hw
    have hyes : ∀ j, tallied x w p j = yes j := tallied_eq_filter x hpos p
    have hpart : ∀ j, segLanes x w j = part j := segLanes_eq_filter x hpos
    refine ⟨⟨_, rfl, tally_laneResult h fun j => ?any⟩, ⟨_, rfl, tally_laneResult h fun j => ?all⟩,
      ⟨_, rfl, tally_laneResult h fun j => ?mask⟩, ⟨_, rfl, tally_laneResult h fun j => ?count⟩,
      ⟨_, rfl, tally_laneResult h fun j => ?below⟩, ⟨_, rfl, tally_laneResult h fun j => ?lead⟩⟩
    case any => cases hy : yes j <;> simp [hyes, hy, b2n]
    case all =>
      have hlen := tallied_length_eq_iff x w p j
      rw [hyes, hpart] at hlen
      simp [hyes, hpart, hlen, b2n]
    all_goals rw [hyes]

end Sys2Proof.Machine
end

section
/-! The frame of the core instructions that only compute with registers or branch (03.1, 03.3, 03.4). -/

namespace Sys2Proof.Machine

variable {s t u : State} {x : Iss} {i : Issue}

/-! ### The registers that an issue may change -/

theorem Reg.ctorIdx_inj {r r' : Reg} (h : r.ctorIdx = r'.ctorIdx) : r = r' := by
  rw [← Reg.ofNat_ctorIdx r, h, Reg.ofNat_ctorIdx]

/-- The counts of issues, events and walks, and what a wake of a stack's interface writes (R28). -/
def issueRegs : List Reg := [.GC_ISSUED, .OBS_F, .OBS_P, .XLT_COUNTS, .PWR_DOMAIN_ON, .HBM_STK_STATUS]

/-- Every register but those of an issue reads in `t` as it does in `s`. -/
def State.RegsKept (s t : State) : Prop := ∀ r n, n < 65536 → r ∉ issueRegs → t.reg r n = s.reg r n

theorem State.reg_congr (h : t.regs = s.regs) (r : Reg) (n : Nat) : t.reg r n = s.reg r n := by rw [State.reg, h, State.reg]

theorem State.RegsKept.refl (s : State) : s.RegsKept s := fun _ _ _ _ => rfl

/-- A change of other fields. -/
theorem State.RegsKept.of_regs (hk : s.RegsKept t) (h : u.regs = t.regs) : s.RegsKept u :=
  fun r n hn hr => (State.reg_congr h r n).trans (hk r n hn hr)

theorem State.RegsKept.setReg (hk : s.RegsKept t) {r : Reg} {j v : Nat} (hr : r ∈ issueRegs) (hj : j < 65536) :
    s.RegsKept (t.setReg r j v) := by
  intro r' n hn hr'
  have hne : r'.ctorIdx ≠ r.ctorIdx := fun h => hr' (Reg.ctorIdx_inj h ▸ hr)
  rw [State.reg_setReg_ne _ _ _ _ _ _ hne hj hn, hk r' n hn hr']

theorem State.RegsKept.setFld (hk : s.RegsKept t) {f : Fld} {j v : Nat} (hr : f.reg ∈ issueRegs) (hj : j < 65536) :
    s.RegsKept (t.setFld f j v) := hk.setReg hr hj

theorem State.RegsKept.incFld (hk : s.RegsKept t) {f : Fld} {j n : Nat} (hr : f.reg ∈ issueRegs) (hj : j < 65536) :
    s.RegsKept (t.incFld f j n) := hk.setFld hr hj

theorem State.RegsKept.countReg (hk : s.RegsKept t) {r : Reg} {j n : Nat} (hr : r ∈ issueRegs) (hj : j < 65536) :
    s.RegsKept (t.countReg r j n) := hk.setReg hr hj

theorem State.RegsKept.bump (hk : s.RegsKept t) {v j n : Nat} {a : Option Attr} (hv : v < 1024) (hj : j < 16) :
    s.RegsKept (t.bump v j n a) := by
  unfold State.bump
  split
  · exact hk
  · refine List.foldlRecOn (motive := fun t => s.RegsKept t) _ _ (hk.countReg (by decide) (by omega)) fun t ht m hm => ?_
    have hm8 : m < 8 := List.mem_range.mp hm
    dsimp only
    split
    · exact ht.countReg (by decide) (by omega)
    · exact ht

/-! ### A fetch (R28, R126, R199) -/

theorem xorFields_lt (g k : Nat) {w : Nat} (hw : 0 < w) : xorFields g w k < 2 ^ w := by
  refine List.foldlRecOn (motive := fun m => m < 2 ^ w) _ _ (Nat.two_pow_pos w) fun m hm i _ => ?_
  have hfield := bits_lt g (w * i + w - 1) (w * i)
  have hwidth : w * i + w - 1 + 1 - w * i = w := by omega
  rw [hwidth] at hfield
  exact Nat.xor_lt_two_pow hm hfield

/-- R126: a local address lies in one of 16 stacks. -/
theorem State.hbmLoc_fst_lt (s : State) (a : Nat) : (s.hbmLoc a).1 < 16 := by
  unfold State.hbmLoc hbmMap
  extract_lets o f g g'
  split
  · have hquad : bits o 35 34 < 4 := bits_lt o 35 34
    have hstack : xorFields g 2 11 < 4 := xorFields_lt g 11 (by decide)
    dsimp only
    omega
  · have hlow : bits g' 3 0 < 2 ^ 4 := bits_lt g' 3 0
    exact Nat.xor_lt_two_pow hlow (xorFields_lt _ 5 (by decide))

theorem State.RegsKept.wakeHbm (hk : s.RegsKept t) (a : Nat) : s.RegsKept (t.wakeHbm a) := by
  have hstack := t.hbmLoc_fst_lt a
  unfold State.wakeHbm
  dsimp only
  split
  · exact hk
  · exact (hk.setReg (by decide) (by omega)).setFld (by decide) (by omega)

theorem State.RegsKept.pread (hk : s.RegsKept t) (k a n : Nat) : s.RegsKept (t.pread k a n).1 := by
  unfold State.pread
  split
  · dsimp only
    split
    · exact (hk.wakeHbm a).of_regs rfl
    · exact hk.wakeHbm a
  all_goals exact hk.of_regs rfl

theorem State.tlbFill_regs (s : State) (v : Nat) (e : TlbEntry) : (s.tlbFill v e).regs = s.regs := by
  unfold State.tlbFill
  dsimp only
  split <;> rfl

theorem xltSet_lt {v : Nat} (h : v < 384) : xltSet v < 12 := by
  simp only [xltSet, h, if_true]
  omega

/-- A translation for a core that succeeds writes the counts of walks and what its reads wake. -/
theorem State.RegsKept.xlate_ok {iss : Issuer} {need : Need} {va : Nat} {y : Xl} (hv : iss.unit < 384)
    (h : s.xlate iss need va = (t, .ok y)) : s.RegsKept t := by
  obtain rfl | ⟨ctx, fuel, level, a, last, ts, e, v, fs, rfl⟩ := State.xlate_ok_cases h
  · exact State.RegsKept.refl t
  · have hset := xltSet_lt hv
    have hcount : s.RegsKept (s.incFld .XLT_COUNTS_WALKS (xltSet iss.unit) 1) :=
      (State.RegsKept.refl s).incFld (by decide) (by omega)
    exact (State.walkFrom_keeps (P := s.RegsKept) (fun _ k a n ht => ht.pread k a n) hcount).of_regs (State.tlbFill_regs _ _ _)

/-! ### An issue -/

theorem State.RegsKept.countIssue (hk : s.RegsKept t) (hx : x.k < 384) : s.RegsKept (t.countIssue x) := by
  have hunit : unitCore (x.k / 32) (x.k % 32) < 1024 := by unfold unitCore; omega
  unfold State.countIssue
  exact (((hk.setReg (by decide) (by omega)).bump hunit (by decide)).bump hunit (by decide)).of_regs rfl

theorem State.RegsKept.retire (hk : s.RegsKept t) (hx : x.k < 384) (f : Group → Group) : s.RegsKept (t.retire x f) :=
  (hk.countIssue hx).of_regs rfl

/-- What an issue that retires changes of a state. -/
theorem State.retire_eq (s : State) (x : Iss) (f : Group → Group) :
    ∃ rs cs ls vs, s.retire x f = { s with regs := rs, cores := cs, launches := ls, resvs := vs } := by
  obtain ⟨rs, ls, vs, h⟩ := s.countIssue_eq x
  exact ⟨rs, _, ls, vs, congrArg (fun v : State => v.modGroup x.k x.g.num fun y => { f y with step := false }) h⟩

/-! ### Instructions whose work stays within their destinations -/

/-- A change of the issuing group that keeps its number and every register but the destinations of the active lanes. -/
def Iss.Confined (x : Iss) (dst : List Nat) (f : Group → Group) : Prop :=
  (∀ g, (f g).num = g.num) ∧
    ∀ g n, (∀ j, j < 32 → bit x.lanes j = true → ∀ rd ∈ dst, n ≠ 256 * j + rd) → tgetD (f g).regs n 0 = tgetD g.regs n 0

theorem Iss.Confined.paths (x : Iss) (dst : List Nat) (ps : Group → List Path) : x.Confined dst fun g => { g with paths := ps g } :=
  ⟨fun _ => rfl, fun _ _ _ => rfl⟩

theorem Iss.Confined.setLanes (x : Iss) {dst : List Nat} {rd : Nat} (h : rd ∈ dst) (f : Nat → Nat) :
    x.Confined dst fun g => g.setLanes x.lanes rd f :=
  ⟨fun _ => rfl, fun g _ hn => g.setLanes_regs_other rd f fun j hj hb => hn j hj hb rd h⟩

theorem Iss.Confined.comp {dst : List Nat} {f g : Group → Group} (hf : x.Confined dst f) (hg : x.Confined dst g) :
    x.Confined dst fun y => f (g y) :=
  ⟨fun y => (hf.1 _).trans (hg.1 y), fun y n hn => (hf.2 _ n hn).trans (hg.2 y n hn)⟩

theorem aluGroup_confined (x : Iss) (op : AluOp) (rd : Nat) (a b c : Src) :
    x.Confined (regRun rd (if isF64 op then 2 else 1)) (aluGroup x op rd a b c) := by
  cases hop : isF64 op with
  | false =>
    rw [aluGroup_single x rd a b c hop]
    exact Iss.Confined.setLanes x (by simp [regRun]) _
  | true =>
    rw [aluGroup_pair x rd a b c hop]
    exact (Iss.Confined.setLanes x (by simp [regRun, List.range_succ]) _).comp
      (Iss.Confined.setLanes x (by simp [regRun, List.range_succ]) _)

/-- `v` is `s`, or what retiring an instruction in `t`, after its fetch, makes of it: its group changes within the destinations, and
free values may have been drawn. -/
def Iss.RetiresIn (x : Iss) (dst : List Nat) (s t v : State) : Prop :=
  v = s ∨ ∃ n f, v = ({ t with free := n }).retire x f ∧ x.Confined dst f

theorem Iss.RetiresIn.next {dst : List Nat} {f : Group → Group} (hf : x.Confined dst f) (n : Nat) :
    x.RetiresIn dst s t (({ t with free := n }).next x f) :=
  .inr ⟨n, _, rfl, (Iss.Confined.paths x dst fun _ => settlePaths (x.p.goto x.npc) x.rest).comp hf⟩

theorem aluOp_retiresIn {op : AluOp} {rd : Nat} {a b c : Src}
    (h : s.mayIssue i (aluSrcs op a b c) (regRun rd (if isF64 op then 2 else 1)) t x) :
    x.RetiresIn (regRun rd (if isF64 op then 2 else 1)) s t (aluOp i op rd a b c s) := by
  rw [aluOp_eq_next h]
  exact Iss.RetiresIn.next (aluGroup_confined x op rd a b c) t.free

theorem convert_retiresIn {from_ dest rd : Nat} {sat stoch : Bool} {a index tensor : Src}
    (h : s.mayIssue i (srcRegs 1 a ++ if stoch then srcRegs 1 index ++ srcRegs 1 tensor else []) [rd] t x) :
    x.RetiresIn [rd] s t (convert i from_ dest sat stoch rd a index tensor s) := by
  unfold convert
  dsimp only
  split
  · exact .inl rfl
  · rw [h.issue_eq]
    exact Iss.RetiresIn.next (Iss.Confined.setLanes x (List.mem_singleton_self rd) _) _

theorem branch_retiresIn {cond : Nat} {target marker : W64} (h : s.mayIssue i [cond] [] t x) :
    x.RetiresIn [] s t (branch i cond target marker s) := by
  rw [branch, h.issue_eq]
  exact .inr ⟨t.free, _, rfl, Iss.Confined.paths x [] _⟩

theorem exchange_retiresIn {srcs : List Nat} {rd v : Nat} {lane : Iss → Nat → Nat} (h : s.mayIssue i srcs [rd] t x) :
    x.RetiresIn [rd] s t (exchange i srcs rd v lane s) := by
  rw [exchange, h.issue_eq]
  exact Iss.RetiresIn.next (Iss.Confined.setLanes x (List.mem_singleton_self rd) _) t.free

theorem xchSwap_retiresIn {w rd v m : Nat} (h : s.mayIssue i [v] [rd] t x) : x.RetiresIn [rd] s t (xchSwap i w rd v m s) := by
  unfold xchSwap
  split
  · exact exchange_retiresIn h
  · exact .inl rfl

theorem tally_retiresIn {rd p : Nat} {f : Iss → Nat → Nat} (h : s.mayIssue i [p] [rd] t x) :
    x.RetiresIn [rd] s t (tally i rd p f s) := by
  rw [tally, h.issue_eq]
  exact Iss.RetiresIn.next (Iss.Confined.setLanes x (List.mem_singleton_self rd) _) t.free

/-- What the register-only instructions do, one by one. -/
theorem regRow_retiresIn {c : Instr} {src dst : List Nat} (hrow : regRow c = some (i, src, dst)) (h : s.mayIssue i src dst t x) :
    ∃ v, exec c s = .next v ∧ x.RetiresIn dst s t v := by
  unfold regRow at hrow
  split at hrow <;> cases hrow
  case h_1 => exact ⟨_, rfl, aluOp_retiresIn h⟩
  case h_2 => exact ⟨_, rfl, convert_retiresIn h⟩
  case h_3 => exact ⟨_, rfl, branch_retiresIn h⟩
  case h_6 => exact ⟨_, rfl, xchSwap_retiresIn h⟩
  case h_4 | h_5 | h_7 => exact ⟨_, rfl, exchange_retiresIn h⟩
  all_goals exact ⟨_, rfl, tally_retiresIn h⟩

/-- Settles O56: what the fetch may change, and then what the retired issue may. -/
theorem coreRegisterFrame : Obligations.CoreRegisterFrame := by
  intro s c i src dst t x u hrow h hdie hcore hexec
  obtain ⟨v, hv, hret⟩ := regRow_retiresIn hrow h
  obtain rfl : v = u := Host.Outcome.next.inj (hv.symm.trans hexec)
  obtain ⟨hk, hg⟩ := State.issuing_spec h.1
  obtain rfl | ⟨n, f, rfl, hnum, hregs⟩ := hret
  · exact ⟨rfl, fun _ _ => rfl, fun _ _ => rfl, ⟨x.g, hg, fun _ _ => rfl⟩, fun _ _ _ _ => rfl⟩
  · have hcores : ({ t with free := n } : State).cores = s.cores := h.cores
    refine ⟨?frame, fun k hk => ?core, fun m hm => ?group, ⟨_, State.findGroup_retire_same h.findGroup hnum, hregs x.g⟩, ?regs⟩
    case frame =>
      obtain ⟨-, -, -, y, hx⟩ := h
      obtain ⟨fr, rs, tl, wk, rfl⟩ := State.xlate_ok_eq hx
      obtain ⟨rs', cs, ls, vs, hr⟩ := State.retire_eq { s with free := n, regs := rs, tlbs := tl, walks := wk } x f
      rw [hr]
    case core => rw [State.coreOf_retire_ne _ _ hk, State.coreOf_congr hcores]
    case group => rw [State.findGroup_retire_ne _ hm hnum, State.findGroup_congr hcores]
    case regs =>
      have hunit : x.k < 384 := by omega
      obtain ⟨-, -, -, y, hx⟩ := h
      have hfetch : s.RegsKept { t with free := n } := (State.RegsKept.xlate_ok hunit hx).of_regs rfl
      exact hfetch.retire hunit f

end Sys2Proof.Machine
end

section
/-! Branches, MEET, rendezvous points and exits (03.3, 03.4). -/

namespace Sys2Proof.Machine

variable {s t : State} {x : Iss} {i : Issue}

theorem bit_foldl_or_two_pow (l : List Nat) (m j : Nat) :
    bit (l.foldl (fun m i => m ||| 2 ^ i) m) j = true ↔ bit m j = true ∨ j ∈ l := by
  induction l generalizing m with
  | nil => simp
  | cons i l ih =>
    have hpow : (2 ^ i).testBit j = true ↔ j = i := by simp [Nat.testBit_two_pow, eq_comm]
    rw [List.foldl_cons, ih, bit, Nat.testBit_or, Bool.or_eq_true, hpow, List.mem_cons, or_assoc, bit]

theorem bit_maskOf (l : List Nat) (j : Nat) : bit (maskOf l) j = true ↔ j ∈ l := by
  rw [maskOf, bit_foldl_or_two_pow]
  simp [bit]

/-! ### RDV.WAIT (R91, R92) -/

/-- The path of the active lanes that wait for rendezvous `k` of point `r`, where `n` gives each lane's rendezvous. -/
def rdvPath (x : Iss) (r : Nat) (n : Nat → Nat) (k : Nat) : Path :=
  { x.p.goto x.npc with lanes := maskOf ((laneList x.lanes).filter fun j => decide (n j = k)), wait := .rdv r k, issued := 0 }

/-- The paths of a RDV.WAIT: one for each rendezvous that some active lane waits for. -/
def rdvPaths (x : Iss) (r : Nat) (n : Nat → Nat) : List Path :=
  (((laneList x.lanes).map n).eraseDups.map (rdvPath x r n)).map Path.pop

theorem rdvWait_eq {r : Nat} (hr : r < 8) (h : s.mayIssue i [] [] t x) :
    rdvWait i r s = ((t.arriveAt x r).retire x fun g =>
      { g with paths := x.rest ++ rdvPaths x r ((t.arriveAt x r).arrivals x r) }).settleBlock x := by
  rw [rdvWait, if_neg (Nat.not_le.mpr hr), h.issue_eq]
  rfl

theorem mem_rdvPaths {r : Nat} {n : Nat → Nat} {p : Path} :
    p ∈ rdvPaths x r n ↔ ∃ j ∈ laneList x.lanes, p = (rdvPath x r n (n j)).pop := by
  simp [rdvPaths, eq_comm]

theorem bit_rdvPath_lanes {r k j : Nat} {n : Nat → Nat} :
    bit (rdvPath x r n k).pop.lanes j = true ↔ (j < 32 ∧ bit x.lanes j = true) ∧ n j = k := by
  change bit (maskOf _) j = true ↔ _
  rw [bit_maskOf, List.mem_filter, mem_laneList, decide_eq_true_iff]

theorem rdvSignal_eq {r : Nat} (hr : r < 8) (h : s.mayIssue i [] [] t x) :
    rdvSignal i r s = ((t.arriveAt x r).next x id).settleBlock x := by
  rw [rdvSignal, if_neg (Nat.not_le.mpr hr), h.issue_eq]

/-- Settles O28: each instruction issues; the paths of RDV.WAIT part the active lanes by the rendezvous that each waits for. -/
theorem coreControlFlow : Obligations.CoreControlFlow := by
  refine ⟨fun s i cond target marker t x h => congrArg Host.Outcome.next (h.issue_eq _),
    fun s i w t x h => congrArg Host.Outcome.next (h.issue_eq _), fun s i r t x hr h => ?wait,
    fun s i r t x hr h => congrArg Host.Outcome.next (rdvSignal_eq hr h),
    fun s i t x h => congrArg Host.Outcome.next (h.issue_eq _)⟩
  case wait =>
    refine ⟨_, congrArg Host.Outcome.next (rdvWait_eq hr h), fun p hp => ?_, fun j hj hb => ?_⟩
    · obtain ⟨j, -, rfl⟩ := mem_rdvPaths.mp hp
      exact ⟨_, rfl, fun k hk => (bit_rdvPath_lanes.mp hk).2, rfl⟩
    · exact ⟨_, mem_rdvPaths.mpr ⟨j, mem_laneList.mpr ⟨hj, hb⟩, rfl⟩, bit_rdvPath_lanes.mpr ⟨⟨hj, hb⟩, rfl⟩⟩

end Sys2Proof.Machine
end

section
/-! Memory accesses of the general cores (03.3, 03.5): what each instruction comes to when none of its lanes faults and none has to
wait. -/

namespace Sys2Proof.Machine

variable {s t u : State} {x : Iss} {i : Issue}

/-- The load that a group has in flight once its lanes have asked for their bytes. -/
def loadInFlight (x : Iss) (mark : MemMark) (size rd : Nat) (va : Nat → Nat) (a : LoadAcc) : CoreLoad :=
  ⟨x.g.num, rd, size, x.p.pc, x.lanes, a.new, decide (mark ≠ .cached), loadKind x va false, a.lanes⟩

/-- R88, R104. -/
theorem load_eq_next {mark : MemMark} {size rd ra : Nat} {off : W64} {a : LoadAcc}
    (h : s.mayIssue i (regRun ra 2) (regRun rd (sizeRegs size)) t x)
    (hlanes : (laneList x.lanes).foldl (fun (y : State × LoadAcc) j => y.1.loadLane x mark size j (x.addr ra off j) y.2)
      (t, ⟨[], false, false, false, none⟩) = (u, a))
    (hfault : a.fault = none) (hhold : a.hold = false) (hnew : a.new = true → (t.coreOf x.k).missing x.g.num = false)
    (hfar : a.far = true → t.serials x.k x.g.num < 4) :
    load i mark size rd ra off s =
      (if a.lanes.all LaneLoad.whole then u.landLanes x.k (loadInFlight x mark size rd (x.addr ra off) a) a.lanes
        else u.keepLoad x (loadInFlight x mark size rd (x.addr ra off) a)).next x id := by
  have hgo : ¬ (a.hold = true ∨ (a.new = true ∧ (t.coreOf x.k).missing x.g.num = true) ∨
      (a.far = true ∧ 4 ≤ t.serials x.k x.g.num)) := by
    rintro (hh | ⟨hn, hmiss⟩ | ⟨hf, hser⟩)
    · simp [hhold] at hh
    · simp [hnew hn] at hmiss
    · exact absurd (hfar hf) (Nat.not_lt.mpr hser)
  rw [load, h.issue_eq]
  simp only [hlanes, hgo, if_false, hfault]
  rfl

/-- R88, R96. -/
theorem store_eq_next {mark : MemMark} {size rv ra stream : Nat} {off : W64}
    (h : s.mayIssue i (regRun ra 2 ++ regRun rv (sizeRegs size)) [] t x)
    (hfar : t.goesFar x .write size (x.addr ra off) = true → t.serials x.k x.g.num < 4)
    (hlanes : (laneList x.lanes).foldl (fun (y : State × Option (Nat × Nat × Nat)) j =>
      y.1.storeLane x mark size rv stream t.nextTag j (x.addr ra off j) y.2) (t, none) = (u, none)) :
    store i mark size rv ra off stream s = u.next x id := by
  have hgo : ¬ (t.goesFar x .write size (x.addr ra off) = true ∧ 4 ≤ t.serials x.k x.g.num) :=
    fun hs => Nat.not_lt.mpr hs.2 (hfar hs.1)
  rw [store, h.issue_eq]
  simp only [hgo, if_false, hlanes]

/-- R89. -/
theorem atomicInstr_eq_next {op : AtomOp} {size rd ra rb rc : Nat} (hsize : op = .fadd → size = 4)
    (h : s.mayIssue i (regRun ra 2 ++ regRun rb (sizeRegs size) ++ if op = .cas then regRun rc (sizeRegs size) else [])
      (regRun rd (sizeRegs size)) t x)
    (hfar : t.goesFar x .atomic size (x.addr ra 0) = true → t.serials x.k x.g.num < 4)
    (hlanes : t.wordLanes x .atomic size rd size (x.addr ra 0) (atomicLane x op size rd rb rc t.nextTag) = (u, none)) :
    atomicInstr i op size rd ra rb rc s = u.next x id := by
  have hword : ¬ (op = .fadd ∧ size ≠ 4) := fun hs => hs.2 (hsize hs.1)
  have hgo : ¬ (t.goesFar x .atomic size (x.addr ra 0) = true ∧ 4 ≤ t.serials x.k x.g.num) :=
    fun hs => Nat.not_lt.mpr hs.2 (hfar hs.1)
  rw [atomicInstr, if_neg hword, h.issue_eq]
  simp only [hgo, if_false, hlanes, State.wordEnd]

/-- The instruction counts of the active lanes' reservations begin again (R90). -/
def restartResvs (x : Iss) (l : List Resv) : List Resv :=
  l.map fun (y : Resv) => if y.core = x.k ∧ y.group = x.g.num ∧ bit x.lanes y.lane = true then { y with issued := 0 } else y

theorem issued_of_mem_restartResvs {l : List Resv} {r : Resv} (h : r ∈ restartResvs x l) (hk : r.core = x.k)
    (hg : r.group = x.g.num) (hb : bit x.lanes r.lane = true) : r.issued = 0 := by
  obtain ⟨y, -, rfl⟩ := List.mem_map.mp h
  by_cases hy : y.core = x.k ∧ y.group = x.g.num ∧ bit x.lanes y.lane = true
  · rw [if_pos hy]
  · rw [if_neg hy] at hk hg hb
    exact absurd ⟨hk, hg, hb⟩ hy

theorem ll_eq_next {size rd ra : Nat} (h : s.mayIssue i (regRun ra 2) (regRun rd (sizeRegs size)) t x)
    (hlanes : t.wordLanes x .read size rd size (x.addr ra 0) (llLane x size) = (u, none)) :
    ll i size rd ra s = { u.next x id with resvs := restartResvs x (u.next x id).resvs } := by
  rw [ll, h.issue_eq]
  simp only [hlanes, State.wordEnd]
  rfl

theorem sc_eq_next {size rd ra rv : Nat} (h : s.mayIssue i (regRun ra 2 ++ regRun rv (sizeRegs size)) [rd] t x)
    (hlanes : t.wordLanes x .write size rd 4 (x.addr ra 0) (scLane x size rv) = (u, none)) :
    sc i size rd ra rv s = u.next x id := by
  rw [sc, h.issue_eq]
  simp only [hlanes, State.wordEnd]

/-- What ADD_TO_LINE asks of its line's home: the full sectors of the payload are added once (R177). -/
def addAtHome (x : Iss) (l : Xl) (rp : Nat) (sectors : BitVec 4) (rop : Nat) (exact_ : Bool) (anchor : Int) (s : State) :
    State × Nat × W64 :=
  let (s, n) := s.addLineAt ⟨(s.keyOf l.key).getD 0, x.issuer.who.ctx,
      if x.issuer.who.panel < 48 then some x.issuer.who.panel else none, false⟩ (l.pa % 2 ^ 48 / 128)
    (sectors.toNat &&& fullSectors x.lanes) rop exact_ false anchor
    ((List.range 32).flatMap fun j => leBytes 4 (if bit x.lanes j then x.reg j rp else 0)) 0
  (s, n, 0)

theorem addToLine_eq_next {ra rp rop : Nat} {sectors : BitVec 4} {exact_ : Bool} {anchor : Int} {l : Xl} {rt : RTag} {v w : State}
    {n : Nat × W64} (hrop : rop ≤ 8) (h : s.mayIssue i (regRun ra 2 ++ [rp]) [] t x)
    (hx : t.xlate x.issuer .atomic (x.addr ra 0 (lowLane x.lanes) / 128 * 128) = (u, .ok l)) (hdevice : l.device = false)
    (hregion : region (l.pa % 2 ^ 48) = .hbm) (hlocal : u.isLocal l.pa = true)
    (htag : (u.l1Flush x.k (l.pa / 128)).nextRTag x.k = (rt, v))
    (honce : v.once (v.homeQ (l.pa % 2 ^ 48)) rt (addAtHome x l rp sectors rop exact_ anchor) = (w, n)) :
    addToLine i ra rp sectors rop exact_ anchor s =
      ((laneList x.lanes).foldl (fun s j => s.endResv x j)
        ((w.l1Refresh x.k (l.pa / 128) (sectorMask (sectors.toNat &&& fullSectors x.lanes))).launchStatus x.k n.1)).next x id := by
  have hhome : ¬ (l.device = true ∨ region (l.pa % 2 ^ 48) ≠ .hbm) :=
    not_or.mpr ⟨by simp [hdevice], not_not.mpr hregion⟩
  rw [addToLine, if_neg (Nat.not_lt.mpr hrop), h.issue_eq]
  unfold addAtHome at honce
  simp only [hx, hhome, hlocal, htag, honce, if_false, if_true]

/-- Settles O29: none of the lanes faults, so each instruction ends as its own equation says. -/
theorem coreMemoryAccesses : Obligations.CoreMemoryAccesses := by
  refine ⟨fun s i mark size rd ra off t x u a h hlanes hfault hhold hnew hfar =>
      ⟨loadInFlight x mark size rd (x.addr ra off) a, rfl, rfl, rfl, rfl,
        congrArg Host.Outcome.next (load_eq_next h hlanes hfault hhold hnew hfar)⟩,
    fun s i mark size rv ra off stream t x u h hfar hlanes => congrArg Host.Outcome.next (store_eq_next h hfar hlanes),
    fun s i op size rd ra rb rc t x u hsize h hfar hlanes =>
      congrArg Host.Outcome.next (atomicInstr_eq_next hsize h hfar hlanes),
    fun s i size rd ra t x u h hlanes => ?ll,
    fun s i size rd ra rv t x u h hlanes => congrArg Host.Outcome.next (sc_eq_next h hlanes),
    fun s i ra rp sectors rop exact_ anchor t x u l rt v w n hrop h hx hdevice hregion hlocal htag honce =>
      congrArg Host.Outcome.next (addToLine_eq_next hrop h hx hdevice hregion hlocal htag honce)⟩
  case ll =>
    exact ⟨_, congrArg Host.Outcome.next (ll_eq_next h hlanes), rfl, fun r hr hk hg hb => issued_of_mem_restartResvs hr hk hg hb⟩

end Sys2Proof.Machine
end

section
/-! Launches, blocks and kernels of the general cores (03.8). -/

namespace Sys2Proof.Machine

variable {s t : State} {c : Cmd} {id : Nat}

/-! ### Running a command's body -/

/-- A command that may run ends as its body in the begun state says. -/
theorem State.mayRun.runCmd_eq {op : Nat} (h : s.mayRun id op t c) (body : State → Cmd → State × Option Nat) :
    s.runCmd id op body = bodyEnd id (body t c) := by
  obtain ⟨c0, hc0, hop, hstart, rfl, hc⟩ := h
  rw [s.runCmd_run id op body c0 c hc0 hop hstart hc]
  rcases body (s.beginCmd c0) c with ⟨v, _ | st⟩ <;> rfl

/-- GEMM and LAUNCH run as other commands do once theirs holds a tile. -/
theorem State.runTiled_eq_runCmd (h : ∃ c, s.cmd id = some c ∧ s.heldTiles c ≠ []) (op : Nat)
    (body : State → Cmd → State × Option Nat) : s.runTiled id op body = s.runCmd id op body := by
  obtain ⟨c, hc, hheld⟩ := h
  simp [State.runTiled, hc, hheld]

theorem checkedBody_of_pass {checks : State → List Byte → List (Bool × Nat)} {act : State → List Byte → State × Nat}
    (h : checkStatus (checks s c.raw) = 0) : checkedBody checks act s c = ((act s c.raw).1, some (act s c.raw).2) := by
  simp [checkedBody, h]

/-! ### LAUNCH (R110, R111) -/

/-- The cores of a LAUNCH's operand that the launch may use. -/
def State.usedCores (s : State) (cores : List Nat) (c : Cmd) : List Nat :=
  (cores.filter fun k => (s.launchCores c.panel c.raw).contains k).eraseDups

theorem State.mem_usedCores (s : State) (cores : List Nat) (c : Cmd) (k : Nat) :
    k ∈ s.usedCores cores c ↔ k ∈ cores ∧ k ∈ s.launchCores c.panel c.raw := by
  simp [State.usedCores]

theorem launchBody_opens {cores : List Nat} {args : List Byte} (hnew : thas s.launches c.id = false)
    (hchecks : checkStatus (launchChecks s (s.settings c.epoch) c.panel c.raw) = 0) (hlost : c.lost = false)
    (hcores : (cores.filter fun k => (s.launchCores c.panel c.raw).contains k) ≠ []) (hargs : s.readArgs c = (t, some (.ok args))) :
    launchBody cores s c =
      ({ t with launches := tput t.launches c.id ⟨c.id, 0, 0, s.usedCores cores c, [], args, 0, 0, 0, false, 0⟩ }, none) := by
  have hused : s.usedCores cores c ≠ [] := by
    obtain ⟨k, hk⟩ := List.exists_mem_of_ne_nil _ hcores
    exact List.ne_nil_of_mem (List.mem_eraseDups.mpr hk)
  unfold launchBody
  extract_lets bad l
  have hl : ¬ l = [] := hused
  simp only [hnew, bad, hchecks, hlost, hl, hargs, ne_eq, not_true_eq_false, Bool.false_eq_true, if_false]
  rfl

/-! ### BLOCK_START (R85, R86, R101) -/

theorem blockStart_eq_placeBlock {die core : Nat} {l : Launch} (hc : s.cmd id = some c) (hl : tget s.launches id = some l)
    (hrun : l.stopped = false) (hnext : l.next < gridOf c.raw) (hcore : l.cores.contains (32 * die + core) = true)
    (hheld : (s.heldTiles c).contains (coreTile (32 * die + core)) = true) (htile : s.tileStops (32 * die + core) = false)
    (hhalt : (s.coreOf (32 * die + core)).halted = false)
    (hfree : (s.coreOf (32 * die + core)).launch = none ∨ (s.coreOf (32 * die + core)).launch = some id)
    (hroom : s.roomFor (32 * die + core) c.raw = true) :
    blockStart id die core s =
      (if (s.coreOf (32 * die + core)).launch.isNone then s.kernelStart (32 * die + core) c else s).placeBlock (32 * die + core) c
        l.next := by
  have hlaunch : ((s.coreOf (32 * die + core)).launch.isNone || decide ((s.coreOf (32 * die + core)).launch = some id)) = true := by
    simpa using hfree
  simp only [blockStart, hc, hl, hrun, hnext, hcore, hheld, htile, hhalt, hlaunch, hroom, decide_true, Bool.not_false, Bool.and_true,
    if_true]

/-- A core that was written is what was written. -/
theorem State.coreOf_of_cores {k : Nat} {y : Core} {cs : Tab Core} (h : t.cores = tput cs k y) : t.coreOf k = y := by
  rw [State.coreOf, h, tgetD_tput_same]

/-- What a core is before its next block is placed: it runs the launch, and what it holds is what it held. -/
structure State.KernelReady (s t : State) (k id : Nat) : Prop where
  launch : (t.coreOf k).launch = some id
  groups : (t.coreOf k).groups = (s.coreOf k).groups
  blocks : (t.coreOf k).blocks = (s.coreOf k).blocks
  remotes : t.remotes = s.remotes
  next : (tget t.launches id).map (fun l => l.next) = (tget s.launches id).map fun l => l.next

theorem State.kernelStart_ready (s : State) (k : Nat) (c : Cmd) : s.KernelReady (s.kernelStart k c) k c.id := by
  have hcore : (s.kernelStart k c).coreOf k =
      { (if (s.coreOf k).lockN ≠ 0 ∧ (s.coreOf k).lockCtx ≠ c.ctx then (s.coreOf k).unlock else s.coreOf k) with
        launch := some c.id
        l1 := (if (s.coreOf k).lockN ≠ 0 ∧ (s.coreOf k).lockCtx ≠ c.ctx then (s.coreOf k).unlock else s.coreOf k).l1.filter
          fun l => l.locked
        fills := [], loads := [], started := s.time } :=
    State.coreOf_of_cores rfl
  refine ⟨by rw [hcore], ?_, ?_, rfl, ?_⟩
  · rw [hcore]
    dsimp only
    split <;> rfl
  · rw [hcore]
    dsimp only
    split <;> rfl
  · change (tget (tmod s.launches c.id _) c.id).map _ = _
    rw [tget_tmod_same, Option.map_map]
    rfl

/-- The kernel is started where the core is free, and runs already where it is not. -/
theorem State.kernelReady_of_free {k : Nat} (hfree : (s.coreOf k).launch = none ∨ (s.coreOf k).launch = some c.id) :
    s.KernelReady (if (s.coreOf k).launch.isNone then s.kernelStart k c else s) k c.id := by
  obtain h | h := hfree
  · simpa [h] using s.kernelStart_ready k c
  · simpa [h] using (⟨h, rfl, rfl, rfl, rfl⟩ : s.KernelReady s k c.id)

theorem State.KernelReady.freeGroups {k : Nat} (h : s.KernelReady t k id) : t.freeGroups k = s.freeGroups k := by
  simp only [State.freeGroups, State.laneRemotes, h.groups, h.remotes]

/-- The groups of a block at the kernel's entry. -/
def State.blockGroupsAt (s : State) (k : Nat) (c : Cmd) (b : Nat) : List Group :=
  ((s.freeGroups k).take (blockThreads c.raw / 32)).zipIdx.map fun n => Group.entry n.1 b n.2 (w64 (leAt c.raw 16 8))

theorem State.blockGroupsAt_length {k : Nat} (hroom : s.roomFor k c.raw = true) (b : Nat) :
    (s.blockGroupsAt k c b).length = blockThreads c.raw / 32 := by
  have hnums : blockThreads c.raw / 32 ≤ (s.freeGroups k).length := by
    simp only [State.roomFor, Bool.and_eq_true, decide_eq_true_eq] at hroom
    exact hroom.1.2
  simpa [State.blockGroupsAt] using hnums

theorem State.mem_blockGroupsAt {k b : Nat} {g : Group} (h : g ∈ s.blockGroupsAt k c b) :
    ∃ num inBlock, g = Group.entry num b inBlock (w64 (leAt c.raw 16 8)) := by
  obtain ⟨n, -, rfl⟩ := List.mem_map.mp h
  exact ⟨n.1, n.2, rfl⟩

theorem State.coreOf_placeBlock (s : State) (k : Nat) (c : Cmd) (b : Nat) :
    (s.placeBlock k c b).coreOf k = { s.coreOf k with
      groups := (s.coreOf k).groups ++ s.blockGroupsAt k c b
      blocks := (s.coreOf k).blocks ++ [⟨b, List.replicate 8 0, []⟩] } :=
  State.coreOf_of_cores rfl

theorem State.placeBlock_next (s : State) (k : Nat) (c : Cmd) (b : Nat) :
    (tget (s.placeBlock k c b).launches c.id).map (fun l => l.next) =
      ((tget s.launches c.id).map fun l => l.next).map (· + 1) := by
  change (tget (tmod s.launches c.id _) c.id).map _ = _
  rw [tget_tmod_same, Option.map_map, Option.map_map]
  rfl

/-! ### KERNEL_END (R90, R101, R112) -/

theorem State.cleanCore_evb (s : State) (k : Nat) : ((s.cleanCore k).coreOf k).evb = [] := by
  simp [State.cleanCore]

theorem State.cleanCore_l1_clean (s : State) (k : Nat) : ∀ l ∈ ((s.cleanCore k).coreOf k).l1, l.dirty = 0 := by
  simp +contextual [State.cleanCore]

/-- The end of a launch changes its command only. -/
theorem State.launchOver_eq (s : State) (id : Nat) (c : Cmd) : ∃ cs, s.launchOver id c = { s with cmds := cs } := by
  unfold State.launchOver
  split
  · split
    · exact ⟨_, rfl⟩
    · exact ⟨_, rfl⟩
  · exact ⟨_, rfl⟩

theorem State.launchOver_cores (s : State) (id : Nat) (c : Cmd) : (s.launchOver id c).cores = s.cores := by
  obtain ⟨cs, h⟩ := s.launchOver_eq id c
  rw [h]

theorem State.launchOver_resvs (s : State) (id : Nat) (c : Cmd) : (s.launchOver id c).resvs = s.resvs := by
  obtain ⟨cs, h⟩ := s.launchOver_eq id c
  rw [h]

/-- A core whose kernel has ended: its caches are clean, and the launch's groups and blocks are gone. -/
theorem kernelEnd_core {die core : Nat} {l : Launch} (hc : s.cmd id = some c) (hl : tget s.launches id = some l)
    (hlaunch : (s.coreOf (32 * die + core)).launch = some id)
    (hover : (s.coreOf (32 * die + core)).blocks = [] ∨ l.stopped = true) (hremote : s.coreRemotes (32 * die + core) = false) :
    (kernelEnd id die core s).coreOf (32 * die + core) =
        { (s.cleanCore (32 * die + core)).coreOf (32 * die + core) with
          launch := none, groups := [], blocks := [], fills := [], loads := [] } ∧
      ∀ r ∈ (kernelEnd id die core s).resvs, r.core ≠ 32 * die + core := by
  have hends : (decide ((s.coreOf (32 * die + core)).launch = some id) &&
      ((s.coreOf (32 * die + core)).blocks.isEmpty || l.stopped) && !(s.coreRemotes (32 * die + core))) = true := by
    simpa [hlaunch, hremote] using hover
  simp only [kernelEnd, hc, hl, hends, if_true]
  refine ⟨?_, fun r hr => ?_⟩
  · rw [State.coreOf_congr (State.launchOver_cores _ _ _)]
    exact State.coreOf_of_cores rfl
  · rw [State.launchOver_resvs] at hr
    have hkept := (List.mem_filter.mp hr).2
    simpa using hkept

/-! ### Parked groups, RESUME_GROUP and LC launches (R112, R113, R245) -/

theorem parkTimeout_eq_stopLaunch {block group k : Nat} {g : Group} {p : Parked} (hc : s.cmd id = some c)
    (hp : s.parkedGroup id block group = some (k, g, p)) (hlate : 1000 * parkLimit c.raw ≤ (s.time - p.since).toNat) :
    parkTimeout id block group s = s.stopLaunch id 0x0401 := by
  simp only [parkTimeout, hc, hp, hlate, if_true]

theorem launchOverrun_eq_stopLaunch {die core b e : Nat} {l : Launch} (hc : s.cmd id = some c) (hl : tget s.launches id = some l)
    (hdecl : ((tget s.ctxs c.ctx).bind fun x => tget x.decls (hOperator c.raw)) = some (b, e))
    (hlaunch : (s.coreOf (32 * die + core)).launch = some id) (hlc : s.isLc c = true) (hrun : l.stopped = false)
    (hlate : 1000 * b ≤ 2100 * (s.time - (s.coreOf (32 * die + core)).started).toNat) :
    launchOverrun id die core s = s.stopLaunch id 0x0406 := by
  simp only [launchOverrun, hc, hl, hdecl]
  exact if_pos ⟨hlaunch, hlc, by simp [hrun], hlate⟩

/-- RESUME_GROUP, ACTION 2: the launch is aborted. -/
theorem resumeGroupDo_abort {r : List Byte} {run : Cmd} {k : Nat} {g : Group} {p : Parked} (hr : s.resumed r = some (run, k, g, p))
    (ha : bits (leAt r 29 1) 1 0 = 2) :
    resumeGroupDo s r = (s.stopLaunch run.id (((tget s.launches run.id).map fun l => l.first).getD p.status), 0) := by
  simp [resumeGroupDo, hr, ha]

/-- ACTION 1, after a fault that came with a load's data: the load asks again for what it lacks. -/
theorem resumeGroupDo_late {r : List Byte} {run : Cmd} {k : Nat} {g : Group} {p : Parked} (hr : s.resumed r = some (run, k, g, p))
    (ha : bits (leAt r 29 1) 1 0 = 1) (hp : p.late = true) :
    resumeGroupDo s r = (((s.modGroup k g.num fun y => { y with parked := none }).askAgain k g.num run).landLoads k, 0) := by
  simp [resumeGroupDo, hr, ha, hp]

/-- ACTION 1: the faulting instruction runs again for the lanes of REMAIN. -/
theorem resumeGroupDo_again {r : List Byte} {run : Cmd} {k : Nat} {g : Group} {p : Parked} (hr : s.resumed r = some (run, k, g, p))
    (ha : bits (leAt r 29 1) 1 0 = 1) (hp : p.late = false) :
    resumeGroupDo s r = (s.modGroup k g.num fun y => { y with
      parked := none,
      paths := match y.paths with
        | q :: l => { q with only := some p.remain } :: l
        | [] => [] }, 0) := by
  have hstays : ¬ bits (leAt r 29 1) 1 0 = 2 := by omega
  have hearly : ¬ p.late = true := by simp [hp]
  simp only [resumeGroupDo, hr]
  exact (if_neg hstays).trans (if_neg hearly)

theorem execResumeGroup_eq {v : State} {st : Nat} (h : s.mayRun id 0x0302 t c) (hchecks : checkStatus (resumeGroupChecks t c.raw) = 0)
    (hdo : resumeGroupDo t c.raw = (v, st)) : exec (.resumeGroup id) s = .next (v.ended id st) := by
  have hbody : checkedBody resumeGroupChecks resumeGroupDo t c = (v, some st) := by rw [checkedBody_of_pass hchecks, hdo]
  exact congrArg Host.Outcome.next ((h.runCmd_eq _).trans (congrArg (bodyEnd id) hbody))

/-- Settles O31: what LAUNCH opens, where a block is placed, what a kernel's end leaves, and how parked and late launches go on or
stop. -/
theorem launchesComplete : Obligations.LaunchesComplete := by
  refine ⟨fun s id cores s0 c s1 args hheld h hnew hchecks hlost hcores hargs => ?launch,
    fun s id die core c l hc hl hrun hnext hcore hheld htile hhalt hfree hroom hid => ?block,
    fun s id die core c l hc hl hlaunch hover hremote => ?kernel,
    fun s id block group c k g p hc hp hlate => congrArg Host.Outcome.next (parkTimeout_eq_stopLaunch hc hp hlate),
    fun s id die core c l b e hc hl hdecl hlaunch hlc hrun hlate =>
      congrArg Host.Outcome.next (launchOverrun_eq_stopLaunch hc hl hdecl hlaunch hlc hrun hlate),
    fun s id s0 c run k g p h hchecks hr =>
      ⟨fun ha hp => execResumeGroup_eq h hchecks (resumeGroupDo_again hr ha hp),
        fun ha hp => execResumeGroup_eq h hchecks (resumeGroupDo_late hr ha hp),
        fun ha => execResumeGroup_eq h hchecks (resumeGroupDo_abort hr ha)⟩⟩
  case launch =>
    refine ⟨⟨c.id, 0, 0, s0.usedCores cores c, [], args, 0, 0, 0, false, 0⟩, congrArg Host.Outcome.next ?_, rfl, rfl, rfl, rfl, rfl,
      s0.mem_usedCores cores c⟩
    rw [State.runTiled_eq_runCmd hheld, h.runCmd_eq, launchBody_opens hnew hchecks hlost hcores hargs]
    rfl
  case block =>
    subst hid
    have hready := State.kernelReady_of_free hfree
    refine ⟨_, congrArg Host.Outcome.next (blockStart_eq_placeBlock hc hl hrun hnext hcore hheld htile hhalt hfree hroom), ?_⟩
    generalize (if (s.coreOf (32 * die + core)).launch.isNone then s.kernelStart (32 * die + core) c else s) = v at hready ⊢
    rw [State.coreOf_placeBlock]
    have hlen : (v.blockGroupsAt (32 * die + core) c l.next).length = blockThreads c.raw / 32 := by
      rw [State.blockGroupsAt, hready.freeGroups]
      exact State.blockGroupsAt_length hroom l.next
    refine ⟨hready.launch, by rw [hready.blocks], ⟨_, by rw [hready.groups], hlen, fun g hg => ?_⟩, ?_⟩
    · obtain ⟨num, inBlock, rfl⟩ := State.mem_blockGroupsAt hg
      exact ⟨rfl, rfl, rfl, rfl, rfl⟩
    · rw [State.placeBlock_next, hready.next, hl]
      rfl
  case kernel =>
    obtain ⟨hcoreOf, hresvs⟩ := kernelEnd_core hc hl hlaunch hover hremote
    refine ⟨kernelEnd id die core s, rfl, ?_⟩
    rw [hcoreOf]
    exact ⟨rfl, rfl, State.cleanCore_evb _ _, State.cleanCore_l1_clean _ _, hresvs⟩

end Sys2Proof.Machine
end

section
/-! Fields of registers under the writes of other fields, and what the posting of an event and the fault log may write (07.6, 13.1). -/

namespace Sys2Proof.Machine

variable {s t : State} {f : Fld}

/-! ### Writes of other fields -/

/-- A write of `g` leaves `f` as it is: another register, or other bits of the same one. -/
def Fld.apart (f g : Fld) : Bool :=
  decide (f.reg ≠ g.reg) || decide (g.lo ≤ g.hi) && decide (f.hi < 64) && (decide (g.hi < f.lo) || decide (f.hi < g.lo))

theorem Fld.apart_iff (f g : Fld) :
    f.apart g = true ↔ f.reg ≠ g.reg ∨ (g.lo ≤ g.hi ∧ f.hi < 64) ∧ (g.hi < f.lo ∨ f.hi < g.lo) := by
  simp [Fld.apart]

/-- A write of a register leaves the others of the same number. -/
theorem State.reg_setReg_other (s : State) {r r' : Reg} (i v : Nat) (h : r' ≠ r) : (s.setReg r i v).reg r' i = s.reg r' i := by
  have hidx : r'.ctorIdx ≠ r.ctorIdx := mt Reg.ctorIdx_inj h
  exact s.reg_of_key_ne r r' i i v (by unfold regKey; omega)

theorem State.fld_of_reg {i : Nat} (h : t.reg f.reg i = s.reg f.reg i) : t.fld f i = s.fld f i := by
  rw [State.fld, h, State.fld]

theorem State.fld_setReg_other (s : State) {r : Reg} (i v : Nat) (h : f.reg ≠ r) : (s.setReg r i v).fld f i = s.fld f i :=
  State.fld_of_reg (s.reg_setReg_other i v h)

theorem State.fld_setFld_apart (s : State) {g : Fld} (i v : Nat) (h : f.apart g = true) : (s.setFld g i v).fld f i = s.fld f i := by
  by_cases hr : f.reg = g.reg
  · obtain hne | ⟨⟨hg, h64⟩, hd⟩ := (f.apart_iff g).mp h
    · exact absurd hr hne
    · exact s.fld_setFld_disj g f i v hr hg h64 hd
  · exact s.fld_setReg_other i _ hr

/-- A field that was counted up holds its sum, saturated at its width. -/
theorem State.fld_incFld_same (s : State) (f : Fld) (i n : Nat) (h : f.lo ≤ f.hi) (h64 : f.hi < 64) :
    (s.incFld f i n).fld f i = sat (f.hi + 1 - f.lo) (s.fld f i + n) := by
  have hfits : sat (f.hi + 1 - f.lo) (s.fld f i + n) < 2 ^ (f.hi + 1 - f.lo) := by
    have := Nat.two_pow_pos (f.hi + 1 - f.lo)
    unfold sat
    omega
  rw [State.incFld, State.fld_setFld_same _ _ _ _ h h64, Nat.mod_eq_of_lt hfits]

/-! ### Fields that keep their values -/

/-- The field reads in `t` as it does in `s`, in every unit. -/
def State.FldKept (f : Fld) (s t : State) : Prop := ∀ n, n < 65536 → t.fld f n = s.fld f n

theorem State.FldKept.refl (f : Fld) (s : State) : s.FldKept f s := fun _ _ => rfl

/-- A change of other parts of the state. -/
theorem State.FldKept.of_regs {u : State} (hk : s.FldKept f t) (h : u.regs = t.regs := by rfl) : s.FldKept f u :=
  fun n hn => (State.fld_of_reg (State.reg_congr h f.reg n)).trans (hk n hn)

theorem State.FldKept.setReg (hk : s.FldKept f t) {r : Reg} {j v : Nat} (hr : f.reg ≠ r) (hj : j < 65536) :
    s.FldKept f (t.setReg r j v) := fun n hn =>
  (State.fld_of_reg (t.reg_setReg_ne _ _ _ _ _ (mt Reg.ctorIdx_inj hr) hj hn)).trans (hk n hn)

theorem State.FldKept.setFld (hk : s.FldKept f t) {g : Fld} {j v : Nat} (h : f.apart g = true) (hj : j < 65536) :
    s.FldKept f (t.setFld g j v) := by
  by_cases hr : f.reg = g.reg
  · intro n hn
    by_cases hi : n = j
    · subst hi
      exact (t.fld_setFld_apart n v h).trans (hk n hn)
    · exact (t.fld_setFld_idx g f j n v hr hi).trans (hk n hn)
  · exact hk.setReg hr hj

theorem State.FldKept.incFld (hk : s.FldKept f t) {g : Fld} {j n : Nat} (h : f.apart g = true) (hj : j < 65536) :
    s.FldKept f (t.incFld g j n) := hk.setFld h hj

/-- For the state that a pattern `(u, b)` names. -/
theorem State.FldKept.of_fst {β : Type} {x : State × β} {u : State} {b : β} (hk : s.FldKept f x.1) (e : x = (u, b)) :
    s.FldKept f u := by
  subst e
  exact hk

/-! ### Posting an event (R230 to R232) -/

/-- The wake of a stack's interface (R28) leaves the field as it is. -/
def Fld.unwoken (f : Fld) : Bool := decide (f.reg ≠ .PWR_DOMAIN_ON) && f.apart .HBM_STK_STATUS_SELF_REFRESH

theorem State.FldKept.wakeHbm (hk : s.FldKept f t) (hf : f.unwoken = true) (a : Nat) : s.FldKept f (t.wakeHbm a) := by
  obtain ⟨hdom, hself⟩ : f.reg ≠ .PWR_DOMAIN_ON ∧ f.apart .HBM_STK_STATUS_SELF_REFRESH = true := by simpa [Fld.unwoken] using hf
  have hstack := t.hbmLoc_fst_lt a
  unfold State.wakeHbm
  dsimp only
  split
  · exact hk
  · exact (hk.setReg hdom (by omega)).setFld hself (by omega)

theorem State.skeinCloseLine_regs (s : State) (line : Nat) : (s.skeinCloseLine line).regs = s.regs := by
  unfold State.skeinCloseLine
  split <;> rfl

/-- A write of memory writes registers by a wake only; register space is not written here. -/
theorem State.FldKept.pwrite (hk : s.FldKept f t) (hf : f.unwoken = true) (k a : Nat) (b : List Byte) :
    s.FldKept f (t.pwrite k a b).1 := by
  unfold State.pwrite
  split
  case h_1 =>
    dsimp only
    split
    · exact hk.wakeHbm hf a
    · exact (hk.wakeHbm hf a).of_regs (State.skeinCloseLine_regs _ _)
  case h_2 =>
    dsimp only
    split
    · exact hk.of_regs
    · exact hk.of_regs
  all_goals exact hk.of_regs

theorem State.FldKept.writePhys (hk : s.FldKept f t) (hf : f.unwoken = true) (w : Who) (slot a : Nat) (b : List Byte) :
    s.FldKept f (t.writePhys w slot a b).1 := by
  unfold State.writePhys
  refine List.foldlRecOn (motive := fun x : State × Bool => s.FldKept f x.1) _ _ hk fun x hx c _ => ?_
  dsimp only
  split
  · split
    · exact hx
    · exact hx.pwrite hf _ _ _
  · exact hx

theorem State.sendMsix_regs (s : State) (n v : Nat) : (s.sendMsix n v).regs = s.regs := by
  obtain h | h | h := s.sendMsix_cases n v
  · rw [h]
  · rw [h]
  · rw [h, State.emit_regs]

theorem State.interrupt_regs (s : State) (q : Nat) : (s.interrupt q).regs = s.regs := by
  unfold State.interrupt
  split
  · rfl
  · exact State.sendMsix_regs _ _ _

theorem State.noteEntry_regs (s : State) (q : Nat) : (s.noteEntry q).regs = s.regs := by
  unfold State.noteEntry
  split
  · rfl
  · split
    · dsimp only
      split
      · exact State.interrupt_regs _ _
      · rfl
    · rfl

theorem State.FldKept.ringPut (hk : s.FldKept f t) (hf : f.unwoken = true) (q : Nat) (entry : List Byte) :
    s.FldKept f (t.ringPut q entry).1 := by
  unfold State.ringPut
  split
  · exact hk
  · rename_i x _
    have hput := hk.writePhys hf t.hubWho x.key (x.slotAddr x.tail) entry
    split <;> rename_i e
    · exact (hput.of_fst e).of_regs
    · exact hput.of_fst e

theorem State.FldKept.putEvent (hk : s.FldKept f t) (hf : f.unwoken = true) (q code info : Nat) :
    s.FldKept f (t.putEvent q code info).1 := by
  unfold State.putEvent
  split
  · exact hk
  · rename_i x _
    split
    · exact hk
    · split
      · exact hk.of_regs
      · have hput := hk.ringPut hf q (eventEntry code info (phaseBit x.tail.toNat x.k) (b2n x.evtLost) t.time)
        split <;> rename_i e
        · exact (hput.of_fst e).of_regs (State.noteEntry_regs _ _)
        · exact (hput.of_fst e).of_regs

theorem State.FldKept.postEvent (hk : s.FldKept f t) (hf : f.unwoken = true) (q code info : Nat) :
    s.FldKept f (t.postEvent q code info) := by
  have hput := hk.putEvent hf q code info
  unfold State.postEvent
  split <;> rename_i e
  · exact hput.of_fst e
  · split
    · exact hput.of_fst e
    · exact (hput.of_fst e).putEvent hf _ _ _

theorem State.FldKept.postMgr (hk : s.FldKept f t) (hf : f.unwoken = true) (code info : Nat) : s.FldKept f (t.postMgr code info) :=
  hk.postEvent hf _ _ _

/-- R417: an entry of the fault log writes `OVERRUN`, and posts an event. -/
theorem State.FldKept.logFault (hk : s.FldKept f t) (hf : f.unwoken = true) (ho : f.apart .HUB_FLT_STATUS_OVERRUN = true)
    (cls detail status owner : Nat) (ctx : Option Nat) (tag addr : Nat) :
    s.FldKept f (t.logFault cls detail status owner ctx tag addr) := by
  have hadd : s.FldKept f (t.addFault cls detail status owner ctx tag addr) := by
    unfold State.addFault
    dsimp only
    split
    · exact hk.of_regs.incFld ho (by decide)
    · exact hk.of_regs
  unfold State.logFault
  dsimp only
  split
  · exact hadd.postMgr hf _ _
  · exact hadd

end Sys2Proof.Machine
end

section
/-! HBM controllers, row repairs and the swatch engine (04.2, 04.4, 04.7). -/

namespace Sys2Proof.Machine

variable {s t : State} {h : Nat}

/-! ### Stacks -/

@[simp] theorem State.stack_setStack_same (s : State) (h : Nat) (x : Stack) : (s.setStack h x).stack h = x := by
  simp [State.stack]

@[simp] theorem State.stack_setFld (s : State) (f : Fld) (i v h : Nat) : (s.setFld f i v).stack h = s.stack h := rfl
@[simp] theorem State.stack_incFld (s : State) (f : Fld) (i n h : Nat) : (s.incFld f i n).stack h = s.stack h := rfl
@[simp] theorem State.bankSpareLeft_incFld (s : State) (f : Fld) (i n h pc bank : Nat) :
    (s.incFld f i n).bankSpareLeft h pc bank = s.bankSpareLeft h pc bank := rfl
@[simp] theorem State.fld_setStack (s : State) (h : Nat) (x : Stack) (f : Fld) (i : Nat) : (s.setStack h x).fld f i = s.fld f i := rfl

theorem State.stackLive_iff (s : State) (h : Nat) :
    s.stackLive h = true ↔ (h < 16 ∧ s.fld .HBM_TRAIN_RESULT_PASS h = 1) ∧ s.fld .HBM_STK_STATUS_OUT_OF_SERVICE h = 0 := by
  simp [State.stackLive]

theorem State.stackLive_lt (hl : s.stackLive h = true) : h < 16 := ((s.stackLive_iff h).mp hl).1.1

/-! ### Row repairs (R145 to R147, R153) -/

/-- A change of a stack's records and of its `HBM_REPAIR_STATUS`. -/
structure State.RepairOnly (h : Nat) (s t : State) : Prop where
  mem : t.mem = s.mem
  reg : ∀ r, r ≠ .HBM_REPAIR_STATUS → t.reg r h = s.reg r h

namespace State.RepairOnly

theorem refl (h : Nat) (s : State) : RepairOnly h s s := ⟨rfl, fun _ _ => rfl⟩

theorem setStack (hk : RepairOnly h s t) {x : Stack} : RepairOnly h s (t.setStack h x) := ⟨hk.mem, hk.reg⟩

theorem setFld (hk : RepairOnly h s t) {f : Fld} {v : Nat} (hf : f.reg = .HBM_REPAIR_STATUS := by rfl) :
    RepairOnly h s (t.setFld f h v) :=
  ⟨hk.mem, fun r hr => (t.reg_setReg_other h _ (hf ▸ hr)).trans (hk.reg r hr)⟩

theorem useSpare (hk : RepairOnly h s t) {pc bank : Nat} : RepairOnly h s (t.useSpare h pc bank) := hk.setStack.setFld.setFld

theorem softPpr (hk : RepairOnly h s t) {pc bank row cause : Nat} : RepairOnly h s (t.softPpr h pc bank row cause) := by
  unfold State.softPpr
  split
  · exact hk.setFld
  · exact hk.useSpare.setStack.setFld.setFld

theorem hardAdd (hk : RepairOnly h s t) {pc bank row cause : Nat} : RepairOnly h s (t.hardAdd h pc bank row cause) := by
  unfold State.hardAdd
  dsimp only
  split
  · exact hk.setFld
  · split
    · exact hk.setFld
    · split
      · exact hk.setFld
      · exact hk.setStack.setFld.setFld

theorem hardRemove (hk : RepairOnly h s t) {pc bank row : Nat} : RepairOnly h s (t.hardRemove h pc bank row) :=
  hk.setStack.setFld.setFld

theorem autoRepair (hk : RepairOnly h s t) {pc bank row cause : Nat} : RepairOnly h s (t.autoRepair h pc bank row cause) := by
  unfold State.autoRepair
  split
  · exact hk.softPpr.hardAdd
  · exact hk

end State.RepairOnly

theorem State.stack_useSpare (s : State) (h pc bank : Nat) :
    (s.useSpare h pc bank).stack h =
      { s.stack h with spareUsed := tupd (s.stack h).spareUsed (bankKey pc bank) 0 (· + 1) } := by
  simp only [State.useSpare, State.stack_setFld, State.stack_setStack_same]

theorem State.bankSpareLeft_useSpare (s : State) (h pc bank : Nat) :
    (s.useSpare h pc bank).bankSpareLeft h pc bank = s.bankSpareLeft h pc bank - 1 := by
  rw [State.bankSpareLeft, State.stack_useSpare, tupd, tgetD_tput_same, State.bankSpareLeft, Nat.sub_sub]
  rfl

/-- The result of a repair is what was reported last. -/
theorem State.fld_repairResult (s : State) (h : Nat) {r : Nat} (hr : r < 16) :
    (s.repairResult h r).fld .HBM_REPAIR_STATUS_LAST_RESULT h = r := by
  rw [State.repairResult, State.fld_setFld_same _ _ _ _ (by decide) (by decide)]
  exact Nat.mod_eq_of_lt hr

@[simp] theorem State.stack_repairResult (s : State) (h r h' : Nat) : (s.repairResult h r).stack h' = s.stack h' := rfl
@[simp] theorem State.bankSpareLeft_repairResult (s : State) (h r h' pc bank : Nat) :
    (s.repairResult h r).bankSpareLeft h' pc bank = s.bankSpareLeft h' pc bank := rfl

/-- An entry in the repair log takes no spare row. -/
theorem State.bankSpareLeft_logRepair (s : State) (h pc bank : Nat) (r : Repair) :
    (s.setStack h ((s.stack h).logRepair r)).bankSpareLeft h pc bank = s.bankSpareLeft h pc bank := by
  rw [State.bankSpareLeft, State.stack_setStack_same, State.bankSpareLeft]
  rfl

/-- R145: with a spare row left, a soft repair takes one, enters the log and reports success. -/
theorem State.softPpr_of_spare {pc bank : Nat} (row cause : Nat) (hs : s.bankSpareLeft h pc bank ≠ 0) :
    s.softPpr h pc bank row cause =
      (((s.useSpare h pc bank).setStack h (((s.useSpare h pc bank).stack h).logRepair ⟨1, cause, pc, bank, row, s.boots⟩)).incFld
        .HBM_REPAIR_STATUS_SOFT_DONE h 1).repairResult h 0 := by
  rw [State.softPpr, if_neg hs]
  rfl

theorem State.repairs_softPpr {pc bank : Nat} (row cause : Nat) (hs : s.bankSpareLeft h pc bank ≠ 0) :
    ((s.softPpr h pc bank row cause).stack h).repairs = (⟨1, cause, pc, bank, row, s.boots⟩ :: (s.stack h).repairs).take 512 := by
  rw [State.softPpr_of_spare row cause hs, State.stack_repairResult, State.stack_incFld, State.stack_setStack_same,
    State.stack_useSpare, Stack.logRepair]

theorem State.bankSpareLeft_softPpr {pc bank : Nat} (row cause : Nat) (hs : s.bankSpareLeft h pc bank ≠ 0) :
    (s.softPpr h pc bank row cause).bankSpareLeft h pc bank = s.bankSpareLeft h pc bank - 1 := by
  rw [State.softPpr_of_spare row cause hs, State.bankSpareLeft_repairResult, State.bankSpareLeft_incFld,
    State.bankSpareLeft_logRepair, State.bankSpareLeft_useSpare]

/-- R146: with a spare row left and room in the list, a new row joins the pending list. -/
theorem State.pendingHard_hardAdd {pc bank row : Nat} (cause : Nat) (hs : s.bankSpareLeft h pc bank ≠ 0)
    (hnew : (s.stack h).pendingHard.contains (pc, bank, row) = false) (hroom : (s.stack h).pendingHard.length < 32) :
    ((s.hardAdd h pc bank row cause).stack h).pendingHard = (s.stack h).pendingHard ++ [(pc, bank, row)] := by
  simp only [State.hardAdd, hs, hnew, Nat.not_le.mpr hroom, if_false, Bool.false_eq_true, State.stack_repairResult,
    State.stack_setFld, State.stack_setStack_same, Stack.logRepair]

theorem State.pendingHard_hardRemove (s : State) (h pc bank row : Nat) :
    ((s.hardRemove h pc bank row).stack h).pendingHard =
      (s.stack h).pendingHard.filter fun e => !(decide (e = (pc, bank, row))) := by
  simp only [State.hardRemove, State.stack_repairResult, State.stack_setFld, State.stack_setStack_same]

/-- R149: a repair command outside test mode is performed. -/
theorem State.repairCmd_of_not_test (s : State) (hm : s.fld .HBM_G_CTL_TEST_MODE 0 = 0) (h pc bank row : Nat) :
    s.repairCmd h 1 pc bank row = s.softPpr h pc bank row 0 ∧ s.repairCmd h 2 pc bank row = s.hardAdd h pc bank row 0 ∧
      s.repairCmd h 3 pc bank row = s.hardRemove h pc bank row := by
  simp [State.repairCmd, hm]

/-! ### The swatch engine (R149, R153) -/

/-- R149: a free engine of a stack in service starts a read-only run. -/
theorem swStart_of_readOnly (hl : s.stackLive h = true) (hb : s.fld .HBM_STK_STATUS_SW_BUSY h = 0)
    (hop : s.fld .HBM_SW_CTL_OP h = 4) : swStart s h = (s.setReg .HBM_SW_RESULT h 0).setFld .HBM_STK_STATUS_SW_BUSY h 1 := by
  simp [swStart, hl, hb, hop]

/-- The end of a run: the engine is free, and the result is there. -/
def State.swEnded (s : State) (h : Nat) : State := (s.setFld .HBM_STK_STATUS_SW_BUSY h 0).setFld .HBM_SW_RESULT_DONE h 1

/-- What a run reports of the failures it found. -/
def State.swFailures (s : State) (h n first : Nat) : State :=
  ((s.setFld .HBM_SW_RESULT_FAIL h 1).setFld .HBM_SW_RESULT_FAIL_COUNT h (sat 26 n)).setFld .HBM_SW_RESULT_FIRST_FAIL h first

/-- R149, R153: a read-only run ends, with a report where it found failures. -/
theorem swDone_of_readOnly (hb : s.fld .HBM_STK_STATUS_SW_BUSY h = 1) (hop : s.fld .HBM_SW_CTL_OP h = 4) :
    ∃ t : State, t.mem = s.mem ∧ (swDone s h = t.swEnded h ∨ ∃ n first, swDone s h = (t.swEnded h).swFailures h n first) := by
  refine ⟨{ s with free := s.free + 1 + 1 }, rfl, ?_⟩
  unfold swDone
  rw [if_pos hb]
  simp only [hop, if_true]
  split
  · exact .inl rfl
  · exact .inr ⟨_, _, rfl⟩

theorem State.swEnded_fields (s : State) (h : Nat) :
    (s.swEnded h).fld .HBM_STK_STATUS_SW_BUSY h = 0 ∧ (s.swEnded h).fld .HBM_SW_RESULT_DONE h = 1 := by
  constructor
  · rw [State.swEnded, State.fld_setFld_apart _ _ _ (by decide), State.fld_setFld_same _ _ _ _ (by decide) (by decide)]
    rfl
  · rw [State.swEnded, State.fld_setFld_same _ _ _ _ (by decide) (by decide)]
    rfl

theorem State.fld_swFailures (s : State) (h n first : Nat) {f : Fld} (hfail : f.apart .HBM_SW_RESULT_FAIL = true)
    (hcount : f.apart .HBM_SW_RESULT_FAIL_COUNT = true) (hfirst : f.apart .HBM_SW_RESULT_FIRST_FAIL = true) :
    (s.swFailures h n first).fld f h = s.fld f h := by
  rw [State.swFailures, State.fld_setFld_apart _ _ _ hfirst, State.fld_setFld_apart _ _ _ hcount,
    State.fld_setFld_apart _ _ _ hfail]

theorem swDone_outcome (hb : s.fld .HBM_STK_STATUS_SW_BUSY h = 1) (hop : s.fld .HBM_SW_CTL_OP h = 4) :
    (swDone s h).fld .HBM_STK_STATUS_SW_BUSY h = 0 ∧ (swDone s h).fld .HBM_SW_RESULT_DONE h = 1 ∧ (swDone s h).mem = s.mem := by
  obtain ⟨t, hm, hend⟩ := swDone_of_readOnly hb hop
  obtain ⟨hbusy, hdone⟩ := t.swEnded_fields h
  obtain he | ⟨n, first, he⟩ := hend
  · rw [he]
    exact ⟨hbusy, hdone, hm⟩
  · rw [he, State.fld_swFailures _ _ _ _ (by decide) (by decide) (by decide),
      State.fld_swFailures _ _ _ _ (by decide) (by decide) (by decide)]
    exact ⟨hbusy, hdone, hm⟩

/-- Settles O21: each repair command is the repair that it names, and a read-only run of the swatch engine writes registers only. -/
theorem repairAndSwatch : Obligations.RepairAndSwatch := by
  refine ⟨fun s h pc bank row hm => ?repairs, fun s h hl hb hop => ?start, fun s h hb hop => ?done⟩
  case repairs =>
    obtain ⟨hsoft, hadd, hremove⟩ := s.repairCmd_of_not_test hm h pc bank row
    refine ⟨fun hs => ⟨_, congrArg Host.Outcome.next hsoft, s.bankSpareLeft_softPpr row 0 hs, s.repairs_softPpr row 0 hs, ?_,
        (State.RepairOnly.refl h s).softPpr.mem⟩,
      fun hs => congrArg Host.Outcome.next (hsoft.trans (if_pos hs)),
      fun hs hnew hroom => ⟨_, congrArg Host.Outcome.next hadd, s.pendingHard_hardAdd 0 hs hnew hroom,
        (State.RepairOnly.refl h s).hardAdd.mem⟩,
      _, congrArg Host.Outcome.next hremove, ?_, (State.RepairOnly.refl h s).hardRemove.mem⟩
    · rw [State.softPpr_of_spare row 0 hs]
      exact State.fld_repairResult _ _ (by decide)
    · rw [State.pendingHard_hardRemove]
      simp
  case start =>
    refine ⟨_, congrArg Host.Outcome.next (swStart_of_readOnly hl hb hop), ?_, rfl⟩
    rw [State.fld_setFld_same _ _ _ _ (by decide) (by decide)]
    rfl
  case done =>
    exact ⟨⟨_, rfl, swDone_outcome hb hop⟩, ⟨_, rfl, swDone_outcome hb hop⟩⟩

/-! ### Patrol reads (R129, R131) -/

theorem Memory.poisoned_poison_same (m : Memory) (k a : Nat) : (m.poison k a).poisoned a = true := by
  unfold Memory.poison
  split <;> simp [Memory.poisoned]

/-- A counted event leaves the registers that do not count. -/
theorem State.reg_bump_stack (s : State) (h i : Nat) (hh : h < 16) (hi : i < 16) {r : Reg} (hr : r ∉ issueRegs) {n : Nat}
    (hn : n < 65536) : (s.bump (unitStack h) i 1 none).reg r n = s.reg r n :=
  (State.RegsKept.refl s).bump (by unfold unitStack; omega) hi r n hn hr

theorem State.bump_mem (s : State) (v i n : Nat) (a : Option Attr) : (s.bump v i n a).mem = s.mem := by
  obtain ⟨rs, hb⟩ := s.bump_eq v i n a
  rw [hb]

theorem State.bump_cfg (s : State) (v i n : Nat) (a : Option Attr) : (s.bump v i n a).cfg = s.cfg := by
  obtain ⟨rs, hb⟩ := s.bump_eq v i n a
  rw [hb]
  rfl

/-- R126: where a stack-local address lies depends on the frames' modes. -/
theorem State.paOfStack_congr (hreg : t.reg .HBM_G_STATUS 0 = s.reg .HBM_G_STATUS 0) (hcfg : t.cfg = s.cfg) (h la : Nat) :
    t.paOfStack h la = s.paOfStack h la := by
  have hquad : t.fld .HBM_G_STATUS_QUAD_ONLY 0 = s.fld .HBM_G_STATUS_QUAD_ONLY 0 := State.fld_of_reg hreg
  simp only [State.paOfStack, State.quadLocal, hquad, hcfg]

/-- What a patrol read does before its outcome: at sector 0 the rows' counts start again, and the read is counted. -/
def State.patrolBegun (s : State) (h n : Nat) : State :=
  ((if n = 0 then s.setStack h { s.stack h with ceRows := [] } else s).setFld .HBM_STK_STATUS_SCRUB_ACTIVE h
    (b2n (decide (n + 1 < 2 ^ 31)))).bump (unitStack h) 11 1 none

theorem patrolScrub_of_live {n : Nat} (pc bank row : Nat) (e : EccEvent) (hl : s.stackLive h = true)
    (hp : s.fld .HBM_G_CTL_SCRUB_PERIOD 0 ≠ 0) (hn : n < 2 ^ 31) :
    patrolScrub h n pc bank row e s = (s.patrolBegun h n).sectorEvent h (32 * n) pc bank row true e := by
  rw [patrolScrub, if_pos (by rw [hl, decide_eq_true (Nat.pos_of_ne_zero hp), decide_eq_true hn]; rfl), State.patrolBegun]

theorem State.patrolBegun_frame (s : State) (hh : h < 16) (n : Nat) :
    (s.patrolBegun h n).mem = s.mem ∧ (s.patrolBegun h n).cfg = s.cfg ∧
      ∀ r i, i < 65536 → r ∉ issueRegs → (s.patrolBegun h n).reg r i = s.reg r i := by
  unfold State.patrolBegun
  generalize hu : (if n = 0 then s.setStack h { s.stack h with ceRows := [] } else s) = u
  have hframe : u.mem = s.mem ∧ u.cfg = s.cfg ∧ u.regs = s.regs := by
    subst hu
    split
    · exact ⟨rfl, rfl, rfl⟩
    · exact ⟨rfl, rfl, rfl⟩
  obtain ⟨hmem, hcfg, hregs⟩ := hframe
  have hkept : s.RegsKept (u.setFld .HBM_STK_STATUS_SCRUB_ACTIVE h (b2n (decide (n + 1 < 2 ^ 31)))) :=
    ((State.RegsKept.refl s).of_regs hregs).setFld (by decide) (by omega)
  exact ⟨(State.bump_mem ..).trans hmem, (State.bump_cfg ..).trans hcfg, hkept.bump (by unfold unitStack; omega) (by decide)⟩

/-- R129: a clean read changes no byte. -/
theorem State.sectorEvent_clean_mem (s : State) (h la pc bank row : Nat) (patrol : Bool) :
    (s.sectorEvent h la pc bank row patrol .clean).mem = s.mem := by
  unfold State.sectorEvent
  dsimp only
  split
  · rfl
  · rfl

/-- A corrected error is entered in the log and counted. -/
def State.ceCounted (s : State) (h : Nat) (logged : Stack) : State :=
  ((s.setStack h logged).incFld .HBM_ECC_COUNT_CORRECTED h 1).bump (unitStack h) 8 1 none

/-- R147: a corrected read then counts against its row, and calls for a repair at the threshold. -/
theorem State.sectorEvent_corrected_cases (s : State) (h la pc bank row : Nat) (patrol : Bool) :
    ∃ logged x,
      s.sectorEvent h la pc bank row patrol .corrected = ((s.ceCounted h logged).setStack h x).autoRepair h pc bank row 2 ∨
        s.sectorEvent h la pc bank row patrol .corrected = (s.ceCounted h logged).setStack h x :=
  ⟨_, _, ite_eq_or_eq _ _ _⟩

theorem State.ceCounted_mem (s : State) (h : Nat) (logged : Stack) : (s.ceCounted h logged).mem = s.mem := State.bump_mem ..

theorem State.fld_ceCounted (s : State) (hh : h < 16) (logged : Stack) :
    (s.ceCounted h logged).fld .HBM_ECC_COUNT_CORRECTED h =
      sat (Fld.HBM_ECC_COUNT_CORRECTED.hi + 1 - Fld.HBM_ECC_COUNT_CORRECTED.lo) (s.fld .HBM_ECC_COUNT_CORRECTED h + 1) := by
  rw [State.ceCounted, State.fld_of_reg (State.reg_bump_stack _ h 8 hh (by decide) (by decide) (by omega)),
    State.fld_incFld_same _ _ _ _ (by decide) (by decide), State.fld_setStack]

/-- R129: a corrected read changes no byte and is counted, whether or not it calls for a repair. -/
theorem State.sectorEvent_corrected (s : State) (hh : h < 16) (la pc bank row : Nat) (patrol : Bool) :
    (s.sectorEvent h la pc bank row patrol .corrected).mem = s.mem ∧
      (s.sectorEvent h la pc bank row patrol .corrected).fld .HBM_ECC_COUNT_CORRECTED h =
        sat (Fld.HBM_ECC_COUNT_CORRECTED.hi + 1 - Fld.HBM_ECC_COUNT_CORRECTED.lo) (s.fld .HBM_ECC_COUNT_CORRECTED h + 1) := by
  obtain ⟨logged, x, hcases⟩ := s.sectorEvent_corrected_cases h la pc bank row patrol
  have hrepair : RepairOnly h (s.ceCounted h logged) (s.sectorEvent h la pc bank row patrol .corrected) := by
    obtain hauto | hplain := hcases
    · exact hauto ▸ (RepairOnly.refl h _).setStack.autoRepair
    · exact hplain ▸ (RepairOnly.refl h _).setStack
  exact ⟨hrepair.mem.trans (s.ceCounted_mem h logged),
    (State.fld_of_reg (hrepair.reg _ (by decide))).trans (s.fld_ceCounted hh logged)⟩

/-- R129: an uncorrectable read leaves the sector poisoned, and a repair (R147) does not clear it. -/
theorem State.sectorEvent_uncorrectable_poisoned (s : State) (h la pc bank row : Nat) (patrol : Bool) :
    (s.sectorEvent h la pc bank row patrol .uncorrectable).mem.poisoned (s.paOfStack h la) = true := by
  unfold State.sectorEvent
  dsimp only
  rw [(RepairOnly.refl h _).autoRepair.mem, State.bump_mem]
  exact Memory.poisoned_poison_same _ _ _

/-! ### A stack leaves service (R124) -/

/-- What follows the loss of a stack, an entry of the fault log and an event, does not bring it back. -/
theorem State.stackOut_outOfService (hl : s.stackLive h = true) : (s.stackOut h).fld .HBM_STK_STATUS_OUT_OF_SERVICE h = 1 := by
  have hh := State.stackLive_lt hl
  have hout : (s.setFld .HBM_STK_STATUS_OUT_OF_SERVICE h 1).fld .HBM_STK_STATUS_OUT_OF_SERVICE h = 1 := by
    rw [State.fld_setFld_same _ _ _ _ (by decide) (by decide)]
    rfl
  rw [State.stackOut, if_pos hl]
  exact Eq.trans ((((State.FldKept.refl .HBM_STK_STATUS_OUT_OF_SERVICE _).setFld (g := .HBM_G_STATUS_IN_SERVICE) (j := 0) (by decide)
    (by decide)).logFault (by decide) (by decide) _ _ _ _ _ _ _).postMgr (by decide) _ _ h (by omega)) hout

/-- Settles O19: a refresh and a re-centring are counted, a patrol read does what its outcome says, and a lost stack stays out. -/
theorem hbmEvents : Obligations.HbmEvents := by
  refine ⟨fun s h pc a r hl hd => ?refresh, fun s h pc hl => congrArg Host.Outcome.next (if_pos hl),
    fun s h n pc bank row hl hp hn => ?patrol, fun s h hl => ?lost⟩
  case refresh =>
    exact congrArg Host.Outcome.next (if_pos (by rw [hl, hd]; rfl))
  case patrol =>
    have hh := State.stackLive_lt hl
    obtain ⟨hmem, hcfg, hreg⟩ := s.patrolBegun_frame hh n
    have hexec e := congrArg (Host.Outcome.next (φ := Fault) (ρ := Refusal)) (patrolScrub_of_live pc bank row e hl hp hn)
    have hcount : (s.patrolBegun h n).fld .HBM_ECC_COUNT_CORRECTED h = s.fld .HBM_ECC_COUNT_CORRECTED h :=
      State.fld_of_reg (hreg _ _ (by omega) (by decide))
    obtain ⟨hcmem, hccount⟩ := (s.patrolBegun h n).sectorEvent_corrected hh (32 * n) pc bank row true
    refine ⟨⟨_, hexec .clean, (State.sectorEvent_clean_mem ..).trans hmem⟩,
      ⟨_, hexec .corrected, hcmem.trans hmem, hcount ▸ hccount⟩, ⟨_, hexec .uncorrectable, ?_⟩⟩
    rw [← State.paOfStack_congr (hreg _ 0 (by decide) (by decide)) hcfg]
    exact State.sectorEvent_uncorrectable_poisoned ..
  case lost =>
    have hout := State.stackOut_outOfService hl
    refine ⟨_, rfl, hout, ?_⟩
    simp [State.stackLive, hout]

end Sys2Proof.Machine
end

section
/-! Reads and writes that pop or move a log, that clear a function's counts, and a VF's reads without a side effect (04.7, 07.15). -/

namespace Sys2Proof.Machine

/-- An 8-byte PF0 read returns the value before its side effect. -/
theorem State.readReg_full_pf0 (s : State) {r : Reg} (i : Nat) (hr : readsFree r = false) :
    s.readReg .pf0 r i .full false = (s.readEffect 0 r i, s.regValue 0 r i 0) := by
  simp [State.readReg, State.peek_of_not_free _ _ _ hr, State.readsQuietly, viewFn]

/-- R282, R313: in a VF's view only `QUE_FN_STATUS` has a side effect. -/
theorem State.readReg_vf (s : State) (n : Nat) {r : Reg} (i : Nat) (k : Half) (hr : readsFree r = false) (hq : r ≠ .QUE_FN_STATUS) :
    s.readReg (.vf n) r i k false = (s, halfOf k (s.regValue n r i 0)) := by
  simp [State.readReg, State.peek_of_not_free _ _ _ hr, State.readsQuietly, hq, viewFn]

theorem exec_full_read_pf0 (s : State) (row : Half → Instr) {r : Reg} {i : Nat} (hr : readsFree r = false)
    (hrow : ∀ k, exec (row k) s = .next (s.hostRead .pf0 r i k)) (ha : s.answers .pf0 r i = true) :
    exec (row .full) s = .next ((s.readEffect 0 r i).emit (.regData (w64 (s.regValue 0 r i 0)))) := by
  rw [hrow, State.hostRead_of_answers _ _ _ _ _ ha, State.readReg_full_pf0 _ _ hr]

theorem exec_read_vf (s : State) (row : Half → Instr) (k : Half) {n : Nat} {r : Reg} {i : Nat} (hr : readsFree r = false)
    (hq : r ≠ .QUE_FN_STATUS) (hrow : ∀ k, exec (row k) s = .next (s.hostRead (.vf n) r i k)) (ha : s.answers (.vf n) r i = true) :
    exec (row k) s = .next (s.emit (.regData (w64 (halfOf k (s.regValue n r i 0))))) := by
  rw [hrow, State.hostRead_of_answers _ _ _ _ _ ha, State.readReg_vf _ _ _ _ hr hq]

/-! ### The error log (R152) -/

theorem State.eccLogPop_of_cons {s : State} {h : Nat} {e : EccLog} {l : List EccLog} (hlog : (s.stack h).eccLog = e :: l) :
    s.eccLogPop h = (s.setStack h { s.stack h with eccLog := l, overrun := false }).setReg .HBM_ECC_LOC h
      (e.row * 2 ^ 48 + e.bank * 2 ^ 44 + e.pc * 2 ^ 38 + e.addr) := by
  simp only [State.eccLogPop, hlog]

theorem State.eccLogPop_of_nil {s : State} {h : Nat} (hlog : (s.stack h).eccLog = []) :
    s.eccLogPop h = s.setStack h { s.stack h with overrun := false } := by
  simp only [State.eccLogPop, hlog]

/-! ### The repair log (R153) -/

theorem State.repairLogNext_of_lt {s : State} {h : Nat} (hlt : (s.stack h).repairPos < (s.stack h).repairs.length) :
    s.repairLogNext h = s.setStack h { s.stack h with repairPos := (s.stack h).repairPos + 1 } := if_pos hlt

theorem State.hostWrite_repairLog {s : State} {h : Nat} (val : Nat) (ha : s.answers .pf0 .HBM_REPAIR_LOG h = true) :
    s.hostWrite .HBM_REPAIR_LOG h val = s.setStack h { s.stack h with repairPos := 0 } := if_pos ha

/-- Settles O23: a PF0 read of the three registers has the effect of its register, and a VF's reads have none. -/
theorem poppingReads : Obligations.PoppingReads := by
  refine ⟨fun s h ha => ?eccLog, fun s h ha hlt => ?repairLog, fun s h ha => congrArg Host.Outcome.next (State.hostWrite_repairLog 0 ha),
    fun s ha => exec_full_read_pf0 s (.queFnStatusRead .pf0) (by decide) (fun _ => rfl) ha,
    fun s n p k _ ha => exec_read_vf s (.pnlCountsRead (.vf n) p) k (by decide) (by decide) (fun _ => rfl) ha,
    fun s n p k _ ha => exec_read_vf s (.pnlDispatchRead (.vf n) p) k (by decide) (by decide) (fun _ => rfl) ha,
    fun s n p k _ ha => exec_read_vf s (.rsqCountsRead (.vf n) p) k (by decide) (by decide) (fun _ => rfl) ha⟩
  case eccLog =>
    have hread : exec (.hbmEccLogRead h .full) s = .next ((s.eccLogPop h).emit (.regData (w64 (s.eccLogValue h)))) :=
      exec_full_read_pf0 s (.hbmEccLogRead h) (by decide) (fun _ => rfl) ha
    exact ⟨fun e l hlog => by rw [hread, State.eccLogPop_of_cons hlog], fun hlog => by rw [hread, State.eccLogPop_of_nil hlog]⟩
  case repairLog =>
    rw [← State.repairLogNext_of_lt hlt]
    exact exec_full_read_pf0 s (.hbmRepairLogRead h) (by decide) (fun _ => rfl) ha

end Sys2Proof.Machine
end

section
/-! The slices' side of the coherence protocol (05.3 to 05.6): what each answer is, and what the responses that end at a slice free. -/

namespace Sys2Proof.Machine

variable {s t : State} {q line : Nat} {m : Msg}

/-- Two meanings that answer the same next state. -/
theorem next_congr (h : s = t) : (.next s : Host.Outcome State Fault Refusal) = .next t := congrArg _ h

/-! ### Slices and messages in transit -/

theorem State.slice_modSlice_same (s : State) (q : Nat) (f : Slice → Slice) : (s.modSlice q f).slice q = f (s.slice q) :=
  tgetD_tput_same ..

theorem State.slice_modSlice_ne (s : State) {q k : Nat} (f : Slice → Slice) (h : k ≠ q) : (s.modSlice q f).slice k = s.slice k :=
  tgetD_tput_ne _ _ _ h

theorem State.slice_send (s : State) (a : Msg) (q : Nat) : (s.send a).slice q = s.slice q := rfl
theorem State.modSlice_mem (s : State) (q : Nat) (f : Slice → Slice) : (s.modSlice q f).mem = s.mem := rfl

theorem Slice.find_put_same (x : Slice) {l : Line} (h : l.line = line) : (x.put l).find line = some l := by
  simp [Slice.find, Slice.put, h]

theorem Slice.find_drop_same (x : Slice) (line : Nat) : (x.drop line).find line = none := by
  simp [Slice.find, Slice.drop]

theorem Slice.line_of_find {x : Slice} {l : Line} (h : x.find line = some l) : l.line = line := by
  simpa using List.find?_some h

/-- To receive a message takes it out of the messages in transit, and nothing else. -/
theorem State.recv_eq {k : MKind} {src dst : Option Nat} (h : s.recv k src dst line = some (m, t)) :
    ∃ rest, t = { s with net := rest } := by
  unfold State.recv at h
  split at h
  · cases h
    exact ⟨_, rfl⟩
  · cases h

theorem State.recv_mem {k : MKind} {src dst : Option Nat} (h : s.recv k src dst line = some (m, t)) : t.mem = s.mem := by
  obtain ⟨rest, rfl⟩ := State.recv_eq h
  rfl

theorem State.recv_slices {k : MKind} {src dst : Option Nat} (h : s.recv k src dst line = some (m, t)) : t.slices = s.slices := by
  obtain ⟨rest, rfl⟩ := State.recv_eq h
  rfl

theorem State.recv_slice {k : MKind} {src dst : Option Nat} (h : s.recv k src dst line = some (m, t)) (q : Nat) :
    t.slice q = s.slice q := by
  rw [State.slice, State.recv_slices h, State.slice]

theorem State.recv_homeOf {k : MKind} {src dst : Option Nat} (h : s.recv k src dst line = some (m, t)) (l : Nat) :
    t.homeOf l = s.homeOf l := by
  obtain ⟨rest, rfl⟩ := State.recv_eq h
  rfl

/-! ### Answers to snoops (Table 05-4) -/

/-- A slice that answers as the line's home sets the line's mirror bit (R160). -/
def State.mirrored (s : State) (q line : Nat) : State :=
  if (s.slice q).mirror.contains line then s else s.modSlice q fun x => { x with mirror := line :: x.mirror }

theorem State.mirrored_cases (s : State) (q line : Nat) :
    s.mirrored q line = s ∨ s.mirrored q line = s.modSlice q fun x => { x with mirror := line :: x.mirror } := by
  unfold State.mirrored
  split
  · exact .inl rfl
  · exact .inr rfl

theorem State.mirrored_eq (s : State) (q line : Nat) : ∃ sl, s.mirrored q line = { s with slices := sl } := by
  obtain h | h := s.mirrored_cases q line <;> exact ⟨_, h⟩

theorem State.slice_mirrored (s : State) (q line : Nat) :
    ∃ l, line ∈ l ∧ (s.mirrored q line).slice q = { s.slice q with mirror := l } := by
  unfold State.mirrored
  split
  next h => exact ⟨(s.slice q).mirror, by simpa using h, rfl⟩
  · exact ⟨_, List.mem_cons_self, State.slice_modSlice_same ..⟩

/-- A slice that answers a snoop has set the line's mirror bit where it is the line's home. -/
def State.snoopSeen (s : State) (q line : Nat) : State := if s.homeOf line = q then s.mirrored q line else s

theorem State.snoopSeen_eq (s : State) (q line : Nat) : ∃ sl, s.snoopSeen q line = { s with slices := sl } := by
  unfold State.snoopSeen
  split
  · exact s.mirrored_eq q line
  · exact ⟨_, rfl⟩

theorem State.slice_snoopSeen (s : State) (q line : Nat) : ∃ l, (s.snoopSeen q line).slice q = { s.slice q with mirror := l } := by
  unfold State.snoopSeen
  split
  · obtain ⟨l, -, h⟩ := s.slice_mirrored q line
    exact ⟨l, h⟩
  · exact ⟨_, rfl⟩

theorem State.snoopSeen_eq_ite (s : State) (q line : Nat) :
    s.snoopSeen q line = if s.homeOf line = q ∧ !((s.slice q).mirror.contains line)
      then s.modSlice q fun x => { x with mirror := line :: x.mirror } else s := by
  unfold State.snoopSeen State.mirrored
  by_cases hq : s.homeOf line = q <;> cases hc : (s.slice q).mirror.contains line <;> simp [hq]

/-- A slice's message to the home bank about a line, in answer to a snoop with a tag. -/
def State.toBank (s : State) (k : MKind) (q line tag : Nat) : Msg :=
  Msg.plain k q (bankAgent (s.homeOf line)) line { ReqHdr.hub with tag := tag }

theorem State.answerSnoop_of_buffered (k : MKind) (tag : Nat) (hbuf : ∃ l ∈ (s.slice q).wbuf, l.line = line) :
    s.answerSnoop q k line tag = (s.snoopSeen q line).send (s.toBank .wbInFlight q line tag) := by
  have hany : ((s.slice q).wbuf.any fun l => decide (l.line = line)) = true := by simpa using hbuf
  rw [State.snoopSeen_eq_ite]
  exact if_pos hany

section
variable (hbuf : ∀ l ∈ (s.slice q).wbuf, l.line ≠ line)
include hbuf

theorem State.answerSnoop_of_absent (k : MKind) (tag : Nat) (hfind : (s.slice q).find line = none) :
    s.answerSnoop q k line tag = (s.snoopSeen q line).send (s.toBank .invAck q line tag) := by
  have hany : ((s.slice q).wbuf.any fun l => decide (l.line = line)) = false := by simpa using hbuf
  rw [State.snoopSeen_eq_ite]
  simp only [State.answerSnoop, hany, hfind]
  rfl

/-- A shared snoop leaves the line in S, clean, and takes its dirty sectors home. -/
theorem State.answerSnoop_shr (tag : Nat) {l : Line} (hfind : (s.slice q).find line = some l) :
    s.answerSnoop q .snpShr line tag = ((s.snoopSeen q line).modSlice q fun x => x.put { l with state := .s, dirty := 0 }).send
      { s.toBank .data q line tag with dirty := if l.state = .m then l.dirty else 0, grant := some .s } := by
  have hany : ((s.slice q).wbuf.any fun l => decide (l.line = line)) = false := by simpa using hbuf
  rw [State.snoopSeen_eq_ite]
  simp only [State.answerSnoop, hany, hfind]
  rfl

/-- An invalidating snoop drops the line; one in E or M is answered with its data. -/
theorem State.answerSnoop_inv (tag : Nat) {l : Line} (hfind : (s.slice q).find line = some l) :
    s.answerSnoop q .snpInv line tag = ((s.snoopSeen q line).modSlice q fun x => x.drop line).send
      (if l.state = .s then s.toBank .invAck q line tag
        else { s.toBank .data q line tag with dirty := if l.state = .m then l.dirty else 0 }) := by
  have hany : ((s.slice q).wbuf.any fun l => decide (l.line = line)) = false := by simpa using hbuf
  rw [State.snoopSeen_eq_ite]
  simp only [State.answerSnoop, hany, hfind, Bool.false_eq_true, if_false, if_true]
  split <;> rfl

end

/-! ### Snoops that reach a slice (R172) -/

theorem State.takeSnoop_of_held {k : MKind} (hb : s.snpBlocked q line = false) (hr : s.recv k none (some q) line = some (m, t))
    (hh : (t.slice q).holding line = true) :
    s.takeSnoop q k line = t.modSlice q fun x => { x with held := x.held ++ [(line, k, m.tag)] } := by
  simp [State.takeSnoop, hb, hr, hh]

theorem State.takeSnoop_of_not_held {k : MKind} (hb : s.snpBlocked q line = false) (hr : s.recv k none (some q) line = some (m, t))
    (hh : (t.slice q).holding line = false) : s.takeSnoop q k line = t.answerSnoop q k line m.tag := by
  simp [State.takeSnoop, hb, hr, hh]

/-- What an answer that sends one message and keeps the slice's lines leaves. -/
theorem State.snoopSeen_send (s : State) (q line : Nat) (a : Msg) :
    ((s.snoopSeen q line).send a).net = s.net ++ [a] ∧ ((s.snoopSeen q line).send a).mem = s.mem ∧
      (((s.snoopSeen q line).send a).slice q).lines = (s.slice q).lines := by
  obtain ⟨sl, heq⟩ := s.snoopSeen_eq q line
  obtain ⟨l, hl⟩ := s.slice_snoopSeen q line
  refine ⟨by rw [heq]; rfl, by rw [heq]; rfl, ?_⟩
  rw [State.slice_send, hl]

/-- What an answer that sends one message and changes the line in the slice leaves. -/
theorem State.snoopSeen_modSlice_send (s : State) (q line : Nat) (f : Slice → Slice) (a : Msg) {o : Option Line}
    (hf : ∀ x, (f x).find line = o) :
    (((s.snoopSeen q line).modSlice q f).send a).mem = s.mem ∧ (((s.snoopSeen q line).modSlice q f).send a).net = s.net ++ [a] ∧
      ((((s.snoopSeen q line).modSlice q f).send a).slice q).find line = o := by
  obtain ⟨sl, heq⟩ := s.snoopSeen_eq q line
  refine ⟨by rw [heq]; rfl, by rw [heq]; rfl, ?_⟩
  rw [State.slice_send, State.slice_modSlice_same, hf]

section
variable {k : MKind} (hb : s.snpBlocked q line = false) (hh : (t.slice q).holding line = false)
include hb hh

theorem State.takeSnoop_buffered (hr : s.recv k none (some q) line = some (m, t)) (hbuf : ∃ l ∈ (t.slice q).wbuf, l.line = line) :
    (s.takeSnoop q k line).mem = s.mem ∧ (s.takeSnoop q k line).net = t.net ++ [t.toBank .wbInFlight q line m.tag] := by
  rw [State.takeSnoop_of_not_held hb hr hh, State.answerSnoop_of_buffered k _ hbuf, ← State.recv_mem hr]
  obtain ⟨hnet, hmem, -⟩ := t.snoopSeen_send q line (t.toBank .wbInFlight q line m.tag)
  exact ⟨hmem, hnet⟩

variable (hbuf : ∀ l ∈ (t.slice q).wbuf, l.line ≠ line)
include hbuf

theorem State.takeSnoop_absent (hr : s.recv k none (some q) line = some (m, t)) (hfind : (t.slice q).find line = none) :
    (s.takeSnoop q k line).net = t.net ++ [t.toBank .invAck q line m.tag] ∧ (s.takeSnoop q k line).mem = s.mem ∧
      ((s.takeSnoop q k line).slice q).lines = (s.slice q).lines := by
  rw [State.takeSnoop_of_not_held hb hr hh, State.answerSnoop_of_absent hbuf k _ hfind, ← State.recv_mem hr, ← State.recv_slice hr]
  exact t.snoopSeen_send q line _

theorem State.takeSnoop_shr {l : Line} (hr : s.recv .snpShr none (some q) line = some (m, t)) (hfind : (t.slice q).find line = some l) :
    (s.takeSnoop q .snpShr line).mem = s.mem ∧
      (s.takeSnoop q .snpShr line).net = t.net ++
        [{ t.toBank .data q line m.tag with dirty := if l.state = .m then l.dirty else 0, grant := some .s }] ∧
      ((s.takeSnoop q .snpShr line).slice q).find line = some { l with state := .s, dirty := 0 } := by
  have hline : l.line = line := Slice.line_of_find hfind
  rw [State.takeSnoop_of_not_held hb hr hh, State.answerSnoop_shr hbuf _ hfind, ← State.recv_mem hr]
  exact t.snoopSeen_modSlice_send q line _ _ fun x => x.find_put_same hline

theorem State.takeSnoop_inv {l : Line} (hr : s.recv .snpInv none (some q) line = some (m, t)) (hfind : (t.slice q).find line = some l) :
    (s.takeSnoop q .snpInv line).mem = s.mem ∧
      (s.takeSnoop q .snpInv line).net = t.net ++ [if l.state = .s then t.toBank .invAck q line m.tag
        else { t.toBank .data q line m.tag with dirty := if l.state = .m then l.dirty else 0 }] ∧
      ((s.takeSnoop q .snpInv line).slice q).find line = none := by
  rw [State.takeSnoop_of_not_held hb hr hh, State.answerSnoop_inv hbuf _ hfind, ← State.recv_mem hr]
  exact t.snoopSeen_modSlice_send q line _ _ fun x => x.find_drop_same line

end

/-! ### SNP_FETCH (R129) -/

theorem snpFetch_of_found (ecc : EccEvent) {l : Line} (hr : s.recv .snpFetch none (some q) line = some (m, t))
    (hfind : (t.slice q).find line = some l) :
    snpFetch q line ecc s = ((t.mirrored q line).modSlice q fun x => x.put { l with state := .s, dirty := 0 }).send
      { t.toBank .data q line m.tag with dirty := if l.state = .m then l.dirty else 0, grant := some .s } := by
  simp only [snpFetch, hr, hfind]
  rfl

/-- A stack that is not live gives the home slice's answer no event of a sector. -/
theorem snpFetch_of_not_live (ecc : EccEvent) (hr : s.recv .snpFetch none (some q) line = some (m, t))
    (hfind : (t.slice q).find line = none) (hl : t.stackLive (t.hbmLoc (128 * localLine line)).1 = false) :
    snpFetch q line ecc s = ({ t.mirrored q line with free := t.free + 3 } : State).send (t.toBank .data q line m.tag) := by
  obtain ⟨sl, heq⟩ := t.mirrored_eq q line
  have hl' : ({ t.mirrored q line with free := t.free + 3 } : State).stackLive
      ((t.mirrored q line).hbmLoc (128 * localLine line)).1 = false := by rw [heq]; exact hl
  have hfree : (t.mirrored q line).free = t.free := by rw [heq]
  rw [← hfree] at hl' ⊢
  simp only [snpFetch, hr, hfind]
  exact congrArg (State.send · _) (if_neg (Bool.eq_false_iff.mp hl'))

/-! ### Responses that end at a slice (R160, R169) -/

theorem Slice.credit_tput_same (x : Slice) (b n : Nat) : ({ x with creditUsed := tput x.creditUsed b n } : Slice).credit b = n :=
  tgetD_tput_same ..

theorem Slice.credit_tput_ne (x : Slice) {b c : Nat} (n : Nat) (h : c ≠ b) :
    ({ x with creditUsed := tput x.creditUsed b n } : Slice).credit c = x.credit c := tgetD_tput_ne _ _ _ h

theorem wbAck_eq (hr : s.recv .wbAck none (some q) line = some (m, t)) :
    wbAck q line s = t.modSlice q fun x => { x with
      wbuf := x.wbuf.filter (fun l => !(decide (l.line = line))),
      creditUsed := tput x.creditUsed (t.homeOf line) (x.credit (t.homeOf line) - 1) } := by
  simp only [wbAck, hr]

theorem credit_eq {bank : Nat} {rest : List Msg}
    (hm : takeMsg (fun m => decide (m.kind = .credit) && decide (m.dst = q) && decide (m.src = bankAgent bank)) s.net = some (m, rest)) :
    credit q bank s =
      ({ s with net := rest } : State).modSlice q fun x => { x with creditUsed := tput x.creditUsed bank (x.credit bank - 1) } := by
  simp only [credit, hm]

/-- R162: a line that the home kept in S is the only copy once its directory entry is free. -/
def Line.freed (line : Nat) (l : Line) : Line := if l.line = line ∧ l.state = .s then { l with state := .e } else l

theorem Line.freed_state_ne_s (l : Line) (h : (l.freed line).line = line) : (l.freed line).state ≠ .s := by
  unfold Line.freed at h ⊢
  split
  · simp
  next hn =>
    rw [if_neg hn] at h
    exact fun hs => hn ⟨h, hs⟩

theorem dirFree_eq (hr : s.recv .dirFree none (some q) line = some (m, t)) :
    dirFree q line s = t.modSlice q fun x => { x with
      mirror := x.mirror.filter (fun l => !(decide (l = line))), lines := x.lines.map (Line.freed line) } := by
  simp only [dirFree, hr]
  rfl

/-! ### COMPLETE and a request's timeout at the issuer (R482) -/

theorem complete_eq {tag : Nat} {rest : List Msg}
    (hm : takeMsg (fun m => decide (m.kind = .complete) && decide (m.tag = tag)) s.net = some (m, rest)) :
    complete tag s = if (m.dst = 0x22 ∨ m.dst = 0x23) ∧ ∃ x ∈ s.tracker, x.tag = tag
      then (({ s with net := rest } : State).untrack tag).emit (.guestAck (m.dst - 0x22) m.status m.old)
      else ({ s with net := rest } : State).untrack tag := by
  have hlive : (s.tracker.any fun x => decide (x.tag = tag)) = true ↔ ∃ x ∈ s.tracker, x.tag = tag := by simp
  simp only [complete, hm, hlive]

/-- What goes outside when a request of a port is given up. -/
def timeoutAnswer (c : Nat) : Nat → List Out
  | 6 => [.guestAck 0 0x0405 0]
  | 7 => [.guestAck 1 0x0405 0]
  | 4 => [.memData ((List.range 128).map fun i => Config.undefByte c i) true]
  | 5 => [.memData ((List.range 128).map fun i => Config.undefByte c i) true]
  | _ => []

theorem requestTimeout_eq {tag : Nat} {x : Tracked} (hx : s.tracker.find? (fun t => decide (t.tag = tag)) = some x)
    (hlate : 1000 * max 10 (min 100000 (s.fld .SRV_REQ_TIMEOUT_US 0)) ≤ (s.time - x.since).toNat) :
    requestTimeout tag s = { s.untrack tag with free := s.free + 1, out := s.out ++ timeoutAnswer s.free x.port } := by
  simp only [requestTimeout, hx, if_pos hlate]
  split
  case h_5 h6 h7 h4 h5 =>
    rw [timeoutAnswer.eq_5 _ _ h6 h7 h4 h5, List.append_nil]
    rfl
  all_goals
    next hp =>
      rw [hp]
      rfl

/-- Settles O51: the answers by the line's state in the slice, and what each response frees. -/
theorem sliceAnswers : Obligations.SliceAnswers := by
  refine ⟨fun s q line m t hb hh => ⟨fun hr => next_congr (State.takeSnoop_of_held hb hr hh),
      fun hr => next_congr (State.takeSnoop_of_held hb hr hh)⟩,
    fun s q line m t a hb hh hbuf ha => ?answered, fun s q line m t hb hh hbuf k hk hr => ?buffered,
    fun s q line ecc m t hr => ?fetch, fun s q line h hh hend => ?hold, fun s slice pkg eng r hr hold => ?replay,
    fun s q line m t hr => ?wbAck, fun s q bank m rest hm => ?credit, fun s q line m t hr => ?dirFree,
    fun s tag m rest hm => ?complete, fun s tag x hx hlate => ?timeout⟩
  case answered =>
    subst ha
    exact ⟨
      fun hr => ⟨fun hl => ⟨_, rfl, State.takeSnoop_absent hb hh hbuf hr hl⟩,
        fun l hl => ⟨_, rfl, State.takeSnoop_shr hb hh hbuf hr hl⟩⟩,
      fun hr => ⟨fun hl => ⟨_, rfl, State.takeSnoop_absent hb hh hbuf hr hl⟩,
        fun l hl => ⟨_, rfl, State.takeSnoop_inv hb hh hbuf hr hl⟩⟩⟩
  case buffered =>
    have hanswer := State.takeSnoop_buffered hb hh hr hbuf
    obtain rfl | rfl := hk
    · exact ⟨_, rfl, hanswer⟩
    · exact ⟨_, rfl, hanswer⟩
  case fetch =>
    obtain ⟨mirror, hmem, hslice⟩ := t.slice_mirrored q line
    obtain ⟨sl, heq⟩ := t.mirrored_eq q line
    rw [← State.recv_mem hr]
    refine ⟨fun l hl => ⟨_, next_congr (snpFetch_of_found ecc hr hl), by rw [heq]; rfl, by rw [heq]; rfl, ?_⟩,
      fun hl hlive => ⟨_, next_congr (snpFetch_of_not_live ecc hr hl hlive), by rw [heq]; rfl, ?_, by rw [heq]; rfl⟩⟩
    · have hline : l.line = line := Slice.line_of_find hl
      rw [State.slice_send, State.slice_modSlice_same, hslice]
      exact ⟨Slice.find_put_same _ hline, by simpa [Slice.put, Slice.drop] using hmem⟩
    · change ((t.mirrored q line).slice q).mirror.contains line = true
      rw [hslice]
      simpa using hmem
  case hold =>
    change Host.Outcome.next (holdExpire q line s) = _
    simp only [holdExpire, hh, if_pos hend]
  case replay =>
    change Host.Outcome.next (replayExpire slice pkg eng s) = _
    simp only [replayExpire, hr, if_pos hold]
  case wbAck =>
    refine ⟨_, next_congr (wbAck_eq hr), ?_, ?_, ?_, rfl, (t.modSlice_mem q _).trans (State.recv_mem hr), fun k hk => ?_⟩
    · rw [State.slice_modSlice_same, State.recv_slice hr]
    · rw [State.slice_modSlice_same, State.recv_slice hr, State.recv_homeOf hr]
      exact Slice.credit_tput_same ..
    · rw [State.slice_modSlice_same, State.recv_slice hr]
    · rw [State.slice_modSlice_ne _ _ hk, State.recv_slice hr]
  case credit =>
    refine ⟨_, next_congr (credit_eq hm), rfl, ?_, fun b hb => ?_, ?_, rfl, fun k hk => State.slice_modSlice_ne _ _ hk⟩
    · rw [State.slice_modSlice_same]
      exact Slice.credit_tput_same ..
    · rw [State.slice_modSlice_same]
      exact Slice.credit_tput_ne _ _ hb
    · rw [State.slice_modSlice_same]
      rfl
  case dirFree =>
    refine ⟨_, next_congr (dirFree_eq hr), ?_, rfl, (t.modSlice_mem q _).trans (State.recv_mem hr), fun k hk => ?_, ?_⟩
    · rw [State.slice_modSlice_same]
      simp
    · rw [State.slice_modSlice_ne _ _ hk, State.recv_slice hr]
    · rw [State.slice_modSlice_same]
      rintro _ hl
      obtain ⟨l, -, rfl⟩ := List.mem_map.mp hl
      exact l.freed_state_ne_s
  case complete =>
    refine ⟨_, next_congr (complete_eq hm), ?_⟩
    split
    · exact ⟨rfl, rfl, rfl, rfl, rfl, rfl⟩
    · exact ⟨rfl, rfl, rfl, rfl, rfl, (List.append_nil _).symm⟩
  case timeout =>
    refine ⟨_, next_congr (requestTimeout_eq hx hlate), rfl, rfl, fun hp => ?_, fun hp => ?_, fun hp => ?_⟩
    · exact congrArg (s.out ++ timeoutAnswer s.free ·) hp
    · exact congrArg (s.out ++ timeoutAnswer s.free ·) hp
    · obtain hp | hp := hp
      · exact ⟨_, congrArg (s.out ++ timeoutAnswer s.free ·) hp⟩
      · exact ⟨_, congrArg (s.out ++ timeoutAnswer s.free ·) hp⟩

end Sys2Proof.Machine
end

section
/-! The directory's side of the coherence protocol (05.2 to 05.6): a request on its way to its bank, how a bank is carried forward, and
what answers and data do at a bank and at their receivers. -/

namespace Sys2Proof.Machine

variable {s t : State} {q line : Nat}

/-! ### Entries of a bank -/

theorem State.bank_putDir_same (s : State) (q : Nat) (e : DirEntry) :
    (s.putDir q e).bank q = e :: (s.bank q).filter fun x => !(decide (x.line = e.line)) := tgetD_tput_same ..

theorem findDir_cons_same (e : DirEntry) (l : List DirEntry) : findDir (e :: l) e.line = some e := by simp [findDir]

/-- The entry that a bank makes for a request of a line. -/
def DirEntry.fresh (line : Nat) : DirEntry := ⟨line, .di, 0, 0, none, []⟩

theorem DirEntry.holders_fresh (line : Nat) : (DirEntry.fresh line).holders = [] := by
  simp [DirEntry.holders, DirEntry.fresh, maskBits]

/-! ### Requests (R170, R171, R177) -/

theorem State.request_of_takesReq {h : ReqHdr} (htake : s.takesReq h line) (op : ReqOp) (sectors : Nat) :
    s.request ⟨h, line, op⟩ sectors = s.requestServed ⟨h, line, op⟩ sectors := by
  obtain ⟨hlocal, hhome, hroom, htag⟩ := htake
  exact if_pos (by simpa [hlocal, hhome, hroom] using htag)

theorem State.request_of_no_room {h : ReqHdr} (hfull : s.trackerRoom (portOf h.src) = false) (line : Nat) (op : ReqOp) (sectors : Nat) :
    s.request ⟨h, line, op⟩ sectors = s := if_neg (by simp [hfull])

/-- R171: a request of a line that its bank has no entry for, and no other request waiting for an entry, begins on a fresh one. -/
theorem State.arrive_of_empty {r : Req} (hbank : s.bank q = []) (hstalled : s.stalled q = []) :
    s.arrive q r = s.begin_ q (.fresh r.line) true r := by
  simp [State.arrive, findDir, State.setEntries, hbank, hstalled, DirEntry.fresh]

/-- Table 05-3: with nothing at the line, every request but a whole-line write asks the home slice for it. -/
theorem State.snoopsFor_fresh {r : Req} (hop : ∀ d n, r.op ≠ .wrLine d n) :
    s.snoopsFor q (.fresh r.line) true r = [(q, .snpFetch)] := by
  unfold State.snoopsFor
  rw [DirEntry.holders_fresh]
  cases hr : r.op with
  | wrLine d n => exact absurd hr (hop d n)
  | rdShr => rfl
  | rdOwn _ => rfl
  | upgrade => rfl
  | rdOnce => rfl
  | wrPtl _ _ _ => rfl
  | atomic _ _ _ _ _ _ => rfl
  | addLine _ _ _ _ _ _ _ => rfl

theorem State.snoopsFor_fresh_wrLine {h : ReqHdr} {d : List Byte} : s.snoopsFor q (.fresh line) true ⟨h, line, .wrLine d 0⟩ = [] := by
  unfold State.snoopsFor
  rw [DirEntry.holders_fresh]
  rfl

theorem atomicReq_hbm {h : ReqHdr} {a n : Nat} (op : AtomOp) (x y : W64) (rt : Option RTag) (hn : n = 4 ∨ n = 8) (ha : a % n = 0)
    (hreg : region (a % 2 ^ 48) = .hbm) :
    atomicReq h a op n x y rt s = s.request ⟨h, a / 128, .atomic (a % 2 ^ 48) op n x y rt⟩ (2 ^ (a / 32 % 4)) := by
  simp only [atomicReq, hn, ha, hreg, and_self, if_true]

/-- R177: an atomic addressed to a device region other than die scratch. -/
theorem atomicReq_device {h : ReqHdr} {a n : Nat} (op : AtomOp) (x y : W64) (rt : Option RTag) (hn : n = 4 ∨ n = 8) (ha : a % n = 0)
    (hhbm : region (a % 2 ^ 48) ≠ .hbm) (hdscr : ∀ d o, region (a % 2 ^ 48) ≠ .dscr d o) :
    atomicReq h a op n x y rt s = s.refuseReq h (a / 128) 0x0301 := by
  unfold atomicReq
  rw [if_pos ⟨hn, ha⟩]
  split
  next hreg => exact absurd hreg hhbm
  next hreg => exact absurd hreg (hdscr _ _)
  · rfl

/-! ### A bank carried forward -/

theorem State.settle_nil (hstalled : s.stalled q = []) (n : Nat) : State.settle q n s [] = s := by
  cases n with
  | zero => rfl
  | succ n => simp [State.settle, hstalled]

section
variable {e : DirEntry} (he : findDir (s.bank q) line = some e)
include he

theorem State.settle_of_waits {x : Txn} (hbusy : e.busy = some x) (hready : e.ready x = false) (n : Nat) (rest : List Nat) :
    State.settle q (n + 1) s (line :: rest) = State.settle q n s rest := by
  simp [State.settle, he, hbusy, hready]

theorem State.settle_of_ready {x : Txn} (hbusy : e.busy = some x) (hready : e.ready x = true) (n : Nat) (rest : List Nat) :
    State.settle q (n + 1) s (line :: rest) = State.settle q n (s.finish q e x) (line :: rest) := by
  simp [State.settle, he, hbusy, hready]

theorem State.settle_of_idle (hwaiting : e.waiting = []) (hidle : e.idle q = true) (n : Nat) (rest : List Nat) :
    State.settle q (n + 1) s (line :: rest) = State.settle q n (s.freeDir q line) rest := by
  have hbusy : e.busy = none := by
    simp only [DirEntry.idle, Bool.and_eq_true, Option.isNone_iff_eq_none] at hidle
    exact hidle.1.1.1
  simp [State.settle, he, hbusy, hwaiting, hidle]

end

/-- The steps that a bank of one entry is given. -/
theorem State.settleAll_of_single {e : DirEntry} (hbank : s.bank q = [e]) (hwaiting : e.waiting = []) (hstalled : s.stalled q = []) :
    s.settleAll q line = State.settle q 16 s [line] := by
  simp [State.settleAll, hbank, hwaiting, hstalled]

/-- A bank whose one entry waits for answers stays as it is. -/
theorem State.settleAll_of_waits {e : DirEntry} {x : Txn} (hbank : s.bank q = [e]) (hbusy : e.busy = some x) (hready : e.ready x = false)
    (hwaiting : e.waiting = []) (hstalled : s.stalled q = []) : s.settleAll q e.line = s := by
  have he : findDir (s.bank q) e.line = some e := by rw [hbank, findDir_cons_same]
  rw [State.settleAll_of_single hbank hwaiting hstalled, State.settle_of_waits he hbusy hready, State.settle_nil hstalled]

/-- The entry of a request that asked the home slice for its line. -/
def Req.fetching (r : Req) (q : Nat) : DirEntry :=
  { DirEntry.fresh r.line with busy := some ⟨some r, [⟨q, .snpFetch, false, false⟩], 0, false, false⟩ }

/-- R171: with nothing at the line, a request makes an entry and waits for the home slice's answer. -/
theorem State.requestServed_of_empty {r : Req} (sectors : Nat) (hq : q = s.homeOf r.line) (hbank : s.bank q = [])
    (hstalled : s.stalled q = []) (hop : ∀ d n, r.op ≠ .wrLine d n) :
    s.requestServed r sectors =
      ((s.track r.h r.line sectors).putDir q (r.fetching q)).sendSnoop q r.line r.h.tag (q, .snpFetch) ∧
      (s.requestServed r sectors).bank q = [r.fetching q] := by
  have harrive : (s.track r.h r.line sectors).arrive q r =
      ((s.track r.h r.line sectors).putDir q (r.fetching q)).sendSnoop q r.line r.h.tag (q, .snpFetch) := by
    have hbegin : (s.track r.h r.line sectors).arrive q r = _ := State.arrive_of_empty hbank hstalled
    rw [hbegin, State.begin_, State.snoopsFor_fresh hop]
    rfl
  have hone : ((s.track r.h r.line sectors).arrive q r).bank q = [r.fetching q] := by
    rw [harrive]
    refine (State.bank_putDir_same ..).trans ?_
    rw [show (s.track r.h r.line sectors).bank q = [] from hbank, List.filter_nil]
  have hserved : s.requestServed r sectors = (s.track r.h r.line sectors).arrive q r := by
    rw [State.requestServed, ← hq]
    exact State.settleAll_of_waits hone rfl rfl rfl (by rw [harrive]; exact hstalled)
  exact ⟨hserved.trans harrive, hserved ▸ hone⟩

/-- Settles O50: a request that is taken is served at its bank; the rest are answered or wait. -/
theorem coherenceRequests : Obligations.CoherenceRequests := by
  refine ⟨fun s h slice line htake => ?ofSlice, fun s h line htake => ?ofAgent, fun s r sectors q hq hbank hstalled hop => ?fetches,
    fun s h line slice hfull => ?noRoom, fun s h a op n x y rt hn ha hhbm hdscr => ?atomic,
    fun s h line sec rop e c k p rt hp hrop hreg => ?addLine⟩
  case ofSlice =>
    have hserved op := next_congr (State.request_of_takesReq htake op 15)
    exact ⟨hserved .rdShr, fun m => hserved (.rdOwn m), hserved .upgrade⟩
  case ofAgent =>
    have hserved op n := State.request_of_takesReq htake op n
    refine ⟨next_congr (hserved .rdOnce 15), fun d hint hd => ?_, fun m d hint hd => ?_,
      fun a op n x y rt hline hn ha hreg => ?_, fun sec rop e c k p rt hp hrop => ?_⟩
    · exact next_congr ((if_pos hd).trans (hserved (.wrLine d hint) 15))
    · exact next_congr ((if_pos hd).trans (hserved (.wrPtl m d hint) 15))
    · subst hline
      exact next_congr ((atomicReq_hbm op x y rt hn ha hreg).trans (hserved (.atomic (a % 2 ^ 48) op n x y rt) _))
    · exact next_congr
        ((if_pos ⟨hp, hrop⟩).trans ((if_pos htake.2.1).trans (hserved (.addLine sec rop e c k p rt) sec.toNat)))
  case fetches =>
    obtain ⟨hserved, hone⟩ := State.requestServed_of_empty sectors hq hbank hstalled hop
    refine ⟨_, rfl, ?_, ?_, hone, ?_, ?_, ?_⟩
    all_goals
      rw [hserved]
      rfl
  case noRoom =>
    refine ⟨next_congr (State.request_of_no_room hfull line .rdOnce 15), fun hsrc => ?_⟩
    have hfull' : s.trackerRoom (portOf (slice % 4)) = false := hsrc ▸ hfull
    have hwaits op := next_congr (State.request_of_no_room (h := { h with src := slice % 4 }) hfull' line op 15)
    exact ⟨hwaits .rdShr, fun m => hwaits (.rdOwn m), hwaits .upgrade⟩
  case atomic => exact next_congr (atomicReq_device op x y rt hn ha hhbm hdscr)
  case addLine => exact next_congr ((if_pos ⟨hp, hrop⟩).trans (if_neg hreg))

/-! ### INV_ACK (Table 05-4) -/

variable {slice : Nat} {m : Msg} {e : DirEntry} {x : Txn}

theorem invAck_of_no_entry (hr : s.recv .invAck (some slice) none line = some (m, t))
    (hnone : findDir (t.bank (s.homeOf line)) line = none) :
    invAck slice line s = t := by
  simp only [invAck, hr, hnone]

section
variable (hr : s.recv .invAck (some slice) none line = some (m, t)) (he : findDir (t.bank (s.homeOf line)) line = some e)
  (hbusy : e.busy = some x)
include hr he hbusy

theorem invAck_of_no_fetch (hdata : needsData e x = false)
    (hshr : (x.waits.any fun w => decide (w.slice = slice) && decide (w.kind = .snpShr)) = false) :
    invAck slice line s = (t.modTxn (s.homeOf line) line fun e y => { e with
      slices := setBits e.slices slice slice 0, state := if e.state = .dx then .di else e.state,
      busy := some { y with waits := dropWait x.waits slice true } }).settleAll (s.homeOf line) line := by
  simp only [invAck, hr, he, hbusy, hdata, hshr, Bool.or_self, Bool.false_and, Bool.false_eq_true, if_false]

/-- A read whose data the slice no longer has asks the home slice for it. -/
theorem invAck_of_fetch (hneeds : needsData e x = true ∨ ∃ w ∈ x.waits, w.slice = slice ∧ w.kind = .snpShr)
    (hfirst : ∀ w ∈ x.waits, w.kind ≠ .snpFetch) :
    invAck slice line s = ((t.modTxn (s.homeOf line) line fun e y => { e with
      slices := setBits e.slices slice slice 0, state := if e.state = .dx then .di else e.state,
      busy := some { y with waits := dropWait x.waits slice true ++ [⟨s.homeOf line, .snpFetch, false, false⟩] } }).sendSnoop
        (s.homeOf line) line 0 (s.homeOf line, .snpFetch)).settleAll (s.homeOf line) line := by
  have hshr : ((x.waits.any fun w => decide (w.slice = slice) && decide (w.kind = .snpShr)) || needsData e x) = true := by
    simpa [or_comm] using hneeds
  have hfetch : (x.waits.any fun w => decide (w.kind = .snpFetch)) = false := by simpa using hfirst
  simp only [invAck, hr, he, hbusy, hshr, hfetch, Bool.not_false, Bool.true_and, if_true]

end

/-! ### Write-backs and clean evictions (R173) -/

section
variable {w : Snooped}

theorem wbInFlight_of_snooped (hr : s.recv .wbInFlight (some slice) none line = some (m, t))
    (he : findDir (t.bank (s.homeOf line)) line = some e) (hw : snooped e slice = some w) :
    wbInFlight slice line s = if w.wbData then t.crossed (s.homeOf line) slice line
      else t.modTxn (s.homeOf line) line fun e t => { e with busy := some (markWait slice (fun w => { w with wbFlight := true }) t) } := by
  simp only [wbInFlight, hr, he, hw, Option.bind_some]

theorem wbData_of_not_snooped (hr : s.recv .wbData (some slice) none line = some (m, t))
    (hw : ((findDir (t.bank (s.homeOf line)) line).bind fun e => snooped e slice) = none) :
    wbData slice line s = ((t.modDir (s.homeOf line) line fun e => { e with slices := setBits e.slices slice slice 0 }).send
      (Msg.plain .wbAck (bankAgent (s.homeOf line)) slice line ReqHdr.hub)).settleAll (s.homeOf line) line := by
  simp only [wbData, hr, hw]

/-- The data of a crossing write-back that comes first is kept for the snoop's other half. -/
theorem wbData_of_snooped (hr : s.recv .wbData (some slice) none line = some (m, t))
    (he : findDir (t.bank (s.homeOf line)) line = some e) (hw : snooped e slice = some w) (hflight : w.wbFlight = false) :
    wbData slice line s = t.modTxn (s.homeOf line) line fun e t => { e with
      busy := some { markWait slice (fun w => { w with wbData := true }) t with dirty := t.dirty ||| m.dirty } } := by
  simp only [wbData, hr, he, hw, hflight, Option.bind_some, Bool.false_eq_true, if_false]

end

theorem evictClean_eq (hr : s.recv .evictClean (some slice) none line = some (m, t)) :
    evictClean slice line s = ((if slice = s.homeOf line then t
      else t.send (Msg.plain .credit (bankAgent (s.homeOf line)) slice 0 ReqHdr.hub)).modDir (s.homeOf line) line fun e =>
        { e with slices := setBits e.slices slice slice 0 }).settleAll (s.homeOf line) line := by
  simp only [evictClean, hr]

/-! ### DATA at its receiver (Table 05-10) -/

section
variable {dst : Nat} (hr : s.recv .data none (some dst) line = some (m, t))
include hr

theorem data_of_bank (hlo : 0x10 ≤ dst) (hhi : dst < 0x14) : data dst line s = t.snoopData (dst - 0x10) m := by
  simp only [data, hr, hlo, hhi, and_self, if_true]

/-- A grant is installed in the slice; one in M begins the slice's hold. -/
theorem data_of_slice {u : State} (hdst : dst < 4)
    (hfill : t.fill dst (t.newLine m.hdr line (m.grant.getD .s) (if m.grant = some .m then m.dirty else 0)) = some u) :
    data dst line s = ((if m.grant = some .m then u.modSlice dst fun x => { x with
      holds := x.holds ++ [⟨line, u.now + 64, m.hdr.ctx, m.hdr.owner⟩] } else u).untrack m.tag).granted (u.homeOf line) line := by
  have hbank : ¬ (0x10 ≤ dst ∧ dst < 0x14) := by omega
  have hgrant : m.grant.getD .s = .m ↔ m.grant = some .m := by
    cases m.grant <;> simp
  simp only [data, hr, hbank, hdst, if_false, if_true, hgrant, hfill]
  split <;> rfl

theorem data_of_reader (hdst : 0x14 ≤ dst) (htracked : ∃ x ∈ t.tracker, x.tag = m.tag) :
    data dst line s = ((((t.untrack m.tag).modDir (t.homeOf line) line fun e => { e with ports := e.ports &&& (7 - portBit dst) }).emit
      (.memData m.bytes (decide (m.poison ≠ 0)))).settleAll (t.homeOf line) line) := by
  have hbank : ¬ (0x10 ≤ dst ∧ dst < 0x14) := by omega
  have hslice : ¬ dst < 4 := by omega
  have hlate : (!(t.tracker.any fun x => decide (x.tag = m.tag))) = false := by simpa using htracked
  simp only [data, hr, hbank, hslice, hlate, if_false, Bool.false_eq_true]

end

/-- Settles O52: each answer at its bank by what the entry waits for, and each DATA by its receiver. -/
theorem directoryAnswers : Obligations.DirectoryAnswers := by
  refine ⟨fun s slice line m t q hr hq => ?invAck, fun s slice line m t e w hr he hw => ?wbInFlight, fun s slice line m t hr => ?wbData,
    fun s slice line m t hr => next_congr (evictClean_eq hr), fun s dst line m t hr => ?data⟩
  case invAck =>
    subst hq
    exact ⟨fun hnone => next_congr (invAck_of_no_entry hr hnone),
      fun e x he hbusy hdata hshr => next_congr (invAck_of_no_fetch hr he hbusy hdata hshr),
      fun e x he hbusy hneeds hfirst => next_congr (invAck_of_fetch hr he hbusy hneeds hfirst)⟩
  case wbInFlight =>
    have hnext := wbInFlight_of_snooped hr he hw
    have hmem := State.recv_mem hr
    have hslices := State.recv_slices hr
    exact ⟨fun hdata => next_congr (hnext.trans (if_pos hdata)),
      fun hdata => ⟨_, next_congr (hnext.trans (if_neg (by simp [hdata]))), rfl, hslices, hmem⟩⟩
  case wbData =>
    have hmem := State.recv_mem hr
    have hslices := State.recv_slices hr
    refine ⟨fun hw => next_congr (wbData_of_not_snooped hr ?_), fun e w he hw hflight =>
      ⟨_, next_congr (wbData_of_snooped hr he hw hflight), rfl, hslices, hmem⟩⟩
    obtain hnone | ⟨e, he, hw⟩ := hw
    · rw [hnone, Option.bind_none]
    · rw [he, Option.bind_some, hw]
  case data =>
    refine ⟨fun hlo hhi => next_congr (data_of_bank hr hlo hhi), fun u hdst hfill => ?_,
      fun hdst htracked => next_congr (data_of_reader hr hdst htracked)⟩
    have hnext := data_of_slice hr hdst hfill
    exact ⟨fun hg => next_congr (by rw [hnext, if_neg hg]), fun hg => next_congr (by rw [hnext, if_pos hg])⟩

end Sys2Proof.Machine
end

section
/-! What a write of a line and an atomic in die scratch store, and that they store nothing else (05.2, 05.9, 03.3). -/

namespace Sys2Proof.Machine

/-! ### Memories that agree outside a range -/

/-- The memories have the same bytes outside [lo, hi), the same sectors that do not meet it, and lost the same frames. -/
structure Memory.SameOutside (lo hi : Nat) (m m' : Memory) : Prop where
  cells : ∀ x, x < lo ∨ hi ≤ x → cellGet m'.cells x = cellGet m.cells x
  sect : ∀ j, 32 * j + 32 ≤ lo ∨ hi ≤ 32 * j → tget m'.sect j = tget m.sect j
  lost : m'.lost = m.lost

section
variable {lo hi lo' hi' : Nat} {m m' m'' : Memory}

theorem Memory.SameOutside.refl (lo hi : Nat) (m : Memory) : m.SameOutside lo hi m := ⟨fun _ _ => rfl, fun _ _ => rfl, rfl⟩

theorem Memory.SameOutside.trans (h : m.SameOutside lo hi m') (h' : m'.SameOutside lo hi m'') : m.SameOutside lo hi m'' :=
  ⟨fun x hx => (h'.cells x hx).trans (h.cells x hx), fun j hj => (h'.sect j hj).trans (h.sect j hj), h'.lost.trans h.lost⟩

theorem Memory.SameOutside.mono (h : m.SameOutside lo hi m') (hlo : lo' ≤ lo) (hhi : hi ≤ hi') : m.SameOutside lo' hi' m' :=
  ⟨fun x hx => h.cells x (by omega), fun j hj => h.sect j (by omega), h.lost⟩

theorem Memory.SameOutside.plainByte (h : m.SameOutside lo hi m') {x : Nat} (hx : x < lo ∨ hi ≤ x) :
    m'.plainByte x = m.plainByte x := by
  simp only [Memory.plainByte, h.cells x hx]

/-- A byte of HBM depends on its whole sector, so the range is one of sectors. -/
theorem Memory.SameOutside.byte (h : m.SameOutside lo hi m') (hlo : lo % 32 = 0) (hhi : hi % 32 = 0) (k : Nat) {x : Nat}
    (hx : x < lo ∨ hi ≤ x) : m'.byte k x = m.byte k x := by
  have hown (k y : Nat) (hy : y < lo ∨ hi ≤ y) : m'.own k y = m.own k y := by
    simp only [Memory.own, h.cells y hy, h.lost]
  have hsector (k : Nat) : m'.ownSector k (x / 32) = m.ownSector k (x / 32) :=
    List.map_congr_left fun i hi => hown k _ (by have := List.mem_range.mp hi; omega)
  simp only [Memory.byte, h.sect (x / 32) (by omega), h.lost, hown k x hx, hsector]

end

theorem Memory.cellsPut_sameOutside (m : Memory) {a lo hi : Nat} (b : List Byte) (hlo : lo ≤ a) (hhi : a + b.length ≤ hi) :
    m.SameOutside lo hi { m with cells := cellsPut m.cells a b } :=
  ⟨fun x hx => cellGet_puts_out _ _ _ _ (by omega), fun _ _ => rfl, rfl⟩

theorem Memory.putSector_sameOutside (m : Memory) {j lo hi : Nat} (x : Sector) (hlo : lo ≤ 32 * j) (hhi : 32 * j + 32 ≤ hi) :
    m.SameOutside lo hi { m with sect := tput m.sect j x } :=
  ⟨fun _ _ => rfl, fun i hi => tget_tput_ne _ _ (by omega), rfl⟩

/-- A write of HBM within one sector. -/
theorem Memory.writeHbm_sameOutside (m : Memory) (k : Nat) {a lo hi : Nat} {b : List Byte} (hb : a % 32 + b.length ≤ 32)
    (hlo : lo ≤ 32 * (a / 32)) (hhi : 32 * (a / 32) + 32 ≤ hi) : m.SameOutside lo hi (m.writeHbm k a b) := by
  have hput (m : Memory) : m.SameOutside lo hi { m with cells := cellsPut m.cells a b } :=
    m.cellsPut_sameOutside b (by omega) (by omega)
  have hfresh : m.SameOutside lo hi { m with cells := cellsPut m.cells a b, sect := tput m.sect (a / 32) ⟨k, false⟩ } :=
    (hput m).trans (Memory.putSector_sameOutside _ _ hlo hhi)
  unfold Memory.writeHbm
  dsimp only
  split
  · exact hfresh
  · split
    · exact hfresh
    · split
      · exact .refl lo hi m
      · split
        · exact hput m
        · have hread : (m.readHbm k (32 * (a / 32)) 32).length = 32 := by simp [Memory.readHbm]
          exact ((m.cellsPut_sameOutside _ hlo (by rw [hread]; omega)).trans (hput _)).trans (Memory.putSector_sameOutside _ _ hlo hhi)

theorem Memory.poison_sameOutside (m : Memory) (k : Nat) {a lo hi : Nat} (hlo : lo ≤ 32 * (a / 32)) (hhi : 32 * (a / 32) + 32 ≤ hi) :
    m.SameOutside lo hi (m.poison k a) := by
  unfold Memory.poison
  split
  · exact m.putSector_sameOutside _ hlo hhi
  · exact m.putSector_sameOutside _ hlo hhi

/-- The close of a skein entry writes its line only (R180). -/
theorem SkeinEntry.writeBack_sameOutside (e : SkeinEntry) (m : Memory) :
    m.SameOutside (128 * e.line) (128 * e.line + 128) (e.writeBack m) := by
  refine List.foldlRecOn (motive := fun m' => m.SameOutside (128 * e.line) (128 * e.line + 128) m') _ _ (.refl _ _ m) fun m' hm i hi => ?_
  have hi4 : i < 4 := List.mem_range.mp hi
  have hsector : (128 * e.line + 32 * i) % 32 = 0 ∧ 128 * e.line ≤ 32 * ((128 * e.line + 32 * i) / 32) ∧
      32 * ((128 * e.line + 32 * i) / 32) + 32 ≤ 128 * e.line + 128 := by omega
  obtain ⟨halign, hlo, hhi⟩ := hsector
  dsimp only
  have hwrite : m'.SameOutside (128 * e.line) (128 * e.line + 128) (if bit e.sects i then
      m'.writeHbm e.key (128 * e.line + 32 * i) ((e.closed.drop (32 * i)).take 32) else m') := by
    split
    · exact m'.writeHbm_sameOutside _ (by rw [halign, List.length_take]; omega) hlo hhi
    · exact .refl _ _ m'
  split
  · exact hm
  · split
    · exact (hm.trans hwrite).trans (Memory.poison_sameOutside _ _ hlo hhi)
    · exact hm.trans hwrite

/-! ### A close of a line's skein entry -/

variable {s : State} {k a line : Nat} {b : List Byte}

theorem State.skeinCloseLine_of_none (h : ∀ e ∈ s.skein, e.line ≠ line) : s.skeinCloseLine line = s := by
  have hnone : s.skein.find? (fun e => decide (e.line = line)) = none := by simpa using h
  simp only [State.skeinCloseLine, hnone]

theorem State.skeinCloseLine_skein (s : State) (line : Nat) : ∀ e ∈ (s.skeinCloseLine line).skein, e.line ≠ line := by
  unfold State.skeinCloseLine
  split
  next e he =>
    have hline : e.line = line := by simpa using List.find?_some he
    intro x hx
    have hkept : x.line ≠ e.line := by simpa using (List.mem_filter.mp hx).2
    exact hline ▸ hkept
  next hnone => simpa using hnone

/-- From `s` to `t` bytes of one line of HBM are stored, and besides the memory there change only what a wake writes (R28), skein entries
and reservations. -/
structure State.StoresIn (line : Nat) (s t : State) : Prop where
  frame : t = { s with regs := t.regs, mem := t.mem, skein := t.skein, resvs := t.resvs }
  mem : s.mem.SameOutside (128 * line) (128 * line + 128) t.mem

theorem State.StoresIn.refl (line : Nat) (s : State) : StoresIn line s s := ⟨rfl, .refl _ _ _⟩

theorem State.StoresIn.trans {s t u : State} (h : StoresIn line s t) (h' : StoresIn line t u) : StoresIn line s u :=
  ⟨h'.frame.trans (by rw [h.frame]), h.mem.trans h'.mem⟩

theorem State.StoresIn.wakeHbm (s : State) (line a : Nat) : StoresIn line s (s.wakeHbm a) := by
  obtain ⟨rs, hwake⟩ := s.wakeHbm_eq a
  rw [hwake]
  exact ⟨rfl, .refl _ _ _⟩

theorem State.StoresIn.skeinCloseLine (s : State) (line : Nat) : StoresIn line s (s.skeinCloseLine line) := by
  unfold State.skeinCloseLine
  split
  next e he =>
    have hline : e.line = line := by simpa using List.find?_some he
    exact ⟨rfl, hline ▸ e.writeBack_sameOutside s.mem⟩
  · exact .refl line s

/-! ### Writes of HBM -/

theorem region_eq_hbm_iff (a : Nat) : region a = .hbm ↔ a < 0x10000000000 := by
  refine ⟨not_imp_not.mp fun hge => ?_, fun h => if_pos h⟩
  rw [region, if_neg hge]
  simp only [ite_eq_iff, reduceCtorEq, and_false, or_self, not_false_eq_true]

theorem region_dscr_le {die off : Nat} : region a = .dscr die off → 0x800200000000 ≤ a := by
  refine not_imp_not.mp fun hge => ?_
  have hlt : a < 0x800200000000 := Nat.lt_of_not_le hge
  simp only [region, ite_eq_iff, reduceCtorEq, and_false, hlt, not_true, false_and, or_false, not_false_eq_true]

/-- The sectors of a line in HBM. -/
theorem region_sector {i : Nat} (h : region (128 * line) = .hbm) (hi : i < 4) : region (128 * line + 32 * i) = .hbm := by
  rw [region_eq_hbm_iff] at h ⊢
  omega

theorem State.hbmOos_congr {t : State} (hq : s.FldKept .HBM_G_STATUS_QUAD_ONLY t) (ho : s.FldKept .HBM_STK_STATUS_OUT_OF_SERVICE t)
    (hc : t.cfg = s.cfg) (a : Nat) : t.hbmOos a = s.hbmOos a := by
  have hloc : t.hbmLoc a = s.hbmLoc a := by
    simp only [State.hbmLoc, State.quadLocal, hq 0 (by decide), hc]
  have hstack := s.hbmLoc_fst_lt a
  simp only [State.hbmOos, hloc, ho _ (show (s.hbmLoc a).1 < 65536 by omega)]

theorem State.hbmOos_wakeHbm (s : State) (a x : Nat) : (s.wakeHbm a).hbmOos x = s.hbmOos x := by
  obtain ⟨rs, hw⟩ := s.wakeHbm_eq a
  exact State.hbmOos_congr ((State.FldKept.refl _ s).wakeHbm (by decide) a) ((State.FldKept.refl _ s).wakeHbm (by decide) a)
    (by rw [hw]; rfl) x

theorem State.pwrite_of_oos (hreg : region a = .hbm) (hout : s.hbmOos a = true) : (s.pwrite k a b).1 = s.wakeHbm a := by
  simp only [State.pwrite, hreg, State.hbmOos_wakeHbm, hout, if_true]

/-- A sector's bytes are stored under a key, and the reservations on the sector end (R90). -/
def State.storeSector (s : State) (k a : Nat) (b : List Byte) : State := { s.breakResv a with mem := s.mem.writeHbm k a b }

theorem State.storeSector_mem (s : State) (k a : Nat) (b : List Byte) : (s.storeSector k a b).mem = s.mem.writeHbm k a b := rfl
theorem State.storeSector_skein (s : State) (k a : Nat) (b : List Byte) : (s.storeSector k a b).skein = s.skein := rfl

theorem State.StoresIn.storeSector (s : State) (k : Nat) (hline : a / 128 = line) (hb : a % 32 + b.length ≤ 32) :
    StoresIn line s (s.storeSector k a b) := ⟨rfl, s.mem.writeHbm_sameOutside k hb (by omega) (by omega)⟩

theorem State.pwrite_of_in_service (hreg : region a = .hbm) (hin : s.hbmOos a = false) :
    (s.pwrite k a b).1 = ((s.wakeHbm a).skeinCloseLine (a / 128)).storeSector k a b := by
  simp only [State.pwrite, hreg, State.hbmOos_wakeHbm, hin, Bool.false_eq_true, if_false, State.storeSector]

theorem State.StoresIn.pwrite (s : State) (k : Nat) (hreg : region a = .hbm) (hline : a / 128 = line) (hb : a % 32 + b.length ≤ 32) :
    StoresIn line s (s.pwrite k a b).1 := by
  have hwake := StoresIn.wakeHbm s line a
  cases hout : s.hbmOos a with
  | true => rwa [State.pwrite_of_oos hreg hout]
  | false =>
    rw [State.pwrite_of_in_service hreg hout, hline]
    exact (hwake.trans (.skeinCloseLine _ line)).trans (.storeSector _ k hline hb)

theorem State.hbmOos_pwrite (s : State) (k : Nat) (hreg : region a = .hbm) (hb : a % 32 + b.length ≤ 32) (x : Nat) :
    (s.pwrite k a b).1.hbmOos x = s.hbmOos x :=
  State.hbmOos_congr ((State.FldKept.refl _ s).pwrite (by decide) k a b) ((State.FldKept.refl _ s).pwrite (by decide) k a b)
    (by rw [(StoresIn.pwrite s k hreg rfl hb).frame]; rfl) x

/-! ### A write of a line -/

/-- The bytes of a line's sector. -/
def sectorOf (d : List Byte) (i : Nat) : List Byte := (d.drop (32 * i)).take 32

theorem length_sectorOf_le (d : List Byte) (i : Nat) : (sectorOf d i).length ≤ 32 := by
  rw [sectorOf, List.length_take]
  omega

theorem length_sectorOf {d : List Byte} {i : Nat} (hd : d.length = 128) (hi : i < 4) : (sectorOf d i).length = 32 := by
  rw [sectorOf, List.length_take, List.length_drop]
  omega

theorem getElem?_sectorOf (d : List Byte) (i : Nat) {j : Nat} (hj : j < 32) : (sectorOf d i)[j]? = d[32 * i + j]? := by
  rw [sectorOf, List.getElem?_take_of_lt hj, List.getElem?_drop]

/-- The state after the first `n` sectors of a line are written. -/
def State.writeSectors (s : State) (key line : Nat) (d : List Byte) (n : Nat) : State :=
  (List.range n).foldl (fun s i => (s.pwrite key (128 * line + 32 * i) (sectorOf d i)).1) s

theorem State.writeSectors_succ (s : State) (key line : Nat) (d : List Byte) (n : Nat) :
    s.writeSectors key line d (n + 1) = ((s.writeSectors key line d n).pwrite key (128 * line + 32 * n) (sectorOf d n)).1 := by
  rw [State.writeSectors, List.range_succ, List.foldl_append]
  rfl

theorem State.writeLine_fst (s : State) (key line : Nat) (d : List Byte) : (s.writeLine key line d).1 = s.writeSectors key line d 4 := by
  refine (List.foldl_hom Prod.fst fun x i => ?_).symm
  split
  next hwrite =>
    have hfst := congrArg Prod.fst hwrite
    exact hfst

theorem State.MemOk.writeSectors {key : Nat} {d : List Byte} {n : Nat} (hwf : s.MemOk) : (s.writeSectors key line d n).MemOk :=
  hwf.foldl fun _ _ ht => ht.pwrite

section
variable {key : Nat} {d : List Byte} (hreg : region (128 * line) = .hbm)
include hreg

theorem State.StoresIn.writeSectors (s : State) (key : Nat) (d : List Byte) {n : Nat} (hn : n ≤ 4) :
    StoresIn line s (s.writeSectors key line d n) := by
  induction n with
  | zero => exact .refl line s
  | succ n ih =>
    have hlen := length_sectorOf_le d n
    rw [State.writeSectors_succ]
    exact (ih (by omega)).trans (.pwrite _ key (region_sector hreg (by omega)) (by omega) (by omega))

theorem State.hbmOos_writeSectors (s : State) (key : Nat) (d : List Byte) {n : Nat} (hn : n ≤ 4) (x : Nat) :
    (s.writeSectors key line d n).hbmOos x = s.hbmOos x := by
  induction n with
  | zero => rfl
  | succ n ih =>
    have hlen := length_sectorOf_le d n
    rw [State.writeSectors_succ, State.hbmOos_pwrite _ _ (region_sector hreg (by omega)) (by omega), ih (by omega)]

/-- A whole sector that is written reads as written; its line's skein entry is closed, and where there was none the line's other sectors
stay as they were. -/
theorem State.pwrite_sector (hwf : s.MemOk) {i : Nat} (hi : i < 4) (hin : s.hbmOos (128 * line + 32 * i) = false) (hb : b.length = 32) :
    (∀ e ∈ (s.pwrite key (128 * line + 32 * i) b).1.skein, e.line ≠ line) ∧
      (∀ j (hj : j < 32), (s.pwrite key (128 * line + 32 * i) b).1.mem.byte key (128 * line + 32 * i + j) = b[j]) ∧
      ((∀ e ∈ s.skein, e.line ≠ line) → ∀ x, x < 128 * line + 32 * i →
        (s.pwrite key (128 * line + 32 * i) b).1.mem.byte key x = s.mem.byte key x) := by
  have hline : (128 * line + 32 * i) / 128 = line := by omega
  have halign : (128 * line + 32 * i) % 32 = 0 := by omega
  rw [State.pwrite_of_in_service (region_sector hreg hi) hin, hline, State.storeSector_skein, State.storeSector_mem]
  refine ⟨State.skeinCloseLine_skein _ line, fun j hj => ?_, fun hskein x hx => ?_⟩
  · have hwf' : ((s.wakeHbm (128 * line + 32 * i)).skeinCloseLine line).MemOk := hwf.wakeHbm.skeinCloseLine
    have hread := (Memory.readHbm_writeHbm _ key _ b hwf' halign hb).1
    simpa [Memory.readHbm, hj, List.getElem?_eq_getElem (hb ▸ hj : j < b.length)] using congrArg (·[j]?) hread
  · obtain ⟨rs, hwake⟩ := s.wakeHbm_eq (128 * line + 32 * i)
    have hstill : (s.wakeHbm (128 * line + 32 * i)).skeinCloseLine line = s.wakeHbm (128 * line + 32 * i) :=
      State.skeinCloseLine_of_none (by rw [hwake]; exact hskein)
    have hsame := s.mem.writeHbm_sameOutside key (a := 128 * line + 32 * i) (b := b) (lo := 128 * line + 32 * i)
      (hi := 128 * line + 32 * i + 32) (by omega) (by omega) (by omega)
    rw [hstill, hwake]
    exact hsame.byte halign (by omega) key (.inl hx)

/-- The sectors of a line in service that have been written read as written. -/
theorem State.byte_writeSectors (hwf : s.MemOk) (hin : ∀ i, i < 4 → s.hbmOos (128 * line + 32 * i) = false)
    (hd : d.length = 128) {n : Nat} (hn : n ≤ 4) :
    (0 < n → ∀ e ∈ (s.writeSectors key line d n).skein, e.line ≠ line) ∧
      ∀ x, x < 32 * n → (s.writeSectors key line d n).mem.byte key (128 * line + x) = d.getD x 0 := by
  induction n with
  | zero => exact ⟨fun h => absurd h (by decide), fun x hx => absurd hx (by omega)⟩
  | succ n ih =>
    obtain ⟨hskein, hbytes⟩ := ih (by omega)
    have hin' : (s.writeSectors key line d n).hbmOos (128 * line + 32 * n) = false :=
      (State.hbmOos_writeSectors hreg s key d (by omega) _).trans (hin n (by omega))
    obtain ⟨hclosed, hnew, hold⟩ := State.pwrite_sector (key := key) hreg hwf.writeSectors (show n < 4 by omega) hin'
      (length_sectorOf hd (show n < 4 by omega))
    rw [State.writeSectors_succ]
    refine ⟨fun _ => hclosed, fun x hx => ?_⟩
    by_cases hlast : x < 32 * n
    · exact (hold (hskein (by omega)) _ (by omega)).trans (hbytes x hlast)
    · obtain ⟨j, rfl⟩ : ∃ j, x = 32 * n + j := ⟨x - 32 * n, by omega⟩
      have hj : j < 32 := by omega
      rw [← Nat.add_assoc, hnew j hj, List.getD_eq_getElem?_getD, ← getElem?_sectorOf d n hj]
      simp [length_sectorOf hd (show n < 4 by omega), hj]

end

theorem State.untrack_mem (s : State) (tag : Nat) : (s.untrack tag).mem = s.mem := rfl
theorem State.putDir_mem (s : State) (q : Nat) (e : DirEntry) : (s.putDir q e).mem = s.mem := rfl
theorem State.freeDir_mem (s : State) (q line : Nat) : (s.freeDir q line).mem = s.mem := rfl

/-- The request of a whole line without a hint. -/
def wholeLine (h : ReqHdr) (line : Nat) (d : List Byte) : Req := ⟨h, line, .wrLine d 0⟩

/-- Its entry, which waits for no answer. -/
def wholeLineEntry (h : ReqHdr) (line : Nat) (d : List Byte) : DirEntry :=
  { DirEntry.fresh line with busy := some ⟨some (wholeLine h line d), [], 0, false, false⟩ }

theorem State.perform_wholeLine (s : State) (q : Nat) (h : ReqHdr) (line : Nat) (d : List Byte) :
    (s.perform q (wholeLine h line d)).1 = s.writeSectors ((s.keyOf h.key).getD 0) (localLine line) d 4 :=
  s.writeLine_fst _ _ d

/-- 05.7: a whole line is written at its home and leaves the entry empty. -/
theorem State.finish_wholeLine (s : State) (q : Nat) (h : ReqHdr) (line : Nat) (d : List Byte) :
    s.finish q (wholeLineEntry h line d) ⟨some (wholeLine h line d), [], 0, false, false⟩ =
      ((s.perform q (wholeLine h line d)).1.untrack h.tag).putDir q (.fresh line) := rfl

/-- The request of a whole line has taken a tracker entry and begun at its bank. -/
def State.wholeLineBegun (s : State) (q : Nat) (h : ReqHdr) (line : Nat) (d : List Byte) (sectors : Nat) : State :=
  (s.track h line sectors).putDir q (wholeLineEntry h line d)

/-- Its four sectors are written at the home, under the request's key. -/
def State.wholeLineStored (s : State) (q : Nat) (h : ReqHdr) (line : Nat) (d : List Byte) (sectors : Nat) : State :=
  (s.wholeLineBegun q h line d sectors).writeSectors ((s.keyOf h.key).getD 0) (localLine line) d 4

theorem State.StoresIn.wholeLineStored (s : State) (q : Nat) (h : ReqHdr) {line : Nat} (d : List Byte) (sectors : Nat)
    (hreg : region (128 * localLine line) = .hbm) :
    StoresIn (localLine line) (s.wholeLineBegun q h line d sectors) (s.wholeLineStored q h line d sectors) :=
  .writeSectors hreg _ _ d (le_refl 4)

theorem State.finish_wholeLineBegun (s : State) (q : Nat) (h : ReqHdr) (line : Nat) (d : List Byte) (sectors : Nat) :
    (s.wholeLineBegun q h line d sectors).finish q (wholeLineEntry h line d) ⟨some (wholeLine h line d), [], 0, false, false⟩ =
      ((s.wholeLineStored q h line d sectors).untrack h.tag).putDir q (.fresh line) := by
  rw [State.finish_wholeLine, State.perform_wholeLine]
  rfl

section
variable {h : ReqHdr} {d : List Byte} {q : Nat} (sectors : Nat) (hbank : s.bank q = [])
include hbank

theorem State.bank_wholeLineBegun : (s.wholeLineBegun q h line d sectors).bank q = [wholeLineEntry h line d] := by
  have hempty : (s.track h line sectors).bank q = [] := hbank
  rw [State.wholeLineBegun, State.bank_putDir_same, hempty, List.filter_nil]

theorem State.arrive_wholeLine (hstalled : s.stalled q = []) :
    (s.track h line sectors).arrive q (wholeLine h line d) = s.wholeLineBegun q h line d sectors := by
  have hbegin : (s.track h line sectors).arrive q (wholeLine h line d) = _ := State.arrive_of_empty hbank hstalled
  rw [hbegin, State.begin_, wholeLine, State.snoopsFor_fresh_wrLine]
  rfl

/-- A write of a whole line of which its bank has no entry is performed at once, and its entry is freed again. -/
theorem State.requestServed_wholeLine (hq : q = s.homeOf line) (hstalled : s.stalled q = [])
    (hreg : region (128 * localLine line) = .hbm) :
    s.requestServed (wholeLine h line d) sectors =
      (((s.wholeLineStored q h line d sectors).untrack h.tag).putDir q (.fresh line)).freeDir q line := by
  have hone := State.bank_wholeLineBegun (h := h) (line := line) (d := d) sectors hbank
  have hfind : findDir ((s.wholeLineBegun q h line d sectors).bank q) line = some (wholeLineEntry h line d) := by
    rw [hone]
    exact findDir_cons_same (wholeLineEntry h line d) []
  rw [State.requestServed]
  change ((s.track h line sectors).arrive (s.homeOf line) (wholeLine h line d)).settleAll (s.homeOf line) line = _
  rw [← hq, State.arrive_wholeLine sectors hbank hstalled, State.settleAll_of_single hone rfl hstalled,
    State.settle_of_ready hfind rfl rfl, State.finish_wholeLineBegun, State.settle_of_idle (e := .fresh line) ?found rfl ?idle,
    State.settle_nil ?stalled]
  case found =>
    rw [State.bank_putDir_same]
    exact findDir_cons_same (.fresh line) _
  case idle => simp [DirEntry.idle, DirEntry.fresh]
  case stalled =>
    have hframe := (State.StoresIn.wholeLineStored s q h d sectors hreg).frame
    generalize s.wholeLineStored q h line d sectors = w at hframe
    rw [hframe]
    exact hstalled

end

/-! ### An atomic in die scratch (R89) -/

theorem length_leBytes (n v : Nat) : (leBytes n v).length = n := by
  induction n generalizing v with
  | zero => rfl
  | succ n ih => rw [leBytes, List.length_cons, ih]

theorem leNat_leBytes_mod (n v : Nat) : leNat (leBytes n v) = v % 2 ^ (8 * n) := by
  induction n generalizing v with
  | zero => exact (Nat.mod_one v).symm
  | succ n ih =>
    have hpow : 2 ^ (8 * (n + 1)) = 256 * 2 ^ (8 * n) := by rw [Nat.mul_add, Nat.pow_add, Nat.mul_comm]
    rw [leBytes, leNat, ih, BitVec.toNat_ofNat, hpow, Nat.mod_mul]

/-- What an atomic of `n` bytes stores. -/
def atomBytes (op : AtomOp) (n old x y : Nat) : List Byte := leBytes n (atomNew op n old x y % 2 ^ (8 * n))

/-- The state after bytes of die scratch are stored. -/
def State.storeScratch (s : State) (a : Nat) (b : List Byte) : State := { s.breakResv a with mem := s.mem.writePlain a b }

theorem State.atomicAt_dscr {die off n x y : Nat} (key : Nat) (op : AtomOp) (hreg : region a = .dscr die off)
    (hskein : ∀ e ∈ s.skein, e.line ≠ a / 128) :
    s.atomicAt key a op n x y =
      (s.storeScratch a (atomBytes op n (leNat (s.mem.readPlain a n)) x y), .ok (leNat (s.mem.readPlain a n))) := by
  simp only [State.atomicAt, State.skeinCloseLine_of_none hskein, State.pread, State.pwrite, hreg]
  rfl

theorem atomicReq_dscr {h : ReqHdr} {addr die off n : Nat} (op : AtomOp) (x y : W64) (hn : n = 4 ∨ n = 8) (ha : addr % n = 0)
    (haddr : a = addr % 2 ^ 48) (hreg : region a = .dscr die off) (hskein : ∀ e ∈ s.skein, e.line ≠ a / 128) :
    atomicReq h addr op n x y none s =
      (s.storeScratch a (atomBytes op n (leNat (s.mem.readPlain a n)) x.toNat y.toNat)).send
        { Msg.plain .complete 0x38 h.src (addr / 128) h with status := 0, old := w64 (leNat (s.mem.readPlain a n)) } := by
  subst haddr
  simp only [atomicReq, hn, ha, and_self, if_true, hreg, State.atomicAt_dscr 0 op hreg hskein]

/-- Settles O57: the sectors of the line are written and no others, and the atomic's word is. -/
theorem storesFrame : Obligations.StoresFrame := by
  refine ⟨fun s h line d q a htake hd hq hbank hstalled ha => ?line,
    fun s h addr op n x y a die o hn _ halign ha hreg hskein hwf => ?atomic⟩
  case line =>
    subst ha
    have hreg : region (128 * localLine line) = .hbm := htake.2.1
    have hserved : wrLine h line d 0 s = s.requestServed (wholeLine h line d) 15 :=
      (if_pos hd).trans (State.request_of_takesReq htake (.wrLine d 0) 15)
    have hmem : (s.requestServed (wholeLine h line d) 15).mem = (s.wholeLineStored q h line d 15).mem := by
      rw [State.requestServed_wholeLine 15 hbank hq hstalled hreg, State.freeDir_mem, State.putDir_mem, State.untrack_mem]
    refine ⟨_, next_congr hserved, fun k b hb => ?_, fun hwf hin i hi => ?_⟩
    all_goals rw [hmem]
    · have hsame := (State.StoresIn.wholeLineStored s q h d 15 hreg).mem
      exact ⟨hsame.byte (by omega) (by omega) k hb, hsame.plainByte hb⟩
    · have hwf' : (s.wholeLineBegun q h line d 15).MemOk := hwf
      exact (State.byte_writeSectors hreg hwf' hin hd (le_refl 4)).2 i hi
  case atomic =>
    have hlen := length_leBytes n (atomNew op n (leNat (s.mem.readPlain a n)) x.toNat y.toNat % 2 ^ (8 * n))
    refine ⟨_, next_congr (atomicReq_dscr op x y hn halign ha hreg hskein), ?_, rfl, fun b hb => ?_, fun k b hb => ?_⟩
    · have hread := s.mem.readPlain_writePlain a (atomBytes op n (leNat (s.mem.readPlain a n)) x.toNat y.toNat) hwf
      rw [atomBytes, hlen] at hread
      refine (congrArg leNat hread).trans ?_
      rw [leNat_leBytes_mod, Nat.mod_mod]
    · exact s.mem.plainByte_writePlain_out a b _ (by rw [atomBytes, hlen]; exact hb)
    · have hlow : b < 0x10000000000 := (region_eq_hbm_iff b).mp hb
      have hhigh := region_dscr_le hreg
      have hword : a % 32 + n ≤ 32 := by
        have hmod : a % n = 0 := by
          rw [ha]
          obtain rfl | rfl := hn <;> omega
        obtain rfl | rfl := hn <;> omega
      have hsame := s.mem.cellsPut_sameOutside (a := a) (lo := 32 * (a / 32)) (hi := 32 * (a / 32) + 32)
        (atomBytes op n (leNat (s.mem.readPlain a n)) x.toNat y.toNat) (by omega) (by rw [atomBytes, hlen]; omega)
      exact hsame.byte (by omega) (by omega) k (.inl (by omega))

end Sys2Proof.Machine
end

section
/-! FENCE, EVENT_POST and NOP of a queue (07.10). -/

namespace Sys2Proof.Machine

variable {s t : State} {c : Cmd} {id : Nat}

/-- A command that may run, and whose checks pass, ends with what its action answers. -/
theorem State.mayRun.runChecked_eq {op : Nat} {checks : State → List Byte → List (Bool × Nat)} (h : s.mayRun id op t c)
    (hchecks : checkStatus (checks t c.raw) = 0) (act : State → List Byte → State × Nat) :
    s.runCmd id op (checkedBody checks act) = (act t c.raw).1.ended id (act t c.raw).2 := by
  rw [h.runCmd_eq, checkedBody_of_pass hchecks]
  rfl

/-- R187. -/
theorem fenceBody_of_pass (h : checkStatus (fenceChecks s c.raw) = 0) :
    fenceBody s c = ((s.fenceScope c.ctx (bits (leAt c.raw 16 1) 1 0)).1, some (s.fenceScope c.ctx (bits (leAt c.raw 16 1) 1 0)).2) := by
  simp [fenceBody, h]

/-- Settles O3: the checks pass, so each command ends as its action says. -/
theorem queueControlComplete : Obligations.QueueControlComplete := by
  refine ⟨fun s id s0 c h hchecks => ?fence, fun s id s0 c h hchecks => congrArg Host.Outcome.next (h.runChecked_eq hchecks eventPostDo),
    fun s id s0 c h hchecks => congrArg Host.Outcome.next (h.runChecked_eq hchecks nopDo)⟩
  case fence =>
    have hrun := h.runCmd_eq fenceBody
    rw [fenceBody_of_pass hchecks] at hrun
    exact congrArg Host.Outcome.next hrun

end Sys2Proof.Machine
end

section
/-! The general cores under writes of memory, events and the fault log, which leave them as they are (04, 07.6, 13.1). -/

namespace Sys2Proof.Machine

/-! ### Writes of memory -/

theorem State.wakeHbm_cores (s : State) (a : Nat) : (s.wakeHbm a).cores = s.cores := by
  obtain ⟨rs, h⟩ := s.wakeHbm_eq a
  rw [h]

theorem State.skeinCloseLine_cores (s : State) (line : Nat) : (s.skeinCloseLine line).cores = s.cores := by
  unfold State.skeinCloseLine
  split <;> rfl

theorem State.pwrite_cores (s : State) (k a : Nat) (b : List Byte) : (s.pwrite k a b).1.cores = s.cores := by
  unfold State.pwrite
  split
  case h_1 =>
    dsimp only
    split
    · exact s.wakeHbm_cores a
    · exact ((s.wakeHbm a).skeinCloseLine_cores _).trans (s.wakeHbm_cores a)
  case h_2 =>
    dsimp only
    split <;> rfl
  all_goals rfl

theorem State.writePhys_cores (s : State) (w : Who) (slot a : Nat) (b : List Byte) : (s.writePhys w slot a b).1.cores = s.cores := by
  unfold State.writePhys
  refine List.foldlRecOn (motive := fun x : State × Bool => x.1.cores = s.cores) _ _ rfl fun x hx c _ => ?_
  dsimp only
  split
  · split
    · exact hx
    · exact (x.1.pwrite_cores _ _ _).trans hx
  · exact hx

theorem State.writeMasked_cores (s : State) (key line mask : Nat) (b : List Byte) : (s.writeMasked key line mask b).1.cores = s.cores :=
  List.foldlRecOn (motive := fun x : State × Nat => x.1.cores = s.cores) _ _ rfl fun x hx _ _ => (x.1.pwrite_cores _ _ _).trans hx

/-! ### Events (R230 to R232) -/

theorem State.sendMsix_cores (s : State) (f v : Nat) : (s.sendMsix f v).cores = s.cores := by
  obtain h | h | h := s.sendMsix_cases f v
  · rw [h]
  · rw [h]
  · rw [h, State.emit_cores]

theorem State.interrupt_cores (s : State) (q : Nat) : (s.interrupt q).cores = s.cores := by
  unfold State.interrupt
  split
  · rfl
  · exact State.sendMsix_cores _ _ _

theorem State.noteEntry_cores (s : State) (q : Nat) : (s.noteEntry q).cores = s.cores := by
  unfold State.noteEntry
  split
  · rfl
  · split
    · dsimp only
      split
      · exact State.interrupt_cores _ _
      · rfl
    · rfl

theorem State.ringPut_cores (s : State) (q : Nat) (entry : List Byte) : (s.ringPut q entry).1.cores = s.cores := by
  unfold State.ringPut
  split
  · rfl
  · rename_i x _
    have hput := s.writePhys_cores s.hubWho x.key (x.slotAddr x.tail) entry
    split <;> rename_i e
    · rwa [e] at hput
    · rwa [e] at hput

theorem State.putEvent_cores (s : State) (q code info : Nat) : (s.putEvent q code info).1.cores = s.cores := by
  unfold State.putEvent
  split
  · rfl
  · rename_i x _
    split
    · rfl
    · split
      · rfl
      · have hput := s.ringPut_cores q (eventEntry code info (phaseBit x.tail.toNat x.k) (b2n x.evtLost) s.time)
        split <;> rename_i e <;> rw [e] at hput
        · exact (State.noteEntry_cores _ _).trans hput
        · exact hput

theorem State.postEvent_cores (s : State) (q code info : Nat) : (s.postEvent q code info).cores = s.cores := by
  have hput := s.putEvent_cores q code info
  unfold State.postEvent
  split <;> rename_i e <;> rw [e] at hput
  · exact hput
  · split
    · exact hput
    · exact (State.putEvent_cores _ _ _ _).trans hput

/-! ### The fault log (R417) and write-backs (R99) -/

theorem State.addFault_cores (s : State) (cls detail status owner : Nat) (ctx : Option Nat) (tag addr : Nat) :
    (s.addFault cls detail status owner ctx tag addr).cores = s.cores := by
  unfold State.addFault
  dsimp only
  split <;> rfl

theorem State.logFault_cores (s : State) (cls detail status owner : Nat) (ctx : Option Nat) (tag addr : Nat) :
    (s.logFault cls detail status owner ctx tag addr).cores = s.cores := by
  have hadd := s.addFault_cores cls detail status owner ctx tag addr
  unfold State.logFault
  dsimp only
  split
  · exact (State.postEvent_cores _ _ _ _).trans hadd
  · exact hadd

theorem State.writeBackLine_cores (s : State) (l : L1Line) : (s.writeBackLine l).cores = s.cores := by
  have hwrite := s.writeMasked_cores ((s.keyOf l.key).getD 0) (localLine l.line) l.dirty l.bytes
  unfold State.writeBackLine
  dsimp only
  split
  · rfl
  · split <;> rename_i e <;> rw [e] at hwrite
    · exact hwrite
    · exact (State.logFault_cores _ _ _ _ _ _ _ _).trans hwrite

end Sys2Proof.Machine
end

section
/-! Fences of the general cores and the maintenance of their L1s (06.2, 03.6). -/

namespace Sys2Proof.Machine

variable {s t u : State} {x : Iss} {i : Issue}

/-! ### Fences (R187 to R189) -/

theorem fenceInstr_eq_next {scope : Nat} (h : s.mayIssue i [] [] t x) (hanswered : t.fenceOpen x scope = false) :
    fenceInstr i scope s = ((t.fenceScope x.c.ctx scope).1.launchStatus x.k (t.fenceScope x.c.ctx scope).2).next x id := by
  rw [fenceInstr, h.issue_eq]
  exact if_neg (by simp [hanswered])

/-! ### What maintenance leaves in a core (R103, R106, R107) -/

/-- The issue of an instruction changes its core's groups only. -/
theorem State.coreOf_next_same (s : State) (x : Iss) (f : Group → Group) :
    ∃ gs, (s.next x f).coreOf x.k = { s.coreOf x.k with groups := gs } := by
  rw [State.next, State.retire, State.modGroup, State.coreOf_modCore_same, State.coreOf_congr (s.countIssue_cores x)]
  exact ⟨_, rfl⟩

theorem State.next_l1 (s : State) (x : Iss) (f : Group → Group) : ((s.next x f).coreOf x.k).l1 = (s.coreOf x.k).l1 := by
  obtain ⟨gs, h⟩ := s.coreOf_next_same x f
  rw [h]

theorem State.next_lockN (s : State) (x : Iss) (f : Group → Group) : ((s.next x f).coreOf x.k).lockN = (s.coreOf x.k).lockN := by
  obtain ⟨gs, h⟩ := s.coreOf_next_same x f
  rw [h]

theorem State.next_lockCtx (s : State) (x : Iss) (f : Group → Group) :
    ((s.next x f).coreOf x.k).lockCtx = (s.coreOf x.k).lockCtx := by
  obtain ⟨gs, h⟩ := s.coreOf_next_same x f
  rw [h]

/-- An invalidate leaves no line that it covers. -/
theorem State.l1Drop_l1 (s : State) (k : Nat) (p : L1Line → Bool) (q : Nat → Bool) :
    ∀ l ∈ ((s.l1Drop k p q).coreOf k).l1, p l = false := by
  intro l hl
  rw [State.l1Drop, State.coreOf_modCore_same] at hl
  simpa using (List.mem_filter.mp hl).2

theorem State.l1LockDo_lock (s : State) (k n ctx : Nat) :
    ((s.l1LockDo k n ctx).coreOf k).lockN = n ∧ ((s.l1LockDo k n ctx).coreOf k).lockCtx = ctx := by
  unfold State.l1LockDo
  dsimp only
  rw [State.coreOf_modCore_same]
  exact ⟨rfl, rfl⟩

theorem Core.unlock_l1 (c : Core) : ∀ l ∈ c.unlock.l1, l.locked = false := by
  intro l hl
  simpa using (List.mem_filter.mp hl).2

/-! ### The instructions -/

/-- An invalidate completes where no fill that it covers is in flight (R107). -/
theorem State.invDone_of_returned {q : Nat → Bool} (h : s.coveredFills x.k q = false) : s.invDone x q = s.next x id :=
  if_neg (by simp [h])

theorem l1invAll_eq_next (h : s.mayIssue i [] [] t x)
    (hfills : (t.l1Drop x.k (fun l => !l.locked) fun _ => true).coveredFills x.k (fun _ => true) = false) :
    l1invAll i s = (t.l1Drop x.k (fun l => !l.locked) fun _ => true).next x id := by
  rw [l1invAll, h.issue_eq, State.invDone_of_returned hfills]

theorem l1inv_eq_next {ra rl : Nat} (h : s.mayIssue i (regRun ra 2 ++ regRun rl 2) [] t x)
    (hfills : (t.l1Drop x.k (fun l => inLines (t.laneLines x ra rl) l.line) (inLines (t.laneLines x ra rl))).coveredFills x.k
      (inLines (t.laneLines x ra rl)) = false) :
    l1inv i ra rl s =
      (t.l1Drop x.k (fun l => inLines (t.laneLines x ra rl) l.line) (inLines (t.laneLines x ra rl))).next x id := by
  rw [l1inv, h.issue_eq]
  exact State.invDone_of_returned hfills

theorem l1lock_eq_next {n : Nat} (h : s.mayIssue i [] [] t x) (hpos : 0 < n) (hmax : n ≤ 6) :
    l1lock i n s = (t.l1LockDo x.k n x.c.ctx).next x id := by
  have hways : ¬ (n = 0 ∨ 6 < n) := by omega
  rw [l1lock, if_neg hways, h.issue_eq]

/-- One lane of an L1PRE, after the lanes below it: nothing once one of them has faulted. -/
def l1PreStep (x : Iss) (rd ra rl : Nat) (y : State × Option (Nat × Nat × Nat)) (j : Nat) : State × Option (Nat × Nat × Nat) :=
  if y.2.isSome then y
  else
    match y.1.l1PreLane x j (x.regN j ra 8) (x.regN j rl 8) with
    | (s, m, none) => (s.modGroup x.k x.g.num fun g => g.land j rd 4 m, none)
    | (s, _, some f) => (s, some f)

/-- L1PRE after its last lane: the fault that a lane met, or the next instruction. -/
def l1PreEnd (x : Iss) (ra : Nat) (y : State × Option (Nat × Nat × Nat)) : State :=
  match y.2 with
  | some (f, st, va) => y.1.laneFault x f st (loadKind x (fun j => x.regN j ra 8) false) false va
  | none => y.1.next x id

theorem l1pre_eq_issue (i : Issue) (rd ra rl : Nat) (s : State) :
    l1pre i rd ra rl s = s.issue i (regRun ra 2 ++ regRun rl 2) [rd] fun s x =>
      l1PreEnd x ra ((laneList x.lanes).foldl (l1PreStep x rd ra rl) (s, none)) := rfl

theorem l1pre_eq_next {rd ra rl : Nat} (h : s.mayIssue i (regRun ra 2 ++ regRun rl 2) [rd] t x)
    (hlanes : (laneList x.lanes).foldl (l1PreStep x rd ra rl) (t, none) = (u, none)) : l1pre i rd ra rl s = u.next x id := by
  rw [l1pre_eq_issue, h.issue_eq, hlanes, l1PreEnd]

/-! ### Fills and the eviction buffer (R104, R105) -/

/-- Its data goes to the loads that wait for it, and the fill is no longer in flight. -/
def State.takeFill (s : State) (k : Nat) (f : Fill) : State :=
  s.modCore k fun c => { c with
    fills := c.fills.erase f, loads := c.loads.map fun l => { l with lanes := l.lanes.map fun y => y.take f } }

theorem l1FillReturn_eq_landLoads {die core line : Nat} {f : Fill}
    (h : (s.coreOf (32 * die + core)).fills.find? (fun f => decide (f.line = line) && f.ready) = some f) :
    l1FillReturn die core line s =
      (if f.covered then s.takeFill (32 * die + core) f
        else (s.takeFill (32 * die + core) f).l1Fill (32 * die + core) f).landLoads (32 * die + core) := by
  simp only [l1FillReturn, h]
  rfl

theorem State.drainEntry_evb (s : State) (k : Nat) (e : L1Line) : ((s.drainEntry k e).coreOf k).evb = (s.coreOf k).evb.erase e := by
  rw [State.drainEntry, State.coreOf_modCore_same, State.coreOf_congr (s.writeBackLine_cores e)]

theorem evictionDrain_evb {die core : Nat} {e : L1Line} {l : List L1Line} (h : (s.coreOf (32 * die + core)).evb = e :: l) :
    ((evictionDrain die core s).coreOf (32 * die + core)).evb = l := by
  have hdrain : evictionDrain die core s = s.drainEntry (32 * die + core) e := by simp only [evictionDrain, State.drainOldest, h]
  rw [hdrain, State.drainEntry_evb, h, List.erase_cons_head]

/-- Settles O30: each instruction ends as its own equation says; a drain writes memory, and the core loses its oldest entry only. -/
theorem fencesAndL1 : Obligations.FencesAndL1 := by
  refine ⟨fun s i t x h => ⟨fun ho => next_congr (fenceInstr_eq_next h ho), fun ho => next_congr (fenceInstr_eq_next h ho),
      fun ho => next_congr (fenceInstr_eq_next h ho), next_congr (h.issue_eq _), fun hf => ?invAll, fun n hpos hmax => ?lock, ?unlock⟩,
    fun s i ra rl t x h => ⟨next_congr (h.issue_eq _), fun hf => ?inv⟩,
    fun s i rd ra rl t x u h hlanes => next_congr (l1pre_eq_next h hlanes),
    fun s die core line f h => next_congr (l1FillReturn_eq_landLoads h),
    fun s die core e l h => ⟨_, rfl, evictionDrain_evb h⟩⟩
  case invAll =>
    refine ⟨_, next_congr (l1invAll_eq_next h hf), rfl, fun l hl => ?_⟩
    rw [State.next_l1] at hl
    simpa using State.l1Drop_l1 _ _ _ _ l hl
  case lock =>
    refine ⟨_, next_congr (l1lock_eq_next h hpos hmax), rfl, ?_⟩
    rw [State.next_lockN, State.next_lockCtx]
    exact State.l1LockDo_lock _ _ _ _
  case unlock =>
    refine ⟨_, next_congr (h.issue_eq _), rfl, ?_⟩
    rw [State.next_lockN, State.next_l1, State.coreOf_modCore_same]
    exact ⟨rfl, Core.unlock_l1 _⟩
  case inv =>
    refine ⟨_, next_congr (l1inv_eq_next h hf), fun l hl => ?_⟩
    rw [State.next_l1] at hl
    exact State.l1Drop_l1 _ _ _ _ l hl

end Sys2Proof.Machine
end

section
/-! Doorbells and interrupts of queues (07.3, 07.6). -/

namespace Sys2Proof.Machine

variable {s : State} {f q : Nat} {x : Queue} {index : W32}

/-! ### Doorbells (R220, R221) -/

/-- A submission queue takes INDEX as its TAIL, where it is new and the ring has room for it. -/
theorem State.doorbell_of_submission (hq : s.queue q = some x) (hf : x.func = f) (ht : x.typ = .cmd ∨ x.typ = .seq) (arm : Bool) :
    s.doorbell f q index arm =
      if (index - x.tail).toNat = 0 ∨ 2 ^ 31 ≤ (index - x.tail).toNat then s
      else if (index - x.head).toNat ≤ 2 ^ x.k then s.setQueue q { x with tail := index, subs := x.subs ++ [(index, s.time)] }
      else (s.setQueue q { x with dbBad := true }).postBoth x.ctx 0x0001 q := by
  obtain ht | ht := ht
  · simp only [State.doorbell, hq, hf, ht, State.badDoorbell, ne_eq, not_true_eq_false, if_false]
  · simp only [State.doorbell, hq, hf, ht, State.badDoorbell, ne_eq, not_true_eq_false, if_false]

/-- A queue that the package writes takes INDEX as its HEAD, where it is new and the entries are there; ARM counts in any case. -/
theorem State.doorbell_of_report (hq : s.queue q = some x) (hf : x.func = f) (ht : x.typ = .cpl ∨ x.typ = .evt) (arm : Bool) :
    s.doorbell f q index arm =
      if (index - x.head).toNat = 0 ∨ 2 ^ 31 ≤ (index - x.head).toNat then if arm then s.armQueue q else s
      else if (index - x.head).toNat ≤ x.count then
        if arm then (s.setQueue q { x with head := index }).armQueue q else s.setQueue q { x with head := index }
      else (s.setQueue q { x with dbBad := true }).postMgr 0x0001 q := by
  obtain ht | ht := ht
  · simp only [State.doorbell, hq, hf, ht, State.badDoorbell, ne_eq, not_true_eq_false, if_false]
  · simp only [State.doorbell, hq, hf, ht, State.badDoorbell, ne_eq, not_true_eq_false, if_false]

/-- A repeated INDEX, or one of a delayed write, is not new. -/
theorem W32.not_new {a b : W32} (h : a = b ∨ 2 ^ 31 ≤ (a - b).toNat) : (a - b).toNat = 0 ∨ 2 ^ 31 ≤ (a - b).toNat := by
  obtain rfl | h := h
  · exact .inl (by simp)
  · exact .inr h

theorem doorbellIndex_of_open {half : Half} (hh : half ≠ .high) (ho : s.doorbellsOpen = true) :
    doorbellIndex f q half index s = s.doorbell f q index false := by
  simp [doorbellIndex, hh, ho]

theorem doorbellArm_of_open (ho : s.doorbellsOpen = true) : doorbellArm f q index s = s.doorbell f q index true := if_pos ho

/-- The high half alone is ignored. -/
theorem doorbellIndex_high : doorbellIndex f q .high index s = s := if_pos (.inl rfl)

/-- A doorbell that changes nothing with its full write changes nothing. -/
theorem doorbellIndex_of_idle (ho : s.doorbellsOpen = true) (h : s.doorbell f q index false = s) (half : Half) :
    doorbellIndex f q half index s = s := by
  by_cases hh : half = .high
  · rw [hh, doorbellIndex_high]
  · rw [doorbellIndex_of_open hh ho, h]

/-! ### Arming (R231) -/

theorem State.sendMsix_queues (s : State) (f v : Nat) : (s.sendMsix f v).queues = s.queues := by
  obtain h | h | h := s.sendMsix_cases f v
  · rw [h]
  · rw [h]
  · rw [h, State.emit_queues]

/-- The queue once it is armed, and once its interrupt has been sent. -/
def Queue.arm (x : Queue) : Queue := { x with armed := true, sinceArm := 0, firstAt := none }
def Queue.disarm (x : Queue) : Queue := { x with armed := false, sinceArm := 0, firstAt := none }

theorem State.interrupt_of_queue (hq : s.queue q = some x) :
    s.interrupt q = (s.setQueue q x.disarm).sendMsix x.func x.vector := by
  simp only [State.interrupt, hq, Queue.disarm]

theorem State.queue_interrupt (hq : s.queue q = some x) : (s.interrupt q).queue q = some x.disarm := by
  rw [State.interrupt_of_queue hq, State.queue, State.sendMsix_queues]
  exact State.queue_setQueue_same _ _ _

/-- Unread entries interrupt at once. -/
theorem State.armQueue_of_queue (hq : s.queue q = some x) :
    s.armQueue q =
      if x.head = x.tail then s.setQueue q x.arm else ((s.setQueue q x.arm).setQueue q x.disarm).sendMsix x.func x.vector := by
  simp only [State.armQueue, hq]
  by_cases hempty : x.head = x.tail
  · simp only [hempty, ne_eq, not_true_eq_false, if_false, if_true, Queue.arm]
  · simp only [hempty, ne_eq, not_false_eq_true, if_true, if_false]
    exact State.interrupt_of_queue (x := x.arm) (State.queue_setQueue_same _ _ _)

theorem State.queue_armQueue (hq : s.queue q = some x) :
    (s.armQueue q).queue q = some (if x.head = x.tail then x.arm else x.disarm) := by
  rw [State.armQueue_of_queue hq]
  split
  · exact State.queue_setQueue_same _ _ _
  · rw [State.queue, State.sendMsix_queues]
    exact State.queue_setQueue_same _ _ _

/-- Settles O6: an open doorbell does what its queue's type says of a new INDEX; a foreign or a closed one does not reach the queue. -/
theorem doorbellRules : Obligations.DoorbellRules := by
  refine ⟨fun s f q index x hq hf ht ho => ?submission, fun s f q index x hq hf ht ho => ?report,
    fun s f q index hno ho => ?foreign, fun s f q half index hc => ?closed⟩
  case submission =>
    refine ⟨fun half hh hroom hnew hhalf => next_congr ?_, fun half hold => next_congr ?_, next_congr doorbellIndex_high,
      fun half hh hfull hnew hhalf => next_congr ?_⟩
    · change doorbellIndex f q half index s = _
      rw [doorbellIndex_of_open hh ho, State.doorbell_of_submission hq hf ht, if_neg (by omega), if_pos hroom]
    · refine doorbellIndex_of_idle ho ?_ half
      rw [State.doorbell_of_submission hq hf ht, if_pos (W32.not_new hold)]
    · change doorbellIndex f q half index s = _
      rw [doorbellIndex_of_open hh ho, State.doorbell_of_submission hq hf ht, if_neg (by omega), if_neg (by omega)]
  case report =>
    have harm : exec (.doorbellArm f q index) s = .next (s.doorbell f q index true) := next_congr (doorbellArm_of_open ho)
    refine ⟨fun hthere hnew hhalf => ⟨fun half hh => next_congr ?_, ?_⟩, fun hold => ⟨fun half => next_congr ?_, ?_⟩,
      fun hbeyond hhalf => ⟨fun half hh => next_congr ?_, harm.trans (next_congr ?_)⟩⟩
    · change doorbellIndex f q half index s = _
      rw [doorbellIndex_of_open hh ho, State.doorbell_of_report hq hf ht, if_neg (by omega), if_pos hthere]
      rfl
    · have hagain : exec (.doorbellArm f q index) (s.setQueue q { x with head := index }) =
          .next ((s.setQueue q { x with head := index }).armQueue q) := by
        refine next_congr ((doorbellArm_of_open (s := s.setQueue q { x with head := index }) ho).trans ?_)
        rw [State.doorbell_of_report (x := { x with head := index }) (State.queue_setQueue_same _ _ _) hf ht,
          if_pos (W32.not_new (.inl rfl)), if_pos rfl]
      rw [harm, hagain, State.doorbell_of_report hq hf ht, if_neg (by omega), if_pos hthere, if_pos rfl]
    · refine doorbellIndex_of_idle ho ?_ half
      rw [State.doorbell_of_report hq hf ht, if_pos (W32.not_new hold)]
      rfl
    · refine ⟨s.armQueue q, _, harm.trans (next_congr ?_), State.queue_armQueue hq, ?_⟩
      · rw [State.doorbell_of_report hq hf ht, if_pos (W32.not_new hold), if_pos rfl]
      · by_cases hempty : x.head = x.tail
        · simp [hempty, Queue.arm]
        · simp [hempty, Queue.disarm]
    · change doorbellIndex f q half index s = _
      rw [doorbellIndex_of_open hh ho, State.doorbell_of_report hq hf ht, if_neg (by omega), if_neg (by omega)]
    · rw [State.doorbell_of_report hq hf ht, if_neg (by omega), if_neg (by omega)]
  case foreign =>
    refine ⟨next_congr ?_, next_congr ?_⟩
    · exact (doorbellIndex_of_open (by decide) ho).trans (s.doorbell_foreign f q index false hno)
    · exact (doorbellIndex_of_open (by decide) ho).trans (s.doorbell_foreign f q index false hno)
  case closed =>
    exact ⟨next_congr (if_pos (.inr hc)), next_congr (if_pos (.inr hc)), next_congr (if_neg (by simp [hc]))⟩

/-! ### Interrupts (R231) -/

/-- The queue once an entry was written to it while it was armed. -/
def Queue.note (x : Queue) (now : W64) : Queue := { x with sinceArm := x.sinceArm + 1, firstAt := some (x.firstAt.getD now) }

theorem State.noteEntry_of_unarmed (hq : s.queue q = some x) (ha : x.armed = false) : s.noteEntry q = s := by
  simp [State.noteEntry, hq, ha]

theorem State.noteEntry_of_armed (hq : s.queue q = some x) (ha : x.armed = true) :
    s.noteEntry q = if max x.coalCount 1 ≤ x.sinceArm + 1 then (s.setQueue q (x.note s.time)).interrupt q
      else s.setQueue q (x.note s.time) := by
  simp only [State.noteEntry, hq]
  exact if_pos ha

theorem State.sendMsix_of_unmasked {v : Nat} (h : s.msixMasked f v = false) : s.sendMsix f v = s.emit (.msix f v) := by
  simp [State.sendMsix, h]

theorem interruptCoalTimeout_of_unarmed (hq : s.queue q = some x) (ha : x.armed = false) : interruptCoalTimeout q s = s := by
  simp only [interruptCoalTimeout, hq, ha]
  split
  · rfl
  · simp

/-- R242: one check of a parameter that fails decides the status. -/
theorem checkStatus_of_parameter {l : List (Bool × Nat)} (h : (true, 0x0102) ∈ l) : checkStatus l = 0x0102 := by
  have hany : l.any (fun c => c.1 && decide (c.2 = 0x0102)) = true := List.any_eq_true.mpr ⟨_, h, rfl⟩
  simp [checkStatus, hany]

/-- A CPL or EVT queue of QUEUE_CREATE names a vector of its function's table. -/
theorem queueCreateChecks_vector (s : State) {r : List Byte} (ht : leAt r 20 1 % 4 = 1 ∨ leAt r 20 1 % 4 = 3)
    (hv : vectorLimit (leAt r 21 1) ≤ leAt r 38 2) : (true, 0x0102) ∈ queueCreateChecks s r := by
  have htyp : bits (leAt r 20 1) 1 0 = leAt r 20 1 % 4 := by simp [bits]
  have hsub : (decide (leAt r 20 1 % 4 = 0) || decide (leAt r 20 1 % 4 = 2)) = false := by
    simp
    omega
  simp [queueCreateChecks, htyp, hsub, hv]

/-- Settles O7: arming and the entries written since decide when a queue interrupts; QUEUE_CREATE checks the vector. -/
theorem interruptRules : Obligations.InterruptRules := by
  refine ⟨fun s f q x hq hf ht ho => ?arm, fun s q x t hq ha hfirst hus hlate => ?coal,
    fun s q x hq ha => ⟨next_congr (interruptCoalTimeout_of_unarmed hq ha), State.noteEntry_of_unarmed hq ha⟩,
    fun s q x hq ha => ⟨fun hfew => ?few, fun henough => ?enough⟩, fun s r hop ht hv => ?vector⟩
  case arm =>
    refine next_congr ((doorbellArm_of_open ho).trans ?_)
    rw [State.doorbell_of_report hq hf ht, if_pos (W32.not_new (.inl rfl)), if_pos rfl]
    exact State.armQueue_of_queue hq
  case coal =>
    refine next_congr (Eq.trans ?_ (State.interrupt_of_queue hq))
    simp only [interruptCoalTimeout, hq, hfirst]
    exact if_pos ⟨ha, hus, hlate⟩
  case few =>
    rw [State.noteEntry_of_armed hq ha, if_neg (by omega)]
    exact ⟨rfl, rfl, _, State.queue_setQueue_same _ _ _, ha, rfl⟩
  case enough =>
    have hnoted : (s.setQueue q (x.note s.time)).queue q = some (x.note s.time) := State.queue_setQueue_same _ _ _
    rw [State.noteEntry_of_armed hq ha, if_pos (by omega)]
    refine ⟨_, State.queue_interrupt hnoted, rfl, fun hmask => ?_⟩
    rw [State.interrupt_of_queue hnoted]
    exact congrArg State.out (State.sendMsix_of_unmasked (s := (s.setQueue q _).setQueue q _) hmask)
  case vector =>
    have hchecks : s.opChecks r = queueCreateChecks s r := by simp only [State.opChecks, hop]
    rw [hchecks]
    exact checkStatus_of_parameter (queueCreateChecks_vector s ht hv)

end Sys2Proof.Machine
end

section
/-! Fetch from a CMD queue: what the command at HEAD comes to (07.11, 07.13). -/

namespace Sys2Proof.Machine

variable {s s1 : State} {q n : Nat} {x : Queue} {r : List Byte}

/-- The queue may be fetched from, and its command at HEAD is `r`, of `n` entries. -/
structure State.AtHead (s : State) (q : Nat) (x : Queue) (s1 : State) (r : List Byte) (n : Nat) : Prop where
  queue : s.queue q = some x
  typ : x.typ = .cmd
  fetching : s.fetching = true
  eligible : s.eligible q x = true
  turn : x.lc = true ∨ s.lcWaits x.panel = false
  entry : s.headEntry x = (s1, some r, n)
  covered : n ≠ 0

/-- The queue once a new command has been taken from it. -/
def Queue.taken (x : Queue) (r : List Byte) (n : Nat) : Queue :=
  { x.pass n with fetched := x.fetched + 1, dups := dupAdd x.dups (hTag r) none }

/-- The command is taken and rejected with a status. -/
def State.turnAway (s : State) (q : Nat) (x : Queue) (r : List Byte) (n st : Nat) : State :=
  (s.setQueue q (x.taken r n)).reject q x.func r st

/-- The tiles, beats and bytes that an LC command asks for (R244), none for another. -/
def State.lcDemand (s : State) (r : List Byte) : List Nat × Nat × Nat := if hLc r then s.lcWork r else ([], 0, 0)

/-- The promise to an LC command (R244), none for another. -/
def State.promise (s : State) (q : Nat) (x : Queue) (r : List Byte) : Option Frac :=
  if hLc r then s.lcFit q (s.cmdPanel x (hCtx r)) r (x.subTime x.head s.time) (s.lcDemand r) else none

namespace State.AtHead

variable (h : s.AtHead q x s1 r n)

include h

theorem gate_open : ¬ (x.typ ≠ .cmd ∨ ¬ s.fetching ∨ ¬ s.eligible q x ∨ (¬ x.lc ∧ s.lcWaits x.panel)) := by
  simpa [h.typ, h.fetching, h.eligible, Classical.or_iff_not_imp_left] using h.turn

/-- R247: a command whose TAG is remembered is a duplicate. -/
theorem commandFetch_duplicate {d : Dup} (hdup : x.dups.find? (fun d => decide (d.tag = w32 (hTag r))) = some d) :
    commandFetch q s = s1.duplicate q { x.pass n with fetched := x.fetched + 1 } (hCtx r) d := by
  obtain ⟨m, rfl⟩ := Nat.exists_eq_succ_of_ne_zero h.covered
  simp only [commandFetch, State.fetchOne, h.queue, if_neg h.gate_open, h.entry, hdup]

/-- R242: the checks of a new command, in their order. -/
theorem commandFetch_new (hnew : x.dups.find? (fun d => decide (d.tag = w32 (hTag r))) = none) :
    commandFetch q s = match opInfo (hOpcode r) with
      | none => s1.turnAway q x r n 0x0101
      | some i =>
        if i.priv ∧ x.func ≠ 0 then s1.turnAway q x r n 0x0105
        else if ¬ s1.contextOk x (hCtx r) then s1.turnAway q x r n 0x0106
        else if headerRangeBad i r x.head.toNat then s1.turnAway q x r n 0x0102
        else if checkStatus (s1.opChecks r) ≠ 0 then s1.turnAway q x r n (checkStatus (s1.opChecks r))
        else if hLc r ∧ (s1.promise q x r).isNone then s1.turnAway q x r n 0x0103
        else if ¬ s1.placeFree x (hCtx r) (hLc r) then s1.setQueue q { x with held := true }
        else (s1.setQueue q (x.taken r n)).takeIn q x r (x.subTime x.head s1.time) (s1.lcDemand r).1 (s1.promise q x r) := by
  obtain ⟨m, rfl⟩ := Nat.exists_eq_succ_of_ne_zero h.covered
  simp only [commandFetch, State.fetchOne, h.queue, if_neg h.gate_open, h.entry, hnew]
  rfl

end State.AtHead

/-! ### Admission -/

/-- The record of a command that is admitted. -/
def State.admitted (s : State) (q : Nat) (x : Queue) (r : List Byte) (tSub : W64) (tiles : List Nat) (twc : Option Frac) : Cmd := {
  id := s.nextCmd, q := q, row := none, raw := r, func := x.func, panel := s.cmdPanel x (hCtx r), ctx := hCtx r,
  epoch := s.committed, tSub := tSub, tAdm := s.time, tStart := s.time, twc := twc, phase := .waiting, status := 0, vaddr := 0,
  beats := 0, energy := 0, tiles := maskOf tiles, step := 0, spans := 0, fenceB := hFenceBefore r, fenceA := hFenceAfter r,
  landed := [] }

/-- A command without a promise stands in flight, and its admission is counted. -/
theorem State.takeIn_eq (s : State) (q : Nat) (x : Queue) (r : List Byte) (tSub : W64) (tiles : List Nat) :
    ∃ rs, s.takeIn q x r tSub tiles none =
      { s with regs := rs, cmds := tput s.cmds s.nextCmd (s.admitted q x r tSub tiles none), nextCmd := s.nextCmd + 1 } := by
  unfold State.takeIn State.noteBusy
  dsimp only
  generalize some (Attr.mk _ _ _ _) = a
  generalize (if hCls r = 15 then 10 else hCls r - 1) = i
  obtain ⟨rs, h⟩ := s.bump_eq unitSched i 1 a
  obtain ⟨rs', h'⟩ := ({ s with regs := rs } : State).bump_eq unitSched 12 1 a
  rw [h]
  split
  · exact ⟨rs', by rw [h']; rfl⟩
  · exact ⟨rs, rfl⟩

/-- Settles O8: no check of a new command fails and a place is free, so it is taken in. -/
theorem fetchAdmits : Obligations.FetchAdmits := by
  intro s q x s1 r n i hq ht hfetch helig hturn hentry hn hnew hop hpriv hctx hrange hchecks hlc hplace
  have h : s.AtHead q x s1 r n := ⟨hq, ht, hfetch, helig, hturn, hentry, hn⟩
  have hadmit : commandFetch q s =
      (s1.setQueue q (x.taken r n)).takeIn q x r (x.subTime x.head s1.time) (s1.lcDemand r).1 none := by
    rw [h.commandFetch_new hnew]
    have hpriv' : ¬ (i.priv = true ∧ x.func ≠ 0) := fun hp => hp.2 (hpriv hp.1)
    have hpromise : s1.promise q x r = none := by simp [State.promise, hlc]
    simp [hop, hpriv', hctx, hrange, hchecks, hlc, hplace, hpromise]
  obtain ⟨rs, htake⟩ := (s1.setQueue q (x.taken r n)).takeIn_eq q x r (x.subTime x.head s1.time) (s1.lcDemand r).1
  rw [htake] at hadmit
  refine ⟨_, _, next_congr hadmit, tget_tput_same _ _ _, rfl, rfl, rfl, rfl, rfl, rfl, rfl, rfl, fun id hid => ?_, ?_, rfl⟩
  · exact tget_tput_ne _ _ hid
  · exact State.queue_setQueue_same s1 q (x.taken r n)

/-! ### Rejection and duplicates -/

/-- Settles O9: the first check that fails turns the command away with its status. -/
theorem fetchRejects : Obligations.FetchRejects := by
  intro s q x s1 r n hq ht hfetch helig hturn hentry hn hnew away
  have h : s.AtHead q x s1 r n := ⟨hq, ht, hfetch, helig, hturn, hentry, hn⟩
  have hfetched : exec (.commandFetch q) s = _ := next_congr (h.commandFetch_new hnew)
  rw [hfetched]
  refine ⟨fun hop => by rw [hop]; rfl, fun i hop => ?_⟩
  simp only [hop]
  refine ⟨fun hp hf => next_congr (if_pos ⟨hp, hf⟩), fun hpriv => ?_⟩
  rw [if_neg fun hp => hp.2 (hpriv hp.1)]
  refine ⟨fun hctx => next_congr (if_pos (by simp [hctx])), fun hctx => ?_⟩
  rw [if_neg (by simp [hctx])]
  refine ⟨fun hrange => next_congr (if_pos hrange), fun hrange => ?_⟩
  rw [if_neg (by simp [hrange])]
  refine ⟨fun hbad => next_congr (if_pos hbad), fun hgood hlc hfit => next_congr ?_⟩
  have hpromise : s1.promise q x r = none := by simp [State.promise, State.lcDemand, hlc, hfit]
  rw [if_neg (not_not_intro hgood), if_pos ⟨hlc, by rw [hpromise]; rfl⟩]
  rfl

/-- Settles O10: the record of the original decides whether its copy is written now. -/
theorem duplicateFetch : Obligations.DuplicateFetch := by
  intro s q x s1 r n d hq ht hfetch helig hturn hentry hn hdup
  have h : s.AtHead q x s1 r n := ⟨hq, ht, hfetch, helig, hturn, hentry, hn⟩
  refine ⟨_, next_congr (h.commandFetch_duplicate hdup), fun rec hrec => ?_, fun hrec => ?_⟩
  · simp only [State.duplicate, hrec]
    rfl
  · simp only [State.duplicate, hrec]
    rfl

end Sys2Proof.Machine
end

section
/-! The frame of the rows that touch no memory (07.3, 07.15, 12.3, 14.6, 14.7): what each kind of them may write. -/

namespace Sys2Proof.Machine

-- As many lemmas below cite one another: each is elaborated when those it cites are done.
set_option Elab.async false

variable {s t u : State}

/-! ### What the register reads write (R5, R457) -/

theorem State.peek_eq (s : State) (f : Nat) (r : Reg) (i : Nat) : ∃ fr, (s.peek f r i).1 = { s with free := fr } := by
  unfold State.peek
  split
  · exact ⟨_, rfl⟩
  · exact ⟨_, rfl⟩

theorem State.eccLogPop_eq (s : State) (h : Nat) : ∃ rs hs, s.eccLogPop h = { s with regs := rs, hbms := hs } := by
  unfold State.eccLogPop
  dsimp only
  split
  · exact ⟨_, _, rfl⟩
  · exact ⟨_, _, rfl⟩

theorem State.repairLogNext_eq (s : State) (h : Nat) : ∃ hs, s.repairLogNext h = { s with hbms := hs } := by
  unfold State.repairLogNext
  dsimp only
  split
  · exact ⟨_, rfl⟩
  · exact ⟨_, rfl⟩

theorem State.readEffect_eq (s : State) (f : Nat) (r : Reg) (i : Nat) :
    ∃ rs hs fs, s.readEffect f r i = { s with regs := rs, hbms := hs, funcs := fs } := by
  unfold State.readEffect
  split
  · obtain ⟨rs, hs, h⟩ := s.eccLogPop_eq i
    exact ⟨rs, hs, _, h⟩
  · obtain ⟨hs, h⟩ := s.repairLogNext_eq i
    exact ⟨_, hs, _, h⟩
  · exact ⟨_, _, _, rfl⟩
  · split
    · exact ⟨_, _, _, rfl⟩
    · exact ⟨_, _, _, rfl⟩

theorem State.readReg_eq (s : State) (v : View) (r : Reg) (i : Nat) (k : Half) (al : Bool) :
    ∃ fr rs hs fs, (s.readReg v r i k al).1 = { s with free := fr, regs := rs, hbms := hs, funcs := fs } := by
  obtain ⟨fr, hpeek⟩ := s.peek_eq (viewFn v) r i
  unfold State.readReg
  dsimp only
  rw [hpeek]
  split
  · obtain ⟨rs, hs, fs, h⟩ := ({ s with free := fr } : State).readEffect_eq (viewFn v) r i
    exact ⟨_, rs, hs, fs, h⟩
  · exact ⟨_, _, _, _, rfl⟩

/-- A host read answers, and what it clears or pops is in registers, in a stack's logs or in a function's counts. -/
theorem State.hostRead_eq (s : State) (v : View) (r : Reg) (i : Nat) (k : Half) :
    ∃ fr o rs hs fs, s.hostRead v r i k = { s with free := fr, out := o, regs := rs, hbms := hs, funcs := fs } := by
  unfold State.hostRead
  split
  · obtain ⟨fr, rs, hs, fs, h⟩ := s.readReg_eq v r i k false
    dsimp only
    rw [h]
    exact ⟨_, _, _, _, _, rfl⟩
  · exact ⟨_, _, _, _, _, rfl⟩

/-- Each read row is a host read of a register. -/
theorem exec_readRow {c : Instr} (h : readRow c = true) (s : State) :
    ∃ v r i k, exec c s = .next (s.hostRead v r i k) := by
  unfold readRow at h
  split at h
  case h_22 => cases h
  all_goals exact ⟨_, _, _, _, rfl⟩

theorem readRow_frame {c : Instr} (h : readRow c = true) (e : exec c s = .next t) :
    ∃ fr o rs hs fs, t = { s with free := fr, out := o, regs := rs, hbms := hs, funcs := fs } := by
  obtain ⟨v, r, i, k, hread⟩ := exec_readRow h s
  obtain rfl : s.hostRead v r i k = t := Host.Outcome.next.inj (hread.symm.trans e)
  exact s.hostRead_eq v r i k

/-! ### What the mailbox writes (R400) -/

theorem State.sendMsix_eq (s : State) (f v : Nat) : ∃ o ps, s.sendMsix f v = { s with out := o, msixPend := ps } := by
  obtain h | h | h := s.sendMsix_cases f v
  · exact ⟨_, _, h⟩
  · exact ⟨_, _, h⟩
  · exact ⟨_, _, h⟩

/-- A mailbox write changes its own function, and sends a message at most. -/
theorem State.mbxWrite_frame (s : State) (f : Nat) (v : Func → MbxVerdict) (upd : Func → Func) (msg : Func → Option (Nat × Nat)) :
    ∃ o fs ps, s.mbxWrite f v upd msg = { s with out := o, funcs := fs, msixPend := ps } ∧
      ∀ g, g ≠ f → tget fs g = tget s.funcs g := by
  unfold State.mbxWrite
  split
  · exact ⟨_, _, _, rfl, fun _ _ => rfl⟩
  · split
    · exact ⟨_, _, _, rfl, fun _ _ => rfl⟩
    · exact ⟨_, _, _, rfl, fun g hg => tget_tmod_ne _ _ hg⟩
    · dsimp only
      split
      · rename_i a b _
        obtain ⟨o, ps, h⟩ := (s.modFunc f upd).sendMsix_eq a b
        exact ⟨o, _, ps, h, fun g hg => tget_tmod_ne _ _ hg⟩
      · exact ⟨_, _, _, rfl, fun g hg => tget_tmod_ne _ _ hg⟩

/-- The mailbox rows are four such writes. -/
theorem mbxRow_frame {f : Nat} {v : W32} (e : exec (.mbxM2tTail f v) s = .next t ∨ exec (.mbxM2tHead f v) s = .next t ∨
    exec (.mbxT2mTail f v) s = .next t ∨ exec (.mbxT2mHead f v) s = .next t) :
    ∃ o fs ps, t = { s with out := o, funcs := fs, msixPend := ps } ∧ ∀ g, g ≠ f → tget fs g = tget s.funcs g := by
  obtain e | e | e | e := e <;> cases e <;> exact s.mbxWrite_frame f _ _ _

/-! ### What the debug unit writes (R461, R462) -/

/-- A change of core `k` and of `DBG_STATUS`. -/
structure State.DebugOnly (k : Nat) (s t : State) : Prop where
  frame : ∃ rs cs, t = { s with regs := rs, cores := cs }
  cores : ∀ j, j ≠ k → t.coreOf j = s.coreOf j
  regs : ∀ r i, i < 65536 → r ≠ .DBG_STATUS → t.reg r i = s.reg r i

namespace State.DebugOnly

variable {k : Nat}

theorem refl (k : Nat) (s : State) : DebugOnly k s s := ⟨⟨_, _, rfl⟩, fun _ _ => rfl, fun _ _ _ _ => rfl⟩

theorem modCore (h : DebugOnly k s t) (f : Core → Core) : DebugOnly k s (t.modCore k f) := by
  obtain ⟨⟨rs, cs, rfl⟩, hcores, hregs⟩ := h
  exact ⟨⟨_, _, rfl⟩, fun j hj => (State.coreOf_modCore_ne _ f hj).trans (hcores j hj), hregs⟩

theorem modGroup (h : DebugOnly k s t) (n : Nat) (f : Group → Group) : DebugOnly k s (t.modGroup k n f) := h.modCore _

theorem refuseDebug (h : DebugOnly k s t) : DebugOnly k s t.refuseDebug := by
  obtain ⟨⟨rs, cs, rfl⟩, hcores, hregs⟩ := h
  refine ⟨⟨_, _, rfl⟩, hcores, fun r i hi hr => Eq.trans ?_ (hregs r i hi hr)⟩
  exact State.reg_setReg_ne _ _ _ _ _ _ (mt Reg.ctorIdx_inj hr) (by decide) hi

theorem haltOne (h : DebugOnly k s t) (g : Group) : DebugOnly k s (t.haltOne k g) := by
  unfold State.haltOne
  split
  · exact h
  · split
    · exact h.modGroup _ _
    · exact h.modGroup _ _

variable {die core : Nat}

theorem dbgHaltGroup (h : DebugOnly (32 * die + core) s t) (group : Nat) :
    DebugOnly (32 * die + core) s (dbgHaltGroup die core group t) := by
  unfold Machine.dbgHaltGroup
  dsimp only
  split
  · exact h.refuseDebug
  · split
    · exact h.refuseDebug
    · exact h.haltOne _

theorem dbgResumeGroup (h : DebugOnly (32 * die + core) s t) (group : Nat) :
    DebugOnly (32 * die + core) s (dbgResumeGroup die core group t) := by
  unfold Machine.dbgResumeGroup
  dsimp only
  split
  · exact h.refuseDebug
  · exact h.modGroup _ _

theorem dbgStepGroup (h : DebugOnly (32 * die + core) s t) (group : Nat) :
    DebugOnly (32 * die + core) s (dbgStepGroup die core group t) := by
  unfold Machine.dbgStepGroup
  dsimp only
  split
  · exact h.refuseDebug
  · split
    · exact h.refuseDebug
    · exact h.modGroup _ _

theorem dbgHaltCore (h : DebugOnly (32 * die + core) s t) : DebugOnly (32 * die + core) s (dbgHaltCore die core t) := by
  unfold Machine.dbgHaltCore
  dsimp only
  split
  · exact h.refuseDebug
  · exact (List.foldlRecOn (motive := fun u => DebugOnly (32 * die + core) s u) _ _ h fun _ hu g _ => hu.haltOne g).modCore _

theorem dbgResumeCore (h : DebugOnly (32 * die + core) s t) : DebugOnly (32 * die + core) s (dbgResumeCore die core t) := by
  unfold Machine.dbgResumeCore
  split
  · exact h.modCore _
  · exact h.refuseDebug

end State.DebugOnly

theorem dbgRow_frame {die core group : Nat} (e : exec (.dbgHaltGroup die core group) s = .next t ∨
    exec (.dbgResumeGroup die core group) s = .next t ∨ exec (.dbgStepGroup die core group) s = .next t ∨
    exec (.dbgHaltCore die core) s = .next t ∨ exec (.dbgResumeCore die core) s = .next t) : s.DebugOnly (32 * die + core) t := by
  have h := State.DebugOnly.refl (32 * die + core) s
  obtain e | e | e | e | e := e <;> cases e
  · exact h.dbgHaltGroup group
  · exact h.dbgResumeGroup group
  · exact h.dbgStepGroup group
  · exact h.dbgHaltCore
  · exact h.dbgResumeCore

/-! ### What the test port writes (R459) -/

theorem State.tapShift_eq (s : State) (code : Nat) : ∃ fr, (s.tapShift code).1 = { s with free := fr } := by
  unfold State.tapShift
  split
  all_goals exact ⟨_, rfl⟩

theorem State.tapLoad_eq (s : State) (code : Byte) : ∃ fr o p, s.tapLoad code = { s with free := fr, out := o, tap := p } := by
  obtain ⟨fr, h⟩ := s.tapShift_eq code.toNat
  unfold State.tapLoad
  dsimp only
  rw [h]
  exact ⟨_, _, _, rfl⟩

theorem State.tapPins_eq (s : State) (code : Byte) : ∃ fr o p, s.tapPins code = { s with free := fr, out := o, tap := p } := by
  unfold State.tapPins
  split
  · exact s.tapLoad_eq code
  · exact ⟨_, _, _, rfl⟩

theorem tapSamplePreload_eq (v : W64) (s : State) :
    ∃ fr o p, tapSamplePreload v s = { s with free := fr, out := o, tap := p } := by
  obtain ⟨fr, o, p, h⟩ := s.tapLoad_eq 0x02
  unfold tapSamplePreload
  dsimp only
  rw [h]
  exact ⟨_, _, _, rfl⟩

theorem tapBypass_eq (code : Byte) (s : State) : ∃ fr o p, tapBypass code s = { s with free := fr, out := o, tap := p } := by
  unfold tapBypass
  split
  · exact ⟨_, _, _, rfl⟩
  · exact s.tapLoad_eq code

theorem tapRow_frame {c : Instr} (hc : c ∈ [Instr.tapExtest, .tapIdcode, .tapClamp, .tapHighz, .tapDap, .tapReset] ∨
    (∃ v, c = .tapSamplePreload v) ∨ ∃ k, c = .tapBypass k) (e : exec c s = .next t) :
    ∃ fr o p, t = { s with free := fr, out := o, tap := p } := by
  simp only [List.mem_cons, List.not_mem_nil, or_false] at hc
  obtain (rfl | rfl | rfl | rfl | rfl | rfl) | ⟨v, rfl⟩ | ⟨k, rfl⟩ := hc <;> cases e
  · exact s.tapPins_eq _
  · exact s.tapLoad_eq _
  · exact s.tapPins_eq _
  · exact s.tapPins_eq _
  · exact s.tapLoad_eq _
  · exact s.tapLoad_eq _
  · exact tapSamplePreload_eq v s
  · exact tapBypass_eq k s

/-! ### What every quiet row leaves alone -/

/-- Memory and its keys, the contexts and panels, the caches, directories and translations, the fault log, and the settings. -/
def State.quietPart (s : State) :=
  (s.mem, s.keys, s.keyNext, s.blobs, s.ctxs, s.slices, s.dirs, s.net, s.tlbs, s.walks, s.faultLog, s.fltTail, s.panels, s.epochs,
    s.committed, s.applied, s.flash, s.fuses, s.boot, s.marks, s.routes, s.pending, s.nextCmd)

def State.Quiet (s t : State) : Prop := t.quietPart = s.quietPart

namespace State.Quiet

theorem refl (s : State) : s.Quiet s := rfl

/-- An update of other fields. -/
theorem update (hq : s.Quiet t) (e : u.quietPart = t.quietPart := by rfl) : s.Quiet u := e.trans hq

theorem ite {p : Prop} [Decidable p] (ht : s.Quiet t) (hu : s.Quiet u) : s.Quiet (if p then t else u) := by
  split
  · exact ht
  · exact hu

theorem foldl {α : Type} {f : State → α → State} {l : List α} (hq : s.Quiet t) (hf : ∀ u a, s.Quiet u → s.Quiet (f u a)) :
    s.Quiet (l.foldl f t) := List.foldlRecOn l f hq fun u hu a _ => hf u a hu

theorem of_next (hq : s.Quiet t) (e : (.next t : Host.Outcome State Fault Refusal) = .next u) : s.Quiet u := by
  cases e
  exact hq

theorem setFld (hq : s.Quiet t) {f : Fld} {i v : Nat} : s.Quiet (t.setFld f i v) := hq.update

theorem incFld (hq : s.Quiet t) {f : Fld} {i n : Nat} : s.Quiet (t.incFld f i n) := hq.setFld

theorem setStack (hq : s.Quiet t) {h : Nat} {x : Stack} : s.Quiet (t.setStack h x) := hq.update

theorem setLink (hq : s.Quiet t) {l : Nat} {x : LinkSt} : s.Quiet (t.setLink l x) := hq.update

theorem emit (hq : s.Quiet t) {o : Out} : s.Quiet (t.emit o) := hq.update

theorem setReg (hq : s.Quiet t) {r : Reg} {i v : Nat} : s.Quiet (t.setReg r i v) := hq.update

theorem modPwr (hq : s.Quiet t) {f : Pwr → Pwr} : s.Quiet (t.modPwr f) := hq.update

theorem time (hq : s.Quiet t) {v : W64} : s.Quiet { t with time := v } := hq

theorem timebase (hq : s.Quiet t) {b : Timebase} : s.Quiet { t with timebase := b } := hq

theorem pins (hq : s.Quiet t) {p : Pins} : s.Quiet { t with pins := p } := hq

/-! Counting, interrupts, the power controller and the pins -/

theorem bump (hq : s.Quiet t) {v i n : Nat} {a : Option Attr} : s.Quiet (t.bump v i n a) := by
  obtain ⟨rs, h⟩ := t.bump_eq v i n a
  rw [h]
  exact hq

theorem sendMsix (hq : s.Quiet t) {f v : Nat} : s.Quiet (t.sendMsix f v) := by
  obtain ⟨o, ps, h⟩ := t.sendMsix_eq f v
  rw [h]
  exact hq

theorem interrupt (hq : s.Quiet t) {q : Nat} : s.Quiet (t.interrupt q) := by
  unfold State.interrupt
  split
  · exact hq
  · exact State.Quiet.sendMsix hq.update

theorem updateShed (hq : s.Quiet t) : s.Quiet t.updateShed :=
  hq.setFld.setFld.modPwr.bump.ite (hq.setFld.setFld.modPwr.ite hq.setFld.setFld)

theorem setAlert (hq : s.Quiet t) {f : Fld} {on : Bool} : s.Quiet (t.setAlert f on) := ite hq.update hq.update

/-! Row repairs and tiles -/

theorem repairCmd (hq : s.Quiet t) {h op pc bank row : Nat} : s.Quiet (t.repairCmd h op pc bank row) := by
  refine ite hq.setFld ?_
  split
  · exact ite hq.setFld hq.setStack.setFld.setFld.setStack.incFld.setFld
  · exact ite hq.setFld (ite hq.setFld (ite hq.setFld hq.setStack.setFld.setFld))
  · exact hq.setStack.setFld.setFld
  · exact hq

theorem requestStop (hq : s.Quiet t) {n : Nat} {lc quantum rebind freeze : Bool} : s.Quiet (t.requestStop n lc quantum rebind freeze) := by
  unfold State.requestStop
  dsimp only
  split
  · exact hq
  · exact hq.update
  · exact hq.update

theorem rowCommandFault (hq : s.Quiet t) {p id : Nat} : s.Quiet (rowCommandFault p id t) := by
  unfold Machine.rowCommandFault
  split
  · exact hq
  · split
    · exact hq
    · split
      · exact hq
      · exact hq.update

theorem preemptStopDone (hq : s.Quiet t) {n : Nat} : s.Quiet (preemptStopDone n t) := by
  unfold Machine.preemptStopDone
  dsimp only
  split
  · exact ite hq.update hq
  · exact hq

theorem quantumEnd (hq : s.Quiet t) {n : Nat} : s.Quiet (quantumEnd n t) := by
  unfold Machine.quantumEnd
  dsimp only
  split
  · exact ite hq.requestStop hq
  · exact hq

/-! Launches and halts -/

theorem placeBlock (hq : s.Quiet t) {k b : Nat} {c : Cmd} : s.Quiet (t.placeBlock k c b) := hq.update

theorem blockStart (hq : s.Quiet t) {id die core : Nat} : s.Quiet (blockStart id die core t) := by
  unfold Machine.blockStart
  dsimp only
  split
  · exact ite (placeBlock (ite hq.update hq)) hq
  · exact hq

theorem parkTimeout (hq : s.Quiet t) {id block group : Nat} : s.Quiet (parkTimeout id block group t) := by
  unfold Machine.parkTimeout
  split
  · exact ite hq.update hq
  · exact hq

theorem launchOverrun (hq : s.Quiet t) {id die core : Nat} : s.Quiet (launchOverrun id die core t) := by
  unfold Machine.launchOverrun
  dsimp only
  split
  · split
    · exact ite hq.update hq
    · exact hq
  · exact hq

theorem haltDeferTimeout (hq : s.Quiet t) {die core group : Nat} : s.Quiet (haltDeferTimeout die core group t) := by
  unfold Machine.haltDeferTimeout
  dsimp only
  split
  · exact hq
  · split
    · exact hq
    · exact ite hq.update hq

/-! Links and package time -/

theorem noteLeft (hq : s.Quiet t) {m : LinkMsg} : s.Quiet (t.noteLeft m) := ite hq.update hq

theorem transmit (hq : s.Quiet t) {l : Nat} {m : LinkMsg} : s.Quiet (t.transmit l m) := hq.bump.noteLeft.setLink.emit

theorem drainLink (hq : s.Quiet t) {n l : Nat} : s.Quiet (State.drainLink n t l) := by
  induction n generalizing t with
  | zero => exact hq
  | succ n ih =>
    unfold State.drainLink
    split
    · exact hq
    · exact ih (transmit hq.update)

theorem enqueue (hq : s.Quiet t) {l rank : Nat} {m : LinkMsg} : s.Quiet (t.enqueue l rank m) :=
  ite (drainLink hq.update) hq.update

theorem answer (hq : s.Quiet t) {m : LinkMsg} : s.Quiet (t.answer m) := by
  unfold State.answer State.inject
  split
  · exact hq.update
  · exact hq.enqueue

theorem replayAll (hq : s.Quiet t) {l : Nat} : s.Quiet (t.replayAll l) :=
  ite hq (foldl (bump hq.update) fun _ _ hu => hu.update)

theorem finalTimeout (hq : s.Quiet t) {pkg ctx stream : Nat} : s.Quiet (finalTimeout pkg ctx stream t) := by
  unfold Machine.finalTimeout
  split
  · exact hq
  · exact ite (foldl hq.update fun _ _ hu => hu.answer) hq

theorem chooseParent (hq : s.Quiet t) : s.Quiet t.chooseParent := by
  have hshown {v : Nat} : s.Quiet ((if t.fld .TMB_CTL_ROOT 0 = 1 ∧ ¬ t.isRoot then t.setFld .TMB_STATUS_ROOT_CONFLICT 0 1
    else t).setFld .TMB_STATUS_ROOT_ACTIVE 0 v) := (ite hq.setFld hq).setFld
  unfold State.chooseParent
  dsimp only
  split
  · exact hshown.setFld.setFld.setFld.timebase
  · split
    · exact hshown.setFld.setFld.setFld.timebase
    · exact hshown.setFld.setFld.setFld.timebase

theorem nakResend (hq : s.Quiet t) {l : Nat} : s.Quiet (nakResend l t) := by
  unfold Machine.nakResend
  split
  · exact hq
  · exact ite hq.update hq

theorem ctlRefused (hq : s.Quiet t) {tag : Nat} : s.Quiet (ctlRefused tag t) := by
  unfold Machine.ctlRefused
  split
  · exact hq
  · exact hq.update

theorem timeRelock (hq : s.Quiet t) : s.Quiet (timeRelock t) := by
  unfold Machine.timeRelock
  split
  · exact ite hq.update hq
  · exact hq

theorem ppsEdge (hq : s.Quiet t) {highNs : Nat} : s.Quiet (ppsEdge highNs t) := by
  unfold Machine.ppsEdge
  extract_lets _ v _ root stepped
  have hroot : s.Quiet root := hq.timebase
  have hstepped : s.Quiet stepped := ite (ite hroot.time hroot) hq
  exact ite hq.incFld hstepped.setReg.pins

/-! The rest -/

theorem interruptCoalTimeout (hq : s.Quiet t) {q : Nat} : s.Quiet (interruptCoalTimeout q t) := by
  unfold Machine.interruptCoalTimeout
  split
  · exact hq
  · split
    · exact hq
    · exact ite hq.interrupt hq

theorem waitTimeout (hq : s.Quiet t) {id : Nat} : s.Quiet (waitTimeout id t) := by
  unfold Machine.waitTimeout
  split
  · exact ite hq.update hq
  · exact hq

theorem clockHoldoverExit (hq : s.Quiet t) : s.Quiet (clockHoldoverExit t) :=
  ite (hq.setFld.pins (p := { t.pins with refBad := false })).setAlert hq

theorem bwWindow (hq : s.Quiet t) : s.Quiet (bwWindow t) := ite (foldl hq.update fun _ _ hu => hu.update) hq

theorem droopResponse (hq : s.Quiet t) {die lateBeats : Nat} : s.Quiet (droopResponse die lateBeats t) :=
  ite (modPwr (bump (bump hq.incFld.incFld))) hq

theorem shedNAssert (hq : s.Quiet t) {stableNs : Nat} : s.Quiet (shedNAssert stableNs t) := ite hq.incFld hq.modPwr.setFld.updateShed

theorem shedNDeassert (hq : s.Quiet t) {stableNs : Nat} : s.Quiet (shedNDeassert stableNs t) :=
  ite hq.incFld (ite (ite hq.modPwr.setFld.updateShed hq.modPwr.modPwr) hq)

theorem dbgRegRead (hq : s.Quiet t) : s.Quiet t.dbgRegRead.2 := by
  unfold State.dbgRegRead
  split
  · exact hq
  · exact hq.update

theorem dbgRegAccess (hq : s.Quiet t) {wr : Bool} {v : W32} : s.Quiet (dbgRegAccess wr v t) := by
  unfold Machine.dbgRegAccess
  split
  · unfold State.dbgRegWrite
    split
    · exact hq.update
    · exact hq.setFld
  · exact emit hq.dbgRegRead

theorem dbgStepGo (hq : s.Quiet t) {n : Nat} : s.Quiet (dbgStepGo n t) := by
  unfold Machine.dbgStepGo
  split
  · exact ite hq.update hq
  · exact hq

theorem fleetKeySet (hq : s.Quiet t) {key : BitVec 256} {sessionOk : Bool} : s.Quiet (fleetKeySet key sessionOk t) :=
  ite hq.update (ite hq.update hq.update)

theorem pldmGetSensor (hq : s.Quiet t) {sid : Nat} : s.Quiet (pldmGetSensor sid t) := by
  unfold Machine.pldmGetSensor
  split
  · split
    · exact hq.emit
    · exact hq.update
  · exact hq

theorem atsInvalidation (hq : s.Quiet t) {f : Nat} {va : W64} {len : Nat} : s.Quiet (atsInvalidation f va len t) := by
  unfold Machine.atsInvalidation
  split
  · exact ite hq.emit hq
  · exact hq

theorem of_readRow {c : Instr} (h : readRow c = true) (e : exec c s = .next t) : s.Quiet t := by
  obtain ⟨fr, o, rs, hs, fs, rfl⟩ := readRow_frame h e
  rfl

theorem of_mbxRow {f : Nat} {v : W32} (e : exec (.mbxM2tTail f v) s = .next t ∨ exec (.mbxM2tHead f v) s = .next t ∨
    exec (.mbxT2mTail f v) s = .next t ∨ exec (.mbxT2mHead f v) s = .next t) : s.Quiet t := by
  obtain ⟨o, fs, ps, rfl, -⟩ := mbxRow_frame e
  rfl

theorem of_debugOnly {k : Nat} (h : s.DebugOnly k t) : s.Quiet t := by
  obtain ⟨⟨rs, cs, rfl⟩, -, -⟩ := h
  rfl

theorem of_tapRow {c : Instr} (hc : c ∈ [Instr.tapExtest, .tapIdcode, .tapClamp, .tapHighz, .tapDap, .tapReset] ∨
    (∃ v, c = .tapSamplePreload v) ∨ ∃ k, c = .tapBypass k) (e : exec c s = .next t) : s.Quiet t := by
  obtain ⟨fr, o, p, rfl⟩ := tapRow_frame hc e
  rfl

end State.Quiet

/-- Every quiet row leaves the quiet part alone. -/
theorem State.Quiet.of_quietRow {c : Instr} (h : quietRow c = true) (e : exec c s = .next t) : s.Quiet t := by
  have hs := State.Quiet.refl s
  cases c with
  | interruptCoalTimeout => exact hs.interruptCoalTimeout.of_next e
  | rowCommandFault => exact hs.rowCommandFault.of_next e
  | waitTimeout => exact hs.waitTimeout.of_next e
  | blockStart => exact hs.blockStart.of_next e
  | parkTimeout => exact hs.parkTimeout.of_next e
  | launchOverrun => exact hs.launchOverrun.of_next e
  | haltDeferTimeout => exact hs.haltDeferTimeout.of_next e
  | preemptStopDone => exact hs.preemptStopDone.of_next e
  | quantumEnd => exact hs.quantumEnd.of_next e
  | hbmRefresh => exact (hs.bump.ite hs).of_next e
  | hbmRecentre => exact (hs.bump.ite hs).of_next e
  | softPpr => exact hs.repairCmd.of_next e
  | hardPprAdd => exact hs.repairCmd.of_next e
  | hardPprRemove => exact hs.repairCmd.of_next e
  | swatchStart => exact (hs.ite (hs.setReg.setFld.ite hs)).of_next e
  | mbxM2tTail => exact of_mbxRow (.inl e)
  | mbxM2tHead => exact of_mbxRow (.inr (.inl e))
  | mbxT2mTail => exact of_mbxRow (.inr (.inr (.inl e)))
  | mbxT2mHead => exact of_mbxRow (.inr (.inr (.inr e)))
  | nakResend => exact hs.nakResend.of_next e
  | replayTimeout => exact (hs.replayAll.ite hs).of_next e
  | linkRecovery => exact (hs.setFld.incFld.setLink.ite hs).of_next e
  | timeExchange => exact (hs.chooseParent.enqueue.ite hs).of_next e
  | timeRelock => exact hs.timeRelock.of_next e
  | ctlRefused => exact hs.ctlRefused.of_next e
  | ctlMgmt => exact (State.Quiet.ite hs.update hs).of_next e
  | finalTimeout => exact hs.finalTimeout.of_next e
  | ppsEdge => exact hs.ppsEdge.of_next e
  | droopResponse => exact hs.droopResponse.of_next e
  | shedNAssert => exact hs.shedNAssert.of_next e
  | shedNDeassert => exact hs.shedNDeassert.of_next e
  | clockHoldoverExit => exact hs.clockHoldoverExit.of_next e
  | counterFreeze => exact hs.setFld.setFld.setFld.of_next e
  | bwWindow => exact hs.bwWindow.of_next e
  | dbgHaltGroup die core group => exact of_debugOnly (dbgRow_frame (.inl e))
  | dbgResumeGroup die core group => exact of_debugOnly (dbgRow_frame (.inr (.inl e)))
  | dbgStepGroup die core group => exact of_debugOnly (dbgRow_frame (.inr (.inr (.inl e))))
  | dbgHaltCore die core => exact of_debugOnly (dbgRow_frame (group := 0) (.inr (.inr (.inr (.inl e)))))
  | dbgResumeCore die core => exact of_debugOnly (dbgRow_frame (group := 0) (.inr (.inr (.inr (.inr e)))))
  | dbgRegAccess => exact hs.dbgRegAccess.of_next e
  | dbgStepGo => exact hs.dbgStepGo.of_next e
  | lcHaltEnable => exact (hs.setFld.ite hs.setFld.setFld).of_next e
  | lcHaltActivate => exact (hs.setFld.ite hs).of_next e
  | tapExtest => exact of_tapRow (.inl (by simp)) e
  | tapIdcode => exact of_tapRow (.inl (by simp)) e
  | tapClamp => exact of_tapRow (.inl (by simp)) e
  | tapHighz => exact of_tapRow (.inl (by simp)) e
  | tapDap => exact of_tapRow (.inl (by simp)) e
  | tapReset => exact of_tapRow (.inl (by simp)) e
  | tapSamplePreload v => exact of_tapRow (.inr (.inl ⟨v, rfl⟩)) e
  | tapBypass k => exact of_tapRow (.inr (.inr ⟨k, rfl⟩)) e
  | dapAuthorise => exact (hs.setFld.ite hs).of_next e
  | spdmRequest => exact (State.Quiet.ite hs.update hs).of_next e
  | fleetKeySet => exact hs.fleetKeySet.of_next e
  | pldmGetSensor => exact hs.pldmGetSensor.of_next e
  | droopRecovery => exact (hs.update).of_next e
  | perstNDeassert => exact (hs.ite (hs.pins.emit.ite hs.pins)).of_next e
  | atsInvalidation => exact hs.atsInvalidation.of_next e
  | _ => exact of_readRow (by exact h) e

/-- Settles O55: each kind of row by the equation of what it may write. -/
theorem quietFrame : Obligations.QuietFrame := by
  refine ⟨fun s c t h e => ?quiet, fun s c t h e => ?reads, fun s f v t e => ?mailbox, fun s die core group t e => ?debug,
    fun s c t hc e => ?tap⟩
  case quiet =>
    have hquiet : t.quietPart = s.quietPart := State.Quiet.of_quietRow h e
    simpa only [State.quietPart, Prod.mk.injEq] using hquiet
  case reads =>
    obtain ⟨fr, o, rs, hs, fs, rfl⟩ := readRow_frame h e
    rfl
  case mailbox =>
    obtain ⟨o, fs, ps, rfl, hothers⟩ := mbxRow_frame e
    exact ⟨rfl, hothers⟩
  case debug =>
    obtain ⟨⟨rs, cs, rfl⟩, hcores, hregs⟩ := dbgRow_frame e
    exact ⟨rfl, hcores, hregs⟩
  case tap =>
    obtain ⟨fr, o, p, rfl⟩ := tapRow_frame hc e
    rfl

end Sys2Proof.Machine
end

section
/-! COPY, FILL, GATHER, SCATTER and REDUCE without a fault (07.8). -/

namespace Sys2Proof.Machine

variable {s t u v w : State} {c : Cmd} {id : Nat}

/-- An LC command none of whose ranges lies in another package is not turned away for one. -/
theorem not_lc_and_any {α : Type} {r : List Byte} {l : List α} {p q : α → Bool}
    (h : hLc r = true → ∀ x ∈ l, p x = false ∧ q x = false) : ¬ (hLc r = true ∧ (l.any fun x => p x || q x) = true) := by
  rintro ⟨hlc, hany⟩
  obtain ⟨x, hx, hfar⟩ := List.any_eq_true.mp hany
  obtain ⟨hp, hq⟩ := h hlc x hx
  simp [hp, hq] at hfar

/-! ### COPY (R234) -/

theorem copyBody_step1 (h : c.step = 1) : copyBody s c = s.copyFlag c := by simp [copyBody, h]

/-- What COPY makes of data that was copied whole. -/
theorem copyBody_of_data {st : Nat} (hstep : c.step ≠ 1) (hchecks : checkStatus (copyChecks s c.raw) = 0) (hlost : c.lost = false)
    (hflag : s.copyFlagBad c = (t, 0))
    (hfar : ¬ (hLc c.raw = true ∧ ((copyRows c.raw).any fun x =>
      t.farRange (t.dmaIssuer c) .read x.1 x.2.2 || t.farRange (t.dmaIssuer c) .write x.2.1 x.2.2) = true))
    (hdata : t.copyData c = (w, some (.ok st))) :
    copyBody s c = if bit (leAt c.raw 43 1) 0 then
        ((w.cmdStatus c.id st 0).modCmd c.id fun c => { c with step := 1 }).copyFlag { c with step := 1, status := worse c.status st }
      else (w, some st) := by
  unfold copyBody
  dsimp only
  rw [if_neg hstep, if_neg (not_not_intro hchecks), if_neg (by simp [hlost]), hflag]
  simp only [if_neg hfar, hdata]

/-- The flag's write, once no write of the copy is open. -/
theorem State.copyFlag_of_local {x : Xl} (hstatus : c.status ≠ 0x0308)
    (hx : s.xlate (s.dmaIssuer c) .write (leAt c.raw 48 8) = (t, .ok x)) (hlocal : t.isLocal x.pa = true)
    (hopen : t.remoteOpen c.id = false) :
    s.copyFlag c = ((t.cmdWrite c.id (s.dmaIssuer c) 0 (leAt c.raw 48 8) ((c.raw.drop 56).take 8)).1,
      some (t.cmdWrite c.id (s.dmaIssuer c) 0 (leAt c.raw 48 8) ((c.raw.drop 56).take 8)).2) := by
  simp only [State.copyFlag, hx, hlocal, hopen, hstatus, if_true, Bool.false_eq_true, if_false]

/-- FILL writes its pattern chunk by chunk. -/
theorem fillBody_of_probe (hchecks : checkStatus (fillChecks s c.raw) = 0)
    (hfar : hLc c.raw = true → s.farRange (s.dmaIssuer c) .write (leAt c.raw 16 8) (leAt c.raw 24 8) = false)
    (hprobe : s.probe (s.dmaIssuer c) .write (leAt c.raw 16 8) (leAt c.raw 24 8) = (t, none)) {st : Nat}
    (hfill : (chunks (leAt c.raw 16 8) (leAt c.raw 24 8)).foldl (fun (x : State × Nat) p =>
      x.1.cmdWrite1 c.id (s.dmaIssuer c) (hStream c.raw) p.1 (patternAt c.raw (p.1 - leAt c.raw 16 8) p.2) false x.2) (t, 0) = (u, st)) :
    fillBody s c = (u, some st) := by
  have hnear : ¬ (hLc c.raw = true ∧ s.farRange (s.dmaIssuer c) .write (leAt c.raw 16 8) (leAt c.raw 24 8) = true) := by
    rintro ⟨hlc, hf⟩
    simp [hfar hlc] at hf
  unfold fillBody
  dsimp only
  rw [if_neg (not_not_intro hchecks), if_neg hnear, hprobe]
  dsimp only
  rw [hfill]

/-- Settles O1: COPY's data and then its flag, and FILL's pattern, each ends with what its writes met. -/
theorem copyFillComplete : Obligations.CopyFillComplete := by
  refine ⟨fun s id s0 c s1 s2 s3 s4 l w st h hstep hlost hchecks hflag hfar hawait hread hprobe hfault hclash hpoison hwrite => ?data,
    fun s id s0 c s1 x h hstep hstatus hx hlocal hopen => ?flag, fun s id s0 c s1 h hchecks hfar hprobe => ?fill⟩
  case data =>
    have hdata : s1.copyData c = (w, some (.ok (worse st 0))) := by
      simp only [State.copyData, hawait, hread, hprobe, hfault, hclash, hwrite, hpoison, Bool.false_eq_true, if_false]
    have hbody := copyBody_of_data hstep hchecks hlost hflag (not_lc_and_any hfar) hdata
    refine next_congr ((h.runCmd_eq copyBody).trans ?_)
    rw [hbody]
    split
    · rfl
    · rfl
  case flag =>
    have hbody := (copyBody_step1 hstep).trans (State.copyFlag_of_local hstatus hx hlocal hopen)
    exact next_congr ((h.runCmd_eq copyBody).trans (congrArg (bodyEnd id) hbody))
  case fill =>
    refine ⟨_, _, Prod.mk.eta.symm, next_congr ((h.runCmd_eq fillBody).trans (congrArg (bodyEnd id) ?_))⟩
    exact fillBody_of_probe hchecks hfar hprobe Prod.mk.eta.symm

/-! ### GATHER and SCATTER (R235) -/

/-- A list of moves none of which faults ends with success. -/
theorem listBody_of_moves {l : List (Nat × Nat)} (hchecks : checkStatus (listChecks s c.raw) = 0) (hlost : c.lost = false)
    (hlist : s.awaitAll c.id (s.dmaIssuer c) ((List.range (leAt c.raw 32 4)).map (listEntry c.raw)) = (t, false))
    (haddrs : t.elemAddrs c (leAt c.raw 32 4) = (u, l.map fun p => (p.1, .ok p.2)))
    (hfar : hLc c.raw = true → ∀ p ∈ l, u.farRange (s.dmaIssuer c) .read (elemSides c.raw p.1 p.2).1 (elemBytes c.raw) = false ∧
      u.farRange (s.dmaIssuer c) .write (elemSides c.raw p.1 p.2).2 (elemBytes c.raw) = false)
    (hdata : u.awaitAll c.id (s.dmaIssuer c) (l.map fun p => ((elemSides c.raw p.1 p.2).1, elemBytes c.raw)) = (v, false))
    (hmoves : (freeOrder v.free (leAt c.raw 32 4)).foldl (fun (x : State × List ElemFault) j =>
      match addrOf (l.map fun p => (p.1, .ok p.2)) j with
      | .error f => (x.1, f :: x.2)
      | .ok va =>
        match x.1.moveElem c j va with
        | (s, none) => (s, x.2)
        | (s, some f) => (s, f :: x.2)) ({ v with free := v.free + leAt c.raw 32 4 }, []) = (w, [])) :
    listBody s c = (w, some 0) := by
  have hnear : ¬ (hLc c.raw = true ∧ ((l.map fun p => elemSides c.raw p.1 p.2).any fun x =>
      u.farRange (s.dmaIssuer c) .read x.1 (elemBytes c.raw) || u.farRange (s.dmaIssuer c) .write x.2 (elemBytes c.raw)) = true) := by
    rw [List.any_map]
    exact not_lc_and_any hfar
  have hnofault (n : Nat) : ((List.range n).filterMap fun j => ([] : List ElemFault).find? fun f => decide (f.j = j)) = [] := by simp
  unfold listBody
  dsimp only
  rw [if_neg (not_not_intro hchecks), if_neg (by simp [hlost]), hlist]
  dsimp only
  rw [haddrs]
  dsimp only
  generalize hsides : List.filterMap _ (List.map _ l) = sides
  obtain rfl : sides = l.map fun p => elemSides c.raw p.1 p.2 := by
    rw [← hsides]
    simp [List.filterMap_map]
  rw [if_neg hnear, List.map_map]
  generalize hasked : State.awaitAll _ _ _ _ = asked
  obtain rfl : asked = (v, false) := hasked.symm.trans hdata
  dsimp only
  generalize hmoved : List.foldl _ _ (freeOrder _ _) = moved
  obtain rfl : moved = (w, []) := hmoved.symm.trans hmoves
  simp only [hnofault]
  rfl

/-! ### REDUCE (R177, R181) -/

/-- A reduction none of whose reads faults ends with the notes and the status of its lines. -/
theorem reduceBody_of_lines {rs : List (Nat × List (Nat × Rd))} {st : Nat} (hchecks : checkStatus (reduceChecks s c.raw) = 0)
    (hlost : c.lost = false)
    (hfar : hLc c.raw = true → s.farRange (s.dmaIssuer c) .read (leAt c.raw 16 8) (leAt c.raw 32 8) = false ∧
      s.farRange (s.dmaIssuer c) .atomic (leAt c.raw 24 8) (leAt c.raw 32 8) = false)
    (hawait : s.await c.id (s.dmaIssuer c) (leAt c.raw 16 8) (leAt c.raw 32 8) = (t, false))
    (hdevice : ∀ x ∈ reduceLines c.raw, t.deviceLine (s.dmaIssuer c) x.1 = false)
    (hread : (reduceLines c.raw).foldl (fun (a : State × List (Nat × List (Nat × Rd))) x =>
      let (s', l) := a.1.readPieces c.id (s.dmaIssuer c) (piecesOf x.1 x.2.1 x.2.2)
      (s', a.2 ++ [(x.1, l)])) (t, []) = (u, rs))
    (hfault : ∀ x ∈ rs, firstFault x.2 = none)
    (hprobe : u.probe (s.dmaIssuer c) .atomic (leAt c.raw 24 8) (leAt c.raw 32 8) = (v, none))
    (hlines : rs.foldl (fun (a : State × Nat) x =>
      let (s, st) := a.1.reduceOne c (bits (leAt c.raw 42 1) 3 0) (bit (leAt c.raw 42 1) 4) (signed 16 (leAt c.raw 44 2)) x.1 x.2
      (s, worse a.2 st)) (v, 0) = (w, st)) :
    reduceBody s c = (w, some st) := by
  have hnear : ¬ (hLc c.raw = true ∧ (s.farRange (s.dmaIssuer c) .read (leAt c.raw 16 8) (leAt c.raw 32 8) = true ∨
      s.farRange (s.dmaIssuer c) .atomic (leAt c.raw 24 8) (leAt c.raw 32 8) = true)) := by
    rintro ⟨hlc, hf⟩
    simp [hfar hlc] at hf
  have hnodevice : (reduceLines c.raw).find? (fun x => t.deviceLine (s.dmaIssuer c) x.1) = none := by
    simpa [List.find?_eq_none] using hdevice
  have hnofault : rs.findSome? (fun x => firstFault x.2) = none := List.findSome?_eq_none_iff.mpr hfault
  unfold reduceBody
  dsimp only
  rw [if_neg (not_not_intro hchecks), if_neg (by simp [hlost]), if_neg hnear, hawait]
  dsimp only
  rw [hnodevice]
  dsimp only
  generalize hreads : List.foldl _ _ (reduceLines _) = reads
  obtain rfl : reads = (u, rs) := hreads.symm.trans hread
  dsimp only
  rw [hprobe, hnofault]
  dsimp only
  generalize hnotes : List.foldl _ _ rs = notes
  obtain rfl : notes = (w, st) := hnotes.symm.trans hlines
  rfl

/-- Settles O2: no move faults, so the lists end with success; REDUCE ends with what its lines came to. -/
theorem listMovesAndReduce : Obligations.ListMovesAndReduce := by
  refine ⟨fun s id op s0 c s1 s2 s3 s4 l h hchecks hlost hlist haddrs hfar hdata hmoves => ?moves,
    fun s id s0 c s1 s2 s3 rs h hchecks hlost hfar hawait hdevice hread hfault hprobe => ?reduce⟩
  case moves =>
    have hbody := listBody_of_moves hchecks hlost hlist haddrs hfar hdata hmoves
    have hrun : s.runCmd id op listBody = s4.ended id 0 := (h.runCmd_eq listBody).trans (congrArg (bodyEnd id) hbody)
    exact ⟨fun hop => by subst hop; exact next_congr hrun, fun hop => by subst hop; exact next_congr hrun⟩
  case reduce =>
    refine ⟨_, _, Prod.mk.eta.symm, next_congr ((h.runCmd_eq reduceBody).trans (congrArg (bodyEnd id) ?_))⟩
    exact reduceBody_of_lines hchecks hlost hfar hawait hdevice hread hfault hprobe Prod.mk.eta.symm

end Sys2Proof.Machine
end

section
/-! SIGNAL, WAIT, L1_INV and XLAT_INV (07.10, 06.8), and the end of a command (07.6). -/

namespace Sys2Proof.Machine

variable {s t u v : State} {c : Cmd} {id : Nat}

/-! ### SIGNAL (R238) -/

/-- A SIGNAL of a local word is one atomic access after its fence. -/
theorem signalBody_of_local {x : Xl} {old : Nat} (hchecks : checkStatus (signalChecks s c.raw) = 0) (hstep : c.step ≠ 1)
    (hx : s.xlate (s.dicIssuer c) .atomic (leAt c.raw 16 8) = (t, .ok x)) (hlocal : t.isLocal x.pa = true)
    (hregion : atomicRegion (x.pa % 2 ^ 48) = true)
    (hatomic : (t.fenceScope c.ctx (max 2 c.fenceB)).1.atomicAt ((t.keyOf x.key).getD 0) (x.pa % 2 ^ 48) (signalOp c.raw) 8
      (leAt c.raw 24 8) 0 = (u, .ok old)) :
    signalBody s c = (u, some (t.fenceScope c.ctx (max 2 c.fenceB)).2) := by
  simp only [signalBody, hchecks, hstep, hx, hlocal, hregion, hatomic, ne_eq, not_true_eq_false, if_false, if_true]

/-! ### WAIT (R238) -/

/-- A look at a local word. -/
theorem waitLook_of_local {x : Xl} {b : List Byte} (hx : s.xlate (s.dicIssuer c) .read (leAt c.raw 16 8) = (t, .ok x))
    (hlocal : t.isLocal x.pa = true) (hregion : atomicRegion (x.pa % 2 ^ 48) = true)
    (hread : t.pread ((t.keyOf x.key).getD 0) (x.pa % 2 ^ 48) 8 = (u, .ok b false)) :
    waitLook s c = (u, if waitMeets c.raw (leNat b) then some 0 else none) := by
  simp only [waitLook, hx, hlocal, hregion, hread, if_true]

theorem waitBody_of_pass (hchecks : checkStatus (waitChecks s c.raw) = 0) (hlost : c.lost = false) :
    waitBody s c = waitLook (s.modCmd c.id fun c => { c with step := 1 }) c := by
  simp [waitBody, hchecks, hlost]

/-- A condition that is met ends the command; it looks again otherwise. -/
theorem bodyEnd_of_look (u : State) (id : Nat) (p : Bool) :
    bodyEnd id (u, if p then some 0 else none) = if p then u.ended id 0 else u := by
  cases p
  · rfl
  · rfl

/-- Settles O4: the checks pass, and the word is local. -/
theorem signalWaitComplete : Obligations.SignalWaitComplete := by
  refine ⟨fun s id s0 c s1 x s2 old h hchecks hstep hx hlocal hregion hatomic => ?signal,
    fun s id s0 c u s1 x s2 b h hchecks hlost hu hx hlocal hregion hread => ?wait, fun s id c hc hop hphase hlate => ?timeout⟩
  case signal =>
    have hbody := signalBody_of_local hchecks hstep hx hlocal hregion hatomic
    exact next_congr ((h.runCmd_eq signalBody).trans (congrArg (bodyEnd id) hbody))
  case wait =>
    subst hu
    have hbody := (waitBody_of_pass hchecks hlost).trans (waitLook_of_local hx hlocal hregion hread)
    have hrun : s.runCmd id 0x0603 waitBody = if waitMeets c.raw (leNat b) then s2.ended id 0 else s2 :=
      (h.runCmd_eq waitBody).trans ((congrArg (bodyEnd id) hbody).trans (bodyEnd_of_look s2 id _))
    refine ⟨next_congr hrun, fun c0 hc0 hstep hphase => next_congr (Eq.trans ?_ hrun)⟩
    simp only [waitRecheck, hc0]
    exact if_pos ⟨hstep, hphase⟩
  case timeout =>
    refine next_congr ?_
    simp only [waitTimeout, hc]
    exact if_pos ⟨hop, hphase, hlate⟩

/-! ### XLAT_INV (R207) -/

theorem xlatInvBody_of_begun (hstep : c.step ≠ 0) :
    xlatInvBody s c = (s, if s.xlatOpen c.raw c.step then none else some 0) := if_neg hstep

/-- With no remote access of a covered context under way, XLAT_INV ends where it began. -/
theorem xlatInvBody_of_quiet (hstep : c.step = 0) (hchecks : checkStatus (xlatInvChecks s c.raw) = 0)
    (hdump : s.dumpInto c.raw = false)
    (hquiet : ∀ r ∈ (s.xlatInvAct c.raw).remotes, (s.xlatInvAct c.raw).xlatTargets c.raw r.ctx = false) :
    xlatInvBody s c = ((s.xlatInvAct c.raw).modCmd c.id fun c => { c with step := s.nextTag + 1 }, some 0) := by
  have hopen (n m : Nat) : ((s.xlatInvAct c.raw).modCmd c.id fun c => { c with step := m }).xlatOpen c.raw n = false := by
    refine List.any_eq_false.mpr fun r hr => ?_
    have htarget : ((s.xlatInvAct c.raw).modCmd c.id fun c => { c with step := m }).xlatTargets c.raw r.ctx = false := hquiet r hr
    simp [htarget]
  simp [xlatInvBody, hstep, hchecks, hdump, hopen]

/-- Settles O5: L1_INV ends at once; XLAT_INV ends unless a covered remote access is open. -/
theorem maintenanceComplete : Obligations.MaintenanceComplete := by
  refine ⟨fun s id s0 c h hchecks => next_congr (h.runChecked_eq hchecks l1InvDo),
    fun s id s0 c h hstep hchecks hdump hquiet => ?begin, fun s id s0 c h hstep => ?goOn⟩
  case begin =>
    have hbody := xlatInvBody_of_quiet hstep hchecks hdump hquiet
    exact next_congr ((h.runCmd_eq xlatInvBody).trans (congrArg (bodyEnd id) hbody))
  case goOn =>
    refine next_congr ((h.runCmd_eq xlatInvBody).trans ((congrArg (bodyEnd id) (xlatInvBody_of_begun hstep)).trans ?_))
    split
    · rfl
    · rfl

/-! ### The end of a command (R190, R228) -/

/-- Settles O11: the fence-after, and then the record. -/
theorem completionEnds : Obligations.CompletionEnds := by
  intro s id c hc hphase hopen
  refine next_congr ?_
  simp only [commandComplete, hc]
  exact if_pos ⟨hphase, by simp [hopen]⟩

end Sys2Proof.Machine
end

section
/-! A step of the package (07.2), and collectives (07.9, 10.8). -/

namespace Sys2Proof.Machine

variable {s t v : State} {c : Cmd} {j : Job} {k : JobCur} {id op : Nat} {others : List (Nat × List Byte)}

/-- Settles O58, by whether a command waits. -/
theorem stepRunsCommand : Obligations.StepRunsCommand :=
  ⟨fun _ _ _ h => by simp [step, h], fun _ _ => rfl, fun _ h => by simp [step, h], fun _ _ _ => ⟨rfl, rfl⟩⟩

/-! ### The opcode of a command that may run -/

theorem State.skeinFence_cmds (s : State) (ctx : Nat) : (s.skeinFence ctx).1.cmds = s.cmds := by
  refine List.foldlRecOn (motive := fun x : State × Bool => x.1.cmds = s.cmds) _ _ rfl fun x hx e _ => ?_
  obtain ⟨rs, hbump⟩ := (x.1.skeinClose e).bump_eq (unitSlice e.bd) 13 1 none
  simp only [hbump]
  exact hx

theorem State.fenceScope_cmds (s : State) (ctx scope : Nat) : (s.fenceScope ctx scope).1.cmds = s.cmds := by
  unfold State.fenceScope
  split
  · rfl
  · dsimp only
    split
    · exact s.skeinFence_cmds ctx
    · exact s.skeinFence_cmds ctx

/-- Beginning a command changes no command's words. -/
theorem State.cmd_beginCmd_raw {c0 : Cmd} (h : (s.beginCmd c0).cmd id = some c) : ∃ c1, s.cmd id = some c1 ∧ c.raw = c1.raw := by
  unfold State.beginCmd at h
  split at h
  · have hcmd : (s.fenceScope c0.ctx c0.fenceB).1.cmd id = s.cmd id := congrArg (tget · id) (s.fenceScope_cmds _ _)
    by_cases hid : id = c0.id
    · subst hid
      rw [State.cmd_modCmd_same, hcmd, Option.map_eq_some_iff] at h
      obtain ⟨c1, hc1, rfl⟩ := h
      exact ⟨c1, hc1, rfl⟩
    · rw [State.cmd_modCmd_ne _ _ hid, hcmd] at h
      exact ⟨c, h, rfl⟩
  · exact ⟨c, h, rfl⟩

theorem State.mayRun.opcode (h : s.mayRun id op t c) : hOpcode c.raw = op := by
  obtain ⟨c0, hc0, hop, -, rfl, hc⟩ := h
  obtain ⟨c1, hc1, hraw⟩ := State.cmd_beginCmd_raw hc
  obtain rfl : c0 = c1 := Option.some.inj (hc0.symm.trans hc1)
  exact (congrArg hOpcode hraw).trans hop

theorem leNat_lt : ∀ l : List Byte, leNat l < 256 ^ l.length
  | [] => Nat.one_pos
  | b :: l => by
    have hl := leNat_lt l
    have hb := b.isLt
    simp only [leNat, List.length_cons, pow_succ]
    omega

theorem leAt_lt (l : List Byte) (off len : Nat) : leAt l off len < 256 ^ len :=
  (leNat_lt _).trans_le (Nat.pow_le_pow_right (by decide) (List.length_take_le _ _))

theorem hOp_eq_opcode_mod (r : List Byte) : hOp r = hOpcode r % 256 := by
  have hlt : hOp r < 256 := leAt_lt r 1 1
  unfold hOpcode
  omega

/-! ### A collective whose members have all issued it -/

theorem collBody_of_begun (hchecks : checkStatus (collChecks s c.raw) = 0) (hlost : c.lost = false) (hstep : c.step ≠ 0) :
    collBody others s c = collStep others s c := by
  simp [collBody, hchecks, hlost, hstep]

/-- No COLL of another member is missing. -/
theorem colls_all_here (hall : ∀ i, i < k.members.length → i ≠ k.rank → (s.collOf j k i).isSome = true) :
    ((List.range k.members.length).filter fun i => decide (i ≠ k.rank)).any (fun i => (s.collOf j k i).isNone) = false := by
  refine List.any_eq_false.mpr fun i hi => ?_
  obtain ⟨hlt, hne⟩ := List.mem_filter.mp hi
  simp [Option.isSome_iff_ne_none.mp (hall i (List.mem_range.mp hlt) (of_decide_eq_true hne))]

/-- Whether a member's COLL carries another hash. -/
theorem colls_mismatch_iff :
    ((List.range k.members.length).filter fun i => decide (i ≠ k.rank)).any
      (fun i => (s.collOf j k i).any fun m => decide (m.hash ≠ k.hash)) = true ↔
    ∃ i m, i < k.members.length ∧ i ≠ k.rank ∧ s.collOf j k i = some m ∧ m.hash ≠ k.hash := by
  simp only [List.any_eq_true, List.mem_filter, List.mem_range, decide_eq_true_eq, Option.any_eq_true]
  exact ⟨fun ⟨i, ⟨hlt, hne⟩, m, hm, hhash⟩ => ⟨i, m, hlt, hne, hm, hhash⟩,
    fun ⟨i, m, hlt, hne, hm, hhash⟩ => ⟨i, ⟨hlt, hne⟩, m, hm, hhash⟩⟩

section
variable (hjob : s.jobOf c.id = some j) (hcur : j.cur = some k)
  (hall : ∀ i, i < k.members.length → i ≠ k.rank → (s.collOf j k i).isSome = true)
include hjob hcur hall

/-- What follows is decided by the job and the hashes. -/
theorem collStep_of_here : collStep others s c =
    if j.open_ then collData others s c j k
    else if ((List.range k.members.length).filter fun i => decide (i ≠ k.rank)).any
        (fun i => (s.collOf j k i).any fun m => decide (m.hash ≠ k.hash)) then ((s.closeColl j k.number).dropJob j, some 0x0108)
    else collData others (s.putJob { j with open_ := true }) c { j with open_ := true } k := by
  have hhere := colls_all_here hall
  obtain ⟨ctx, epoch, open_, issued, fenced, cur⟩ := j
  obtain rfl : cur = some k := hcur
  simp only [collStep, hjob, hhere]
  rfl

/-- With the job open, or with the hashes of its opening collective agreeing, the data follows in the open job. -/
theorem collStep_of_agree
    (hagree : j.open_ = true ∨ ∀ i m, i < k.members.length → i ≠ k.rank → s.collOf j k i = some m → m.hash = k.hash) :
    collStep others s c =
      collData others (if j.open_ then s else s.putJob { j with open_ := true }) c { j with open_ := true } k := by
  rw [collStep_of_here hjob hcur hall]
  cases hopen : j.open_
  case true =>
    have hj : { j with open_ := true } = j := by rw [← hopen]
    rw [if_pos rfl, if_pos rfl, hj]
  case false =>
    have hsame := hagree.resolve_left (by simp [hopen])
    have hno := mt colls_mismatch_iff.mp fun ⟨i, m, hlt, hne, hm, hhash⟩ => hhash (hsame i m hlt hne hm)
    rw [if_neg Bool.false_ne_true, if_neg hno, if_neg Bool.false_ne_true]

/-- A member with another hash ends the opening collective. -/
theorem collStep_of_mismatch (hopen : j.open_ = false)
    (hdiffer : ∃ i m, i < k.members.length ∧ i ≠ k.rank ∧ s.collOf j k i = some m ∧ m.hash ≠ k.hash) :
    collStep others s c = ((s.closeColl j k.number).dropJob j, some 0x0108) := by
  rw [collStep_of_here hjob hcur hall, if_neg (by simp [hopen]), if_pos (colls_mismatch_iff.mpr hdiffer)]
end

/-! ### The data of a collective -/

/-- A barrier has none. -/
theorem collData_barrier (h : hOp c.raw = 5) : collData others s c j k = (s.closeColl j k.number, some 0) := if_pos h

theorem collData_of_inputs {own : List Byte} {l : List (List Byte)} (hop : hOp c.raw ≠ 5)
    (hread : readsSrc c.raw k.rank = true →
      s.readWhole c (c.hubIssuer 5) (leAt c.raw 16 8) (kLen c.raw) = (t, some (.ok own)))
    (hnone : readsSrc c.raw k.rank = false → t = s ∧ own = [])
    (hins : inputsOf c.raw k.members.length k.rank own others = some l) :
    collData others s c j k = t.collFinish c j k l := by
  simp only [collData, hop, if_false]
  cases hsrc : readsSrc c.raw k.rank
  case true => simp [hread hsrc, hins]
  case false =>
    obtain ⟨rfl, rfl⟩ := hnone hsrc
    simp [hins]

theorem collFinish_of_probe {l : List (List Byte)}
    (h : s.probe (c.hubIssuer 5) .write (leAt c.raw 24 8) (collResult c.raw k.members.length k.rank l).1.length = (t, none)) :
    s.collFinish c j k l =
      ((t.cmdWrite c.id (c.hubIssuer 5) (leAt c.raw 48 2) (leAt c.raw 24 8) (collResult c.raw k.members.length k.rank l).1).1.closeColl
          j k.number,
        some (worse (collResult c.raw k.members.length k.rank l).2
          (t.cmdWrite c.id (c.hubIssuer 5) (leAt c.raw 48 2) (leAt c.raw 24 8) (collResult c.raw k.members.length k.rank l).1).2)) := by
  simp only [State.collFinish, h]

/-! ### The rows of CLASS 4 -/

/-- The four collectives that move data run one body. -/
theorem collectives_exec_of_runCmd {u : State} (h : s.runCmd id op (collBody others) = u) :
    (op = 0x0401 → exec (.allReduce id others) s = .next u) ∧ (op = 0x0402 → exec (.reduceScatter id others) s = .next u) ∧
      (op = 0x0403 → exec (.allGather id others) s = .next u) ∧ (op = 0x0404 → exec (.broadcast id others) s = .next u) := by
  subst h
  exact ⟨by rintro rfl; rfl, by rintro rfl; rfl, by rintro rfl; rfl, by rintro rfl; rfl⟩

theorem barrier_exec_of_runCmd {u : State} (h : s.runCmd id op (collBody []) = u) :
    op = 0x0405 → exec (.barrier id) s = .next u := by
  subst h
  rintro rfl
  rfl

/-- Settles O33: a collective's COLLs are all there, or its time has passed. -/
theorem collectivesComplete : Obligations.CollectivesComplete := by
  refine ⟨fun s id op s0 c j k h hchecks hlost hstep hjob hcur hall => ?_, fun s id c j k hc hcls hphase hlate hjob hcur => ?timeout⟩
  · have hbody (others) : s.runCmd id op (collBody others) = bodyEnd id (collStep others s0 c) :=
      (h.runCmd_eq _).trans (congrArg (bodyEnd id) (collBody_of_begun hchecks hlost hstep))
    have hop : hOp c.raw = op % 256 := h.opcode ▸ hOp_eq_opcode_mod c.raw
    refine ⟨fun hagree => ?agree, fun hopen hdiffer others u hu => ?mismatch⟩
    case agree =>
      have hdata (others) := (hbody others).trans (congrArg (bodyEnd id) (collStep_of_agree (others := others) hjob hcur hall hagree))
      refine ⟨fun hbar => barrier_exec_of_runCmd ((hdata []).trans (congrArg (bodyEnd id) (collData_barrier ?_))) hbar,
        fun others s1 own l s2 hmem hread hnone hins hprobe => ⟨_, _, rfl, fun u hu => collectives_exec_of_runCmd ?_⟩⟩
      · simp [hop, hbar]
      · have hne : hOp c.raw ≠ 5 := by
          rw [hop]
          simp only [List.mem_cons, List.not_mem_nil, or_false] at hmem
          omega
        rw [hdata, collData_of_inputs hne hread hnone hins, collFinish_of_probe hprobe, hu]
        rfl
    case mismatch =>
      have hend (others) : s.runCmd id op (collBody others) = u := by
        rw [hbody, collStep_of_mismatch hjob hcur hall hopen hdiffer, hu]
        rfl
      obtain ⟨hreduce, hscatter, hgather, hcast⟩ := collectives_exec_of_runCmd (hend others)
      exact ⟨hreduce, hscatter, hgather, hcast, barrier_exec_of_runCmd (hend [])⟩
  case timeout =>
    have hrun : collectiveTimeout id s =
        if j.open_ then (s.closeColl j k.number).failColl id 0x0407
        else (((s.closeColl j k.number).dropJob j).dropRemotesOf fun r => decide (r.wait = .cmd id)).endCmd id 0x0407 := by
      simp only [collectiveTimeout, hc, hjob, hcur]
      exact if_pos ⟨hcls, hphase, hlate⟩
    exact ⟨fun hopen => next_congr (hrun.trans (if_pos hopen)), fun hopen => next_congr (hrun.trans (if_neg (by simp [hopen])))⟩

end Sys2Proof.Machine
end

section
/-! The tables of contexts (07.4, 07.10): a context kept twice outlives its CTX_DESTROY. -/

namespace Sys2Proof.Machine

/-- CTX_DESTROY of context 5. -/
def twinCtxRaw : List Byte :=
  [(0, 1, 8), (1, 1, 9), (16, 2, 5)].foldl (fun r (e : Nat × Nat × Nat) => patch r e.1 (leBytes e.2.1 e.2.2)) (zeros 64)

/-- The command, running as the manager's function. -/
def twinCtxCmd : Cmd :=
  { id := 1, q := 0, row := none, raw := twinCtxRaw, func := 0, panel := 0, ctx := 1, epoch := 1, tSub := 0, tAdm := 0, tStart := 0,
    twc := none, phase := .running, status := 0, vaddr := 0, beats := 0, energy := 0, tiles := 0, step := 0, spans := 0, fenceB := 0,
    fenceA := 0, landed := [] }

def twinCtx : Ctx := ⟨0, 0, none, 5, 0, 256, [], 0⟩

/-- Package 0 with the command in flight and two entries for context 5: the table is not in its canonical order, which the statement asks
only of the state that the command leaves. -/
def twinCtxState : State :=
  { State.reset with ctxs := [(5, twinCtx), (5, twinCtx)], cmds := [(1, twinCtxCmd)] }

theorem twinCtxState_mayRun : twinCtxState.mayRun 1 0x0809 twinCtxState twinCtxCmd :=
  ⟨twinCtxCmd, rfl, by decide +kernel, by decide +kernel, (State.beginCmd_running _ _ (by decide)).symm, rfl⟩

/-- One of the two entries is removed. -/
theorem ctxDestroyDo_twinCtx : (ctxDestroyDo twinCtxState twinCtxRaw).1.ctxs = [(5, twinCtx)] := by decide +kernel

/-- Refutes O12, by its clause on CTX_DESTROY: the entry left is a table in order, and context 5 is still found in it. -/
theorem not_objectsComplete : ¬ Obligations.ObjectsComplete := by
  intro h
  obtain ⟨-, -, -, hdestroy, -⟩ := h
  obtain ⟨t, -, hgone, rfl⟩ := hdestroy twinCtxState 1 twinCtxState twinCtxCmd twinCtxState_mayRun (by decide +kernel)
  have hleft : (ctxDestroyDo twinCtxState twinCtxCmd.raw).1.ctxs = [(5, twinCtx)] := ctxDestroyDo_twinCtx
  rw [hleft] at hgone
  exact absurd (hgone rfl) (by decide +kernel)

end Sys2Proof.Machine
end

section
/-! What the writing of a record may change (07.6): every part of the state that no record, event or count is written to stays. -/

namespace Sys2Proof.Machine

variable {s t u : State}

/-- All of a state but what records, events and counts are written to: registers, memory with its open sums and reservations, queues,
functions, messages and free values. -/
def State.offRecord (s : State) : State :=
  { s with free := 0, regs := [], mem := ⟨[], [], []⟩, skein := [], resvs := [], queues := [], funcs := [], msixPend := [], out := [] }

/-- `t` comes from `s` by writes of records, events and counts only. -/
def State.RecordOnly (s t : State) : Prop := t.offRecord = s.offRecord

namespace State.RecordOnly

theorem refl (s : State) : s.RecordOnly s := rfl

theorem rsqs (h : s.RecordOnly t) : t.rsqs = s.rsqs := congrArg (a₁ := t.offRecord) (a₂ := s.offRecord) State.rsqs h

/-- An update of the parts that a record may change. -/
theorem update (h : s.RecordOnly t) (e : u.offRecord = t.offRecord := by rfl) : s.RecordOnly u := e.trans h

theorem ite {p : Prop} {_ : Decidable p} (ht : s.RecordOnly t) (hu : s.RecordOnly u) : s.RecordOnly (if p then t else u) := by
  split
  · exact ht
  · exact hu

/-- For the state that a pattern `(u, b)` names. -/
theorem of_fst {β : Type} {x : State × β} {b : β} (h : s.RecordOnly x.1) (e : x = (u, b)) : s.RecordOnly u := by
  subst e
  exact h

/-! Registers and counts -/

theorem setFld (h : s.RecordOnly t) (f : Fld) (i v : Nat) : s.RecordOnly (t.setFld f i v) := h.update

theorem incFld (h : s.RecordOnly t) (f : Fld) (i n : Nat) : s.RecordOnly (t.incFld f i n) := h.update

theorem bump (h : s.RecordOnly t) (v i n : Nat) (a : Option Attr) : s.RecordOnly (t.bump v i n a) := by
  obtain ⟨rs, e⟩ := t.bump_eq v i n a
  rw [e]
  exact h.update

theorem countRsq (h : s.RecordOnly t) (p i n ctx : Nat) : s.RecordOnly (t.countRsq p i n ctx) := h.bump _ _ _ _

theorem bumpFn (h : s.RecordOnly t) (f i n : Nat) : s.RecordOnly (t.bumpFn f i n) := ite h h.update

/-! Queues and functions -/

theorem setQueue (h : s.RecordOnly t) (q : Nat) (x : Queue) : s.RecordOnly (t.setQueue q x) := h.update

theorem modQueue (h : s.RecordOnly t) (q : Nat) (f : Queue → Queue) : s.RecordOnly (t.modQueue q f) := h.update

theorem modFunc (h : s.RecordOnly t) (n : Nat) (f : Func → Func) : s.RecordOnly (t.modFunc n f) := h.update

/-! Memory -/

theorem wakeHbm (h : s.RecordOnly t) (a : Nat) : s.RecordOnly (t.wakeHbm a) := by
  obtain ⟨rs, e⟩ := t.wakeHbm_eq a
  rw [e]
  exact h.update

theorem skeinCloseLine (h : s.RecordOnly t) (line : Nat) : s.RecordOnly (t.skeinCloseLine line) := by
  unfold State.skeinCloseLine
  split
  · exact h.update
  · exact h

theorem breakResv (h : s.RecordOnly t) (a : Nat) : s.RecordOnly (t.breakResv a) := h.update

theorem withMem (h : s.RecordOnly t) (m : Memory) : s.RecordOnly { t with mem := m } := h.update

theorem pwrite (h : s.RecordOnly t) (k a : Nat) (b : List Byte) : s.RecordOnly (t.pwrite k a b).1 := by
  unfold State.pwrite
  split
  case h_1 =>
    dsimp only
    split
    · exact h.wakeHbm a
    · exact (((h.wakeHbm a).skeinCloseLine _).breakResv _).withMem _
  case h_2 =>
    dsimp only
    split
    · exact h.update
    · exact h.update
  all_goals exact h.update

theorem writePhys (h : s.RecordOnly t) (w : Who) (slot a : Nat) (b : List Byte) : s.RecordOnly (t.writePhys w slot a b).1 := by
  unfold State.writePhys
  refine List.foldlRecOn (motive := fun x : State × Bool => s.RecordOnly x.1) _ _ h fun x hx c _ => ?_
  dsimp only
  split
  · split
    · exact hx
    · exact hx.pwrite _ _ _
  · exact hx

/-! Interrupts and rings (R228 to R232) -/

theorem interrupt (h : s.RecordOnly t) (q : Nat) : s.RecordOnly (t.interrupt q) := by
  unfold State.interrupt
  split
  · exact h
  · rename_i x _
    obtain ⟨o, ps, e⟩ := (t.setQueue q { x with armed := false, sinceArm := 0, firstAt := none }).sendMsix_eq x.func x.vector
    rw [e]
    exact h.update

theorem noteEntry (h : s.RecordOnly t) (q : Nat) : s.RecordOnly (t.noteEntry q) := by
  unfold State.noteEntry
  split
  · exact h
  · exact ite (ite ((h.setQueue _ _).interrupt q) (h.setQueue _ _)) h

theorem ringPut (h : s.RecordOnly t) (q : Nat) (entry : List Byte) : s.RecordOnly (t.ringPut q entry).1 := by
  unfold State.ringPut
  split
  · exact h
  · rename_i x _
    have hput := h.writePhys t.hubWho x.key (x.slotAddr x.tail) entry
    split <;> rename_i e
    · exact (hput.of_fst e).modQueue _ _
    · exact hput.of_fst e

theorem putEvent (h : s.RecordOnly t) (q code info : Nat) : s.RecordOnly (t.putEvent q code info).1 := by
  unfold State.putEvent
  split
  · exact h
  · rename_i x _
    split
    · exact h
    · split
      · exact h.setQueue _ _
      · have hput := h.ringPut q (eventEntry code info (phaseBit x.tail.toNat x.k) (b2n x.evtLost) t.time)
        split <;> rename_i e
        · exact ((hput.of_fst e).modQueue _ _).noteEntry _
        · exact (hput.of_fst e).modQueue _ _

theorem postEvent (h : s.RecordOnly t) (q code info : Nat) : s.RecordOnly (t.postEvent q code info) := by
  have hput := h.putEvent q code info
  unfold State.postEvent
  split <;> rename_i e
  · exact hput.of_fst e
  · exact ite (hput.of_fst e) ((hput.of_fst e).putEvent _ _ _)

theorem postMgr (h : s.RecordOnly t) (code info : Nat) : s.RecordOnly (t.postMgr code info) := h.postEvent _ _ _

theorem postCtx (h : s.RecordOnly t) (ctx code info : Nat) : s.RecordOnly (t.postCtx ctx code info) := by
  unfold State.postCtx
  split
  · exact h
  · exact h.postEvent _ _ _

theorem postBoth (h : s.RecordOnly t) (ctx code info : Nat) : s.RecordOnly (t.postBoth ctx code info) := by
  unfold State.postBoth
  split
  · exact h.postMgr _ _
  · exact ite (h.postMgr _ _) ((h.postMgr _ _).postCtx _ _ _)

theorem faultQueue (h : s.RecordOnly t) (q : Nat) : s.RecordOnly (t.faultQueue q) := by
  unfold State.faultQueue
  split
  · exact h
  · dsimp only
    split
    · exact (h.setQueue _ _).postBoth _ _ _
    · exact (h.setQueue _ _).postBoth _ _ _
    · exact (h.setQueue _ _).postMgr _ _

/-! Records (R228, R229, R247, R276) -/

theorem dropRecord (h : s.RecordOnly t) (cplq func : Nat) : s.RecordOnly (t.dropRecord cplq func) :=
  ((h.modFunc _ _).modQueue _ _).postMgr _ _

theorem overflowRecord (h : s.RecordOnly t) (cplq func : Nat) (r : List Byte) : s.RecordOnly (t.overflowRecord cplq func r) := by
  unfold State.overflowRecord
  split
  · exact h.dropRecord _ _
  · rename_i g _
    refine ite (h.dropRecord _ _) ?_
    have hput := h.writePhys t.hubWho 63 (g.ovfAddr + 32 * (g.ovfTail.toNat % 2 ^ g.ovfLog2)) (withPhase r (phaseBit g.ovfTail.toNat g.ovfLog2))
    dsimp only
    split <;> rename_i e
    · exact (hput.of_fst e).modFunc _ _
    · exact (hput.of_fst e).dropRecord _ _

theorem writeRecord (h : s.RecordOnly t) (cplq ctx : Nat) (r : List Byte) : s.RecordOnly (t.writeRecord cplq ctx r) := by
  unfold State.writeRecord
  split
  · exact h
  · rename_i x _
    have hput := h.ringPut cplq (withPhase r (phaseBit x.tail.toNat x.k))
    refine ite (h.dropRecord _ _) (ite (h.overflowRecord _ _ _) (ite (((h.setQueue _ _).postBoth _ _ _).overflowRecord _ _ _) ?_))
    split <;> rename_i e
    · exact (hput.of_fst e).noteEntry _
    · exact ((hput.of_fst e).faultQueue _).dropRecord _ _

theorem writeCopies (cplq ctx : Nat) (r : List Byte) (n : Nat) (h : s.RecordOnly t) : s.RecordOnly (t.writeCopies cplq ctx r n) := by
  induction n generalizing t with
  | zero => exact h
  | succ n ih => exact ih (h.writeRecord cplq ctx r)

theorem finishRecord (h : s.RecordOnly t) (q ctx tag : Nat) (r : List Byte) : s.RecordOnly (t.finishRecord q ctx tag r) := by
  unfold State.finishRecord
  split
  · exact h
  · exact writeCopies _ _ _ _ ((h.setQueue _ _).writeRecord _ _ _)

theorem seqRecord (h : s.RecordOnly t) (ctx : Nat) (x : SeqRec) (status : Nat) : s.RecordOnly (t.seqRecord ctx x status) := by
  have hfresh : s.RecordOnly t.fresh.2 := h.update
  unfold State.seqRecord
  dsimp only
  split
  · exact (hfresh.bumpFn _ _ _).finishRecord _ _ _ _
  · exact hfresh.finishRecord _ _ _ _

end State.RecordOnly

end Sys2Proof.Machine
end

section
/-! The row sequencer's commands (08.2, 08.8): what each body answers once its checks pass. -/

namespace Sys2Proof.Machine

variable {s t u : State} {c : Cmd} {r x : Rsq} {id slot : Nat}

/-- A command that may run does what its body answers. -/
theorem State.mayRun.runCmd_of_body {op : Nat} {body : State → Cmd → State × Option Nat} {st : Option Nat} (h : s.mayRun id op t c)
    (hbody : body t c = (u, st)) : s.runCmd id op body = bodyEnd id (u, st) :=
  (h.runCmd_eq body).trans (congrArg (bodyEnd id) hbody)

/-! ### RSQ_CONFIG (R255 to R257, R260) -/

theorem State.rsqState_configureRsq (s : State) (p ctx : Nat) (k : RsqCfg) (prog : List (List Byte)) :
    (s.configureRsq p ctx k prog).rsqState p = 1 :=
  State.fld_setFld_same _ .RSQ_STATUS_STATE p 1 (by decide) (by decide)

theorem rsqConfigBody_of_pass {d b : List Byte} (hchecks : checkStatus (rsqConfigChecks s c.raw) = 0) (hlost : c.lost = false)
    (hdesc : s.readWhole c (s.rsqIssuer c.panel c.ctx) (leAt c.raw 16 8) 256 = (t, some (.ok d)))
    (hgood : descBad (rsqCfgOf c.raw d) d = false)
    (hprog : t.readWhole c (s.rsqIssuer c.panel c.ctx) (leAt d 40 8) (256 * leAt d 70 2) = (u, some (.ok b)))
    (hstatus : u.rsqCfgStatus c.panel c.ctx (rsqCfgOf c.raw d) (splitEvery 256 b (leAt d 70 2)) = 0) :
    rsqConfigBody s c = (u.configureRsq c.panel c.ctx (rsqCfgOf c.raw d) (splitEvery 256 b (leAt d 70 2)), some 0) := by
  simp only [rsqConfigBody, hchecks, hlost, hdesc, hgood, hprog, hstatus, ne_eq, not_true_eq_false, Bool.false_eq_true, if_false]

/-! ### RSQ_START (R277) -/

/-- The tiles that the sequencer's start takes: those of an LC sequencer. -/
def Rsq.startTiles (r : Rsq) : List Nat := if r.cfg.lcEn then maskBits r.cfg.tiles 48 else []

theorem Rsq.mem_startTiles (r : Rsq) (k : Nat) : k ∈ r.startTiles ↔ r.cfg.lcEn = true ∧ k ∈ maskBits r.cfg.tiles 48 := by
  simp [Rsq.startTiles]

/-- The tiles that the sequencer takes run neither an LC job nor a BE unit. -/
def State.startTilesFree (s : State) (r : Rsq) : Prop := ∀ k ∈ r.startTiles, (s.tile k).lc = none ∧ (s.tile k).unit = none

theorem State.startTilesFree.no_lc (h : s.startTilesFree r) : (r.startTiles.any fun k => (s.tile k).lc.isSome) = false :=
  List.any_eq_false.mpr fun k hk => by simp [(h k hk).1]

theorem State.startTilesFree.no_unit (h : s.startTilesFree r) : (r.startTiles.any fun k => (s.tile k).unit.isSome) = false :=
  List.any_eq_false.mpr fun k hk => by simp [(h k hk).2]

theorem rsqStartBody_empty (hchecks : checkStatus (rsqStartChecks s c.raw) = 0) (hr : tget s.rsqs c.panel = some r)
    (hfree : s.startTilesFree r) (hresume : bit (leAt c.raw 16 1) 0 = false) (hpub : s.publishRsq c.panel r.emptied = (t, 0)) :
    rsqStartBody s c = (t.ownTiles r.startTiles (.seq c.panel)).beginRsq c.panel r.emptied := by
  have hlc := hfree.no_lc
  have hunit := hfree.no_unit
  unfold Rsq.startTiles at hlc hunit ⊢
  simp only [rsqStartBody, hchecks, hr, hlc, hunit, hresume, hpub, ne_eq, not_true_eq_false, Bool.false_eq_true, if_false]

theorem rsqStartBody_resume (hchecks : checkStatus (rsqStartChecks s c.raw) = 0) (hr : tget s.rsqs c.panel = some r)
    (hfree : s.startTilesFree r) (hresume : bit (leAt c.raw 16 1) 0 = true) (hload : s.loadRsq c.panel r = (t, .ok x)) :
    rsqStartBody s c = (t.ownTiles r.startTiles (.seq c.panel)).beginRsq c.panel x := by
  have hlc := hfree.no_lc
  have hunit := hfree.no_unit
  unfold Rsq.startTiles at hlc hunit ⊢
  simp only [rsqStartBody, hchecks, hr, hlc, hunit, hresume, hload, ne_eq, not_true_eq_false, Bool.false_eq_true, if_false, if_true]

/-! ### RSQ_STOP and POOL_RESIZE (R278, R280) -/

theorem rsqStopBody_of_idle (hstep : c.step ≠ 1) (hchecks : checkStatus (rsqStopChecks s c.raw) = 0)
    (hidle : s.rsqStarted c.panel = false) : rsqStopBody s c = (s.releaseSeqTiles c.panel, some 0) := by
  simp [rsqStopBody, hstep, hchecks, hidle]

/-- Of a started sequencer, RSQ_STOP only notes its mode and waits. -/
theorem rsqStopBody_of_started (hstep : c.step ≠ 1) (hchecks : checkStatus (rsqStopChecks s c.raw) = 0)
    (hstarted : s.rsqStarted c.panel = true) (hr : tget s.rsqs c.panel = some r) :
    ∃ t, rsqStopBody s c = (t, none) ∧
      tget t.rsqs c.panel = some { r with stop := r.stop ++ [(bits (leAt c.raw 16 1) 1 0, c.id)] } := by
  have hmode : (if bits (leAt c.raw 16 1) 1 0 = 1 then s.setRsqState c.panel 3 else s).rsqs = s.rsqs := by
    split
    · rfl
    · rfl
  simp only [rsqStopBody, hstep, hchecks, hstarted, ne_eq, not_true_eq_false, if_false]
  exact ⟨_, rfl, by rw [State.modCmd_rsqs, tget_tmod_same, hmode, hr, Option.map_some]⟩

theorem poolResizeBody_of_first (hstep : c.step ≠ 1) (hchecks : checkStatus (poolResizeChecks s c.raw) = 0)
    (hr : tget s.rsqs c.panel = some r) (hnone : r.resize = none) :
    ∃ t, poolResizeBody s c = (t, none) ∧
      tget t.rsqs c.panel = some { r with resize := some (leAt c.raw 16 3, c.id) } := by
  simp only [poolResizeBody, hstep, hchecks, hr, hnone, Option.any_some, Option.isSome_none, ne_eq, not_true_eq_false,
    Bool.false_eq_true, if_false]
  exact ⟨_, rfl, by rw [State.modCmd_rsqs, tget_tmod_same, hr, Option.map_some]⟩

/-! ### SEQ_CANCEL (R279) -/

theorem seqCancelDo_of_named {raw : List Byte} {z : SeqRec} (h : s.cancelled raw = some (slot, z)) :
    seqCancelDo s raw = ({ s with rsqs := tmod s.rsqs (s.ctxPanel raw) fun x =>
      { x with seqs := tmod x.seqs slot fun y => { y with cancelled := true } } }, 0) := by
  simp only [seqCancelDo, h]

/-- Settles O34: each command runs its body, which ends or waits as its checks, the structures and the sequencer's state say. -/
theorem sequencerCommands : Obligations.SequencerCommands := by
  refine ⟨fun s id s0 c s1 d s2 b h hchecks hlost hdesc hgood hprog hstatus => ?config,
    fun s id s0 c r h hchecks hr htiles => ?start, fun s id s0 c h hstep hchecks => ?stop,
    fun s id s0 c slot y h hchecks hnamed => ?cancel, fun s id s0 c r h hstep hchecks hr hnone => ?resize⟩
  case config =>
    have hbody := rsqConfigBody_of_pass hchecks hlost hdesc hgood hprog hstatus
    exact ⟨_, _, next_congr (h.runCmd_of_body hbody), tget_tput_same _ _ _, rfl, rfl, rfl, rfl,
      rfl, rfl, State.rsqState_configureRsq _ _ _ _ _⟩
  case start =>
    have hfree : s0.startTilesFree r := fun k hk =>
      have ⟨hlc, hmem⟩ := (r.mem_startTiles k).mp hk
      htiles hlc k hmem
    refine ⟨fun s1 hresume hpub => ?empty, fun s1 x hresume hload => ?load⟩
    case empty =>
      have hbody := rsqStartBody_empty hchecks hr hfree hresume hpub
      exact ⟨_, { r.emptied with byFreeze := false }, next_congr (h.runCmd_of_body hbody), rfl,
        rfl, rfl, rfl, rfl, rfl⟩
    case load =>
      have hbody := rsqStartBody_resume hchecks hr hfree hresume hload
      exact next_congr (h.runCmd_of_body hbody)
  case stop =>
    refine ⟨fun hidle => ?idle, fun hstarted r hr => ?started⟩
    case idle =>
      exact next_congr (h.runCmd_of_body (rsqStopBody_of_idle hstep hchecks hidle))
    case started =>
      obtain ⟨t, hbody, hget⟩ := rsqStopBody_of_started hstep hchecks hstarted hr
      exact ⟨t, _, next_congr (h.runCmd_of_body hbody), hget, rfl⟩
  case cancel =>
    exact next_congr ((h.runChecked_eq hchecks seqCancelDo).trans (by rw [seqCancelDo_of_named hnamed]))
  case resize =>
    obtain ⟨t, hbody, hget⟩ := poolResizeBody_of_first hstep hchecks hr hnone
    exact ⟨t, _, next_congr (h.runCmd_of_body hbody), hget, rfl⟩

end Sys2Proof.Machine
end

section
/-! The row sequencer's entries, rows and boundaries (08.4 to 08.6, 08.9). -/

namespace Sys2Proof.Machine

variable {s s1 t : State} {r : Rsq} {x : RowRun} {p q slot n : Nat} {e : List Byte}

theorem State.tget_putRsq_same (s : State) (p : Nat) (r : Rsq) : tget (s.putRsq p r).rsqs p = some r := tget_tput_same _ _ _

/-! ### SEQ_ENTRY_FETCH (R254, R263) -/

/-- The SEQ queue may be fetched from, and its entry at HEAD is `e`, whose TAG is new. -/
structure State.SeqAtHead (s : State) (q : Nat) (x : Queue) (s1 : State) (e : List Byte) (n : Nat) : Prop where
  queue : s.queue q = some x
  typ : x.typ = .seq
  fetching : s.fetching = true
  eligible : s.eligible q x = true
  turn : s.lcWaits x.panel = false
  entry : s.headEntry x = (s1, some e, n)
  fresh : x.dups.find? (fun d => decide (d.tag = w32 (leAt e 0 4))) = none

/-- The queue once a new entry has been taken from it. -/
def Queue.seqTaken (x : Queue) (e : List Byte) : Queue :=
  { x.pass 1 with fetched := x.fetched + 1, dups := dupAdd x.dups (leAt e 0 4) none }

namespace State.SeqAtHead

variable {x : Queue} (h : s.SeqAtHead q x s1 e n)

include h

theorem gate_open : ¬ (x.typ ≠ .seq ∨ ¬ s.fetching ∨ ¬ s.eligible q x ∨ s.lcWaits x.panel) := by
  simp [h.typ, h.fetching, h.eligible, h.turn]

theorem seqEntryFetch_rejects (hchecks : checkStatus (seqChecks s1 x e) ≠ 0) : seqEntryFetch q slot s =
    (s1.setQueue q (x.seqTaken e)).rejectSeq q x.ctx x.func (leAt e 0 4) (checkStatus (seqChecks s1 x e)) := by
  simp only [seqEntryFetch, h.queue, if_neg h.gate_open, h.entry, h.fresh]
  exact if_pos hchecks

theorem seqEntryFetch_admits (hchecks : checkStatus (seqChecks s1 x e) = 0) (hr : s1.feeds x = some r)
    (hroom : r.seqs.length < r.cfg.slots) (hslot : slot < r.cfg.slots) (hfree : thas r.seqs slot = false) : seqEntryFetch q slot s =
    (s1.setQueue q (x.seqTaken e)).putRsq x.panel (r.admitSeq slot (newSeq r q e (x.subTime x.head s1.time))) := by
  have hplace : ¬ (r.cfg.slots ≤ slot ∨ thas r.seqs slot = true) := by simp [hslot, hfree]
  simp only [seqEntryFetch, h.queue, if_neg h.gate_open, h.entry, h.fresh, hchecks, hr, ne_eq, not_true_eq_false, if_false,
    if_neg (not_le_of_gt hroom), if_neg hplace]
  rfl

end State.SeqAtHead

/-! ### ROW_STAGE_ISSUE (R259) -/

/-- No entry of the row's stage is still to be issued. -/
def Rsq.stageDone (r : Rsq) (x : RowRun) : Prop := ∀ i, i < r.prog.length → x.next ≤ i → eStage (r.prog.getD i []) ≠ x.stage

theorem Rsq.stageDone.any_eq_false (h : r.stageDone x) :
    ((List.range r.prog.length).any fun i => decide (x.next ≤ i) && decide (eStage (r.prog.getD i []) = x.stage)) = false := by
  refine List.any_eq_false.mpr fun i hi => ?_
  have hstage := h i (List.mem_range.mp hi)
  simpa using hstage

/-- The row of a started sequencer runs, and nothing of it has failed. -/
structure State.RowRuns (s : State) (p : Nat) (r : Rsq) (x : RowRun) : Prop where
  rsq : tget s.rsqs p = some r
  run : r.run = some x
  started : s.rsqStarted p = true
  going : x.ended = false
  sound : r.fault = none
  clean : x.failed = []

namespace State.RowRuns

variable (h : s.RowRuns p r x)

include h

theorem issueStage_eq : s.issueStage p = (r.toIssue x).foldl (fun s i => s.issueEntry p i) s := by
  simp only [State.issueStage, h.rsq, h.run]

theorem gate_open : ¬ (¬ s.rsqStarted p ∨ x.ended ∨ r.fault.isSome ∨ x.failed ≠ []) := by
  simp [h.started, h.going, h.sound, h.clean]

theorem rowStageIssue_issues (hissue : r.toIssue x ≠ []) :
    rowStageIssue p s = (r.toIssue x).foldl (fun s i => s.issueEntry p i) s := by
  simp only [rowStageIssue, h.rsq, h.run, if_neg h.gate_open, if_pos hissue]
  exact h.issueStage_eq

section

variable (hnone : r.toIssue x = []) (hended : x.issued = []) (hdone : r.stageDone x)

include hnone hended hdone

/-- The stage's commands have all ended: its fence is performed. -/
theorem rowStageIssue_last (hafter : x.after = none) :
    rowStageIssue p s = (s.fenceScope r.ctx 2).1.putRsq p { r with run := some { x with ended := true } } := by
  simp only [rowStageIssue, h.rsq, h.run, if_neg h.gate_open, hnone, hended, hdone.any_eq_false, hafter, ne_eq, not_true_eq_false,
    Bool.false_eq_true, or_self, if_false]

theorem rowStageIssue_next {stage step : Nat} (hafter : x.after = some (stage, step)) :
    rowStageIssue p s = ((s.fenceScope r.ctx 2).1.putRsq p { r with run := some { x with
      stage := stage, step := step, next := (r.prog.findIdx? fun e => decide (eStage e = stage)).getD r.prog.length } }).issueStage p := by
  simp only [rowStageIssue, h.rsq, h.run, if_neg h.gate_open, hnone, hended, hdone.any_eq_false, hafter, ne_eq, not_true_eq_false,
    Bool.false_eq_true, or_self, if_false]

end

end State.RowRuns

/-! ### Leaves (R265, R276) -/

/-- The sequencer of a panel stands, with its configuration. -/
def State.RsqWith (s : State) (p : Nat) (k : RsqCfg) : Prop := ∃ y, tget s.rsqs p = some y ∧ y.cfg = k

/-- The sequencer once a sequence has left it: its pages are back, and its slot is FREE. -/
def Rsq.without (r : Rsq) (slot : Nat) (y : SeqRec) : Rsq :=
  { r.tink slot 0 y with
    lcOut := if y.lc then (r.tink slot 0 y).lcOut - y.pagesMax else (r.tink slot 0 y).lcOut, seqs := tdel (r.tink slot 0 y).seqs slot }

theorem State.leaveSeq_recordOnly (h : tget s.rsqs p = some r) (slot status : Nat) (y : SeqRec) :
    (s.putRsq p (r.without slot y)).RecordOnly (s.leaveSeq p slot status y) := by
  have hleft : (s.putRsq p (r.without slot y)).RecordOnly ((s.putRsq p (r.without slot y)).countRsq p 13 1 r.ctx) :=
    (State.RecordOnly.refl _).countRsq _ _ _ _
  simp only [State.leaveSeq, h]
  exact (State.RecordOnly.ite (((hleft.countRsq _ _ _ _).incFld _ _ _).setFld _ _ _) hleft).seqRecord _ _ _

theorem State.RsqWith.leaveSeq {k : RsqCfg} (h : s.RsqWith p k) (slot status : Nat) (y : SeqRec) :
    (s.leaveSeq p slot status y).RsqWith p k := by
  obtain ⟨r, hr, rfl⟩ := h
  exact ⟨r.without slot y, by rw [(State.leaveSeq_recordOnly hr slot status y).rsqs, State.tget_putRsq_same], rfl⟩

/-- The leaves of a boundary keep the sequencer and its configuration. -/
theorem State.RsqWith.leaveAll {k : RsqCfg} (h : s.RsqWith p k) : (s.leaveAll p).RsqWith p k := by
  unfold State.leaveAll
  split
  · exact h
  · refine List.foldlRecOn (motive := fun t : State => t.RsqWith p k) _ _ h fun t ht e _ => ?_
    split
    · exact ht.leaveSeq _ _ _
    · exact ht

/-! ### ROW_BOUNDARY (R265, R281) -/

theorem State.rsqState_ne_four (h : s.rsqStarted p = true) : s.rsqState p ≠ 4 := by
  intro h4
  have hfld : s.fld .RSQ_STATUS_STATE p = 4 := h4
  simp [State.rsqStarted, hfld] at h

/-- A started sequencer that no dump holds is at a boundary once its row has ended, has failed, or does not run. -/
structure State.AtBoundary (s : State) (p : Nat) (r : Rsq) : Prop where
  rsq : tget s.rsqs p = some r
  started : s.rsqStarted p = true
  held : s.rowHeld p = false

namespace State.AtBoundary

variable (h : s.AtBoundary p r)

include h

theorem gate_open : ¬ (¬ s.rsqStarted p ∨ s.rowHeld p) := by simp [h.started, h.held]

theorem rowBoundary_of_no_row (hrun : r.run = none) : rowBoundary p s = s.boundary p none := by
  simp only [rowBoundary, h.rsq, if_neg (State.rsqState_ne_four h.started), if_neg h.gate_open, hrun]

theorem rowBoundary_of_ended {l : List RowOut} (hrun : r.run = some x) (hsound : r.fault = none) (hended : x.ended = true)
    (houts : s.rowOuts p r x = (s1, .ok l)) : rowBoundary p s = s1.boundary p (some l) := by
  simp only [rowBoundary, h.rsq, if_neg (State.rsqState_ne_four h.started), if_neg h.gate_open, hrun, hsound, hended, houts, if_true]

theorem rowBoundary_of_fault {st stage entry : Nat} (hrun : r.run = some x) (hfault : r.fault = some (st, stage, entry))
    (hissued : x.issued = []) (hfailed : x.failed = []) : rowBoundary p s = s.haltRsq p st stage entry := by
  simp only [rowBoundary, h.rsq, if_neg (State.rsqState_ne_four h.started), if_neg h.gate_open, hrun, hfault, hissued, hfailed, and_self,
    if_true]

end State.AtBoundary

/-- What comes after a boundary's leaves: HALT, the end of a drain, or the next row. -/
def State.afterLeaves (t : State) (p : Nat) (y : Rsq) : State :=
  if y.stop.any fun z => decide (z.1 = 2) then t.stopAt p 4
  else if t.rsqState p = 3 ∧ y.seqs = [] then t.stopAt p 1
  else t.startRow p

theorem State.boundary_of_no_row {y : Rsq} (hr : tget s.rsqs p = some r) (hresize : r.resize = none)
    (hy : tget (s.leaveAll p).rsqs p = some y) : s.boundary p none = (s.leaveAll p).afterLeaves p y := by
  simp only [State.boundary, State.resizeRsq, hr, hresize, hy, State.afterLeaves]

theorem State.afterLeaves_halts {y : Rsq} (h : ∃ z ∈ y.stop, z.1 = 2) : t.afterLeaves p y = t.stopAt p 4 :=
  if_pos (by simpa using h)

theorem State.afterLeaves_of_no_halt {y : Rsq} (h : ∀ z ∈ y.stop, z.1 ≠ 2) :
    t.afterLeaves p y = if t.rsqState p = 3 ∧ y.seqs = [] then t.stopAt p 1 else t.startRow p :=
  if_neg fun hany => by
    obtain ⟨z, hz, hmode⟩ := List.any_eq_true.mp hany
    exact h z hz (of_decide_eq_true hmode)

/-! ### ROW_COMMAND_FAULT (R281) -/

theorem rowCommandFault_of_failed {id i st : Nat} (hr : tget s.rsqs p = some r) (hrun : r.run = some x)
    (hfailed : x.failed.find? (fun e => decide (e.1 = id)) = some (id, i, st)) : rowCommandFault p id s =
      s.putRsq p { r with
        run := some { x with failed := x.failed.filter fun e => !(decide (e.1 = id)) },
        fault := some (r.fault.getD (st, eStage (r.prog.getD i []), i)) } := by
  simp only [rowCommandFault, hr, hrun, hfailed]

/-- Settles O35: an entry's checks, a row's stages and a boundary's parts decide what follows. -/
theorem sequencerEvents : Obligations.SequencerEvents := by
  refine ⟨fun s q slot x s1 e n hq htyp hfetch helig hturn hentry hfresh => ?entry,
    fun s p r x hr hrun hstarted hopen hsound hclean => ?stage, fun s p r hr hstarted hheld hrun hresize => ?noRow,
    fun s p r x hr hstarted hheld hrun => ?row, fun s p id r x i st hr hrun hfailed => ?fault⟩
  case entry =>
    have h : s.SeqAtHead q x s1 e n := ⟨hq, htyp, hfetch, helig, hturn, hentry, hfresh⟩
    refine ⟨fun hchecks r hr hroom hslot hfree => ?admitted, fun hchecks => next_congr (h.seqEntryFetch_rejects hchecks)⟩
    case admitted =>
      refine ⟨_, _, _, next_congr (h.seqEntryFetch_admits hchecks hr hroom hslot hfree), State.tget_putRsq_same _ _ _,
        tget_tput_same _ _ _, rfl, rfl, rfl, rfl, rfl, rfl, rfl, fun i hi => tget_tput_ne _ _ hi, ?_⟩
      exact congrArg (Option.map fun z => z.head) (State.queue_setQueue_same s1 q (x.seqTaken e))
  case stage =>
    have h : s.RowRuns p r x := ⟨hr, hrun, hstarted, hopen, hsound, hclean⟩
    refine ⟨fun hissue => next_congr (h.rowStageIssue_issues hissue), fun hnone hended hdone => ⟨fun hafter => ?last,
      fun stage step hafter => next_congr (h.rowStageIssue_next hnone hended hdone hafter)⟩⟩
    case last =>
      exact ⟨_, { x with ended := true }, next_congr (h.rowStageIssue_last hnone hended hdone hafter), rfl, by
        rw [State.tget_putRsq_same, Option.map_some]⟩
  case noRow =>
    have h : s.AtBoundary p r := ⟨hr, hstarted, hheld⟩
    obtain ⟨y, hy, hcfg⟩ := State.RsqWith.leaveAll ⟨r, hr, rfl⟩
    have hnext : exec (.rowBoundary p) s = .next ((s.leaveAll p).afterLeaves p y) :=
      next_congr ((h.rowBoundary_of_no_row hrun).trans (State.boundary_of_no_row hr hresize hy))
    rw [hnext]
    refine ⟨_, y, rfl, hy, hcfg, fun hhalt => next_congr (State.afterLeaves_halts hhalt), fun hno hdrain hempty => ?_, fun hno hmore => ?_⟩
    · exact next_congr ((State.afterLeaves_of_no_halt hno).trans (if_pos ⟨hdrain, hempty⟩))
    · exact next_congr ((State.afterLeaves_of_no_halt hno).trans (if_neg fun ⟨hdrain, hempty⟩ => hmore hdrain hempty))
  case row =>
    have h : s.AtBoundary p r := ⟨hr, hstarted, hheld⟩
    exact ⟨fun s1 l hsound hended houts => next_congr (h.rowBoundary_of_ended hrun hsound hended houts),
      fun st stage entry hfault hissued hfailed => next_congr (h.rowBoundary_of_fault hrun hfault hissued hfailed)⟩
  case fault =>
    exact ⟨_, _, next_congr (rowCommandFault_of_failed hr hrun hfailed), State.tget_putRsq_same _ _ _, rfl, rfl⟩

end Sys2Proof.Machine
end

section
/-! What the parts of a scheduling event leave alone (09): the panels, the tiles, the stash images, the settings and the stage. One lemma
for each function that touches none of them bears the function's name, so that a proof follows the function's own text. -/

namespace Sys2Proof.Machine

-- The lemmas below cite one another in long chains: each is elaborated when those it cites are done.
set_option Elab.async false

variable {s t u : State}

/-- Who holds each tile and what runs on it, the stash images, and the settings with their stage. -/
def State.schedule (s : State) := (s.panels, s.tiles, s.images, s.nextImage, s.epochs, s.committed, s.stage)

def State.SchedKept (s t : State) : Prop := t.schedule = s.schedule

namespace State.SchedKept

theorem refl (s : State) : s.SchedKept s := rfl

theorem trans (h : s.SchedKept t) (h' : t.SchedKept u) : s.SchedKept u := Eq.trans h' h

/-- An update of other fields. -/
theorem update (h : s.SchedKept t) (e : u.schedule = t.schedule := by rfl) : s.SchedKept u := e.trans h

theorem ite {p : Prop} {_ : Decidable p} (ht : s.SchedKept t) (hu : s.SchedKept u) : s.SchedKept (if p then t else u) := by
  split
  · exact ht
  · exact hu

theorem foldl {α : Type} {f : State → α → State} (h : s.SchedKept t) (hf : ∀ u a, s.SchedKept u → s.SchedKept (f u a)) (l : List α) :
    s.SchedKept (l.foldl f t) := List.foldlRecOn l f h fun u hu a _ => hf u a hu

/-- For a fold that carries more than the state. -/
theorem foldl_fst {α β : Type} {f : State × β → α → State × β} {x : State × β} (h : s.SchedKept x.1)
    (hf : ∀ x a, s.SchedKept x.1 → s.SchedKept (f x a).1) (l : List α) : s.SchedKept (l.foldl f x).1 :=
  List.foldlRecOn (motive := fun x : State × β => s.SchedKept x.1) l f h fun x hx a _ => hf x a hx

/-- For the state that a pattern `(u, b)` names. -/
theorem of_fst {β : Type} {x : State × β} {b : β} (h : s.SchedKept x.1) (e : x = (u, b)) : s.SchedKept u := by
  subst e
  exact h

/-- For the state that a pattern `(b, u)` names. -/
theorem of_snd {β : Type} {x : β × State} {b : β} (h : s.SchedKept x.2) (e : x = (b, u)) : s.SchedKept u := by
  subst e
  exact h

/-- Records, events and counts touch no schedule. -/
theorem recordOnly (h : s.SchedKept t) (hr : t.RecordOnly u) : s.SchedKept u :=
  h.trans (congrArg (a₁ := u.offRecord) (a₂ := t.offRecord) State.schedule hr)

/-! What is kept -/

theorem fields (h : s.SchedKept t) : t.panels = s.panels ∧ t.tiles = s.tiles ∧ t.images = s.images ∧ t.nextImage = s.nextImage ∧
    t.epochs = s.epochs ∧ t.committed = s.committed ∧ t.stage = s.stage := by
  simpa [SchedKept, schedule] using h

theorem panels (h : s.SchedKept t) : t.panels = s.panels := h.fields.1

theorem tile (h : s.SchedKept t) (k : Nat) : t.tile k = s.tile k := by
  obtain ⟨-, htiles, -⟩ := h.fields
  rw [State.tile, htiles, State.tile]

theorem images (h : s.SchedKept t) : t.images = s.images := by
  obtain ⟨-, -, himages, -⟩ := h.fields
  exact himages

theorem nextImage (h : s.SchedKept t) : t.nextImage = s.nextImage := by
  obtain ⟨-, -, -, hnext, -⟩ := h.fields
  exact hnext

theorem epochs (h : s.SchedKept t) : t.epochs = s.epochs := by
  obtain ⟨-, -, -, -, hepochs, -⟩ := h.fields
  exact hepochs

theorem committed (h : s.SchedKept t) : t.committed = s.committed := by
  obtain ⟨-, -, -, -, -, hcommitted, -⟩ := h.fields
  exact hcommitted

theorem stage (h : s.SchedKept t) : t.stage = s.stage := by
  obtain ⟨-, -, -, -, -, -, hstage⟩ := h.fields
  exact hstage

theorem settings (h : s.SchedKept t) (e : Nat) : t.settings e = s.settings e := by
  rw [State.settings, h.epochs, h.committed, State.settings]

theorem cfg (h : s.SchedKept t) : t.cfg = s.cfg := by
  rw [State.cfg, h.committed, h.settings, State.cfg]

/-! Registers and counts -/

theorem setFld (h : s.SchedKept t) (f : Fld) (i v : Nat) : s.SchedKept (t.setFld f i v) := h.update

theorem incFld (h : s.SchedKept t) (f : Fld) (i n : Nat) : s.SchedKept (t.incFld f i n) := h.update

theorem setReg (h : s.SchedKept t) (r : Reg) (i v : Nat) : s.SchedKept (t.setReg r i v) := h.update

theorem resetReg (h : s.SchedKept t) (r : Reg) (i : Nat) : s.SchedKept (t.resetReg r i) := h.update

theorem setDomain (h : s.SchedKept t) (d : Nat) (on : Bool) : s.SchedKept (t.setDomain d on) := h.update

theorem bump (h : s.SchedKept t) (v i n : Nat) (a : Option Attr) : s.SchedKept (t.bump v i n a) :=
  h.recordOnly ((RecordOnly.refl t).bump v i n a)

theorem bumpFn (h : s.SchedKept t) (f i n : Nat) : s.SchedKept (t.bumpFn f i n) := h.ite h.update

theorem clearUnit (h : s.SchedKept t) (v : Nat) : s.SchedKept (t.clearUnit v) :=
  (h.foldl (fun _ _ hu => hu.resetReg _ _) _).foldl (fun _ _ hu => hu.resetReg _ _) _

theorem freshPanelRegs (h : s.SchedKept t) (p : Nat) : s.SchedKept (t.freshPanelRegs p) := h.foldl (fun _ _ hu => hu.resetReg _ _) _

/-! The power controller (11) -/

theorem stopFiller (h : s.SchedKept t) (k : Nat) : s.SchedKept (t.stopFiller k) := h.update

theorem updateReservations (h : s.SchedKept t) : s.SchedKept t.updateReservations :=
  (h.foldl (fun _ _ hu => hu.setFld _ _ _) _).setFld _ _ _

theorem updateBelow (h : s.SchedKept t) : s.SchedKept t.updateBelow := h.setFld _ _ _

theorem paceDie (h : s.SchedKept t) (n : Nat) : s.SchedKept (t.paceDie n) :=
  (((h.ite (h.bump _ _ _ _)).setFld _ _ _).setFld _ _ _).setFld _ _ _

theorem paceDies (h : s.SchedKept t) : s.SchedKept t.paceDies := h.foldl (fun _ _ hu => hu.paceDie _) _

/-! Memory, events and keys -/

theorem postMgr (h : s.SchedKept t) (code info : Nat) : s.SchedKept (t.postMgr code info) :=
  h.recordOnly ((RecordOnly.refl t).postMgr code info)

theorem writePhys (h : s.SchedKept t) (w : Who) (slot a : Nat) (b : List Byte) : s.SchedKept (t.writePhys w slot a b).1 :=
  h.recordOnly ((RecordOnly.refl t).writePhys w slot a b)

theorem writeMasked (h : s.SchedKept t) (key line mask : Nat) (b : List Byte) : s.SchedKept (t.writeMasked key line mask b).1 := by
  unfold State.writeMasked
  refine foldl_fst h (fun x r hx => ?_) _
  exact hx.recordOnly ((RecordOnly.refl x.1).pwrite _ _ _)

theorem logFault (h : s.SchedKept t) (cls detail status owner : Nat) (ctx : Option Nat) (tag addr : Nat) :
    s.SchedKept (t.logFault cls detail status owner ctx tag addr) := by
  have hadd : s.SchedKept (t.addFault cls detail status owner ctx tag addr) := by
    unfold State.addFault
    dsimp only
    split
    · exact h.update
    · exact h.update
  exact (hadd.postMgr _ _).ite hadd

theorem loadSlot (h : s.SchedKept t) (p key : Nat) : s.SchedKept (t.loadSlot p key) := by
  have hsweep := h.foldl (f := fun (v : State) (e : Byte × Nat) => v.sweepGen p e.1) (fun _ _ hu => hu.update)
  exact (hsweep _).update

theorem generate (h : s.SchedKept t) (p : Nat) : s.SchedKept (t.generate p) := loadSlot h.update _ _

theorem keyErase (h : s.SchedKept t) (p : Nat) : s.SchedKept (t.keyOp 2 p) :=
  h.ite ((h.setFld _ _ _).ite ((h.loadSlot p 0).setFld _ _ _))

theorem heldWrite (h : s.SchedKept t) (held : List TlbEntry) (va : Nat) (b : List Byte) : s.SchedKept (t.heldWrite held va b) := by
  unfold State.heldWrite
  refine h.foldl (fun v _ hv => ?_) _
  split
  · exact hv
  · exact hv.writePhys _ _ _ _

/-! Cores and tiles -/

theorem setCore (h : s.SchedKept t) (k : Nat) (x : Core) : s.SchedKept (t.setCore k x) := h.update

theorem modCore (h : s.SchedKept t) (k : Nat) (f : Core → Core) : s.SchedKept (t.modCore k f) := h.update

theorem dropCores (h : s.SchedKept t) (l : List Nat) : s.SchedKept (t.dropCores l) := h.foldl (fun _ _ hu => hu.setCore _ _) _

theorem writeBackLine (h : s.SchedKept t) (l : L1Line) : s.SchedKept (t.writeBackLine l) := by
  have hwrite := h.writeMasked ((t.keyOf l.key).getD 0) (localLine l.line) l.dirty l.bytes
  unfold State.writeBackLine
  dsimp only
  split
  · exact h
  · split <;> rename_i e
    · exact hwrite.of_fst e
    · exact (hwrite.of_fst e).logFault _ _ _ _ _ _ _

theorem cleanCore (h : s.SchedKept t) (k : Nat) : s.SchedKept (t.cleanCore k) :=
  (h.foldl (fun _ _ hu => hu.writeBackLine _) _).modCore _ _

theorem cleanCores (h : s.SchedKept t) (l : List Nat) : s.SchedKept (l.foldl (fun (v : State) k => v.cleanCore k) t) :=
  h.foldl (fun _ _ hu => hu.cleanCore _) _

theorem clearScratch (h : s.SchedKept t) (k : Nat) : s.SchedKept (t.clearScratch k) := h.update

theorem leaveTile (h : s.SchedKept t) (k : Nat) : s.SchedKept (t.leaveTile k) := by
  unfold State.leaveTile
  split
  · exact (h.clearScratch k).ite h
  · exact h

theorem unloadSlots (h : s.SchedKept t) (k : Nat) : s.SchedKept (t.unloadSlots k) := h.foldl (fun _ _ hu => hu.resetReg _ _) _

theorem flushTileTlbs (h : s.SchedKept t) (k : Nat) : s.SchedKept (t.flushTileTlbs k) := h.update

theorem resetTileRegs (h : s.SchedKept t) (k : Nat) : s.SchedKept (t.resetTileRegs k) :=
  (((h.resetReg _ _).resetReg _ _).clearUnit _).foldl (fun _ _ hu => ((hu.resetReg _ _).resetReg _ _).clearUnit _) _

theorem scrubTile (h : s.SchedKept t) (k : Nat) : s.SchedKept (t.scrubTile k) :=
  (((h.cleanCores (tileCores k)).clearScratch k).dropCores _).unloadSlots k

theorem tileOff (h : s.SchedKept t) (k : Nat) : s.SchedKept (t.tileOff k) :=
  (((((h.setDomain _ _).clearScratch k).dropCores _).unloadSlots k).resetTileRegs k).flushTileTlbs k

theorem tileOnDo (h : s.SchedKept t) (k : Nat) : s.SchedKept (t.tileOnDo k) := (h.setDomain _ _).setDomain _ _

theorem giveSlots (h : s.SchedKept t) (k p : Nat) : s.SchedKept (t.giveSlots k p) := by
  unfold State.giveSlots
  split
  · exact h
  · exact h.foldl (fun _ _ hu => hu.setReg _ _ _) _

theorem changeFrames (h : s.SchedKept t) (old : List Bool) : s.SchedKept (t.changeFrames old) := by
  refine h.foldl (fun v _ hv => ?_) _
  split
  · exact hv
  · exact hv.update

/-! Commands -/

theorem modCmd (h : s.SchedKept t) (id : Nat) (f : Cmd → Cmd) : s.SchedKept (t.modCmd id f) := h.update

theorem skeinFence (h : s.SchedKept t) (ctx : Nat) : s.SchedKept (t.skeinFence ctx).1 :=
  h.foldl_fst (x := (t, false)) (fun _ _ hx => bump hx.update _ _ _ _) _

theorem fenceScope (h : s.SchedKept t) (ctx scope : Nat) : s.SchedKept (t.fenceScope ctx scope).1 := by
  have hskein := h.skeinFence ctx
  unfold State.fenceScope
  split
  · exact h
  · dsimp only
    split
    · exact hskein.update
    · exact hskein

theorem beginCmd (h : s.SchedKept t) (c : Cmd) : s.SchedKept (t.beginCmd c) := by
  have hfence := h.fenceScope c.ctx c.fenceB
  exact (hfence.modCmd _ _).ite h

theorem noteStashed (h : s.SchedKept t) (id : Nat) : s.SchedKept (t.noteStashed id) := (h.modCmd _ _).ite h

/-! Requests to other packages (10) -/

theorem setLink (h : s.SchedKept t) (l : Nat) (x : LinkSt) : s.SchedKept (t.setLink l x) := h.update

theorem transmit (h : s.SchedKept t) (l : Nat) (m : LinkMsg) : s.SchedKept (t.transmit l m) := by
  have hbump := h.bump (unitLink l) (classNum m.cls) (16 * m.slots) none
  have hleft : s.SchedKept ((t.bump (unitLink l) (classNum m.cls) (16 * m.slots) none).noteLeft m) := ite hbump.update hbump
  exact hleft.update

theorem drainLink (h : s.SchedKept t) (n l : Nat) : s.SchedKept (State.drainLink n t l) := by
  induction n generalizing t with
  | zero => exact h
  | succ n ih =>
    unfold State.drainLink
    split
    · exact h
    · exact ih (transmit (h.setLink _ _) _ _)

theorem enqueue (h : s.SchedKept t) (l rank : Nat) (m : LinkMsg) : s.SchedKept (t.enqueue l rank m) :=
  ite (drainLink h.update _ _) h.update

theorem inject (h : s.SchedKept t) {m : LinkMsg} (e : t.inject m = some u) : s.SchedKept u := by
  unfold State.inject at e
  split at e
  · cases e
  · cases e
    exact h.enqueue _ _ _

theorem launchStatus (h : s.SchedKept t) (k st : Nat) : s.SchedKept (t.launchStatus k st) := by
  unfold State.launchStatus
  split
  · exact h
  · exact h.update

theorem withMem (h : s.SchedKept t) (m : Memory) : s.SchedKept { t with mem := m } := h.update

theorem withStreams (h : s.SchedKept t) (l : List IssStream) : s.SchedKept { t with streams := l } := h.update

theorem withRemotes (h : s.SchedKept t) (l : List Remote) : s.SchedKept { t with remotes := l } := h.update

theorem withToApply (h : s.SchedKept t) (l : List CfgResource) : s.SchedKept { t with toApply := l } := h.update

theorem fresh (h : s.SchedKept t) : s.SchedKept t.fresh.2 := h.update

theorem loseRemote (h : s.SchedKept t) (r : Remote) : s.SchedKept (t.loseRemote r) := by
  unfold State.loseRemote
  extract_lets s₁ s₂ s₃ s₄
  have h₃ : s.SchedKept s₃ := ((h.withRemotes _).incFld _ _ _).logFault _ _ _ _ _ _ _
  have h₄ : s.SchedKept s₄ := h₃.withStreams _
  split
  · exact h₄.modCmd _ _
  · exact h₄.modCmd _ _
  · extract_lets k s₅
    have h₅ : s.SchedKept s₅.fresh.2 := (h₄.launchStatus k 0x0308).fresh
    exact ite (h₅.modCore _ _) (ite (h₅.modCore _ _) h₅)
  · exact h₄

theorem sendRemote (h : s.SchedKept t) (kind : RemoteKind) (pkg ctx func stream addr : Nat) (b : LinkBody) (w : Waiter) :
    s.SchedKept (t.sendRemote kind pkg ctx func stream addr b w) := by
  unfold State.sendRemote
  extract_lets _ s₁
  have h₁ : s.SchedKept s₁ := h.update
  split
  · next e => exact (h₁.inject e).withRemotes _
  · exact ((h₁.withRemotes _).incFld _ _ _).loseRemote _

theorem remoteRead (h : s.SchedKept t) (ctx func ga key : Nat) (device : Bool) (w : Waiter) :
    s.SchedKept (t.remoteRead ctx func ga key device w) := by
  have hsend := h.sendRemote .read (gaPkg ga) ctx func 0 (ga / 128 * 128) (.read (w64 (ga / 128 * 128)) 128 key) w
  exact h.ite ((hsend.withRemotes _).ite hsend)

theorem loadCore (h : s.SchedKept t) (k old : Nat) (c : Core) : s.SchedKept (t.loadCore k old c) := by
  unfold State.loadCore
  extract_lets s₁
  have h₁ : s.SchedKept s₁ := h.setCore _ _
  split
  · exact h₁
  · extract_lets s₂
    have h₂ : s.SchedKept s₂ := h₁.update
    split
    · exact h₂
    · exact h₂.foldl (fun _ _ hu => hu.remoteRead _ _ _ _ _ _) _

end State.SchedKept

end Sys2Proof.Machine
end

section
/-! Tiles under the steps that hand them over, take them for LC work or stop their units (09.1 to 09.5): each step changes one tile, and a
fold of such steps changes each of its tiles once. -/

namespace Sys2Proof.Machine

variable {s : State} {k : Nat}

/-- Each step of `f` changes no tile but the one that it is given. -/
def TileWise (f : State → Nat → State) : Prop := ∀ s j k, k ≠ j → (f s j).tile k = s.tile k

theorem TileWise.foldl_of_notMem {f : State → Nat → State} (hf : TileWise f) {l : List Nat} (hk : k ∉ l) :
    (l.foldl f s).tile k = s.tile k :=
  List.foldlRecOn (motive := fun t : State => t.tile k = s.tile k) l f rfl fun t ht j hj =>
    (hf t j k fun hkj => hk (hkj ▸ hj)).trans ht

/-- What a step makes of its tile is what a fold of such steps makes of it. -/
theorem TileWise.foldl_of_mem {f : State → Nat → State} (hf : TileWise f) {R : Tile → Tile → Prop}
    (hR : ∀ t : State, R (t.tile k) ((f t k).tile k)) {l : List Nat} (hl : l.Nodup) (hk : k ∈ l) :
    R (s.tile k) ((l.foldl f s).tile k) := by
  induction l generalizing s with
  | nil => cases hk
  | cons j l ih =>
    obtain ⟨hj, hl⟩ := List.nodup_cons.mp hl
    rw [List.foldl_cons]
    obtain rfl | hk := List.mem_cons.mp hk
    · rw [hf.foldl_of_notMem hj]
      exact hR s
    · rw [← hf s j k fun hkj => hj (hkj ▸ hk)]
      exact ih hl hk

theorem nodup_maskBits (m n : Nat) : (maskBits m n).Nodup := List.nodup_range.filter _

theorem State.tile_modTile (s : State) (k j : Nat) (f : Tile → Tile) :
    (s.modTile k f).tile j = if j = k then f (s.tile k) else s.tile j := by
  split
  · next h => rw [h, State.modTile, State.tile_setTile_same]
  · next h => rw [State.modTile, State.tile_setTile_ne _ _ h]

theorem any_isSome_of_mem {α : Type} {f : Nat → Option α} {l : List Nat} {a : α} (hk : k ∈ l) (h : f k = some a) :
    (l.any fun k => (f k).isSome) = true :=
  List.any_eq_true.mpr ⟨k, hk, Option.isSome_iff_exists.mpr ⟨a, h⟩⟩

theorem not_any_isSome {α : Type} {f : Nat → Option α} {l : List Nat} (h : ∀ k ∈ l, f k = none) :
    ¬ (l.any fun k => (f k).isSome) = true := by
  rw [List.any_eq_true]
  rintro ⟨k, hk, hf⟩
  exact Option.not_isSome_iff_eq_none.mpr (h k hk) hf

/-! ### Panels take and lose tiles (R287, R303) -/

theorem State.takeTile_eq (s : State) (p k : Nat) :
    ∃ v, s.SchedKept v ∧ s.takeTile p k = v.modTile k fun x => { x with owner := some p, home := none } := by
  have hon : s.SchedKept (if s.tileOn k then s else s.tileOnDo k) := (SchedKept.refl s).ite ((SchedKept.refl s).tileOnDo k)
  exact ⟨_, (((((hon.stopFiller k).dropCores _).clearScratch k).unloadSlots k).flushTileTlbs k).resetTileRegs k, rfl⟩

theorem State.tile_takeTile (s : State) (p k j : Nat) :
    (s.takeTile p k).tile j = if j = k then { s.tile k with owner := some p, home := none } else s.tile j := by
  obtain ⟨v, hv, h⟩ := s.takeTile_eq p k
  rw [h, State.tile_modTile, hv.tile, hv.tile]

theorem tileWise_takeTile (p : Nat) : TileWise fun s k => s.takeTile p k := fun s j k hk => by
  rw [State.tile_takeTile, if_neg hk]

/-- Handing a tile over changes its owner, ends a stop of its unit, and changes no other tile; the panels stay a table. -/
theorem State.rebindTile_frame (s : State) (k : Nat) (dst : Option Nat) (off : Bool) :
    (∀ j, (s.rebindTile k dst off).tile j = if j = k then { s.tile k with owner := dst, pre := none } else s.tile j) ∧
      (tsorted s.panels = true → tsorted (s.rebindTile k dst off).panels = true) := by
  unfold State.rebindTile
  extract_lets src s₁ s₂ s₃ s₄
  have h₃ : s₂.SchedKept s₃ := by
    have h := SchedKept.refl s₂
    exact (h.tileOff k).ite (((h.tileOnDo k).ite h).ite (((h.scrubTile k).flushTileTlbs k).resetTileRegs k))
  have htile₃ : ∀ j, s₃.tile j = if j = k then { s.tile k with owner := none, pre := none } else s.tile j := fun j =>
    (h₃.tile j).trans (s₁.tile_modTile k j _)
  have h₄ : (∀ j, s₄.tile j = s₃.tile j) ∧ (tsorted s.panels = true → tsorted s₄.panels = true) := by
    have hpanels : s₃.panels = s.panels := h₃.panels
    unfold s₄
    generalize src = o
    split
    · exact ⟨fun _ => rfl, fun h => tsorted_tmod _ _ _ (hpanels ▸ h)⟩
    · exact ⟨fun _ => rfl, fun h => hpanels ▸ h⟩
  obtain ⟨htile₄, hsorted₄⟩ := h₄
  split
  · next p =>
    extract_lets s₅
    have h₆ := (SchedKept.refl (s₅.modTile k fun x => { x with owner := some p })).giveSlots k p |>.incFld .PNL_COUNTS_REBINDS p 1
    refine ⟨fun j => ?_, fun h => h₆.panels ▸ tsorted_tmod _ _ _ (hsorted₄ h)⟩
    have htile₅ : ∀ i, s₅.tile i = s₃.tile i := htile₄
    rw [h₆.tile, State.tile_modTile, htile₅, htile₅, htile₃, htile₃]
    split
    · rw [if_pos rfl]
    · rfl
  · exact ⟨fun j => (htile₄ j).trans (htile₃ j), hsorted₄⟩

theorem State.tile_rebindTile (s : State) (k j : Nat) (dst : Option Nat) (off : Bool) :
    (s.rebindTile k dst off).tile j = if j = k then { s.tile k with owner := dst, pre := none } else s.tile j :=
  (s.rebindTile_frame k dst off).1 j

theorem State.tsorted_panels_rebindTile (k : Nat) (dst : Option Nat) (off : Bool) (h : tsorted s.panels = true) :
    tsorted (s.rebindTile k dst off).panels = true := (s.rebindTile_frame k dst off).2 h

theorem tileWise_rebindTile (dst : Option Nat) (off : Bool) : TileWise fun s k => s.rebindTile k dst off := fun s j k hk => by
  rw [State.tile_rebindTile, if_neg hk]

/-! ### Stops of units (R297) -/

theorem State.tile_requestStop_ne (s : State) {j k : Nat} (lc quantum rebind freeze : Bool) (h : k ≠ j) :
    (s.requestStop j lc quantum rebind freeze).tile k = s.tile k := by
  unfold State.requestStop
  dsimp only
  split
  · rfl
  · exact s.tile_setTile_ne _ h
  · exact s.tile_setTile_ne _ h

/-- A unit that is to stop for a re-bind is being stopped for one, whatever it was being stopped for before. -/
theorem State.requestStop_forRebind (s : State) (k : Nat) {u : TileUnit} (h : (s.tile k).unit = some u) :
    ∃ y, ((s.requestStop k false false true false).tile k).pre = some y ∧ y.forRebind = true := by
  unfold State.requestStop
  dsimp only
  rw [h]
  cases hpre : (s.tile k).pre with
  | none => exact ⟨_, congrArg Tile.pre (s.tile_setTile_same k _), rfl⟩
  | some y => exact ⟨_, congrArg Tile.pre (s.tile_setTile_same k _), Bool.or_true _⟩

/-- A unit without a stop is asked to stop. -/
theorem State.requestStop_of_running (s : State) (k : Nat) {u : TileUnit} (lc quantum rebind freeze : Bool) (hunit : (s.tile k).unit = some u)
    (hpre : (s.tile k).pre = none) : s.requestStop k lc quantum rebind freeze =
      (s.setTile k { s.tile k with pre := some ⟨.requested, s.time, lc, quantum, rebind, freeze⟩ }).setFld .ARR_STATUS_STOP_PENDING k 1 := by
  simp only [State.requestStop, hunit, hpre]

end Sys2Proof.Machine
end

section
/-! Panels are created, destroyed and re-bound (09.1, 09.5). -/

namespace Sys2Proof.Machine

variable {s : State} {c : Cmd} {p : Nat} {r : List Byte}

/-! ### Tables -/

/-- A change of every entry that keeps the keys. -/
theorem tget_map_snd {α β : Type} (t : Tab α) (f : α → β) (n : Nat) :
    tget (t.map fun e => (e.1, f e.2)) n = (tget t n).map f := by
  induction t with
  | nil => rfl
  | cons e t ih =>
    simp only [List.map_cons, tget]
    split
    · rfl
    · exact ih

theorem mem_of_tget {α : Type} {t : Tab α} {n : Nat} {v : α} (h : tget t n = some v) : (n, v) ∈ t := by
  induction t with
  | nil => cases h
  | cons e t ih =>
    rw [tget] at h
    split at h
    · next hn =>
      cases h
      exact hn ▸ List.mem_cons_self
    · exact List.mem_cons_of_mem _ (ih h)

theorem any_tput_of_tget {α : Type} {t : Tab α} {n : Nat} {v w : α} {p : Nat × α → Bool} (h : tget t n = some v)
    (hp : p (n, w) = p (n, v)) : (tput t n w).any p = t.any p := by
  have hmem : p (n, v) = true → t.any p = true := fun hv => List.any_eq_true.mpr ⟨_, mem_of_tget h, hv⟩
  induction t with
  | nil => cases h
  | cons e t ih =>
    rw [tput]
    split
    · rw [List.any_cons, hp]
      cases hv : p (n, v)
      · rfl
      · exact (hmem hv).symm
    · next hlt =>
      rw [tget] at h
      split at h
      · next hn =>
        cases h
        rw [if_pos hn, List.any_cons, List.any_cons, hp, hn]
      · next hn =>
        rw [if_neg hn, List.any_cons, List.any_cons, ih h fun hv => List.any_eq_true.mpr ⟨_, mem_of_tget h, hv⟩]

/-- A test that the change of an entry does not alter comes out as before, on tables of any order. -/
theorem any_tmod {α : Type} (t : Tab α) (n : Nat) {f : α → α} {p : Nat × α → Bool} (hp : ∀ v, p (n, f v) = p (n, v)) :
    (tmod t n f).any p = t.any p := by
  unfold tmod
  cases h : tget t n with
  | none => rfl
  | some v => exact any_tput_of_tget h (hp v)

/-! ### PANEL_CREATE (R287) -/

theorem State.cfg_modEpochs (s : State) (f : Settings → Settings) (h : thas s.epochs s.committed = true) :
    (s.modEpochs f).cfg = f s.cfg := by
  obtain ⟨x, hx⟩ := Option.isSome_iff_exists.mp h
  have hmap : tget (s.modEpochs f).epochs s.committed = some (f x) := (tget_map_snd _ _ _).trans (congrArg _ hx)
  have hcfg : s.cfg = x := congrArg (Option.getD · (tgetD s.epochs s.committed Settings.initial)) hx
  exact (congrArg (Option.getD · _) hmap).trans (congrArg f hcfg.symm)

theorem State.takeTiles_kept (s : State) (p : Nat) (l : List Nat) :
    (l.foldl (fun s k => s.takeTile p k) s).panels = s.panels ∧ (l.foldl (fun s k => s.takeTile p k) s).cfg = s.cfg := by
  refine List.foldlRecOn (motive := fun t : State => t.panels = s.panels ∧ t.cfg = s.cfg) l _ ⟨rfl, rfl⟩ fun t ht k _ => ?_
  obtain ⟨hpanels, hcfg⟩ := ht
  obtain ⟨v, hv, h⟩ := t.takeTile_eq p k
  rw [h]
  exact ⟨hv.panels.trans hpanels, hv.cfg.trans hcfg⟩

theorem State.owner_takeTiles {l : List Nat} (hl : l.Nodup) {k : Nat} (hk : k ∈ l) :
    ((l.foldl (fun s k => s.takeTile p k) s).tile k).owner = some p :=
  (tileWise_takeTile p).foldl_of_mem (R := fun _ y => y.owner = some p)
    (fun t => congrArg Tile.owner ((t.tile_takeTile p k k).trans (if_pos rfl))) hl hk

/-- The panel and its settings, before it has taken its tiles. -/
def State.addPanel (s : State) (p tiles : Nat) (c : PanelCfg) : State :=
  { s with panels := tput s.panels p ⟨tiles, []⟩ }.modEpochs fun e => { e with panels := tput e.panels p c }

theorem State.cfg_addPanel (s : State) (p tiles : Nat) (c : PanelCfg) (h : thas s.epochs s.committed = true) :
    (s.addPanel p tiles c).cfg.panel p = c :=
  (congrArg (Settings.panel · p) (State.cfg_modEpochs { s with panels := tput s.panels p ⟨tiles, []⟩ } _ h)).trans (tgetD_tput_same _ _ _ _)

/-- A fresh key, the panel with its settings, and then its tiles. -/
theorem panelCreateDo_of_fresh_key (hkey : bit (leAt r 17 1) 0 = false) : ∃ t w,
    panelCreateDo s r = (t, 0) ∧ ((s.generate (leAt r 16 1 % 64)).addPanel (leAt r 16 1 % 64) (leAt r 18 6) (panelCfgOf r)).SchedKept w ∧
      ((maskBits (leAt r 18 6) 48).foldl (fun s k => s.takeTile (leAt r 16 1 % 64) k) w).SchedKept t := by
  unfold panelCreateDo
  rw [hkey]
  exact ⟨_, _, rfl, ((State.SchedKept.refl _).freshPanelRegs _).setFld _ _ _,
    (((State.SchedKept.update (State.SchedKept.refl _)).clearUnit _).updateReservations).paceDies⟩

/-! ### PANEL_DESTROY (R288) -/

/-- Tiles without a unit go back to the pool. -/
theorem State.rebindTiles_pool (hs : tsorted s.panels = true) {l : List Nat} (hl : l.Nodup) :
    tsorted (l.foldl (fun s k => s.rebindTile k none false) s).panels = true ∧
      ∀ k ∈ l, ((l.foldl (fun s k => s.rebindTile k none false) s).tile k).owner = none := by
  refine ⟨List.foldlRecOn (motive := fun t : State => tsorted t.panels = true) l _ hs fun t ht k _ => State.tsorted_panels_rebindTile _ _ _ ht,
    fun k hk => ?_⟩
  exact (tileWise_rebindTile none false).foldl_of_mem (R := fun _ y => y.owner = none)
    (fun t => congrArg Tile.owner ((t.tile_rebindTile k k none false).trans (if_pos rfl))) hl hk

/-- No tile goes back to a panel that is no more. -/
def State.forgetHome (s : State) (p : Nat) : State :=
  (List.range 48).foldl (fun s k => if (s.tile k).home = some p then s.modTile k fun x => { x with home := none } else s) s

theorem State.forgetHome_kept (s : State) (p : Nat) :
    (s.forgetHome p).panels = s.panels ∧ ∀ k, ((s.forgetHome p).tile k).owner = (s.tile k).owner := by
  refine List.foldlRecOn (motive := fun t : State => t.panels = s.panels ∧ ∀ k, (t.tile k).owner = (s.tile k).owner) (List.range 48) _
    ⟨rfl, fun _ => rfl⟩ fun t ht j _ => ?_
  obtain ⟨hpanels, howner⟩ := ht
  split
  · refine ⟨hpanels, fun k => ?_⟩
    rw [State.tile_modTile, ← howner k]
    split
    · next hk => rw [hk]
    · rfl
  · exact ⟨hpanels, howner⟩

/-- The panel's tiles are in the pool and its key is erased, while the panel still stands. -/
def State.vacatePanel (s : State) (p : Nat) (x : Panel) : State :=
  (((maskBits x.tiles 48).foldl (fun s k => s.rebindTile k none false) s).keyOp 2 p).forgetHome p

theorem State.tsorted_panels_vacatePanel (p : Nat) (x : Panel) (h : tsorted s.panels = true) : tsorted (s.vacatePanel p x).panels = true := by
  obtain ⟨hsorted, -⟩ := State.rebindTiles_pool h (nodup_maskBits x.tiles 48)
  have hkey := (State.SchedKept.refl ((maskBits x.tiles 48).foldl (fun s k => s.rebindTile k none false) s)).keyErase p
  rw [State.vacatePanel, (State.forgetHome_kept _ p).1, hkey.panels]
  exact hsorted

theorem State.owner_vacatePanel (p : Nat) (x : Panel) (h : tsorted s.panels = true) {k : Nat} (hk : k ∈ maskBits x.tiles 48) :
    ((s.vacatePanel p x).tile k).owner = none := by
  obtain ⟨-, howner⟩ := State.rebindTiles_pool h (nodup_maskBits x.tiles 48)
  have hkey := (State.SchedKept.refl ((maskBits x.tiles 48).foldl (fun s k => s.rebindTile k none false) s)).keyErase p
  rw [State.vacatePanel, (State.forgetHome_kept _ p).2 k, hkey.tile]
  exact howner k hk

/-- The panel, its sequencer and its settings are gone. -/
def State.removePanel (s : State) (p : Nat) : State :=
  { s with panels := tdel s.panels p, rsqs := tdel s.rsqs p }.modEpochs fun e => { e with panels := tdel e.panels p }

theorem State.panels_removePanel (s : State) (p : Nat) : (s.removePanel p).panels = tdel s.panels p := rfl

theorem State.tile_removePanel (s : State) (p k : Nat) : (s.removePanel p).tile k = s.tile k := rfl

theorem panelDestroyDo_of_panel {x : Panel} (hx : tget s.panels (leAt r 16 1 % 64) = some x) : ∃ t,
    panelDestroyDo s r = (t, 0) ∧ ((s.vacatePanel (leAt r 16 1 % 64) x).removePanel (leAt r 16 1 % 64)).SchedKept t := by
  unfold panelDestroyDo State.vacatePanel State.forgetHome
  extract_lets p
  split
  · next hnone => cases hx.symm.trans hnone
  · next y hy =>
    obtain rfl : x = y := Option.some.inj (hx.symm.trans hy)
    extract_lets s₁ s₂ s₃ s₄ s₅ s₆
    have h₅ : (s₃.removePanel p).SchedKept s₅ := (State.SchedKept.refl _).freshPanelRegs p
    have h₆ : (s₃.removePanel p).SchedKept s₆ := h₅.withToApply _
    exact ⟨_, rfl, h₆.updateReservations.updateBelow.paceDies⟩

/-! ### PANEL_REBIND (R302) -/

/-- A tile is handed over for good: compaction will not take it back (R310). -/
def State.handTile (s : State) (dst : Option Nat) (off : Bool) (k : Nat) : State :=
  (s.rebindTile k dst off).modTile k fun x => { x with home := none }

theorem State.tile_handTile (s : State) (dst : Option Nat) (off : Bool) (k j : Nat) :
    (s.handTile dst off k).tile j = if j = k then { s.tile k with owner := dst, pre := none, home := none } else s.tile j := by
  rw [State.handTile, State.tile_modTile, State.tile_rebindTile, State.tile_rebindTile]
  split
  · rw [if_pos rfl]
  · rfl

theorem tileWise_handTile (dst : Option Nat) (off : Bool) : TileWise fun s k => s.handTile dst off k := fun s j k hk => by
  rw [State.tile_handTile, if_neg hk]

theorem State.handTiles (s : State) (dst : Option Nat) (off : Bool) {l : List Nat} (hl : l.Nodup) {k : Nat} (hk : k ∈ l) :
    ((l.foldl (fun s k => s.handTile dst off k) s).tile k).home = none ∧ ((l.foldl (fun s k => s.handTile dst off k) s).tile k).owner = dst := by
  refine (tileWise_handTile dst off).foldl_of_mem (R := fun _ y => y.home = none ∧ y.owner = dst) (fun t => ?_) hl hk
  rw [State.tile_handTile, if_pos rfl]
  exact ⟨rfl, rfl⟩

/-- A command whose work begins holds the tiles that it held. -/
theorem State.lcHolds_modCmd_step (s : State) (id : Nat) (l : List Nat) : (s.modCmd id fun x => { x with step := 1 }).lcHolds l = s.lcHolds l :=
  congrArg l.any (funext fun _ => congrArg (_ || ·) (any_tmod _ _ fun _ => rfl))

theorem panelRebind_passes (h : c.step = 0 → checkStatus (panelRebindChecks s c.raw) = 0) :
    ¬ (if c.step = 0 then checkStatus (panelRebindChecks s c.raw) else 0) ≠ 0 := by
  split
  · next hstep => exact not_not.mpr (h hstep)
  · exact not_not.mpr rfl

theorem panelRebindBody_of_free (h : c.step = 0 → checkStatus (panelRebindChecks s c.raw) = 0)
    (hunit : ∀ k ∈ maskBits (leAt c.raw 18 6) 48, (s.tile k).unit = none) (hlc : s.lcHolds (maskBits (leAt c.raw 18 6) 48) = false) :
    ∃ t : State, panelRebindBody s c = (t, some 0) ∧ ∀ k ∈ maskBits (leAt c.raw 18 6) 48, (t.tile k).home = none ∧
      (t.tile k).owner = if leAt c.raw 17 1 % 64 = 63 then none else some (leAt c.raw 17 1 % 64) := by
  have hidle : ¬ ((maskBits (leAt c.raw 18 6) 48).any fun k => ((s.modCmd c.id fun x => { x with step := 1 }).tile k).unit.isSome) = true :=
    not_any_isSome hunit
  have hheld : ¬ (s.modCmd c.id fun x => { x with step := 1 }).lcHolds (maskBits (leAt c.raw 18 6) 48) = true := by
    rw [State.lcHolds_modCmd_step]
    exact Bool.eq_false_iff.mp hlc
  unfold panelRebindBody
  extract_lets raw st l s₁ dst s₂ s₃
  rw [if_neg (panelRebind_passes h), if_neg hidle, if_neg hheld]
  refine ⟨_, rfl, fun k hk => ?_⟩
  have htile : ∀ k, s₃.tile k = s₂.tile k := by
    unfold s₃
    split
    · exact fun _ => rfl
    · exact fun _ => rfl
  rw [((((State.SchedKept.refl s₃).updateReservations).updateBelow).paceDies).tile, htile]
  exact State.handTiles s₁ dst _ (nodup_maskBits _ _) hk

theorem panelRebindBody_of_unit (h : c.step = 0 → checkStatus (panelRebindChecks s c.raw) = 0) {k : Nat} {u : TileUnit}
    (hk : k ∈ maskBits (leAt c.raw 18 6) 48) (hunit : (s.tile k).unit = some u) :
    ∃ t : State, panelRebindBody s c = (t, none) ∧ ∃ y, (t.tile k).pre = some y ∧ y.forRebind = true := by
  have hbusy : ((maskBits (leAt c.raw 18 6) 48).any fun k => ((s.modCmd c.id fun x => { x with step := 1 }).tile k).unit.isSome) = true :=
    any_isSome_of_mem hk hunit
  unfold panelRebindBody
  extract_lets raw st l s₁ dst s₂ s₃
  rw [if_neg (panelRebind_passes h), if_pos hbusy]
  refine ⟨_, rfl, ?_⟩
  have hstop : TileWise fun s k => s.requestStop k false false true false := fun t j k hkj => t.tile_requestStop_ne _ _ _ _ hkj
  exact hstop.foldl_of_mem (s := s₁) (R := fun x z => ∀ u, x.unit = some u → ∃ y, z.pre = some y ∧ y.forRebind = true)
    (fun t u hu => t.requestStop_forRebind k hu) (nodup_maskBits _ _) hk u hunit

/-- Settles O16: what each body answers once its checks pass, tile by tile. -/
theorem panelsComplete : Obligations.PanelsComplete := by
  refine ⟨fun s id s0 c h hchecks hkey hkept => ?create, fun s id s0 c x h hchecks hx hsorted => ?destroy,
    fun s id s0 c h hchecks => ⟨fun hunit hlc => ?free, fun k u hk hunit => ?busy⟩⟩
  case create =>
    have hgen := (State.SchedKept.refl s0).generate (leAt c.raw 16 1 % 64)
    obtain ⟨t, w, hdo, hw, ht⟩ := panelCreateDo_of_fresh_key (s := s0) hkey
    obtain ⟨hpanels, hcfg⟩ := w.takeTiles_kept (leAt c.raw 16 1 % 64) (maskBits (leAt c.raw 18 6) 48)
    refine ⟨t, next_congr ((h.runChecked_eq hchecks panelCreateDo).trans (by rw [hdo])), ?_, fun k hk => ?_, ?_⟩
    · rw [ht.panels, hpanels, hw.panels]
      exact tget_tput_same _ _ _
    · rw [ht.tile]
      exact State.owner_takeTiles (nodup_maskBits _ _) hk
    · rw [ht.cfg, hcfg, hw.cfg]
      exact State.cfg_addPanel _ _ _ _ (by rw [hgen.epochs, hgen.committed]; exact hkept)
  case destroy =>
    obtain ⟨t, hdo, ht⟩ := panelDestroyDo_of_panel hx
    refine ⟨t, next_congr ((h.runChecked_eq hchecks panelDestroyDo).trans (by rw [hdo])), ?_, fun k hk => ?_⟩
    · rw [ht.panels, State.panels_removePanel, thas, tget_tdel_same _ _ (State.tsorted_panels_vacatePanel _ _ hsorted)]
      rfl
    · rw [ht.tile, State.tile_removePanel]
      exact State.owner_vacatePanel _ _ hsorted hk
  case free =>
    obtain ⟨t, hbody, ht⟩ := panelRebindBody_of_free hchecks hunit hlc
    exact ⟨t, next_congr (h.runCmd_of_body hbody), ht⟩
  case busy =>
    obtain ⟨t, hbody, ht⟩ := panelRebindBody_of_unit hchecks hk hunit
    exact ⟨t, next_congr (h.runCmd_of_body hbody), ht⟩

end Sys2Proof.Machine
end

section
/-! Configuration is staged, committed, applied and rolled back (09.6). -/

namespace Sys2Proof.Machine

variable {s t : State} {r : List Byte} {e : Nat} {x : Settings}

/-- Checks that pass with a status of 0 found nothing. -/
theorem checkStatus_eq_zero {l : List (Bool × Nat)} (hne : ∀ c ∈ l, c.2 ≠ 0) (h : checkStatus l = 0) : ∀ c ∈ l, c.1 = false := by
  unfold checkStatus at h
  split at h
  · cases h
  · split at h
    · next c hc => exact absurd h (hne c (List.mem_of_find?_eq_some hc))
    · next hnone => simpa using hnone

/-! ### CONFIG_STAGE (R307) -/

theorem configStageDo_panel (hkind : leAt r 16 1 = 1) (hroom : s.stage.length < 256) : configStageDo s r =
    ({ s with stage := s.stage ++ [StageItem.panel (leAt r 18 2 % 64) (leAt r 20 1) (panelSetOf r)] }, 0) := by
  unfold configStageDo
  rw [hkind]
  exact if_neg (Nat.not_le.mpr hroom)

theorem configStageDo_ctxClass {l : List (List TlbEntry)} (hkind : leAt r 16 1 = 2) (hroom : s.stage.length < 256)
    (hareas : s.stashAreas (leAt r 18 2 % 4096) (classOf r) = (t, some l)) : configStageDo s r =
      ({ t with stage := t.stage ++ [StageItem.ctxClass (leAt r 18 2 % 4096) (classOf r)] }, 0) := by
  unfold configStageDo
  rw [hkind]
  refine (if_neg (Nat.not_le.mpr hroom)).trans ?_
  rw [hareas]

theorem configStageDo_full (hkind : leAt r 16 1 = 1 ∨ leAt r 16 1 = 2) (hfull : 256 ≤ s.stage.length) :
    configStageDo s r = (s.setFld .PNL_CFG_STATUS_STAGE_FULL 0 1, 0x0104) := by
  unfold configStageDo
  obtain hkind | hkind := hkind
  · rw [hkind]
    exact if_pos hfull
  · rw [hkind]
    exact if_pos hfull

theorem configStageDo_empties (hkind : leAt r 16 1 = 3) : configStageDo s r = ({ s with stage := [] }, 0) := by
  unfold configStageDo
  rw [hkind]
  rfl

/-! ### Epochs (R306, R308) -/

/-- Epoch `e` is the latest that was committed, and its settings are `x`. -/
def State.Latest (s : State) (e : Nat) (x : Settings) : Prop := s.committed = e ∧ tget s.epochs e = some x

theorem State.Latest.of_schedKept (h : s.Latest e x) (hk : s.SchedKept t) : t.Latest e x := by
  obtain ⟨hcommitted, hsettings⟩ := h
  exact ⟨hk.committed.trans hcommitted, (congrArg (tget · e) hk.epochs).trans hsettings⟩

/-- A key that a filter by keys lets through reads as before. -/
theorem tget_filter_fst {α : Type} (l : Tab α) {p : Nat → Bool} {n : Nat} (hn : p n = true) : tget (l.filter fun e => p e.1) n = tget l n := by
  induction l with
  | nil => rfl
  | cons a l ih =>
    by_cases h : n = a.1
    · rw [List.filter_cons_of_pos (h ▸ hn), tget, tget, if_pos h, if_pos h]
    · rw [tget, if_neg h, ← ih, List.filter_cons]
      split
      · rw [tget, if_neg h]
      · rfl

/-- The latest epoch is not pruned. -/
theorem State.Latest.pruneEpochs (h : s.Latest e x) : s.pruneEpochs.Latest e x := by
  obtain ⟨rfl, hsettings⟩ := h
  unfold State.pruneEpochs
  extract_lets used
  have hused : used s.committed = true := by simp [used]
  exact ⟨rfl, (tget_filter_fst s.epochs hused).trans hsettings⟩

theorem State.Latest.checkApplied (h : s.Latest e x) : s.checkApplied.Latest e x := by
  unfold State.checkApplied
  split
  · exact (h.of_schedKept (State.SchedKept.postMgr (State.SchedKept.update (State.SchedKept.refl s)) _ _)).pruneEpochs
  · exact h

theorem State.stage_checkApplied (s : State) : s.checkApplied.stage = s.stage := by
  unfold State.checkApplied
  split
  · exact (State.SchedKept.postMgr (State.SchedKept.update (State.SchedKept.refl s)) _ _).stage
  · rfl

theorem State.commitAs_frame (s : State) (x : Settings) (todo : List CfgResource) :
    ({ s with epochs := tput s.epochs (s.committed + 1) x, committed := s.committed + 1, toApply := todo, commitAt := s.time } : State).SchedKept
      (s.commitAs x todo) :=
  (((State.SchedKept.refl _).changeFrames _).updateReservations).updateBelow

theorem State.latest_commitAs (s : State) (x : Settings) (todo : List CfgResource) : (s.commitAs x todo).Latest (s.committed + 1) x :=
  State.Latest.of_schedKept ⟨rfl, tget_tput_same _ _ _⟩ (s.commitAs_frame x todo)

/-! ### CONFIG_COMMIT, CONFIG_APPLY and CONFIG_ROLLBACK (R306, R308, R309) -/

theorem configCommitDo_of_pass (hstage : s.stage ≠ []) (hchecks : checkStatus (configCommitChecks s r) = 0) : configCommitDo s =
    (({ s with stage := [] }.commitAs (applyStage s.cfg s.stage) (changedResources s.cfg (applyStage s.cfg s.stage))).checkApplied, 0) := by
  have hpass := checkStatus_eq_zero (by simp [configCommitChecks]) hchecks
  simp only [configCommitChecks, List.forall_mem_cons, hstage, ne_eq, not_false_eq_true, decide_true, Bool.and_true,
    decide_eq_false_iff_not, not_not] at hpass
  obtain ⟨-, hstands, happlied, -⟩ := hpass
  have hstands : s.stageStands = true := by simpa [happlied] using hstands
  unfold configCommitDo
  rw [if_neg hstage, if_neg (not_not.mpr happlied), if_neg (not_not.mpr hstands)]

theorem configApply_of_quiescent {k : CfgResource} (hmem : k ∈ s.toApply) (hquiet : s.quiescent k = true) :
    configApply k s = ({ s with toApply := s.toApply.erase k }.applyResource k).checkApplied :=
  if_pos ⟨List.contains_iff_mem.mpr hmem, hquiet⟩

theorem latest_configRollback (htodo : s.toApply ≠ []) (hnext : s.committed = s.applied + 1)
    (hlate : 1000000 * max 1 (min 1000 (s.fld .PNL_CFG_CTL_TIMEOUT_MS 0)) ≤ (s.time - s.commitAt).toNat) :
    (configRollback s).Latest (s.committed + 1) (s.settings (s.committed - 1)) := by
  unfold configRollback
  dsimp only
  rw [if_pos ⟨htodo, hnext, hlate⟩]
  have hcommit := s.latest_commitAs (s.settings (s.committed - 1))
  exact ((hcommit _).of_schedKept (((State.SchedKept.refl _).setFld _ _ _).postMgr _ _)).checkApplied

/-- Settles O17: each command and event by its own lemma above. -/
theorem configurationComplete : Obligations.ConfigurationComplete := by
  refine ⟨fun s id s0 c h hchecks => ⟨fun hkind hroom => ?_, fun hkind hfull => ?_, fun u l hkind hroom hareas => ?_, fun hkind => ?_⟩,
    fun s id s0 c h hchecks => ⟨fun hstage => ?_, fun hstage => ?_⟩, fun s r hmem hquiet => ?_, fun s htodo hnext hlate => ?_⟩
  case refine_1 => exact next_congr ((h.runChecked_eq hchecks configStageDo).trans (by rw [configStageDo_panel hkind hroom]))
  case refine_2 => exact next_congr ((h.runChecked_eq hchecks configStageDo).trans (by rw [configStageDo_full hkind hfull]))
  case refine_3 => exact next_congr ((h.runChecked_eq hchecks configStageDo).trans (by rw [configStageDo_ctxClass hkind hroom hareas]))
  case refine_4 => exact next_congr ((h.runChecked_eq hchecks configStageDo).trans (by rw [configStageDo_empties hkind]))
  case refine_5 => exact next_congr ((h.runChecked_eq hchecks fun s _ => configCommitDo s).trans (by rw [configCommitDo, if_pos hstage]))
  case refine_6 =>
    obtain ⟨hcommitted, hsettings⟩ := (({ s0 with stage := [] } : State).latest_commitAs (applyStage s0.cfg s0.stage)
      (changedResources s0.cfg (applyStage s0.cfg s0.stage))).checkApplied
    exact ⟨_, next_congr ((h.runChecked_eq hchecks fun s _ => configCommitDo s).trans (by rw [configCommitDo_of_pass hstage hchecks])),
      hcommitted, (State.stage_checkApplied _).trans (State.commitAs_frame _ _ _).stage, hsettings⟩
  case refine_7 => exact next_congr (configApply_of_quiescent hmem hquiet)
  case refine_8 =>
    obtain ⟨hcommitted, hsettings⟩ := latest_configRollback htodo hnext hlate
    exact ⟨_, rfl, hcommitted, hsettings⟩

end Sys2Proof.Machine
end

section
/-! Units and LC work on tiles (09.2 to 09.4), compaction and re-spreading (09.7). -/

namespace Sys2Proof.Machine

variable {s t : State} {c : Cmd} {u : TileUnit} {y : PreEmption} {id k p n : Nat} {i : Image}

/-! ### LC_DISPATCH (R289, R299) -/

/-- An LC command that has been admitted may begin, and no LC job owns one of its tiles. -/
structure State.LcReady (s : State) (id : Nat) (c : Cmd) : Prop where
  cmd : s.cmd id = some c
  lc : hLc c.raw = true
  row : c.row = none
  tiles : usesTiles c.opcode = true
  phase : c.phase = .waiting
  startable : s.startable c = true
  unowned : ∀ k ∈ maskBits c.tiles 48, (s.tile k).lc = none

theorem tileWise_own (o : LcOwner) : TileWise fun s k => (s.stopFiller k).modTile k fun x => { x with lc := some o } := fun s j k hk =>
  ((s.stopFiller j).tile_modTile j k _).trans (if_neg hk)

theorem State.lc_ownTiles (s : State) {l : List Nat} (o : LcOwner) (hl : l.Nodup) (hk : k ∈ l) : ((s.ownTiles l o).tile k).lc = some o :=
  (tileWise_own o).foldl_of_mem (R := fun _ y => y.lc = some o)
    (fun t => congrArg Tile.lc (((t.stopFiller k).tile_modTile k k _).trans (if_pos rfl))) hl hk

namespace State.LcReady

variable (h : s.LcReady id c)

include h

theorem gate : hLc c.raw = true ∧ c.row.isNone = true ∧ usesTiles c.opcode = true ∧ c.phase = .waiting ∧ s.startable c = true :=
  ⟨h.lc, by rw [h.row, Option.isNone_none], h.tiles, h.phase, h.startable⟩

theorem lcDispatch_stops (hk : k ∈ maskBits c.tiles 48) (hu : (s.tile k).unit = some u) :
    lcDispatch id s = s.stopForLc (maskBits c.tiles 48) := by
  unfold lcDispatch
  rw [h.cmd]
  dsimp only
  rw [if_pos h.gate, if_neg (not_any_isSome h.unowned), if_pos (any_isSome_of_mem hk hu)]

theorem lcDispatch_owns (hfree : ∀ k ∈ maskBits c.tiles 48, (s.tile k).unit = none) (hk : k ∈ maskBits c.tiles 48) :
    ((lcDispatch id s).tile k).lc = some (.cmd id) := by
  unfold lcDispatch
  rw [h.cmd]
  dsimp only
  rw [if_pos h.gate, if_neg (not_any_isSome h.unowned), if_neg (not_any_isSome hfree)]
  have hnoted := (State.SchedKept.refl ((s.beginCmd c).ownTiles (maskBits c.tiles 48) (.cmd id))).setFld .PNL_DISPATCH_LAST_NS c.panel
    (sat 32 (s.time - c.tAdm).toNat)
  rw [((hnoted.setFld _ _ _).foldl (fun _ _ hv => hv.bump _ _ _ _) _).tile k]
  exact State.lc_ownTiles _ _ (nodup_maskBits _ _) hk

end State.LcReady

/-! ### Stops and stashes (R295, R297, R298) -/

theorem preemptStopDone_of_requested (hpre : (s.tile k).pre = some y) (hphase : y.phase = .requested) (hatomics : s.tileAtomics k = false) :
    preemptStopDone k s = s.setTile k { s.tile k with pre := some { y with phase := .stopped, since := s.time } } := by
  unfold preemptStopDone
  dsimp only
  rw [hpre]
  exact if_pos ⟨hphase, Bool.eq_false_iff.mp hatomics⟩

/-- The image under the next number. -/
def State.addImage (s : State) (i : Image) : State := { s with images := tput s.images s.nextImage i, nextImage := s.nextImage + 1 }

/-- The image with the reservations that its cores lose. (As a lemma about any state: on the state that `stashUnit` has there, the
elaborator would evaluate the stash itself.) -/
theorem State.addImage_withResvs (s : State) (i : Image) (l : List Resv) : (s.addImage i).SchedKept
    { s with images := tput s.images s.nextImage i, nextImage := s.nextImage + 1, resvs := l } := rfl

/-- A stash enters an image of the unit and frees the tile. -/
theorem State.stashUnit_frame (s : State) (k : Nat) (u : TileUnit) : ∃ (v w : State) (i : Image),
    s.SchedKept v ∧ i.ctx = u.ctx ∧ i.cmd = u.cmd ∧ i.tile = k ∧ i.slot = u.slot ∧ (v.addImage i).SchedKept w ∧
      (w.modTile k fun x => { x with unit := none, pre := none }).SchedKept (s.stashUnit k u) := by
  unfold State.stashUnit
  extract_lets q p s₁
  have h₁ : s.SchedKept s₁ := (SchedKept.refl s).cleanCores _
  split
  rename_i n s₂ e₂
  have h₂ : s.SchedKept s₂ := h₁.fresh.of_snd e₂
  extract_lets i va s₃ s₄ s₅ s₆ s₇ s₈ a s₉
  have h₄ : s.SchedKept s₄ := (h₂.heldWrite _ _ _).dropCores _
  have h₅ : (s₄.addImage i).SchedKept s₅ := s₄.addImage_withResvs i _
  have h₆ : (s₄.addImage i).SchedKept s₆ := h₅.leaveTile k
  have h₇ : (s₆.modTile k fun x => { x with unit := none, pre := none }).SchedKept s₇ := ((SchedKept.refl _).setFld _ _ _).setFld _ _ _
  have h₈ : (s₆.modTile k fun x => { x with unit := none, pre := none }).SchedKept s₈ := (h₇.incFld _ _ _).setReg _ _ _
  have h₉ : (s₆.modTile k fun x => { x with unit := none, pre := none }).SchedKept s₉ := ((h₈.bump _ _ _ _).bump _ _ _ _).bumpFn _ _ _
  exact ⟨s₄, s₆, i, h₄, rfl, rfl, rfl, rfl, h₆, h₉.noteStashed _⟩

theorem stashDone_of_stopped (hunit : (s.tile k).unit = some u) (hpre : (s.tile k).pre = some y) (hphase : y.phase = .stopped)
    (hready : s.slotReady u.ctx (quadOf k) (s.slotVa u.ctx (quadOf k) u.slot u.epoch) = true) : stashDone k true s = s.stashUnit k u := by
  unfold stashDone
  dsimp only
  rw [hunit, hpre]
  dsimp only
  rw [if_pos hphase, Bool.true_and, if_pos hready]

theorem preemptAbandon_of_late (hunit : (s.tile k).unit = some u) (hpre : (s.tile k).pre = some y)
    (hlate : (if y.phase = .requested then 16000 else 56000) ≤ (s.time - y.since).toNat) : preemptAbandon k s = s.abandonPre k u := by
  unfold preemptAbandon
  dsimp only
  rw [hunit, hpre]
  exact if_pos hlate

/-! ### BE_UNIT_START and QUANTUM_END (R290, R291) -/

theorem State.SchedKept.freeSlot (h : s.SchedKept t) (ctx q e : Nat) : t.freeSlot ctx q e = s.freeSlot ctx q e := by
  simp only [State.freeSlot, State.slotsUsed, h.settings, h.tile, h.images]

theorem State.beFits.freeSlot (h : s.beFits c k = true) : ∃ n, s.freeSlot c.ctx (quadOf k) c.epoch = some n := by
  rw [State.beFits, Bool.and_eq_true] at h
  obtain ⟨-, hfree⟩ := h
  exact Option.isSome_iff_exists.mp hfree

theorem beUnitStart_unit (hc : s.cmd id = some c) (hfits : s.beFits c k = true) (hopen : s.tileOpen k c.panel c.epoch = true)
    (hphase : c.phase ≠ .done) (hstep : s.stepBars k id = false) :
    ((beUnitStart k id s).tile k).unit = some ⟨id, c.ctx, c.epoch, (s.freeSlot c.ctx (quadOf k) c.epoch).getD 0, (s.beginCmd c).time⟩ := by
  have hbegun : s.SchedKept ((s.beginCmd c).stopFiller k) := ((State.SchedKept.refl s).beginCmd c).stopFiller k
  have hstep : ¬ (s.beFits c k ∧ s.tileOpen k c.panel c.epoch ∧ c.phase ≠ .done ∧ s.stepBars k id = true) := fun ⟨_, _, _, h⟩ =>
    Bool.eq_false_iff.mp hstep h
  unfold beUnitStart
  rw [hc]
  dsimp only
  rw [if_neg hstep, if_pos ⟨hfits, hopen, hphase⟩, ((State.SchedKept.refl _).bump _ _ _ _).tile k, State.tile_modTile, if_pos rfl,
    hbegun.freeSlot]
  rfl

theorem quantumEnd_of_over (hunit : (s.tile k).unit = some u) (howner : (s.tile k).owner = some p) (hpre : (s.tile k).pre = none)
    (hover : 1000 * ((s.settings u.epoch).panel p).quantum ≤ (s.time - u.quantumStart).toNat) (hwaits : s.otherWaits k p u.ctx = true) :
    quantumEnd k s = s.requestStop k false true false false := by
  unfold quantumEnd
  dsimp only
  rw [hunit, howner]
  exact if_pos ⟨Option.isNone_iff_eq_none.mpr hpre, hover, hwaits⟩

/-! ### UNIT_RESUME (R295, R296, R300) -/

/-- The image is gone, and its unit is on the tile. -/
theorem unitResume_frame (hi : tget s.images n = some i) (hc : s.cmd i.cmd = some c) (hopen : s.tileOpen k c.panel i.epoch = true)
    (hfits : s.imageFits i k = true) (hallowed : s.beAllowed i.ctx i.epoch = true) (hphase : c.phase ≠ .recorded)
    (hbarred : s.unitsBarred c = false) (hclean : s.slotPoisoned i.ctx i.quad (s.slotVa i.ctx i.quad i.slot i.epoch) = false) :
    ∃ v u, State.SchedKept { s with images := tdel s.images n } v ∧ u.cmd = i.cmd ∧ u.ctx = i.ctx ∧
      (v.modTile k fun x => { x with unit := some u }).SchedKept (unitResume k n true s) := by
  unfold unitResume
  split
  · next hnone => cases hi.symm.trans hnone
  · next j hj =>
    obtain rfl : i = j := Option.some.inj (hi.symm.trans hj)
    split
    · next hnone => cases hc.symm.trans hnone
    · next d hd =>
      obtain rfl : c = d := Option.some.inj (hc.symm.trans hd)
      rw [if_pos ⟨hopen, hfits, hallowed, hphase, Bool.eq_false_iff.mp hbarred⟩]
      extract_lets va slot s₁ s₂ m s₃ s₄ s₅ s₆
      rw [if_neg (Bool.eq_false_iff.mp hclean), if_neg (not_not.mpr rfl)]
      have h₂ : State.SchedKept s₁ s₂ := (State.SchedKept.refl s₁).clearScratch k
      have h₃ : State.SchedKept s₁ s₃ := h₂.withMem _
      have h₄ : State.SchedKept s₁ s₄ := h₃.foldl (fun _ _ hv => hv.loadCore _ _ _) _
      have h₆ : s₅.SchedKept s₆ := (State.SchedKept.refl s₅).modCmd _ _
      exact ⟨s₄.stopFiller k, ⟨i.cmd, i.ctx, i.epoch, slot, s₄.time⟩, h₄.stopFiller k, rfl, rfl, (h₆.bump _ _ _ _).bump _ _ _ _⟩

/-! ### Compaction and re-spreading (R310, R311) -/

theorem compaction_of_pool (hen : s.fld .PNL_COMPACT_EN 0 = 1) (htarget : s.tilesOffNow < s.fld .PNL_COMPACT_TARGET_OFF 0)
    (hnext : s.nextVacate = some k) (hunit : (s.tile k).unit = none) (howner : (s.tile k).owner = none) :
    compaction k s = (s.tileOff k).updateReservations.paceDies := by
  unfold compaction
  rw [if_pos ⟨hen, htarget, hnext⟩, if_neg (Option.not_isSome_iff_eq_none.mpr hunit)]
  simp only [howner]

theorem compaction_of_panel (hen : s.fld .PNL_COMPACT_EN 0 = 1) (htarget : s.tilesOffNow < s.fld .PNL_COMPACT_TARGET_OFF 0)
    (hnext : s.nextVacate = some k) (hunit : (s.tile k).unit = none) (howner : (s.tile k).owner = some p) :
    compaction k s = ((s.rebindTile k none true).modTile k fun x => { x with home := some p }).updateReservations.paceDies := by
  unfold compaction
  rw [if_pos ⟨hen, htarget, hnext⟩, if_neg (Option.not_isSome_iff_eq_none.mpr hunit)]
  simp only [howner]

theorem tile_compaction_of_panel (hen : s.fld .PNL_COMPACT_EN 0 = 1) (htarget : s.tilesOffNow < s.fld .PNL_COMPACT_TARGET_OFF 0)
    (hnext : s.nextVacate = some k) (hunit : (s.tile k).unit = none) (howner : (s.tile k).owner = some p) :
    (compaction k s).tile k = { s.tile k with owner := none, pre := none, home := some p } := by
  rw [compaction_of_panel hen htarget hnext hunit howner, ((State.SchedKept.refl _).updateReservations).paceDies.tile,
    State.tile_modTile, if_pos rfl, State.tile_rebindTile, if_pos rfl]

theorem tile_respread (htarget : s.fld .PNL_COMPACT_TARGET_OFF 0 < s.tilesOffNow) (hnext : s.nextHome = some k)
    (hhome : (s.tile k).home = some p) : (respread k s).tile k = { s.tile k with owner := some p, pre := none, home := none } := by
  unfold respread
  rw [if_pos ⟨htarget, hnext⟩, hhome, ((State.SchedKept.refl _).updateReservations).paceDies.tile,
    State.tile_modTile, if_pos rfl, State.tile_rebindTile, if_pos rfl]

/-- Settles O18: each event by its own lemma above; the other steps of an event leave the tiles and images as they are. -/
theorem tileEvents : Obligations.TileEvents := by
  refine ⟨fun s id c hc hlc hrow htiles hphase hstart hlcs => ?dispatch,
    fun s k y hpre hphase hatomics => next_congr (preemptStopDone_of_requested hpre hphase hatomics),
    fun s k u y hunit hpre hphase hready => ?stash, fun s k u y hunit hpre hlate => next_congr (preemptAbandon_of_late hunit hpre hlate),
    fun s k id c hc hfits hopen hphase hstep => ?start, fun s k u p hunit howner hpre hover hwaits => ?quantum,
    fun s k n i c hi hc hopen hfits hallowed hphase hbarred hclean hsorted => ?resume,
    fun s k hen htarget hnext hunit => ?compaction, fun s k p htarget hnext hhome => ?respread⟩
  case dispatch =>
    have h : s.LcReady id c := ⟨hc, hlc, hrow, htiles, hphase, hstart, hlcs⟩
    exact ⟨fun hfree => ⟨_, rfl, fun k hk => h.lcDispatch_owns hfree hk⟩, fun k u hk hunit => next_congr (h.lcDispatch_stops hk hunit)⟩
  case stash =>
    obtain ⟨v, w, i, hv, hctx, hcmd, htile, hslot, hw, hs⟩ := s.stashUnit_frame k u
    have hfreed : (s.stashUnit k u).tile k = { w.tile k with unit := none, pre := none } :=
      (hs.tile k).trans ((w.tile_modTile k k _).trans (if_pos rfl))
    have himages : tget (s.stashUnit k u).images s.nextImage = some i := by
      rw [hs.images, ← hv.nextImage]
      exact (congrArg (tget · v.nextImage) hw.images).trans (tget_tput_same _ _ _)
    have hnext : (s.stashUnit k u).nextImage = s.nextImage + 1 := by
      rw [← hv.nextImage]
      exact hs.nextImage.trans hw.nextImage
    exact ⟨_, next_congr (stashDone_of_stopped hunit hpre hphase hready), rfl, by rw [hfreed], by rw [hfreed], hnext, i, himages, hctx, hcmd,
      htile, hslot⟩
  case start =>
    obtain ⟨n, hslot⟩ := State.beFits.freeSlot hfits
    exact ⟨_, _, rfl, beUnitStart_unit hc hfits hopen hphase hstep, rfl, rfl, rfl, by rw [hslot]; rfl⟩
  case quantum =>
    exact next_congr ((quantumEnd_of_over hunit howner hpre hover hwaits).trans (s.requestStop_of_running k false true false false hunit hpre))
  case resume =>
    obtain ⟨v, u, hv, hcmd, hctx, hs⟩ := unitResume_frame hi hc hopen hfits hallowed hphase hbarred hclean
    have hgone : tget (unitResume k n true s).images n = none := by
      rw [hs.images]
      exact (congrArg (tget · n) hv.images).trans (tget_tdel_same _ _ hsorted)
    have hplaced : ((unitResume k n true s).tile k).unit = some u :=
      congrArg Tile.unit ((hs.tile k).trans ((v.tile_modTile k k _).trans (if_pos rfl)))
    exact ⟨_, u, rfl, hgone, hplaced, hcmd, hctx⟩
  case compaction =>
    refine ⟨_, rfl, fun p howner => ?_, fun howner => compaction_of_pool hen htarget hnext hunit howner⟩
    rw [tile_compaction_of_panel hen htarget hnext hunit howner]
    exact ⟨rfl, rfl⟩
  case respread =>
    refine ⟨_, rfl, ?_⟩
    rw [tile_respread htarget hnext hhome]
    exact ⟨rfl, rfl⟩

end Sys2Proof.Machine
end

section
/-! Ahnyx links under the operations that they share (10.2 to 10.5): which fields of registers a link's messages, its loss and the fault log
leave as they are, and what each operation leaves in the link. -/

namespace Sys2Proof.Machine

variable {s t u : State} {f g : Fld} {l k : Nat}

/-! ### Fields of registers -/

theorem Fld.apart_of_reg_ne (h : f.reg ≠ g.reg) : f.apart g = true := (f.apart_iff g).mpr (.inl h)

/-- A write of a field leaves the fields that it does not meet, and every field of another unit. -/
theorem State.fld_setFld_other (s : State) {j n v : Nat} (h : f.apart g = true ∨ n ≠ j) (hn : n < 65536) (hj : j < 65536) :
    (s.setFld g j v).fld f n = s.fld f n := by
  obtain h | h := h
  · exact (State.FldKept.refl f s).setFld h hj n hn
  · by_cases hr : f.reg = g.reg
    · exact s.fld_setFld_idx g f j n v hr h
    · exact (State.FldKept.refl f s).setFld (Fld.apart_of_reg_ne hr) hj n hn

/-- The registers that messages, lost accesses and entries of the fault log are counted in, and what their memory accesses wake. -/
def trafficRegs : List Reg := .LNK_G_STATUS :: .HUB_FLT_STATUS :: issueRegs

/-- No count of traffic meets the field. -/
def Fld.offTraffic (f : Fld) : Prop := f.reg ∉ trafficRegs

theorem Fld.offTraffic.not_issue (hf : f.offTraffic) : f.reg ∉ issueRegs := fun h => hf (by simp [trafficRegs, h])

theorem Fld.offTraffic.apart (hf : f.offTraffic) (hg : g.reg ∈ trafficRegs) : f.apart g = true :=
  Fld.apart_of_reg_ne fun h => hf (h ▸ hg)

theorem Fld.offTraffic.unwoken (hf : f.offTraffic) : f.unwoken = true := by
  have hdom : f.reg ≠ .PWR_DOMAIN_ON := fun h => hf.not_issue (h ▸ by decide)
  simp [Fld.unwoken, hdom, hf.apart (g := .HBM_STK_STATUS_SELF_REFRESH) (by decide)]

namespace State.FldKept

theorem trans (hk : s.FldKept f t) (hk' : t.FldKept f u) : s.FldKept f u := fun n hn => (hk' n hn).trans (hk n hn)

theorem foldl {α : Type} {step : State → α → State} {xs : List α} (hk : s.FldKept f t)
    (hstep : ∀ v, ∀ a ∈ xs, s.FldKept f v → s.FldKept f (step v a)) : s.FldKept f (xs.foldl step t) :=
  List.foldlRecOn xs step hk fun v hv a ha => hstep v a ha hv

theorem bumpLink (hk : s.FldKept f t) (hf : f.offTraffic) (hl : l < 32) {i n : Nat} (hi : i < 16) :
    s.FldKept f (t.bump (unitLink l) i n none) := hk.trans fun m hm =>
  State.fld_of_reg ((State.RegsKept.refl t).bump (by unfold unitLink; omega) hi f.reg m hm hf.not_issue)

theorem faultLogged (hk : s.FldKept f t) (hf : f.offTraffic) (cls detail status owner : Nat) (ctx : Option Nat) (tag addr : Nat) :
    s.FldKept f (t.logFault cls detail status owner ctx tag addr) :=
  hk.logFault hf.unwoken (hf.apart (by decide)) _ _ _ _ _ _ _

theorem noteLeft (hk : s.FldKept f t) (m : LinkMsg) : s.FldKept f (t.noteLeft m) := by
  unfold State.noteLeft
  split
  · exact hk.of_regs
  · exact hk

theorem transmit (hk : s.FldKept f t) (hf : f.offTraffic) (hl : l < 32) (m : LinkMsg) : s.FldKept f (t.transmit l m) := by
  have hcls : classNum m.cls < 16 := by cases m.cls <;> decide
  exact ((hk.bumpLink hf hl hcls).noteLeft m).of_regs

theorem drainLink (hf : f.offTraffic) (hl : l < 32) (n : Nat) (hk : s.FldKept f t) : s.FldKept f (State.drainLink n t l) := by
  induction n generalizing t with
  | zero => exact hk
  | succ n ih =>
    unfold State.drainLink
    split
    · exact hk
    · exact ih (hk.of_regs.transmit hf hl _)

theorem enqueue (hk : s.FldKept f t) (hf : f.offTraffic) (hl : l < 32) (rank : Nat) (m : LinkMsg) : s.FldKept f (t.enqueue l rank m) := by
  have hput : s.FldKept f (t.modLink l fun x => { x with waiting := x.waiting ++ [(rank, m)] }) := hk.of_regs
  unfold State.enqueue State.drain
  split
  · exact drainLink hf hl _ hput
  · exact hput

end State.FldKept

/-- A route leads over one of the 32 links. -/
theorem State.route_lt {dst vc : Nat} {cls : LinkClass} (h : s.route dst cls vc = some l) : l < 32 := by
  unfold State.route at h
  have hall : ∀ k ∈ (maskBits (s.portMask dst) 32).filter fun l => s.linkUp l, k < 32 := fun k hk =>
    List.mem_range.mp (List.mem_filter.mp (List.mem_filter.mp hk).1).1
  refine List.foldlRecOn (motive := fun b : Option Nat => ∀ k, b = some k → k < 32) _ _ (by simp) ?_ l h
  intro b hb a ha k hk
  split at hk
  · cases hk
    exact hall _ ha
  · next k' =>
    dsimp only at hk
    split at hk
    · cases hk
      exact hall _ ha
    · exact hb k hk

namespace State.FldKept

theorem routeDrop (hk : s.FldKept f t) (hf : f.offTraffic) : s.FldKept f t.routeDrop := hk.incFld (hf.apart (by decide)) (by decide)

theorem launchStatus (hk : s.FldKept f t) (k st : Nat) : s.FldKept f (t.launchStatus k st) := by
  unfold State.launchStatus
  split
  · exact hk
  · exact hk.of_regs

theorem loseRemote (hk : s.FldKept f t) (hf : f.offTraffic) (r : Remote) : s.FldKept f (t.loseRemote r) := by
  unfold State.loseRemote
  extract_lets s₁ s₂ s₃ s₄
  have h₂ : s.FldKept f s₂ := State.FldKept.incFld (t := s₁) hk.of_regs (hf.apart (by decide)) (by decide)
  have h₄ : s.FldKept f s₄ := (h₂.faultLogged hf _ _ _ _ _ _ _).of_regs
  split
  · exact h₄.of_regs
  · exact h₄.of_regs
  · extract_lets k s₅
    have h₅ : s.FldKept f s₅.fresh.2 := (h₄.launchStatus k 0x0308).of_regs
    dsimp only
    split
    · exact h₅.of_regs
    · split
      · exact h₅.of_regs
      · exact h₅
  · exact h₄

theorem injectAgain (hk : s.FldKept f t) (hf : f.offTraffic) (m : LinkMsg) : s.FldKept f (t.injectAgain m) := by
  unfold State.injectAgain State.inject
  split
  · next e =>
    split at e
    · cases e
    · next hroute =>
      cases e
      exact hk.enqueue hf (State.route_lt hroute) _ _
  · split
    · exact (hk.routeDrop hf).loseRemote hf _
    · exact hk.routeDrop hf

end State.FldKept

/-! ### What an operation leaves in a link -/

@[simp] theorem State.link_setLink_same (s : State) (l : Nat) (x : LinkSt) : (s.setLink l x).link l = x := tgetD_tput_same _ _ _ _

@[simp] theorem State.link_modLink_same (s : State) (l : Nat) (h : LinkSt → LinkSt) : (s.modLink l h).link l = h (s.link l) :=
  s.link_setLink_same l _

@[simp] theorem State.link_emit (s : State) (o : Out) (l : Nat) : (s.emit o).link l = s.link l := rfl

theorem State.link_congr (h : t.links = s.links) (l : Nat) : t.link l = s.link l := by rw [State.link, h, State.link]

theorem State.RecordOnly.links (h : s.RecordOnly t) : t.links = s.links := congrArg (a₁ := t.offRecord) (a₂ := s.offRecord) State.links h

/-- An entry of the fault log leaves the links as they are (R417). -/
theorem State.logFault_links (s : State) (cls detail status owner : Nat) (ctx : Option Nat) (tag addr : Nat) :
    (s.logFault cls detail status owner ctx tag addr).links = s.links := by
  have hadd : (s.addFault cls detail status owner ctx tag addr).links = s.links := by
    unfold State.addFault
    dsimp only
    split <;> rfl
  unfold State.logFault
  dsimp only
  split
  · exact ((State.RecordOnly.refl _).postMgr _ _).links.trans hadd
  · exact hadd

theorem State.setDownCause_links (s : State) (l c : Nat) : (s.setDownCause l c).links = s.links := by
  unfold State.setDownCause
  split
  · rfl
  · exact State.logFault_links _ _ _ _ _ _ _ _

theorem State.drain_of_none_waiting (h : (s.link l).waiting = []) : s.drain l = s := by
  unfold State.drain
  rw [h]
  split <;> rfl

theorem State.foldl_emit {α : Type} (s : State) (xs : List α) (o : α → Out) :
    xs.foldl (fun s x => s.emit (o x)) s = { s with out := s.out ++ xs.map o } := by
  induction xs generalizing s with
  | nil => simp
  | cons x xs ih =>
    rw [List.foldl_cons, ih, List.map_cons]
    simp only [State.emit, List.append_assoc, List.singleton_append]

/-- A message that leaves stands last in the replay buffer. -/
theorem State.unacked_transmit (s : State) (l : Nat) (m : LinkMsg) :
    ((s.transmit l m).link l).unacked = (s.link l).unacked ++ [⟨(s.link l).next, m⟩] := by
  obtain ⟨rs, hbump⟩ := s.bump_eq (unitLink l) (classNum m.cls) (16 * m.slots) none
  have hlink : ((s.bump (unitLink l) (classNum m.cls) (16 * m.slots) none).noteLeft m).link l = s.link l := by
    rw [hbump, State.noteLeft]
    split <;> rfl
  unfold State.transmit
  rw [State.link_emit, State.link_setLink_same, hlink]

/-! ### Replays (R321, R322) -/

/-- The link once its replay buffer has left again. -/
def LinkSt.replayed (x : LinkSt) (now : W64) : LinkSt := { x with sameReplays := x.sameReplays + 1, progress := now }

/-- The replay noted in the link and counted. -/
def State.replayNoted (s : State) (l : Nat) : State :=
  ((s.setLink l ((s.link l).replayed s.time)).incFld .LNK_ERR_REPLAYS l 1).bump (unitLink l) 11 1 none

theorem State.replayAll_of_none (h : (s.link l).unacked = []) : s.replayAll l = s := by simp [State.replayAll, h]

theorem State.replayAll_of_unacked (h : (s.link l).unacked ≠ []) :
    s.replayAll l = { s.replayNoted l with out := (s.replayNoted l).out ++ (s.link l).unacked.map fun f => .linkMsg l f.msg } := by
  rw [← State.foldl_emit]
  exact if_neg (by simpa using h)

theorem State.replayNoted_eq (s : State) (l : Nat) :
    ∃ rs, s.replayNoted l = { s with regs := rs, links := tput s.links l ((s.link l).replayed s.time) } := by
  obtain ⟨rs, h⟩ := ((s.setLink l ((s.link l).replayed s.time)).incFld .LNK_ERR_REPLAYS l 1).bump_eq (unitLink l) 11 1 none
  exact ⟨rs, h⟩

theorem State.replayAll_link (h : (s.link l).unacked ≠ []) :
    (s.replayAll l).out = s.out ++ (s.link l).unacked.map (fun f => .linkMsg l f.msg) ∧
      (s.replayAll l).link l = (s.link l).replayed s.time := by
  obtain ⟨rs, hnoted⟩ := s.replayNoted_eq l
  rw [State.replayAll_of_unacked h, hnoted]
  exact ⟨rfl, State.link_setLink_same s l _⟩

/-- A replay keeps the replay buffer, and takes no link out of recovery. -/
theorem State.link_replayAll (s : State) (l : Nat) :
    ((s.replayAll l).link l).unacked = (s.link l).unacked ∧ ((s.replayAll l).link l).recovery = (s.link l).recovery := by
  by_cases h : (s.link l).unacked = []
  · rw [State.replayAll_of_none h]
    exact ⟨rfl, rfl⟩
  · rw [(State.replayAll_link h).2]
    exact ⟨rfl, rfl⟩

theorem State.FldKept.replayAll (hk : s.FldKept f t) (hf : f.offTraffic) (he : f.reg ≠ .LNK_ERR) (hl : l < 32) :
    s.FldKept f (t.replayAll l) := by
  by_cases h : (t.link l).unacked = []
  · rw [State.replayAll_of_none h]
    exact hk
  · rw [State.replayAll_of_unacked h]
    have hset : s.FldKept f (t.setLink l ((t.link l).replayed t.time)) := hk.of_regs
    have hcount : s.FldKept f ((t.setLink l ((t.link l).replayed t.time)).incFld .LNK_ERR_REPLAYS l 1) :=
      hset.incFld (Fld.apart_of_reg_ne he) (by omega)
    have hnoted : s.FldKept f (t.replayNoted l) := hcount.bumpLink hf hl (by decide)
    exact hnoted.of_regs

/-! ### A link goes down (R323) -/

theorem State.fld_setDownCause (s : State) {c n : Nat} (hf : f.offTraffic) (h : f.apart .LNK_STATUS_DOWN_CAUSE = true ∨ n ≠ l) (hl : l < 32)
    (hn : n < 65536) : (s.setDownCause l c).fld f n = s.fld f n := by
  unfold State.setDownCause
  split
  · rfl
  · exact ((State.FldKept.refl f _).faultLogged hf _ _ _ _ _ _ _ n hn).trans (s.fld_setFld_other h hn (by omega))

theorem offTraffic_of_lnkStatus (h : f.reg = .LNK_STATUS) : f.offTraffic := by
  unfold Fld.offTraffic
  rw [h]
  decide

/-- DOWN_CAUSE shows the cause, cut to its width. -/
theorem State.downCause_setDownCause (s : State) (c : Nat) (hl : l < 32) :
    (s.setDownCause l c).fld .LNK_STATUS_DOWN_CAUSE l = c % 2 ^ 4 := by
  unfold State.setDownCause
  split
  · next hc =>
    have hlt := bits_lt (s.reg .LNK_STATUS l) 19 16
    rw [hc]
    exact (Nat.mod_eq_of_lt (hc ▸ hlt)).symm
  · exact ((State.FldKept.refl _ _).faultLogged (offTraffic_of_lnkStatus rfl) _ _ _ _ _ _ _ l (by omega)).trans
      (s.fld_setFld_same _ _ _ (by decide) (by decide))

/-- The link itself once it is down, before what had not left takes another one. -/
def State.takenDown (s : State) (l cause : Nat) : State :=
  (((s.setLink l { LinkSt.new with tryAt := s.time + 1000000000#64 }).setFld .LNK_STATUS_STATE l 0).setFld .LNK_STATUS_VERSION l 0).setDownCause
    l cause

/-- The messages that take another link change no other field. -/
theorem State.FldKept.takenDown_linkDown (s : State) (l cause : Nat) (hf : f.offTraffic) :
    (s.takenDown l cause).FldKept f (s.linkDown l cause) := by
  refine (State.FldKept.refl f _).foldl fun v e _ hv => ?_
  split
  · exact hv.injectAgain hf _
  · split
    · exact hv.routeDrop hf
    · next hroute => exact hv.enqueue hf (State.route_lt hroute) _ _

theorem State.fld_linkDown (s : State) {c n : Nat} (hf : f.offTraffic) (h : f.reg ≠ .LNK_STATUS ∨ n ≠ l) (hl : l < 32) (hn : n < 65536) :
    (s.linkDown l c).fld f n = s.fld f n := by
  have happ {g : Fld} (hg : g.reg = .LNK_STATUS) : f.apart g = true ∨ n ≠ l := h.imp_left fun h => Fld.apart_of_reg_ne (hg ▸ h)
  calc (s.linkDown l c).fld f n
      = (s.takenDown l c).fld f n := State.FldKept.takenDown_linkDown s l c hf n hn
    _ = _ := State.fld_setDownCause _ hf (happ rfl) hl hn
    _ = _ := State.fld_setFld_other _ (happ rfl) hn (by omega)
    _ = _ := State.fld_setFld_other _ (happ rfl) hn (by omega)

theorem State.linkState_linkDown (s : State) (c : Nat) (hl : l < 32) : (s.linkDown l c).linkState l = 0 := by
  have hoff := offTraffic_of_lnkStatus (f := .LNK_STATUS_STATE) rfl
  have hn : l < 65536 := by omega
  calc (s.linkDown l c).fld .LNK_STATUS_STATE l
      = (s.takenDown l c).fld .LNK_STATUS_STATE l := State.FldKept.takenDown_linkDown s l c hoff l hn
    _ = _ := State.fld_setDownCause _ hoff (.inl (by decide)) hl hn
    _ = _ := State.fld_setFld_apart _ _ _ (by decide)
    _ = 0 := State.fld_setFld_same _ _ _ _ (by decide) (by decide)

end Sys2Proof.Machine
end

section
/-! The links' events: flits and their replay (10.2), recovery, training and the loss of a laser input (10.3). -/

namespace Sys2Proof.Machine

variable {s t : State} {l : Nat}

/-! ### Flits (R321, R322) -/

/-- What the ACK and the credits of a flit leave as it was: the receiver's side of the link, the messages that wait, memory and output. -/
structure State.ReceiverKept (l : Nat) (s t : State) : Prop where
  expected : (t.link l).expected = (s.link l).expected
  nak : (t.link l).nak = (s.link l).nak
  waiting : (t.link l).waiting = (s.link l).waiting
  out : t.out = s.out
  mem : t.mem = s.mem

theorem State.ReceiverKept.setLink (hk : s.ReceiverKept l t) {x : LinkSt} (he : x.expected = (t.link l).expected := by rfl)
    (hn : x.nak = (t.link l).nak := by rfl) (hw : x.waiting = (t.link l).waiting := by rfl) : s.ReceiverKept l (t.setLink l x) := by
  obtain ⟨hexp, hnak, hwait, hout, hmem⟩ := hk
  constructor
  · rw [State.link_setLink_same, he, hexp]
  · rw [State.link_setLink_same, hn, hnak]
  · rw [State.link_setLink_same, hw, hwait]
  · exact hout
  · exact hmem

theorem State.ReceiverKept.takeAck (hk : s.ReceiverKept l t) (ack : BitVec 12) : s.ReceiverKept l (t.takeAck l ack) := by
  unfold State.takeAck
  dsimp only
  split
  · exact hk.setLink
  · exact hk

/-- The sender's side of the link once the ACK and the credits of a good flit are taken. -/
def State.heard (s : State) (l : Nat) (f : Flit) : State :=
  ((s.modLink l fun x => { x with lastGood := s.time }).takeAck l f.ack).takeCredits l f.credits

theorem State.receiverKept_heard (s : State) (l : Nat) (f : Flit) : s.ReceiverKept l (s.heard l f) := by
  have hrefl : s.ReceiverKept l s := ⟨rfl, rfl, rfl, rfl, rfl⟩
  have hgood : s.ReceiverKept l (s.modLink l fun x => { x with lastGood := s.time }) := hrefl.setLink
  exact (hgood.takeAck f.ack).setLink

section
variable {f : Flit} (hl : l < 32) (hst : s.linkState l = 1 ∨ s.linkState l = 2 ∨ s.linkState l = 3)
include hl hst

theorem flits_taken : ¬ (¬ l < 32 ∨ s.linkState l = 0 ∨ s.linkState l = 4) := by omega

theorem flitReceive_of_bad (hgood : f.good = false) (hnak : (s.link l).nak = none) : ∃ rs, flitReceive l f s =
    (State.modLink { s with regs := rs } l fun x => { x with nak := some s.time }).emit (.linkNak l) := by
  obtain ⟨rs, hbump⟩ := (s.incFld .LNK_ERR_BAD_FLITS l 1).bump_eq (unitLink l) 10 1 none
  have hnone : ((s.incFld .LNK_ERR_BAD_FLITS l 1).bumpLink l 10 1).link l = s.link l := by
    rw [State.bumpLink, hbump]
    rfl
  refine ⟨rs, ?_⟩
  unfold flitReceive
  dsimp only
  rw [if_neg (flits_taken hl hst), if_pos (by simp [hgood]), if_neg (by simp [hnone, hnak]), State.bumpLink, hbump]
  rfl

section
variable (hgood : f.good = true) (hnak : f.nak = false) (hidle : f.idle = false) (hwait : (s.link l).waiting = [])
include hgood hnak hidle hwait

/-- A good flit that brings no NAK and finds no message waiting is taken by its SEQ. -/
theorem flitReceive_of_good : flitReceive l f s =
    if f.seq = (s.link l).expected then
      f.msgs.foldl (fun s m => ((s.creditBack l m).bumpLink l (4 + classNum m.cls) (16 * m.slots)).deliver l m)
        (((s.heard l f).setLink l { (s.heard l f).link l with expected := (s.link l).expected + 1, nak := none }).emit (.linkAck l f.seq))
    else if (s.link l).nak.isSome then s.heard l f
    else (((s.heard l f).incFld .LNK_ERR_DUP_DROPPED l 1).bumpLink l 12 1).emit (.linkAck l ((s.link l).expected - 1)) := by
  obtain ⟨hexp, hnone, hwaiting, -, -⟩ := s.receiverKept_heard l f
  have hdrain : (s.heard l f).drain l = s.heard l f := State.drain_of_none_waiting (hwaiting.trans hwait)
  unfold State.heard at hexp hnone hdrain
  unfold flitReceive State.heard
  dsimp only
  rw [if_neg (flits_taken hl hst), if_neg (by simp [hgood])]
  simp only [hnak, hidle, Bool.false_eq_true, if_false]
  rw [hdrain, hexp, hnone]

theorem flitReceive_of_next (hmsgs : f.msgs = []) (hseq : f.seq = (s.link l).expected) : ∃ v, s.ReceiverKept l v ∧
    flitReceive l f s = (v.setLink l { v.link l with expected := (s.link l).expected + 1, nak := none }).emit (.linkAck l f.seq) := by
  rw [flitReceive_of_good hl hst hgood hnak hidle hwait, if_pos hseq, hmsgs, List.foldl_nil]
  exact ⟨_, s.receiverKept_heard l f, rfl⟩

theorem flitReceive_of_duplicate (hseq : f.seq ≠ (s.link l).expected) (hnone : (s.link l).nak = none) : ∃ v rs, s.ReceiverKept l v ∧
    flitReceive l f s = State.emit { v with regs := rs } (.linkAck l ((s.link l).expected - 1)) := by
  obtain ⟨rs, hbump⟩ := ((s.heard l f).incFld .LNK_ERR_DUP_DROPPED l 1).bump_eq (unitLink l) 12 1 none
  rw [flitReceive_of_good hl hst hgood hnak hidle hwait, if_neg hseq, if_neg (by simp [hnone]), State.bumpLink, hbump]
  exact ⟨_, rs, s.receiverKept_heard l f, rfl⟩

end
end

theorem nakResend_of_late {t0 : W64} (hnak : (s.link l).nak = some t0) (hlate : 8000 ≤ (s.time - t0).toNat) :
    nakResend l s = (s.modLink l fun x => { x with nak := some s.time }).emit (.linkNak l) := by
  unfold nakResend
  rw [hnak]
  exact if_pos hlate

/-! ### Recovery (R323, R327) -/

/-- The link in recovery. -/
def State.recovering (s : State) (l : Nat) : State :=
  ((s.setFld .LNK_STATUS_STATE l 4).incFld .LNK_ERR_RECOVERIES l 1).setLink l
    { s.link l with recovery := some s.time, sameReplays := 0 }

theorem State.linkState_recovering (s : State) (l : Nat) : (s.recovering l).linkState l = 4 :=
  calc (s.recovering l).linkState l
      = (s.setFld .LNK_STATUS_STATE l 4).fld .LNK_STATUS_STATE l := State.fld_setFld_apart _ l _ (by decide)
    _ = 4 := State.fld_setFld_same _ _ _ _ (by decide) (by decide)

theorem linkRecovery_of_loss {loss : Bool} (hl : l < 32) (hst : s.linkState l = 2 ∨ s.linkState l = 3)
    (hloss : loss = true ∨ 16 ≤ (s.link l).sameReplays ∨ 100000 ≤ (s.time - (s.link l).lastGood).toNat) :
    linkRecovery l loss s = s.recovering l := if_pos ⟨hl, hst, hloss⟩

theorem linkRecoveryFail_of_late {t0 : W64} (hrec : (s.link l).recovery = some t0) (hst : s.linkState l = 4)
    (hlate : 10000000 ≤ (s.time - t0).toNat) : linkRecoveryFail l s = s.linkDown l 5 := by
  unfold linkRecoveryFail
  rw [hrec]
  exact if_pos ⟨hst, hlate⟩

/-! ### Training (R325 to R327) -/

/-- The link begins anew in TRAIN. -/
def State.training (s : State) (l : Nat) : State := (s.setLink l LinkSt.new).setFld .LNK_STATUS_STATE l 1

/-- The TRAIN message of this package. -/
def State.trainMessage (s : State) (l : Nat) : LinkMsg := s.message 0 0 0 (.train s.ownPkg l 1 2 s.compat)

theorem State.FldKept.training {f : Fld} (s : State) (hf : f.reg ≠ .LNK_STATUS) (hl : l < 32) : s.FldKept f (s.training l) := by
  have hnew : s.FldKept f (s.setLink l LinkSt.new) := (State.FldKept.refl f s).of_regs
  exact hnew.setFld (Fld.apart_of_reg_ne hf) (by omega)

theorem State.trainMessage_training (s : State) (hl : l < 32) :
    ((s.training l).trainMessage l).body = .train s.ownPkg l 1 2 s.compat := by
  have hpkg : (s.training l).ownPkg = s.ownPkg := State.FldKept.training s (by decide) hl 0 (by decide)
  have hcompat : (s.training l).compat = s.compat := State.FldKept.training s (by decide) hl 1 (by decide)
  change LinkBody.train (s.training l).ownPkg l 1 2 (s.training l).compat = _
  rw [hpkg, hcompat]

/-- The state of a link that has trained: UP, or management only. -/
def State.trainedState (s : State) (l : Nat) : Nat := if s.fld .LNK_STATUS_MGMT_CAUSE l = 0 then 3 else 2

/-- The link that comes out of recovery, before it replays. -/
def State.recovered (s : State) (l : Nat) : State :=
  (s.setFld .LNK_STATUS_STATE l (s.trainedState l)).modLink l fun x => { x with recovery := none, lastGood := s.time }

theorem State.linkState_recovered (s : State) (l : Nat) : (s.recovered l).linkState l = s.trainedState l := by
  have hfits : s.trainedState l < 2 ^ 4 := by
    unfold State.trainedState
    split <;> decide
  exact (State.fld_setFld_same _ _ _ _ (by decide) (by decide)).trans (Nat.mod_eq_of_lt hfits)

section
variable (hl : l < 32) (hup : s.fld .LNK_CTL_ADMIN_UP l = 1) (hoe : s.oeOn l = true)
include hl hup hoe

theorem linkTrain_of_down (hst : s.linkState l = 0) (htry : (s.link l).tryAt.toNat ≤ s.now) (n : Nat) :
    linkTrain l (.ok n) s = (s.training l).transmit l ((s.training l).trainMessage l) ∧
    linkTrain l (.fail n) s = (s.modLink l fun x => { x with tryAt := s.time + 1000000000#64 }).setDownCause l n := by
  have hdown : s.linkState l ≠ 4 := by omega
  constructor
  · exact (if_pos ⟨hl, hup, hoe⟩).trans ((if_neg hdown).trans (if_pos ⟨hst, htry⟩))
  · exact (if_pos ⟨hl, hup, hoe⟩).trans ((if_neg hdown).trans (if_pos ⟨hst, htry⟩))

theorem linkTrain_of_recovery (hst : s.linkState l = 4) (n : Nat) : linkTrain l (.ok n) s = (s.recovered l).replayAll l := by
  exact (if_pos ⟨hl, hup, hoe⟩).trans (if_pos hst)

end

/-- The peer's number, class and link shown. -/
def State.peerShown (s : State) (l pkg peer k : Nat) : State :=
  ((s.setFld .LNK_STATUS_PEER_PKG l pkg).setFld .LNK_STATUS_PEER_COMPAT l k).setFld .LNK_STATUS_PEER_LINK l peer

/-- Why a link that trained carries management only; 0 where it is UP. -/
def State.trainCause (s : State) (pkg k : Nat) : Nat := if k ≠ s.compat then 1 else if pkg = s.ownPkg then 2 else 0

theorem State.trainCause_eq_zero_iff (s : State) (pkg k : Nat) : s.trainCause pkg k = 0 ↔ k = s.compat ∧ pkg ≠ s.ownPkg := by
  unfold State.trainCause
  split
  · next h => simp [h]
  · next h =>
    rw [not_not] at h
    split
    · next hpkg => simp [hpkg]
    · next hpkg => simp [h, hpkg]

theorem State.trainCause_lt (s : State) (pkg k : Nat) : s.trainCause pkg k < 2 ^ 4 := by
  unfold State.trainCause
  split
  · decide
  · split <;> decide

/-- The outcome of the comparison shown. -/
def State.trainShown (s : State) (l v cause : Nat) : State :=
  (((s.setFld .LNK_STATUS_VERSION l v).setFld .LNK_STATUS_MGMT_CAUSE l cause).setFld .LNK_STATUS_STATE l (if cause = 0 then 3 else 2)).setFld
    .LNK_STATUS_DOWN_CAUSE l 0

theorem State.trainCause_peerShown (s : State) (pkg peer k : Nat) (hl : l < 32) :
    (s.peerShown l pkg peer k).trainCause pkg k = s.trainCause pkg k := by
  have hkept {f : Fld} (hf : f.reg ≠ .LNK_STATUS) : s.FldKept f (s.peerShown l pkg peer k) :=
    (((State.FldKept.refl f s).setFld (Fld.apart_of_reg_ne hf) (by omega)).setFld (Fld.apart_of_reg_ne hf) (by omega)).setFld
      (Fld.apart_of_reg_ne hf) (by omega)
  have hpkg : (s.peerShown l pkg peer k).ownPkg = s.ownPkg := hkept (by decide) 0 (by decide)
  have hcompat : (s.peerShown l pkg peer k).compat = s.compat := hkept (by decide) 1 (by decide)
  rw [State.trainCause, hpkg, hcompat, State.trainCause]

/-- The end of the comparison: the outcome is shown and logged. -/
def State.trainEnded (s : State) (l v cause : Nat) : State :=
  let w := s.trainShown l v cause
  let u := w.modLink l fun x => { x with lastGood := w.time }
  u.logFault 0x09 l 0 0xFFFF none 0 (u.reg .LNK_STATUS l)

theorem State.FldKept.trainEnded {f : Fld} (s : State) (v cause : Nat) (hf : f.offTraffic) :
    (s.trainShown l v cause).FldKept f (s.trainEnded l v cause) := by
  have hgood : (s.trainShown l v cause).FldKept f ((s.trainShown l v cause).modLink l fun x =>
      { x with lastGood := (s.trainShown l v cause).time }) := (State.FldKept.refl f _).of_regs
  exact hgood.faultLogged hf _ _ _ _ _ _ _

theorem linkRetrain_of_lt (hl : l < 32) : linkRetrain l s = (s.linkDown l 0).modLink l fun x => { x with tryAt := s.time } := if_pos hl

theorem ctlMgmt_of_up {b : List Byte} (hl : l < 32) (hst : s.linkState l = 2 ∨ s.linkState l = 3) :
    ctlMgmt l b s = { s with mctp := s.mctp ++ [(l, b)] } := if_pos ⟨hl, hst⟩

theorem ctlTrain_of_common_version {pkg peer vlo vhi k : Nat} (hl : l < 32) (hst : s.linkState l = 1) (hlo : vlo ≤ 2) (hhi : 1 ≤ vhi)
    (hle : vlo ≤ vhi) :
    ctlTrain l pkg peer vlo vhi k s = (s.peerShown l pkg peer k).trainEnded l (min 2 vhi) (s.trainCause pkg k) := by
  rw [← s.trainCause_peerShown pkg peer k hl]
  have hcommon : ¬ min 2 vhi < max 1 vlo := by omega
  unfold ctlTrain
  dsimp only
  rw [if_pos ⟨hl, hst⟩, if_neg hcommon]
  rfl

theorem State.fld_trainShown (s : State) (l v cause : Nat) :
    (s.trainShown l v cause).fld .LNK_STATUS_STATE l = (if cause = 0 then 3 else 2) ∧
    (s.trainShown l v cause).fld .LNK_STATUS_VERSION l = v % 2 ^ 4 ∧
    (s.trainShown l v cause).fld .LNK_STATUS_MGMT_CAUSE l = cause % 2 ^ 4 := by
  refine ⟨?_, ?_, ?_⟩
  · rw [State.trainShown, State.fld_setFld_apart _ _ _ (by decide), State.fld_setFld_same _ _ _ _ (by decide) (by decide)]
    split <;> rfl
  · rw [State.trainShown, State.fld_setFld_apart _ _ _ (by decide), State.fld_setFld_apart _ _ _ (by decide),
      State.fld_setFld_apart _ _ _ (by decide)]
    exact State.fld_setFld_same _ _ _ _ (by decide) (by decide)
  · rw [State.trainShown, State.fld_setFld_apart _ _ _ (by decide), State.fld_setFld_apart _ _ _ (by decide)]
    exact State.fld_setFld_same _ _ _ _ (by decide) (by decide)

/-! ### The loss of a laser input (R316) -/

/-- Laser input `w` is out of range at a link, which goes down. -/
def State.darkened (s : State) (w l : Nat) : State :=
  let u := s.setFld .LNK_OPTICS_LASER_OK l (setBits (s.fld .LNK_OPTICS_LASER_OK l) w w 0)
  if u.linkState l = 0 then u.setDownCause l 2 else u.linkDown l 2

theorem laserInputLoss_of_long {e w ns : Nat} (he : e < 8) (hw : w < 4) (hns : 10000 ≤ ns) :
    laserInputLoss e w ns s = (List.range 4).foldl (fun s i => s.darkened w (4 * e + i)) s := if_pos ⟨he, hw, hns⟩

/-- The link is down, and laser input `w` shows as lost. -/
def State.Dark (s : State) (w l : Nat) : Prop := s.linkState l = 0 ∧ bit (s.fld .LNK_OPTICS_LASER_OK l) w = false

theorem offTraffic_laserOk : Fld.LNK_OPTICS_LASER_OK.offTraffic := by unfold Fld.offTraffic; decide

theorem offTraffic_state : Fld.LNK_STATUS_STATE.offTraffic := offTraffic_of_lnkStatus rfl

theorem State.fld_darkened_ne (s : State) {f : Fld} {w n : Nat} (hf : f.offTraffic) (hne : n ≠ l) (hl : l < 32) (hn : n < 65536) :
    (s.darkened w l).fld f n = s.fld f n := by
  have hoptics := s.fld_setFld_other (f := f) (g := .LNK_OPTICS_LASER_OK) (v := setBits (s.fld .LNK_OPTICS_LASER_OK l) w w 0) (.inr hne) hn
    (by omega : l < 65536)
  unfold State.darkened
  dsimp only
  split
  · exact (State.fld_setDownCause _ hf (.inr hne) hl hn).trans hoptics
  · exact (State.fld_linkDown _ hf (.inr hne) hl hn).trans hoptics

theorem State.dark_darkened (s : State) (w : Nat) (hl : l < 32) : (s.darkened w l).Dark w l := by
  have hn : l < 65536 := by omega
  have hoff : bit ((s.setFld .LNK_OPTICS_LASER_OK l (setBits (s.fld .LNK_OPTICS_LASER_OK l) w w 0)).fld .LNK_OPTICS_LASER_OK l) w = false := by
    rw [State.fld_setFld_same _ _ _ _ (by decide) (by decide), bit, Nat.testBit_mod_two_pow, setBits_testBit _ _ _ _ _ le_rfl]
    simp
  unfold State.darkened
  dsimp only
  split
  · next hst =>
    constructor
    · exact (State.fld_setDownCause _ offTraffic_state (.inl (by decide)) hl hn).trans hst
    · rwa [State.fld_setDownCause _ offTraffic_laserOk (.inl (by decide)) hl hn]
  · constructor
    · exact State.linkState_linkDown _ 2 hl
    · rwa [State.fld_linkDown _ offTraffic_laserOk (.inl (by decide)) hl hn]

theorem State.dark_foldl_darkened (s : State) {e : Nat} (w : Nat) (he : e < 8) {n : Nat} (hn : n ≤ 4) :
    ∀ i < n, ((List.range n).foldl (fun s i => s.darkened w (4 * e + i)) s).Dark w (4 * e + i) := by
  induction n with
  | zero => simp
  | succ n ih =>
    intro i hi
    rw [List.range_succ, List.foldl_append, List.foldl_cons, List.foldl_nil]
    obtain rfl | hlt := Nat.eq_or_lt_of_le (Nat.lt_succ_iff.mp hi)
    · exact State.dark_darkened _ w (by omega)
    · obtain ⟨hst, hok⟩ := ih (by omega) i hlt
      constructor
      · exact (State.fld_darkened_ne _ offTraffic_state (by omega) (by omega) (by omega)).trans hst
      · rwa [State.fld_darkened_ne _ offTraffic_laserOk (by omega) (by omega) (by omega)]

/-! ### The links' obligation -/

/-- Settles O46: each event by its own lemma above. -/
theorem linkEvents : Obligations.LinkEvents := by
  refine ⟨fun s l f hl hst => ⟨fun hgood hnone => ?bad, fun hgood hnak hidle hmsgs hseq hwait => ?next,
      fun hgood hnak hidle hseq hnone hwait => ?duplicate⟩,
    fun s l t0 hnak hlate => next_congr (nakResend_of_late hnak hlate), fun s l hl hst hun hlate => ?replay,
    fun s l loss hl hst hloss => ?recovery, fun s l t0 hrec hst hlate => next_congr (linkRecoveryFail_of_late hrec hst hlate),
    fun s l n hl hup hoe => ⟨fun hst htry => ⟨?trainOk, ?trainFail⟩, fun hst => ?trainAgain⟩, fun s l hl => next_congr (linkRetrain_of_lt hl),
    fun s e w ns he hw hns => ⟨_, next_congr (laserInputLoss_of_long he hw hns), s.dark_foldl_darkened w he le_rfl⟩,
    fun s l pkg peer vlo vhi k hl hst hlo hhi hle => ?compare, fun s l b hl hst => next_congr (ctlMgmt_of_up hl hst)⟩
  case bad =>
    obtain ⟨rs, h⟩ := flitReceive_of_bad hl hst hgood hnone
    refine ⟨_, next_congr h, ?_, ?_, rfl, rfl⟩
    · rw [State.link_emit, State.link_modLink_same]
    · rw [State.link_emit, State.link_modLink_same]
      rfl
  case next =>
    obtain ⟨v, ⟨-, -, -, hout, hmem⟩, h⟩ := flitReceive_of_next hl hst hgood hnak hidle hwait hmsgs hseq
    refine ⟨_, next_congr h, ?_, ?_, congrArg (· ++ [Out.linkAck l f.seq]) hout, hmem⟩
    · rw [State.link_emit, State.link_setLink_same]
    · rw [State.link_emit, State.link_setLink_same]
  case duplicate =>
    obtain ⟨v, rs, ⟨hexp, -, -, hout, hmem⟩, h⟩ := flitReceive_of_duplicate hl hst hgood hnak hidle hwait hseq hnone
    exact ⟨_, next_congr h, hexp, congrArg (· ++ [Out.linkAck l ((s.link l).expected - 1)]) hout, hmem⟩
  case replay =>
    obtain ⟨hout, hlink⟩ := State.replayAll_link hun
    exact ⟨_, next_congr (if_pos ⟨hl, hun, hlate, hst⟩), hout, by rw [hlink]; rfl, by rw [hlink]; rfl⟩
  case recovery =>
    refine ⟨_, next_congr (linkRecovery_of_loss hl hst hloss), s.linkState_recovering l, ?_, ?_⟩
    · rw [State.recovering, State.link_setLink_same]
    · rw [State.recovering, State.link_setLink_same]
  case trainOk =>
    refine ⟨_, next_congr (linkTrain_of_down hl hup hoe hst htry n).1, ?_, ?_⟩
    · have hsent := (State.FldKept.refl .LNK_STATUS_STATE (s.training l)).transmit offTraffic_state hl ((s.training l).trainMessage l)
      exact (hsent l (by omega)).trans (State.fld_setFld_same _ _ _ _ (by decide) (by decide))
    · have hnew : (s.training l).link l = LinkSt.new := State.link_setLink_same s l _
      rw [State.unacked_transmit, hnew, List.map_append, List.map_singleton, s.trainMessage_training hl]
      rfl
  case trainFail =>
    have hkept := State.fld_setDownCause (l := l) (c := n) (s.modLink l fun x => { x with tryAt := s.time + 1000000000#64 })
      offTraffic_state (.inl (by decide)) hl (by omega : l < 65536)
    refine ⟨_, next_congr (linkTrain_of_down hl hup hoe hst htry n).2, hkept.trans hst, State.downCause_setDownCause _ n hl, ?_⟩
    rw [State.link_congr (State.setDownCause_links _ _ _), State.link_modLink_same]
    rfl
  case trainAgain =>
    obtain ⟨hun, hrec⟩ := (s.recovered l).link_replayAll l
    have hlink : (s.recovered l).link l = { s.link l with recovery := none, lastGood := s.time } := State.link_modLink_same _ l _
    refine ⟨_, next_congr (linkTrain_of_recovery hl hup hoe hst n), ?_, ?_, ?_⟩
    · have hkept := (State.FldKept.refl .LNK_STATUS_STATE (s.recovered l)).replayAll offTraffic_state (by decide) hl
      exact (hkept l (by omega)).trans (s.linkState_recovered l)
    · rw [hrec, hlink]
    · rw [hun, hlink]
  case compare =>
    have hkept {f : Fld} (hf : f.reg = .LNK_STATUS) :=
      State.FldKept.trainEnded (l := l) (s.peerShown l pkg peer k) (min 2 vhi) (s.trainCause pkg k) (offTraffic_of_lnkStatus hf) l (by omega)
    obtain ⟨hstate, hversion, hmgmt⟩ := (s.peerShown l pkg peer k).fld_trainShown l (min 2 vhi) (s.trainCause pkg k)
    refine ⟨_, next_congr (ctlTrain_of_common_version hl hst hlo hhi hle), ?_, ?_, ?_⟩
    · exact (hkept rfl).trans (hstate.trans (if_congr (s.trainCause_eq_zero_iff pkg k) rfl rfl))
    · exact (hkept rfl).trans (hversion.trans (Nat.mod_eq_of_lt (by omega)))
    · exact (hkept rfl).trans (hmgmt.trans (Nat.mod_eq_of_lt (s.trainCause_lt pkg k)))

end Sys2Proof.Machine
end

section
/-! Package time (10.7): exchanges with peers, lock, holdover and the edges of PPS_IN. -/

namespace Sys2Proof.Machine

variable {s : State} {l : Nat}

/-! ### Exchanges (R338) -/

/-- What an exchange tells of a peer: the new offset first, the root and the depth that it reports. -/
def TimePeer.heard (p : TimePeer) (off : Int) (root depth : Nat) : TimePeer :=
  { p with offsets := (off :: p.offsets).take 64, root := if depth < 15 then some root else none, depth := depth }

/-- An exchange noted for its peer and shown in `LNK_TIME`. -/
def State.exchanged (s : State) (l : Nat) (off rtt : Int) (root depth : Nat) : State :=
  let u := s.modPeer l fun p => p.heard off root depth
  (u.setFld .LNK_TIME_OFFSET l (satSigned 32 (u.peer l).offset)).setFld .LNK_TIME_RTT l (sat 32 rtt.toNat)

theorem State.peer_exchanged (s : State) (l : Nat) (off rtt : Int) (root depth : Nat) :
    (s.exchanged l off rtt root depth).peer l = (s.peer l).heard off root depth := tgetD_tput_same _ _ _ _

theorem sat_lt (k a : Nat) : sat k a < 2 ^ k := by
  have := Nat.two_pow_pos k
  unfold sat
  omega

theorem satSigned_lt (i : Int) : satSigned 32 i < 2 ^ 32 := by
  unfold satSigned
  dsimp only
  omega

theorem State.rtt_exchanged (s : State) (l : Nat) (off rtt : Int) (root depth : Nat) :
    (s.exchanged l off rtt root depth).fld .LNK_TIME_RTT l = sat 32 rtt.toNat :=
  (State.fld_setFld_same _ _ _ _ (by decide) (by decide)).trans (Nat.mod_eq_of_lt (sat_lt 32 _))

theorem State.offset_exchanged (s : State) (l : Nat) (off rtt : Int) (root depth : Nat) :
    (s.exchanged l off rtt root depth).fld .LNK_TIME_OFFSET l = satSigned 32 ((s.peer l).heard off root depth).offset := by
  have hpeer : (s.modPeer l fun p => p.heard off root depth).peer l = (s.peer l).heard off root depth := tgetD_tput_same _ _ _ _
  unfold State.exchanged
  dsimp only
  rw [State.fld_setFld_apart _ _ _ (by decide), State.fld_setFld_same _ _ _ _ (by decide) (by decide), hpeer]
  exact Nat.mod_eq_of_lt (satSigned_lt _)

theorem ctlTime_of_up (hup : s.linkUp l = true) (t1 t2 t3 t4 root depth : Nat) : ctlTime l t1 t2 t3 t4 root depth s =
    let u := (s.exchanged l ((((t2 : Int) - t1) - ((t4 : Int) - t3)) / 2) (((t4 : Int) - t1) - ((t3 : Int) - t2)) root depth).chooseParent
    if u.fld .TMB_STATUS_PARENT_LINK 0 = l then u.follow l else u := if_pos hup

theorem timeExchange_of_up (hup : s.linkUp l = true) : timeExchange l s =
    s.chooseParent.enqueue l 0 (s.chooseParent.message 0 0 0 (.time s.chooseParent.now (s.chooseParent.peer l).stamp
      (s.chooseParent.peer l).arrived s.chooseParent.ownRoot (s.chooseParent.fld .TMB_STATUS_DEPTH 0))) := if_pos hup

/-! ### Lock and holdover (R340) -/

theorem timeRelock_of_good {t : W64} (hgood : s.timebase.good = some t) (hlong : 10000000 ≤ (s.time - t).toNat)
    (hunlocked : s.fld .TMB_STATUS_LOCKED 0 = 0) :
    timeRelock s = (s.setFld .TMB_STATUS_LOCKED 0 1).setFld .PWR_STATUS_GAUGE_LOCK_LOST 0 0 := by
  unfold timeRelock
  rw [hgood]
  exact if_pos ⟨hlong, hunlocked⟩

theorem timeHoldover_of_lost {t : W64} (hlost : s.timebase.lost = some t) (hlong : 10000000 ≤ (s.time - t).toNat)
    (htold : s.timebase.told = false) (hheld : s.fld .TMB_STATUS_HOLDOVER 0 = 1) :
    timeHoldover s = { s.timeUnlock 0xFFFFFFFF with timebase := { s.timebase with told := true } } := by
  unfold timeHoldover
  rw [hlost]
  exact if_pos ⟨hlong, by simp [htold], hheld⟩

theorem State.fld_timeUnlock (s : State) (info : Nat) :
    (s.timeUnlock info).fld .TMB_STATUS_LOCKED 0 = 0 ∧ (s.timeUnlock info).fld .PWR_STATUS_GAUGE_LOCK_LOST 0 = 1 := by
  have hposted {f : Fld} (hf : f.unwoken = true) := (State.FldKept.refl f
    ((s.setFld .TMB_STATUS_LOCKED 0 0).setFld .PWR_STATUS_GAUGE_LOCK_LOST 0 1)).postMgr hf 0x000D info 0 (by decide)
  constructor
  · calc (s.timeUnlock info).fld .TMB_STATUS_LOCKED 0
        = _ := hposted (by decide)
      _ = (s.setFld .TMB_STATUS_LOCKED 0 0).fld .TMB_STATUS_LOCKED 0 := State.fld_setFld_apart _ _ _ (by decide)
      _ = 0 := State.fld_setFld_same _ _ _ _ (by decide) (by decide)
  · exact (hposted (by decide)).trans (State.fld_setFld_same _ _ _ _ (by decide) (by decide))

/-! ### PPS_IN (R337, R480) -/

/-- R480: an edge that the filter discards is counted. -/
theorem ppsEdge_of_discarded {ns : Nat} (h : ns < 100 ∨ ∃ t, s.pins.lastPps = some t ∧ (s.time - t).toNat < 999000000) :
    ppsEdge ns s = s.incFld .SRV_INPUT_STATUS_PPS_DISCARDS 0 1 := by
  refine if_pos (h.imp_right ?_)
  rintro ⟨t, hlast, hsoon⟩
  rw [hlast]
  exact decide_eq_true hsoon

/-- R337: at the first edge after a write of `TMB_EPOCH` the root's time steps to it, unless it has passed. -/
def State.epochTaken (s : State) : State :=
  if s.isRoot ∧ s.fld .TMB_CTL_PPS_EN 0 = 1 ∧ s.timebase.epochSet then
    let v := s.reg .TMB_EPOCH 0 * 1000000000
    let s := { s with timebase := { s.timebase with epochSet := false } }
    if s.now < v ∧ v < 2 ^ 64 then { s with time := w64 v } else s
  else s

/-- The edge stamped. -/
def State.ppsStamped (s : State) : State := { s.setReg .TMB_PPS_TIME 0 s.now with pins := { s.pins with lastPps := some s.time } }

theorem ppsEdge_of_taken {ns : Nat} (hwide : 100 ≤ ns) (hlate : ∀ t, s.pins.lastPps = some t → 999000000 ≤ (s.time - t).toNat) :
    ppsEdge ns s = s.epochTaken.ppsStamped := by
  refine if_neg ?_
  rintro (hshort | hsoon)
  · omega
  · split at hsoon
    · next t hlast => exact absurd (of_decide_eq_true hsoon) (by have := hlate t hlast; omega)
    · cases hsoon

theorem State.reg_ppsStamped (s : State) : s.ppsStamped.reg .TMB_PPS_TIME 0 = s.now :=
  (s.reg_setReg_same _ _ _).trans (Nat.mod_eq_of_lt s.time.isLt)

theorem State.epochTaken_mem (s : State) : s.epochTaken.mem = s.mem := by
  unfold State.epochTaken
  dsimp only
  split
  · split <;> rfl
  · rfl

theorem State.epochTaken_of_unset (h : s.timebase.epochSet = false) : s.epochTaken = s := if_neg (by simp [h])

theorem State.now_epochTaken (hroot : s.isRoot = true) (hen : s.fld .TMB_CTL_PPS_EN 0 = 1) (hset : s.timebase.epochSet = true)
    (hahead : s.now < s.reg .TMB_EPOCH 0 * 1000000000) (hfits : s.reg .TMB_EPOCH 0 * 1000000000 < 2 ^ 64) :
    s.epochTaken.now = s.reg .TMB_EPOCH 0 * 1000000000 := by
  have htaken : s.epochTaken = { s with
      timebase := { s.timebase with epochSet := false }, time := w64 (s.reg .TMB_EPOCH 0 * 1000000000) } :=
    (if_pos ⟨hroot, hen, hset⟩).trans (if_pos ⟨hahead, hfits⟩)
  rw [htaken]
  exact BitVec.toNat_ofNat _ _ |>.trans (Nat.mod_eq_of_lt hfits)

/-- Settles O48: each event by its own lemma above. -/
theorem timeEvents : Obligations.TimeEvents := by
  refine ⟨fun s l t1 t2 t3 t4 root depth hup => ?exchange, fun s l hup => ⟨_, rfl, next_congr (timeExchange_of_up hup)⟩,
    fun s t hgood hlong hunlocked => next_congr (timeRelock_of_good hgood hlong hunlocked),
    fun s t hlost hlong htold hheld => ?holdover, fun s ns h => next_congr (ppsEdge_of_discarded h), fun s ns hwide hlate => ?edge⟩
  case exchange =>
    refine ⟨_, s.exchanged l ((((t2 : Int) - t1) - ((t4 : Int) - t3)) / 2) (((t4 : Int) - t1) - ((t3 : Int) - t2)) root depth,
      next_congr (ctlTime_of_up hup t1 t2 t3 t4 root depth), s.rtt_exchanged _ _ _ _ _, ?_, ?_, fun h => if_pos h, fun h => if_neg h⟩
    · rw [s.peer_exchanged, s.offset_exchanged]
    · rw [s.peer_exchanged]
      rfl
  case holdover =>
    obtain ⟨hlocked, hgauge⟩ := s.fld_timeUnlock 0xFFFFFFFF
    exact ⟨_, next_congr (timeHoldover_of_lost hlost hlong htold hheld), hlocked, hgauge, rfl⟩
  case edge =>
    refine ⟨_, next_congr (ppsEdge_of_taken hwide hlate), rfl, s.epochTaken.reg_ppsStamped, s.epochTaken_mem, fun hunset => ?_,
      fun hroot hen hset hahead hfits => State.now_epochTaken hroot hen hset hahead hfits⟩
    rw [State.epochTaken_of_unset hunset]
    rfl

end Sys2Proof.Machine
end

section
/-! Guest sites (10.9): a site is isolated, trains, and comes into service by its capability block. -/

namespace Sys2Proof.Machine

variable {s t : State} {f : Fld} {site : Nat}

theorem State.fld_congr (h : t.regs = s.regs) (f : Fld) (n : Nat) : t.fld f n = s.fld f n := State.fld_of_reg (State.reg_congr h f.reg n)

/-! ### Isolation (R350) -/

theorem State.answerSnoop_regs (s : State) (q : Nat) (k : MKind) (line tag : Nat) : (s.answerSnoop q k line tag).regs = s.regs := by
  unfold State.answerSnoop
  extract_lets bank hub h x s₁
  have hmirror : s₁.regs = s.regs := by
    unfold s₁
    split <;> rfl
  split
  · exact hmirror
  · split
    · exact hmirror
    · dsimp only
      split
      · split <;> exact hmirror
      · exact hmirror

theorem State.endHold_regs (s : State) (q line : Nat) : (s.endHold q line).regs = s.regs :=
  List.foldlRecOn (motive := fun t : State => t.regs = s.regs) _ _ rfl fun t ht _ _ => (t.answerSnoop_regs _ _ _ _).trans ht

/-- What a site's leases give back is in the caches and the tracker (R433). -/
theorem State.reclaimUcc_regs (s : State) (p : Tracked → Bool) (h : Hold → Bool) : (s.reclaimUcc p h).regs = s.regs :=
  List.foldlRecOn (motive := fun t : State => t.regs = s.regs) _ _ rfl fun _ ht _ _ =>
    List.foldlRecOn (motive := fun t : State => t.regs = s.regs) _ _ ht fun u hu _ _ => (u.endHold_regs _ _).trans hu

/-- The state is written first; the rest of an isolation leaves it. -/
theorem State.state_isolateGuest (s : State) (cause : Nat) (hsite : site < 2) : (s.isolateGuest site cause).fld .GST_STATUS_STATE site = 5 := by
  have hn : site < 65536 := by omega
  have hoff : Fld.GST_STATUS_STATE.offTraffic := by unfold Fld.offTraffic; decide
  have hfirst : (s.setFld .GST_STATUS_STATE site 5).fld .GST_STATUS_STATE site = 5 := State.fld_setFld_same _ _ _ _ (by decide) (by decide)
  refine Eq.trans ?_ hfirst
  refine State.FldKept.faultLogged ?_ hoff _ _ _ _ _ _ _ site hn
  refine State.FldKept.of_regs ?_ (State.reclaimUcc_regs _ _ _)
  have hstatus := (((State.FldKept.refl .GST_STATUS_STATE (s.setFld .GST_STATUS_STATE site 5)).setFld
    (g := .GST_STATUS_CAUSE) (v := cause) (by decide) hn).setFld (g := .GST_STATUS_RATE) (v := 0) (by decide) hn).setFld
    (g := .GST_STATUS_MODULES) (v := 0) (by decide) hn
  exact hstatus.setReg (by decide) (by omega)

theorem guestIsolate_of_failed (hsite : site < 2) (hlo : 2 ≤ s.fld .GST_STATUS_STATE site) (hhi : s.fld .GST_STATUS_STATE site ≤ 4) :
    guestIsolate site true s = s.isolateGuest site 9 := if_pos ⟨hsite, hlo, hhi⟩

theorem guestIsolate_of_disabled (hsite : site < 2) (hlo : 2 ≤ s.fld .GST_STATUS_STATE site) (hhi : s.fld .GST_STATUS_STATE site ≤ 4)
    (hen : s.fld .GST_CTL_ENABLE site = 0) : guestIsolate site false s = s.isolateGuest site 11 :=
  (if_pos ⟨hsite, hlo, hhi⟩).trans (if_pos hen)

theorem guestPowerExceeded_of_over {w ns : Nat} (hsite : site < 2) (hst : s.fld .GST_STATUS_STATE site = 4)
    (hover : 11 * s.fld .GST_CAP_POWER_W site < 10 * w) (hns : 1000000 ≤ ns) :
    guestPowerExceeded site w ns s = s.isolateGuest site 10 := if_pos ⟨hsite, hst, hover, hns⟩

/-! ### Training (R345) -/

/-- The site powered, before its link has trained. -/
def State.guestPowered (s : State) (site : Nat) : State := (s.setDomain (100 + site) true).setFld .GST_STATUS_CAUSE site 0

/-- The site with the outcome of its training shown. -/
def State.guestLinked (s : State) (site arg : Nat) : State :=
  ((s.guestPowered site).setFld .GST_STATUS_RATE site (arg % 256)).setFld .GST_STATUS_MODULES site (arg / 256)

/-- The site that waits for its capability block. -/
def State.guestTrained (s : State) (site arg : Nat) : State :=
  let u := s.guestLinked site arg
  { u.setFld .GST_STATUS_STATE site 3 with guestUp := tput u.guestUp site u.time }

theorem State.fld_withGuestUp (s : State) (g : Tab W64) (f : Fld) (n : Nat) : ({ s with guestUp := g } : State).fld f n = s.fld f n := rfl

theorem State.sitePopulated_lt (h : s.sitePopulated site = true) : site < 2 := by
  simp only [State.sitePopulated, Bool.and_eq_true, decide_eq_true_eq] at h
  exact h.1

theorem guestRetrain_of_enabled (hpop : s.sitePopulated site = true) (hen : s.fld .GST_CTL_ENABLE site = 1)
    (hst : s.fld .GST_STATUS_STATE site ≠ 4) (n : Nat) :
    guestRetrain site (.ok n) s = s.guestTrained site n ∧ guestRetrain site (.fail n) s = (s.guestPowered site).isolateGuest site n := by
  unfold guestRetrain
  rw [if_pos ⟨hpop, hen, hst⟩, if_pos ⟨hpop, hen, hst⟩]
  exact ⟨rfl, rfl⟩

theorem State.fld_guestTrained (s : State) (site arg : Nat) :
    (s.guestTrained site arg).fld .GST_STATUS_STATE site = 3 ∧ (s.guestTrained site arg).fld .GST_STATUS_CAUSE site = 0 := by
  have hregs (f : Fld) : (s.guestTrained site arg).fld f site = ((s.guestLinked site arg).setFld .GST_STATUS_STATE site 3).fld f site :=
    State.fld_withGuestUp _ _ f site
  constructor
  · exact (hregs _).trans (State.fld_setFld_same _ _ _ _ (by decide) (by decide))
  · calc (s.guestTrained site arg).fld .GST_STATUS_CAUSE site
        = _ := hregs _
      _ = _ := State.fld_setFld_apart _ _ _ (by decide)
      _ = _ := State.fld_setFld_apart _ _ _ (by decide)
      _ = (s.guestPowered site).fld .GST_STATUS_CAUSE site := State.fld_setFld_apart _ _ _ (by decide)
      _ = 0 := State.fld_setFld_same _ _ _ _ (by decide) (by decide)

/-! ### The capability block (R346, R347) -/

/-- `GST_CAP` of an accepted block. -/
def capReg (b : List Byte) : Nat :=
  leAt b 8 2 * 2 ^ 48 + leAt b 10 2 * 2 ^ 32 + leAt b 12 2 * 2 ^ 16 + bits (leAt b 5 1) 4 0 * 2 ^ 11 + bits (leAt b 6 1) 4 0 * 2 ^ 6 +
    bits (leAt b 14 1) 2 0 * 2 ^ 3 + bits (leAt b 7 1) 0 0

/-- POWER_W and TXN_REQ of `GST_CAP` hold what the block says: no field runs into the next. -/
theorem bits_capReg (b : List Byte) :
    bits (capReg b) 31 16 = leAt b 12 2 ∧ bits (capReg b) 15 11 = bits (leAt b 5 1) 4 0 := by
  have hpower := leAt_lt b 12 2
  have hreq := bits_lt (leAt b 5 1) 4 0
  have htgt := bits_lt (leAt b 6 1) 4 0
  have hwin := bits_lt (leAt b 14 1) 2 0
  have hhint := bits_lt (leAt b 7 1) 0 0
  have hcut (n hi lo : Nat) : bits n hi lo = n / 2 ^ lo % 2 ^ (hi + 1 - lo) := by rw [bits, Nat.shiftRight_eq_div_pow]
  rw [hcut (capReg b) 31 16, hcut (capReg b) 15 11]
  unfold capReg
  generalize bits (leAt b 5 1) 4 0 = req at *
  generalize bits (leAt b 6 1) 4 0 = tgt at *
  generalize bits (leAt b 14 1) 2 0 = win at *
  generalize bits (leAt b 7 1) 0 0 = hint at *
  omega

/-- The windows of an accepted block. -/
def State.winsShown (s : State) (site : Nat) (b : List Byte) : State :=
  (List.range 4).foldl (fun s i =>
    let (base, size) := if i < bits (leAt b 14 1) 2 0 then capWin b i else (0, 0)
    s.setReg .GST_WIN (4 * site + i) (size * 2 ^ 28 + base)) s

theorem State.winsShown_frame (s : State) (b : List Byte) (hf : f.reg ≠ .GST_WIN) (hsite : site < 2) :
    s.FldKept f (s.winsShown site b) ∧ (s.winsShown site b).mem = s.mem := by
  refine List.foldlRecOn (motive := fun t : State => s.FldKept f t ∧ t.mem = s.mem) _ _ ⟨.refl f s, rfl⟩ ?_
  rintro t ⟨hk, hm⟩ i hi
  have hlt := List.mem_range.mp hi
  exact ⟨hk.setReg hf (by omega), hm⟩

/-- The registers of the block shown. -/
def State.capShown (s : State) (site : Nat) (b : List Byte) : State := (s.setReg .GST_CAP site (capReg b)).winsShown site b

/-- The site in service. -/
def State.guestServed (s : State) (site : Nat) (b : List Byte) : State :=
  ((s.capShown site b).setFld .GST_STATUS_STATE site 4).emit (.guestData site b false)

theorem ctlCap_of_accepted {b : List Byte} (hsite : site < 2) (hst : s.fld .GST_STATUS_STATE site = 3) (hcap : capCause b = 0) :
    ctlCap site b s = s.guestServed site b := by
  unfold ctlCap
  rw [if_pos ⟨hsite, hst⟩, hcap]
  rfl

theorem ctlCap_of_refused {b : List Byte} (hsite : site < 2) (hst : s.fld .GST_STATUS_STATE site = 3) (hcap : capCause b ≠ 0) :
    ctlCap site b s = s.isolateGuest site (capCause b) := by
  unfold ctlCap
  rw [if_pos ⟨hsite, hst⟩]
  split
  · next h => exact absurd h hcap
  · rfl

theorem guestCapTimeout_of_late (hsite : site < 2) (hst : s.fld .GST_STATUS_STATE site = 3)
    (hlate : 10000000 ≤ (s.time - tgetD s.guestUp site 0).toNat) : guestCapTimeout site s = s.isolateGuest site 3 :=
  if_pos ⟨hsite, hst, hlate⟩

theorem State.guestServed_shows (s : State) (b : List Byte) (hsite : site < 2) :
    (s.guestServed site b).fld .GST_STATUS_STATE site = 4 ∧ (s.guestServed site b).fld .GST_CAP_POWER_W site = leAt b 12 2 ∧
      (s.guestServed site b).fld .GST_CAP_TXN_REQ site = bits (leAt b 5 1) 4 0 ∧ (s.guestServed site b).mem = s.mem := by
  have hregs (g : Fld) : (s.guestServed site b).fld g site = ((s.capShown site b).setFld .GST_STATUS_STATE site 4).fld g site :=
    State.fld_congr (State.emit_regs _ _) g site
  have hcap {g : Fld} (hreg : g.reg = .GST_CAP) (h64 : g.hi < 64) : (s.guestServed site b).fld g site = bits (capReg b) g.hi g.lo := by
    have hst : g.reg ≠ Fld.GST_STATUS_STATE.reg := by rw [hreg]; decide
    have hwin : g.reg ≠ .GST_WIN := by rw [hreg]; decide
    calc (s.guestServed site b).fld g site
        = _ := hregs g
      _ = (s.capShown site b).fld g site := State.fld_setReg_other _ _ _ hst
      _ = (s.setReg .GST_CAP site (capReg b)).fld g site := (State.winsShown_frame _ b hwin hsite).1 site (by omega)
      _ = bits (capReg b) g.hi g.lo := by rw [State.fld, hreg, State.reg_setReg_same, bits_mod_64 _ _ _ h64]
  obtain ⟨hpower, hreq⟩ := bits_capReg b
  refine ⟨(hregs _).trans (State.fld_setFld_same _ _ _ _ (by decide) (by decide)), (hcap rfl (by decide)).trans hpower,
    (hcap rfl (by decide)).trans hreq, ?_⟩
  calc (s.guestServed site b).mem
      = (s.capShown site b).mem := (State.emit_mem _ _).trans (State.setFld_mem _ _ _ _)
    _ = (s.setReg .GST_CAP site (capReg b)).mem := (State.winsShown_frame (f := .GST_CAP_POWER_W) _ b (by decide) hsite).2
    _ = s.mem := State.setReg_mem _ _ _ _

/-- Settles O49: each event by its own lemma above. -/
theorem guestSites : Obligations.GuestSites := by
  refine ⟨fun s site n c hpop hen hst => ⟨?trains, ?fails⟩,
    fun s site b hsite hst => ⟨fun hcap => ⟨_, next_congr (ctlCap_of_accepted hsite hst hcap), s.guestServed_shows b hsite⟩,
      fun hcap => next_congr (ctlCap_of_refused hsite hst hcap), fun hlate => next_congr (guestCapTimeout_of_late hsite hst hlate)⟩,
    fun s site hsite hlo hhi => ⟨next_congr (guestIsolate_of_failed hsite hlo hhi),
      fun hen => next_congr (guestIsolate_of_disabled hsite hlo hhi hen)⟩,
    fun s site w ns hsite hst hover hns => next_congr (guestPowerExceeded_of_over hsite hst hover hns)⟩
  case trains =>
    obtain ⟨hstate, hcause⟩ := s.fld_guestTrained site n
    exact ⟨_, next_congr (guestRetrain_of_enabled hpop hen hst n).1, hstate, hcause, tgetD_tput_same _ _ _ _⟩
  case fails =>
    exact ⟨_, next_congr (guestRetrain_of_enabled hpop hen hst c).2, State.state_isolateGuest _ c (State.sitePopulated_lt hpop)⟩

end Sys2Proof.Machine
end

section
/-! Stitch markers and DUMP (14.4, 14.5): the marker of a slot under arming and disarming, and a dump at once. -/

namespace Sys2Proof.Machine

variable {s t u : State} {c : Cmd} {r : List Byte} {ctx slot n id : Nat} {held : List TlbEntry}

/-- A command whose checks pass ends with the answer of its action. -/
theorem State.mayRun.runChecked_of_do {op st : Nat} {checks : State → List Byte → List (Bool × Nat)}
    {act : State → List Byte → State × Nat} (h : s.mayRun id op t c) (hchecks : checkStatus (checks t c.raw) = 0)
    (hdo : act t c.raw = (u, st)) : s.runCmd id op (checkedBody checks act) = u.ended id st := by
  rw [h.runChecked_eq hchecks, hdo]

/-- A command whose checks fail ends with their status. -/
theorem State.mayRun.runChecked_of_fail {op st : Nat} {checks : State → List Byte → List (Bool × Nat)} (h : s.mayRun id op t c)
    (hchecks : checkStatus (checks t c.raw) = st) (hst : st ≠ 0) (act : State → List Byte → State × Nat) :
    s.runCmd id op (checkedBody checks act) = t.ended id st :=
  h.runCmd_of_body (by simp [checkedBody, hchecks, hst])

/-! ### Held pages (R452) -/

/-- A page that translates is held without a change of the markers. -/
theorem State.heldPage_marks {va : Nat} {e : TlbEntry} (h : s.heldPage ctx va = (t, .ok e)) : t.marks = s.marks := by
  unfold State.heldPage at h
  split at h
  · cases h
  · rename_i hx
    split at h
    · cases h
      obtain ⟨fr, rs, tl, wk, rfl⟩ := State.xlate_ok_eq hx
      rfl
    · cases h

theorem State.heldPages_marks {va len : Nat} (h : s.heldPages ctx va len = (t, .ok held)) : t.marks = s.marks := by
  suffices hall : ∀ l, (s.heldPages ctx va len).2 = .ok l → (s.heldPages ctx va len).1.marks = s.marks by
    rw [h] at hall
    exact hall held rfl
  refine List.foldlRecOn (motive := fun x : State × Except Nat (List TlbEntry) => ∀ l, x.2 = .ok l → x.1.marks = s.marks) _ _
    (fun _ _ => rfl) ?_
  rintro ⟨v, _ | pages⟩ hv i - l hl
  · cases hl
  · dsimp only at hl ⊢
    split at hl
    · next hp => exact (State.heldPage_marks hp).trans (hv pages rfl)
    · cases hl

/-! ### Slots and numbers (R452) -/

/-- The marker that a slot names stands under its number. -/
theorem State.marks_of_slotMark (h : s.slotMark ctx slot = some n) : ∃ m, tget s.marks n = some m := by
  obtain ⟨e, he, rfl⟩ := Option.map_eq_some_iff.mp h
  have hmem := List.mem_of_find?_eq_some he
  generalize s.marks = l at hmem
  induction l with
  | nil => cases hmem
  | cons x l ih =>
    obtain ⟨k, m⟩ := x
    unfold tget
    split
    · exact ⟨m, rfl⟩
    · next hne =>
      obtain rfl | hl := List.mem_cons.mp hmem
      · exact absurd rfl hne
      · exact ih hl

theorem State.markNumber_congr (h : t.marks = s.marks) (ctx slot : Nat) : t.markNumber ctx slot = s.markNumber ctx slot := by
  rw [State.markNumber, State.slotMark, h, State.markNumber, State.slotMark]

/-- A slot that has a marker arms under that marker's number. -/
theorem State.markNumber_of_slotMark (h : s.slotMark ctx slot = some n) : s.markNumber ctx slot = some n := by
  rw [State.markNumber, h]

/-- No number is left while 1,024 markers are armed. -/
theorem State.markNumber_of_full (hslot : s.slotMark ctx slot = none) (hfull : ∀ i, i < 1024 → ∃ m, tget s.marks i = some m ∧ m.armed = true) :
    s.markNumber ctx slot = none := by
  rw [State.markNumber, hslot]
  refine List.find?_eq_none.mpr fun i hi => ?_
  obtain ⟨m, hm, harmed⟩ := hfull i (List.mem_range.mp hi)
  simp [hm, harmed]

/-! ### STITCH_SET (R451) -/

/-- The slot's byte holds nothing but the slot. -/
theorem slot_lt_of_nzBits (h : nzBits r 17 7 4 = false) : leAt r 17 1 < 16 := by
  have hbyte := leAt_lt r 17 1
  have hhigh : leAt r 17 1 / 16 % 16 = 0 := by simpa [nzBits, bits, Nat.shiftRight_eq_div_pow] using h
  omega

/-- Passing checks pass up to any of them. -/
theorem stitchSetChecks_take (h : checkStatus (stitchSetChecks s r) = 0) : checkStatus ((stitchSetChecks s r).take 3) = 0 :=
  checkStatus_pass _ fun c hc => checkStatus_eq_zero (by simp [stitchSetChecks]) h c (List.mem_of_mem_take hc)

theorem stitchSetChecks_slot (h : checkStatus ((stitchSetChecks s r).take 3) = 0) : leAt r 17 1 < 16 := by
  have hfields := checkStatus_eq_zero (by simp [stitchSetChecks]) h _ (List.mem_cons_self ..)
  simp only [Bool.or_eq_false_iff] at hfields
  exact slot_lt_of_nzBits hfields.1.1.2

/-- The marker that an arming makes. -/
def stitchMarker (r : List Byte) (held : List TlbEntry) : Marker :=
  { armed := true, ctx := hCtx r, slot := leAt r 17 1 % 16, hold := bit (leAt r 16 1) 2, byWork := bit (leAt r 16 1) 3,
    stepKind := bits (leAt r 16 1) 5 4, step := leAt r 24 8, left := max 1 (leAt r 18 1), name := w32 (leAt r 20 4),
    src := leAt r 32 8, dst := leAt r 40 8, len := leAt r 48 4, fired := 0, skipped := 0, status := 0, held := held }

theorem stitchSetDo_arms (hact : leAt r 16 1 % 4 = 1)
    (hheld : s.heldPages (hCtx r) (leAt r 40 8) (max 1 (leAt r 18 1) * (64 + ceilDiv (leAt r 48 4) 64 * 64)) = (u, .ok held))
    (hnum : s.markNumber (hCtx r) (leAt r 17 1 % 16) = some n) :
    stitchSetDo s r = ({ u with marks := tput u.marks n (stitchMarker r held) }, 0) := by
  have hpages : s.heldPages (hCtx r) (stitchMarker r []).dst ((stitchMarker r []).left * (stitchMarker r []).size) = (u, .ok held) := hheld
  have hnum' := (State.markNumber_congr (State.heldPages_marks hheld) (hCtx r) (leAt r 17 1 % 16)).trans hnum
  unfold stitchSetDo
  unfold stitchMarker at hpages
  simp only [hact, hpages, hnum']
  rfl

theorem stitchSetDo_disarms (hact : leAt r 16 1 % 4 = 2) (hslot : s.slotMark (hCtx r) (leAt r 17 1 % 16) = some n) :
    stitchSetDo s r = ({ s with marks := tmod s.marks n fun m => { m with armed := false } }, 0) := by
  simp [stitchSetDo, hact, hslot]

/-- Arming a slot that has no marker fails the last check, which is of the package's markers. -/
theorem stitchSetChecks_full (h : checkStatus ((stitchSetChecks s r).take 3) = 0) (hact : leAt r 16 1 % 4 = 1)
    (hnum : s.markNumber (hCtx r) (leAt r 17 1 % 16) = none) : checkStatus (stitchSetChecks s r) = 0x0104 := by
  have hpass := checkStatus_eq_zero (by simp [stitchSetChecks]) h
  have hlast : stitchSetChecks s r = (stitchSetChecks s r).take 3 ++ [(true, 0x0104)] := by simp [stitchSetChecks, hact, hnum]
  rw [hlast]
  generalize (stitchSetChecks s r).take 3 = l at hpass
  have hnone : l.find? (fun c => c.1) = none := List.find?_eq_none.mpr fun c hc => by simp [hpass c hc]
  have hany : l.any (fun c => c.1 && decide (c.2 = 0x0102)) = false := List.any_eq_false.mpr fun c hc => by simp [hpass c hc]
  simp [checkStatus, hnone, hany]

/-! ### DUMP (R455) -/

/-- The firing of a DUMP: number 0, with no tag, row and command status. -/
def dumpOf (s : State) (r : List Byte) (held : List TlbEntry) : Dump :=
  { mark := none, ctx := hCtx r, src := leAt r 16 8, dst := leAt r 24 8, len := leAt r 32 4, name := w32 (leAt r 36 4), tag := 0,
    row := 0, fireAt := s.time, cmdStatus := 0, firing := 0, layer := hLayer r, oper := hOperator r, holdQ := none, holdRow := none,
    held := held }

theorem dumpDo_of_held (hheld : s.heldPages (hCtx r) (leAt r 24 8) (64 + ceilDiv (leAt r 32 4) 64 * 64) = (u, .ok held)) :
    dumpDo s r = ((u.dumpData (dumpOf u r held)).1.endDump (dumpOf u r held) (u.dumpData (dumpOf u r held)).2,
      (u.dumpData (dumpOf u r held)).2) := by
  simp only [dumpDo, hheld]
  rfl

/-- Settles O53: arming and disarming write one marker, the slot's or a free number's; without a number arming is refused; a DUMP is a
firing at once. -/
theorem markerRules : Obligations.MarkerRules := by
  refine ⟨fun s id s0 c u held n h hchecks hact hheld hnum => ?arm, fun s id s0 c h hchecks hact hnone hfull => ?full,
    fun s id s0 c n h hchecks hact hslot => ?disarm, fun s id s0 c u held h hchecks hheld => ?dump⟩
  case arm =>
    have hlt := stitchSetChecks_slot (stitchSetChecks_take hchecks)
    rw [← Nat.mod_eq_of_lt hlt] at hnum ⊢
    have hdo := stitchSetDo_arms hact hheld hnum
    refine ⟨Nat.mod_lt _ (by decide), _, _, next_congr (h.runChecked_of_do hchecks hdo), tget_tput_same _ _ _,
      rfl, rfl, rfl, rfl, fun k hk => ?_, fun k hk => ?_⟩
    · exact (tget_tput_ne _ _ hk).trans (by rw [State.heldPages_marks hheld])
    · exact Option.some.inj ((State.markNumber_of_slotMark hk).symm.trans hnum)
  case full =>
    have hlt := stitchSetChecks_slot hchecks
    rw [← Nat.mod_eq_of_lt hlt] at hnone
    have hstatus := stitchSetChecks_full hchecks hact (State.markNumber_of_full hnone hfull)
    exact ⟨hstatus, next_congr (h.runChecked_of_fail hstatus (by decide) stitchSetDo)⟩
  case disarm =>
    have hlt := stitchSetChecks_slot (stitchSetChecks_take hchecks)
    rw [← Nat.mod_eq_of_lt hlt] at hslot
    have hdo := stitchSetDo_disarms hact hslot
    obtain ⟨m, hm⟩ := State.marks_of_slotMark hslot
    exact ⟨_, m, next_congr (h.runChecked_of_do hchecks hdo), hm,
      (tget_tmod_same _ _ _).trans (congrArg _ hm), fun k hk => tget_tmod_ne _ _ hk⟩
  case dump =>
    exact ⟨dumpOf u c.raw held, (u.dumpData (dumpOf u c.raw held)).1, (u.dumpData (dumpOf u c.raw held)).2, rfl, rfl, rfl, rfl, rfl, rfl,
      rfl, rfl, rfl, rfl, rfl, rfl, next_congr (h.runChecked_of_do hchecks (dumpDo_of_held hheld))⟩

end Sys2Proof.Machine
end

section
/-! COUNTER_SET of a counter that wrapped (14.2): the value is written, and the sticky OVF stays. -/

namespace Sys2Proof.Machine

/-- COUNTER_SET of programmable counter 0 of the scheduler, with VALUE written as 0. -/
def wrappedRaw : List Byte :=
  [(0, 1, 9), (1, 1, 1), (16, 2, unitSched), (18, 1, 64)].foldl (fun r (e : Nat × Nat × Nat) => patch r e.1 (leBytes e.2.1 e.2.2))
    (zeros 64)

/-- The command, running as the manager's function. -/
def wrappedCmd : Cmd :=
  { id := 1, q := 0, row := none, raw := wrappedRaw, func := 0, panel := 0, ctx := 1, epoch := 1, tSub := 0, tAdm := 0, tStart := 0,
    twc := none, phase := .running, status := 0, vaddr := 0, beats := 0, energy := 0, tiles := 0, step := 0, spans := 0, fenceB := 0,
    fenceA := 0, landed := [] }

/-- Package 0 with the command in flight; the counter has wrapped, so its OVF is set (R442). -/
def wrappedState : State :=
  { State.reset with regs := [(regKey .OBS_P (8 * unitSched), 2 ^ 63)], cmds := [(1, wrappedCmd)] }

theorem wrappedState_mayRun : wrappedState.mayRun 1 0x0901 wrappedState wrappedCmd :=
  ⟨wrappedCmd, rfl, by decide +kernel, by decide +kernel, (State.beginCmd_running _ _ (by decide)).symm, rfl⟩

/-- OVF outlives the write of VALUE: only W1C clears it. -/
theorem counterSetDo_wrapped :
    (bodyEnd 1 ((counterSetDo wrappedState wrappedRaw).1, some 0)).reg .OBS_P (8 * unitSched) = 2 ^ 63 := by decide +kernel

/-- Refutes O40, by its clause on COUNTER_SET: the register that the command leaves holds OVF beside VALUE. -/
theorem not_observationComplete : ¬ Obligations.ObservationComplete := by
  intro h
  obtain ⟨hset, -⟩ := h
  have hchecks : checkStatus (counterSetChecks wrappedState wrappedCmd.raw) = 0 := by decide +kernel
  obtain ⟨t, hexec, -, hvalue⟩ := hset wrappedState 1 wrappedState wrappedCmd (8 * unitSched) wrappedState_mayRun hchecks (by decide +kernel)
  have hrun : bodyEnd 1 ((counterSetDo wrappedState wrappedRaw).1, some 0) = t.ended 1 0 := by
    have hstep := next_congr (wrappedState_mayRun.runChecked_eq hchecks counterSetDo)
    exact Host.Outcome.next.inj (hstep.symm.trans hexec)
  have hreg : (t.ended 1 0).reg .OBS_P (8 * unitSched) = 2 ^ 63 := hrun ▸ counterSetDo_wrapped
  exact absurd (hreg.symm.trans (hvalue (by decide +kernel))) (by decide +kernel)

end Sys2Proof.Machine
end

section
/-! Halts, steps and register accesses of the debug unit, and the halt of LC work (14.8). -/

namespace Sys2Proof.Machine

variable {s : State} {g : Group} {die core group : Nat}

/-! ### Groups (R461, R462) -/

theorem dbgHaltGroup_of_running (h : s.findGroup (32 * die + core) group = some g) (hlc : s.lcCore (32 * die + core) = false)
    (hrun : s.groupHalted (32 * die + core) g = false) (hdefer : g.deferred = none) : dbgHaltGroup die core group s =
      s.modGroup (32 * die + core) group fun x =>
        if s.groupLocked (32 * die + core) group = true then { x with deferred := some s.time } else { x with halted := true } := by
  have hnum := State.findGroup_num h
  simp only [dbgHaltGroup, h, hlc, State.haltOne, hrun, hdefer, hnum]
  by_cases hlocked : s.groupLocked (32 * die + core) group = true <;> simp [hlocked]

theorem dbgStepGroup_of_found (h : s.findGroup (32 * die + core) group = some g) (hlc : s.lcCore (32 * die + core) = false) :
    dbgStepGroup die core group s =
      s.modGroup (32 * die + core) group fun x => { x with halted := true, deferred := none, step := true } := by
  simp [dbgStepGroup, h, hlc]

theorem dbgHaltGroup_of_lc (h : s.findGroup (32 * die + core) group = some g) (hlc : s.lcCore (32 * die + core) = true) :
    dbgHaltGroup die core group s = s.refuseDebug := by
  simp [dbgHaltGroup, h, hlc]

theorem dbgStepGroup_of_lc (h : s.findGroup (32 * die + core) group = some g) (hlc : s.lcCore (32 * die + core) = true) :
    dbgStepGroup die core group s = s.refuseDebug := by
  simp [dbgStepGroup, h, hlc]

theorem dbgResumeGroup_of_found (h : s.findGroup (32 * die + core) group = some g) :
    dbgResumeGroup die core group s = s.modGroup (32 * die + core) group Group.unhalt := by
  simp [dbgResumeGroup, h]

/-- The reservations of a group's lanes are gone. -/
def State.lockBroken (s : State) (k group : Nat) : State :=
  { s with resvs := s.resvs.filter fun r => !(decide (r.core = k) && decide (r.group = group)) }

theorem State.groupLocked_lockBroken (s : State) (k group : Nat) : (s.lockBroken k group).groupLocked k group = false := by
  rw [State.groupLocked, List.any_eq_false]
  intro r hr hlocked
  have hkept := (List.mem_filter.mp hr).2
  simp [hlocked] at hkept

theorem haltDeferTimeout_of_late {t0 : W64} (h : s.findGroup (32 * die + core) group = some g) (hdefer : g.deferred = some t0)
    (hlocked : s.groupLocked (32 * die + core) group = true) (hlate : 10000 ≤ (s.time - t0).toNat) : haltDeferTimeout die core group s =
      (((s.lockBroken (32 * die + core) group).setFld .DBG_STATUS_LOCK_BROKEN 0 1).modGroup (32 * die + core) group fun x =>
        { x with halted := true, deferred := none, lockBroken := true }) := by
  simp only [haltDeferTimeout, h, hdefer]
  exact if_pos ⟨hlocked, hlate⟩

/-! ### Cores, steps and LC work -/

/-- The groups of a core halted one by one. -/
def State.groupsHalted (s : State) (k : Nat) : State := (s.coreOf k).groups.foldl (fun s g => s.haltOne k g) s

theorem dbgHaltCore_of_run (hdie : die < 12) (hcore : core < 32) (hlc : s.lcCore (32 * die + core) = false) :
    dbgHaltCore die core s = (s.groupsHalted (32 * die + core)).modCore (32 * die + core) fun c => { c with halted := true } := by
  unfold dbgHaltCore
  exact if_neg (by simp [hdie, hcore, hlc])

theorem dbgResumeCore_of_present (hdie : die < 12) (hcore : core < 32) : dbgResumeCore die core s =
    s.modCore (32 * die + core) fun c => { c with halted := false, groups := c.groups.map Group.unhalt } := if_pos ⟨hdie, hcore⟩

theorem dbgStepGo_of_held {t n : Nat} {c : Cmd} (hheld : tget s.stepped t = some n) (heven : n % 2 = 0) (hcmd : s.cmd (n / 2) = some c) :
    dbgStepGo t s = { s with stepped := tput s.stepped t (n + 1) } := by
  simp [dbgStepGo, hheld, heven, hcmd]

theorem lcHaltActivate_of_idle (hen : s.fld .DBG_CTL_LC_HALT_EN 0 = 1) (hcmds : ∀ e ∈ s.cmds, hLc e.2.raw = true → e.2.row.isSome = true)
    (hseqs : ∀ e ∈ s.rsqs, e.2.cfg.lcEn = true → s.rsqStarted e.1 = false) :
    lcHaltActivate s = s.setFld .DBG_STATUS_LC_HALT_ACTIVE 0 1 := by
  have hnocmd : ¬ s.cmds.any (fun e => hLc e.2.raw && e.2.row.isNone) = true := by
    rw [List.any_eq_true]
    rintro ⟨e, he, hlc⟩
    obtain ⟨hlc, hnone⟩ := Bool.and_eq_true_iff.mp hlc
    exact absurd (hcmds e he hlc) (by simpa using hnone)
  have hnoseq : ¬ s.rsqs.any (fun e => e.2.cfg.lcEn && s.rsqStarted e.1) = true := by
    rw [List.any_eq_true]
    rintro ⟨e, he, hlc⟩
    obtain ⟨hlc, hstarted⟩ := Bool.and_eq_true_iff.mp hlc
    exact absurd hstarted (by simp [hseqs e he hlc])
  exact if_pos ⟨hen, hnocmd, hnoseq⟩

/-- Settles O41: each row by its own lemma above. -/
theorem debugComplete : Obligations.DebugComplete := by
  refine ⟨fun s die core group g hg => ⟨fun hlc => ⟨fun hrun hdefer => ?halt, ?step⟩,
      fun hlc => ⟨next_congr (dbgHaltGroup_of_lc hg hlc), next_congr (dbgStepGroup_of_lc hg hlc)⟩, ?resume,
      fun t0 hdefer hlocked hlate => ?timeout⟩,
    fun s die core hdie hcore => ⟨fun hlc => ?haltCore, ?resumeCore⟩,
    fun s g i v hreg => ?access,
    fun s t n c hheld heven hcmd => next_congr (dbgStepGo_of_held hheld heven hcmd),
    fun s => ⟨rfl, rfl⟩,
    fun s hen hcmds hseqs => next_congr (lcHaltActivate_of_idle hen hcmds hseqs)⟩
  case halt =>
    refine ⟨_, _, next_congr (dbgHaltGroup_of_running hg hlc hrun hdefer),
      State.findGroup_modGroup_same hg fun x => by split <;> rfl, fun hopen => ?_, fun hlocked => ?_⟩
    · exact if_neg (by simp [hopen])
    · exact if_pos hlocked
  case step =>
    exact ⟨_, _, next_congr (dbgStepGroup_of_found hg hlc), State.findGroup_modGroup_same hg fun _ => rfl, rfl⟩
  case resume =>
    exact ⟨_, _, next_congr (dbgResumeGroup_of_found hg), State.findGroup_modGroup_same hg fun _ => rfl, rfl⟩
  case timeout =>
    refine ⟨_, _, next_congr (haltDeferTimeout_of_late hg hdefer hlocked hlate),
      State.findGroup_modGroup_same (s := (s.lockBroken _ _).setFld _ _ _) hg fun _ => rfl, rfl, rfl,
      s.groupLocked_lockBroken _ _, ?_⟩
    exact State.fld_setFld_same _ .DBG_STATUS_LOCK_BROKEN 0 1 (by decide) (by decide)
  case haltCore =>
    refine ⟨_, next_congr (dbgHaltCore_of_run hdie hcore hlc), ?_⟩
    rw [State.coreOf_modCore_same]
  case resumeCore =>
    refine ⟨_, next_congr (dbgResumeCore_of_present hdie hcore), ?_, ?_⟩ <;> rw [State.coreOf_modCore_same]
    intro g hg
    obtain ⟨x, -, rfl⟩ := List.mem_map.mp hg
    exact ⟨rfl, rfl, rfl⟩
  case access =>
    refine ⟨next_congr ?_, next_congr ?_⟩
    · simp [dbgRegAccess, State.dbgRegRead, hreg]
    · simp [dbgRegAccess, State.dbgRegWrite, hreg]

end Sys2Proof.Machine
end

section
/-! Migration (12.6): freezing and thawing a function, saving its image, and restoring one. -/

namespace Sys2Proof.Machine

variable {s t u v : State} {c : Cmd} {g : Func} {f n : Nat}

/-! ### MIG_FREEZE (R405, R406) -/

theorem migFreezeBody_of_thaw (hstep : c.step = 0) (hchecks : checkStatus (migFreezeChecks s c.raw) = 0)
    (hthaw : bits (leAt c.raw 17 1) 1 0 = 2) : migFreezeBody s c = (s.thaw (vfOf c.raw), some 0) := by
  simp [migFreezeBody, hstep, hchecks, hthaw]

/-- A freeze that begins, or that goes on, waits for the sequencers and the units. -/
theorem migFreezeBody_of_freeze (hchecks : c.step = 0 → checkStatus (migFreezeChecks s c.raw) = 0)
    (hfreeze : c.step = 0 → bits (leAt c.raw 17 1) 1 0 = 1)
    (hu : u = if c.step = 0 then (s.modCmd c.id fun c => { c with step := 1 }).beginFreeze (vfOf c.raw) else s) :
    migFreezeBody s c = u.freezeOn (vfOf c.raw) := by
  subst hu
  by_cases hstep : c.step = 0
  · simp [migFreezeBody, hstep, hchecks hstep, hfreeze hstep]
  · simp [migFreezeBody, hstep]

theorem State.freezeOn_of_sequencer (h : ∃ e ∈ s.rsqs, s.ctxFunc e.2.ctx = f ∧ s.rsqStarted e.1 = true) : s.freezeOn f = (s, none) := by
  obtain ⟨e, he, hctx, hstarted⟩ := h
  exact if_pos (List.any_eq_true.mpr ⟨e, he, by simp [hctx, hstarted]⟩)

/-- The units of a function are asked to stop and its commands are held. -/
def State.freezeUnits (s : State) (f : Nat) : State :=
  ((s.fnTiles f).foldl (fun s t => s.requestStop t false false false true) s).holdCmds f

theorem State.freezeOn_of_no_sequencer (h : ∀ e ∈ s.rsqs, s.ctxFunc e.2.ctx = f → s.rsqStarted e.1 = false) : s.freezeOn f =
    if (s.freezeUnits f).settled f then (((s.freezeUnits f).fenceFn f).setFnState f 3, some 0) else (s.freezeUnits f, none) := by
  have hnone : ¬ (s.rsqs.any fun e => decide (s.ctxFunc e.2.ctx = f) && s.rsqStarted e.1) = true := by
    rw [List.any_eq_true]
    rintro ⟨e, he, hrun⟩
    obtain ⟨hctx, hstarted⟩ := Bool.and_eq_true_iff.mp hrun
    exact absurd hstarted (by simp [h e he (of_decide_eq_true hctx)])
  exact if_neg hnone

/-! ### MIG_SAVE (R407) -/

/-- What MIG_SAVE notes of an image under a number of free bytes. -/
def State.savedMig (s : State) (f : Nat) (g : Func) (n : Nat) : SavedMig := ⟨n, s.migKeys n (s.migImage f g), s.migImage f g⟩

theorem State.noteBlobs_eq (s : State) (m : MigImage) : ∃ b, s.noteBlobs m = { s with blobs := b } := by
  refine List.foldlRecOn (motive := fun t : State => ∃ b, t = { s with blobs := b }) _ _ ⟨_, rfl⟩ ?_
  rintro _ ⟨b, rfl⟩ p -
  dsimp only
  split <;> exact ⟨_, rfl⟩

theorem migSaveDo_of_written {r : List Byte} (hg : tget s.funcs (vfOf r) = some g) (hfresh : s.fresh = (n, u))
    (hfits : (u.migImage (vfOf r) g).length ≤ leAt r 32 8)
    (hwrite : u.writePhys u.hubWho 63 (leAt r 24 8) (u.savedMig (vfOf r) g n).bytes = (v, true)) :
    migSaveDo s r = ({ v.noteBlobs (u.migImage (vfOf r) g) with saved := v.saved ++ [u.savedMig (vfOf r) g n] }.setFnState (vfOf r) 4,
      0) := by
  unfold State.savedMig at hwrite
  simp only [migSaveDo, hg, hfresh, Nat.not_lt.mpr hfits, if_false, hwrite]
  rfl

/-- A function that exists takes the state that is set. -/
theorem State.fnState_setFnState (s : State) (f k : Nat) : (s.setFnState f k).fnState f = if (tget s.funcs f).isSome then k else 0 := by
  have hfunc : tget (s.setFnState f k).funcs f = (tget s.funcs f).map fun g => { g with state := k } := tget_tmod_same _ _ _
  rw [State.fnState, hfunc]
  cases tget s.funcs f <;> rfl

/-! ### MIG_RESTORE (R408) -/

theorem migRestoreDo_of_image {r : List Byte} {m : MigImage} (h : s.readImage (leAt r 24 8) = (u, .ok m)) : migRestoreDo s r =
    if checkStatus (u.imageChecks m) = 0 then (u.restoreImage m, 0) else (u, checkStatus (u.imageChecks m)) := by
  simp only [migRestoreDo, h]
  split <;> simp_all

/-- Settles O42: each command by the lemmas on its action above. -/
theorem migrationComplete : Obligations.MigrationComplete := by
  refine ⟨fun s id s0 c u v h hchecks => ⟨fun hstep hthaw => ?thaw, fun hfreeze hu => ⟨fun hseq => ?waits, fun hnoseq hv => ?stops⟩⟩,
    fun s id s0 c g n u h hchecks hg hfresh hfits v hwrite => ?save, fun s id s0 c u m h hchecks himage => ?restore⟩
  case thaw =>
    exact next_congr (h.runCmd_of_body (migFreezeBody_of_thaw hstep (hchecks hstep) hthaw))
  case waits =>
    exact next_congr (h.runCmd_of_body ((migFreezeBody_of_freeze hchecks hfreeze hu).trans (State.freezeOn_of_sequencer hseq)))
  case stops =>
    obtain rfl : v = u.freezeUnits (vfOf c.raw) := hv
    have hbody := (migFreezeBody_of_freeze hchecks hfreeze hu).trans (State.freezeOn_of_no_sequencer hnoseq)
    refine next_congr ((h.runCmd_eq migFreezeBody).trans ((congrArg (bodyEnd id) hbody).trans ?_))
    split <;> rfl
  case save =>
    obtain ⟨b, hb⟩ := v.noteBlobs_eq (u.migImage (vfOf c.raw) g)
    have hdo := migSaveDo_of_written hg hfresh hfits hwrite
    rw [hb] at hdo
    exact ⟨_, next_congr (h.runChecked_of_do hchecks hdo), State.fnState_setFnState _ _ _, rfl, rfl⟩
  case restore =>
    have hdo := migRestoreDo_of_image himage
    refine next_congr ((h.runChecked_eq hchecks migRestoreDo).trans ?_)
    rw [hdo]
    split <;> rfl

end Sys2Proof.Machine
end

section
/-! Accesses from outside the package: the host's aperture (12.2) and guests' requests (10.9). -/

namespace Sys2Proof.Machine

variable {s u v w x : State} {g : Func} {f off site : Nat} {acc : HostAcc} {q : GuestReq} {iss : Issuer}

/-! ### BAR4 (R394) -/

/-- An aperture access is counted at host port 0. -/
def State.apertureSeen (s : State) : State := s.bump (unitHost 0) 4 1 none

theorem State.apertureSeen_eq (s : State) : ∃ rs, s.apertureSeen = { s with regs := rs } := s.bump_eq _ _ _ _

/-- An access inside its window whose addresses translate is performed. -/
theorem hostApertureAccess_of_probe (hg : tget s.funcs f = some g) (hen : g.apEn = true) (hwin : off + accBytes acc ≤ 2 ^ 36)
    (hiss : s.apertureSeen.outerIssuer g.apCtx = (iss, u)) (hprobe : u.probe iss (accNeed acc) (g.apBase + off) (accBytes acc) = (v, none)) :
    (∀ n w b p, acc = .read n → v.outerRead iss (g.apBase + off) n = (w, some (b, p)) →
      hostApertureAccess f off acc s = w.emit (.memData b p)) ∧
    (∀ d h, acc = .write d h → hostApertureAccess f off acc s = (v.seqWrite iss (g.apBase + off) d).1) := by
  obtain ⟨rs, hseen⟩ := s.apertureSeen_eq
  have hfunc : tget s.apertureSeen.funcs f = some g := by rw [hseen]; exact hg
  unfold State.apertureSeen at hiss hfunc
  have hopen : ¬ (¬ g.apEn = true ∨ 2 ^ 36 < off + accBytes acc) := by
    rintro (h | h)
    · exact h hen
    · omega
  constructor
  · rintro n w b p rfl hread
    simp only [hostApertureAccess, hfunc, if_neg hopen, hiss, hprobe, hread]
  · rintro d k rfl
    simp only [hostApertureAccess, hfunc, if_neg hopen, hiss, hprobe]

theorem hostApertureAccess_of_closed (hg : tget s.funcs f = some g) (hclosed : g.apEn = false ∨ 2 ^ 36 < off + accBytes acc) :
    hostApertureAccess f off acc s = s.apertureSeen.apertureFail f (accIsRead acc) := by
  obtain ⟨rs, hseen⟩ := s.apertureSeen_eq
  have hfunc : tget s.apertureSeen.funcs f = some g := by rw [hseen]; exact hg
  unfold State.apertureSeen at hfunc ⊢
  have hshut : ¬ g.apEn = true ∨ 2 ^ 36 < off + accBytes acc := by simpa using hclosed
  simp only [hostApertureAccess, hfunc, if_pos hshut]

/-- A failed access is counted; a read is aborted. -/
theorem State.apertureFail_shows (s : State) (f : Nat) (read : Bool) (hg : tget s.funcs f = some g) :
    tget (s.apertureFail f read).funcs f = some { g with apErr := sat 16 (g.apErr + 1) } ∧ (s.apertureFail f read).mem = s.mem ∧
      (s.apertureFail f read).out = if read then s.out ++ [.abort] else s.out := by
  have hcount : tget (s.modFunc f fun g => { g with apErr := sat 16 (g.apErr + 1) }).funcs f =
      some { g with apErr := sat 16 (g.apErr + 1) } := (tget_tmod_same _ _ _).trans (congrArg _ hg)
  cases read with
  | false => exact ⟨hcount, rfl, rfl⟩
  | true =>
    obtain ⟨rs, hbump⟩ := (s.modFunc f fun g => { g with apErr := sat 16 (g.apErr + 1) }).bump_eq (unitHost 0) 6 1 none
    simp only [State.apertureFail, if_true, hbump]
    exact ⟨hcount, rfl, rfl⟩

/-! ### Guests (R348) -/

/-- A guest's request is counted at its site. -/
def State.guestSeen (s : State) (site : Nat) : State := s.bump (unitGuest site) 2 1 none

/-- The count of a request shows in none of the site's own registers. -/
theorem State.fld_guestSeen (s : State) {fl : Fld} (hsite : site < 2) (hreg : fl.reg ∉ issueRegs) :
    (s.guestSeen site).fld fl site = s.fld fl site :=
  State.fld_of_reg (((State.RegsKept.refl s).bump (by unfold unitGuest; omega) (by decide)) fl.reg site (by omega) hreg)

theorem guestRequest_of_refused (hsite : site < 2) (hst : s.fld .GST_STATUS_STATE site = 4)
    (h : s.fld .GST_BIND_VALID site = 0 ∨ bit (s.fld .GST_CAP_TXN_REQ site) (reqTxn q) = false) :
    guestRequest site q s = (s.guestSeen site).guestRefuse site 0x0301 := by
  rw [← s.fld_guestSeen hsite (by decide : Fld.GST_BIND_VALID.reg ∉ issueRegs),
    ← s.fld_guestSeen hsite (by decide : Fld.GST_CAP_TXN_REQ.reg ∉ issueRegs)] at h
  unfold guestRequest
  rw [if_neg (not_not.mpr ⟨hsite, hst⟩)]
  exact if_pos (h.imp_right fun hno => by rw [State.guestSeen] at hno; simp [hno])

theorem guestRequest_of_local (hsite : site < 2) (hst : s.fld .GST_STATUS_STATE site = 4) (hbound : s.fld .GST_BIND_VALID site ≠ 0)
    (hkind : bit (s.fld .GST_CAP_TXN_REQ site) (reqTxn q) = true)
    (hiss : (s.guestSeen site).outerIssuer ((s.guestSeen site).fld .GST_BIND_CTX site) = (iss, v))
    (hprobe : v.probe iss (reqNeed q) (reqVa q) (reqBytes q) = (w, none)) (hlocal : w.guestLocal iss q = true) :
    guestRequest site q s = w.guestDo site iss q := by
  rw [← s.fld_guestSeen hsite (by decide : Fld.GST_BIND_VALID.reg ∉ issueRegs)] at hbound
  rw [← s.fld_guestSeen hsite (by decide : Fld.GST_CAP_TXN_REQ.reg ∉ issueRegs)] at hkind
  unfold State.guestSeen at *
  unfold guestRequest
  rw [if_neg (not_not.mpr ⟨hsite, hst⟩), if_neg (by simp [hbound, hkind])]
  simp only [hiss, hprobe, hlocal, if_true]

/-- Settles O45: an access that may be made is made as it is, and every other is refused. -/
theorem outsideAccesses : Obligations.OutsideAccesses := by
  refine ⟨fun s f off acc g iss u v hg hen hwin hiss hprobe => ?aperture, fun s f off acc g hg hclosed => ?closed,
    fun s site q u hsite hst hu => ⟨fun hrefused => ?refused, fun hbound hkind iss v w hiss hprobe hlocal => ?guest⟩⟩
  case aperture =>
    obtain ⟨hread, hwrite⟩ := hostApertureAccess_of_probe hg hen hwin hiss hprobe
    exact ⟨fun n w b p hacc hdata => next_congr (hread n w b p hacc hdata), fun d h hacc => next_congr (hwrite d h hacc)⟩
  case closed =>
    obtain ⟨rs, hseen⟩ := s.apertureSeen_eq
    have hfail := hostApertureAccess_of_closed hg hclosed
    rw [hseen] at hfail
    obtain ⟨hcount, hmem, hout⟩ := State.apertureFail_shows { s with regs := rs } f (accIsRead acc) hg
    refine ⟨_, _, next_congr hfail, hcount, rfl, hmem, ?_, ?_⟩
    · rintro n rfl
      exact hout
    · rintro d k rfl
      exact hout
  case refused =>
    subst hu
    exact next_congr (guestRequest_of_refused hsite hst hrefused)
  case guest =>
    subst hu
    have hdo := guestRequest_of_local hsite hst hbound hkind hiss hprobe hlocal
    refine ⟨?_, ?_, ?_⟩
    · rintro a n x b p rfl hread
      exact next_congr (hdo.trans (by simp only [State.guestDo, hread]))
    · rintro a d h x (rfl | rfl) hwrite <;> exact next_congr (hdo.trans (by simp only [State.guestDo, hwrite]))
    · rintro a op n x y r l z old rfl hx hatomic
      exact next_congr (hdo.trans (by simp only [State.guestDo, hx, hatomic]))

end Sys2Proof.Machine
end

section
/-! Firmware and its attestation (12.9, 15.4), the sideband's messages (16.7), and ATS invalidations (12.1). -/

namespace Sys2Proof.Machine

variable {s t u v : State} {c : Cmd} {r : List Byte} {b q : List Byte} {n id : Nat} {w : W64}

/-! ### ATTEST (R414) -/

/-- What the MGC answers to a request that could be read. -/
theorem attestDo_of_read (hread : s.readPhys s.hubWho 63 (leAt r 16 8) (leAt r 24 4) = (t, some q)) (hfresh : t.fresh = (n, u)) :
    (leAt r 28 4 < (Config.spdmReply q n).length + 4 → attestDo s r = (u, 0x0104)) ∧
    ((Config.spdmReply q n).length + 4 ≤ leAt r 28 4 →
      u.writePhys u.hubWho 63 (leAt r 32 8) (leBytes 4 (Config.spdmReply q n).length ++ Config.spdmReply q n) = (v, true) →
      attestDo s r = (v, 0)) := by
  constructor
  · intro hlong
    simp only [attestDo, hread, hfresh, if_pos hlong]
  · intro hfits hwrite
    simp only [attestDo, hread, hfresh, if_neg (Nat.not_lt.mpr hfits), hwrite]

/-! ### FW_STAGE (R477, R479) -/

theorem fwStageBody_begins {ok : Bool} (hstep : c.step = 0) (hchecks : checkStatus (fwStageChecks s c.raw) = 0)
    (hbytes : s.stageBytes c.raw = (u, .ok b)) : fwStageBody ok s c =
      ((u.modCmd c.id fun c => { c with step := 1 }).eraseOther (bit (leAt c.raw 28 1) 0), none) := by
  simp [fwStageBody, hstep, hchecks, hbytes]

theorem fwStageBody_writes (hstep : c.step ≠ 0) (hbytes : s.stageBytes c.raw = (u, .ok b)) :
    fwStageBody true s c =
      ((u.writeFlash (bit (leAt c.raw 28 1) 0) b true).1, some (u.writeFlash (bit (leAt c.raw 28 1) 0) b true).2) := by
  simp [fwStageBody, hstep, hbytes]

theorem State.writeFlash_image (s : State) (b : List Byte) :
    s.writeFlash true b true = ({ s with flash := { s.flash with image := b } }, 0) := rfl

theorem State.writeFlash_bundle (s : State) {ver cls : W16} {svn : Nat} (h : Config.fwBundle b = some (ver, svn, cls)) :
    s.writeFlash false b true = (s.setOther ⟨true, ver, svn, cls⟩, 0) := by
  simp [State.writeFlash, h]

/-- The copy that does not run is the one given, and its validity shows. -/
theorem State.setOther_shows (s : State) (x : FwCopy) : (if s.otherIsB then (s.setOther x).flash.b else (s.setOther x).flash.a) = x ∧
    (s.setOther x).fld .SRV_FW_STATUS_INACTIVE_VALID 0 = b2n x.good := by
  constructor
  · unfold State.setOther
    split <;> rfl
  · have hgood : b2n x.good % 2 = b2n x.good := by cases x.good <;> rfl
    exact (State.fld_setFld_apart _ _ _ (by decide)).trans ((State.fld_setFld_same _ _ _ _ (by decide) (by decide)).trans hgood)

/-! ### FW_ACTIVATE (R478) -/

theorem fwActivate_later (h : s.mayRun id 0x0F06 t c) (hchecks : checkStatus (fwActivateChecks t c.raw) = 0)
    (hlater : bit (leAt c.raw 16 1) 0 = false) : fwActivate id s = (t.preferOther c.raw).ended id 0 := by
  have hmay := h
  obtain ⟨c0, hc0, -, -, rfl, hc⟩ := hmay
  obtain ⟨c1, hc1, hraw⟩ := State.cmd_beginCmd_raw hc
  obtain rfl : c0 = c1 := Option.some.inj (hc0.symm.trans hc1)
  unfold fwActivate
  rw [hc0]
  dsimp only
  rw [if_neg (by simp [← hraw, hlater])]
  exact h.runCmd_of_body (by simp [hchecks, hlater])

theorem fwActivate_now (hc : s.cmd id = some c) (hop : c.opcode = 0x0F06) (hstart : s.startable c = true)
    (hchecks : checkStatus (fwActivateChecks s c.raw) = 0) (hnow : bit (leAt c.raw 16 1) 0 = true) (hready : s.boot = .ready)
    (hfresh : s.fresh = (n, u)) : fwActivate id s = (u.preferOther c.raw).packageReset (Config.bootInputs n) := by
  simp only [fwActivate, hc]
  rw [if_pos ⟨hop, hstart, hchecks, hnow, hready⟩, hfresh]

/-! ### SPDM (R413) -/

theorem spdmRequest_of_up (h : s.mgcUp = true) (bytes : List Byte) (known : Bool) :
    spdmRequest bytes known s = s.fresh.2.emit (.spdm (Config.spdmReply bytes s.free)) := if_pos h

/-- The fleet's key becomes the wrapping key. -/
def State.fleetKeyed (s : State) (key : BitVec 256) : State :=
  ((({ s with mwk := 2 ^ 64 + key.toNat } : State).setFld .MGT_SEC_STATUS_MWK_FLEET 0 1).setFld .MGT_SEC_STATUS_MWK_LOADED 0 1).fresh.2.emit
    (.spdm (Config.spdmReply (leBytes 32 key.toNat) s.free))

theorem fleetKeySet_of_session (hup : s.mgcUp = true) (hcert : s.reqCert = true) (key : BitVec 256) :
    fleetKeySet key true s = s.fleetKeyed key := if_pos ⟨hup, rfl, hcert⟩

theorem State.fleetKeyed_shows (s : State) (key : BitVec 256) : (s.fleetKeyed key).mwk = 2 ^ 64 + key.toNat ∧
    (s.fleetKeyed key).fld .MGT_SEC_STATUS_MWK_FLEET 0 = 1 ∧ (s.fleetKeyed key).fld .MGT_SEC_STATUS_MWK_LOADED 0 = 1 :=
  ⟨rfl, (State.fld_setFld_apart _ _ _ (by decide)).trans (State.fld_setFld_same _ .MGT_SEC_STATUS_MWK_FLEET 0 1 (by decide) (by decide)),
    State.fld_setFld_same _ .MGT_SEC_STATUS_MWK_LOADED 0 1 (by decide) (by decide)⟩

theorem fleetKeySet_of_refused {ok : Bool} (h : ok = false ∨ s.reqCert = false) (key : BitVec 256) :
    (fleetKeySet key ok s).mwk = s.mwk ∧ (fleetKeySet key ok s).regs = s.regs := by
  have hno : ¬ (s.mgcUp = true ∧ ok = true ∧ s.reqCert = true) := by
    rintro ⟨-, hok, hcert⟩
    obtain h | h := h <;> simp_all
  unfold fleetKeySet
  rw [if_neg hno]
  dsimp only
  split <;> exact ⟨rfl, rfl⟩

/-! ### PLDM (R501, R470) -/

theorem pldmGetSensor_of_known {sid k : Nat} (hup : s.mgcUp = true) (h : s.pldmSensor sid = some k) :
    pldmGetSensor sid s = s.emit (.pldm (w64 k)) := by
  simp [pldmGetSensor, hup, h]

section Effecters

variable (hup : s.mgcUp = true) (hfull : s.boot ≠ .mgmtOnly)
include hup

theorem pldmSetEffecter_reset (hok : s.resetRegOk true w = true) (hstep : (stepOfReg w).step ≠ 4) :
    pldmSetEffecter 23 w s = (s.acceptReset (stepOfReg w) none).pldmOk := by
  simp [pldmSetEffecter, hup, hok, hstep]

theorem pldmSetEffecter_bindOff (hconfirm : bits w.toNat 63 48 = 0x424F) (hready : s.boot = .ready) :
    pldmSetEffecter 24 w s = (bindOff .sideband w s).pldmOk := by
  simp [pldmSetEffecter, hup, hconfirm, hready]

include hfull

theorem pldmSetEffecter_cap (h : checkStatus (capSetChecks s (effecterRaw (w.toNat % 2 ^ 16) 0)) = 0) :
    pldmSetEffecter 20 w s = (capSetDo s (effecterRaw (w.toNat % 2 ^ 16) 0)).pldmOk := by
  unfold pldmSetEffecter
  simp only [hup, not_true_eq_false, if_false]
  exact if_neg (by simp only [hfull, h]; decide)

theorem pldmSetEffecter_shedLevel
    (h : checkStatus (shedLevelSetChecks s (effecterRaw (w.toNat % 2 ^ 15) (bits w.toNat 15 15))) = 0) :
    pldmSetEffecter 21 w s = (shedLevelSetDo s (effecterRaw (w.toNat % 2 ^ 15) (bits w.toNat 15 15))).pldmOk := by
  unfold pldmSetEffecter
  simp only [hup, not_true_eq_false, if_false]
  exact if_neg (by simp only [hfull, h]; decide)

theorem pldmSetEffecter_shed :
    pldmSetEffecter 22 1 s = (shedDo s).pldmOk ∧ pldmSetEffecter 22 2 s = (restoreDo s).pldmOk := by
  simp [pldmSetEffecter, hup, hfull]

end Effecters

theorem pldmFwUpdate_of_recovery (b : BootInputs) (h : s.boot = .recovery) : pldmFwUpdate [] true b s =
    (({ s.pldmCopy.1 with flash :=
      if s.flash.b.version.toNat < s.flash.a.version.toNat then { s.pldmCopy.1.flash with b := s.pldmCopy.2 }
      else { s.pldmCopy.1.flash with a := s.pldmCopy.2 } } : State).castAgain b).pldmOk := by
  unfold pldmFwUpdate
  rw [if_pos h]
  rfl

theorem pldmFwUpdate_of_image {image : List Byte} {ok : Bool} (b : BootInputs) (hup : s.mgcUp = true) (hidle : s.stageBusy = false)
    (hopen : s.boot ≠ .bindOff) (hbytes : image ≠ []) (himage : imgOk image = true) :
    pldmFwUpdate image ok b s = ({ s with flash := { s.flash with image := image } } : State).pldmOk := by
  have hrun : s.boot ≠ .recovery := by
    intro hrec
    simp [State.mgcUp, hrec] at hup
  simp [pldmFwUpdate, hrun, hup, hidle, hopen, hbytes, himage]

/-! ### ATS (R392) -/

theorem atsInvalidation_of_func {f len : Nat} {g : Func} (h : tget s.funcs f = some g) (va : W64) :
    atsInvalidation f va len s = if g.atsEn then s.emit (.atsDone f) else s := by
  simp only [atsInvalidation, h]

/-- Settles O43: each command and each message by its own lemma above. -/
theorem firmwareAndSideband : Obligations.FirmwareAndSideband := by
  refine ⟨fun s id s0 c s1 q n s2 h hchecks hread hfresh => ⟨fun hlong => ?long, fun s3 hfits hwrite => ?fits⟩,
    fun s id ok s0 c u b h hbytes => ⟨fun hstep hchecks => next_congr (h.runCmd_of_body (fwStageBody_begins hstep hchecks hbytes)),
      fun hstep hok himage => ?image, fun hstep hok hbundle ver svn k hver => ?bundle⟩,
    fun s id s0 c h hchecks hlater => next_congr (fwActivate_later h hchecks hlater),
    fun s id c n u hc hop hstart hchecks hnow hready hfresh => next_congr (fwActivate_now hc hop hstart hchecks hnow hready hfresh),
    fun s bytes known hup => ⟨_, _, next_congr (spdmRequest_of_up hup bytes known), rfl, rfl, rfl⟩,
    fun s key hup => ⟨fun hcert => ⟨_, next_congr (fleetKeySet_of_session hup hcert key), s.fleetKeyed_shows key⟩,
      fun ok hno => ⟨_, rfl, fleetKeySet_of_refused hno key⟩⟩,
    fun s sid v hup hsensor => next_congr (pldmGetSensor_of_known hup hsensor),
    fun s v hup hfull => ⟨fun hcap => next_congr (pldmSetEffecter_cap hup hfull hcap),
      fun hlevel => next_congr (pldmSetEffecter_shedLevel hup hfull hlevel), next_congr (pldmSetEffecter_shed hup hfull).1,
      next_congr (pldmSetEffecter_shed hup hfull).2, fun hok hstep => next_congr (pldmSetEffecter_reset hup hok hstep),
      fun hconfirm hready => next_congr (pldmSetEffecter_bindOff hup hconfirm hready)⟩,
    fun s image ok b => ⟨fun hrec himage hok => ?recovery, fun hup hidle hopen hbytes himage =>
      next_congr (pldmFwUpdate_of_image b hup hidle hopen hbytes himage)⟩,
    fun s f g va n hg => next_congr (atsInvalidation_of_func hg va)⟩
  case long => exact next_congr (h.runChecked_of_do hchecks ((attestDo_of_read (v := s2) hread hfresh).1 hlong))
  case fits => exact next_congr (h.runChecked_of_do hchecks ((attestDo_of_read hread hfresh).2 hfits hwrite))
  case image =>
    subst hok
    have hbody := fwStageBody_writes hstep hbytes
    rw [himage, u.writeFlash_image] at hbody
    exact next_congr (h.runCmd_of_body hbody)
  case bundle =>
    subst hok
    have hbody := fwStageBody_writes hstep hbytes
    rw [hbundle, u.writeFlash_bundle hver] at hbody
    exact ⟨_, next_congr (h.runCmd_of_body hbody), u.setOther_shows ⟨true, ver, svn, k⟩⟩
  case recovery =>
    subst himage hok
    exact ⟨_, _, rfl, next_congr (pldmFwUpdate_of_recovery b hrec)⟩

end Sys2Proof.Machine
end

section
/-! Reset steps 1 to 3 (13.3 to 13.7): by command, by register and by the sideband, and a step that overruns. -/

namespace Sys2Proof.Machine

variable {s t : State} {c : Cmd} {v : W64} {j : ResetJob} {id op : Nat}

/-! ### Requests by command (R423) -/

/-- Where no step is in progress, an accepted request starts its own. -/
theorem State.acceptReset_of_none (h : s.resetJob = none) (r : RStep) (cmd : Option Nat) : s.acceptReset r cmd = s.startReset r cmd.toList := by
  rw [State.acceptReset, h]

/-- The state after a step is said to be in progress. -/
def State.resetBusy (s : State) (r : RStep) (cmds : List Nat) : State :=
  { s.setFld .HUB_RESET_STATUS_BUSY 0 1 with resetJob := some ⟨r.step, r.kind, r.target, s.time, cmds, false⟩ }

theorem State.startReset_of_doStep {r : RStep} (h : s.doStep r = t) (cmds : List Nat) : s.startReset r cmds = t.resetBusy r cmds := by
  subst h
  rfl

theorem State.doStep_frog (k x : Nat) : s.doStep ⟨1, k, x⟩ = s.frog x 0x0201 := rfl
theorem State.doStep_engine (k x : Nat) : s.doStep ⟨2, k, x⟩ = s.engineReset k x := rfl
theorem State.doStep_panel (k x : Nat) : s.doStep ⟨3, k, x⟩ = s.panelReset x := rfl

/-- An accepted command asks for its step, which starts at once where none is in progress. -/
theorem resetBody_starts (hstep : c.step = 0) (hopen : s.boot ≠ .bindOff) (htarget : s.targetExists (resetOf c.raw) = true)
    (hnone : s.resetJob = none) : resetBody s c =
      ((s.modCmd c.id fun x => { x with step := 1 }).startReset (resetOf c.raw) [c.id], none) := by
  have hidle : (s.modCmd c.id fun x => { x with step := 1 }).resetJob = none := hnone
  have haccept := State.acceptReset_of_none hidle (resetOf c.raw) (some c.id)
  simp only [resetBody, hstep, hopen, htarget, haccept, Option.toList]
  rfl

/-- The step of each opcode. -/
theorem resetOf_of_opcode {r : List Byte} (h : hOpcode r = op) :
    (op = 0x080A → resetOf r = ⟨1, 0, leAt r 16 2 % 4096⟩) ∧ (op = 0x080B → resetOf r = ⟨2, leAt r 16 1 % 4, leAt r 17 1 % 64⟩) ∧
      (op = 0x080C → resetOf r = ⟨3, 0, leAt r 16 1 % 64⟩) := by
  subst h
  refine ⟨fun h => ?_, fun h => ?_, fun h => ?_⟩ <;> simp [resetOf, h]

/-! ### Requests by register and sideband (R422) -/

theorem State.resetByReg_of_ok {side : Bool} (hok : s.resetRegOk side v = true) (hnone : s.resetJob = none) :
    s.resetByReg side v = s.startReset (stepOfReg v) [] := by
  rw [State.resetByReg, if_pos hok, State.acceptReset_of_none hnone, Option.toList]

theorem State.resetByReg_of_bad {side : Bool} (hbad : s.resetRegOk side v = false) : s.resetByReg side v = s.refuseReset := by
  simp [State.resetByReg, hbad]

/-- A request by register or sideband reaches the row of its step. -/
theorem resetRow_of_step {side : Bool} {req : ResetReq} (hreq : req = if side then .sideband v else .reg v) {k : Nat}
    (hstep : (stepOfReg v).step = k) (opcode : Nat) : resetRow k opcode req s = s.resetByReg side v := by
  subst hreq
  cases side <;> exact if_pos hstep

theorem packageReset_of_bad {side : Bool} {req : ResetReq} (hreq : req = if side then .sideband v else .reg v)
    (hstep : (stepOfReg v).step = 4) (hbad : s.resetRegOk side v = false) (b : BootInputs) : packageReset req b s = s.refuseReset := by
  subst hreq
  cases side <;> simp [packageReset, hstep, hbad]

/-! ### RESET_OVERRUN (R423) -/

/-- The step in progress has overrun its bound. -/
def State.overran (s : State) (j : ResetJob) : State :=
  ({ s with resetJob := some { j with overran := true } } : State).lastReset j.rstep 2

theorem resetOverrun_of_job (hjob : s.resetJob = some j) (hfirst : j.overran = false) : resetOverrun s =
    (s.overran j).logFault 0x08 j.step 0x0405 0xFFFF (if j.step = 1 then some j.target else none) 0 j.target := by
  unfold resetOverrun
  rw [hjob]
  exact if_neg (by simp [hfirst])

theorem State.logFault_resetJob (s : State) (cls detail status owner : Nat) (ctx : Option Nat) (tag addr : Nat) :
    (s.logFault cls detail status owner ctx tag addr).resetJob = s.resetJob := by
  have hadd : (s.addFault cls detail status owner ctx tag addr).resetJob = s.resetJob := by
    unfold State.addFault
    dsimp only
    split <;> rfl
  unfold State.logFault
  dsimp only
  split
  · have hpost := (State.RecordOnly.refl (s.addFault cls detail status owner ctx tag addr)).postMgr 0x000E s.fltTail.toNat
    exact (congrArg (a₁ := State.offRecord _) State.resetJob hpost).trans hadd
  · exact hadd

/-- Settles O36: a request that is accepted starts its step, one that is refused says so, and an overrun is shown. -/
theorem lowerResetsComplete : Obligations.LowerResetsComplete := by
  refine ⟨fun s id op s0 c u h hstep hopen htarget hnone hu => ?command, fun s v side req hreq => ⟨fun hok hnone => ?accepted,
    fun hbad t ht => ?refused⟩, fun s j hjob hfirst => ?overrun⟩
  case command =>
    subst hu
    have hbody := resetBody_starts hstep hopen htarget hnone
    obtain ⟨hfrog, hengine, hpanel⟩ := resetOf_of_opcode h.opcode
    refine ⟨?frog, ?engine, ?panel⟩
    case frog =>
      rintro rfl
      rw [hfrog rfl, State.startReset_of_doStep (State.doStep_frog ..)] at hbody
      have hrun := h.runCmd_of_body hbody
      exact ⟨_, rfl, next_congr hrun⟩
    case engine =>
      rintro rfl
      rw [hengine rfl, State.startReset_of_doStep (State.doStep_engine ..)] at hbody
      have hrun := h.runCmd_of_body hbody
      exact ⟨_, rfl, next_congr hrun⟩
    case panel =>
      rintro rfl
      rw [hpanel rfl, State.startReset_of_doStep (State.doStep_panel ..)] at hbody
      have hrun := h.runCmd_of_body hbody
      exact ⟨_, rfl, next_congr hrun⟩
  case accepted =>
    have hstart := State.resetByReg_of_ok hok hnone
    exact ⟨fun hk => next_congr ((resetRow_of_step hreq hk _).trans hstart), fun hk => next_congr ((resetRow_of_step hreq hk _).trans hstart),
      fun hk => next_congr ((resetRow_of_step hreq hk _).trans hstart)⟩
  case refused =>
    subst ht
    have hrefuse := State.resetByReg_of_bad hbad
    exact ⟨fun hk => next_congr ((resetRow_of_step hreq hk _).trans hrefuse), fun hk => next_congr ((resetRow_of_step hreq hk _).trans hrefuse),
      fun hk => next_congr ((resetRow_of_step hreq hk _).trans hrefuse), fun b hk => next_congr (packageReset_of_bad hreq hk hbad b)⟩
  case overrun =>
    refine ⟨_, next_congr (resetOverrun_of_job hjob hfirst), State.logFault_resetJob _ _ _ _ _ _ _ _, ?_⟩
    calc _ = (s.overran j).fld .HUB_RESET_STATUS_LAST_RESULT 0 :=
          (State.FldKept.refl _ _).logFault (by decide) (by decide) _ _ _ _ _ _ _ 0 (by decide)
      _ = 2 := State.fld_setFld_same _ .HUB_RESET_STATUS_LAST_RESULT 0 2 (by decide) (by decide)

end Sys2Proof.Machine
end

section
/-! What stays while records are written, commands are cancelled and contexts are frogged (13.4): package time, and which functions exist.
One lemma for each function of the model that such an event calls bears the function's name, so that a proof follows the function's own
text. -/

namespace Sys2Proof.Machine

-- The lemmas below cite one another in long chains: each is elaborated when those it cites are done.
set_option Elab.async false

variable {s t u : State} {α : Type} {p : State → α}

/-! ### A reading of the state that is kept -/

/-- `t` reads as `s` does. -/
def State.Keeps (p : State → α) (s t : State) : Prop := p t = p s

namespace State.Keeps

theorem refl (p : State → α) (s : State) : s.Keeps p s := rfl

theorem trans (h : t.Keeps p u) (hs : s.Keeps p t) : s.Keeps p u := Eq.trans h hs

theorem ite {c : Prop} {_ : Decidable c} (ht : s.Keeps p t) (hu : s.Keeps p u) : s.Keeps p (if c then t else u) := by
  split
  · exact ht
  · exact hu

/-- For the state that a pattern `(u, b)` names. -/
theorem of_fst {β : Type} {x : State × β} {b : β} (h : s.Keeps p x.1) (e : x = (u, b)) : s.Keeps p u := by
  subst e
  exact h

/-- For the state that a pattern `(b, u)` names. -/
theorem of_snd {β : Type} {x : β × State} {b : β} (h : s.Keeps p x.2) (e : x = (b, u)) : s.Keeps p u := by
  subst e
  exact h

theorem foldl {β : Type} {f : State → β → State} {l : List β} (h : s.Keeps p t) (hf : ∀ u b, s.Keeps p u → s.Keeps p (f u b)) :
    s.Keeps p (l.foldl f t) := List.foldlRecOn l f h fun u hu b _ => hf u b hu

/-- For a fold that carries more than the state. -/
theorem foldl_fst {β γ : Type} {f : State × γ → β → State × γ} {l : List β} {x : State × γ} (h : s.Keeps p x.1)
    (hf : ∀ x b, s.Keeps p x.1 → s.Keeps p (f x b).1) : s.Keeps p (l.foldl f x).1 :=
  List.foldlRecOn (motive := fun x : State × γ => s.Keeps p x.1) l f h fun x hx b _ => hf x b hx

end State.Keeps

/-! ### Time and functions -/

/-- Package time, and which functions exist. -/
def State.census (s : State) : W64 × (Nat → Bool) := (s.time, thas s.funcs)

/-- No time passes, and the same functions exist. -/
def State.CensusKept (s t : State) : Prop := s.Keeps State.census t

theorem thas_tmod {β : Type} (l : Tab β) (n : Nat) (f : β → β) : thas (tmod l n f) = thas l := by
  funext m
  by_cases h : m = n
  · subst h
    rw [thas, tget_tmod_same, Option.isSome_map, thas]
  · rw [thas, tget_tmod_ne l f h, thas]

namespace State.CensusKept

theorem refl (s : State) : s.CensusKept s := Keeps.refl _ _

/-- An update of other parts of the state. -/
theorem update (h : s.CensusKept t) (e : u.time = t.time := by rfl)
    (ef : u.funcs = t.funcs := by rfl) : s.CensusKept u := by
  rw [CensusKept, Keeps, census, e, ef]
  exact h

theorem time (h : s.CensusKept t) : t.time = s.time := congrArg Prod.fst h

theorem funcs (h : s.CensusKept t) (f : Nat) : thas t.funcs f = thas s.funcs f := congrFun (congrArg Prod.snd h) f

theorem ite {c : Prop} {_ : Decidable c} (ht : s.CensusKept t) (hu : s.CensusKept u) : s.CensusKept (if c then t else u) := Keeps.ite ht hu

theorem of_fst {β : Type} {x : State × β} {b : β} (h : s.CensusKept x.1) (e : x = (u, b)) : s.CensusKept u := Keeps.of_fst h e

theorem foldl {β : Type} {f : State → β → State} {l : List β} (h : s.CensusKept t) (hf : ∀ u b, s.CensusKept u → s.CensusKept (f u b)) :
    s.CensusKept (l.foldl f t) := Keeps.foldl h hf

theorem foldl_fst {β γ : Type} {f : State × γ → β → State × γ} {l : List β} {x : State × γ} (h : s.CensusKept x.1)
    (hf : ∀ x b, s.CensusKept x.1 → s.CensusKept (f x b).1) : s.CensusKept (l.foldl f x).1 := Keeps.foldl_fst h hf

/-! Registers, counts, queues and functions -/

variable {q n i j v k id f ctx tag code info status cplq func : Nat} {r : List Byte} {c : Cmd}

theorem setReg {g : Reg} (h : s.CensusKept t) : s.CensusKept (t.setReg g i v) := h.update
theorem setFld {g : Fld} (h : s.CensusKept t) : s.CensusKept (t.setFld g i v) := h.update
theorem incFld {g : Fld} (h : s.CensusKept t) : s.CensusKept (t.incFld g i n) := h.update
theorem fresh (h : s.CensusKept t) : s.CensusKept t.fresh.2 := h.update
theorem setQueue {x : Queue} (h : s.CensusKept t) : s.CensusKept (t.setQueue q x) := h.update
theorem modQueue {g : Queue → Queue} (h : s.CensusKept t) : s.CensusKept (t.modQueue q g) := h.update
theorem modCmd {g : Cmd → Cmd} (h : s.CensusKept t) : s.CensusKept (t.modCmd id g) := h.update
theorem bumpFn (h : s.CensusKept t) : s.CensusKept (t.bumpFn f i n) := h.ite h.update

theorem bump {a : Option Attr} (h : s.CensusKept t) : s.CensusKept (t.bump v i n a) := by
  obtain ⟨rs, e⟩ := t.bump_eq v i n a
  rw [e]
  exact h.update

theorem modFunc {g : Func → Func} (h : s.CensusKept t) : s.CensusKept (t.modFunc f g) :=
  (congrArg (Prod.mk t.time) (thas_tmod t.funcs f g)).trans h

/-! Memory -/

theorem wakeHbm {a : Nat} (h : s.CensusKept t) : s.CensusKept (t.wakeHbm a) := by
  obtain ⟨rs, e⟩ := t.wakeHbm_eq a
  rw [e]
  exact h.update

theorem skeinCloseLine {line : Nat} (h : s.CensusKept t) : s.CensusKept (t.skeinCloseLine line) := by
  unfold State.skeinCloseLine
  split
  · exact h.update
  · exact h

theorem withMem (h : s.CensusKept t) (m : Memory) : s.CensusKept { t with mem := m } := h.update

theorem breakResv {a : Nat} (h : s.CensusKept t) : s.CensusKept (t.breakResv a) := h.update

theorem pwrite {a : Nat} {b : List Byte} (h : s.CensusKept t) : s.CensusKept (t.pwrite k a b).1 := by
  unfold State.pwrite
  split
  case h_1 =>
    dsimp only
    split
    · exact h.wakeHbm
    · exact (h.wakeHbm.skeinCloseLine.breakResv (a := a)).withMem _
  case h_2 =>
    dsimp only
    split
    · exact h.update
    · exact h.update
  all_goals exact h.update

theorem writePhys {w : Who} {slot a : Nat} {b : List Byte} (h : s.CensusKept t) : s.CensusKept (t.writePhys w slot a b).1 := by
  unfold State.writePhys
  refine h.foldl_fst (x := (t, true)) fun x c hx => ?_
  dsimp only
  split
  · split
    · exact hx
    · exact hx.pwrite
  · exact hx

theorem pread {a : Nat} (h : s.CensusKept t) : s.CensusKept (t.pread k a n).1 := by
  obtain ⟨fr, rs, e⟩ := t.pread_eq k a n
  rw [e]
  exact h.update

theorem readPhys {w : Who} {slot a : Nat} (h : s.CensusKept t) : s.CensusKept (t.readPhys w slot a n).1 := by
  unfold State.readPhys
  refine h.foldl_fst (x := (t, some [])) fun x c hx => ?_
  split
  · exact hx
  · split
    · split
      · exact hx
      · split <;> next e => exact hx.pread.of_fst e
    · exact hx

/-! Events and records (07.6) -/

theorem interrupt (h : s.CensusKept t) : s.CensusKept (t.interrupt q) := by
  unfold State.interrupt
  split
  · exact h
  · rename_i x _
    obtain ⟨o, ps, e⟩ := (t.setQueue q { x with armed := false, sinceArm := 0, firstAt := none }).sendMsix_eq x.func x.vector
    rw [e]
    exact h.update

theorem noteEntry (h : s.CensusKept t) : s.CensusKept (t.noteEntry q) := by
  unfold State.noteEntry
  split
  · exact h
  · exact (h.setQueue.interrupt.ite h.setQueue).ite h

theorem ringPut {b : List Byte} (h : s.CensusKept t) : s.CensusKept (t.ringPut q b).1 := by
  unfold State.ringPut
  split
  · exact h
  · split <;> rename_i e
    · exact (h.writePhys.of_fst e).modQueue
    · exact h.writePhys.of_fst e

theorem putEvent (h : s.CensusKept t) : s.CensusKept (t.putEvent q code info).1 := by
  unfold State.putEvent
  split
  · exact h
  · split
    · exact h
    · split
      · exact h.setQueue
      · split <;> rename_i e
        · exact (h.ringPut.of_fst e).modQueue.noteEntry
        · exact (h.ringPut.of_fst e).modQueue

theorem postEvent (h : s.CensusKept t) : s.CensusKept (t.postEvent q code info) := by
  unfold State.postEvent
  split <;> rename_i e
  · exact h.putEvent.of_fst e
  · exact (h.putEvent.of_fst e).ite (h.putEvent.of_fst e).putEvent

theorem postMgr (h : s.CensusKept t) : s.CensusKept (t.postMgr code info) := h.postEvent

theorem postCtx (h : s.CensusKept t) : s.CensusKept (t.postCtx ctx code info) := by
  unfold State.postCtx
  split
  · exact h
  · exact h.postEvent

theorem postBoth (h : s.CensusKept t) : s.CensusKept (t.postBoth ctx code info) := by
  unfold State.postBoth
  split
  · exact h.postMgr
  · exact h.postMgr.ite h.postMgr.postCtx

theorem faultQueue (h : s.CensusKept t) : s.CensusKept (t.faultQueue q) := by
  unfold State.faultQueue
  split
  · exact h
  · dsimp only
    split
    · exact h.setQueue.postBoth
    · exact h.setQueue.postBoth
    · exact h.setQueue.postMgr

theorem dropRecord (h : s.CensusKept t) : s.CensusKept (t.dropRecord cplq func) := h.modFunc.modQueue.postMgr

theorem overflowRecord (h : s.CensusKept t) : s.CensusKept (t.overflowRecord cplq func r) := by
  unfold State.overflowRecord
  split
  · exact h.dropRecord
  · split
    · exact h.dropRecord
    · dsimp only
      split <;> rename_i e
      · exact (h.writePhys.of_fst e).modFunc
      · exact (h.writePhys.of_fst e).dropRecord

theorem writeRecord (h : s.CensusKept t) : s.CensusKept (t.writeRecord cplq ctx r) := by
  unfold State.writeRecord
  split
  · exact h
  · refine h.dropRecord.ite (h.overflowRecord.ite (h.setQueue.postBoth.overflowRecord.ite ?_))
    split <;> rename_i e
    · exact (h.ringPut.of_fst e).noteEntry
    · exact (h.ringPut.of_fst e).faultQueue.dropRecord

theorem writeCopies (h : s.CensusKept t) : s.CensusKept (t.writeCopies cplq ctx r n) := by
  induction n generalizing t with
  | zero => exact h
  | succ n ih => exact ih h.writeRecord

theorem finishRecord (h : s.CensusKept t) : s.CensusKept (t.finishRecord q ctx tag r) := by
  unfold State.finishRecord
  split
  · exact h
  · exact h.setQueue.writeRecord.writeCopies

theorem logFault {cls detail owner addr : Nat} {o : Option Nat} (h : s.CensusKept t) :
    s.CensusKept (t.logFault cls detail status owner o tag addr) := by
  have hadd : s.CensusKept (t.addFault cls detail status owner o tag addr) := by
    unfold State.addFault
    dsimp only
    split
    · exact h.update
    · exact h.update
  exact hadd.postMgr.ite hadd

/-! Commands (07.13) -/

theorem dropRemotesOf {g : Remote → Bool} (h : s.CensusKept t) : s.CensusKept (t.dropRemotesOf g) := h.update

theorem spoilVa {iss : Issuer} {va : Nat} (h : s.CensusKept t) : s.CensusKept (t.spoilVa iss va n) := by
  unfold State.spoilVa
  refine h.fresh.foldl fun u b hu => ?_
  split
  · exact hu
  · exact hu.pwrite.ite hu

theorem spoilOutputs (h : s.CensusKept t) : s.CensusKept (t.spoilOutputs c) := h.foldl fun _ _ hu => hu.spoilVa

theorem leaveTile (h : s.CensusKept t) : s.CensusKept (t.leaveTile k) := by
  unfold State.leaveTile
  split
  · exact ite h.update h
  · exact h

theorem setTile {x : Tile} (h : s.CensusKept t) : s.CensusKept (t.setTile k x) := h.update

theorem releaseTiles (h : s.CensusKept t) : s.CensusKept (t.releaseTiles id) :=
  h.foldl fun _ _ hu => ite hu.leaveTile.setFld.setTile hu.leaveTile.setFld.setTile.setFld

theorem modCore {g : Core → Core} (h : s.CensusKept t) : s.CensusKept (t.modCore k g) := h.update

theorem dropWork (h : s.CensusKept t) : s.CensusKept (t.dropWork id) := by
  unfold State.dropWork
  extract_lets _ _ s₁
  have h₁ : s.CensusKept s₁ := h.foldl fun _ _ hu => hu.modCore.setFld
  exact h₁.update

theorem logStatus (h : s.CensusKept t) : s.CensusKept (t.logStatus c status) := (h.ite h.logFault).ite (h.logFault.ite h)

theorem countDone (h : s.CensusKept t) : s.CensusKept (t.countDone c status) := by
  unfold State.countDone
  extract_lets _ s₂
  have h₂ : s.CensusKept s₂ := h.bumpFn.bumpFn.ite h.bumpFn
  exact (h₂.bumpFn.ite h₂).bumpFn.bumpFn

theorem heldWrite {held : List TlbEntry} {va : Nat} {b : List Byte} (h : s.CensusKept t) : s.CensusKept (t.heldWrite held va b) := by
  unfold State.heldWrite
  refine h.foldl fun _ _ hu => ?_
  split
  · exact hu
  · exact hu.writePhys

theorem endDump {d : Dump} (h : s.CensusKept t) : s.CensusKept (t.endDump d status) := by
  unfold State.endDump
  extract_lets s₁
  have h₁ : s.CensusKept s₁ := h.heldWrite
  clear_value s₁
  split
  · exact h₁
  · exact h₁.update

theorem fireMark {m : Marker} (h : s.CensusKept t) : s.CensusKept (t.fireMark n m c status) := by
  unfold State.fireMark
  extract_lets skip _ _ s₁
  have hskip {u : State} (hu : s.CensusKept u) : s.CensusKept (skip u) := hu.update
  have h₁ : s.CensusKept s₁ := h.update
  exact (hskip h).ite (h₁.endDump.ite ((hskip h₁.endDump).ite h₁.update))

theorem fireMarkers (h : s.CensusKept t) : s.CensusKept (t.fireMarkers c status) := by
  unfold State.fireMarkers
  refine h.foldl fun _ _ hu => ?_
  split
  · exact hu.fireMark
  · exact hu

theorem meterCmd (h : s.CensusKept t) : s.CensusKept (t.meterCmd c).1 := by
  unfold State.meterCmd
  split
  · exact h
  · exact h.fresh

theorem finishCmd (h : s.CensusKept t) : s.CensusKept (t.finishCmd id status) := by
  unfold State.finishCmd
  split
  · exact h
  · split
    rename_i e
    have h₁ := h.meterCmd.of_fst e
    extract_lets _ _ s₂ s₃ s₄ s₅ v w
    have h₂ : s.CensusKept s₂ := h₁.foldl fun _ _ hu => hu.setReg
    have h₅ : s.CensusKept s₅ := h₂.releaseTiles.dropWork.logStatus.fireMarkers
    have hv : s.CensusKept v := h₅.countDone
    clear_value s₅
    clear_value v
    have hw : s.CensusKept w := hv.update
    split
    · exact h₅.update
    · exact hw.finishRecord

theorem cancelCmd (h : s.CensusKept t) : s.CensusKept (t.cancelCmd id status) := by
  unfold State.cancelCmd
  extract_lets s₁
  have h₁ : s.CensusKept s₁ := by
    unfold s₁
    split
    · exact h.spoilOutputs
    · exact h
  exact h₁.dropRemotesOf.modCmd.finishCmd

/-! The frog (13.4) -/

theorem headEntry {x : Queue} (h : s.CensusKept t) : s.CensusKept (t.headEntry x).1 := by
  unfold State.headEntry
  split <;> rename_i e
  · exact h.readPhys.of_fst e
  · have h₁ := h.readPhys.of_fst e
    split
    · split
      · exact h₁
      · split <;> rename_i e' <;> exact h₁.readPhys.of_fst e'
    · exact h₁

theorem cutEntry {x : Queue} (h : s.CensusKept t) : s.CensusKept (t.cutEntry q status x r n) := h.setQueue.finishRecord

theorem cutQueue (h : s.CensusKept t) : s.CensusKept (State.cutQueue q status n t) := by
  induction n generalizing t with
  | zero => exact h
  | succ n ih =>
    unfold State.cutQueue
    split
    · exact h
    · split
      · exact h
      · split <;> rename_i e
        · exact (h.headEntry.of_fst e).faultQueue
        · exact ih (h.headEntry.of_fst e).cutEntry

theorem cutOff (h : s.CensusKept t) : s.CensusKept (t.cutOff ctx status) := h.foldl fun _ _ hu => hu.cutQueue

theorem seqRecord {x : SeqRec} (h : s.CensusKept t) : s.CensusKept (t.seqRecord ctx x status) := by
  unfold State.seqRecord
  dsimp only
  split
  · exact h.fresh.bumpFn.finishRecord
  · exact h.fresh.finishRecord

theorem releaseSeqTiles (h : s.CensusKept t) : s.CensusKept (t.releaseSeqTiles k) := h.foldl fun _ _ hu => ite hu.leaveTile.setTile hu

theorem endCmd (h : s.CensusKept t) : s.CensusKept (t.endCmd id status) := h.modCmd

theorem frogRsq {x : Rsq} (h : s.CensusKept t) : s.CensusKept (t.frogRsq k status x) := by
  unfold State.frogRsq
  split
  · exact h
  · extract_lets s₁ s₂ s₃ _ s₄ s₅ s₆
    have h₃ : s.CensusKept s₃ := h.setFld.setFld.setFld.foldl fun _ _ hu => hu.seqRecord
    have h₅ : s.CensusKept s₅ := h₃.releaseSeqTiles.foldl fun _ _ hu => hu.endCmd
    have h₆ : s.CensusKept s₆ := by
      unfold s₆
      split
      · exact h₅.endCmd
      · exact h₅
    exact h₆.update

theorem answerSnoop {m : MKind} {line : Nat} (h : s.CensusKept t) : s.CensusKept (t.answerSnoop q m line tag) := by
  unfold State.answerSnoop
  extract_lets _ _ _ _ s₁
  have h₁ : s.CensusKept s₁ := h.update.ite h
  split
  · exact h₁.update
  · split
    · exact h₁.update
    · extract_lets
      split
      · exact ite h₁.update h₁.update
      · exact h₁.update

theorem endHold {line : Nat} (h : s.CensusKept t) : s.CensusKept (t.endHold q line) := by
  unfold State.endHold
  exact foldl h.update fun _ _ hu => hu.answerSnoop

theorem reclaimUcc {g : Tracked → Bool} {o : Hold → Bool} (h : s.CensusKept t) : s.CensusKept (t.reclaimUcc g o) := by
  unfold State.reclaimUcc
  exact foldl h.update fun _ _ hu => hu.foldl fun _ _ hv => hv.endHold

theorem reclaim {g : Nat → Nat → Bool} (h : s.CensusKept t) : s.CensusKept (t.reclaim g) := by
  unfold State.reclaim
  extract_lets _ s₁ s₂ s₃
  have h₁ : s.CensusKept s₁ := h.reclaimUcc
  have h₂ : s.CensusKept s₂ := h₁.update
  have h₃ : s.CensusKept s₃ := h₂.foldl fun _ _ hu => hu.modCore
  exact h₃.ite (h₃.incFld.bump.foldl fun _ _ hu => hu.logFault)

theorem abandonOps {o : Nat} (h : s.CensusKept t) : s.CensusKept (t.abandonOps f o) := h.foldl fun _ _ hu => hu.cancelCmd

theorem abandonFreeze (h : s.CensusKept t) : s.CensusKept (t.abandonFreeze f) := by
  unfold State.abandonFreeze
  dsimp only
  split
  · exact h.abandonOps
  · refine h.abandonOps.ite ?_
    have h₁ : s.CensusKept ((t.abandonOps f 0x0F02).modFunc f fun g => { g with state := 1 }) := h.abandonOps.modFunc
    exact abandonOps h₁.update

theorem dropCores {l : List Nat} (h : s.CensusKept t) : s.CensusKept (t.dropCores l) := h.foldl fun _ _ hu => hu.update

theorem xlatDrop {g : Nat → Bool} {lo hi : Nat} (h : s.CensusKept t) : s.CensusKept (t.xlatDrop g lo hi) := h.update

theorem stopDumps (h : s.CensusKept t) : s.CensusKept (t.stopDumps ctx) := by
  unfold State.stopDumps
  exact foldl h.update fun _ _ hu => hu.endDump

theorem frog (h : s.CensusKept t) : s.CensusKept (t.frog ctx status) := by
  unfold State.frog
  extract_lets s₁ s₂ s₃ _ s₄ s₅ s₆ s₇ s₈ s₉ s₁₀
  have h₂ : s.CensusKept s₂ := by
    unfold s₂
    split
    · exact h.bump.bumpFn.abandonFreeze
    · exact h.bump
  have h₆ : s.CensusKept s₆ := h₂.cutOff.reclaim.dropCores.xlatDrop
  have h₇ : s.CensusKept s₇ := h₆.foldl fun _ _ hu => hu.frogRsq
  have h₈ : s.CensusKept s₈ := h₇.foldl fun _ _ hu => hu.cancelCmd
  have h₉ : s.CensusKept s₉ := h₈.stopDumps
  clear_value s₉
  exact h₉.update

theorem frogAll {l : List Nat} (h : s.CensusKept t) : s.CensusKept (t.frogAll l status) := h.foldl fun _ _ hu => hu.frog

end State.CensusKept

end Sys2Proof.Machine
end

section
/-! Supplies, clocks, bind-off and a controller's fault (01.6, 11.8, 13.2, 15.7, 16.5). -/

namespace Sys2Proof.Machine

variable {s t : State} {f : Fld} {d : Nat}

/-! ### What a loss of supply leaves -/

/-- The alert is a register, a pin and a message (R496). -/
theorem State.setAlert_eq (s : State) (f : Fld) (on : Bool) :
    ∃ rs o a, s.setAlert f on = { s with regs := rs, out := o, pins := { s.pins with alert := a } } := by
  unfold State.setAlert
  dsimp only
  split
  · exact ⟨_, _, _, rfl⟩
  · exact ⟨_, _, _, rfl⟩

theorem State.keepShed_eq (s : State) (shedN : Bool) : ∃ rs p, s.keepShed shedN = { s with regs := rs, pwr := p } := by
  unfold State.keepShed
  split
  · exact ⟨_, _, rfl⟩
  · exact ⟨_, _, rfl⟩

theorem State.supplyFault_of_stage (h : s.pins.stage48 = true) : s.supplyFault.boot = .inputFault ∧ s.supplyFault.pins.stage48 = false ∧
    s.supplyFault.cmds = [] ∧ s.supplyFault.queues = [] ∧ s.supplyFault.mem.cells = [] := by
  rw [State.supplyFault, if_pos h]
  obtain ⟨rs, o, a, e⟩ := (s.loseStage .inputFault).setAlert_eq .SRV_ALERT_INPUT_FAULT true
  rw [e]
  exact ⟨rfl, rfl, rfl, rfl, rfl⟩

theorem State.powerDown_off (s : State) (tray : Bool) : (s.powerDown tray).boot = .off ∧ (s.powerDown tray).pins.trayRst = tray ∧
    (s.powerDown tray).queues = [] ∧ (s.powerDown tray).mem.cells = [] := by
  unfold State.powerDown State.powerUp
  dsimp only
  generalize hup : State.keepShed _ s.pwr.shedN = up
  obtain ⟨rs, p, e⟩ := State.keepShed_eq _ s.pwr.shedN
  rw [hup] at e
  rw [e]
  exact ⟨rfl, rfl, rfl, rfl⟩

/-! ### The fields that an event leaves -/

namespace State.FldKept

variable {n : Nat}

/-- The alert's conditions share a register. -/
theorem setAlert (hk : s.FldKept f t) (hf : f.reg ≠ .SRV_ALERT) {g : Fld} (hg : g.reg = .SRV_ALERT) (on : Bool) :
    s.FldKept f (t.setAlert g on) := by
  have hset : s.FldKept f (t.setFld g 0 (b2n on)) := hk.setFld (Fld.apart_of_reg_ne (hg ▸ hf)) (by decide)
  unfold State.setAlert
  extract_lets s₁ a
  split
  · exact hset
  · exact (hset.setFld (g := .SRV_ALERT_ASSERTED) (j := 0) (v := b2n a) (Fld.apart_of_reg_ne hf) (by decide)).of_regs

theorem stackOut (hk : s.FldKept f t) (hf : f.offTraffic) (hs : f.reg ≠ .HBM_STK_STATUS) (hg : f.reg ≠ .HBM_G_STATUS) :
    s.FldKept f (t.stackOut n) := by
  unfold State.stackOut
  split
  · next hl =>
    have hn := State.stackLive_lt hl
    refine (faultLogged ?_ hf _ _ _ _ _ _ _).postMgr hf.unwoken _ _
    exact (hk.setFld (Fld.apart_of_reg_ne hs) (by omega)).setFld (Fld.apart_of_reg_ne hg) (by decide)
  · exact hk

theorem reclaim (hk : s.FldKept f t) (hf : f.offTraffic) (hl : f.reg ≠ .HUB_LEASE_STATUS) (g : Nat → Nat → Bool) :
    s.FldKept f (t.reclaim g) := by
  unfold State.reclaim
  extract_lets l s₁ s₂ s₃
  have h₁ : s.FldKept f s₁ := hk.of_regs (State.reclaimUcc_regs _ _ _)
  have h₂ : s.FldKept f s₂ := h₁.of_regs
  have h₃ : s.FldKept f s₃ := h₂.foldl fun _ _ _ hv => hv.of_regs
  clear_value s₃
  split
  · exact h₃
  · have hinc := h₃.incFld (g := .HUB_LEASE_STATUS_RECLAIMED) (j := 0) (n := l.length) (Fld.apart_of_reg_ne hl) (by decide)
    refine foldl ?_ fun _ _ _ hv => hv.faultLogged hf _ _ _ _ _ _ _
    exact hinc.trans fun m hm => State.fld_of_reg ((State.RegsKept.refl _).bump (by decide) (by decide) f.reg m hm hf.not_issue)

theorem guestIsolate (hf : f.offTraffic) (hg : f.reg ≠ .GST_STATUS) (site : Nat) : s.FldKept f (guestIsolate site true s) := by
  have hdom : f.reg ≠ .PWR_DOMAIN_ON := fun h => hf.not_issue (h ▸ by decide)
  unfold Machine.guestIsolate
  split
  · next h =>
    have hn : site < 65536 := by omega
    have hset := ((((refl f s).setFld (g := .GST_STATUS_STATE) (v := 5) (Fld.apart_of_reg_ne hg) hn).setFld
      (g := .GST_STATUS_CAUSE) (v := 9) (Fld.apart_of_reg_ne hg) hn).setFld (g := .GST_STATUS_RATE) (v := 0) (Fld.apart_of_reg_ne hg)
      hn).setFld (g := .GST_STATUS_MODULES) (v := 0) (Fld.apart_of_reg_ne hg) hn
    refine faultLogged ?_ hf _ _ _ _ _ _ _
    exact (hset.setReg hdom (by omega)).of_regs (State.reclaimUcc_regs _ _ _)
  · exact refl f s

end State.FldKept

/-! ### Clocks (R23) -/

/-- The reference clock is lost or comes back: the register and the note of it. -/
def State.setRefBad (s : State) (bad : Bool) : State :=
  { s.setFld .GLB_STATUS_CLK_HOLDOVER 0 (b2n bad) with pins := { s.pins with refBad := bad } }

theorem State.fld_setRefBad (s : State) (bad : Bool) : (s.setRefBad bad).fld .GLB_STATUS_CLK_HOLDOVER 0 = b2n bad := by
  cases bad <;> exact State.fld_setFld_same s .GLB_STATUS_CLK_HOLDOVER 0 _ (by decide) (by decide)

theorem State.refBad_setAlert (s : State) (f : Fld) (on : Bool) : (s.setAlert f on).pins.refBad = s.pins.refBad ∧ (s.setAlert f on).mem = s.mem := by
  obtain ⟨rs, o, a, e⟩ := s.setAlert_eq f on
  rw [e]
  exact ⟨rfl, rfl⟩

theorem clockHoldoverEnter_eq (hoff : s.boot ≠ .off) (hgood : s.fld .GLB_STATUS_CLK_HOLDOVER 0 = 0) :
    clockHoldoverEnter s = ((s.setRefBad true).setAlert .SRV_ALERT_CLK_HOLDOVER true).postMgr 0x0008 0 :=
  if_neg (by simp [hoff, hgood])

theorem clockHoldoverEnter_shown (hoff : s.boot ≠ .off) (hgood : s.fld .GLB_STATUS_CLK_HOLDOVER 0 = 0) :
    (clockHoldoverEnter s).fld .GLB_STATUS_CLK_HOLDOVER 0 = 1 ∧ (clockHoldoverEnter s).pins.refBad = true := by
  rw [clockHoldoverEnter_eq hoff hgood]
  have hpost := (State.RecordOnly.refl ((s.setRefBad true).setAlert .SRV_ALERT_CLK_HOLDOVER true)).postMgr 0x0008 0
  refine ⟨?_, (congrArg (fun u : State => u.pins.refBad) hpost).trans (State.refBad_setAlert _ _ _).1⟩
  have hkept := ((State.FldKept.refl .GLB_STATUS_CLK_HOLDOVER (s.setRefBad true)).setAlert (g := .SRV_ALERT_CLK_HOLDOVER) (by decide) rfl
    true).postMgr (by decide) 0x0008 0
  exact (hkept 0 (by decide)).trans (s.fld_setRefBad true)

theorem clockHoldoverExit_shown (hbad : s.fld .GLB_STATUS_CLK_HOLDOVER 0 = 1) : (clockHoldoverExit s).fld .GLB_STATUS_CLK_HOLDOVER 0 = 0 ∧
    (clockHoldoverExit s).pins.refBad = false ∧ (clockHoldoverExit s).mem = s.mem := by
  have hexit : clockHoldoverExit s = (s.setRefBad false).setAlert .SRV_ALERT_CLK_HOLDOVER false := if_pos hbad
  rw [hexit]
  have hkept := (State.FldKept.refl .GLB_STATUS_CLK_HOLDOVER (s.setRefBad false)).setAlert (g := .SRV_ALERT_CLK_HOLDOVER) (by decide) rfl false
  exact ⟨(hkept 0 (by decide)).trans (s.fld_setRefBad false), State.refBad_setAlert _ _ _⟩

/-- The bits of `GLB_CLK_STATUS` are its one field. -/
theorem State.bit_clkStatus (s : State) (hd : d < 60) : bit (s.reg .GLB_CLK_STATUS 0) d = bit (s.fld .GLB_CLK_STATUS_LOCK 0) d := by
  have h := bits_testBit (s.reg .GLB_CLK_STATUS 0) 59 0 d
  rw [Nat.zero_add] at h
  simp only [bit, State.fld, Fld.GLB_CLK_STATUS_LOCK, h]
  simp [hd]

/-- The domain is shown as not locked. -/
def State.unlockClk (s : State) (d : Nat) : State := s.setReg .GLB_CLK_STATUS 0 (setBits (s.reg .GLB_CLK_STATUS 0) d d 0)

theorem State.bit_unlockClk (s : State) (d : Nat) : bit ((s.unlockClk d).reg .GLB_CLK_STATUS 0) d = false := by
  rw [State.unlockClk, State.reg_setReg_same, bit, Nat.testBit_mod_two_pow, setBits_testBit _ _ _ _ _ (Nat.le_refl d)]
  simp

theorem offTraffic_clkStatus : Fld.GLB_CLK_STATUS_LOCK.offTraffic := by
  unfold Fld.offTraffic
  decide

/-- What stops with a domain leaves the lock bits (log entry 30). -/
theorem pllLockLoss_kept (hlock : bit (s.reg .GLB_CLK_STATUS 0) d = true) (hd : d < 60) :
    (s.unlockClk d).FldKept .GLB_CLK_STATUS_LOCK (pllLockLoss d s) := by
  have hf := offTraffic_clkStatus
  have hrefl := State.FldKept.refl .GLB_CLK_STATUS_LOCK (s.unlockClk d)
  rw [pllLockLoss, if_neg (not_or.mpr ⟨Nat.not_lt.mpr (Nat.le_of_lt_succ hd), not_not.mpr hlock⟩)]
  extract_lets u
  change (u.FldKept .GLB_CLK_STATUS_LOCK _)
  split
  · exact hrefl.stackOut hf (by decide) (by decide)
  · split
    · split
      · exact hrefl
      · exact fun n hn => State.fld_linkDown u hf (.inl (by decide)) (by omega) hn
    · split
      · exact hrefl
      · split
        · exact State.FldKept.reclaim (t := u.emit (.hostPort (d - 52) false)) hrefl.of_regs hf (by decide) _
        · split
          · exact State.FldKept.guestIsolate hf (by decide) _
          · exact hrefl

theorem State.stackLive_stackOut (s : State) (h : Nat) : (s.stackOut h).stackLive h = false := by
  by_cases hl : s.stackLive h = true
  · have hout := State.stackOut_outOfService hl
    simp [State.stackLive, hout]
  · rw [State.stackOut, if_neg hl]
    exact eq_false_of_ne_true hl

theorem pllLockLoss_of_stack (hd : d < 16) (hlock : bit (s.reg .GLB_CLK_STATUS 0) d = true) :
    pllLockLoss d s = (s.unlockClk d).stackOut d := by
  rw [pllLockLoss, if_neg (by simp [hlock]; omega)]
  exact if_pos hd

/-! ### Bind-off and a controller's fault (R418, R483) -/

/-- The state in which bind-off waits for the work to drain. -/
def State.drains (s : State) (ms : Nat) : State :=
  { s.setFld .SRV_BIND_OFF_BUSY 0 1 with boot := .bindOff, bindAt := s.time, drainMs := if ms = 0 then 1000 else ms }

/-- Staging in progress is cancelled, which takes no time. -/
theorem bindOff_drains {v : View} {w : W64} (hv : v = .pf0 ∨ v = .sideband) (hboot : s.boot = .ready) (hkey : bits w.toNat 63 48 = 0x424F) :
    ∃ u : State, u.time = s.time ∧ bindOff v w s = u.drains (bits w.toNat 47 32) :=
  ⟨_, (State.CensusKept.foldl (.refl s) fun _ _ hu => hu.cancelCmd).time, if_pos ⟨hkey, hv, hboot⟩⟩

theorem State.fld_drains (s : State) (ms : Nat) : (s.drains ms).fld .SRV_BIND_OFF_BUSY 0 = 1 :=
  State.fld_setFld_same s .SRV_BIND_OFF_BUSY 0 1 (by decide) (by decide)

theorem controllerFault_state {c : Nat} (hc : c < 27) (hrun : s.fld .SRV_STATUS_STATE c = 2) :
    (controllerFault c s).fld .SRV_STATUS_STATE c = 4 := by
  rw [controllerFault, if_pos ⟨hc, hrun⟩]
  exact ((State.FldKept.refl _ _).logFault (by decide) (by decide) _ _ _ _ _ _ _ c (by omega)).trans
    (State.fld_setFld_same s .SRV_STATUS_STATE c 4 (by decide) (by decide))

/-- Settles O39: each supply event of its length takes the stage, each clock event shows in its register, and bind-off drains. -/
theorem supplyEvents : Obligations.SupplyEvents := by
  refine ⟨fun s ns t ht => ⟨?under, ?overvoltage, ?regulator, ?underShort, ?short, ?stage, ?noStage⟩, fun s ns hon hns => ?aux,
    fun s ns hns => ?tray, fun s ns hns hon => ?glitch, fun s u v hu hv hon htrip => ?trip, fun s hon hgood => ?enter,
    fun s hbad => ?exit, fun s d hd hlock => ?lock, fun s v w hv hboot hkey => ?bindOff, fun s hboot hdrain => ?expire,
    fun s c hc hrun => ⟨_, rfl, controllerFault_state hc hrun⟩⟩
  case under => exact fun h => next_congr ((if_pos h).trans ht)
  case overvoltage => exact fun h => next_congr ((if_pos h).trans ht)
  case regulator => exact fun h => next_congr ((if_pos h).trans ht)
  case underShort => exact fun h => next_congr (if_neg (by omega))
  case short => exact fun h => ⟨next_congr (if_neg (by omega)), next_congr (if_neg (by omega))⟩
  case stage =>
    subst ht
    exact State.supplyFault_of_stage
  case noStage =>
    subst ht
    exact fun h => if_neg (by simp [h])
  case aux =>
    obtain ⟨hoff, htray, hqueues, -⟩ := s.powerDown_off s.pins.trayRst
    exact ⟨_, next_congr (if_pos ⟨hns, hon⟩), hoff, hqueues, htray⟩
  case tray => exact ⟨_, next_congr (if_neg (by omega)), s.powerDown_off true⟩
  case glitch => exact next_congr ((if_pos hns).trans (if_neg hon))
  case trip => exact ⟨_, next_congr (if_pos ⟨hu, hv, hon, by simp [htrip]⟩), rfl, rfl, rfl, rfl⟩
  case enter => exact ⟨_, rfl, clockHoldoverEnter_shown hon hgood⟩
  case exit => exact ⟨_, rfl, clockHoldoverExit_shown hbad⟩
  case lock =>
    have hkept := pllLockLoss_kept hlock hd 0 (by decide)
    refine ⟨_, rfl, ?_, fun hstack => ?_⟩
    · rw [State.bit_clkStatus _ hd, hkept, ← State.bit_clkStatus _ hd, s.bit_unlockClk d]
    · rw [pllLockLoss_of_stack hstack hlock, State.stackLive_stackOut]
  case bindOff =>
    obtain ⟨u, htime, hu⟩ := bindOff_drains hv hboot hkey
    exact ⟨_, next_congr hu, rfl, u.fld_drains _, htime, rfl⟩
  case expire => exact next_congr (if_pos ⟨hboot, hdrain⟩)

end Sys2Proof.Machine
end

section
/-! Cast-on (15.2): what its loading steps leave, and where each way of failing ends. -/

namespace Sys2Proof.Machine

-- The lemmas below cite one another in long chains: each is elaborated when those it cites are done.
set_option Elab.async false

variable {s t u : State} {b : BootInputs} {power : Bool}

/-! ### What the loading steps leave (Table 15-1, steps 1 to 4) -/

/-- Work in flight, memory's bytes and the number of power-ups. -/
def State.unloaded (s : State) := (s.cmds, s.rsqs, s.panels, s.resetJob, s.boots, s.mem.cells)

def State.LoadKept (s t : State) : Prop := s.Keeps State.unloaded t

namespace State.LoadKept

theorem refl (s : State) : s.LoadKept s := Keeps.refl _ _

/-- An update of other parts of the state. -/
theorem update (h : s.LoadKept t) (e : u.unloaded = t.unloaded := by rfl) : s.LoadKept u := Keeps.trans e h

theorem trans (h : t.LoadKept u) (hs : s.LoadKept t) : s.LoadKept u := Keeps.trans h hs

theorem ite {c : Prop} {_ : Decidable c} (ht : s.LoadKept t) (hu : s.LoadKept u) : s.LoadKept (if c then t else u) := Keeps.ite ht hu

theorem foldl {β : Type} {f : State → β → State} {l : List β} (h : s.LoadKept t) (hf : ∀ u b, s.LoadKept u → s.LoadKept (f u b)) :
    s.LoadKept (l.foldl f t) := Keeps.foldl h hf

theorem fields (h : s.LoadKept t) : t.cmds = s.cmds ∧ t.rsqs = s.rsqs ∧ t.panels = s.panels ∧ t.resetJob = s.resetJob ∧ t.boots = s.boots ∧
    t.mem.cells = s.mem.cells := by
  simpa [LoadKept, Keeps, unloaded] using h

variable {i v p key : Nat} {r : Reg} {f : Fld}

theorem setReg (h : s.LoadKept t) : s.LoadKept (t.setReg r i v) := h.update
theorem setFld (h : s.LoadKept t) : s.LoadKept (t.setFld f i v) := h.update
theorem bootStep (h : s.LoadKept t) : s.LoadKept (t.bootStep v) := h.update

theorem loadC {g : State → State} (h : s.LoadKept t) (hg : ∀ u, s.LoadKept u → s.LoadKept (g u)) :
    s.LoadKept (t.loadC power r i g) := ite (hg t h) h

theorem loadSlot (h : s.LoadKept t) : s.LoadKept (t.loadSlot p key) := by
  unfold State.loadSlot
  extract_lets k old s₁
  have h₁ : s.LoadKept s₁ := h.foldl fun _ _ hu => hu.update
  clear_value s₁
  exact h₁.update

theorem loadKeys (h : s.LoadKept t) : s.LoadKept t.loadKeys := by
  have hslot : s.LoadKept (t.freshKey.2.loadSlot 63 t.freshKey.1) := loadSlot h.update
  unfold State.loadKeys
  dsimp only
  generalize t.freshKey.2.loadSlot 63 t.freshKey.1 = u at hslot
  exact hslot.update

theorem loadFuses (h : s.LoadKept t) : s.LoadKept t.loadFuses := (setFld h.setReg.setFld).foldl fun _ _ hu => hu.setReg

theorem runCopy {x : Bool} (h : s.LoadKept t) : s.LoadKept (t.runCopy x) := by
  unfold State.runCopy
  extract_lets y o s₁ k _ s₂
  have h₁ : s.LoadKept s₁ := h.foldl fun _ _ hu => hu.setReg
  have h₂ : s.LoadKept s₂ := by
    clear_value s₁
    exact h₁.update
  clear_value s₂
  exact h₂.setFld.setFld.setReg

/-- The configuration image goes to registers and to epoch 1. -/
theorem loadConfig (h : s.LoadKept t) (power : Bool) : ∃ u fm, s.LoadKept u ∧ t.loadConfig power = u.takeModes power fm := by
  refine ⟨_, _, ?_, rfl⟩
  refine foldl (foldl ?_ fun u l hu => hu.loadC fun _ hv => hv.setFld) fun u g hu => hu.loadC fun _ hv => hv.setFld
  refine setFld (setFld (setFld (setFld (loadC (loadC (loadC ?_ ?_) ?_) ?_))))
  · exact setFld (setFld (setFld (setFld (setFld (setFld h.update)))))
  · exact fun _ hv => hv.setFld
  · exact fun _ hv => hv.setReg
  · exact fun _ hv => hv.setFld

theorem takeModes (h : s.LoadKept t) (fm : Nat) : s.LoadKept (t.takeModes true fm) := h.update

end State.LoadKept

/-! ### Cast-on (R468) -/

/-- What a power-up leaves of the work, of memory and of the flash. -/
theorem State.powerUp_fields (s : State) : s.powerUp.cmds = [] ∧ s.powerUp.boots = s.boots + 1 ∧ s.powerUp.mem.cells = [] ∧
    s.powerUp.flash = { s.flash with inUse := [] } := by
  unfold State.powerUp
  generalize hup : State.keepShed _ s.pwr.shedN = up
  obtain ⟨rs, p, e⟩ := State.keepShed_eq _ s.pwr.shedN
  rw [hup] at e
  rw [e]
  exact ⟨rfl, rfl, rfl, rfl⟩

/-- Cast-on's first step, from power-up. -/
def State.castOnStart (s : State) : State := (s.powerUp.setFld .GLB_BOOT_STATUS_FROM_POWER 0 1).bootStep 1

/-- Cast-on once the fuses and the keys are loaded. -/
def State.castOnKeyed (s : State) : State := s.castOnStart.loadFuses.loadKeys.bootStep 2

theorem State.flash_loadKeys (s : State) : s.loadKeys.flash = s.flash :=
  List.foldlRecOn (motive := fun t : State => t.flash = s.flash) _ _ rfl fun _ ht _ _ => ht

theorem State.flash_loadFuses (s : State) : s.loadFuses.flash = s.flash :=
  List.foldlRecOn (motive := fun t : State => t.flash = s.flash) _ _ rfl fun _ ht _ _ => ht

theorem State.flash_bootStep (s : State) (n : Nat) : (s.bootStep n).flash = s.flash := rfl

theorem State.flash_castOnKeyed (s : State) : s.castOnKeyed.flash = { s.flash with inUse := [] } := by
  obtain ⟨-, -, -, hflash⟩ := s.powerUp_fields
  rw [State.castOnKeyed, State.flash_bootStep, State.flash_loadKeys, State.flash_loadFuses, State.castOnStart, State.flash_bootStep]
  exact hflash

theorem State.castOnKeyed_kept (s : State) : s.castOnStart.LoadKept s.castOnKeyed := (State.LoadKept.refl _).loadFuses.loadKeys.bootStep

theorem castOn_of_badRom (hoff : s.boot = .off) (htray : s.pins.trayRst = true) (hrom : b.romOk = false) :
    castOn b s = s.castOnStart.bootFail 2 0x21 .halted := by
  rw [castOn, if_neg (by simp [hoff, htray])]
  exact if_pos (by simp [hrom])

/-- Cast-on goes on to wait for 48 V where steps 2 to 4 succeed, and stays where they end otherwise. -/
theorem castOn_of_bootLoad (hoff : s.boot = .off) (htray : s.pins.trayRst = true) (hrom : b.romOk = true) {ok : Bool}
    (hload : s.castOnKeyed.bootLoad true b = (t, ok)) :
    castOn b s = if ok then { t.setFld .GLB_BOOT_STATUS_VIN_WAIT 0 1 with boot := .vinWait } else t := by
  unfold State.castOnKeyed State.castOnStart at hload
  rw [castOn, if_neg (by simp [hoff, htray])]
  extract_lets u
  rw [if_neg (by simp [hrom]), hload]
  cases ok <;> rfl

theorem State.regs_withBoot (s : State) (x : Boot) : ({ s with boot := x } : State).regs = s.regs := rfl

theorem State.regs_bootFail (s : State) (step cause : Nat) (x : Boot) : (s.bootFail step cause x).regs =
    ((s.setFld .GLB_BOOT_STATUS_FAIL_STEP 0 step).setFld .GLB_BOOT_STATUS_CAUSE 0 cause).regs := by
  unfold State.bootFail
  exact State.regs_withBoot _ x

theorem State.fields_bootFail (s : State) {step cause : Nat} (hs : step < 16) (hc : cause < 256) (x : Boot) :
    (s.bootFail step cause x).fld .GLB_BOOT_STATUS_FAIL_STEP 0 = step ∧ (s.bootFail step cause x).fld .GLB_BOOT_STATUS_CAUSE 0 = cause := by
  constructor
  · rw [State.fld_congr (s.regs_bootFail step cause x), State.fld_setFld_apart _ _ _ (by decide), State.fld_setFld_same _ _ _ _ (by decide) (by decide)]
    exact Nat.mod_eq_of_lt hs
  · rw [State.fld_congr (s.regs_bootFail step cause x), State.fld_setFld_same _ _ _ _ (by decide) (by decide)]
    exact Nat.mod_eq_of_lt hc

/-- The package waits in the recovery state (R472). -/
def State.recovers (s : State) (cause : Nat) : State := (s.bootFail 3 cause .recovery).setFld .GLB_BOOT_STATUS_RECOVERY 0 1

theorem State.fields_recovers (s : State) {cause : Nat} (hc : cause < 256) : (s.recovers cause).boot = .recovery ∧
    (s.recovers cause).fld .GLB_BOOT_STATUS_RECOVERY 0 = 1 ∧ (s.recovers cause).fld .GLB_BOOT_STATUS_CAUSE 0 = cause := by
  obtain ⟨-, hcause⟩ := s.fields_bootFail (step := 3) (by decide) hc .recovery
  exact ⟨rfl, State.fld_setFld_same _ .GLB_BOOT_STATUS_RECOVERY 0 1 (by decide) (by decide),
    (State.fld_setFld_apart _ (g := .GLB_BOOT_STATUS_RECOVERY) 0 1 (by decide)).trans hcause⟩

theorem State.bootLoad_of_badFlash (hbad : b.flashOk = false) : s.bootLoad power b = (s.recovers 0x32, false) := if_pos (by simp [hbad])

/-- Copy A runs where it is good and the record does not prefer the other (R472). -/
theorem pickCopy_a {f : Flash} (hgood : f.a.good = true) (hok : b.copyABad = false) (hprefer : f.recordOk = true → f.preferB = false) :
    pickCopy f b = some false := by
  have hfirst : (f.recordOk && f.preferB) = false := by
    cases hr : f.recordOk
    · rfl
    · rw [hprefer hr, Bool.and_false]
  simp [pickCopy, hgood, hok, hfirst]

/-- A copy that runs takes the boot past step 4. -/
theorem State.bootLoad_of_copy (hflash : b.flashOk = true) {x : Bool} (hpick : pickCopy s.flash b = some x) :
    ∃ u, s.LoadKept u ∧ s.bootLoad power b = ((u.loadConfig power).bootStep 4, true) := by
  have hb : ¬ ¬ b.flashOk = true := not_not.mpr hflash
  rw [State.bootLoad, if_neg hb]
  extract_lets first okA okB s₁ s₂
  have h₂ : s.LoadKept s₂ := (State.LoadKept.refl s).setFld.setFld
  have hpick₂ : pickCopy s₂.flash b = some x := hpick
  rw [hpick₂]
  exact ⟨_, h₂.runCopy.bootStep, rfl⟩

/-- The package waits for 48 V. -/
def State.vinWaits (s : State) : State := { s.setFld .GLB_BOOT_STATUS_VIN_WAIT 0 1 with boot := .vinWait }

theorem State.fields_vinWaits (s : State) : ((s.bootStep 4).vinWaits).fld .GLB_BOOT_STATUS_VIN_WAIT 0 = 1 ∧
    ((s.bootStep 4).vinWaits).fld .GLB_BOOT_STATUS_STEP 0 = 4 :=
  ⟨State.fld_setFld_same _ .GLB_BOOT_STATUS_VIN_WAIT 0 1 (by decide) (by decide),
    (State.fld_setFld_apart _ (f := .GLB_BOOT_STATUS_STEP) (g := .GLB_BOOT_STATUS_VIN_WAIT) 0 1 (by decide)).trans
      (s.fld_setFld_same .GLB_BOOT_STATUS_STEP 0 4 (by decide) (by decide))⟩

theorem castOn_of_badFlash (hoff : s.boot = .off) (htray : s.pins.trayRst = true) (hrom : b.romOk = true) (hbad : b.flashOk = false) :
    castOn b s = s.castOnKeyed.recovers 0x32 := by
  have hcast := castOn_of_bootLoad hoff htray hrom (State.bootLoad_of_badFlash (s := s.castOnKeyed) (power := true) hbad)
  rw [hcast, if_neg Bool.false_ne_true]

/-- Where a copy runs, the package waits for 48 V with nothing in flight and no memory. -/
theorem castOn_waits (hoff : s.boot = .off) (htray : s.pins.trayRst = true) (hrom : b.romOk = true) (hflash : b.flashOk = true) {x : Bool}
    (hpick : pickCopy { s.flash with inUse := [] } b = some x) : ∃ u : State, castOn b s = (u.bootStep 4).vinWaits ∧ u.cmds = [] ∧
      u.boots = s.boots + 1 ∧ u.mem.cells = [] := by
  obtain ⟨v, hv, hload⟩ := State.bootLoad_of_copy (s := s.castOnKeyed) (power := true) hflash (by rw [s.flash_castOnKeyed]; exact hpick)
  obtain ⟨w, fm, hw, hconfig⟩ := hv.loadConfig true
  obtain ⟨hcmds, -, -, -, hboots, hcells⟩ := (State.LoadKept.trans (hw.takeModes fm) s.castOnKeyed_kept).fields
  obtain ⟨hcmds₀, hboots₀, hcells₀, -⟩ := s.powerUp_fields
  rw [hconfig] at hload
  exact ⟨w.takeModes true fm, castOn_of_bootLoad hoff htray hrom hload, hcmds.trans hcmds₀, hboots.trans hboots₀, hcells.trans hcells₀⟩

/-- Settles O38: each part of cast-on that fails ends where it says, and nothing is in flight when the package waits for 48 V. -/
theorem castOnComplete : Obligations.CastOnComplete := by
  refine ⟨fun s b hoff htray => ⟨fun hrom => ?rom, fun hrom hbad => ?flash, fun hrom hflash hgood hok hprefer => ?waits⟩,
    fun s b hwait hstage => ?stage, fun s b hwait => next_congr (if_pos hwait)⟩
  case rom =>
    obtain ⟨hstep, hcause⟩ := s.castOnStart.fields_bootFail (step := 2) (cause := 0x21) (by decide) (by decide) .halted
    exact ⟨_, next_congr (castOn_of_badRom hoff htray hrom), rfl, hstep, hcause⟩
  case flash =>
    exact ⟨_, next_congr (castOn_of_badFlash hoff htray hrom hbad), s.castOnKeyed.fields_recovers (by decide)⟩
  case waits =>
    obtain ⟨u, hu, hcmds, hboots, hcells⟩ := castOn_waits hoff htray hrom hflash
      (pickCopy_a (f := { s.flash with inUse := [] }) hgood hok hprefer)
    obtain ⟨hvin, hstep⟩ := u.fields_vinWaits
    exact ⟨_, next_congr hu, rfl, hvin, hstep, hcmds, hcells, hboots⟩
  case stage =>
    obtain ⟨hstep, hcause⟩ := (s.setFld .GLB_BOOT_STATUS_VIN_WAIT 0 0).fields_bootFail (step := 5) (cause := 0x51) (by decide) (by decide)
      .mgmtOnly
    exact ⟨_, next_congr ((if_pos hwait).trans (if_pos (by simp [hstage]))), rfl, hstep, hcause⟩

end Sys2Proof.Machine
end

section
/-! Reset step 4 (13.8): nothing is in flight after it, and `HUB_RESET_STATUS` shows it. The function resets (12.3) and the host ports'
reset pins (16.6). -/

namespace Sys2Proof.Machine

-- The lemmas below cite one another in long chains: each is elaborated when those it cites are done.
set_option Elab.async false

variable {s t u : State} {b : BootInputs}

/-! ### What the boot after a reset leaves (Table 15-1) -/

/-- The work of the package and the reset step in progress. -/
def State.underway (s : State) := (s.cmds, s.rsqs, s.panels, s.resetJob)

def State.FlightKept (s t : State) : Prop := s.Keeps State.underway t

namespace State.FlightKept

theorem refl (s : State) : s.FlightKept s := Keeps.refl _ _

/-- An update of other parts of the state. -/
theorem update (h : s.FlightKept t) (e : u.underway = t.underway := by rfl) : s.FlightKept u := Keeps.trans e h

theorem trans (h : s.FlightKept t) (h' : t.FlightKept u) : s.FlightKept u := Keeps.trans h' h

theorem ite {c : Prop} {_ : Decidable c} (ht : s.FlightKept t) (hu : s.FlightKept u) : s.FlightKept (if c then t else u) := Keeps.ite ht hu

theorem of_fst {β : Type} {x : State × β} {b : β} (h : s.FlightKept x.1) (e : x = (u, b)) : s.FlightKept u := Keeps.of_fst h e

theorem foldl {β : Type} {f : State → β → State} {l : List β} (h : s.FlightKept t) (hf : ∀ u b, s.FlightKept u → s.FlightKept (f u b)) :
    s.FlightKept (l.foldl f t) := Keeps.foldl h hf

/-- Records, events and counts touch no work. -/
theorem recordOnly (h : s.FlightKept t) (hr : t.RecordOnly u) : s.FlightKept u :=
  Keeps.trans (congrArg (a₁ := u.offRecord) (a₂ := t.offRecord) State.underway hr) h

theorem of_loadKept (h : s.FlightKept t) (hl : t.LoadKept u) : s.FlightKept u := by
  obtain ⟨hcmds, hrsqs, hpanels, hjob, -⟩ := hl.fields
  exact Keeps.trans (by rw [Keeps, State.underway, hcmds, hrsqs, hpanels, hjob, State.underway]) h

theorem fields (h : s.FlightKept t) : t.cmds = s.cmds ∧ t.rsqs = s.rsqs ∧ t.panels = s.panels ∧ t.resetJob = s.resetJob := by
  simpa [FlightKept, Keeps, State.underway] using h

variable {i v d n key lo hi code info step cause : Nat} {r : Reg} {f : Fld}

theorem setReg (h : s.FlightKept t) : s.FlightKept (t.setReg r i v) := h.update
theorem setFld (h : s.FlightKept t) : s.FlightKept (t.setFld f i v) := h.update
theorem setDomain {on : Bool} (h : s.FlightKept t) : s.FlightKept (t.setDomain d on) := h.update
theorem modPwr {g : Pwr → Pwr} (h : s.FlightKept t) : s.FlightKept (t.modPwr g) := h.update
theorem fresh (h : s.FlightKept t) : s.FlightKept t.fresh.2 := h.update
theorem emit {o : Out} (h : s.FlightKept t) : s.FlightKept (t.emit o) := h.update
theorem bootStep (h : s.FlightKept t) : s.FlightKept (t.bootStep v) := h.update
theorem swLose (h : s.FlightKept t) : s.FlightKept (t.swLose n lo hi) := h.update
theorem bootFail {x : Boot} (h : s.FlightKept t) : s.FlightKept (t.bootFail step cause x) := h.update

theorem bump {a : Option Attr} (h : s.FlightKept t) : s.FlightKept (t.bump v i n a) := h.recordOnly ((RecordOnly.refl t).bump v i n a)
theorem postMgr (h : s.FlightKept t) : s.FlightKept (t.postMgr code info) := h.recordOnly ((RecordOnly.refl t).postMgr code info)

theorem writePhys {w : Who} {slot a : Nat} {l : List Byte} (h : s.FlightKept t) : s.FlightKept (t.writePhys w slot a l).1 :=
  h.recordOnly ((RecordOnly.refl t).writePhys w slot a l)

theorem logFault {cls detail status owner tag addr : Nat} {ctx : Option Nat} (h : s.FlightKept t) :
    s.FlightKept (t.logFault cls detail status owner ctx tag addr) := by
  have hadd : s.FlightKept (t.addFault cls detail status owner ctx tag addr) := by
    unfold State.addFault
    dsimp only
    split
    · exact h.update
    · exact h.update
  exact hadd.postMgr.ite hadd

theorem loadC {power : Bool} {g : State → State} (h : s.FlightKept t) (hg : ∀ u, s.FlightKept u → s.FlightKept (g u)) :
    s.FlightKept (t.loadC power r i g) := ite (hg t h) h

theorem loseFrames {c : State → Nat → Prop} {hc : ∀ u k, Decidable (c u k)} {l : List Nat} (h : s.FlightKept t) :
    s.FlightKept (l.foldl (fun u k => if c u k then u else { u with mem := u.mem.loseFrame k }) t) :=
  h.foldl fun _ _ hu => hu.ite hu.update

theorem takeModes {power : Bool} {fm : Nat} (h : s.FlightKept t) : s.FlightKept (t.takeModes power fm) := by
  unfold State.takeModes
  extract_lets old _ s₁
  have h₁ : s.FlightKept s₁ := h.update
  exact h₁.ite h₁.loseFrames

theorem loadConfig {power : Bool} (h : s.FlightKept t) : s.FlightKept (t.loadConfig power) := by
  obtain ⟨u, fm, hu, e⟩ := (LoadKept.refl t).loadConfig power
  rw [e]
  exact (h.of_loadKept hu).takeModes

theorem bootLoad {power : Bool} (h : s.FlightKept t) : s.FlightKept (t.bootLoad power b).1 := by
  unfold State.bootLoad
  split
  · exact h.bootFail.setFld
  · extract_lets _ _ _ s₁ s₂
    have h₂ : s.FlightKept s₂ := h.setFld.setFld
    split
    · exact h₂.bootFail.setFld
    · exact (bootStep (h₂.of_loadKept (LoadKept.refl s₂).runCopy)).loadConfig.bootStep

theorem checkDies (h : s.FlightKept t) : s.FlightKept (t.checkDies b).1 := by
  unfold State.checkDies
  extract_lets _ s₁ s₂ _ s₃ _ _ s₄ _ _ s₅
  have h₂ : s.FlightKept s₂ := setReg (h.foldl fun _ _ hu => hu.setReg)
  exact h₂.setReg.setFld.setFld.setFld.setFld.setFld

theorem negotiate (h : s.FlightKept t) : s.FlightKept (t.negotiate b) := by
  unfold State.negotiate
  extract_lets _ _ bad _ _ s₁ s₂ s₃ s₄
  have h₂ : s.FlightKept s₂ := setFld (h.foldl fun _ _ hu => hu.setReg)
  have h₃ : s.FlightKept s₃ := h₂.ite h₂.setFld
  exact h₃.setFld.setFld.setFld.setFld

theorem showDics (h : s.FlightKept t) : s.FlightKept t.showDics := h.foldl fun _ _ hu => hu.ite hu.setFld

theorem bootDomains (h : s.FlightKept t) : s.FlightKept t.bootDomains := h.foldl fun _ _ hu => hu.setDomain

theorem trainHbm {was : List Bool} (h : s.FlightKept t) : s.FlightKept (t.trainHbm false b was).1 := by
  unfold State.trainHbm
  extract_lets target rate up low oldMode
  split
  rename_i e
  extract_lets s₁ s₂ s₃ s₄ s₅ s₆ s₇ s₈
  have h₁ : s.FlightKept s₁ := by
    refine foldl (Keeps.of_snd h.fresh e) fun u k hu => ?_
    dsimp only
    split
    · exact hu.setFld.setReg.setFld
    · exact hu.setFld.setReg.setFld.setFld.setFld.setFld.setFld.setFld.setFld
  clear_value s₁
  have h₂ : s.FlightKept s₂ := h₁.update
  have h₅ : s.FlightKept s₅ := h₂.setFld.setFld.setFld.setFld.setFld
  have h₇ : s.FlightKept s₇ := (h₅.logFault.ite h₅).loseFrames
  rw [show s₈ = _ from if_neg Bool.false_ne_true]
  exact h₇.foldl fun _ _ hu => hu.swLose

theorem bootstrap {power : Bool} (h : s.FlightKept t) : s.FlightKept (t.bootstrap power).1 := by
  unfold State.bootstrap
  dsimp only
  exact writePhys (writePhys (loadC (update h) fun _ hv => hv.setFld))

theorem commitSvn (h : s.FlightKept t) : s.FlightKept t.commitSvn := by
  unfold State.commitSvn
  extract_lets svn _ s₁ _ s₂ s₃
  have h₁ : s.FlightKept s₁ := h.update
  have h₂ : s.FlightKept s₂ := h₁.update
  clear_value s₂
  exact ite (h₂.setFld.setFld.setFld.setFld.ite h₁.setFld) h

theorem updateShed (h : s.FlightKept t) : s.FlightKept t.updateShed := by
  unfold State.updateShed
  extract_lets _ _ s₁ s₂
  have h₂ : s.FlightKept s₂ := h.setFld.setFld
  exact h₂.modPwr.bump.ite (h₂.modPwr.ite h₂)

theorem updateBelow (h : s.FlightKept t) : s.FlightKept t.updateBelow := h.setFld

theorem paceDies (h : s.FlightKept t) : s.FlightKept t.paceDies := h.foldl fun _ _ hu => (hu.ite hu.bump).setFld.setFld.setFld

theorem bootRest {was : List Bool} (h : s.FlightKept t) : s.FlightKept (t.bootRest false b was) := by
  unfold State.bootRest
  extract_lets s₁ _ s₂ s₃ s₄
  have h₁ : s.FlightKept s₁ := h.setFld
  refine ite h₁.bootFail ?_
  have h₂ : s.FlightKept s₂ := h₁.update
  have h₄ : s.FlightKept s₄ := (ite h₂.emit h₂).setReg
  clear_value s₄
  split <;> rename_i e₁ <;> have h₅ := h₄.checkDies.of_fst e₁
  · exact h₅.bootFail
  · extract_lets s₆ s₇
    have h₆ : s.FlightKept s₆ := h₅.bootStep.negotiate.showDics.bootDomains.bootStep
    have h₇ : s.FlightKept s₇ := by
      rw [show s₇ = s₆ from if_neg Bool.false_ne_true]
      exact h₆
    clear_value s₇
    split <;> rename_i e₂ <;> have h₈ := h₇.trainHbm.of_fst e₂
    · exact h₈.bootFail
    · extract_lets s₉ s₁₀
      have h₁₀ : s.FlightKept s₁₀ := h₈.bootStep.emit.bootStep
      clear_value s₁₀
      split <;> rename_i e₃ <;> have h₁₁ := h₁₀.bootstrap.of_fst e₃
      · exact h₁₁.bootFail
      · extract_lets _ s₁₂ s₁₃ s₁₄
        have h₁₂ : s.FlightKept s₁₂ := h₁₁.update
        clear_value s₁₂
        have h₁₃ : s.FlightKept s₁₃ := h₁₂.commitSvn.updateShed.updateBelow.paceDies
        exact foldl (ite h₁₃.postMgr h₁₃) fun _ _ hu => hu.postMgr.ite hu

end State.FlightKept

/-! ### Reset step 4 (R428) -/

/-- Phases 1 to 3 leave no work. -/
theorem State.packageDown_idle (s : State) : s.packageDown.cmds = [] ∧ s.packageDown.rsqs = [] ∧ s.packageDown.panels = [] ∧
    s.packageDown.resetJob = none := by
  unfold State.packageDown
  extract_lets u mem shedN _ _ v
  obtain ⟨rs, p, e⟩ := v.keepShed_eq shedN
  rw [e]
  exact ⟨rfl, rfl, rfl, rfl⟩

/-- The package boots again from its flash. -/
def State.reboot (s : State) (b : BootInputs) (was : List Bool) : State :=
  match s.bootLoad false b with
  | (s, false) => s
  | (s, true) => s.bootRest false b was

theorem State.FlightKept.reboot (s : State) (b : BootInputs) (was : List Bool) : s.FlightKept (s.reboot b was) := by
  unfold State.reboot
  split <;> rename_i e <;> have h := (refl s).bootLoad.of_fst e
  · exact h
  · exact h.bootRest

/-- `HUB_RESET_STATUS` after step 4, with its time, its count and its entry of the fault log. -/
def State.step4Shown (s : State) : State :=
  ((((s.lastReset ⟨4, 0, 0⟩ 0).setFld .HUB_RESET_STATUS_BUSY 0 0).setReg .HUB_RESET_TIME 0
    ((s.lastReset ⟨4, 0, 0⟩ 0).setFld .HUB_RESET_STATUS_BUSY 0 0).now).bump unitFaults 3 1 none).logFault 0x08 4 0 0xFFFF none 0 0

theorem State.packageReset_eq (s : State) (b : BootInputs) : ∃ (u : State) (was : List Bool) (n : Nat),
    s.packageReset b = ((u.packageDown.reboot b was).setFld .HUB_RESET_STATUS_STEP4_COUNT 0 n).step4Shown := ⟨_, _, _, rfl⟩

theorem State.FlightKept.step4Shown (s : State) : s.FlightKept s.step4Shown :=
  (((refl s).update (u := (s.lastReset ⟨4, 0, 0⟩ 0).setFld .HUB_RESET_STATUS_BUSY 0 0)).setReg.bump).logFault

theorem State.packageReset_idle (s : State) (b : BootInputs) : (s.packageReset b).cmds = [] ∧ (s.packageReset b).rsqs = [] ∧
    (s.packageReset b).panels = [] ∧ (s.packageReset b).resetJob = none := by
  obtain ⟨u, was, n, e⟩ := s.packageReset_eq b
  have hreboot := (State.FlightKept.reboot u.packageDown b was).setFld (f := .HUB_RESET_STATUS_STEP4_COUNT) (i := 0) (v := n)
  obtain ⟨hcmds, hrsqs, hpanels, hjob⟩ := (hreboot.trans (State.FlightKept.step4Shown _)).fields
  obtain ⟨hcmds₀, hrsqs₀, hpanels₀, hjob₀⟩ := u.packageDown_idle
  rw [e]
  exact ⟨hcmds.trans hcmds₀, hrsqs.trans hrsqs₀, hpanels.trans hpanels₀, hjob.trans hjob₀⟩

theorem State.FldKept.counted {f : Fld} {v i n : Nat} {a : Option Attr} (hk : s.FldKept f t) (hf : f.reg ∉ issueRegs) (hv : v < 1024)
    (hi : i < 16) : s.FldKept f (t.bump v i n a) :=
  hk.trans fun m hm => State.fld_of_reg ((State.RegsKept.refl t).bump hv hi f.reg m hm hf)

/-- What follows the writing of `HUB_RESET_STATUS` leaves its fields. -/
theorem State.step4Shown_kept (s : State) {f : Fld} (hf : f.reg = .HUB_RESET_STATUS) (hbusy : f.apart .HUB_RESET_STATUS_BUSY = true) :
    (s.lastReset ⟨4, 0, 0⟩ 0).FldKept f s.step4Shown := by
  have htime : f.reg ≠ .HUB_RESET_TIME := by rw [hf]; decide
  have hlog : f.apart .HUB_FLT_STATUS_OVERRUN = true := Fld.apart_of_reg_ne (by rw [hf]; decide)
  have hissue : f.reg ∉ issueRegs := by rw [hf]; decide
  have hwake : f.unwoken = true := by
    have hdom : f.reg ≠ .PWR_DOMAIN_ON := by rw [hf]; decide
    have hself : f.apart .HBM_STK_STATUS_SELF_REFRESH = true := Fld.apart_of_reg_ne (by rw [hf]; decide)
    simp [Fld.unwoken, hdom, hself]
  refine State.FldKept.logFault (State.FldKept.counted (State.FldKept.setReg ?_ htime (by decide)) hissue (by decide) (by decide)) hwake hlog
    _ _ _ _ _ _ _
  exact (State.FldKept.refl f _).setFld hbusy (by decide)

theorem State.step4Shown_last (s : State) :
    s.step4Shown.fld .HUB_RESET_STATUS_LAST_STEP 0 = 4 ∧ s.step4Shown.fld .HUB_RESET_STATUS_LAST_RESULT 0 = 0 := by
  constructor
  · have hkept := s.step4Shown_kept (f := .HUB_RESET_STATUS_LAST_STEP) rfl (by decide) 0 (by decide)
    rw [hkept, State.lastReset]
    rw [State.fld_setFld_apart _ _ _ (by decide), State.fld_setFld_apart _ _ _ (by decide), State.fld_setFld_apart _ _ _ (by decide),
      State.fld_setFld_same _ _ _ _ (by decide) (by decide)]
    rfl
  · have hkept := s.step4Shown_kept (f := .HUB_RESET_STATUS_LAST_RESULT) rfl (by decide) 0 (by decide)
    rw [hkept, State.lastReset, State.fld_setFld_same _ _ _ _ (by decide) (by decide)]
    rfl

theorem State.packageReset_last (s : State) (b : BootInputs) : (s.packageReset b).fld .HUB_RESET_STATUS_LAST_STEP 0 = 4 ∧
    (s.packageReset b).fld .HUB_RESET_STATUS_LAST_RESULT 0 = 0 := by
  obtain ⟨u, was, n, e⟩ := s.packageReset_eq b
  rw [e]
  exact State.step4Shown_last _

theorem packageReset_of_ok {v : W64} {side : Bool} (hok : s.resetRegOk side v = true) (hstep : (stepOfReg v).step = 4) :
    packageReset (if side then .sideband v else .reg v) b s = s.packageReset b := by
  cases side <;> simp [packageReset, hstep, hok]

theorem packageReset_of_activate {id : Nat} {c : Cmd} (hc : s.cmd id = some c) (hop : c.opcode = 0x0F06) (hstart : s.startable c = true)
    (hnow : bit (leAt c.raw 16 1) 0 = true) (hboot : s.boot = .ready) : packageReset (.cmd id) b s = (s.preferOther c.raw).packageReset b := by
  simp [packageReset, hc, hop, hstart, hnow, hboot]

/-! ### Function resets (R399) -/

theorem tget_map_of_some {α : Type} {g : Nat × α → Nat × α} (hg : ∀ e, (g e).1 = e.1) {l : Tab α} {n : Nat} {x : α}
    (h : tget (l.map g) n = some x) : ∃ y, tget l n = some y ∧ (g (n, y)).2 = x := by
  induction l with
  | nil => cases h
  | cons e l ih =>
    obtain ⟨k, y⟩ := e
    rw [List.map_cons, show g (k, y) = (k, (g (k, y)).2) from Prod.ext (hg _) rfl, tget] at h
    rw [tget]
    split at h
    · next hk =>
      subst hk
      exact ⟨y, if_pos rfl, Option.some.inj h⟩
    · next hk =>
      rw [if_neg hk]
      exact ih h

/-- The queues of a function as its reset leaves them. -/
def resetQueues (f : Nat) (e : Nat × Queue) : Nat × Queue := if e.2.func = f then (e.1, e.2.afterFlr) else e

def Func.afterFlr (g : Func) : Func := { g with m2tHead := 0, m2tTail := 0, t2mHead := 0, t2mTail := 0, apEn := false, apErr := 0 }

theorem State.flr_eq {f : Nat} {g : Func} (h : tget s.funcs f = some g) : ∃ u : State, s.CensusKept u ∧
    s.flr f = ({ u with queues := u.queues.map (resetQueues f) } : State).modFunc f Func.afterFlr := by
  rw [State.flr, h]
  exact ⟨_, (State.CensusKept.refl s).abandonFreeze.frogAll, rfl⟩

/-- A queue of the function is empty and forgets its history. -/
theorem queue_resetQueues {f q : Nat} {x : Queue} (h : tget (u.queues.map (resetQueues f)) q = some x) (hf : x.func = f) :
    x.head = 0 ∧ x.tail = 0 ∧ x.armed = false ∧ x.faulted = false ∧ x.dups = [] := by
  have hfst : ∀ e, (resetQueues f e).1 = e.1 := fun e => by
    unfold resetQueues
    split <;> rfl
  obtain ⟨y, -, hy⟩ := tget_map_of_some hfst h
  unfold resetQueues at hy
  split at hy
  · subst hy
    exact ⟨rfl, rfl, rfl, rfl, rfl⟩
  · next hne =>
    subst hy
    exact absurd hf hne

theorem State.funcs_flr {f : Nat} {g : Func} (h : tget s.funcs f = some g) :
    ∃ g', tget (s.flr f).funcs f = some g' ∧ g'.m2tTail = 0 ∧ g'.t2mTail = 0 ∧ g'.apEn = false := by
  obtain ⟨u, hu, e⟩ := State.flr_eq h
  have hhas : thas u.funcs f = true := by
    rw [hu.funcs, thas, h]
    rfl
  obtain ⟨g', hg'⟩ := Option.isSome_iff_exists.mp hhas
  rw [e]
  exact ⟨g'.afterFlr, (tget_tmod_same u.funcs f Func.afterFlr).trans (congrArg (Option.map Func.afterFlr) hg'), rfl, rfl, rfl⟩

theorem State.queue_flr {f q : Nat} {g : Func} {x : Queue} (h : tget s.funcs f = some g) (hx : (s.flr f).queue q = some x) (hf : x.func = f) :
    x.head = 0 ∧ x.tail = 0 ∧ x.armed = false ∧ x.faulted = false ∧ x.dups = [] := by
  obtain ⟨u, -, e⟩ := State.flr_eq h
  rw [e] at hx
  exact queue_resetQueues hx hf

/-- Settles O37: step 4 leaves nothing in flight and shows itself, and a function's reset empties its queues, mailbox and aperture. -/
theorem upperResetsComplete : Obligations.UpperResetsComplete := by
  refine ⟨fun s v b side hok hstep => ?step4, fun s id c b hc hop hstart hnow hboot => ?activate, fun s ns b => ⟨?perst, ?short⟩,
    fun _ => rfl, fun s port hport => ?deassert, fun s f g hg hready hf => ?flr⟩
  case step4 =>
    obtain ⟨hlast, hresult⟩ := s.packageReset_last b
    obtain ⟨hcmds, hrsqs, hpanels, hjob⟩ := s.packageReset_idle b
    exact ⟨_, next_congr (packageReset_of_ok hok hstep), rfl, hjob, hlast, hresult, hcmds, hrsqs, hpanels⟩
  case activate => exact next_congr (packageReset_of_activate hc hop hstart hnow hboot)
  case perst => exact fun hboot hns => next_congr (if_pos ⟨hboot, hns⟩)
  case short => exact fun h => next_congr (if_neg (by rintro ⟨hboot, hns⟩; exact h.elim (absurd hboot) (by omega)))
  case deassert =>
    have hle : ¬ 1 < port := by omega
    exact next_congr (if_neg hle)
  case flr =>
    refine ⟨s.flr f, ?_, ?_, fun q x hx => State.queue_flr hg hx, State.funcs_flr hg⟩
    · rintro rfl
      exact next_congr (if_pos (hready rfl))
    · exact fun hne => next_congr (if_pos ⟨by omega, hf⟩)

end Sys2Proof.Machine
end

section
/-! The power events of chapter 11: sheds, the control period, the backstop and droops. -/

namespace Sys2Proof.Machine

-- The lemmas below cite one another in long chains: each is elaborated when those it cites are done.
set_option Elab.async false

variable {s t u : State}

/-! ### What the work of the power controller leaves -/

/-- The ceiling, the energy counted and the sensors. -/
def State.meters (s : State) := (s.pwr.ceiling, s.pwr.energy, s.sensors)

def State.MetersKept (s t : State) : Prop := s.Keeps State.meters t

namespace State.MetersKept

theorem refl (s : State) : s.MetersKept s := Keeps.refl _ _

/-- An update of other parts of the state. -/
theorem update (h : s.MetersKept t) (e : u.meters = t.meters := by rfl) : s.MetersKept u := Keeps.trans e h

theorem ite {c : Prop} {_ : Decidable c} (ht : s.MetersKept t) (hu : s.MetersKept u) : s.MetersKept (if c then t else u) := Keeps.ite ht hu

theorem foldl {β : Type} {f : State → β → State} {l : List β} (h : s.MetersKept t) (hf : ∀ u b, s.MetersKept u → s.MetersKept (f u b)) :
    s.MetersKept (l.foldl f t) := Keeps.foldl h hf

/-- Records, events and counts touch no meter. -/
theorem recordOnly (h : s.MetersKept t) (hr : t.RecordOnly u) : s.MetersKept u :=
  Keeps.trans (congrArg (a₁ := u.offRecord) (a₂ := t.offRecord) State.meters hr) h

theorem ceiling (h : s.MetersKept t) : t.pwr.ceiling = s.pwr.ceiling := congrArg Prod.fst h

theorem energy (h : s.MetersKept t) : t.pwr.energy = s.pwr.energy := congrArg (fun x => x.2.1) h

theorem sensors (h : s.MetersKept t) : t.sensors = s.sensors := congrArg (fun x => x.2.2) h

variable {i v n k p g code info : Nat} {r : Reg} {f : Fld}

theorem setReg (h : s.MetersKept t) : s.MetersKept (t.setReg r i v) := h.update
theorem setFld (h : s.MetersKept t) : s.MetersKept (t.setFld f i v) := h.update
theorem bump {a : Option Attr} (h : s.MetersKept t) : s.MetersKept (t.bump v i n a) := h.recordOnly ((RecordOnly.refl t).bump v i n a)
theorem postEvent (h : s.MetersKept t) : s.MetersKept (t.postEvent v code info) := h.recordOnly ((RecordOnly.refl t).postEvent v code info)
theorem postPanel (h : s.MetersKept t) : s.MetersKept (t.postPanel p code info) := h.foldl fun _ _ hu => hu.postEvent

/-- A change of what the power controller keeps besides its ceiling and its energy. -/
theorem modPwr {g : Pwr → Pwr} (h : s.MetersKept t) (hc : ∀ p, (g p).ceiling = p.ceiling := by exact fun _ => rfl)
    (he : ∀ p, (g p).energy = p.energy := by exact fun _ => rfl) : s.MetersKept (t.modPwr g) := by
  have hpwr : (t.modPwr g).pwr = g t.pwr := rfl
  unfold MetersKept Keeps State.meters
  rw [hpwr, hc, he]
  exact h

theorem droopCaps (h : s.MetersKept t) : s.MetersKept t.droopCaps := by
  unfold State.droopCaps
  extract_lets s₁
  have h₁ : s.MetersKept s₁ := h.foldl fun _ _ hu => hu.modPwr.ite (hu.modPwr.ite hu)
  exact h₁.modPwr

theorem applyCut (h : s.MetersKept t) : s.MetersKept (t.applyCut n) := by
  unfold State.applyCut
  extract_lets sum prev x cutOf lc s₁ s₂
  have h₁ : s.MetersKept s₁ := h.foldl fun _ _ hu => hu.postPanel.ite hu
  have h₂ : s.MetersKept s₂ := h₁.foldl fun _ _ hu => hu.setFld
  exact h₂.setFld.modPwr

theorem grantGauge {slew : Bool} (h : s.MetersKept t) : s.MetersKept (t.grantGauge slew p g) := by
  unfold State.grantGauge
  extract_lets low s₁ s₂
  have h₁ : s.MetersKept s₁ := h.postPanel.setFld.ite h
  exact (h₁.bump.ite h₁).setFld.setFld

theorem paceDies (h : s.MetersKept t) : s.MetersKept t.paceDies := h.foldl fun _ _ hu => (hu.ite hu.bump).setFld.setFld.setFld

theorem fresh (h : s.MetersKept t) : s.MetersKept t.fresh.2 := h.update

theorem fillStep (h : s.MetersKept t) : s.MetersKept (t.fillStep n v) := by
  unfold State.fillStep
  extract_lets
  split
  rename_i e
  have h₁ := Keeps.of_snd h.fresh e
  extract_lets s₂
  have h₂ : s.MetersKept s₂ := ite h₁ (bump h₁)
  exact h₂.modPwr.setFld

theorem endPowerCmds (h : s.MetersKept t) : s.MetersKept t.endPowerCmds := h.foldl fun _ _ hu => hu.update

end State.MetersKept

/-! ### The control period (R358) -/

/-- What a control period does once it has set its ceiling leaves the ceiling. -/
theorem controlPeriod_ceiling (fast : Nat) (load : List Nat) (hrun : s.pwcRuns = true) : (controlPeriod fast load s).pwr.ceiling =
    (nextCeiling (1000 * s.limitW) s.pwr.ceiling (s.fld .PWR_LIMITS_SLEW 0) fast).1 := by
  rw [controlPeriod, if_neg (by simp [hrun])]
  extract_lets old
  split
  rename_i c slew e
  extract_lets s₁ s₂ s₃ s₄
  have h₁ : s₁.pwr.ceiling = c := rfl
  clear_value s₁
  have h₂ : s₁.MetersKept s₂ := (State.MetersKept.refl s₁).setFld.setFld
  have h₃ : s₁.MetersKept s₃ := h₂.bump.ite h₂
  have h₄ : s₁.MetersKept s₄ := State.MetersKept.droopCaps (t := s₃.updateBelow) h₃.setFld
  split
  extract_lets _ cuts s₅ s₆ _ _ s₇ _ _ grants s₈ s₉ s₁₀
  have h₅ : s₁.MetersKept s₅ := h₄.applyCut
  have h₇ : s₁.MetersKept s₇ := (h₅.ite h₅.bump).setFld
  have h₈ : s₁.MetersKept s₈ := h₇.foldl fun _ _ hu => hu.grantGauge
  have h₉ : s₁.MetersKept s₉ := h₈.paceDies
  have h₁₀ : s₁.MetersKept s₁₀ := h₉.modPwr
  rw [show nextCeiling (1000 * s.limitW) s.pwr.ceiling (s.fld .PWR_LIMITS_SLEW 0) fast = (c, slew) from e]
  exact h₁₀.fillStep.endPowerCmds.ceiling.trans h₁

/-! ### The backstop (R367) -/

/-- Every die is given the lowest gauge. -/
def State.slowest (s : State) (n : Nat) : State := (s.setFld .PWR_DIE_GAUGE n 800).setFld .PWR_DIE_VOLT_MV n (s.dieVolt n 800)

theorem State.gauge_slowest_same (s : State) (n : Nat) : (s.slowest n).fld .PWR_DIE_GAUGE n = 800 := by
  rw [State.slowest, State.fld_setFld_apart _ _ _ (by decide), State.fld_setFld_same _ _ _ _ (by decide) (by decide)]
  rfl

theorem State.gauge_slowest_ne (s : State) {k n : Nat} (hne : n ≠ k) (hn : n < 65536) (hk : k < 65536) :
    (s.slowest k).fld .PWR_DIE_GAUGE n = s.fld .PWR_DIE_GAUGE n :=
  (State.fld_setFld_other _ (.inl (by decide)) hn hk).trans (s.fld_setFld_other (.inr hne) hn hk)

/-- A die that is given the lowest gauge, or has it, has it in the end. -/
theorem State.gauge_foldl_slowest {n : Nat} (hn : n < 65536) (l : List Nat) (hl : ∀ k ∈ l, k < 65536) (s : State)
    (h : n ∈ l ∨ s.fld .PWR_DIE_GAUGE n = 800) : (l.foldl State.slowest s).fld .PWR_DIE_GAUGE n = 800 := by
  induction l generalizing s with
  | nil => exact h.resolve_left List.not_mem_nil
  | cons k l ih =>
    obtain ⟨hk, hrest⟩ := List.forall_mem_cons.mp hl
    refine ih hrest _ ?_
    by_cases hne : n = k
    · subst hne
      exact .inr (s.gauge_slowest_same n)
    · exact (h.imp_left fun hm => (List.mem_cons.mp hm).resolve_left hne).imp_right fun hg => (s.gauge_slowest_ne hne hn hk).trans hg

/-- The backstop stops the fillers. -/
def State.fillersOff (s : State) : State := (s.modPwr fun p => { p with fillers := [] }).setFld .PWR_STATUS_FILL_ACTIVE 0 0

theorem State.regs_modPwr (s : State) (g : Pwr → Pwr) : (s.modPwr g).regs = s.regs := rfl

theorem powerBackstop_eq {since : W64} (hshed : s.pwr.shedAt = some since) (hmoved : s.pwr.moved = false)
    (hlong : 1500000 ≤ (s.time - since).toNat) (hfirst : s.fld .PWR_STATUS_BACKSTOP 0 ≠ 1) :
    ∃ u : State, powerBackstop s = ((List.range 12).foldl State.slowest u).fillersOff := by
  unfold powerBackstop
  rw [hshed]
  have hacts : ¬ (s.pwr.moved = true ∨ (s.time - since).toNat < 1500000 ∨ s.fld .PWR_STATUS_BACKSTOP 0 = 1) := by
    simp only [hmoved, hfirst, Nat.not_lt.mpr hlong, Bool.false_eq_true, or_self, not_false_iff]
  exact ⟨_, if_neg hacts⟩

theorem State.gauge_backstop (s : State) {n : Nat} (hn : n < 12) :
    (((List.range 12).foldl State.slowest s).fillersOff).fld .PWR_DIE_GAUGE n = 800 := by
  have hall : ∀ k ∈ List.range 12, k < 65536 := fun k hk => (List.mem_range.mp hk).trans (by decide)
  have hdies := State.gauge_foldl_slowest (n := n) (by omega) (List.range 12) hall s (.inl (List.mem_range.mpr hn))
  generalize (List.range 12).foldl State.slowest s = u at hdies
  rw [State.fillersOff, State.fld_setFld_other _ (.inl (by decide)) (by omega) (by decide), State.fld_congr (u.regs_modPwr _), hdies]

/-! ### Droops (R377) -/

theorem droopResponse_of_present {n : Nat} (late : Nat) (h : s.diePresent n = true) : n ∈ (droopResponse n late s).pwr.drooped ∧
    tgetD (droopResponse n late s).pwr.late n 0 = tgetD s.pwr.late n 0 + late := by
  rw [droopResponse, if_pos h]
  extract_lets s₁ s₂
  have hcount : s.RecordOnly s₂ := ((((State.RecordOnly.refl s).incFld _ _ _).incFld _ _ _).bump _ _ _ _).bump _ _ _ _
  have hpwr : s₂.pwr = s.pwr := congrArg (a₁ := s₂.offRecord) (a₂ := s.offRecord) State.pwr hcount
  clear_value s₂
  refine ⟨List.mem_eraseDups.mpr List.mem_cons_self, ?_⟩
  rw [← hpwr]
  exact tgetD_tput_same _ _ _ _

/-- Settles O14: each power event does what its section says, and the rest of a control period leaves the ceiling it set. -/
theorem powerEvents : Obligations.PowerEvents := by
  refine ⟨fun s ns hns => ⟨next_congr (if_pos hns), next_congr (if_pos hns)⟩, fun s ns hns => next_congr (if_neg (by omega)),
    fun s ns hns hshed => next_congr ((if_neg (by omega)).trans (if_pos hshed)),
    fun s fast load hrun => ⟨_, rfl, controlPeriod_ceiling fast load hrun⟩, fun s since hshed hmoved hlong hfirst => ?backstop,
    fun s n late hn => ⟨_, rfl, droopResponse_of_present late hn⟩, fun s n => ⟨_, rfl, rfl, ?recovered⟩⟩
  case backstop =>
    obtain ⟨u, hu⟩ := powerBackstop_eq hshed hmoved hlong hfirst
    exact ⟨_, next_congr hu, rfl, State.fld_setFld_same _ .PWR_STATUS_FILL_ACTIVE 0 0 (by decide) (by decide),
      fun n hn => u.gauge_backstop hn⟩
  case recovered =>
    intro hmem
    have hkept := (List.mem_filter.mp hmem).2
    simp at hkept

end Sys2Proof.Machine
end

section
/-! Measurement windows (R355) and the readings of sensors (R120, R381, R481). -/

namespace Sys2Proof.Machine

-- The lemmas below cite one another in long chains: each is elaborated when those it cites are done.
set_option Elab.async false

variable {s t u : State} {f : Fld} {k : Nat} {v lo hi : Int} {rate : Option Int}

/-! ### Readings (R481) -/

theorem State.showFailed_kept (s : State) : s.showFailed.pwr = s.pwr ∧ s.showFailed.sensors = s.sensors := by
  unfold State.showFailed
  extract_lets m
  obtain ⟨rs, o, a, e⟩ := (s.setFld .SRV_SENSOR_FAIL_FAILED 0 m).setAlert_eq .SRV_ALERT_SENSOR_FAIL (decide (m ≠ 0))
  rw [e]
  exact ⟨rfl, rfl⟩

/-- A reading changes no account of power. -/
theorem State.pwr_takeReading (s : State) (k : Nat) (v lo hi : Int) (rate : Option Int) : (s.takeReading k v lo hi rate).1.pwr = s.pwr := by
  unfold State.takeReading
  extract_lets x jump y z
  split
  · exact (State.showFailed_kept _).1
  · exact (State.showFailed_kept _).1

/-- The sensor whose reading is taken. -/
def Sensor.took (x : Sensor) (v : Int) : Sensor :=
  { last := some v, discards := 0, taken := x.taken + 1, failed := x.failed && decide (x.taken + 1 < 10) }

/-- A reading within its limits that is near the last one is taken. -/
theorem State.takeReading_took (hlo : lo ≤ v) (hhi : v ≤ hi)
    (hnear : ∀ o r, (tgetD s.sensors k Sensor.new).last = some o → rate = some r → -r ≤ v - o ∧ v - o ≤ r) :
    s.takeReading k v lo hi rate =
      (({ s with sensors := tput s.sensors k ((tgetD s.sensors k Sensor.new).took v) } : State).showFailed, true) := by
  unfold State.takeReading
  extract_lets x jump y z
  have hjump : jump = false := by
    unfold jump
    split
    · next _ _ o r ho =>
      obtain ⟨hl, hh⟩ := hnear o r ho rfl
      simp only [decide_eq_false_iff_not, not_or, not_lt]
      exact ⟨hh, hl⟩
    · rfl
  exact if_neg (by simp [hjump, hlo, hhi])

theorem State.sensor_takeReading (hlo : lo ≤ v) (hhi : v ≤ hi)
    (hnear : ∀ o r, (tgetD s.sensors k Sensor.new).last = some o → rate = some r → -r ≤ v - o ∧ v - o ≤ r) :
    tgetD (s.takeReading k v lo hi rate).1.sensors k Sensor.new = (tgetD s.sensors k Sensor.new).took v := by
  rw [State.takeReading_took hlo hhi hnear, (State.showFailed_kept _).2]
  exact tgetD_tput_same _ _ _ _

/-! ### What the thermal actions leave (R382) -/

namespace State.MetersKept

variable {n low step : Nat}

theorem setAlert {on : Bool} (h : s.MetersKept t) : s.MetersKept (t.setAlert f on) := by
  obtain ⟨rs, o, a, e⟩ := t.setAlert_eq f on
  rw [e]
  exact h.update

theorem logFault {cls detail status owner tag addr : Nat} {ctx : Option Nat} (h : s.MetersKept t) :
    s.MetersKept (t.logFault cls detail status owner ctx tag addr) := by
  have hadd : s.MetersKept (t.addFault cls detail status owner ctx tag addr) := by
    unfold State.addFault
    dsimp only
    split
    · exact h.update
    · exact h.update
  exact (hadd.recordOnly ((RecordOnly.refl _).postMgr _ _)).ite hadd

theorem capStep {temp : Int} (h : s.MetersKept t) : s.MetersKept (t.capStep k n low step temp) :=
  h.modPwr.ite (h.modPwr.ite (h.modPwr.ite (h.modPwr.ite h)))

theorem thermalUnit {temp : Int} {tenth : Bool} (h : s.MetersKept t) : s.MetersKept (t.thermalUnit n temp tenth) :=
  h.capStep.setFld.ite (ite (capStep (h.foldl fun _ _ hu => hu.capStep)) h.capStep)

theorem thermalStatus (h : s.MetersKept t) : s.MetersKept t.thermalStatus := by
  unfold State.thermalStatus
  extract_lets temps hot s₁ warm hbms was s₂
  have h₁ : s.MetersKept s₁ := by
    unfold s₁
    generalize hot = x
    split
    · exact h
    · exact h.setFld.setFld
  have h₂ : s.MetersKept s₂ := h₁.setFld.setAlert
  exact h₂.logFault.ite h₂

theorem attribute_ (h : s.MetersKept t) : s.MetersKept (t.attribute_ n) := by
  unfold State.attribute_
  extract_lets
  split
  rename_i e
  exact modPwr (Keeps.of_snd h.fresh e)

theorem capWindow (h : s.MetersKept t) : s.MetersKept (t.capWindow n) := by
  unfold State.capWindow
  extract_lets l avg above s₁ s₂
  have h₁ : s.MetersKept s₁ := h.modPwr
  exact h₁.setFld.setAlert.logFault.ite (h₁.setFld.setAlert.ite (h₁.setFld.ite h₁))

end State.MetersKept

namespace State.FldKept

variable {n : Nat}

theorem ite {c : Prop} {_ : Decidable c} (ht : s.FldKept f t) (hu : s.FldKept f u) : s.FldKept f (if c then t else u) := by
  split
  · exact ht
  · exact hu

theorem modPwr {g : Pwr → Pwr} (hk : s.FldKept f t) : s.FldKept f (t.modPwr g) := hk.of_regs (t.regs_modPwr g)

theorem attribute_ (hk : s.FldKept f t) : s.FldKept f (t.attribute_ n) := by
  unfold State.attribute_
  extract_lets
  split
  rename_i e
  have hregs := congrArg (fun x : Nat × State => x.2.regs) e
  exact modPwr (hk.of_regs hregs.symm)

/-- The cap's status and its alert are the power controller's own registers. -/
theorem capWindow (hk : s.FldKept f t) (hw : f.unwoken = true) (ho : f.apart .HUB_FLT_STATUS_OVERRUN = true) (hs : f.reg ≠ .PWR_STATUS)
    (ha : f.reg ≠ .SRV_ALERT) : s.FldKept f (t.capWindow n) := by
  unfold State.capWindow
  extract_lets l avg above s₁ s₂
  have h₁ : s.FldKept f s₁ := hk.modPwr
  have hset (x : Nat) : s.FldKept f (s₁.setFld .PWR_STATUS_CAP_NOT_MET 0 x) := h₁.setFld (Fld.apart_of_reg_ne hs) (by decide)
  split
  · exact ((hset 1).setAlert ha rfl true).logFault hw ho _ _ _ _ _ _ _
  · split
    · exact (hset 0).setAlert ha rfl false
    · split
      · exact hset 1
      · exact h₁

theorem thermalStatus (hk : s.FldKept f t) (hw : f.unwoken = true) (ho : f.apart .HUB_FLT_STATUS_OVERRUN = true) (hs : f.reg ≠ .PWR_STATUS)
    (ht : f.reg ≠ .PWR_THERMAL) (ha : f.reg ≠ .SRV_ALERT) :
    s.FldKept f t.thermalStatus := by
  unfold State.thermalStatus
  extract_lets temps hot s₁ warm hbms was s₂
  have h₁ : s.FldKept f s₁ := by
    unfold s₁
    generalize hot = x
    split
    · exact hk
    · exact (hk.setFld (Fld.apart_of_reg_ne ht) (by decide)).setFld (Fld.apart_of_reg_ne ht) (by decide)
  have h₂ : s.FldKept f s₂ := setAlert (h₁.setFld (Fld.apart_of_reg_ne hs) (by decide)) ha rfl _
  split
  · exact h₂.logFault hw ho _ _ _ _ _ _ _
  · exact h₂

end State.FldKept

/-! ### A measurement window (R355) -/

/-- What follows the measurement of a window: the energy, its attribution, and the cap. -/
theorem measureWindow_shown {nJ vin iin base : Nat} (hrun : s.pwcRuns = true) :
    (measureWindow nJ vin iin base s).pwr.energy = s.pwr.energy + s.calEnergy nJ vin ∧
      (measureWindow nJ vin iin base s).fld .PWR_MEAS_POWER_W 0 = sat 16 (s.calEnergy nJ vin / 1000000) := by
  rw [measureWindow, if_neg (by simp [hrun])]
  extract_lets nJ' vin' iin'
  split
  rename_i s₁ vOk e₁
  split
  rename_i s₂ iOk e₂
  have hpwr : s₂.pwr = s.pwr := by
    have h₁ := s.pwr_takeReading 41 vin' 0 7000 none
    have h₂ := s₁.pwr_takeReading 42 iin' 0 1500 none
    rw [e₁] at h₁
    rw [e₂] at h₂
    exact h₂.trans h₁
  extract_lets s₃ s₄ s₅ e s₆ s₇
  have hshown : s₃.fld .PWR_MEAS_POWER_W 0 = sat 16 (nJ' / 1000000) :=
    (State.fld_setFld_same s₂ .PWR_MEAS_POWER_W 0 _ (by decide) (by decide)).trans (Nat.mod_eq_of_lt (sat_lt 16 _))
  have hk₃ := State.FldKept.refl .PWR_MEAS_POWER_W s₃
  have hm₃ : s₂.MetersKept s₃ := (State.MetersKept.refl s₂).setFld
  have hk₄ : s₃.FldKept .PWR_MEAS_POWER_W s₄ := (hk₃.setFld (by decide) (by decide)).ite hk₃
  have hm₄ : s₂.MetersKept s₄ := hm₃.setFld.ite hm₃
  have hk₅ : s₃.FldKept .PWR_MEAS_POWER_W s₅ := (hk₄.setFld (by decide) (by decide)).ite hk₄
  have hm₅ : s₂.MetersKept s₅ := hm₄.setFld.ite hm₄
  have he : e = s.pwr.energy + nJ' := by rw [show e = s₅.pwr.energy + nJ' from rfl, hm₅.energy, hpwr]
  have he₆ : s₆.pwr.energy = e := rfl
  have hk₇ : s₃.FldKept .PWR_MEAS_POWER_W s₇ := (hk₅.modPwr.setReg (by decide) (by decide)).setFld (by decide) (by decide)
  have hm₇ : s₆.MetersKept s₇ := (State.MetersKept.refl s₆).setFld
  clear_value s₇ s₆ s₅ s₄ s₃
  split
  rename_i c s₈ e₃
  have hk₈ : s₃.FldKept .PWR_MEAS_POWER_W s₈ := hk₇.of_regs (congrArg (fun x : Nat × State => x.2.regs) e₃).symm
  have hm₈ : s₆.MetersKept s₈ := State.Keeps.of_snd hm₇.fresh e₃
  extract_lets s₉ s₁₀ s₁₁
  have hk₁₀ : s₃.FldKept .PWR_MEAS_POWER_W s₁₀ := (hk₈.setFld (by decide) (by decide)).setFld (by decide) (by decide)
  have hm₁₀ : s₆.MetersKept s₁₀ := hm₈.setFld.setFld
  clear_value s₁₀
  have hk₁₁ : s₃.FldKept .PWR_MEAS_POWER_W s₁₁ := hk₁₀.of_regs
  have hm₁₁ : s₆.MetersKept s₁₁ := hm₁₀.update
  clear_value s₁₁
  constructor
  · have henergy : s₆.MetersKept ((s₁₁.attribute_ nJ').capWindow (nJ' / 1000)).updateBelow := hm₁₁.attribute_.capWindow.setFld
    rw [henergy.energy, he₆, he]
  · have hpower := (hk₁₁.attribute_ (n := nJ')).capWindow (n := nJ' / 1000) (by decide) (by decide) (by decide) (by decide)
    exact (hpower.setFld (by decide) (by decide) 0 (by decide)).trans hshown

/-! ### Temperatures (R120, R381) -/

/-- A unit's sensor stands at the reading that is taken. -/
theorem sensorRead_took {n i : Nat} (hn : n < 25) (hidx : i < unitSensors n) (hlo : -40 ≤ v) (hhi : v ≤ 150) (hcal : s.calByte (192 + n) = 0)
    (hnear : ∀ o, (tgetD s.sensors (tempKey n i) Sensor.new).last = some o → -40 ≤ 4 * v - o ∧ 4 * v - o ≤ 40) :
    (tgetD (sensorRead [⟨n, i, v⟩] s).sensors (tempKey n i) Sensor.new).last = some (4 * v) := by
  unfold sensorRead
  rw [List.foldl_cons, List.foldl_nil, if_pos ⟨hn, hidx⟩]
  have hofs : s.tempOfs n = 0 := by
    rw [State.tempOfs, hcal]
    decide
  have htook := State.sensor_takeReading (s := s) (k := tempKey n i) (v := 4 * v) (lo := -160) (hi := 600) (rate := some 40) (by omega)
    (by omega) (by rintro o r ho ⟨⟩; exact hnear o ho)
  rw [hofs, Int.add_zero]
  extract_lets s₁ tenth s₂
  have h₂ : s₁.MetersKept s₂ := by
    refine (State.MetersKept.refl s₁).foldl fun w m hw => ?_
    split
    · exact hw.thermalUnit
    · exact hw
  rw [h₂.thermalStatus.sensors, htook]
  rfl

/-- A stack's status shows the reading that is taken. -/
theorem hbmTempRead_shown {h : Nat} (hh : h < 16) (hlo : 0 ≤ v) (hhi : v ≤ 150) (hcal : s.calByte (217 + h) = 0)
    (hnear : ∀ o, (tgetD s.sensors (25 + h) Sensor.new).last = some o → -40 ≤ 4 * v - o ∧ 4 * v - o ≤ 40)
    (hgood : (tgetD s.sensors (25 + h) Sensor.new).failed = false) : (hbmTempRead h v s).fld .HBM_STK_STATUS_TEMP h = v.toNat := by
  have hn : h < 65536 := by omega
  have htook := State.sensor_takeReading (s := s) (k := 25 + h) (v := 4 * v) (lo := -160) (hi := 600) (rate := some 40) (by omega)
    (by omega) (by rintro o r ho ⟨⟩; exact hnear o ho)
  rw [hbmTempRead, if_pos hh]
  extract_lets ofs
  have hofs : ofs = 0 := by
    rw [show ofs = max (-12) (min 12 (s.calByte (217 + h))) from rfl, hcal]
    decide
  rw [hofs, Int.add_zero]
  split
  rename_i s₁ taken e
  rw [e] at htook
  extract_lets x t s₂ share s₃ hot
  have ht : t = 4 * v := by
    rw [show t = if x.failed then 4 * 95 else x.last.getD 0 from rfl, show x = (tgetD s.sensors (25 + h) Sensor.new).took (4 * v) from htook]
    simp [Sensor.took, hgood]
  have htemp : s₂.fld .HBM_STK_STATUS_TEMP h = v.toNat := by
    have hset : s₂.fld .HBM_STK_STATUS_TEMP h = (t / 4).toNat % 256 % 256 :=
      State.fld_setFld_same s₁ .HBM_STK_STATUS_TEMP h _ (by decide) (by decide)
    rw [hset]
    omega
  have h₃ : s₂.FldKept .HBM_STK_STATUS_TEMP s₃ := (State.FldKept.refl _ s₂).modPwr
  have hstack := (h₃.setFld (g := .PWR_THERMAL_STACK_C) (j := 0) (v := hot.1) (by decide) (by decide)).setFld (g := .PWR_THERMAL_STACK)
    (j := 0) (v := hot.2) (by decide) (by decide)
  exact (hstack.thermalStatus (by decide) (by decide) (by decide) (by decide) (by decide) h hn).trans htemp

/-- Settles O15: the energy of a window is added and its power shown, and a reading that is taken stands. -/
theorem sensorEvents : Obligations.SensorEvents := by
  refine ⟨fun s nJ v i b hrun => ⟨_, rfl, measureWindow_shown hrun⟩,
    fun s u i v hu hi hlo hhi hcal hnear => ⟨_, rfl, sensorRead_took hu hi hlo hhi hcal hnear⟩,
    fun s h v hh hlo hhi hcal hnear hgood => ⟨_, rfl, hbmTempRead_shown hh hlo hhi hcal hnear hgood⟩⟩

end Sys2Proof.Machine
end
